-- ==== Sys2Proof/Word.lean ====
section
/-! DEFINITION. The plain data everything else is written over: bytes, 16-bit words, moments, and tables of a fixed
number of like things (spec/00_scope.md: Units, Numbers, Arithmetic). -/

namespace Sys2Proof

/-- One data byte of a CAN frame. -/
abbrev Byte := BitVec 8

/-- One 16-bit word of a descriptor, of consist memory or of line data. Sums are taken modulo 65536. -/
abbrev Word := BitVec 16

/-- A moment, in µs (the unit of the trailer line and of the direct-line tick). -/
abbrev Time := Nat

/-- A duration of `n` milliseconds, in µs. -/
def ms (n : Nat) : Nat := n * 1000

/-- A value clamped to a range: the bound it lies beyond, otherwise the value itself. -/
def clamp (lo hi v : Nat) : Nat := if v < lo then lo else if hi < v then hi else v

/-- The distance between two numbers. -/
def gap (a b : Nat) : Nat := (a - b) + (b - a)

/-- A table of exactly `n` cells, read and written by number. -/
structure Tab (α : Type) (n : Nat) where
  cells : Vector α n
  deriving DecidableEq, Repr

/-- The table whose every cell holds `a`. -/
def Tab.fill {α : Type} {n : Nat} (a : α) : Tab α n := ⟨Vector.replicate n a⟩

/-- The cell numbered `i`. -/
def Tab.get {α : Type} {n : Nat} (t : Tab α n) (i : Fin n) : α := t.cells.get i

/-- The table with cell `i` replaced. -/
def Tab.put {α : Type} {n : Nat} (t : Tab α n) (i : Fin n) (a : α) : Tab α n := ⟨t.cells.set i.1 a i.2⟩

/-- The table with cell `i` changed by `f`. -/
def Tab.upd {α : Type} {n : Nat} (t : Tab α n) (i : Fin n) (f : α → α) : Tab α n := t.put i (f (t.get i))

/-- The cells in ascending number. -/
def Tab.toList {α : Type} {n : Nat} (t : Tab α n) : List α := t.cells.toArray.toList

/-- Every cell changed by `f`, which is told the cell's number. -/
def Tab.mapIdx {α : Type} {n : Nat} (f : Fin n → α → α) (t : Tab α n) : Tab α n :=
  ⟨⟨(List.zipWith f (List.finRange n) t.cells.toArray.toList).toArray, by simp⟩⟩

/-- Every cell changed by `f`. -/
def Tab.map {α β : Type} {n : Nat} (f : α → β) (t : Tab α n) : Tab β n :=
  ⟨⟨(t.cells.toArray.toList.map f).toArray, by simp⟩⟩

end Sys2Proof
end

