-- ==== Sys2Proof/Config.lean ====
section
/-! DEFINITION. The figures the manual fixes for every TL-640: durations, capacities, ranges and power-on defaults,
each with the rule that gives it, and the one free value: a word the manual does not state. -/

namespace Sys2Proof.Config

/-- R24: the reply timeout, and R29: the POLL reply window. -/
def replyTimeout : Nat := 2000
/-- R32: the unheard counter is held at 3. -/
def unheardLimit : Nat := 3
/-- R38: the wait after an unsuccessful ASSIGN. -/
def enumSpacing : Nat := ms 50
/-- R38: the wait after a successful ASSIGN. -/
def enumSettle : Nat := ms 20
/-- R39: attempts made for one number before the chain end is taken. -/
def enumAttempts : Nat := 3
/-- R57: how long CPL must hold before the debounced state follows it. -/
def couplingHold : Nat := ms 250
/-- R59: the chain probe. -/
def chainProbe : Nat := ms 1000
/-- R70: the exercise deadline after the entry. -/
def exerciseDeadline : Nat := ms 10000
/-- R74: the wait before an actuator first read that found motion is repeated. -/
def firstReadRepeat : Nat := ms 100
/-- R98: the retry time of an unavailable entry. -/
def unavailableRetry : Nat := ms 1000
/-- R111: the wait before a stop that ended not Ready is offered again. -/
def stopRepeat : Nat := ms 100
/-- R155, R156: the spacing of watch reads. -/
def watchSpacing : Nat := ms 100
/-- R155: the unit of the function record's interval. -/
def intervalUnit : Nat := ms 100
/-- R142, R143: the wait before a node-lamp reading. -/
def nodeLampWait : Nat := ms 50
/-- R164: the next poll time after a POLL's end. -/
def pollSpacing : Nat := ms 20
/-- R167: functions one service round may name. -/
def roundLimit : Nat := 16
/-- R167: the service pause of a round that reached its limit. -/
def servicePause : Nat := ms 1000
/-- R170: the wait before a not-Ready item is repeated. -/
def sequenceRepeat : Nat := ms 10
/-- R181: the attempt timer of a LOST position. -/
def attemptTimer : Nat := ms 1000
/-- R183: the LOST timer's limit. -/
def lostLimit : Nat := ms 30000
/-- R18: the standstill that makes the motion state STATIONARY. -/
def standstill : Nat := ms 2000
/-- R125: the spacing of supply readings. -/
def supplySpacing : Nat := ms 10
/-- R196: the longest wait for the RESET-DEVICE reply to be sent. -/
def resetWait : Nat := ms 100
/-- R198: the CONSIST timer. -/
def consistSpacing : Nat := ms 100
/-- R199: the refresh time of RESULT frames. -/
def resultRefresh : Nat := ms 1000
/-- R199: a refresh is placed only while fewer frames than this are queued. -/
def refreshRoom : Nat := 8
/-- R49: items each capture of a stream holds. -/
def captureCapacity : Nat := 64
/-- R197: frames the transmit queue holds. -/
def txCapacity : Nat := 16
/-- R192: requests the Request List holds. -/
def requestCapacity : Nat := 4
/-- R113: records the Fault List holds. -/
def faultCapacity : Nat := 8
/-- R132: entries of a Contributor List. -/
def contributorCapacity : Nat := 16
/-- R145: entries of the Exercise Queue. -/
def queueCapacity : Nat := 16
/-- R144: codes of a pending list of opportunistic checks. -/
def opportunisticCapacity : Nat := 64
/-- R90: blocks that may be pinned. -/
def pinLimit : Nat := 12
/-- R116: the least and greatest period, and the period after power-on reset. -/
def periodMin : Nat := 999
def periodMax : Nat := 19999
def periodDefault : Nat := 4999
/-- R126: on-counts below this are not sampled. -/
def sampleFloor : Nat := 50
/-- R127: the current of one sense count, in mA. -/
def senseStep : Nat := 5
/-- R16: the stale timeout's default and range, in ms. -/
def staleDefault : Nat := 500
def staleMin : Nat := 100
def staleMax : Nat := 2000
/-- R148: the exercise window length's default and range, in ms. -/
def windowDefault : Nat := 400
def windowMin : Nat := 200
def windowMax : Nat := 2000
/-- R148: the node-lamp tolerance (%) and threshold (mA): defaults and upper bounds. -/
def toleranceDefault : Nat := 20
def toleranceMax : Nat := 50
def thresholdDefault : Nat := 20
def thresholdMax : Nat := 1000
/-- R125: V_ref after a reset, in mV. -/
def vrefDefault : Nat := 24000
/-- R190: the base identifiers of request, reply and status frames. -/
def requestId : Nat := 0x6A0
def replyId : Nat := 0x6B0
def statusId : Nat := 0x6C0
/-- The word taken from the n-th reply to a GET or READ-WORD that is Heard and Ready and yet carries no data. R23 calls
the data of such a reply valid, and R21 lets it be none: the manual states no word here, and nothing constrains this one
(DESIGN CHOICE, notes/assumptions/4.md). -/
opaque freeWord : Nat → Word
/-- How many notices one command may have acted on before it rests; those left wait in State for the next command
(DESIGN CHOICE, notes/assumptions/3.md). -/
def noticeBound : Nat := 100000

end Sys2Proof.Config
end

