-- ==== Sys2Proof/Syntax.lean ====
section
/-! DEFINITION. The commands of the part, one constructor per row of spec/opcode_table.json, with the operands that the
row's rules speak of. The block fetches nothing: a command is an event at its three paths (a CAN frame, a line reply, a
pin), the running out of one of its own timers, or the serving of the request at the head of the Request List. -/

namespace Sys2Proof

/-- A trailer position; position p of the manual is the number p − 1 here (R: spec/00_scope.md, Positions). -/
abbrev Pos := Fin 4

/-- A function code g/mm as the number 16 × g + mm, in catalogue order (R1, R190). -/
abbrev Code := Fin 192

/-- A function group. -/
abbrev Group := Fin 12

/-- A direct line, and the circuit of its wire. -/
abbrev LineNo := Fin 8

/-- The identifier format of a CAN frame (R2, R3). -/
inductive FrameFormat where
  | standard | extended
  deriving DecidableEq, Repr

/-- A frame received without error (R2). Bytes at and beyond the data length are not looked at. -/
structure CanFrame where
  format : FrameFormat
  remote : Bool
  id : Nat
  dlc : Nat
  data : Tab Byte 8
  deriving DecidableEq, Repr

/-- A sound reply on the trailer line (R21). -/
structure Reply where
  heard : Bool
  ready : Bool
  service : Bool
  data : Option Word
  deriving DecidableEq, Repr

/-- The two line timebases (R116). -/
inductive TbName where
  | a | b
  deriving DecidableEq, Repr

/-- The two direct-line fault groups (R128). -/
inductive FaultGroup where
  | fa | fb
  deriving DecidableEq, Repr

/-- What started a node-lamp check (R142). -/
inductive CheckSource where
  | slot | opportunistic
  deriving DecidableEq, Repr

/-- The levels at the input pins as a reset finds them: straps ID0 and ID1, CPL, FA and FB (R2, R57, R128). -/
structure Pins where
  straps : Fin 4
  cpl : Bool
  fa : Bool
  fb : Bool
  deriving DecidableEq, Repr

/-- The commands. The docstring of each names the rule its row cites. -/
inductive Instr where
  /-- R37. `pins`: the input levels at the reset; `cut`: the reset falls after the first word of a record write
  in progress and before its checksum word (R186). -/
  | powerOnReset (pins : Pins) (cut : Bool)
  /-- R196. `straps`: the strap value read at the reset (R2). -/
  | deviceReset (straps : Fin 4)
  /-- R2. -/
  | canFrameReceived (frame : CanFrame)
  /-- R15, for one Command Table entry. -/
  | commandStale (f : Code)
  /-- R17. -/
  | speedStale
  /-- R18. -/
  | stopTimerExpiry
  /-- R57. `present`: the level CPL changes to. -/
  | cplChange (present : Bool)
  /-- R58. -/
  | couplingRise
  /-- R58. -/
  | couplingFall
  /-- R59. -/
  | chainProbe
  /-- R38. -/
  | enumerationSpacingEnd
  /-- R39. -/
  | enumerationSettleEnd
  /-- R23. -/
  | transactionEnd (r : Reply)
  /-- R24. -/
  | replyDeadline
  /-- R29. `slots`: the slots of positions 1 to 4 that carried a sound answer. -/
  | pollWindowEnd (slots : Tab Bool 4)
  /-- R74. -/
  | exerciseReadRepeat (p : Pos) (f : Code)
  /-- R77. -/
  | exerciseDeadline (p : Pos)
  /-- R98. -/
  | unavailableRetry (p : Pos) (f : Code)
  /-- R111. -/
  | stopRepeat (p : Pos) (f : Code)
  /-- R151. -/
  | periodicReadDue (p : Pos) (f : Code)
  /-- R156. -/
  | watchReadDue (p : Pos) (f : Code)
  /-- R157. -/
  | actuatorWatchTimeout (p : Pos) (f : Code)
  /-- R142. -/
  | nodeLampReadingDue (p : Pos) (src : CheckSource)
  /-- R143. -/
  | nodeLampCheckExpiry (p : Pos) (src : CheckSource)
  /-- R147. -/
  | exerciseSlotExpiry
  /-- R164. -/
  | pollTime
  /-- R170. -/
  | sequenceRepeat
  /-- R170. -/
  | sequenceItemTimeout
  /-- R181. -/
  | recoveryAttempt (p : Pos)
  /-- R183. -/
  | lostTimeout (p : Pos)
  /-- R124. -/
  | periodBoundary (tb : TbName)
  /-- R126. `code`: what the line's sense input reads, 0 to 4095. -/
  | senseSample (k : LineNo) (code : Nat)
  /-- R128. -/
  | groupTrip (g : FaultGroup)
  /-- R128. -/
  | faultInputDeasserted (g : FaultGroup)
  /-- R125. `mv`: the reading at VSN, 0 to 40950 mV in steps of 10. -/
  | supplyReading (mv : Nat)
  /-- R131. -/
  | holdTimeout (k : LineNo)
  /-- R198. -/
  | consistTimer
  /-- R199. -/
  | resultRefresh
  /-- R197. -/
  | frameSent
  /-- R186. -/
  | recordWriteComplete
  /-- R187. -/
  | rebuildComplete
  /-- R188. -/
  | forgetWriteComplete
  /-- R189. -/
  | headerWriteComplete
  /-- R194: the head of the Request List, a READ-STATE, is served. So with each request below. -/
  | readState
  /-- R193. -/
  | writeDecodeFirstPart
  /-- R4. -/
  | writeDecodeSecondPart
  /-- R5. -/
  | readDecode
  /-- R107. -/
  | writePolicy
  /-- R107. -/
  | readPolicy
  /-- R119. -/
  | writeWired
  /-- R119. -/
  | readWired
  /-- R117. -/
  | writeTimebase
  /-- R195. -/
  | setSystem
  /-- R100. -/
  | setFunction
  /-- R93. -/
  | clearOverride
  /-- R101. -/
  | getFunction
  /-- R92. -/
  | clearActivity
  /-- R90. -/
  | pinGroup
  /-- R90. -/
  | unpinGroup
  /-- R148. -/
  | recheck
  /-- R169. -/
  | startSequence
  /-- R172. -/
  | abortSequence
  /-- R173. -/
  | readSequenceItem
  /-- R115. -/
  | readFault
  /-- R115. -/
  | clearFault
  /-- R129. -/
  | rearmLines
  /-- R178. -/
  | releasePosition
  /-- R188. -/
  | forgetConsist
  /-- R189. -/
  | resetDevice
  /-- R197. -/
  | frameTransmissionStart
  deriving DecidableEq, Repr

end Sys2Proof
end

