-- ==== Sys2Proof/WellFormed.lean ====
section
/-! DEFINITION. Which commands are well formed: their operands lie in the ranges the manual gives them. A command that is
not well formed stands for nothing that can happen at the part's pins. -/

namespace Sys2Proof

/-- R2, R3: an 11-bit or a 29-bit identifier, and a data length code of four bits. -/
def CanFrame.wellFormed (f : CanFrame) : Bool :=
  (match f.format with
    | .standard => decide (f.id < 2 ^ 11)
    | .extended => decide (f.id < 2 ^ 29)) && decide (f.dlc < 16)

/-- R127: a sense code is 0 to 4095. -/
def senseCodeOk (code : Nat) : Bool := decide (code ≤ 4095)

/-- R125: a supply reading is 0 to 40950 mV in steps of 10 mV. -/
def supplyOk (mv : Nat) : Bool := decide (mv ≤ 40950) && decide (mv % 10 = 0)

/-- The operands of the command lie in their ranges. -/
def Instr.wellFormed (i : Instr) : Bool :=
  match i with
  | .canFrameReceived f => f.wellFormed
  | .senseSample _ code => senseCodeOk code
  | .supplyReading mv => supplyOk mv
  | .powerOnReset _ _ | .deviceReset _ | .commandStale _ | .speedStale | .stopTimerExpiry | .cplChange _
  | .couplingRise | .couplingFall | .chainProbe | .enumerationSpacingEnd | .enumerationSettleEnd | .transactionEnd _
  | .replyDeadline | .pollWindowEnd _ | .exerciseReadRepeat _ _ | .exerciseDeadline _ | .unavailableRetry _ _
  | .stopRepeat _ _ | .periodicReadDue _ _ | .watchReadDue _ _ | .actuatorWatchTimeout _ _ | .nodeLampReadingDue _ _
  | .nodeLampCheckExpiry _ _ | .exerciseSlotExpiry | .pollTime | .sequenceRepeat | .sequenceItemTimeout
  | .recoveryAttempt _ | .lostTimeout _ | .periodBoundary _ | .groupTrip _ | .faultInputDeasserted _ | .holdTimeout _
  | .consistTimer | .resultRefresh | .frameSent | .recordWriteComplete | .rebuildComplete | .forgetWriteComplete
  | .headerWriteComplete | .readState | .writeDecodeFirstPart | .writeDecodeSecondPart | .readDecode | .writePolicy
  | .readPolicy | .writeWired | .readWired | .writeTimebase | .setSystem | .setFunction | .clearOverride | .getFunction
  | .clearActivity | .pinGroup | .unpinGroup | .recheck | .startSequence | .abortSequence | .readSequenceItem
  | .readFault | .clearFault | .rearmLines | .releasePosition | .forgetConsist | .resetDevice
  | .frameTransmissionStart => true

end Sys2Proof
end

