-- ==== Sys2Proof/Machine/State.lean ====
section
/-! DEFINITION. The state of the part, block by block as spec/00_scope.md lists the blocks, the names it is written in,
the outcomes a step may stop with, and the state right after power-on reset. -/

namespace Sys2Proof.Machine

/-! ## Names -/

/-- R1: the kind of a function code. -/
inductive FnKind where
  | lamp | sensor | actuator
  deriving DecidableEq, Repr

/-- R3: the decode kinds, in the order of the rule. -/
inductive DecodeKind where
  | switch | phase | level | actuator | speed
  deriving DecidableEq, Repr

/-- Section 1.9: the motion state. -/
inductive Motion where
  | stationary | moving
  deriving DecidableEq, Repr

/-- R55: the states of a position, in the order of the rule. -/
inductive PosState where
  | vacant | identifying | describing | exercising | running | wired | rejected | lost
  deriving DecidableEq, Repr

/-- R91: the check results, in the order of the rule. -/
inductive CheckResult where
  | unchecked | deferred | ok | low | high | openCircuit | short | out | noReply | sensorFault | actTimeout
  deriving DecidableEq, Repr

/-- R104, R190: the access kinds, in the order of the set encoding. -/
inductive AccessKind where
  | tss | tsm | exs | mgs | mgr | rdp
  deriving DecidableEq, Repr

/-- R113: the fault kinds, in the order of the rule. -/
inductive FaultKind where
  | policyRefused | noSpace | descriptorBad | pointUnknown | nodeLost | lineTrip | groupTrip | actTimeout | checksumBad
  deriving DecidableEq, Repr

/-- R45: feed kinds. -/
inductive Feed where
  | node | wired
  deriving DecidableEq, Repr

/-- R45: point kinds; the fourth written value names no kind. -/
inductive PointKind where
  | lamp | sensor | actuator | noKind
  deriving DecidableEq, Repr

/-- R45: load kinds. -/
inductive LoadKind where
  | resistive | constPower | constCurrent
  deriving DecidableEq, Repr

/-- R21: line operations. -/
inductive LineOp where
  | assign | set | get | readWord | poll | release
  deriving DecidableEq, Repr

/-- R23: how a transaction other than POLL ends. -/
inductive LineOutcome where
  | ready | notReady | notHeard | unheard
  deriving DecidableEq, Repr

/-- R33: the blocks that make offers. -/
inductive Requester where
  | deliveryUnit | bindingStore | servicePoller | consistController | loadCheckUnit | sequenceUnit
  deriving DecidableEq, Repr

/-- R34: arbiter class c is the number c − 1. -/
abbrev ArbClass := Fin 7

/-- R21: a position of a request, 0 to 4. -/
abbrev LinePos := Fin 5

/-- R80: a binding block. -/
abbrev BlockNo := Fin 16

/-- R137, R132: the classes of an outcome. -/
inductive OutClass where
  | ok | low | high | openCircuit | outAttributed | short
  deriving DecidableEq, Repr

/-- R119: compensation modes. -/
inductive CompMode where
  | none | resistive
  deriving DecidableEq, Repr

/-- R80: block states. -/
inductive BlockState where
  | free | fetching | loaded
  deriving DecidableEq, Repr

/-- R38: phases of an enumeration pass. -/
inductive EnumPhase where
  | offered | inFlight | spacing | settling
  deriving DecidableEq, Repr

/-- R174: phases of a release. -/
inductive ReleasePhase where
  | offered | inFlight
  deriving DecidableEq, Repr

/-- R48, R53: verdicts of an identification. -/
inductive IdentVerdict where
  | identified | badHeader | readFailed | format
  deriving DecidableEq, Repr

/-- R185: the restart code of the store's header. -/
inductive RestartCode where
  | none | deviceReset
  deriving DecidableEq, Repr

/-- R185: the restart cause. -/
inductive RestartCause where
  | powerOn | deviceReset
  deriving DecidableEq, Repr

/-- R169: states of the Sequence Unit. -/
inductive SeqState where
  | idle | running | ended
  deriving DecidableEq, Repr

/-- R169: end codes (the absent one is `none` of Option). -/
inductive SeqEnd where
  | complete | abortedNotReady | timeout | walkDone | aborted | positionLost
  deriving DecidableEq, Repr

/-- R169: what a sequence reads. -/
inductive SeqOp where
  | get | readWord
  deriving DecidableEq, Repr

/-- R169: sequence modes, in the order of the rule. -/
inductive SeqMode where
  | stopOnNotReady | ignoreReady | repeatUntilReady | walk
  deriving DecidableEq, Repr

/-- R190: results of a reply. -/
inductive ResultCode where
  | ok | badArg | busy | notFitted | refused | notReady | noSpace
  deriving DecidableEq, Repr

/-- R143: the two GETs of a node-lamp reading. -/
inductive ReadingStep where
  | supply | lamp
  deriving DecidableEq, Repr

/-! ## Command Decoder (chapter 1) -/

/-- R3: a valid Decode Table entry; an invalid one is absent. -/
structure DecodeEntry where
  format : FrameFormat
  id : Nat
  byte : Nat
  bit : Nat
  width : Nat
  kind : DecodeKind
  code : Option Code
  deriving DecidableEq, Repr

/-- R13: a Command Table entry. `since` is the moment of the last update, from which the age is counted. -/
structure CommandEntry where
  value : Nat := 0
  kind : Option DecodeKind := none
  since : Option Time := none
  fresh : Bool := false
  neverUpdated : Bool := true
  deriving DecidableEq, Repr

/-- R12: the speed record. -/
structure SpeedRecord where
  speed : Option Nat := none
  since : Option Time := none
  fresh : Bool := false
  deriving DecidableEq, Repr

/-- Decode Table, Command Table, speed record and motion state (R3, R13, R12, R17, R18). -/
structure Decoder where
  entries : Tab (Option DecodeEntry) 48 := Tab.fill none
  commands : Tab CommandEntry 192 := Tab.fill {}
  speed : SpeedRecord := {}
  motion : Motion := .moving
  stopTimer : Option Time := none
  deriving DecidableEq, Repr

/-- R195: the system settings. -/
structure Settings where
  vref : Nat := Config.vrefDefault
  stale : Nat := Config.staleDefault
  window : Nat := Config.windowDefault
  tolerance : Nat := Config.toleranceDefault
  threshold : Nat := Config.thresholdDefault
  deriving DecidableEq, Repr

/-! ## Descriptors and the Consist Controller (chapters 2, 3, 4, 11) -/

/-- R44: a directory entry. -/
structure DirEntry where
  policyClass : Fin 8
  members : Nat
  locator : Nat
  deriving DecidableEq, Repr

/-- R44: the directory, indexed by group. -/
abbrev Directory := Tab (Option DirEntry) 12

/-- R45: a function record as decoded. -/
structure FnRecord where
  point : Nat
  feed : Feed
  pointKind : PointKind
  fnClass : Fin 8
  nominal : Nat
  loadKind : LoadKind
  required : Bool
  interval : Nat
  deriving DecidableEq, Repr

/-- R42: the identity of a trailer. -/
structure Identity where
  builder : Word
  serial : BitVec 32
  length : Nat
  checksum : Word
  revision : Word
  deriving DecidableEq, Repr

/-- R49: an item of a contributor capture. -/
structure WireItem where
  circuit : LineNo
  code : Code
  nominal : Nat
  loadKind : LoadKind
  deriving DecidableEq, Repr

/-- R49: the stream record, with what an identification under way has taken (`identNext`, `identWords`), the word A of
the directory entry being read, and whether the read is a warm one (R67). -/
structure StreamRecord where
  active : Bool := false
  header : Option (Tab Word 8) := none
  next : Option Nat := none
  sum : Word := 0
  directory : Directory := Tab.fill none
  taken : Nat := 0
  wires : List WireItem := []
  required : List Code := []
  buffer : List Word := []
  bufferOf : Option Code := none
  warm : Bool := false
  wordA : Option Word := none
  identNext : Option Nat := none
  identWords : List Word := []
  deriving DecidableEq, Repr

/-- R70: a lamp item of an exercise plan, and the target of an Exercise Queue entry (R145). -/
inductive LampItem where
  | circuit (k : LineNo)
  | lamp (f : Code)
  deriving DecidableEq, Repr

/-- R77: how the last issue of a first read ended, where one has. -/
inductive FirstReadEnd where
  | notIssued | issued | unheard | notReady
  deriving DecidableEq, Repr

/-- R74: a first read outstanding; `notBefore` is the moment its repeat is held to. -/
structure FirstRead where
  code : Code
  point : Nat
  last : FirstReadEnd := .notIssued
  notBefore : Option Time := none
  deriving DecidableEq, Repr

/-- R55: a Consist Table record. `awaited` lists the sensor and actuator functions of R71 that R73 has found, and `kept` those
whose result was other than UNCHECKED at the entry to EXERCISING (R70, R182); the LOST timer is in µs. -/
structure ConsistRecord where
  state : PosState := .vacant
  identity : Option Identity := none
  warm : Bool := false
  directory : Directory := Tab.fill none
  required : List Code := []
  lampItems : List LampItem := []
  groupItems : List Group := []
  firstReads : List FirstRead := []
  deadline : Option Time := none
  attempts : Nat := 0
  lostTimer : Option Nat := none
  prior : Option PosState := none
  attemptTimer : Option Time := none
  attemptUnderWay : Bool := false
  awaited : List Code := []
  kept : List Code := []
  deriving DecidableEq, Repr

/-- R38: the enumeration pass record. `wait` is the end of a SPACING or SETTLING wait, `heard` whether an attempt at
this number was Heard (R39), `ending` that the pass ends at the end of its ASSIGN in flight (R40). -/
structure EnumPass where
  active : Bool := false
  n : Option Pos := none
  attempts : Nat := 0
  phase : EnumPhase := .offered
  wait : Time := 0
  heard : Bool := false
  ending : Bool := false
  deriving DecidableEq, Repr

/-- R174: the release record. -/
structure ReleaseRecord where
  active : Bool := false
  lowest : Option Pos := none
  current : Option Pos := none
  phase : Option ReleasePhase := none
  heldTrigger : Bool := false
  replyOwed : Bool := false
  deriving DecidableEq, Repr

/-- The Consist Controller: Consist Table, stream records, pass and release records, coupling sense, chain probe, and the
start-up sweep (`sweep`: the position whose RELEASE the sweep has reached, none once it is complete; `sweepTrigger`: a
trigger held to its end, R37, R58). `cplTimer` is the moment the hold timer started from 0, none while it is stopped. -/
structure Consist where
  table : Tab ConsistRecord 4 := Tab.fill {}
  streams : Tab StreamRecord 4 := Tab.fill {}
  pass : EnumPass := {}
  release : ReleaseRecord := {}
  sweep : Option Pos := none
  sweepTrigger : Bool := false
  cplLevel : Bool := false
  cplPresent : Bool := false
  cplTimer : Option Time := none
  probeAt : Option Time := none
  deriving DecidableEq, Repr

/-! ## Line Controller (chapter 2) -/

/-- What its requester wants an offer for, kept with the offer so that its end can be acted on. -/
inductive Purpose where
  | enumAssign (n : Pos)
  | recoveryAssign (p : Pos)
  | recoveryGet (p : Pos)
  | sweepRelease (p : Pos)
  | positionRelease (p : Pos)
  | strayRelease (p : Pos)
  | identWord (p : Pos) (addr : Nat)
  | streamWord (p : Pos) (addr : Nat)
  | firstRead (p : Pos) (f : Code)
  | nodeLamp (p : Pos) (src : CheckSource) (f : Code) (step : ReadingStep)
  | fetchWord (p : Pos) (g : Group) (b : BlockNo) (addr : Nat)
  | pollAll
  | serviceWord (p : Pos)
  | serviceRead (p : Pos) (f : Code)
  | delivery (p : Pos) (f : Code) (value : Nat) (kind : AccessKind) (interval : Nat)
  | stop (p : Pos) (f : Code)
  | managementRead (p : Pos) (f : Code)
  | periodicRead (p : Pos) (f : Code) (interval : Nat)
  | watchRead (p : Pos) (f : Code)
  | sequenceItem (p : Pos) (addr : Nat) (run : Nat)
  deriving DecidableEq, Repr

/-- R33: an offer, with the request it would issue (R21). -/
structure Offer where
  requester : Requester
  cls : ArbClass
  pos : LinePos
  op : LineOp
  addr : Option Nat
  data : Option Word
  why : Purpose
  deriving DecidableEq, Repr

/-- R35: the in-flight record. `ended` is set from the end of the transaction until step 6 of R35 clears the record. -/
structure Flight where
  offer : Offer
  deadline : Time
  discard : Bool := false
  ended : Bool := false
  deriving DecidableEq, Repr

/-- The Line Controller (R32 to R35). -/
structure LineCtl where
  offers : List Offer := []
  flight : Option Flight := none
  unheard : Tab Nat 4 := Tab.fill 0
  lastServed : Tab LinePos 7 := Tab.fill 4
  lastGranted : Tab (Tab (Option Requester) 5) 7 := Tab.fill (Tab.fill none)
  deriving DecidableEq, Repr

/-! ## Binding Store (chapter 5) -/

/-- R83: who waits on a fetch. -/
inductive Waiter where
  | delivery (p : Pos) (f : Code) (kind : AccessKind)
  | stop (p : Pos) (f : Code)
  | managementRead (p : Pos) (f : Code)
  | scheduledRead (p : Pos) (f : Code)
  | plan (p : Pos)
  | nodeLamp (p : Pos) (src : CheckSource)
  | rebuild
  | service (p : Pos)
  deriving DecidableEq, Repr

/-- R79: what the Binding Store adds to a group's directory entry. -/
structure GroupRecord where
  block : Option BlockNo := none
  fetchFailed : Bool := false
  noSpace : Bool := false
  deriving DecidableEq, Repr

/-- R81: a valid row; an invalid one is absent. -/
structure Row where
  unusable : Bool
  reported : Bool
  record : FnRecord
  deriving DecidableEq, Repr

/-- R80: a binding block. `words` are the words already taken of the record being fetched, `waiters` its wait set (R83),
`pinned` its pinned flag. -/
structure Block where
  state : BlockState := .free
  owner : Option (Pos × Group) := none
  referenced : Bool := false
  pinned : Bool := false
  progress : Option (Nat × Nat) := none
  rows : Tab (Option Row) 16 := Tab.fill none
  words : List Word := []
  waiters : List Waiter := []
  deriving DecidableEq, Repr

/-- The Binding Store. -/
structure Binding where
  groups : Tab (Tab GroupRecord 12) 4 := Tab.fill (Tab.fill {})
  blocks : Tab Block 16 := Tab.fill {}
  pointer : BlockNo := 15
  deriving DecidableEq, Repr

/-! ## Delivery Unit (chapters 5, 6, 9) -/

/-- R91: a Position Status entry; `watchUnits` is the completion timeout of the running watch, in units of 100 ms (R155,
R157), and `timeoutHold` that of R158. `override` is the management override, `due` times are moments. -/
structure StatusEntry where
  delivered : Option Nat := none
  override : Option Nat := none
  result : CheckResult := .unchecked
  driven : Bool := false
  read : Bool := false
  changed : Bool := false
  lastValue : Option Word := none
  unavailable : Bool := false
  retryAt : Option Time := none
  refusalLatch : Bool := false
  readLatch : Bool := false
  notFitted : Bool := false
  watchDeadline : Option Time := none
  nextRead : Option Time := none
  timeoutHold : Bool := false
  watchUnits : Nat := 0
  deriving DecidableEq, Repr

/-- R109, R111: an owed stop; `notBefore` is the moment its repeat is held to. -/
structure OwedStop where
  code : Code
  notBefore : Option Time := none
  deriving DecidableEq, Repr

/-- R100: the SET-FUNCTION whose reply waits. -/
structure PendingOverride where
  pos : Pos
  code : Code
  value : Nat
  deriving DecidableEq, Repr

/-- R101: the GET-FUNCTION whose reply waits; the point is none while its fetch is waited on. -/
structure PendingRead where
  pos : Pos
  code : Code
  point : Option Nat
  deriving DecidableEq, Repr

/-- The Delivery Unit. `lastOffered` holds, per position, the last-offered function of class 1 and of class 2 (R96). -/
structure Delivery where
  status : Tab (Tab StatusEntry 192) 4 := Tab.fill (Tab.fill {})
  lastOffered : Tab (Code × Code) 4 := Tab.fill (191, 191)
  owed : Tab (List OwedStop) 4 := Tab.fill []
  lastStopped : Tab Code 4 := Tab.fill 191
  pendingOverride : Option PendingOverride := none
  pendingRead : Option PendingRead := none
  deriving DecidableEq, Repr

/-! ## Policy Check (chapter 6) -/

/-- R113: a fault record; the position, function code and access kind may be none. -/
structure FaultRecord where
  kind : FaultKind
  pos : Option Pos
  code : Option Code
  access : Option AccessKind
  detail : Nat
  followed : Bool
  deriving DecidableEq, Repr

/-- R105: the Policy Table after a reset: the entry of (c, d) is cell 8 × c + d, and a set of access kinds has bit i for
the i-th of TSS, TSM, EXS, MGS, MGR, RDP. -/
def policyDefault : Tab (BitVec 6) 64 :=
  (Tab.fill 63).mapIdx fun i _ => if i.val % 8 = 0 then 0 else 63

/-- The Policy Check: Policy Table and Fault List, oldest record first. -/
structure Policy where
  table : Tab (BitVec 6) 64 := policyDefault
  faults : List FaultRecord := []
  deriving DecidableEq, Repr

/-! ## Direct Line Unit (chapter 7) -/

/-- R116: a timebase. `start` is the moment its present period began, from which the running count is reckoned. -/
structure Timebase where
  period : Nat := Config.periodDefault
  pending : Option Nat := none
  start : Time := 0
  deriving DecidableEq, Repr

/-- R118: a line record. `hold` is the hold start time, none while the hold flag is clear; `tb` is the timebase that drives
the line, which differs from its profile's until a move is made; `joining` says that the line has moved to it and its next
period has not begun (R120); `sampled` says that its sample tick of this period has been acted on (R126). -/
structure Line where
  onCount : Nat := 0
  pendingOn : Nat := 0
  exercise : Bool := false
  trip : Bool := false
  hold : Option Time := none
  settle : Nat := 2
  lastSense : Option Nat := none
  tb : TbName := .a
  sampled : Bool := false
  joining : Bool := false
  deriving DecidableEq, Repr

/-- R119: a Wired Profile entry. -/
structure WiredEntry where
  code : Option Code := none
  timebase : TbName := .a
  comp : CompMode := .resistive
  trip : Nat := 15000
  tLo : Nat := 20
  tHi : Nat := 20
  openMin : Nat := 40
  deriving DecidableEq, Repr

/-- R119: the function codes of the profile's power-on defaults: 1/00, 1/01, 0/02, 0/00, 0/01, 0/04, 0/05, 2/04. -/
def wiredDefault : Tab WiredEntry 8 :=
  ((((((((Tab.fill {} : Tab WiredEntry 8).put 0 { code := some 16 }).put 1 { code := some 17 }).put 2
    { code := some 2 }).put 3 { code := some 0 }).put 4 { code := some 1 }).put 5 { code := some 4 }).put 6
    { code := some 5 }).put 7 { code := some 36 }

/-- The Direct Line Unit: timebases, lines, profile, the two fault inputs (asserted or not) and group trip flags, FA
first, and the supply reading with the moment of the next (R125). -/
structure Direct where
  tbA : Timebase := {}
  tbB : Timebase := {}
  lines : Tab Line 8 := Tab.fill {}
  wired : Tab WiredEntry 8 := wiredDefault
  faultA : Bool := false
  faultB : Bool := false
  tripA : Bool := false
  tripB : Bool := false
  supply : Option Nat := none
  nextSupply : Time := Config.supplySpacing
  deriving DecidableEq, Repr

/-! ## Load Check Unit (chapter 8) -/

/-- R132: an entry of a Contributor List. -/
structure Contributor where
  pos : Pos
  code : Code
  nominal : Nat
  loadKind : LoadKind
  deriving DecidableEq, Repr

/-- R132: an outcome, with the contributor named OUT. -/
structure CheckOutcome where
  cls : OutClass
  named : Option (Pos × Code) := none
  deriving DecidableEq, Repr

/-- R132: a circuit record. -/
structure Circuit where
  contributors : List Contributor := []
  overfull : Bool := false
  rebuildPending : Bool := false
  samples : List Nat := []
  last : Option CheckOutcome := none
  reported : Option CheckOutcome := none
  owed : Bool := false
  deriving DecidableEq, Repr

/-- R145: the target of a check. -/
inductive Target where
  | circuit (k : LineNo)
  | lamp (p : Pos) (f : Code)
  deriving DecidableEq, Repr

/-- R145: an Exercise Queue entry. -/
structure QueueEntry where
  target : Target
  requesters : Tab Bool 4 := Tab.fill false
  deriving DecidableEq, Repr

/-- R146: the exercise slot while it holds a check; `window` tells WINDOW from DRIVEN. -/
structure Slot where
  entry : QueueEntry
  window : Bool
  expiry : Time
  deriving DecidableEq, Repr

/-- R142: a node-lamp check. `row` is (point, N, load kind) once looked up; `step` is the GET of the reading in progress
that it asks for; `tolerance` and `threshold` are the settings it started under (R148). -/
structure NodeLampCheck where
  code : Code
  row : Option (Nat × Nat × LoadKind) := none
  counted : Nat := 0
  lastClass : Option OutClass := none
  supply : Option Nat := none
  step : Option ReadingStep := none
  nextReading : Option Time := none
  expiry : Time
  tolerance : Nat
  threshold : Nat
  deriving DecidableEq, Repr

/-- R135: a rebuild under way: its circuit, the place it has reached among the 16 (position, lamp group) pairs, and
whether it is marked incomplete or has had an addition turned away. -/
structure Rebuild where
  circuit : LineNo
  cursor : Nat := 0
  incomplete : Bool := false
  turnedAway : Bool := false
  deriving DecidableEq, Repr

/-- The Load Check Unit. -/
structure LoadCheck where
  circuits : Tab Circuit 8 := Tab.fill {}
  queue : List QueueEntry := []
  slot : Option Slot := none
  slotChecks : Tab (Option NodeLampCheck) 4 := Tab.fill none
  oppChecks : Tab (Option NodeLampCheck) 4 := Tab.fill none
  oppPending : Tab (List Code) 4 := Tab.fill []
  rebuild : Option Rebuild := none
  deriving DecidableEq, Repr

/-! ## Service Poller and Sequence Unit (chapter 10) -/

/-- R163: a round record; `reading` tells phase FUNCTION from WORD, `waiting` that its lookup waits (R167). -/
structure Round where
  reading : Bool := false
  code : Option Code := none
  point : Option Nat := none
  count : Nat := 0
  waiting : Bool := false
  deriving DecidableEq, Repr

/-- R163: the Service Poller. A pause whose moment has passed reads as none (R165). -/
structure Service where
  nextPoll : Option Time := some 0
  pendingSet : Tab Bool 4 := Tab.fill false
  rounds : Tab Round 4 := Tab.fill {}
  pauses : Tab (Option Time) 4 := Tab.fill none
  deriving DecidableEq, Repr

/-- R169: an item of the result buffer. -/
structure SeqItem where
  pos : Pos
  addr : Nat
  heard : Bool
  ready : Bool
  data : Option Word
  deriving DecidableEq, Repr

/-- R169: the sequence record and result buffer; `repeatAt` is the moment a pending repeat is offered (R170), and `run`
numbers the sequences started, so that an item of an earlier one is known as such at its end (R172). -/
structure Sequence where
  state : SeqState := .idle
  endCode : Option SeqEnd := none
  op : Option SeqOp := none
  mode : Option SeqMode := none
  count : Option Nat := none
  timeout : Option Nat := none
  pos : Option Pos := none
  addr : Option Nat := none
  itemStart : Option Time := none
  repeatAt : Option Time := none
  buffer : List SeqItem := []
  run : Nat := 0
  deriving DecidableEq, Repr

/-! ## Consist Memory (chapter 12) -/

/-- R185: the content of a valid remembered record. -/
structure Remembered where
  builder : Word
  serial : BitVec 32
  checksum : Word
  directory : Directory
  deriving DecidableEq, Repr

/-- R185: the non-volatile store. `torn` says that a write was cut short between its first record word and its checksum
word (R186), which the checksum test finds. -/
structure Store where
  code : RestartCode := .none
  records : Tab (Option Remembered) 4 := Tab.fill none
  checksum : Word := 0
  torn : Bool := false
  deriving DecidableEq, Repr

/-- R185: the write in progress. A header write carries the code it writes, a forget write the code the header will hold
and whether it stands for the header write of RESET-DEVICE (R189). -/
inductive Writing where
  | record (p : Pos) (content : Remembered)
  | rebuild (p : Pos) (content : Remembered)
  | header (code : RestartCode)
  | forget (code : RestartCode) (forReset : Bool)
  deriving DecidableEq, Repr

/-- R185: the Consist Memory. -/
structure Memory where
  store : Store := {}
  invalid : Bool := false
  mismatch : Tab Bool 4 := Tab.fill false
  pendingWrites : Tab (Option Remembered) 4 := Tab.fill none
  writing : Option Writing := none
  cause : Option RestartCause := some .powerOn
  deriving DecidableEq, Repr

/-! ## Management Handler and Tractor Port (chapter 13) -/

/-- R191: a request taken into the Request List. -/
structure Request where
  code : Byte
  tag : Byte
  args : List Byte
  deriving DecidableEq, Repr

/-- R192: how far the head request has come: not yet handed on, with its owner, or answered by a reply that waits for a
place in the transmit queue. -/
inductive HeadState where
  | waiting
  | handed
  | answered (result : ResultCode) (bytes : List Byte)
  deriving DecidableEq, Repr

/-- R193: the decode staging record. -/
structure Staging where
  entry : Nat
  format : FrameFormat
  id : Nat
  deriving DecidableEq, Repr

/-- The Management Handler. `resetPlaced` is the moment the RESET-DEVICE reply was placed, `resetSent` that it has been
sent (R196). -/
structure Management where
  requests : List Request := []
  head : HeadState := .waiting
  staging : Option Staging := none
  resetPlaced : Option Time := none
  resetSent : Bool := false
  deriving DecidableEq, Repr

/-- R197: the key of a status frame; half 1 is `true`. -/
inductive FrameKey where
  | consist
  | result (p : Pos) (g : Group) (half : Bool)
  | value (p : Pos) (f : Code)
  deriving DecidableEq, Repr

/-- R197: a queued frame. `sending`: in transmission; `resetReply`: the reply that R196 waits on. -/
structure TxFrame where
  key : Option FrameKey
  id : Nat
  data : List Byte
  sending : Bool := false
  resetReply : Bool := false
  deriving DecidableEq, Repr

/-- The Tractor Port: the strap value held (R2), the transmit queue and tx-overrun flag (R197), the CONSIST timer's next
expiry (R198) and the refresh times per position, group and half (R199). -/
structure Port where
  node : Fin 4 := 0
  queue : List TxFrame := []
  overrun : Bool := false
  consistAt : Time := Config.consistSpacing
  refresh : Tab (Tab (Option Time × Option Time) 12) 4 := Tab.fill (Tab.fill (none, none))
  deriving DecidableEq, Repr

/-! ## Notices between blocks -/

/-- R14: the cause a change notice gives. -/
inductive ChangeCause where
  | decoded | stale
  deriving DecidableEq, Repr

/-- R14, R93, R120, R147: what has changed beneath an exercise value: a command value, an override, or the function code of
a line's profile. -/
inductive LevelChange where
  | command (f : Code) (cause : ChangeCause)
  | override (p : Pos) (f : Code)
  | profile (k : LineNo)
  deriving DecidableEq, Repr

/-- What one block hands another within a command, or a block's own next act. Acted on in order, each one's own notices
before those already waiting. -/
inductive Notice where
  | writeResult (p : Pos) (f : Code) (r : CheckResult)
  | deferUnchecked (p : Pos) (f : Code)
  | exitTest (p : Pos)
  | placeResult (p : Pos) (f : Code)
  | placeValue (p : Pos) (f : Code)
  | syncRefresh
  | lineEnd (o : Offer) (out : LineOutcome) (data : Option Word)
  | pollEnd (slots : Tab Bool 4)
  | serviceNotice (p : Pos)
  | silenceNotice (p : Pos)
  | lineFree
  | faultRequest (r : FaultRecord)
  | timeoutStop (p : Pos) (f : Code)
  | scan (p : Pos) (second : Bool)
  | classSix (p : Pos)
  | commandChanged (f : Code) (cause : ChangeCause) (old : Nat)
  | lineUpdate (f : Code)
  | lineChange (f : Code) (cause : ChangeCause)
  | levelBeneath (what : LevelChange)
  | windowNotice (opening : Bool) (covered : List (Pos × Code))
  | motionDelivery
  | motionPolicy
  | motionLoadCheck
  | motionConsist
  | waiterLoaded (w : Waiter)
  | waiterFailed (w : Waiter)
  | waiterFreed (w : Waiter)
  | noSpaceNotice
  | catchUp (p : Pos)
  | buildPlan (p : Pos)
  | entryLamps (p : Pos)
  | handItems (p : Pos)
  | lookupGroups (p : Pos)
  | consistOffer (p : Pos)
  | nodeLampOffer (p : Pos)
  | enterExercising (p : Pos)
  | enterRunning (p : Pos)
  | runningDelivery (p : Pos)
  | runningService (p : Pos)
  | serviceEntry
  | memoryRequest (p : Pos)
  | enumTrigger
  | chainEnd (n : Pos) (heard : Bool)
  | handOver (n : Pos)
  | identVerdict (p : Pos) (v : IdentVerdict) (before : Option Identity)
  | addContributor (p : Pos) (item : WireItem)
  | changeRequest (k : LineNo)
  | rebuildEntry
  | rebuildStart
  | rebuildStep
  | slotTest
  | slotEnded (t : Target)
  | queueLeft
  | tripNotice (k : LineNo)
  | nodeLampLookup (p : Pos) (src : CheckSource)
  | nodeLampEnded (p : Pos) (src : CheckSource)
  | deliveredChanged (p : Pos) (f : Code)
  | setAccepted (p : Pos) (f : Code)
  | endPass
  | releaseRequest (p : Pos)
  | releaseWalk
  | resetPosition (q : Pos)
  | resetBinding (q : Pos)
  | resetDelivery (q : Pos)
  | resetLoadCheck (q : Pos)
  | removeEntries (q : Pos)
  | removeFromSlot (q : Pos)
  | resetService (q : Pos)
  | lostDelivery (p : Pos)
  | lostLoadCheck (p : Pos)
  deriving DecidableEq, Repr

/-! ## The whole -/

/-- The part. `now` counts the ticks since power-on reset; `pending` is the queue of commands that wait, first in, first
out; `notices` are those a command left unacted on (none, unless Config.noticeBound was reached); `freeCount` counts the
free values taken (Config.freeWord). The last three are the model's own. -/
structure State where
  now : Time
  pending : List Instr
  notices : List Notice
  freeCount : Nat
  decoder : Decoder
  settings : Settings
  line : LineCtl
  consist : Consist
  binding : Binding
  delivery : Delivery
  policy : Policy
  direct : Direct
  check : LoadCheck
  service : Service
  sequence : Sequence
  memory : Memory
  management : Management
  port : Port
  deriving DecidableEq, Repr

/-- Why a command could stop the machine. No meaning of this model answers with a fault: every command of the manual has
an effect, and one whose event has not come about changes nothing (notes/assumptions/2.md). -/
inductive Fault where
  /-- Raised by no meaning. It stands for a command whose operands are not well formed, which the model lets run
  instead; leaving it unraised is safe, since such a command cannot come about at the pins. -/
  | illFormed
  deriving DecidableEq, Repr

/-- Why a command could have no meaning. -/
inductive Refusal where
  /-- Raised by exec for a row that has no meaning yet; every row has one. Safe. -/
  | notModelled (mnemonic : String)
  deriving DecidableEq, Repr

/-- R37: the RELEASE to position 4 that begins the start-up sweep. -/
def sweepOffer (p : Pos) : Offer :=
  { requester := .consistController, cls := 4, pos := p.succ, op := .release, addr := none, data := none,
    why := .sweepRelease p }

/-- The machine right after power-on reset with every input pin at its inactive level and a store that holds no record.
Every block is in its power-on condition, and the sweep's RELEASE to position 4, offered at the reset to a free line, is
in flight (R37). -/
def State.reset : State where
  now := 0
  pending := []
  notices := []
  freeCount := 0
  decoder := {}
  settings := {}
  line := { flight := some { offer := sweepOffer 3, deadline := Config.replyTimeout },
            lastGranted := (Tab.fill (Tab.fill none)).upd 4 fun t => t.put 4 (some .consistController) }
  consist := { sweep := some 3 }
  binding := {}
  delivery := {}
  policy := {}
  direct := {}
  check := {}
  service := {}
  sequence := {}
  memory := {}
  management := {}
  port := {}

end Sys2Proof.Machine
end

