-- ==== Sys2Proof/Machine/Operands.lean ====
section
/-! DEFINITION. Every form in which an operand reaches the part: function codes (R1), fields of tractor frames (R6 to
R12), descriptor words (R42 to R46) and arguments of request frames (R190, R191). -/

namespace Sys2Proof.Machine

/-! ## Positions and function codes -/

/-- Positions 1 to 4 in ascending order. -/
def allPos : List Pos := [0, 1, 2, 3]

/-- The direct lines and circuits in ascending order. -/
def allLines : List LineNo := [0, 1, 2, 3, 4, 5, 6, 7]

/-- The groups in ascending order. -/
def allGroups : List Group := [0, 1, 2, 3, 4, 5, 6, 7, 8, 9, 10, 11]

/-- The binding blocks in ascending order. -/
def allBlocks : List BlockNo := [0, 1, 2, 3, 4, 5, 6, 7, 8, 9, 10, 11, 12, 13, 14, 15]

/-- The function codes in catalogue order. -/
def allCodes : List Code := List.finRange 192

/-- The members of a group in ascending order. -/
def allMembers : List (Fin 16) := [0, 1, 2, 3, 4, 5, 6, 7, 8, 9, 10, 11, 12, 13, 14, 15]

/-- The group of a code. -/
def groupOf (f : Code) : Group := ⟨f.val / 16, by omega⟩

/-- The member of a code. -/
def memberOf (f : Code) : Fin 16 := ⟨f.val % 16, by omega⟩

/-- The code g/mm. -/
def codeOf (g : Group) (m : Fin 16) : Code := ⟨16 * g.val + m.val, by omega⟩

/-- R1: the kind of a group. -/
def kindOfGroup (g : Group) : FnKind := if g.val < 4 then .lamp else if g.val < 8 then .sensor else .actuator

/-- R1: the kind of a code. -/
def kindOf (f : Code) : FnKind := kindOfGroup (groupOf f)

/-- The number 1 to 4 by which a position is written. -/
def posNumber (p : Pos) : Nat := p.val + 1

/-- The position in front of p, where there is one. -/
def posBefore (p : Pos) : Option Pos := if h : p.val = 0 then none else some ⟨p.val - 1, by omega⟩

/-- The position behind p, where there is one. -/
def posAfter (p : Pos) : Option Pos := if h : p.val < 3 then some ⟨p.val + 1, by omega⟩ else none

/-! ## Fields of tractor frames -/

/-- R2: the data length, a code above 8 being taken as 8. -/
def dataLength (f : CanFrame) : Nat := min f.dlc 8

/-- The data bytes of the frame, up to its data length. -/
def frameBytes (f : CanFrame) : List Byte := f.data.toList.take (dataLength f)

/-- R6: the number whose bit i is data position i, the least significant bit of byte 0 being position 0. -/
def frameNumber : List Byte → Nat
  | [] => 0
  | b :: bs => b.toNat + 256 * frameNumber bs

/-- R6: the raw value of the field, none when its last position lies beyond the frame's data length. -/
def pickField (e : DecodeEntry) (f : CanFrame) : Option Nat :=
  let first := 8 * e.byte + e.bit
  if (first + e.width - 1) / 8 < dataLength f then
    some (frameNumber f.data.toList / 2 ^ first % 2 ^ e.width)
  else none

/-- R7: an entry matches a frame of its own format and identifier. -/
def entryMatches (e : DecodeEntry) (f : CanFrame) : Bool := decide (e.format = f.format) && decide (e.id = f.id)

/-- R8 to R12: the value a raw value of a field of width w yields under a decode kind, where it yields one. -/
def convertField (kind : DecodeKind) (w raw : Nat) : Option Nat :=
  match kind with
  | .switch => if raw = 0 then some 0 else if raw = 1 then some 255 else none
  | .phase => if raw = 0 then some 0 else some 255
  | .level => some (raw * 255 / (2 ^ w - 1))
  | .actuator => if raw = 1 then some 1 else if raw = 2 then some 2 else some 0
  | .speed => if raw = 2 ^ w - 1 then none else some raw

/-! ## Descriptor words -/

/-- The field of `width` bits of a word whose least significant bit is bit `lsb` (section 3.2). -/
def wordField (w : Word) (lsb width : Nat) : Nat := w.toNat / 2 ^ lsb % 2 ^ width

/-- R44, section 3.2: the group number as written in word A. -/
def dirGroup (a : Word) : Nat := wordField a 12 4

/-- R44, section 3.2: the policy class in word A. -/
def dirClass (a : Word) : Fin 8 := ⟨wordField a 8 3, by unfold wordField; omega⟩

/-- R44, section 3.2: the member count as written in word A. -/
def dirMembers (a : Word) : Nat := wordField a 0 5

/-- R44: the directory entry of words A and B. -/
def dirEntryOf (a b : Word) : DirEntry := { policyClass := dirClass a, members := dirMembers a, locator := b.toNat }

/-- R45: the point kind as written. -/
def pointKindOf (n : Nat) : PointKind :=
  match n with
  | 0 => .lamp
  | 1 => .sensor
  | 2 => .actuator
  | _ => .noKind

/-- R45: the load kind, the fourth written value being taken as CONST-CURRENT. -/
def loadKindOf (n : Nat) : LoadKind :=
  match n with
  | 0 => .resistive
  | 1 => .constPower
  | _ => .constCurrent

/-- R45: the interval as taken, 0 as 1 and a value above 600 as 600. -/
def intervalOf (w : Word) : Nat := if w.toNat = 0 then 1 else min w.toNat 600

/-- R45, section 3.2: the function record of four words. -/
def fnRecordOf (w0 w1 w2 w3 : Word) : FnRecord :=
  { point := wordField w0 0 6
    feed := if wordField w0 6 1 = 1 then .wired else .node
    pointKind := pointKindOf (wordField w0 8 2)
    fnClass := ⟨wordField w0 12 3, by unfold wordField; omega⟩
    nominal := min (wordField w1 0 14) 8000
    loadKind := loadKindOf (wordField w1 14 2)
    required := decide (wordField w2 0 1 = 1)
    interval := intervalOf w3 }

/-- R46: the point kind is the kind of the group. -/
def kindAgrees (k : PointKind) (g : Group) : Bool :=
  match k, kindOfGroup g with
  | .lamp, .lamp => true
  | .sensor, .sensor => true
  | .actuator, .actuator => true
  | _, _ => false

/-- R46: the record, of a function of group g, is unusable. -/
def unusableRecord (g : Group) (r : FnRecord) : Bool :=
  !kindAgrees r.pointKind g
    || (decide (r.feed = .node) && decide (61 < r.point))
    || (decide (r.feed = .wired) && decide (7 < r.point))
    || (decide (r.feed = .wired) && decide (r.pointKind ≠ .lamp))

/-- R81: the row written for a record: an unusable one is held with function class 0. -/
def rowOf (g : Group) (r : FnRecord) : Row :=
  if unusableRecord g r then { unusable := true, reported := false, record := { r with fnClass := 0 } }
  else { unusable := false, reported := false, record := r }

/-- R46, R119: the circuit a usable WIRED-fed record names. -/
def circuitOf (r : FnRecord) : LineNo := ⟨r.point % 8, by omega⟩

/-- R48: the test of header word a, given the words taken before it. -/
def headerWordOk (taken : List Word) (a : Nat) (w : Word) : Bool :=
  match a with
  | 0 => decide (w.toNat = 1)
  | 1 => decide (16 ≤ w.toNat) && decide (w.toNat ≤ 1024)
  | 5 => decide (w.toNat ≤ 12) && decide (8 + 2 * w.toNat ≤ (taken.getD 1 0).toNat)
  | _ => true

/-- The eight words of a header, in a table. -/
def headerOf (ws : List Word) : Tab Word 8 := (Tab.fill 0).mapIdx fun i _ => ws.getD i.val 0

/-- R42: the identity a header gives. -/
def identityOf (h : Tab Word 8) : Identity :=
  { builder := h.get 2, serial := h.get 3 ++ h.get 4, length := (h.get 1).toNat, checksum := h.get 7,
    revision := h.get 6 }

/-- R42: two trailers are the same when builder id, serial and descriptor checksum all agree. -/
def sameTrailer (a b : Identity) : Bool :=
  decide (a.builder = b.builder) && decide (a.serial = b.serial) && decide (a.checksum = b.checksum)

/-- R51: two record arrays share an address. -/
def arraysOverlap (a b : DirEntry) : Bool :=
  decide (a.locator < b.locator + 4 * b.members) && decide (b.locator < a.locator + 4 * a.members)

/-- The directory entries taken so far. -/
def dirEntries (d : Directory) : List DirEntry := d.toList.filterMap id

/-- R51: the tests of a directory entry, in the order of the rule, and the group it is filed under. -/
def testDirEntry (d : Directory) (count length : Nat) (a b : Word) : Option (Group × DirEntry) :=
  let e := dirEntryOf a b
  if h : dirGroup a < 12 then
    let g : Group := ⟨dirGroup a, h⟩
    if 1 ≤ e.members ∧ e.members ≤ 16 ∧ d.get g = none ∧ 8 + 2 * count ≤ e.locator
        ∧ e.locator + 4 * e.members ≤ length ∧ (dirEntries d).all (fun o => !arraysOverlap e o) = true then
      some (g, e)
    else none
  else none

/-- The group whose record array holds address a. -/
def arrayAt (d : Directory) (a : Nat) : Option (Group × DirEntry) :=
  allGroups.findSome? fun g =>
    match d.get g with
    | some e => if e.locator ≤ a ∧ a < e.locator + 4 * e.members then some (g, e) else none
    | none => none

/-- R45: the member whose record holds address a of an array. -/
def memberAt (e : DirEntry) (a : Nat) : Fin 16 := ⟨(a - e.locator) / 4 % 16, by omega⟩

/-! ## Arguments of request frames -/

/-- Argument byte i of a request (byte 2 + i of its frame). -/
def argByte (args : List Byte) (i : Nat) : Nat := (args.getD i 0).toNat

/-- A 16-bit quantity, low byte first. -/
def argWord (args : List Byte) (i : Nat) : Nat := argByte args i + 256 * argByte args (i + 1)

/-- A CAN identifier, four bytes, low byte first. -/
def argId (args : List Byte) (i : Nat) : Nat := argWord args i + 65536 * argWord args (i + 2)

/-- A position 1 to 4. -/
def argPos (args : List Byte) (i : Nat) : Option Pos :=
  let n := argByte args i
  if h : 1 ≤ n ∧ n ≤ 4 then some ⟨n - 1, by omega⟩ else none

/-- A function code in range (R1). -/
def argCode (args : List Byte) (i : Nat) : Option Code :=
  let n := argByte args i
  if h : n < 192 then some ⟨n, h⟩ else none

/-- A group 0 to 11. -/
def argGroup (args : List Byte) (i : Nat) : Option Group :=
  let n := argByte args i
  if h : n < 12 then some ⟨n, h⟩ else none

/-- A line or circuit 0 to 7. -/
def argLine (args : List Byte) (i : Nat) : Option LineNo :=
  let n := argByte args i
  if h : n < 8 then some ⟨n, h⟩ else none

/-- A policy class 0 to 7. -/
def argClass (args : List Byte) (i : Nat) : Option (Fin 8) :=
  let n := argByte args i
  if h : n < 8 then some ⟨n, h⟩ else none

/-- A timebase, A 0 and B 1. -/
def tbOf (n : Nat) : Option TbName :=
  match n with
  | 0 => some .a
  | 1 => some .b
  | _ => none

/-- A compensation mode, NONE 0 and RESISTIVE 1. -/
def compOf (n : Nat) : Option CompMode :=
  match n with
  | 0 => some .none
  | 1 => some .resistive
  | _ => none

/-- A frame format, STANDARD 0 and EXTENDED 1. -/
def formatOf (n : Nat) : Option FrameFormat :=
  match n with
  | 0 => some .standard
  | 1 => some .extended
  | _ => none

/-- A decode kind, in the order of R3. -/
def decodeKindOf (n : Nat) : Option DecodeKind :=
  match n with
  | 0 => some .switch
  | 1 => some .phase
  | 2 => some .level
  | 3 => some .actuator
  | 4 => some .speed
  | _ => none

/-- A sequence operation, GET 0 and READ-WORD 1. -/
def seqOpOf (n : Nat) : Option SeqOp :=
  match n with
  | 0 => some .get
  | 1 => some .readWord
  | _ => none

/-- A sequence mode, in the order of R169. -/
def seqModeOf (n : Nat) : SeqMode :=
  match n % 4 with
  | 0 => .stopOnNotReady
  | 1 => .ignoreReady
  | 2 => .repeatUntilReady
  | _ => .walk

/-- R4: an identifier lies within the range of its format. -/
def idInRange (f : FrameFormat) (id : Nat) : Bool :=
  match f with
  | .standard => decide (id ≤ 0x7FF)
  | .extended => decide (id ≤ 0x1FFFFFFF)

/-- R4: a STANDARD identifier within 6A0h to 6CFh is the part's own. -/
def idReserved (f : FrameFormat) (id : Nat) : Bool :=
  decide (f = .standard) && decide (0x6A0 ≤ id) && decide (id ≤ 0x6CF)

end Sys2Proof.Machine
end

