-- ==== Sys2Proof/Machine/Ops.lean ====
section
/-! DEFINITION. The named operations over the part's state: reading and changing one record of a table, handing a notice,
recording a fault (R114), the offers, the grant and the end of a line transaction (R21 to R36), placing a frame in the
transmit queue (R197) and answering the head of the Request List (R192). -/

namespace Sys2Proof.Machine

/-! ## Records -/

/-- The Consist Table record of p. -/
def posRec (s : State) (p : Pos) : ConsistRecord := s.consist.table.get p

/-- Change the Consist Table record of p. -/
def modRec (p : Pos) (f : ConsistRecord → ConsistRecord) (s : State) : State :=
  { s with consist := { s.consist with table := s.consist.table.upd p f } }

/-- The stream record of p. -/
def streamRec (s : State) (p : Pos) : StreamRecord := s.consist.streams.get p

/-- Change the stream record of p. -/
def modStream (p : Pos) (f : StreamRecord → StreamRecord) (s : State) : State :=
  { s with consist := { s.consist with streams := s.consist.streams.upd p f } }

/-- Change the enumeration pass record. -/
def modPass (f : EnumPass → EnumPass) (s : State) : State :=
  { s with consist := { s.consist with pass := f s.consist.pass } }

/-- Change the release record. -/
def modRelease (f : ReleaseRecord → ReleaseRecord) (s : State) : State :=
  { s with consist := { s.consist with release := f s.consist.release } }

/-- The Position Status entry of (p, f). -/
def entryOf (s : State) (p : Pos) (f : Code) : StatusEntry := (s.delivery.status.get p).get f

/-- Change the Position Status entry of (p, f). -/
def modEntry (p : Pos) (f : Code) (g : StatusEntry → StatusEntry) (s : State) : State :=
  { s with delivery := { s.delivery with status := s.delivery.status.upd p fun t => t.upd f g } }

/-- The Command Table entry of f. -/
def commandOf (s : State) (f : Code) : CommandEntry := s.decoder.commands.get f

/-- Change the Command Table entry of f. -/
def modCommand (f : Code) (g : CommandEntry → CommandEntry) (s : State) : State :=
  { s with decoder := { s.decoder with commands := s.decoder.commands.upd f g } }

/-- The group record of (p, g). -/
def groupRec (s : State) (p : Pos) (g : Group) : GroupRecord := (s.binding.groups.get p).get g

/-- Change the group record of (p, g). -/
def modGroup (p : Pos) (g : Group) (f : GroupRecord → GroupRecord) (s : State) : State :=
  { s with binding := { s.binding with groups := s.binding.groups.upd p fun t => t.upd g f } }

/-- Binding block b. -/
def blockOf (s : State) (b : BlockNo) : Block := s.binding.blocks.get b

/-- Change binding block b. -/
def modBlock (b : BlockNo) (f : Block → Block) (s : State) : State :=
  { s with binding := { s.binding with blocks := s.binding.blocks.upd b f } }

/-- The line record of DLk. -/
def lineRec (s : State) (k : LineNo) : Line := s.direct.lines.get k

/-- Change the line record of DLk. -/
def modLine (k : LineNo) (f : Line → Line) (s : State) : State :=
  { s with direct := { s.direct with lines := s.direct.lines.upd k f } }

/-- The Wired Profile entry of DLk. -/
def wiredOf (s : State) (k : LineNo) : WiredEntry := s.direct.wired.get k

/-- Change the Wired Profile entry of DLk. -/
def modWired (k : LineNo) (f : WiredEntry → WiredEntry) (s : State) : State :=
  { s with direct := { s.direct with wired := s.direct.wired.upd k f } }

/-- A timebase by name. -/
def timebase (s : State) (t : TbName) : Timebase :=
  match t with
  | .a => s.direct.tbA
  | .b => s.direct.tbB

/-- Change a timebase. -/
def modTimebase (t : TbName) (f : Timebase → Timebase) (s : State) : State :=
  match t with
  | .a => { s with direct := { s.direct with tbA := f s.direct.tbA } }
  | .b => { s with direct := { s.direct with tbB := f s.direct.tbB } }

/-- The group trip flag of a fault group. -/
def groupTripped (s : State) (g : FaultGroup) : Bool :=
  match g with
  | .fa => s.direct.tripA
  | .fb => s.direct.tripB

/-- The fault input of a group: asserted or not. -/
def faultInput (s : State) (g : FaultGroup) : Bool :=
  match g with
  | .fa => s.direct.faultA
  | .fb => s.direct.faultB

/-- Set the group trip flag. -/
def setGroupTrip (g : FaultGroup) (v : Bool) (s : State) : State :=
  match g with
  | .fa => { s with direct := { s.direct with tripA := v } }
  | .fb => { s with direct := { s.direct with tripB := v } }

/-- Set what the fault input reads. -/
def setFaultInput (g : FaultGroup) (v : Bool) (s : State) : State :=
  match g with
  | .fa => { s with direct := { s.direct with faultA := v } }
  | .fb => { s with direct := { s.direct with faultB := v } }

/-- The circuit record of circuit k. -/
def circuitRec (s : State) (k : LineNo) : Circuit := s.check.circuits.get k

/-- Change the circuit record of circuit k. -/
def modCircuit (k : LineNo) (f : Circuit → Circuit) (s : State) : State :=
  { s with check := { s.check with circuits := s.check.circuits.upd k f } }

/-- A node-lamp check of p, by what started it. -/
def nodeCheck (s : State) (p : Pos) (src : CheckSource) : Option NodeLampCheck :=
  match src with
  | .slot => s.check.slotChecks.get p
  | .opportunistic => s.check.oppChecks.get p

/-- Put or remove a node-lamp check of p. -/
def setNodeCheck (p : Pos) (src : CheckSource) (c : Option NodeLampCheck) (s : State) : State :=
  match src with
  | .slot => { s with check := { s.check with slotChecks := s.check.slotChecks.put p c } }
  | .opportunistic => { s with check := { s.check with oppChecks := s.check.oppChecks.put p c } }

/-- The round record of p. -/
def roundOf (s : State) (p : Pos) : Round := s.service.rounds.get p

/-- Change the round record of p. -/
def modRound (p : Pos) (f : Round → Round) (s : State) : State :=
  { s with service := { s.service with rounds := s.service.rounds.upd p f } }

/-- Change the Sequence Unit's record. -/
def modSeq (f : Sequence → Sequence) (s : State) : State := { s with sequence := f s.sequence }

/-! ## Time and state of a position -/

/-- The moment `t` has been reached. -/
def passed (s : State) (t : Option Time) : Bool :=
  match t with
  | some t => decide (t ≤ s.now)
  | none => false

/-- The moment `t`, where there is one, is still ahead. -/
def ahead (s : State) (t : Option Time) : Bool :=
  match t with
  | some t => decide (s.now < t)
  | none => false

/-- The state of p. -/
def stateOf (s : State) (p : Pos) : PosState := (posRec s p).state

/-- p is in EXERCISING or RUNNING. -/
def inService (s : State) (p : Pos) : Bool :=
  match stateOf s p with
  | .exercising | .running => true
  | _ => false

/-- p is VACANT. -/
def isVacant (s : State) (p : Pos) : Bool := decide (stateOf s p = .vacant)

/-- The directory entry of group g at p: none when the group is not present (R79). -/
def dirOf (s : State) (p : Pos) (g : Group) : Option DirEntry := (posRec s p).directory.get g

/-- p lies between the lowest position and 4 of an active release (R174). -/
def underRelease (s : State) (p : Pos) : Bool :=
  s.consist.release.active &&
    match s.consist.release.lowest with
    | some l => decide (l ≤ p)
    | none => false

/-- R175: the RELEASE of p is offered or in flight. -/
def releaseOffered (s : State) (p : Pos) : Bool :=
  s.consist.release.active && decide (s.consist.release.current = some p) && s.consist.release.phase.isSome

/-! ## The clock -/

/-- R183, R174: what `d` ticks make of the LOST timer of p: it is held at its limit, and stands still under a release. -/
def lostAfter (s : State) (d : Nat) (p : Pos) (r : ConsistRecord) : ConsistRecord :=
  if underRelease s p then r else { r with lostTimer := r.lostTimer.map fun t => min Config.lostLimit (t + d) }

/-- `d` ticks of 1 µs pass. -/
def advance (d : Nat) (s : State) : State :=
  { s with now := s.now + d, consist := { s.consist with table := s.consist.table.mapIdx (lostAfter s d) } }

/-- The clock reaches the moment `t`, where that is still ahead (notes/assumptions/2.md). -/
def advanceTo (t : Time) (s : State) : State := advance (t - s.now) s

/-- A timer that runs to the moment `t` runs out, and `body` is what then comes about; nothing while it does not run. -/
def atMoment (t : Option Time) (body : State → State) (s : State) : State :=
  match t with
  | some t => body (advanceTo t s)
  | none => s

/-! ## Notices -/

/-- Hand a notice on. -/
def emit (n : Notice) (s : State) : State := { s with notices := s.notices ++ [n] }

/-- Hand several notices on, in order. The order in which one act takes several positions, functions, lines or circuits,
where no rule orders them, is the model's choice (notes/assumptions/6.md). -/
def emitAll (ns : List Notice) (s : State) : State := { s with notices := s.notices ++ ns }

/-! ## Faults -/

/-- R114: a fault request: a new record while fewer than 8 are held, else the followed flag of the newest. -/
def addFault (r : FaultRecord) (fs : List FaultRecord) : List FaultRecord :=
  if fs.length < Config.faultCapacity then fs ++ [{ r with followed := false }]
  else fs.dropLast ++ (fs.getLast?.map fun n => { n with followed := true }).toList

/-- R114: the Policy Check takes a fault request. -/
def takeFault (r : FaultRecord) (s : State) : State :=
  { s with policy := { s.policy with faults := addFault r s.policy.faults } }

/-- R113: the record of a fault request. -/
def faultOf (kind : FaultKind) (p : Option Pos) (f : Option Code) (access : Option AccessKind) (detail : Nat) :
    FaultRecord :=
  { kind := kind, pos := p, code := f, access := access, detail := detail, followed := false }

/-- R114: hand the Policy Check a fault request. -/
def recordFault (kind : FaultKind) (p : Option Pos) (f : Option Code) (access : Option AccessKind) (detail : Nat) :
    State → State :=
  takeFault (faultOf kind p f access detail)

/-! ## Line offers and the grant -/

/-- The line position of trailer position p. -/
def linePos (p : Pos) : LinePos := p.succ

/-- R21: a point or word address that lies in 0 to `top`. -/
def addrUpTo (top : Nat) (a : Option Nat) : Bool :=
  match a with
  | some a => decide (a ≤ top)
  | none => false

/-- R21, R25: the pairings and ranges an offer must keep, and the fields that its operation leaves none. -/
def offerValid (o : Offer) : Bool :=
  match o.op with
  | .assign => decide (o.pos = 0) && o.addr.isNone && (match o.data with
      | some d => decide (1 ≤ d.toNat) && decide (d.toNat ≤ 4)
      | none => false)
  | .poll => decide (o.pos = 0) && o.addr.isNone && o.data.isNone
  | .release => decide (o.pos ≠ 0) && o.addr.isNone && o.data.isNone
  | .set => decide (o.pos ≠ 0) && o.data.isSome && addrUpTo 63 o.addr
  | .get => decide (o.pos ≠ 0) && o.data.isNone && addrUpTo 63 o.addr
  | .readWord => decide (o.pos ≠ 0) && o.data.isNone && addrUpTo 1023 o.addr

/-- The offer a requester holds for a class and position (R33). -/
def standing (s : State) (r : Requester) (c : ArbClass) (p : LinePos) : Option Offer :=
  s.line.offers.find? fun o => decide (o.requester = r) && decide (o.cls = c) && decide (o.pos = p)

/-- Change the standing offers. -/
def setOffers (f : List Offer → List Offer) (s : State) : State :=
  { s with line := { s.line with offers := f s.line.offers } }

/-- R33: withdraw the offer a requester holds for a class and position. -/
def withdraw (r : Requester) (c : ArbClass) (p : LinePos) : State → State :=
  setOffers fun os => os.filter fun o => !(decide (o.requester = r) && decide (o.cls = c) && decide (o.pos = p))

/-- R33: withdraw every standing offer that `f` picks. -/
def withdrawWhere (f : Offer → Bool) : State → State := setOffers fun os => os.filter fun o => !f o

/-- R33: put an offer, in the place of the one its requester holds for the class and position, where it holds one. -/
def putOffer (o : Offer) (os : List Offer) : List Offer :=
  if os.any (fun x => decide (x.requester = o.requester) && decide (x.cls = o.cls) && decide (x.pos = o.pos)) then
    os.map fun x =>
      if x.requester = o.requester ∧ x.cls = o.cls ∧ x.pos = o.pos then o else x
  else os ++ [o]

/-- R34, step 1: the lowest-numbered class with an offer. -/
def bestClass (os : List Offer) : Option ArbClass :=
  ([0, 1, 2, 3, 4, 5, 6] : List ArbClass).find? fun c => os.any fun o => decide (o.cls = c)

/-- R34, step 2: the rotating order of positions that begins after `last`. -/
def rotation (last : LinePos) : List LinePos := [last + 1, last + 2, last + 3, last + 4, last + 5]

/-- R34, step 3: among the offers of one class and position, the one whose requester was not granted last; with none
granted last, the requester listed first for the class. -/
def pickRequester (last : Option Requester) (os : List Offer) : Option Offer :=
  match last with
  | some r => (os.find? fun o => decide (o.requester ≠ r)).or os.head?
  | none => (os.find? fun o => decide (o.requester ≠ .loadCheckUnit)).or os.head?

/-- R34: the offer the arbiter chooses among those standing. -/
def chooseOffer (l : LineCtl) : Option Offer :=
  match bestClass l.offers with
  | none => none
  | some c =>
    (rotation (l.lastServed.get c)).findSome? fun p =>
      pickRequester ((l.lastGranted.get c).get p)
        (l.offers.filter fun o => decide (o.cls = c) && decide (o.pos = p))

/-- R38, R175: an ASSIGN of the pass, or a RELEASE of the release, that is granted is in flight. -/
def notePhase (o : Offer) (s : State) : State :=
  match o.why with
  | .enumAssign _ => modPass (fun e => { e with phase := .inFlight }) s
  | .positionRelease _ => modRelease (fun r => { r with phase := some .inFlight }) s
  | .firstRead p f => modRec p (fun r => { r with firstReads := r.firstReads.map fun x =>
      if x.code = f ∧ x.last = .notIssued then { x with last := .issued } else x }) s
  | _ => s

/-- R96: what the Delivery Unit does when an offer of class 1 or 2 is granted: it forms the next. -/
def grantNotices (o : Offer) : List Notice :=
  match o.why with
  | .delivery p _ _ _ _ | .stop p _ | .managementRead p _ =>
    if o.cls = 0 then [.scan p false] else if o.cls = 1 then [.scan p true] else []
  | _ => []

/-- R34, R35: the offer becomes the transaction in flight. -/
def grant (o : Offer) (s : State) : State :=
  emitAll (grantNotices o) (notePhase o { s with line := { s.line with
    offers := s.line.offers.filter fun x =>
      !(decide (x.requester = o.requester) && decide (x.cls = o.cls) && decide (x.pos = o.pos))
    flight := some { offer := o, deadline := s.now + Config.replyTimeout }
    lastServed := s.line.lastServed.put o.cls o.pos
    lastGranted := s.line.lastGranted.upd o.cls fun t => t.put o.pos (some o.requester) } })

/-- R34: grant the line, when it is free and an offer stands. -/
def grantLine (s : State) : State :=
  match s.line.flight with
  | some _ => s
  | none =>
    match chooseOffer s.line with
    | some o => grant o s
    | none => s

/-- R33, R34: make an offer; an idle line is granted at once. R21: an offer that breaks the pairings is answered Not
Heard and not issued. -/
def makeOffer (o : Offer) (s : State) : State :=
  if offerValid o then grantLine (setOffers (putOffer o) s) else emit (.lineEnd o .notHeard none) s

/-- The transaction in flight that has not ended. -/
def openFlight (s : State) : Option Flight :=
  match s.line.flight with
  | some fl => if fl.ended then none else some fl
  | none => none

/-- The transaction in flight is one the predicate picks. -/
def flightIs (s : State) (f : Offer → Bool) : Bool :=
  match openFlight s with
  | some fl => f fl.offer
  | none => false

/-- R23: the outcome of a taken reply, and the data handed on. -/
def classify (r : Reply) : LineOutcome × Option Word :=
  if r.heard then
    if r.ready then (.ready, r.data) else (.notReady, none)
  else (.notHeard, none)

/-- The trailer position a line position names. -/
def trailerPos (p : LinePos) : Option Pos := if h : p.val = 0 then none else some ⟨p.val - 1, by omega⟩

/-- The position 1 to 4 that ASSIGN data names. -/
def assignPos (d : Option Word) : Option Pos :=
  match d with
  | some w => if h : 1 ≤ w.toNat ∧ w.toNat ≤ 4 then some ⟨w.toNat - 1, by omega⟩ else none
  | none => none

/-- R31: the position a transaction's service notice names. -/
def servicePos (o : Offer) : Option Pos := if o.op = .assign then assignPos o.data else trailerPos o.pos

/-- R32: whether an Unheard end addressed to p advances its counter. -/
def countsSilence (s : State) (p : Pos) : Bool :=
  match stateOf s p with
  | .vacant | .wired => false
  | _ => true

/-- The unheard counter of p. -/
def unheardOf (s : State) (p : Pos) : Nat := s.line.unheard.get p

/-- Set the unheard counter of p. -/
def setUnheard (p : Pos) (n : Nat) (s : State) : State :=
  { s with line := { s.line with unheard := s.line.unheard.put p n } }

/-- R32: the unheard counters after a transaction's end. -/
def countEnd (o : Offer) (out : LineOutcome) (s : State) : State :=
  if o.op = .assign then
    match out, assignPos o.data with
    | .ready, some p => setUnheard p 0 s
    | _, _ => s
  else
    match trailerPos o.pos with
    | none => s
    | some p =>
      if out = .unheard then
        if countsSilence s p then setUnheard p (min Config.unheardLimit (unheardOf s p + 1)) s else s
      else setUnheard p 0 s

/-- R32: the end raises the counter of its position from 2 to 3. -/
def raisesSilence (o : Offer) (out : LineOutcome) (s : State) : Option Pos :=
  if o.op = .assign then none
  else
    match trailerPos o.pos with
    | some p => if out = .unheard ∧ countsSilence s p = true ∧ unheardOf s p = 2 then some p else none
    | none => none

/-- R35: a transaction other than POLL ends. Its outcome, service notice and silence notice are handed on in that order,
unless the record carries the discard mark, and then the line is free. -/
def endTransaction (out : LineOutcome) (data : Option Word) (service : Bool) (s : State) : State :=
  match openFlight s with
  | none => s
  | some fl =>
    let ended := { s with line := { s.line with flight := some { fl with ended := true } } }
    if fl.discard then emit .lineFree ended
    else
      emitAll
        ([.lineEnd fl.offer out data]
          ++ (if service then ((servicePos fl.offer).map fun p => Notice.serviceNotice p).toList else [])
          ++ ((raisesSilence fl.offer out s).map fun p => Notice.silenceNotice p).toList
          ++ [.lineFree])
        (countEnd fl.offer out ended)

/-- R35, step 6: the record is cleared and the next grant made. -/
def freeLine (s : State) : State := grantLine { s with line := { s.line with flight := none } }

/-! ## The transmit queue -/

/-- R197: the queue with the contents of the first frame of this key that is not in transmission replaced, where there is
one. -/
def replaceFrame (k : FrameKey) (data : List Byte) : List TxFrame → Option (List TxFrame)
  | [] => none
  | f :: fs =>
    if f.key = some k ∧ f.sending = false then some ({ f with data := data } :: fs)
    else (replaceFrame k data fs).map (f :: ·)

/-- The queue of the Tractor Port. -/
def txQueue (s : State) : List TxFrame := s.port.queue

/-- Set the queue. -/
def setQueue (q : List TxFrame) (s : State) : State := { s with port := { s.port with queue := q } }

/-- Set the tx-overrun flag. -/
def setOverrun (v : Bool) (s : State) : State := { s with port := { s.port with overrun := v } }

/-- R197: a status frame offered for placing: replaced in place, placed at the tail, or dropped with tx-overrun set. -/
def placeStatus (k : FrameKey) (id : Nat) (data : List Byte) (s : State) : State :=
  match replaceFrame k data (txQueue s) with
  | some q => setQueue q s
  | none =>
    if (txQueue s).length < Config.txCapacity then
      setQueue (txQueue s ++ [{ key := some k, id := id, data := data }]) s
    else setOverrun true s

/-- R197: whether a status frame of this key offered now would be placed or replace one. -/
def wouldPlace (k : FrameKey) (s : State) : Bool :=
  (replaceFrame k [] (txQueue s)).isSome || decide ((txQueue s).length < Config.txCapacity)

/-! ## Encodings (R190) -/

/-- A number in one byte. -/
def num (n : Nat) : List Byte := [BitVec.ofNat 8 n]

/-- A number in one byte, 255 for none. -/
def optNum (n : Option Nat) : List Byte := num (n.getD 255)

/-- A 16-bit quantity, low byte first. -/
def word (n : Nat) : List Byte := [BitVec.ofNat 8 n, BitVec.ofNat 8 (n / 256)]

/-- A 16-bit quantity, 65535 for none. -/
def optWord (n : Option Nat) : List Byte := word (n.getD 65535)

/-- A flag. -/
def flag (b : Bool) : List Byte := num (if b then 1 else 0)

/-- A 32-bit quantity, low byte first. -/
def word32 (n : Nat) : List Byte := word n ++ word (n / 65536)

/-- A position, 0 for none. -/
def optPos (p : Option Pos) : List Byte := num ((p.map posNumber).getD 0)

/-- A function code, 255 for none. -/
def optCode (f : Option Code) : List Byte := optNum (f.map fun c => c.val)

/-- R190: the result of a reply. -/
def resultNumber (r : ResultCode) : Nat :=
  match r with
  | .ok => 0
  | .badArg => 1
  | .busy => 2
  | .notFitted => 3
  | .refused => 4
  | .notReady => 5
  | .noSpace => 6

/-- R190: a reply frame. -/
def replyFrame (s : State) (code tag : Byte) (r : ResultCode) (bytes : List Byte) : TxFrame :=
  { key := none, id := Config.replyId + s.port.node.val, data := [code, tag] ++ num (resultNumber r) ++ bytes }

/-! ## The Request List -/

/-- R192: the request codes of the table. -/
def knownCode (c : Byte) : Bool := decide (1 ≤ c.toNat) && decide (c.toNat ≤ 25)

/-- Set the Request List and how far its head has come. -/
def setRequests (rs : List Request) (h : HeadState) (s : State) : State :=
  { s with management := { s.management with requests := rs, head := h } }

/-- R191: while the head request, not yet handed on, has an unknown code, it is answered BAD-ARG; a reply that finds the
queue full waits at the head. The first argument bounds the requests so answered. -/
def serveUnknown : Nat → State → State
  | 0, s => s
  | n + 1, s =>
    match s.management.requests, s.management.head with
    | r :: rs, .waiting =>
      if knownCode r.code then s
      else if (txQueue s).length < Config.txCapacity then
        serveUnknown n (setRequests rs .waiting (setQueue (txQueue s ++ [replyFrame s r.code r.tag .badArg []]) s))
      else setRequests (r :: rs) (.answered .badArg []) s
    | _, _ => s

/-- R192: the head request leaves the list and the next becomes the head. -/
def popRequest (s : State) : State :=
  serveUnknown Config.requestCapacity (setRequests s.management.requests.tail .waiting s)

/-- R192, R197: answer the head request. A reply that finds the queue full waits at the head as it was formed. That
START-SEQUENCE's own BUSY (R169) waits so too, where R197 drops 'a BUSY reply', is the model's choice
(notes/assumptions/43.md). -/
def answer (result : ResultCode) (bytes : List Byte) (s : State) : State :=
  match s.management.requests with
  | [] => s
  | r :: rs =>
    if (txQueue s).length < Config.txCapacity then
      popRequest (setQueue (txQueue s ++ [replyFrame s r.code r.tag result bytes]) s)
    else setRequests (r :: rs) (.answered result bytes) s

/-- R192: the head request is with its owner until a later event. -/
def holdHead (s : State) : State := setRequests s.management.requests .handed s

/-- The code of the head request while it is with its owner. -/
def handedCode (s : State) : Option Nat :=
  match s.management.requests, s.management.head with
  | r :: _, .handed => some r.code.toNat
  | _, _ => none

/-- R191: serve the head request of this code, whose arguments take at least `need` bytes, when its turn has come. -/
def serve (code need : Nat) (body : List Byte → State → State) (s : State) : State :=
  match s.management.requests, s.management.head with
  | r :: _, .waiting =>
    if r.code.toNat = code then
      if r.args.length < need then answer .badArg [] s else body r.args s
    else s
  | _, _ => s

/-- R191: part n of an answer, or BAD-ARG for a part that begins beyond the answer's end. -/
def answerPart (result : ResultCode) (bytes : List Byte) (part : Nat) (s : State) : State :=
  if 5 * part < bytes.length then answer result ((bytes.drop (5 * part)).take 5) s else answer .badArg [] s

end Sys2Proof.Machine
end

