-- ==== Sys2Proof/Machine/Flags.lean ====
section
/-! DEFINITION. Everything the rules decide from the state without changing it: ages and staleness (R15), levels and
on-counts (R121, R122), targets and layers (R93), due and held deliveries (R94), what a position awaits (R71), presence of
groups (R79), and which RESULT frames qualify (R199). -/

namespace Sys2Proof.Machine

/-! ## Ages -/

/-- An age in ms, reckoned from the moment of the last update. -/
def ageMs (s : State) (since : Option Time) : Option Nat := since.map fun t => (s.now - t) / 1000

/-- R13: the age of a Command Table entry, held at 65535. -/
def commandAge (s : State) (f : Code) : Option Nat := (ageMs s (commandOf s f).since).map fun a => min a 65535

/-- R15: the age reckoned from `since` has reached the stale timeout. -/
def reachedStale (s : State) (since : Option Time) : Bool :=
  match since with
  | some t => decide (t + ms s.settings.stale ≤ s.now)
  | none => false

/-- R15: the command value an entry falls to on becoming STALE. -/
def staleValue (kind : Option DecodeKind) (v : Nat) : Nat :=
  match kind with
  | some .phase | some .actuator => 0
  | _ => v

/-- R17: the speed record holds a fresh speed. -/
def speedFresh (s : State) : Bool := s.decoder.speed.fresh

/-- The motion state is STATIONARY. -/
def isStationary (s : State) : Bool := decide (s.decoder.motion = .stationary)

/-! ## Direct lines -/

/-- The group a direct line belongs to. -/
def lineGroup (k : LineNo) : FaultGroup := if k.val < 4 then .fa else .fb

/-- The lines of a fault group. -/
def groupLines (g : FaultGroup) : List LineNo :=
  match g with
  | .fa => [0, 1, 2, 3]
  | .fb => [4, 5, 6, 7]

/-- R124: the line is held off by its own trip or its group's. -/
def tripped (s : State) (k : LineNo) : Bool := (lineRec s k).trip || groupTripped s (lineGroup k)

/-- The command value of an optional function code, 0 for none. -/
def codeLevel (s : State) (f : Option Code) : Nat :=
  match f with
  | some f => (commandOf s f).value
  | none => 0

/-- R121: the level of a line. -/
def levelOf (s : State) (k : LineNo) : Nat := if (lineRec s k).exercise then 255 else codeLevel s (wiredOf s k).code

/-- R122, R137: the supply voltage as clamped for compensation and for expected currents. -/
def clampedSupply (vref : Nat) (v : Option Nat) : Nat :=
  match v with
  | some v => clamp (vref / 2) (vref * 3 / 2) v
  | none => vref

/-- R122: the on-count of a level. -/
def onCountOf (level period : Nat) (comp : CompMode) (vref : Nat) (supply : Option Nat) : Nat :=
  let base := level * (period + 1) / 255
  if comp = .resistive ∧ 0 < level ∧ level < 255 then
    let vc := clampedSupply vref supply
    let d := min (base * (vref * vref) / (vc * vc)) (period + 1)
    if 0 < base ∧ d = 0 then 1 else d
  else base

/-- R122: the on-count of a line under its timebase, from its level. -/
def lineOnCount (s : State) (k : LineNo) : Nat :=
  onCountOf (levelOf s k) (timebase s (lineRec s k).tb).period (wiredOf s k).comp s.settings.vref s.direct.supply

/-- R116: the running count of a timebase: it rises by one each tick and stands at P until the period ends. -/
def countOf (s : State) (t : TbName) : Nat := min (s.now - (timebase s t).start) (timebase s t).period

/-- R124: a period of a timebase has ended: its count has stood at P for one tick. -/
def periodEnded (s : State) (t : TbName) : Bool := decide ((timebase s t).start + (timebase s t).period + 1 ≤ s.now)

/-- R124: what the gate output of DLk is at this tick. -/
def lineOutput (s : State) (k : LineNo) : Bool := decide (countOf s (lineRec s k).tb < (lineRec s k).onCount)

/-- R126: the sample tick of an on-count in force. -/
def sampleTick (d : Nat) : Nat := d / 2

/-! ## Exercise windows and targets -/

/-- R93: an exercise window is open that covers (p, f). -/
def windowCovers (s : State) (p : Pos) (f : Code) : Bool :=
  match s.check.slot with
  | some sl =>
    sl.window &&
      match sl.entry.target with
      | .circuit k => (circuitRec s k).contributors.any fun c => decide (c.pos = p) && decide (c.code = f)
      | .lamp q g => decide (q = p) && decide (g = f)
  | none => false

/-- R147: what the check in the slot covers. -/
def coveredBy (s : State) (t : Target) : List (Pos × Code) :=
  match t with
  | .circuit k => (circuitRec s k).contributors.map fun c => (c.pos, c.code)
  | .lamp p f => [(p, f)]

/-- R93: the target beneath an exercise window: the override, or else the command value. -/
def targetBeneath (s : State) (p : Pos) (f : Code) : Nat :=
  ((entryOf s p f).override).getD (commandOf s f).value

/-- R93: the target of (p, f); a SENSOR function has none. -/
def targetOf (s : State) (p : Pos) (f : Code) : Option Nat :=
  match kindOf f with
  | .sensor => none
  | _ => if windowCovers s p f then some 255 else some (targetBeneath s p f)

/-- R95: the access kind of a delivery of (p, f), from the layer its target comes from. -/
def deliveryKind (s : State) (p : Pos) (f : Code) : AccessKind :=
  if windowCovers s p f then .exs
  else if (entryOf s p f).override.isSome then .mgs
  else if isStationary s then .tss else .tsm

/-- R93: the target of (p, f) comes from its management override. -/
def onOverride (s : State) (p : Pos) (f : Code) : Bool := !windowCovers s p f && (entryOf s p f).override.isSome

/-- R95: a delivery of value v to f is of class 2 (`true`) or class 1. -/
def secondClass (f : Code) (v : Nat) : Bool := decide (kindOf f = .actuator) && decide (v ≠ 0)

/-- R94: the delivery of (p, f) is due. -/
def isDue (s : State) (p : Pos) (f : Code) : Bool :=
  match targetOf s p f with
  | none => false
  | some v => decide ((entryOf s p f).delivered ≠ some v) && inService s p && !(entryOf s p f).refusalLatch

/-- R94: group g of p holds a FETCHING block. -/
def groupFetching (s : State) (p : Pos) (g : Group) : Bool :=
  match (groupRec s p g).block with
  | some b => decide ((blockOf s b).state = .fetching)
  | none => false

/-- R99: accesses to group g of p are held on a fetch or on NO-SPACE. -/
def groupHeld (s : State) (p : Pos) (g : Group) : Bool := (groupRec s p g).noSpace || groupFetching s p g

/-- R94: a delivery SET of value v to (p, f) is in flight. -/
def setInFlight (s : State) (p : Pos) (f : Code) (v : Nat) : Bool :=
  flightIs s fun o =>
    match o.why with
    | .delivery q g w _ _ => decide (q = p) && decide (g = f) && decide (w = v)
    | .stop q g => decide (q = p) && decide (g = f) && decide (v = 0)
    | _ => false

/-- R109, R157: a stop of (p, f) is owed. -/
def stopOwed (s : State) (p : Pos) (f : Code) : Bool := (s.delivery.owed.get p).any fun o => decide (o.code = f)

/-- R94, R111, R158: a due delivery of value v to (p, f) is held. One of an override waits for an owed stop of (p, f), also
while that stop waits on its 100 ms repeat; that it does so for a stop owed under R157 too, and with value 0, is the model's
reading (notes/assumptions/9.md). -/
def isHeld (s : State) (p : Pos) (f : Code) (v : Nat) : Bool :=
  let e := entryOf s p f
  e.notFitted || (e.unavailable && ahead s e.retryAt) || groupHeld s p (groupOf f) || setInFlight s p f v
    || (e.timeoutHold && decide (v ≠ 0)) || (onOverride s p f && stopOwed s p f)

/-- The stop SET of (p, f) is in flight. -/
def stopInFlight (s : State) (p : Pos) (f : Code) : Bool := flightIs s fun o => decide (o.why = .stop p f)

/-- R110: an owed stop of p is held. One in flight is not offered a second time. -/
def stopHeld (s : State) (p : Pos) (o : OwedStop) : Bool :=
  ahead s o.notBefore || groupHeld s p (groupOf o.code) || stopInFlight s p o.code

/-! ## Bindings -/

/-- The row of (p, f) when its group holds a LOADED block that has it. -/
def loadedRow (s : State) (p : Pos) (f : Code) : Option Row :=
  match (groupRec s p (groupOf f)).block with
  | some b => if (blockOf s b).state = .loaded then (blockOf s b).rows.get (memberOf f) else none
  | none => none

/-- Group g of p holds a LOADED block. -/
def groupLoaded (s : State) (p : Pos) (g : Group) : Bool :=
  match (groupRec s p g).block with
  | some b => decide ((blockOf s b).state = .loaded)
  | none => false

/-- R105: the index of a Policy Table entry. -/
def policyIndex (c d : Fin 8) : Fin 64 := ⟨8 * c.val + d.val, by omega⟩

/-- R190: the bit of an access kind in a set. -/
def kindBit (k : AccessKind) : Nat :=
  match k with
  | .tss => 0
  | .tsm => 1
  | .exs => 2
  | .mgs => 3
  | .mgr => 4
  | .rdp => 5

/-- R106: the Policy Table entry of the two classes contains the access kind. -/
def permits (s : State) (c d : Fin 8) (k : AccessKind) : Bool := (s.policy.table.get (policyIndex c d)).getLsbD (kindBit k)

/-- R83, R85: the address a block's next word is at. -/
def nextFetchAddr (s : State) (b : BlockNo) : Option Nat :=
  match (blockOf s b).owner, (blockOf s b).progress with
  | some (p, g), some (m, w) => (dirOf s p g).map fun e => e.locator + 4 * m + w
  | _, _ => none

/-! ## What a position awaits -/

/-- R71: the lamps of p in the Contributor Lists. -/
def wiredAwaited (s : State) (p : Pos) : List Code :=
  allLines.flatMap fun k => ((circuitRec s k).contributors.filter fun c => decide (c.pos = p)).map fun c => c.code

/-- R71: the awaited lamp functions of p. Their order, which the deadline of R77 follows, is the model's choice
(notes/assumptions/6.md). -/
def awaitedLamps (s : State) (p : Pos) : List Code := wiredAwaited s p ++ (posRec s p).required

/-- R71: the awaited functions of p. -/
def awaitedOf (s : State) (p : Pos) : List Code := awaitedLamps s p ++ (posRec s p).awaited

/-- (p, f) holds the result UNCHECKED. -/
def unchecked (s : State) (p : Pos) (f : Code) : Bool := decide ((entryOf s p f).result = .unchecked)

/-- R76: the exit test of p. -/
def exitMet (s : State) (p : Pos) : Bool :=
  (posRec s p).lampItems.isEmpty && (posRec s p).groupItems.isEmpty
    && (awaitedOf s p).all fun f => !unchecked s p f

/-! ## Status frames -/

/-- R199: the members of a half, 0 to 7 or 8 to 15. -/
def halfMembers (half : Bool) : List (Fin 16) :=
  if half then [8, 9, 10, 11, 12, 13, 14, 15] else [0, 1, 2, 3, 4, 5, 6, 7]

/-- R199: f is a function code of the Wired Profile. -/
def inProfile (s : State) (f : Code) : Bool := allLines.any fun k => decide ((wiredOf s k).code = some f)

/-- R199: the position, group and half qualifies. -/
def qualifies (s : State) (p : Pos) (g : Group) (half : Bool) : Bool :=
  match stateOf s p with
  | .exercising | .running | .lost =>
    match dirOf s p g with
    | some e => !half || decide (8 < e.members)
    | none => false
  | .wired =>
    decide (p = 0) && decide (kindOfGroup g = .lamp) && (halfMembers half).any fun m => inProfile s (codeOf g m)
  | _ => false

/-- R199: whether a member of a RESULT frame is fitted. -/
def memberFitted (s : State) (p : Pos) (g : Group) (m : Fin 16) : Bool :=
  if stateOf s p = .wired then inProfile s (codeOf g m)
  else
    match dirOf s p g with
    | some e => decide (m.val < e.members)
    | none => false

/-- R199: the half of its group that holds f. -/
def halfOf (f : Code) : Bool := decide (8 ≤ (memberOf f).val)

/-- The refresh time of a position, group and half. -/
def refreshTime (s : State) (p : Pos) (g : Group) (half : Bool) : Option Time :=
  if half then ((s.port.refresh.get p).get g).2 else ((s.port.refresh.get p).get g).1

/-- Set a refresh time. -/
def setRefresh (p : Pos) (g : Group) (half : Bool) (t : Option Time) (s : State) : State :=
  { s with port := { s.port with refresh := s.port.refresh.upd p fun r => r.upd g fun (x, y) =>
      if half then (x, t) else (t, y) } }

end Sys2Proof.Machine
end

