-- ==== Sys2Proof/Machine/Port.lean ====
section
/-! DEFINITION. The Tractor Port's frames: the ordinals of names (R190), the CONSIST, RESULT and VALUE frames (R190, R198
to R200), the RESULT refresh times (R199) and the sending of the queue's head (R197). -/

namespace Sys2Proof.Machine

/-! ## Ordinals -/

/-- R190: the ordinal of a position state in the list of R55. -/
def posStateNumber (x : PosState) : Nat :=
  match x with
  | .vacant => 0
  | .identifying => 1
  | .describing => 2
  | .exercising => 3
  | .running => 4
  | .wired => 5
  | .rejected => 6
  | .lost => 7

/-- R190: the ordinal of a check result in the list of R91. -/
def resultOrdinal (x : CheckResult) : Nat :=
  match x with
  | .unchecked => 0
  | .deferred => 1
  | .ok => 2
  | .low => 3
  | .high => 4
  | .openCircuit => 5
  | .short => 6
  | .out => 7
  | .noReply => 8
  | .sensorFault => 9
  | .actTimeout => 10

/-- R190: the restart cause of a CONSIST frame. -/
def causeNumber (c : Option RestartCause) : Nat :=
  match c with
  | none => 0
  | some .powerOn => 1
  | some .deviceReset => 2

/-- 1 for a set flag, 0 for a clear one. -/
def bit01 (b : Bool) : Nat := if b then 1 else 0

/-! ## Status frames -/

/-- R190: the identifier of a status frame of this kind. -/
def statusFrameId (s : State) (kind : Nat) : Nat := Config.statusId + 4 * s.port.node.val + kind

/-- R190, R198: the data of a CONSIST frame carrying this tx-overrun bit. -/
def consistData (s : State) (overrun : Bool) : List Byte :=
  num (posStateNumber (stateOf s 0) + 16 * posStateNumber (stateOf s 1))
    ++ num (posStateNumber (stateOf s 2) + 16 * posStateNumber (stateOf s 3))
    ++ num (bit01 (decide (s.decoder.motion = .moving)) + 2 * bit01 s.memory.invalid + 4 * bit01 overrun
        + 8 * causeNumber s.memory.cause)
    ++ num (bit01 (s.memory.mismatch.get 0) + 2 * bit01 (s.memory.mismatch.get 1) + 4 * bit01 (s.memory.mismatch.get 2)
        + 8 * bit01 (s.memory.mismatch.get 3) + 16 * s.policy.faults.length)

/-- R197: the tx-overrun bit of the CONSIST frame that waits, where one does. -/
def waitingOverrun (s : State) : Bool :=
  (txQueue s).any fun f =>
    decide (f.key = some .consist) && !f.sending && (f.data.getD 2 0).getLsbD 2

/-- R198, R197: place a CONSIST frame. It carries the tx-overrun flag, which placing it clears; replacing a waiting frame
keeps that frame's flag set. -/
def placeConsist (s : State) : State :=
  if wouldPlace .consist s then
    setOverrun false (placeStatus .consist (statusFrameId s 0) (consistData s (s.port.overrun || waitingOverrun s)) s)
  else setOverrun true s

/-- R199: the four bits of a member of a RESULT frame. -/
def resultNibble (s : State) (p : Pos) (g : Group) (m : Fin 16) : Nat :=
  if memberFitted s p g m then resultOrdinal (entryOf s p (codeOf g m)).result else 15

/-- R190: two members a byte, the lower in bits 3 to 0. -/
def pairNibbles : List Nat → List Byte
  | a :: b :: rest => BitVec.ofNat 8 (a + 16 * b) :: pairNibbles rest
  | _ => []

/-- R190, R199: the data of a RESULT frame. -/
def resultData (s : State) (p : Pos) (g : Group) (half : Bool) : List Byte :=
  num (posNumber p + 8 * bit01 half) ++ num g.val ++ pairNibbles ((halfMembers half).map fun m => resultNibble s p g m)

/-- R199: the refresh time is set to 1000 ms after each placing, while the position, group and half qualifies. -/
def noteRefresh (p : Pos) (g : Group) (half : Bool) (s : State) : State :=
  if qualifies s p g half then setRefresh p g half (some (s.now + Config.resultRefresh)) s else s

/-- R199: place a RESULT frame. -/
def placeResultFrame (p : Pos) (g : Group) (half : Bool) (s : State) : State :=
  if wouldPlace (.result p g half) s then
    noteRefresh p g half (placeStatus (.result p g half) (statusFrameId s 1) (resultData s p g half) s)
  else setOverrun true s

/-- R190, R200: the data of a VALUE frame. -/
def valueData (s : State) (p : Pos) (f : Code) : List Byte :=
  let e := entryOf s p f
  num (posNumber p) ++ num f.val ++ optWord (e.lastValue.map fun w => w.toNat)
    ++ num (bit01 e.read + 2 * bit01 e.changed + 4 * bit01 e.driven + 8 * bit01 e.unavailable + 16 * bit01 e.notFitted)
    ++ num (resultOrdinal e.result)

/-- R200: place a VALUE frame. -/
def placeValueFrame (p : Pos) (f : Code) (s : State) : State :=
  placeStatus (.value p f) (statusFrameId s 2) (valueData s p f) s

/-- R199: the refresh time of one position, group and half after its qualifying was looked at again. -/
def syncOne (p : Pos) (g : Group) (half : Bool) (s : State) : State :=
  if qualifies s p g half then
    if (refreshTime s p g half).isSome then s else setRefresh p g half (some s.now) s
  else setRefresh p g half none s

/-- R199: every refresh time after positions, directories or the Wired Profile changed. -/
def syncRefresh (s : State) : State :=
  allPos.foldl (fun s p => allGroups.foldl (fun s g => syncOne p g true (syncOne p g false s)) s) s

/-- The position, group and half places in the order of R199. -/
def refreshPlaces : List (Pos × Group × Bool) :=
  allPos.flatMap fun p => allGroups.flatMap fun g => [(p, g, false), (p, g, true)]

/-- R199: the first place whose refresh time has passed. -/
def firstRefresh (s : State) : Option (Pos × Group × Bool) :=
  refreshPlaces.find? fun (p, g, h) => passed s (refreshTime s p g h)

/-- R199: the refresh that is next placed, while fewer than 8 frames are queued. -/
def placeRefresh (s : State) : State :=
  if (txQueue s).length < Config.refreshRoom then
    match firstRefresh s with
    | some (p, g, h) => placeResultFrame p g h s
    | none => s
  else s

/-! ## Sending -/

/-- R197: the head frame begins sending. -/
def startSending (s : State) : State :=
  match txQueue s with
  | f :: fs => setQueue ({ f with sending := true } :: fs) s
  | [] => s

/-- R196: note that the RESET-DEVICE reply has been sent. -/
def noteResetSent (f : TxFrame) (s : State) : State :=
  if f.resetReply then { s with management := { s.management with resetSent := true } } else s

/-- The head request, once it has been handed on, is a RESET-DEVICE. -/
def resetting (s : State) : Bool :=
  match s.management.requests, s.management.head with
  | _ :: _, .waiting => false
  | r :: _, _ => decide (r.code.toNat = 25)
  | [], _ => false

/-- R196: the reply OK of RESET-DEVICE is placed, and the request keeps the head until the device reset. -/
def answerReset (s : State) : State :=
  match s.management.requests with
  | [] => s
  | r :: rs =>
    if (txQueue s).length < Config.txCapacity then
      let placed := setQueue (txQueue s ++ [{ replyFrame s r.code r.tag .ok [] with resetReply := true }]) s
      setRequests (r :: rs) .handed
        { placed with management := { placed.management with resetPlaced := some s.now } }
    else setRequests (r :: rs) (.answered .ok []) s

/-- R192: a reply that waits at the head of the Request List is placed once a place is free. -/
def placeWaitingReply (s : State) : State :=
  match s.management.head with
  | .answered r bytes => if resetting s then answerReset s else answer r bytes s
  | _ => s

/-- R197: the head frame has been sent without error. -/
def finishSending (s : State) : State :=
  match txQueue s with
  | f :: fs => placeWaitingReply (noteResetSent f (setQueue fs s))
  | [] => s

end Sys2Proof.Machine
end

