-- ==== Sys2Proof/Machine/Commands.lean ====
section
/-! DEFINITION. The Command Decoder: applying a tractor frame (R7, R14), the speed record and motion state (R12, R17, R18),
entries going stale (R15, R16) and decode entry writes (R4, R5). -/

namespace Sys2Proof.Machine

/-- Change the Command Decoder's state. -/
def modDecoder (f : Decoder → Decoder) (s : State) : State := { s with decoder := f s.decoder }

/-! ## Motion -/

/-- R19: the notices of a change of the motion state, in the order the rule names the blocks. -/
def motionNotices : List Notice := [.motionDelivery, .motionPolicy, .motionLoadCheck, .motionConsist]

/-- R17: the motion state goes to MOVING, if it is not MOVING already; a running stop timer is cancelled. -/
def goMoving (s : State) : State :=
  match s.decoder.motion with
  | .moving => modDecoder (fun d => { d with stopTimer := none }) s
  | .stationary => emitAll motionNotices (modDecoder (fun d => { d with motion := .moving, stopTimer := none }) s)

/-- R18: the motion state goes to STATIONARY and the stop timer becomes idle. -/
def goStationary (s : State) : State :=
  emitAll motionNotices (modDecoder (fun d => { d with motion := .stationary, stopTimer := none }) s)

/-- R17, R18: what an update of the speed record with this speed does to the motion state and the stop timer. -/
def judgeSpeed (v : Nat) (s : State) : State :=
  if 3 ≤ v then goMoving s
  else
    match s.decoder.motion with
    | .stationary => s
    | .moving =>
      if 1 ≤ v then modDecoder (fun d => { d with stopTimer := none }) s
      else modDecoder (fun d => { d with stopTimer := d.stopTimer.or (some s.now) }) s

/-- R12: an update of the speed record. -/
def updateSpeed (v : Nat) (s : State) : State :=
  judgeSpeed v (modDecoder (fun d => { d with speed := { speed := some v, since := some s.now, fresh := true } }) s)

/-- R17: the speed record becomes stale: the speed is kept, the stop timer cancelled, the motion state MOVING. -/
def speedGoesStale (s : State) : State :=
  goMoving (modDecoder (fun d => { d with speed := { d.speed with fresh := false } }) s)

/-- R5: the speed record is reset by the removal of the SPEED entry. -/
def resetSpeed (s : State) : State := goMoving (modDecoder (fun d => { d with speed := {} }) s)

/-! ## Applying a frame -/

/-- R14: an update of a Command Table entry. -/
def updateCommand (f : Code) (v : Nat) (kind : DecodeKind) (s : State) : State :=
  modCommand f (fun _ => { value := v, kind := some kind, since := some s.now, fresh := true, neverUpdated := false }) s

/-- R7: the functions a frame has updated, each once with the value it held before the frame. -/
abbrev Touched := List (Code × Nat)

/-- R7: one entry of the Decode Table applied to a frame. That the functions of a frame are handed on in the order in which
its entries first name them is the model's choice (notes/assumptions/6.md). -/
def applyEntry (frame : CanFrame) (e : DecodeEntry) (acc : State × Touched) : State × Touched :=
  match acc with
  | (s, touched) =>
    if entryMatches e frame then
      match (pickField e frame).bind (convertField e.kind e.width) with
      | none => (s, touched)
      | some v =>
        match e.code with
        | none => (updateSpeed v s, touched)
        | some f =>
          (updateCommand f v e.kind s,
            if touched.any (fun x => decide (x.1 = f)) then touched else touched ++ [(f, (commandOf s f).value)])
    else (s, touched)

/-- R14: the change notices of f, to the Delivery Unit, the Direct Line Unit and the Load Check Unit. -/
def changeNotices (f : Code) (cause : ChangeCause) (old : Nat) : List Notice :=
  [.commandChanged f cause old, .lineChange f cause, .levelBeneath (.command f cause)]

/-- R14: the notices of one updated function: the update to the Direct Line Unit, and where its value is another, the
change. -/
def updateNotices (s : State) (f : Code) (old : Nat) : List Notice :=
  .lineUpdate f :: if (commandOf s f).value = old then [] else changeNotices f .decoded old

/-- R7: one place of the Decode Table applied to a frame; an invalid entry is passed over. -/
def applySlot (frame : CanFrame) (acc : State × Touched) (e : Option DecodeEntry) : State × Touched :=
  match e with
  | some e => applyEntry frame e acc
  | none => acc

/-- R7: the frame is applied as one event: each valid entry in ascending number, then the notices. -/
def applyFrame (frame : CanFrame) (s : State) : State :=
  match s.decoder.entries.toList.foldl (applySlot frame) ((s, []) : State × Touched) with
  | (s', touched) => emitAll (touched.flatMap fun x => updateNotices s' x.1 x.2) s'

/-! ## Staleness -/

/-- R15: a FRESH entry becomes STALE, with the effect of its decode kind; a fall that alters the value is a change. -/
def entryGoesStale (f : Code) (s : State) : State :=
  let e := commandOf s f
  let v := staleValue e.kind e.value
  let s' := modCommand f (fun e => { e with value := v, fresh := false }) s
  if v = e.value then s' else emitAll (changeNotices f .stale e.value) s'

/-- R15, R16: the entry becomes STALE where it is FRESH and its age has reached the stale timeout. -/
def staleIfDue (f : Code) (s : State) : State :=
  if (commandOf s f).fresh && reachedStale s (commandOf s f).since then entryGoesStale f s else s

/-- R17: the speed record becomes stale where it is fresh and its age has reached the stale timeout. -/
def speedStaleIfDue (s : State) : State :=
  if s.decoder.speed.fresh && reachedStale s s.decoder.speed.since then speedGoesStale s else s

/-! ## Decode entries -/

/-- R4: the conditions of a write with valid set, but for the entry number. -/
def decodeEntryOk (s : State) (n : Fin 48) (e : DecodeEntry) : Bool :=
  idInRange e.format e.id && !idReserved e.format e.id
    && decide (e.byte ≤ 7) && decide (e.bit ≤ 7) && decide (1 ≤ e.width) && decide (e.width ≤ 8)
    && decide (8 * e.byte + e.bit + e.width ≤ 64)
    && (match e.kind with
      | .switch | .phase | .level => (e.code.map fun f => decide (kindOf f = .lamp)).getD false
      | .actuator => (e.code.map fun f => decide (kindOf f = .actuator)).getD false
      | .speed => e.code.isNone && decide (4 ≤ e.width)
          && (List.finRange 48).all fun m => decide (m = n) ||
            match s.decoder.entries.get m with
            | some o => decide (o.kind ≠ .speed)
            | none => true)

/-- The entry is a valid SPEED entry. -/
def isSpeedEntry (e : Option DecodeEntry) : Bool :=
  match e with
  | some e => decide (e.kind = .speed)
  | none => false

/-- R4, R5: the entry is replaced as a whole; a write that removes the valid SPEED entry resets the speed record. -/
def putDecodeEntry (n : Fin 48) (e : Option DecodeEntry) (s : State) : State :=
  let s' := modDecoder (fun d => { d with entries := d.entries.put n e }) s
  if isSpeedEntry (s.decoder.entries.get n) && !isSpeedEntry e then resetSpeed s' else s'

end Sys2Proof.Machine
end

