-- ==== Sys2Proof/Machine/Lines.lean ====
section
/-! DEFINITION. The Direct Line Unit: recomputing pending on-counts (R123), the exercise flag (R121), HOLD (R130, R131),
period boundaries and timebase moves (R117, R120, R124), sense samples and trips (R126 to R128), re-arming (R129), the
supply reading and V_ref (R125), and writes of the Wired Profile (R119, R120). -/

namespace Sys2Proof.Machine

/-! ## Pending on-counts -/

/-- R122: the pending on-count of the line is computed anew. -/
def computePending (k : LineNo) (s : State) : State := modLine k (fun l => { l with pendingOn := lineOnCount s k }) s

/-- R123: the pending on-count of the line is recomputed, unless it is in HOLD. -/
def recompute (k : LineNo) (s : State) : State := if (lineRec s k).hold.isSome then s else computePending k s

/-- R123: a recomputation event for every line that `f` picks. -/
def recomputeWhere (f : State → LineNo → Bool) (s : State) : State :=
  allLines.foldl (fun s k => if f s k then recompute k s else s) s

/-- R146: the exercise slot has a window open on circuit k. -/
def windowOn (s : State) (k : LineNo) : Bool :=
  match s.check.slot with
  | some sl => sl.window && decide (sl.entry.target = .circuit k)
  | none => false

/-- R121, R146: a window opens on circuit k: the exercise flag is set, unless the line is in HOLD. -/
def openLineWindow (k : LineNo) (s : State) : State :=
  if (lineRec s k).hold.isSome then s else computePending k (modLine k (fun l => { l with exercise := true }) s)

/-- R121, R147: the window on circuit k closes. -/
def closeLineWindow (k : LineNo) (s : State) : State := recompute k (modLine k (fun l => { l with exercise := false }) s)

/-- R146: a window still open when the hold ends sets the exercise flag then, after the hold's own recomputation. -/
def windowAfterHold (k : LineNo) (s : State) : State := if windowOn s k then openLineWindow k s else s

/-- Clear the hold flag and hold start time. -/
def clearHold (k : LineNo) : State → State := modLine k fun l => { l with hold := none }

/-- R131: an update notice, or a write of the function code, ends the hold: the pending on-count is computed anew. -/
def endHold (k : LineNo) (s : State) : State := windowAfterHold k (computePending k (clearHold k s))

/-- R131: the hold expires: the pending on-count becomes 0. -/
def expireHold (k : LineNo) (s : State) : State :=
  windowAfterHold k (modLine k (fun l => { l with pendingOn := 0 }) (clearHold k s))

/-- R127, R128, R131: a trip ends the hold of a line that is in HOLD; its pending on-count stays. -/
def dropHold (k : LineNo) (s : State) : State :=
  if (lineRec s k).hold.isSome then windowAfterHold k (clearHold k s) else s

/-- R131: the hold of the line has reached the stale timeout in force. -/
def holdExpired (s : State) (k : LineNo) : Bool := reachedStale s (lineRec s k).hold

/-- R131: what an update notice of f does to one line: it ends the hold. -/
def lineUpdateOne (f : Code) (s : State) (k : LineNo) : State :=
  if (wiredOf s k).code = some f ∧ (lineRec s k).hold.isSome = true then endHold k s else s

/-- R14: the Direct Line Unit is told of an update of f. -/
def lineUpdate (f : Code) (s : State) : State := allLines.foldl (lineUpdateOne f) s

/-- R123: what a change notice of f, whatever its cause, does to one line: its pending on-count is computed anew, but not
in HOLD. -/
def lineChangeOne (f : Code) (s : State) (k : LineNo) : State :=
  if (wiredOf s k).code = some f then recompute k s else s

/-- R14: the Direct Line Unit is told of a change of f. -/
def lineChange (f : Code) (s : State) : State := allLines.foldl (lineChangeOne f) s

/-! ## Period boundaries -/

/-- R117, R120: the line's pending on-count under the period of its timebase: computed anew, or in HOLD clamped. -/
def repitchLine (k : LineNo) (s : State) : State :=
  if (lineRec s k).hold.isSome then
    modLine k (fun l => { l with pendingOn := min l.pendingOn ((timebase s l.tb).period + 1) }) s
  else computePending k s

/-- R120: the line leaves its old timebase: its on-count in force is 0 and its settle count 2. It has moved to the new
timebase from here on, so a timebase write that comes before that one's next period makes it leave at that one's period end:
the rule does not say whether the line has moved then, and this is the model's choice (notes/assumptions/32.md). Its pending
on-count is computed here already, but not in HOLD (notes/assumptions/32.md). -/
def moveLine (k : LineNo) (s : State) : State :=
  recompute k (modLine k (fun l =>
    { l with tb := (wiredOf s k).timebase, onCount := 0, settle := 2, sampled := true, joining := true }) s)

/-- R120: at the end of a period, each line on the timebase whose profile names the other leaves it. -/
def moveLines (t : TbName) (s : State) : State :=
  allLines.foldl (fun s k =>
    if (lineRec s k).tb = t ∧ (wiredOf s k).timebase ≠ t then moveLine k s else s) s

/-- R117: a pending period becomes the period, and the on-counts of the timebase's lines are computed for it. -/
def applyPending (t : TbName) (s : State) : State :=
  match (timebase s t).pending with
  | none => s
  | some p =>
    allLines.foldl (fun s k => if (lineRec s k).tb = t then repitchLine k s else s)
      (modTimebase t (fun b => { b with period := p, pending := none }) s)

/-- R120: a line that has moved has its pending on-count put under its new timebase's P at that one's next period start. -/
def joinTimebase (k : LineNo) (s : State) : State :=
  if (lineRec s k).joining then modLine k (fun l => { l with joining := false }) (repitchLine k s) else s

/-- R124: at a period's start the line takes its on-count in force; taking 0 sets the settle count to 2. -/
def takeOnCount (k : LineNo) (s : State) : State :=
  let s' := joinTimebase k s
  let d := if tripped s' k then 0 else (lineRec s' k).pendingOn
  modLine k (fun l => { l with onCount := d, settle := if d = 0 then 2 else l.settle, sampled := false }) s'

/-- R124: each line on the timebase takes its on-count. -/
def takeOnCounts (t : TbName) (s : State) : State :=
  allLines.foldl (fun s k => if (lineRec s k).tb = t then takeOnCount k s else s) s

/-- R116, R117, R120, R124: the period of a timebase ends and the next begins. R117 and R120 do not order what they do at one
period end: that a line that leaves the timebase does so before a pending period applies, so that in HOLD its pending on-count
is not clamped to the old timebase's new P + 1, is the model's choice (notes/assumptions/32.md). -/
def nextPeriod (t : TbName) (s : State) : State :=
  let old := (timebase s t).period
  takeOnCounts t
    (applyPending t (moveLines t (modTimebase t (fun b => { b with start := b.start + old + 1 }) s)))

/-! ## Samples and trips -/

/-- R127: a line trip: the flag, the on-count and the settle count at once, the hold ended, the trip notice and the
LINE-TRIP fault. -/
def tripLine (k : LineNo) (s : State) : State :=
  emitAll [.tripNotice k, .faultRequest (faultOf .lineTrip none (wiredOf s k).code none k.val)]
    (dropHold k (modLine k (fun l => { l with trip := true, onCount := 0, settle := 2 }) s))

/-- R128: the detail of a GROUP-TRIP fault. -/
def groupDetail (g : FaultGroup) : Nat :=
  match g with
  | .fa => 0
  | .fb => 1

/-- R128: an assertion found while the group trip flag is clear. That the trip notices of its lit lines go in ascending order is
the model's choice (notes/assumptions/6.md). -/
def tripGroup (g : FaultGroup) (s : State) : State :=
  let lit := (groupLines g).filter fun k => decide ((lineRec s k).onCount ≠ 0)
  emitAll (lit.map Notice.tripNotice ++ [.faultRequest (faultOf .groupTrip none none none (groupDetail g))])
    ((groupLines g).foldl (fun s k => dropHold k (modLine k (fun l => { l with onCount := 0, settle := 2 }) s))
      (setGroupTrip g true s))

/-- R128: the fault input is asserted. An assertion while the group trip flag is set changes nothing more. -/
def assertFault (g : FaultGroup) (s : State) : State :=
  let s' := setFaultInput g true s
  if groupTripped s g then s' else tripGroup g s'

/-- R126: the moment of the line's sample tick in the present period; none when its on-count is 0 or the tick has been
acted on. -/
def sampleMoment (s : State) (k : LineNo) : Option Time :=
  let l := lineRec s k
  if l.onCount = 0 || l.sampled then none else some ((timebase s l.tb).start + sampleTick l.onCount)

/-! ## Re-arming -/

/-- R129: a named line's group stays tripped: its flag is set and its fault input asserted. -/
def groupStaysTripped (s : State) (g : FaultGroup) : Bool := groupTripped s g && faultInput s g

/-- R129: the effect on one fault group and its named lines. -/
def rearmGroup (named : List LineNo) (g : FaultGroup) (s : State) : State :=
  let mine := named.filter fun k => decide (lineGroup k = g)
  if mine.isEmpty || groupStaysTripped s g then s
  else mine.foldl (fun s k => modLine k (fun l => { l with trip := false }) s) (setGroupTrip g false s)

/-- R129: some named line's group stays tripped. -/
def rearmBlocked (named : List LineNo) (s : State) : Bool := named.any fun k => groupStaysTripped s (lineGroup k)

/-- R190, R129: the lines of a line set. -/
def lineSet (n : Nat) : List LineNo := allLines.filter fun k => n.testBit k.val

/-! ## Supply and reference -/

/-- R125: a supply reading is taken: the lines it concerns are recomputed. -/
def takeSupply (mv : Nat) (s : State) : State :=
  recomputeWhere
    (fun s k => decide ((wiredOf s k).comp = .resistive) && decide (0 < levelOf s k) && decide (levelOf s k < 255))
    { s with direct := { s.direct with supply := some mv, nextSupply := s.direct.nextSupply + Config.supplySpacing } }

/-! ## HOLD at device reset -/

/-- R130: the line as device reset leaves it: in HOLD with its on-count, unless it or its group is tripped. -/
def holdAtReset (now : Time) (groupTrip : Bool) (l : Line) : Line :=
  if l.trip || groupTrip then { l with exercise := false, hold := none }
  else { l with exercise := false, hold := some now, pendingOn := l.onCount }

/-! ## The Wired Profile -/

/-- R119: the fields of a Wired Profile entry, in the order of the rule's table. -/
inductive WiredField where
  | code | timebase | comp | trip | tLo | tHi | openMin
  deriving DecidableEq, Repr

/-- R190: the field of an ordinal. -/
def wiredFieldOf (n : Nat) : Option WiredField :=
  match n with
  | 0 => some .code
  | 1 => some .timebase
  | 2 => some .comp
  | 3 => some .trip
  | 4 => some .tLo
  | 5 => some .tHi
  | 6 => some .openMin
  | _ => none

/-- R190: a 1-byte encoding carried in a 2-byte value stands in the low byte, and the high byte is 0. That no other high
byte is taken is the model's choice (notes/assumptions/21.md). -/
def lowByte (v : Nat) : Option Nat := if v < 256 then some v else none

/-- R119, R120: WRITE-WIRED of a function code: a LAMP code, or none. The hold ends and the pending on-count is
recomputed from the level the new code gives. -/
def writeWiredCode (k : LineNo) (f : Option Code) (s : State) : State :=
  emitAll [.levelBeneath (.profile k), .syncRefresh] (endHold k (modWired k (fun w => { w with code := f }) s))

/-- R119, R120: WRITE-WIRED of one field. None when the value is refused, that of a 1-byte field whose high byte is not 0
among them (the model's choice, notes/assumptions/21.md). -/
def writeWiredField (k : LineNo) (field : WiredField) (v : Nat) (s : State) : Option State :=
  match field with
  | .code =>
    if v = 255 then some (writeWiredCode k none s)
    else if h : v < 192 then
      if kindOf ⟨v, h⟩ = .lamp then some (writeWiredCode k (some ⟨v, h⟩) s) else none
    else none
  | .timebase => (lowByte v).bind tbOf |>.map fun t => modWired k (fun w => { w with timebase := t }) s
  | .comp => (lowByte v).bind compOf |>.map fun c => recompute k (modWired k (fun w => { w with comp := c }) s)
  | .trip => some (modWired k (fun w => { w with trip := clamp 500 20000 v }) s)
  | .tLo => some (modWired k (fun w => { w with tLo := clamp 0 50 v }) s)
  | .tHi => some (modWired k (fun w => { w with tHi := clamp 0 50 v }) s)
  | .openMin => some (modWired k (fun w => { w with openMin := clamp 0 1000 v }) s)

/-- R119: READ-WIRED of one field, encoded. -/
def readWiredField (s : State) (k : LineNo) (field : WiredField) : List Byte :=
  let w := wiredOf s k
  match field with
  | .code => optCode w.code
  | .timebase => num (match w.timebase with
      | .a => 0
      | .b => 1)
  | .comp => num (match w.comp with
      | .none => 0
      | .resistive => 1)
  | .trip => word w.trip
  | .tLo => word w.tLo
  | .tHi => word w.tHi
  | .openMin => word w.openMin

end Sys2Proof.Machine
end

