-- ==== Sys2Proof/Machine/Binding.lean ====
section
/-! DEFINITION. The Binding Store: the offer of fetch words (R84), claims and the reclaim walk (R88), translation and lookup
(R82, R73), fetch ends (R85, R86), freeing (R87), the no-space marks (R89) and pinning (R90). -/

namespace Sys2Proof.Machine

/-- Change the Binding Store's state. -/
def modBinding (f : Binding → Binding) (s : State) : State := { s with binding := f s.binding }

/-! ## The class 3 offer -/

/-- R84: the lowest-numbered FETCHING block of p. -/
def fetchingBlock (s : State) (p : Pos) : Option BlockNo :=
  allBlocks.find? fun b =>
    decide ((blockOf s b).state = .fetching) &&
      match (blockOf s b).owner with
      | some (q, _) => decide (q = p)
      | none => false

/-- The READ-WORD of a block's next word. -/
def fetchOffer (s : State) (p : Pos) (b : BlockNo) : Option Offer :=
  match (blockOf s b).owner, nextFetchAddr s b with
  | some (_, g), some a =>
    some { requester := .bindingStore, cls := 2, pos := linePos p, op := .readWord, addr := some a, data := none,
           why := .fetchWord p g b a }
  | _, _ => none

/-- R84: keep the class 3 offer of p: the next word of its lowest-numbered FETCHING block, unless that word is in
flight; no offer when p has none. That a lower-numbered block goes before the next word of a block that has been begun, or before
one that ended Unheard (R85), is the model's choice (notes/assumptions/45.md). -/
def offerFetch (p : Pos) (s : State) : State :=
  match (fetchingBlock s p).bind (fetchOffer s p) with
  | none => withdraw .bindingStore 2 (linePos p) s
  | some o => if flightIs s fun x => decide (x.why = o.why) then s else makeOffer o s

/-- R96, R151: what the Delivery Unit is told when accesses of p may have become held or unheld: it looks again at its
offers of classes 1, 2 and 6. -/
def holdNotices (p : Pos) : List Notice := [.scan p false, .scan p true, .classSix p]

/-! ## Claims -/

/-- R88: the blocks once round, from the one after the reclaim pointer. -/
def reclaimOrder (pointer : BlockNo) : List BlockNo :=
  allBlocks.drop (pointer.val + 1) ++ allBlocks.take (pointer.val + 1)

/-- R88: a block neither circle skips. -/
def reclaimable (b : Block) : Bool := !b.pinned && decide (b.state ≠ .fetching)

/-- R88, the first circle: referenced flags of the blocks passed are cleared until a clear one is found. -/
def firstCircle : List BlockNo → State → Option BlockNo × State
  | [], s => (none, s)
  | b :: bs, s =>
    if reclaimable (blockOf s b) then
      if (blockOf s b).referenced then firstCircle bs (modBlock b (fun x => { x with referenced := false }) s)
      else (some b, s)
    else firstCircle bs s

/-- Set the reclaim pointer. -/
def setPointer (b : BlockNo) (s : State) : State := modBinding (fun x => { x with pointer := b }) s

/-- R88: the block a claim takes, where it takes one. -/
def takeBlock (s : State) : Option BlockNo × State :=
  match allBlocks.find? fun b => decide ((blockOf s b).state = .free) with
  | some b => (some b, s)
  | none =>
    match firstCircle (reclaimOrder s.binding.pointer) s with
    | (some b, s') => (some b, setPointer b s')
    | (none, s') =>
      match (reclaimOrder s.binding.pointer).find? fun b => reclaimable (blockOf s' b) with
      | some b => (some b, setPointer b s')
      | none => (none, s')

/-- R88: a reclaimed block's former owner holds no block. -/
def dropOwner (b : BlockNo) (s : State) : State :=
  match (blockOf s b).owner with
  | some (p, g) => modGroup p g (fun r => { r with block := none }) s
  | none => s

/-- R84: the claimed block is set up for (p, g) and its first fetch word offered. -/
def setUpBlock (b : BlockNo) (p : Pos) (g : Group) (pin : Bool) (s : State) : State :=
  emitAll (holdNotices p) <| offerFetch p
    (modGroup p g (fun r => { r with block := some b })
      (modBlock b (fun _ => { state := .fetching, owner := some (p, g), pinned := pin, progress := some (0, 0) })
        (dropOwner b s)))

/-- R89: a claim that fails records the shortage once per group. -/
def claimFailed (p : Pos) (g : Group) (f : Option Code) (k : Option AccessKind) (s : State) : State :=
  if (groupRec s p g).noSpace then s
  else
    emitAll (holdNotices p)
      (recordFault .noSpace (some p) f k g.val (modGroup p g (fun r => { r with noSpace := true }) s))

/-- R84, R88, R89: a claim for (p, g), and whether it took a block. -/
def claim (p : Pos) (g : Group) (pin : Bool) (f : Option Code) (k : Option AccessKind) (s : State) : Bool × State :=
  match takeBlock s with
  | (some b, s') => (true, setUpBlock b p g pin s')
  | (none, s') => (false, claimFailed p g f k s')

/-! ## Lookup and translation -/

/-- R82, R73: what a lookup of a group answers. -/
inductive GroupAnswer where
  | notReady | notFitted | noSpace | wait
  | loaded (b : BlockNo) (e : DirEntry)
  deriving DecidableEq, Repr

/-- R83: a requester joins the wait set of a block, once. -/
def joinWait (b : BlockNo) (w : Waiter) : State → State :=
  modBlock b fun x => if x.waiters.contains w then x else { x with waiters := x.waiters ++ [w] }

/-- Set the referenced flag of a block. -/
def reference (b : BlockNo) : State → State := modBlock b fun x => { x with referenced := true }

/-- R82, steps 1 to 6, and R73: the lookup of group g of p, for an access to f under kind k where there is one. A REJECTED
position is answered NOT-READY, not NOT-FITTED (the model's choice between R82 and R65, notes/assumptions/36.md). -/
def lookupGroup (p : Pos) (g : Group) (f : Option Code) (k : Option AccessKind) (w : Waiter) (s : State) :
    GroupAnswer × State :=
  if inService s p = false then (.notReady, s)
  else
    match dirOf s p g with
    | none => (.notFitted, s)
    | some e =>
      if (groupRec s p g).fetchFailed then (.notFitted, s)
      else if (groupRec s p g).noSpace then (.noSpace, s)
      else
        match (groupRec s p g).block with
        | some b =>
          if (blockOf s b).state = .fetching then (.wait, joinWait b w s) else (.loaded b e, reference b s)
        | none =>
          match claim p g false f k s with
          | (true, s') =>
            match (groupRec s' p g).block with
            | some b => (.wait, joinWait b w s')
            | none => (.wait, s')
          | (false, s') => (.noSpace, s')

/-- R82: the answers of a translation. -/
inductive Answer where
  | notReady | notFitted | noSpace | wait | refused
  | hit (r : FnRecord)
  deriving DecidableEq, Repr

/-- R106: the Policy Check answers a check request, recording POLICY-REFUSED before a refusal. -/
def checkPolicy (p : Pos) (f : Code) (c d : Fin 8) (k : AccessKind) (s : State) : Bool × State :=
  if permits s c d k then (true, s)
  else (false, recordFault .policyRefused (some p) (some f) (some k) (policyIndex c d).val s)

/-- R82, step 8: DESCRIPTOR-BAD is recorded once for each time the row is written. -/
def reportRow (p : Pos) (f : Code) (k : AccessKind) (b : BlockNo) (e : DirEntry) (s : State) : State :=
  match (blockOf s b).rows.get (memberOf f) with
  | some r =>
    if r.reported then s
    else recordFault .descriptorBad (some p) (some f) (some k) (e.locator + 4 * (memberOf f).val)
      (modBlock b (fun x => { x with rows := x.rows.put (memberOf f) (some { r with reported := true }) }) s)
  | none => s

/-- R82: translation of one access of kind k to (p, f); `zero` marks a delivery of value 0, which passes step 9
unchecked. -/
def translate (p : Pos) (f : Code) (k : AccessKind) (zero : Bool) (w : Waiter) (s : State) : Answer × State :=
  match lookupGroup p (groupOf f) (some f) (some k) w s with
  | (.notReady, s') => (.notReady, s')
  | (.notFitted, s') => (.notFitted, s')
  | (.noSpace, s') => (.noSpace, s')
  | (.wait, s') => (.wait, s')
  | (.loaded b e, s') =>
    if e.members ≤ (memberOf f).val then (.notFitted, s')
    else
      match (blockOf s' b).rows.get (memberOf f) with
      | none => (.notFitted, s')
      | some r =>
        if r.unusable then (.notFitted, reportRow p f k b e s')
        else if zero then (.hit r.record, s')
        else
          match checkPolicy p f e.policyClass r.record.fnClass k s' with
          | (true, s'') => (.hit r.record, s'')
          | (false, s'') => (.refused, s'')

/-! ## Marks, freeing and fetch ends -/

/-- Some group record carries the no-space mark. -/
def anyNoSpace (s : State) : Bool := allPos.any fun p => allGroups.any fun g => (groupRec s p g).noSpace

/-- R89: every no-space mark is cleared together, and a no-space notice handed to every requester. -/
def clearNoSpace (s : State) : State :=
  if anyNoSpace s then
    emit .noSpaceNotice
      (modBinding (fun x => { x with groups := x.groups.map fun t => t.map fun r => { r with noSpace := false } }) s)
  else s

/-- R87: block b is made FREE and its owner's group record names no block; the next word of another FETCHING block of the
position is offered in place of b's. The wait set is the caller's to answer. -/
def releaseBlock (b : BlockNo) (s : State) : State :=
  match (blockOf s b).owner with
  | some (p, g) => offerFetch p (modGroup p g (fun r => { r with block := none }) (modBlock b (fun _ => {}) s))
  | none => modBlock b (fun _ => {}) s

/-- R87, R83: a block is freed: its wait set is handed freed notices and every no-space mark is cleared. -/
def freeBlock (b : BlockNo) (s : State) : State :=
  clearNoSpace (emitAll ((blockOf s b).waiters.map Notice.waiterFreed) (releaseBlock b s))

/-- The blocks owned by p that `f` picks. -/
def ownedBlocks (s : State) (p : Pos) (f : Block → Bool) : List BlockNo :=
  allBlocks.filter fun b =>
    f (blockOf s b) &&
      match (blockOf s b).owner with
      | some (q, _) => decide (q = p)
      | none => false

/-- R179: the FETCHING blocks of a position that goes LOST are freed. -/
def freeFetching (p : Pos) (s : State) : State :=
  (ownedBlocks s p fun b => decide (b.state = .fetching)).foldl (fun s b => freeBlock b s) s

/-- R176: the blocks of a released position are freed and its twelve group records cleared. -/
def resetBinding (p : Pos) (s : State) : State :=
  modBinding (fun x => { x with groups := x.groups.put p (Tab.fill {}) })
    ((ownedBlocks s p fun _ => true).foldl (fun s b => freeBlock b s) s)

/-- R85: a fetch word is wanted when its block is FETCHING for the group it was asked for, with its next word at the
address it was asked for. -/
def wordWanted (s : State) (p : Pos) (g : Group) (b : BlockNo) (addr : Nat) : Bool :=
  decide ((blockOf s b).state = .fetching) && decide ((blockOf s b).owner = some (p, g))
    && decide (nextFetchAddr s b = some addr)

/-- R86: a fetch fails: DESCRIPTOR-BAD, the block freed, the fetch-failed mark, the wait set answered NOT-FITTED. That the
no-space notice of the freeing (R89) is acted on after the wait set is answered is the model's choice
(notes/assumptions/6.md). -/
def fetchFails (p : Pos) (g : Group) (b : BlockNo) (addr : Nat) (s : State) : State :=
  let waiters := (blockOf s b).waiters
  clearNoSpace (emitAll (waiters.map Notice.waiterFailed ++ holdNotices p)
    (modGroup p g (fun r => { r with fetchFailed := true })
      (releaseBlock b (recordFault .descriptorBad (some p) none none addr s))))

/-- R81, R85: the fourth word of a record completes the row of its member. -/
def writeRow (b : BlockNo) (g : Group) (m : Nat) (w0 w1 w2 w3 : Word) : State → State :=
  modBlock b fun x =>
    { x with rows := if h : m < 16 then x.rows.put ⟨m, h⟩ (some (rowOf g (fnRecordOf w0 w1 w2 w3))) else x.rows,
             words := [] }

/-- R85: the block becomes LOADED; the loaded notices are handed and, as a block leaves FETCHING, the no-space marks
cleared (R89). That the no-space notice is acted on after the loaded ones is the model's choice (notes/assumptions/6.md). -/
def becomeLoaded (p : Pos) (b : BlockNo) (s : State) : State :=
  let waiters := (blockOf s b).waiters
  clearNoSpace (emitAll (waiters.map Notice.waiterLoaded ++ holdNotices p)
    (modBlock b (fun x => { x with state := .loaded, referenced := true, progress := none, waiters := [] }) s))

/-- R85: a wanted word is taken into its block. -/
def takeFetchWord (p : Pos) (g : Group) (b : BlockNo) (w : Word) (s : State) : State :=
  match (blockOf s b).progress, dirOf s p g, (blockOf s b).words with
  | some (m, 3), some e, [w0, w1, w2] =>
    let s' := writeRow b g m w0 w1 w2 w s
    if e.members ≤ m + 1 then becomeLoaded p b s'
    else modBlock b (fun x => { x with progress := some (m + 1, 0) }) s'
  | some (m, i), _, _ => modBlock b (fun x => { x with progress := some (m, i + 1), words := x.words ++ [w] }) s
  | none, _, _ => s

/-- R85: the end of a fetch READ-WORD. -/
def fetchEnd (p : Pos) (g : Group) (b : BlockNo) (addr : Nat) (out : LineOutcome) (data : Option Word) (s : State) :
    State :=
  if wordWanted s p g b addr then
    match out with
    | .ready => offerFetch p (takeFetchWord p g b (data.getD 0) s)
    | .unheard => offerFetch p s
    | .notReady | .notHeard => fetchFails p g b addr s
  else s

/-! ## Pinning -/

/-- R90: the pinned blocks. -/
def pinnedCount (s : State) : Nat := (allBlocks.filter fun b => (blockOf s b).pinned).length

/-- R90: PIN-GROUP, its position and group in range. That the NO-SPACE fault of its claim carries no function code and no
access kind is the model's choice (R89, notes/assumptions/39.md). -/
def pinGroup (p : Pos) (g : Group) (s : State) : ResultCode × State :=
  if inService s p = false then (.notReady, s)
  else if (dirOf s p g).isNone || (groupRec s p g).fetchFailed then (.notFitted, s)
  else
    match (groupRec s p g).block with
    | some b =>
      if (blockOf s b).pinned then (.ok, s)
      else if Config.pinLimit ≤ pinnedCount s then (.noSpace, s)
      else (.ok, modBlock b (fun x => { x with pinned := true }) s)
    | none =>
      if Config.pinLimit ≤ pinnedCount s then (.noSpace, s)
      else
        match claim p g true none none s with
        | (true, s') => (.ok, s')
        | (false, s') => (.noSpace, s')

/-- R90, R89: UNPIN-GROUP clears the pinned flag of the group's block. -/
def unpinGroup (p : Pos) (g : Group) (s : State) : State :=
  match (groupRec s p g).block with
  | some b =>
    if (blockOf s b).pinned then clearNoSpace (modBlock b (fun x => { x with pinned := false }) s) else s
  | none => s

end Sys2Proof.Machine
end

