-- ==== Sys2Proof/Machine/LoadCheck.lean ====
section
/-! DEFINITION. The Load Check Unit: contributors and the change rule (R133, R134, R149), rebuilds (R135), samples and
evaluation (R136 to R140), suspension (R141), node-lamp checks (R142 to R144), the Exercise Queue (R145) and the exercise
slot (R146, R147), and RECHECK (R148). -/

namespace Sys2Proof.Machine

/-! ## The arithmetic of R137 and R138 -/

/-- R137: the expected current of a contributor. -/
def expectedCurrent (n : Nat) (kind : LoadKind) (vc vref : Nat) : Nat :=
  match kind with
  | .resistive => n * vc / vref
  | .constPower => n * vref / vc
  | .constCurrent => n

/-- R137: the class of a measured current. -/
def currentClass (e m tLo tHi openMin : Nat) (presence : Bool) : OutClass :=
  let l := e * (100 - tLo) / 100
  let h := e * (100 + tHi) / 100
  if m < openMin then (if e = 0 then .ok else .openCircuit)
  else if e = 0 then (if presence then .ok else .high)
  else if m < l then .low
  else if h < m then .high
  else .ok

/-- R138: a contributor of expected current e is a candidate for the shortfall s. -/
def isCandidate (s e tLo : Nat) : Bool := decide (gap s e ≤ e * tLo / 100)

/-- R137, R138: the outcome of a measured current over the contributors with their expected currents. -/
def judgeCurrent (es : List ((Pos × Code) × Nat)) (m tLo tHi openMin : Nat) (presence : Bool) : CheckOutcome :=
  let e := (es.map fun x => x.2).sum
  match currentClass e m tLo tHi openMin presence with
  | .low =>
    match es.filter fun x => isCandidate (e - m) x.2 tLo with
    | [c] => { cls := .outAttributed, named := some c.1 }
    | _ => { cls := .low }
  | c => { cls := c }

/-- R139: the check result a class is written as, for a contributor that is or is not the one named OUT. -/
def classResult (cls : OutClass) (isNamed : Bool) : CheckResult :=
  match cls with
  | .ok => .ok
  | .low => .low
  | .high => .high
  | .openCircuit => .openCircuit
  | .short => .short
  | .outAttributed => if isNamed then .out else .ok

/-! ## Circuits -/

/-- R137: presence only: position 1 is WIRED and the circuit's list is empty. -/
def presenceOnly (s : State) (k : LineNo) : Bool :=
  decide (stateOf s 0 = .wired) && (circuitRec s k).contributors.isEmpty

/-- R137: the contributors of circuit k with their expected currents. -/
def expectedList (s : State) (k : LineNo) : List ((Pos × Code) × Nat) :=
  (circuitRec s k).contributors.map fun c =>
    ((c.pos, c.code),
      expectedCurrent c.nominal c.loadKind (clampedSupply s.settings.vref s.direct.supply) s.settings.vref)

/-- R137: the measured current of four sense codes. -/
def measured (codes : List Nat) : Nat := Config.senseStep * codes.sum / 4

/-- R137, R138: the evaluation of circuit k over four samples. -/
def evaluate (s : State) (k : LineNo) (codes : List Nat) : CheckOutcome :=
  let w := wiredOf s k
  judgeCurrent (expectedList s k) (measured codes) w.tLo w.tHi w.openMin (presenceOnly s k)

/-- R139, R140: the writes that report an outcome: to every contributor, and to (1, f) under the presence rule. -/
def outcomeWrites (s : State) (k : LineNo) (o : CheckOutcome) : List Notice :=
  ((circuitRec s k).contributors.map fun c =>
      Notice.writeResult c.pos c.code (classResult o.cls (decide (o.named = some (c.pos, c.code)))))
    ++ (if presenceOnly s k then
          ((wiredOf s k).code.map fun f => Notice.writeResult 0 f (classResult o.cls false)).toList
        else [])

/-- R139: an outcome is reported where it differs from the reported one. -/
def reportOutcome (k : LineNo) (o : CheckOutcome) (s : State) : State :=
  if (circuitRec s k).reported = some o then s
  else emitAll (outcomeWrites s k o) (modCircuit k (fun c => { c with reported := some o }) s)

/-- R139: an evaluation's outcome is compared with the last and becomes it; an equal one is established, which also ends
the check of the slot on this circuit (R147). -/
def takeEvaluation (k : LineNo) (o : CheckOutcome) (s : State) : State :=
  let before := (circuitRec s k).last
  let s' := modCircuit k (fun c => { c with last := some o }) s
  if before = some o then emit (.slotEnded (.circuit k)) (reportOutcome k o s') else s'

/-- R136: a sample joins its circuit's set, the fourth being evaluated at once; it is discarded while coupling is ABSENT
or the circuit OVERFULL. -/
def takeSample (k : LineNo) (code : Nat) (s : State) : State :=
  if s.consist.cplPresent = false || (circuitRec s k).overfull then s
  else
    let codes := (circuitRec s k).samples ++ [code]
    if codes.length < 4 then modCircuit k (fun c => { c with samples := codes }) s
    else takeEvaluation k (evaluate s k codes) (modCircuit k (fun c => { c with samples := [] }) s)

/-- R140: a trip notice for circuit k. -/
def takeTrip (k : LineNo) (s : State) : State :=
  if s.consist.cplPresent = false then s
  else
    let o : CheckOutcome := { cls := .short }
    emitAll (outcomeWrites s k o ++ [.slotEnded (.circuit k)])
      (modCircuit k (fun c => { c with samples := [], last := none, reported := some o }) s)

/-- R134: the change rule of circuit k; `exercise` is clear where the rule makes no exercise request. -/
def changeRule (k : LineNo) (exercise : Bool) (s : State) : State :=
  emitAll
    (((circuitRec s k).contributors.map fun c => Notice.writeResult c.pos c.code .unchecked)
      ++ (if exercise && isStationary s && s.consist.cplPresent then [.changeRequest k] else []))
    (modCircuit k (fun c => { c with samples := [], last := none, reported := none }) s)

/-- R132: the order of a Contributor List: by position and then by code. -/
def contributorBefore (a b : Contributor) : Bool :=
  decide (a.pos < b.pos) || (decide (a.pos = b.pos) && decide (a.code < b.code))

/-- R133: an entry inserted at its place. -/
def insertContributor (c : Contributor) : List Contributor → List Contributor
  | [] => [c]
  | d :: ds => if contributorBefore c d then c :: d :: ds else d :: insertContributor c ds

/-- The list of circuit k holds (p, f). -/
def holdsContributor (s : State) (k : LineNo) (p : Pos) (f : Code) : Bool :=
  (circuitRec s k).contributors.any fun c => decide (c.pos = p) && decide (c.code = f)

/-- R147: while a window is open on circuit k, a contributor that joins or leaves it is told of by a window notice. -/
def windowJoin (k : LineNo) (opening : Bool) (p : Pos) (f : Code) (s : State) : State :=
  if windowOn s k then emit (.windowNotice opening [(p, f)]) s else s

/-- Change the rebuild under way, where one is. -/
def modRebuild (f : Rebuild → Rebuild) (s : State) : State :=
  { s with check := { s.check with rebuild := s.check.rebuild.map f } }

/-- R135: an addition to circuit k is turned away while a rebuild of it may be under way. -/
def noteTurnedAway (k : LineNo) : State → State :=
  modRebuild fun r => if r.circuit = k then { r with turnedAway := true } else r

/-- R133: a contributor addition; one that a full list turns away is noted by a rebuild of the circuit (R135). -/
def fileContributor (p : Pos) (i : WireItem) (s : State) : State :=
  let c := circuitRec s i.circuit
  let n : Contributor := { pos := p, code := i.code, nominal := i.nominal, loadKind := i.loadKind }
  if holdsContributor s i.circuit p i.code then s
  else if c.contributors.length < Config.contributorCapacity then
    changeRule i.circuit true (windowJoin i.circuit true p i.code
      (modCircuit i.circuit (fun c => { c with contributors := insertContributor n c.contributors }) s))
  else if c.overfull then noteTurnedAway i.circuit s
  else noteTurnedAway i.circuit (changeRule i.circuit false (modCircuit i.circuit (fun c => { c with overfull := true }) s))

/-! ## Rebuilds -/

/-- R135: an OVERFULL circuit with room in its list. -/
def wantsRebuild (c : Circuit) : Bool := c.overfull && decide (c.contributors.length < Config.contributorCapacity)

/-- R135: a rebuild is made pending where circuit k is OVERFULL with room. -/
def makeRebuildPending (k : LineNo) (s : State) : State :=
  if wantsRebuild (circuitRec s k) then modCircuit k (fun c => { c with rebuildPending := true }) s else s

/-- R135: a position has entered EXERCISING. -/
def rebuildOnEntry (s : State) : State := emit .rebuildStart (allLines.foldl (fun s k => makeRebuildPending k s) s)

/-- Set the rebuild under way. -/
def setRebuild (r : Option Rebuild) (s : State) : State := { s with check := { s.check with rebuild := r } }

/-- R135: with none running, the pending rebuild of the lowest circuit runs. That it is pending no longer once it runs is the
model's choice (notes/assumptions/31.md). -/
def startRebuild (s : State) : State :=
  if s.check.rebuild.isSome then s
  else
    match allLines.find? fun k => (circuitRec s k).rebuildPending with
    | some k =>
      emit .rebuildStep
        (setRebuild (some { circuit := k }) (modCircuit k (fun c => { c with rebuildPending := false }) s))
    | none => s

/-- R135: the conditions under which a rebuild that has looked at every group clears the overfull flag. -/
def rebuildClears (r : Rebuild) (s : State) : Bool :=
  !r.incomplete && !r.turnedAway
    && allPos.all fun p => decide (stateOf s p ≠ .lost) && !(decide (stateOf s p = .describing) && (streamRec s p).active)

/-- R135: the rebuild ends. -/
def endRebuild (r : Rebuild) (s : State) : State :=
  let s' := setRebuild none s
  emit .rebuildStart
    (if rebuildClears r s then changeRule r.circuit true (modCircuit r.circuit (fun c => { c with overfull := false }) s')
     else s')

/-- R135: the additions of one looked-up group, in ascending member order. -/
def rebuildRows (k : LineNo) (p : Pos) (g : Group) (b : BlockNo) (s : State) : State :=
  allMembers.foldl
    (fun t m =>
      match (blockOf s b).rows.get m with
      | some r =>
        if !r.unusable && decide (r.record.feed = .wired) && decide (circuitOf r.record = k) then
          fileContributor p
            { circuit := k, code := codeOf g m, nominal := r.record.nominal, loadKind := r.record.loadKind } t
        else t
      | none => t) s

/-- R135: the rebuild goes on with its next place. -/
def rebuildOnward (s : State) : State := emit .rebuildStep (modRebuild (fun r => { r with cursor := r.cursor + 1 }) s)

/-- R135: the next place of the rebuild: a lamp group of a position in service is looked up. -/
def rebuildStep (s : State) : State :=
  match s.check.rebuild with
  | none => s
  | some r =>
    if h : r.cursor < 16 then
      let p : Pos := ⟨r.cursor / 4, by omega⟩
      let g : Group := ⟨r.cursor % 4, by omega⟩
      if inService s p && (dirOf s p g).isSome then
        match lookupGroup p g none none .rebuild s with
        | (.loaded b _, s') => rebuildOnward (rebuildRows r.circuit p g b s')
        | (.wait, s') => s'
        | (_, s') => rebuildOnward (modRebuild (fun r => { r with incomplete := true }) s')
      else rebuildOnward s
    else endRebuild r s

/-! ## The Exercise Queue -/

/-- R145: how a request to the queue is answered. -/
inductive QueueAnswer where
  | merged | taken | full
  deriving DecidableEq, Repr

/-- Set the Exercise Queue. -/
def setExQueue (q : List QueueEntry) (s : State) : State := { s with check := { s.check with queue := q } }

/-- R145: a requester joins a set. -/
def joinSet (who : Option Pos) (t : Tab Bool 4) : Tab Bool 4 :=
  match who with
  | some p => t.put p true
  | none => t

/-- R145: a request to the Exercise Queue. An arrival into an empty queue tests the slot (R146). -/
def queueRequest (t : Target) (who : Option Pos) (s : State) : QueueAnswer × State :=
  let q := s.check.queue
  if q.any fun e => decide (e.target = t) then
    (.merged, setExQueue (q.map fun e => if e.target = t then { e with requesters := joinSet who e.requesters } else e) s)
  else if q.length < Config.queueCapacity then
    let s' := setExQueue (q ++ [{ target := t, requesters := joinSet who (Tab.fill false) }]) s
    (.taken, if q.isEmpty then emit .slotTest s' else s')
  else (.full, s)

/-- R134, R145: the change rule's request; answered full, it sets the exercise owed mark. -/
def changeRequest (k : LineNo) (s : State) : State :=
  match queueRequest (.circuit k) none s with
  | (.full, s') => modCircuit k (fun c => { c with owed := true }) s'
  | (_, s') => s'

/-- R145: after an entry has left: requests for the circuits whose owed mark is set, while space remains, then the leave
notice to the bring-ups. -/
def queueLeft (s : State) : State :=
  emitAll (allPos.map Notice.handItems)
    (allLines.foldl (fun s k =>
      if (circuitRec s k).owed && decide (s.check.queue.length < Config.queueCapacity) then
        (queueRequest (.circuit k) none (modCircuit k (fun c => { c with owed := false }) s)).2
      else s) s)

/-! ## Node-lamp checks -/

/-- Drop the offers that carry a reading of this check, of the Load Check Unit or of the Consist Controller. -/
def withdrawReading (p : Pos) (src : CheckSource) : State → State :=
  withdrawWhere fun o =>
    match o.why with
    | .nodeLamp q t _ _ => decide (q = p) && decide (t = src)
    | _ => false

/-- R143: the check is over: its offer is withdrawn, its end handed on, and the GET of p's other check offered. -/
def finishCheck (p : Pos) (src : CheckSource) (s : State) : State :=
  emitAll [.nodeLampEnded p src, .nodeLampOffer p] (withdrawReading p src (setNodeCheck p src none s))

/-- R142: a check of (p, f) starts. -/
def startCheck (p : Pos) (src : CheckSource) (f : Code) (s : State) : State :=
  emit (.nodeLampLookup p src)
    (setNodeCheck p src
      (some { code := f, expiry := s.now + ms s.settings.window, tolerance := s.settings.tolerance,
              threshold := s.settings.threshold }) s)

/-- The delivered value of (p, f) is nonzero. -/
def litAt (s : State) (p : Pos) (f : Code) : Bool :=
  match (entryOf s p f).delivered with
  | some v => decide (v ≠ 0)
  | none => false

/-- R142: the row of a lamp that a node-lamp check may read. -/
def checkableRow (b : Block) (e : DirEntry) (f : Code) : Option (Nat × Nat × LoadKind) :=
  if e.members ≤ (memberOf f).val then none
  else
    match b.rows.get (memberOf f) with
    | some r =>
      if !r.unusable && decide (r.record.feed = .node) && decide (r.record.pointKind = .lamp) then
        some (r.record.point, r.record.nominal, r.record.loadKind)
      else none
    | none => none

/-- R142: the lookup of a check: the row is taken and readings begin 50 ms after the lamp is lit; a row it may not read
ends it NO-REPLY; WAIT and NO-SPACE wait. At a position that has left service the check is about to end without a write
(R143). A NO-SPACE fault of it carries function code none by the model's choice (notes/assumptions/39.md). -/
def nodeLampLookup (p : Pos) (src : CheckSource) (s : State) : State :=
  match nodeCheck s p src with
  | none => s
  | some c =>
    if c.row.isSome then s
    else
      match lookupGroup p (groupOf c.code) none none (.nodeLamp p src) s with
      | (.loaded b e, s') =>
        match checkableRow (blockOf s' b) e c.code with
        | some row =>
          setNodeCheck p src
            (some { c with row := some row,
                           nextReading := if litAt s' p c.code then some (s'.now + Config.nodeLampWait) else none }) s'
        | none => finishCheck p src (emit (.writeResult p c.code .noReply) s')
      | (.wait, s') => s'
      | (.noSpace, s') => s'
      | (.notReady, s') => s'
      | (.notFitted, s') => finishCheck p src (emit (.writeResult p c.code .noReply) s')

/-- R142: the delivered value of (p, f) has changed: readings begin 50 ms after it is nonzero, and a value of 0 puts the
next reading off and drops the reading in progress. That its GET on offer is withdrawn, and neither GET left of it is sent,
is the model's choice (notes/assumptions/31.md). -/
def deliveredToCheck (p : Pos) (f : Code) (src : CheckSource) (s : State) : State :=
  match nodeCheck s p src with
  | none => s
  | some c =>
    if c.code ≠ f then s
    else if litAt s p f then
      if c.row.isSome ∧ c.nextReading = none ∧ c.step = none then
        setNodeCheck p src (some { c with nextReading := some (s.now + Config.nodeLampWait) }) s
      else s
    else
      emit (.nodeLampOffer p)
        (withdrawReading p src (setNodeCheck p src (some { c with nextReading := none, step := none, supply := none }) s))

/-- R142: the next reading time has passed: the GET of point 63 is asked for. -/
def startReading (p : Pos) (src : CheckSource) (s : State) : State :=
  match nodeCheck s p src with
  | none => s
  | some c =>
    if passed s c.nextReading then
      emit (.nodeLampOffer p)
        (setNodeCheck p src (some { c with nextReading := none, step := some .supply, supply := none }) s)
    else s

/-- R143: the GET a node-lamp check of p asks for, the slot's check before the opportunistic one. -/
def wantedReading (s : State) (p : Pos) : Option (CheckSource × Code × ReadingStep × Nat) :=
  let ask := fun src =>
    match nodeCheck s p src with
    | some c =>
      match c.step, c.row with
      | some .supply, _ => some (src, c.code, ReadingStep.supply, 63)
      | some .lamp, some (point, _, _) => some (src, c.code, ReadingStep.lamp, point)
      | _, _ => none
    | none => none
  (ask .slot).or (ask .opportunistic)

/-- The GET of a reading, offered by the given block at class 5. -/
def readingOffer (r : Requester) (p : Pos) (x : CheckSource × Code × ReadingStep × Nat) : Offer :=
  { requester := r, cls := 4, pos := linePos p, op := .get, addr := some x.2.2.2, data := none,
    why := .nodeLamp p x.1 x.2.1 x.2.2.1 }

/-- A node-lamp GET to p is in flight. -/
def readingInFlight (s : State) (p : Pos) : Bool :=
  flightIs s fun o =>
    match o.why with
    | .nodeLamp q _ _ _ => decide (q = p)
    | _ => false

/-- R143: the GETs of p's checks are offered by the Consist Controller while p is EXERCISING, else by the Load Check
Unit, one at a time: the slot's takes the place of an opportunistic one that stands. -/
def nodeLampOffer (p : Pos) (s : State) : State :=
  match stateOf s p with
  | .exercising => emit (.consistOffer p) s
  | .running =>
    if readingInFlight s p then s
    else
      match wantedReading s p with
      | some x =>
        let o := readingOffer .loadCheckUnit p x
        if standing s .loadCheckUnit 4 (linePos p) = some o then s else makeOffer o s
      | none => s
  | _ => s

/-- R143: the class of a counted reading: R137 and R138 with one contributor. -/
def readingClass (c : NodeLampCheck) (vref m : Nat) (p : Pos) : OutClass :=
  match c.row with
  | some (_, n, kind) =>
    (judgeCurrent [((p, c.code), expectedCurrent n kind (clampedSupply vref c.supply) vref)] m c.tolerance c.tolerance
      c.threshold false).cls
  | none => .ok

/-- R143: a counted reading: an agreeing class, or the fourth, is written and ends the check; else the next reading is
50 ms after this end. -/
def countReading (p : Pos) (src : CheckSource) (c : NodeLampCheck) (m : Nat) (s : State) : State :=
  let cls := readingClass c s.settings.vref m p
  if c.lastClass = some cls ∨ 4 ≤ c.counted + 1 then
    finishCheck p src (emit (.writeResult p c.code (classResult cls true)) s)
  else
    setNodeCheck p src
      (some { c with counted := c.counted + 1, lastClass := some cls, step := none, supply := none,
                     nextReading := some (s.now + Config.nodeLampWait) }) s

/-- R143: the end of a GET of a node-lamp check; one the check no longer asks for is discarded. That after an Unheard end a GET
that goes before it is offered first is the model's choice (notes/assumptions/44.md). -/
def readingEnd (p : Pos) (src : CheckSource) (f : Code) (step : ReadingStep) (out : LineOutcome) (data : Option Word)
    (s : State) : State :=
  match nodeCheck s p src with
  | none => emit (.nodeLampOffer p) s
  | some c =>
    if c.code ≠ f ∨ c.step ≠ some step then emit (.nodeLampOffer p) s
    else
      emit (.nodeLampOffer p)
        (match step, out with
          | .supply, .ready =>
            setNodeCheck p src (some { c with step := some .lamp, supply := data.map fun w => w.toNat }) s
          | .supply, .unheard => s
          | .supply, _ => setNodeCheck p src (some { c with step := some .lamp, supply := none }) s
          | .lamp, .ready => countReading p src c (data.getD 0).toNat s
          | .lamp, .notReady =>
            setNodeCheck p src
              (some { c with step := none, supply := none, nextReading := some (s.now + Config.nodeLampWait) }) s
          | .lamp, .notHeard =>
            finishCheck p src
              (recordFault .pointUnknown (some p) (some f) none ((c.row.map fun r => r.1).getD 0)
                (emit (.writeResult p f .noReply) s))
          | .lamp, .unheard => s)

/-- R143: the expiry of a check: the last counted class is written, or else DEFERRED where the result is UNCHECKED. -/
def expireCheck (p : Pos) (src : CheckSource) (s : State) : State :=
  match nodeCheck s p src with
  | none => s
  | some c =>
    finishCheck p src
      (match c.lastClass with
        | some cls => emit (.writeResult p c.code (classResult cls true)) s
        | none => emit (.deferUnchecked p c.code) s)

/-- R144: the oldest pending code whose result is still DEFERRED, and the codes behind it. -/
def nextPending (s : State) (p : Pos) : List Code → Option (Code × List Code)
  | [] => none
  | f :: fs => if (entryOf s p f).result = .deferred then some (f, fs) else nextPending s p fs

/-- Set the pending list of opportunistic checks of p. -/
def setPending (p : Pos) (fs : List Code) (s : State) : State :=
  { s with check := { s.check with oppPending := s.check.oppPending.put p fs } }

/-- R144, R147: a check of p has ended: the slot's frees the slot, and the oldest pending opportunistic check starts. -/
def nodeLampEnded (p : Pos) (src : CheckSource) (s : State) : State :=
  let s' :=
    match src, s.check.slot with
    | .slot, some sl =>
      match sl.entry.target with
      | .lamp q _ => if q = p then emit (.slotEnded sl.entry.target) s else s
      | .circuit _ => s
    | _, _ => s
  if (s'.check.oppChecks.get p).isSome || !inService s' p then s'
  else
    match nextPending s' p (s'.check.oppPending.get p) with
    | some (f, fs) => startCheck p .opportunistic f (setPending p fs s')
    | none => setPending p [] s'

/-- R144: a nonzero SET to a lamp was accepted: an opportunistic check is asked for while its result is DEFERRED. -/
def askOpportunistic (p : Pos) (f : Code) (s : State) : State :=
  if kindOf f = .lamp ∧ (entryOf s p f).result = .deferred ∧ inService s p = true then
    if (s.check.oppChecks.get p).isNone then startCheck p .opportunistic f s
    else
      let fs := s.check.oppPending.get p
      if fs.contains f || decide (Config.opportunisticCapacity ≤ fs.length) then s else setPending p (fs ++ [f]) s
  else s

/-- R143, R144, R179: the checks of p end without a write, and their pending list is emptied. -/
def dropChecks (p : Pos) (s : State) : State :=
  let slotOne := (s.check.slotChecks.get p).isSome
  let s' := setPending p [] (setNodeCheck p .opportunistic none (withdrawReading p .opportunistic
    (setNodeCheck p .slot none (withdrawReading p .slot s))))
  if slotOne then emit (.nodeLampEnded p .slot) s' else s'

/-! ## The exercise slot -/

/-- Set the slot. -/
def setSlot (x : Option Slot) (s : State) : State := { s with check := { s.check with slot := x } }

/-- R146: the level beneath the exercise value. -/
def levelBeneath (s : State) (t : Target) : Nat :=
  match t with
  | .circuit k => codeLevel s (wiredOf s k).code
  | .lamp p f => targetBeneath s p f

/-- R147: the ending of a WINDOW, and its change to DRIVEN: the exercise flag is cleared, and the closing window notice
handed to the Delivery Unit. -/
def closeWindow (t : Target) (s : State) : State :=
  emit (.windowNotice false (coveredBy s t))
    (match t with
      | .circuit k => closeLineWindow k s
      | .lamp _ _ => s)

/-- R147: the check in the slot ends and the slot is free. -/
def endSlot (s : State) : State :=
  match s.check.slot with
  | none => s
  | some sl =>
    let free := setSlot none s
    let checked :=
      match sl.entry.target with
      | .lamp p _ => emit (.nodeLampOffer p) (setNodeCheck p .slot none (withdrawReading p .slot free))
      | .circuit _ => free
    emit .slotTest (if sl.window then closeWindow sl.entry.target checked else checked)

/-- R147: the check of this target in the slot has ended. -/
def slotEnded (t : Target) (s : State) : State :=
  match s.check.slot with
  | some sl => if sl.entry.target = t then endSlot s else s
  | none => s

/-- R147: a WINDOW whose level beneath has turned nonzero becomes DRIVEN, with the same expiry. -/
def windowToDriven (s : State) : State :=
  match s.check.slot with
  | some sl =>
    if sl.window ∧ levelBeneath s sl.entry.target ≠ 0 then
      closeWindow sl.entry.target (setSlot (some { sl with window := false }) s)
    else s
  | none => s

/-- R146: the slot takes an entry: its form follows the level beneath. That a node lamp out of service is not checked at a
nonzero level either, where two rows of R146 match, and that after an entry not checked the slot is tested again before what its
leaving the queue brings (`queueLeft`), is the model's choice (notes/assumptions/31.md). -/
def takeEntry (e : QueueEntry) (s : State) : State :=
  let expiry := s.now + ms s.settings.window
  match e.target with
  | .circuit k =>
    let s' := modCircuit k (fun c => { c with last := none }) s
    if levelBeneath s e.target ≠ 0 then setSlot (some { entry := e, window := false, expiry := expiry }) s'
    else
      emit (.windowNotice true (coveredBy s e.target))
        (openLineWindow k (setSlot (some { entry := e, window := true, expiry := expiry }) s'))
  | .lamp p f =>
    if inService s p = false ∨ (entryOf s p f).override = some 0 then
      emitAll [.deferUnchecked p f, .slotTest] s
    else if levelBeneath s e.target ≠ 0 then
      startCheck p .slot f (setSlot (some { entry := e, window := false, expiry := expiry }) s)
    else
      startCheck p .slot f
        (emit (.windowNotice true [(p, f)]) (setSlot (some { entry := e, window := true, expiry := expiry }) s))

/-- R146: the free slot takes the head of the queue when the combination stands and coupling is PRESENT. What taking the entry
brings comes before what its leaving the queue does (R145). So, of an entry not checked (the last two rows of R146), the next test
of the slot comes before the owed requests and the leave notice, and an item that a bring-up hands on then may miss the merge with
an entry this test took: no rule orders the two, and it is the model's choice (notes/assumptions/31.md). -/
def slotTest (s : State) : State :=
  if s.check.slot.isNone && isStationary s && s.consist.cplPresent then
    match s.check.queue with
    | e :: es => emit .queueLeft (takeEntry e (setExQueue es s))
    | [] => s
  else s

/-- R147: the slot's expiry: a circuit's last evaluation is reported, or DEFERRED where it has none; a node lamp's check
expires. -/
def expireSlot (s : State) : State :=
  match s.check.slot with
  | none => s
  | some sl =>
    match sl.entry.target with
    | .circuit k =>
      emit (.slotEnded sl.entry.target)
        (match (circuitRec s k).last with
          | some o => reportOutcome k o s
          | none => emitAll ((coveredBy s sl.entry.target).map fun x => Notice.deferUnchecked x.1 x.2) s)
    | .lamp p _ => expireCheck p .slot s

/-- R147, R146: a change of the motion state reaches the slot: to MOVING it ends its check with DEFERRED for what is still
UNCHECKED; to STATIONARY the queue may be taken from. -/
def motionToSlot (s : State) : State :=
  if isStationary s then slotTest s
  else
    match s.check.slot with
    | none => s
    | some sl =>
      emit (.slotEnded sl.entry.target)
        (emitAll ((coveredBy s sl.entry.target).map fun x => Notice.deferUnchecked x.1 x.2) s)

/-! ## Coupling, removal and RECHECK -/

/-- R141: a fall of the coupling state suspends the load checks. With the rebuild under way abandoned none runs, so another
circuit's pending one starts (R135). That UNCHECKED is written circuit by circuit, ascending, is the model's choice
(notes/assumptions/6.md). -/
def suspendChecks (s : State) : State :=
  let cleared := allLines.foldl (fun s k =>
    modCircuit k (fun c => { c with samples := [], last := none, reported := none, owed := false }) s) s
  let writes := allLines.flatMap fun k =>
    (circuitRec s k).contributors.map fun c => Notice.writeResult c.pos c.code .unchecked
  let left := s.check.queue.map fun _ => Notice.queueLeft
  emit .rebuildStart (setRebuild none (endSlot (emitAll (writes ++ left) (setExQueue [] cleared))))

/-- R147: the closing window notices of the entries of p that leave a circuit whose window is open. -/
def windowLeave (p : Pos) (k : LineNo) (s : State) : State :=
  ((circuitRec s k).contributors.filter fun c => decide (c.pos = p)).foldl (fun s c => windowJoin k false p c.code s) s

/-- R149: the entries of p in one circuit are removed, the change rule applied and a rebuild made pending. -/
def removeFromCircuit (p : Pos) (k : LineNo) (s : State) : State :=
  if (circuitRec s k).contributors.any fun c => decide (c.pos = p) then
    makeRebuildPending k
      (changeRule k true (modCircuit k (fun c =>
        { c with contributors := c.contributors.filter fun x => !decide (x.pos = p) }) (windowLeave p k s)))
  else s

/-- R149: what removing p makes of an entry: it leaves when it is a node lamp of p, or when its set is emptied by the
removal. -/
def removeRequester (p : Pos) (e : QueueEntry) : Option QueueEntry :=
  match e.target with
  | .lamp q _ => if q = p then none else
    let r := e.requesters.put p false
    if e.requesters.get p = true ∧ r = Tab.fill false then none else some { e with requesters := r }
  | .circuit _ =>
    let r := e.requesters.put p false
    if e.requesters.get p = true ∧ r = Tab.fill false then none else some { e with requesters := r }

/-- R149, R147: the slot after p is removed from its entry. -/
def removeFromSlot (p : Pos) (s : State) : State :=
  match s.check.slot with
  | none => s
  | some sl =>
    match removeRequester p sl.entry with
    | some e => setSlot (some { sl with entry := e }) s
    | none => endSlot s

/-- R149, step 3: p leaves every requester set, and the entries that this empties, with its node lamps, leave the queue. -/
def removeEntries (p : Pos) (s : State) : State :=
  emitAll ((s.check.queue.filter fun e => (removeRequester p e).isNone).map fun _ => Notice.queueLeft)
    (setExQueue (s.check.queue.filterMap (removeRequester p)) s)

/-- R149: the removal request of position p, its steps in order, each with what it brings about before the next. That the
circuits are gone through in ascending order is the model's choice (notes/assumptions/6.md). -/
def removePosition (p : Pos) (s : State) : State :=
  emitAll [.rebuildStart, .removeEntries p, .removeFromSlot p, .lostLoadCheck p]
    (allLines.foldl (fun s k => removeFromCircuit p k s) s)

/-- R148: the target that RECHECK of (p, f) asks for: the circuit whose list holds (p, f), or else the node lamp. -/
def recheckTarget (s : State) (p : Pos) (f : Code) : Target :=
  match allLines.find? fun k => holdsContributor s k p f with
  | some k => .circuit k
  | none => .lamp p f

/-- R148: a RECHECK handed to the queue. -/
def recheck (t : Target) (who : Option Pos) (s : State) : ResultCode × State :=
  match queueRequest t who s with
  | (.full, s') => (.noSpace, s')
  | (_, s') => (.ok, s')

end Sys2Proof.Machine
end

