-- ==== Sys2Proof/Machine/Delivery.lean ====
section
/-! DEFINITION. The Delivery Unit: check results (R92), overrides and targets (R93), the entry notice (R94), delivery by
difference (R96 to R99), management access (R100 to R102), stops (R109 to R112), periodic and watch reads (R150 to R153,
R155, R156) and the end of a watch or of a timeout hold (R157 to R159). -/

namespace Sys2Proof.Machine

/-- Change the Delivery Unit's state. -/
def modDelivery (f : Delivery → Delivery) (s : State) : State := { s with delivery := f s.delivery }

/-- The codes once round in catalogue order, from the one after `last`. -/
def codesAfter (last : Code) : List Code := allCodes.drop (last.val + 1) ++ allCodes.take (last.val + 1)

/-- The ACTUATOR codes, of groups 8 to 11. -/
def actuatorCodes : List Code := allCodes.drop 128

/-! ## Check results -/

/-- R92: writing the result r to (p, f) changes it: p is not VACANT and the result held is another. -/
def resultDiffers (s : State) (p : Pos) (f : Code) (r : CheckResult) : Bool :=
  !isVacant s p && decide ((entryOf s p f).result ≠ r)

/-- Set the check result of (p, f). -/
def setResult (p : Pos) (f : Code) (r : CheckResult) : State → State := modEntry p f fun e => { e with result := r }

/-- R92: a check result is written: nothing for a VACANT position, and the two result notices when it differs. -/
def writeResult (p : Pos) (f : Code) (r : CheckResult) (s : State) : State :=
  if resultDiffers s p f r then emitAll [.exitTest p, .placeResult p f] (setResult p f r s) else s

/-- DEFERRED is written for a function whose result is UNCHECKED. -/
def deferUnchecked (p : Pos) (f : Code) (s : State) : State :=
  if unchecked s p f then writeResult p f .deferred s else s

/-! ## Watches and holds -/

/-- R151: the standing class 6 offer of a watch read of (p, f), where there is one, is withdrawn. -/
def withdrawWatch (p : Pos) (f : Code) : State → State := withdrawWhere fun o => decide (o.why = .watchRead p f)

/-- R159: the watch of (p, f) ends: both times become none, and a standing class 6 offer of its read is withdrawn. -/
def endWatch (p : Pos) (f : Code) (s : State) : State :=
  if (entryOf s p f).watchDeadline.isSome then
    withdrawWatch p f (modEntry p f (fun e => { e with watchDeadline := none, nextRead := none }) s)
  else s

/-- R155: the watch of (p, f) starts, with the completion timeout of `interval` units of 100 ms. One that runs is replaced,
and the offer of its read withdrawn (R151). -/
def startWatch (p : Pos) (f : Code) (interval : Nat) (s : State) : State :=
  modEntry p f (fun e =>
    { e with watchDeadline := some (s.now + interval * Config.intervalUnit), watchUnits := interval,
             nextRead := some (s.now + Config.watchSpacing) })
    (withdrawWatch p f s)

/-- R158: the timeout hold of (p, f) ends, and ACT-TIMEOUT is replaced by UNCHECKED. -/
def endTimeoutHold (p : Pos) (f : Code) (s : State) : State :=
  if (entryOf s p f).timeoutHold then
    let s' := modEntry p f (fun e => { e with timeoutHold := false }) s
    if (entryOf s p f).result = .actTimeout then emit (.writeResult p f .unchecked) s' else s'
  else s

/-- R99, R151: the not-fitted mark of (p, f) is set, and a class 6 offer of its read is withdrawn. Its next periodic-read time
stays: only what R150 and R152 say sets that to none (`leaveSchedule`). -/
def markNotFitted (p : Pos) (f : Code) (s : State) : State :=
  withdrawWhere (fun o =>
      match o.why with
      | .periodicRead q g _ => decide (q = p) && decide (g = f)
      | .watchRead q g => decide (q = p) && decide (g = f)
      | _ => false)
    (modEntry p f (fun e => { e with notFitted := true }) s)

/-- R150, R152: a sensor whose periodic read was answered NOT-FITTED or ended Not Heard has next periodic-read time none. -/
def leaveSchedule (p : Pos) (f : Code) (s : State) : State :=
  if kindOf f = .sensor then modEntry p f (fun e => { e with nextRead := none }) s else s

/-- R98, R101, R111, R152, R156, R167: a Not Heard end at (p, f): POINT-UNKNOWN where the mark was clear, and the mark. -/
def pointUnknown (p : Pos) (f : Code) (k : Option AccessKind) (point : Nat) (s : State) : State :=
  markNotFitted p f
    (if (entryOf s p f).notFitted then s else recordFault .pointUnknown (some p) (some f) k point s)

/-! ## Replies of management access -/

/-- Set the pending override reply. -/
def setPendingOverride (o : Option PendingOverride) : State → State := modDelivery fun d => { d with pendingOverride := o }

/-- Set the pending management read. -/
def setPendingRead (r : Option PendingRead) : State → State := modDelivery fun d => { d with pendingRead := r }

/-- R100: the pending override reply, where `f` picks it, is given. -/
def replyOverride (f : PendingOverride → Bool) (r : ResultCode) (s : State) : State :=
  match s.delivery.pendingOverride with
  | some o => if f o then answer r [] (setPendingOverride none s) else s
  | none => s

/-- The pending override is that of (p, f). -/
def overrideOf (p : Pos) (f : Code) (o : PendingOverride) : Bool := decide (o.pos = p) && decide (o.code = f)

/-- The pending override is that of (p, f) with value v. -/
def overrideIs (p : Pos) (f : Code) (v : Nat) (o : PendingOverride) : Bool :=
  overrideOf p f o && decide (o.value = v)

/-- R101: the pending GET-FUNCTION, where `f` picks it, is answered. -/
def replyRead (f : PendingRead → Bool) (r : ResultCode) (bytes : List Byte) (s : State) : State :=
  match s.delivery.pendingRead with
  | some o => if f o then answer r bytes (setPendingRead none s) else s
  | none => s

/-- The pending read is that of (p, f). -/
def readOf (p : Pos) (f : Code) (o : PendingRead) : Bool := decide (o.pos = p) && decide (o.code = f)

/-- R101, R190: the bytes of a GET-FUNCTION reply: the data, the delivered value and the check result. Of a WIRED-fed row R101 has
the reply carry the last two alone, and R192's table lists reply data: that the 2 bytes of the data are sent there too, as none, is
the model's choice (notes/assumptions/23.md). -/
def functionReply (s : State) (p : Pos) (f : Code) (data : Option Nat) : List Byte :=
  optWord data ++ optWord (entryOf s p f).delivered ++ num (resultOrdinal (entryOf s p f).result)

/-! ## Targets and overrides -/

/-- R93, R99, R103, R159: what a change of the target of (p, f) does to its entry. -/
def targetChanged (p : Pos) (f : Code) (s : State) : State :=
  if kindOf f = .actuator then
    endWatch p f (modEntry p f (fun e => { e with refusalLatch := false, readLatch := false }) s)
  else modEntry p f (fun e => { e with refusalLatch := false }) s

/-- R93: the target of (p, f) was `old`; where it is another now, that is a target change. -/
def retarget (p : Pos) (f : Code) (old : Option Nat) (s : State) : State :=
  if targetOf s p f = old then s else targetChanged p f s

/-- The Delivery Unit looks again at its offers for p. -/
def rescan (p : Pos) (s : State) : State := if inService s p then emitAll (holdNotices p) s else s

/-- R93, R99: the override of (p, f) is removed where one is held: the refusal latch is cleared, a pending override reply
is answered NOT-READY, and the Load Check Unit told. -/
def dropOverride (p : Pos) (f : Code) (s : State) : State :=
  if (entryOf s p f).override.isSome then
    emit (.levelBeneath (.override p f)) (replyOverride (overrideOf p f) .notReady
      (modEntry p f (fun e => { e with override := none, refusalLatch := false }) s))
  else s

/-- R93, R158: a change notice of f at one position. `old` is the command value before the change. -/
def changeAt (f : Code) (old : Nat) (s : State) (p : Pos) : State :=
  let before := if kindOf f = .sensor then none else
    if windowCovers s p f then some 255 else some (((entryOf s p f).override).getD old)
  rescan p (endTimeoutHold p f (retarget p f before (dropOverride p f s)))

/-- R93: a change notice of f from the Command Decoder. -/
def commandChanged (f : Code) (old : Nat) (s : State) : State := allPos.foldl (changeAt f old) s

/-- R93, R109: the override of (p, f) is removed, with the target change that brings. -/
def removeOverride (p : Pos) (f : Code) (s : State) : State := retarget p f (targetOf s p f) (dropOverride p f s)

/-- R93: CLEAR-OVERRIDE of (p, f). -/
def clearOverrideAt (p : Pos) (f : Code) (s : State) : State :=
  if (entryOf s p f).override.isSome then rescan p (endTimeoutHold p f (removeOverride p f s)) else s

/-- R100: the override of (p, f) is written, with the target change it brings. -/
def writeOverride (p : Pos) (f : Code) (v : Nat) (s : State) : State :=
  endTimeoutHold p f (retarget p f (targetOf s p f)
    (modEntry p f (fun e => { e with override := some v, refusalLatch := false }) s))

/-! ## Deliveries -/

/-- R97, R98: v becomes the delivered value of (p, f). -/
def becomeDelivered (p : Pos) (f : Code) (v : Nat) : State → State :=
  modEntry p f fun e => { e with delivered := some v, driven := e.driven || decide (v ≠ 0) }

/-- R96: the SET offer of a delivery. -/
def setOffer (p : Pos) (f : Code) (v : Nat) (k : AccessKind) (r : FnRecord) : Offer :=
  { requester := .deliveryUnit, cls := if secondClass f v then 1 else 0, pos := linePos p, op := .set,
    addr := some r.point, data := some (BitVec.ofNat 16 v), why := .delivery p f v k r.interval }

/-- R96: the function last offered for deliveries of a class at p. -/
def lastOffered (s : State) (p : Pos) (second : Bool) : Code :=
  if second then (s.delivery.lastOffered.get p).2 else (s.delivery.lastOffered.get p).1

/-- R96: note the function offered. -/
def noteOffered (p : Pos) (second : Bool) (f : Code) : State → State :=
  modDelivery fun d => { d with lastOffered := d.lastOffered.upd p fun x => if second then (x.1, f) else (f, x.2) }

/-- R96 to R99: a due, unheld delivery of value v to (p, f) is translated and its answer acted on. The answer is whether
an offer was made. -/
def deliverOne (p : Pos) (f : Code) (v : Nat) (s : State) : Bool × State :=
  let k := deliveryKind s p f
  match translate p f k (decide (v = 0)) (.delivery p f k) s with
  | (.hit r, s') =>
    match r.feed with
    | .node => (true, makeOffer (setOffer p f v k r) (noteOffered p (secondClass f v) f s'))
    | .wired => (false, emit (.deliveredChanged p f) (replyOverride (overrideIs p f v) .ok (becomeDelivered p f v s')))
  | (.refused, s') =>
    (false, replyOverride (overrideIs p f v) .refused (modEntry p f (fun e => { e with refusalLatch := true }) s'))
  | (.notFitted, s') => (false, replyOverride (overrideIs p f v) .notFitted (markNotFitted p f s'))
  | (.noSpace, s') => (false, replyOverride (overrideIs p f v) .noSpace s')
  | (.wait, s') => (false, s')
  | (.notReady, s') => (false, s')

/-- R94, R95: the value that (p, f) may be offered with at a class, if it is due and unheld. -/
def offerable (s : State) (p : Pos) (second : Bool) (f : Code) : Option Nat :=
  match targetOf s p f with
  | some v => if isDue s p f && !isHeld s p f v && (secondClass f v == second) then some v else none
  | none => none

/-- R96: the scan of the due, unheld deliveries of a class. -/
def scanCodes (p : Pos) (second : Bool) : List Code → State → State
  | [], s => s
  | f :: fs, s =>
    match offerable s p second f with
    | some v =>
      match deliverOne p f v s with
      | (true, s') => s'
      | (false, s') => scanCodes p second fs s'
    | none => scanCodes p second fs s

/-! ## Owed stops -/

/-- The owed stop of (p, f), if it is owed. -/
def findOwed (s : State) (p : Pos) (f : Code) : Option OwedStop :=
  (s.delivery.owed.get p).find? fun o => decide (o.code = f)

/-- Change the owed stops of p. -/
def modOwed (p : Pos) (g : List OwedStop → List OwedStop) : State → State :=
  modDelivery fun d => { d with owed := d.owed.upd p g }

/-- R109: (p, f) joins the owed stops of p; one already owed stays owed once. -/
def addOwed (p : Pos) (f : Code) : State → State :=
  modOwed p fun os => if os.any fun o => decide (o.code = f) then os else os ++ [{ code := f }]

/-- R112: (p, f) leaves the owed stops. -/
def dropOwed (p : Pos) (f : Code) : State → State := modOwed p fun os => os.filter fun o => !decide (o.code = f)

/-- R110: the stop SET of (p, f). -/
def stopOffer (p : Pos) (f : Code) (point : Nat) : Offer :=
  { requester := .deliveryUnit, cls := 0, pos := linePos p, op := .set, addr := some point, data := some 0,
    why := .stop p f }

/-- R110: the first unheld owed stop that translates becomes the class 1 offer. -/
def tryStops (p : Pos) : List Code → State → Bool × State
  | [], s => (false, s)
  | f :: fs, s =>
    match findOwed s p f with
    | none => tryStops p fs s
    | some o =>
      if stopHeld s p o then tryStops p fs s
      else
        match translate p f .tss true (.stop p f) s with
        | (.hit r, s') => (true, makeOffer (stopOffer p f r.point) s')
        | (.notFitted, s') =>
          tryStops p fs (replyOverride (overrideIs p f 0) .notFitted (markNotFitted p f (dropOwed p f s')))
        | (_, s') => tryStops p fs s'

/-- R110: the owed stops of p in the order they are taken. -/
def stopOrder (s : State) (p : Pos) : List Code :=
  (codesAfter (s.delivery.lastStopped.get p)).filter fun f => (findOwed s p f).isSome

/-! ## The offers of classes 1 and 2 -/

/-- R96, R101: the class 2 offer of a pending management read of p, unless it is in flight. -/
def readOffer (s : State) (p : Pos) : Option Offer :=
  match s.delivery.pendingRead with
  | some r =>
    match r.point with
    | some point =>
      if r.pos = p && !flightIs s (fun o => decide (o.why = .managementRead p r.code)) then
        some { requester := .deliveryUnit, cls := 1, pos := linePos p, op := .get, addr := some point, data := none,
               why := .managementRead p r.code }
      else none
    | none => none
  | none => none

/-- R96: form an offer for a class that has none standing for p. -/
def formOffer (p : Pos) (second : Bool) (s : State) : State :=
  if second then
    match readOffer s p with
    | some o => makeOffer o s
    | none => scanCodes p true (codesAfter (lastOffered s p true)) s
  else
    match tryStops p (stopOrder s p) s with
    | (true, s') => s'
    | (false, s') => scanCodes p false (codesAfter (lastOffered s' p false)) s'

/-- R96: a standing delivery offer of (p, f) is withdrawn and formed afresh: the same delivery is checked again, and where
it makes no offer the scan goes on. -/
def reform (p : Pos) (second : Bool) (f : Code) (s : State) : State :=
  let s0 := withdraw .deliveryUnit (if second then 1 else 0) (linePos p) s
  match offerable s0 p second f with
  | some v =>
    match deliverOne p f v s0 with
    | (true, s') => s'
    | (false, s') => formOffer p second s'
  | none => formOffer p second s0

/-- R96: the standing delivery offer still carries what it would be formed with. -/
def stillGood (s : State) (p : Pos) (second : Bool) (f : Code) (v : Nat) (k : AccessKind) : Bool :=
  decide (offerable s p second f = some v) && decide (deliveryKind s p f = k)

/-- R96, R110: look at the offer of a class at p: one is formed where none stands; a standing delivery gives way to an
unheld stop, and is kept, replaced or withdrawn as its target now is. That a GET-FUNCTION read offered again after an
Unheard end (R101) waits behind a delivery offer that stands at class 2 is the model's choice (notes/assumptions/8.md). -/
def scan (p : Pos) (second : Bool) (s : State) : State :=
  let c : ArbClass := if second then 1 else 0
  if inService s p = false then withdraw .deliveryUnit c (linePos p) s
  else
    match standing s .deliveryUnit c (linePos p) with
    | none => formOffer p second s
    | some o =>
      match o.why with
      | .stop _ f => if (findOwed s p f).isSome then s else formOffer p second (withdraw .deliveryUnit c (linePos p) s)
      | .delivery _ f v k _ =>
        match (if second then (false, s) else tryStops p (stopOrder s p) s) with
        | (true, s') => s'
        | (false, s') => if stillGood s' p second f v k then s' else reform p second f s'
      | _ => s

/-- R107, R19: every standing delivery SET offer that `f` picks is withdrawn and formed afresh. That they are taken in the
order in which they were made is the model's choice (notes/assumptions/8.md). -/
def reformWhere (f : Offer → Bool) (s : State) : State :=
  (s.line.offers.filter f).foldl (fun s o =>
    match o.why with
    | .delivery p g _ _ _ => reform p (decide (o.cls = 1)) g s
    | _ => s) s

/-- The offer is a delivery SET. -/
def isDelivery (o : Offer) : Bool :=
  match o.why with
  | .delivery _ _ _ _ _ => true
  | _ => false

/-- The offer is a delivery SET of a Command Table target. -/
def isTractorDelivery (o : Offer) : Bool :=
  match o.why with
  | .delivery _ _ _ .tss _ => true
  | .delivery _ _ _ .tsm _ => true
  | _ => false

/-- The offer is a delivery SET of one of these functions. -/
def deliversOneOf (xs : List (Pos × Code)) (o : Offer) : Bool :=
  match o.why with
  | .delivery p f _ _ _ => xs.any fun x => decide (x.1 = p) && decide (x.2 = f)
  | _ => false

/-- Every position's offers of classes 1, 2 and 6 are looked at. -/
def rescanAll (s : State) : State := allPos.foldl (fun s p => rescan p s) s

/-! ## Notices taken -/

/-- R19, R96: the change of the motion state reaches the Delivery Unit. -/
def motionToDelivery (s : State) : State := rescanAll (reformWhere isTractorDelivery s)

/-- R96, R99: a window notice: a covered function whose target changes has a target change, a pending override of a
covered function is answered when the window opens, and the SET offers of the covered functions are formed afresh. -/
def takeWindow (opening : Bool) (xs : List (Pos × Code)) (s : State) : State :=
  let changed := xs.foldl (fun s x =>
    let s' := if targetBeneath s x.1 x.2 = 255 then s else targetChanged x.1 x.2 s
    if opening then replyOverride (overrideOf x.1 x.2) .notReady s' else s') s
  rescanAll (reformWhere (deliversOneOf xs) changed)

/-- R107: the policy-write notice. -/
def takePolicyWrite (s : State) : State :=
  rescanAll (reformWhere isDelivery (modDelivery (fun d =>
    { d with status := d.status.map fun t => t.map fun e => { e with refusalLatch := false, readLatch := false } }) s))

/-- R109: (p, f) is or may be in motion. -/
def mayMove (s : State) (p : Pos) (f : Code) : Bool :=
  let e := entryOf s p f
  (match e.delivered with
    | some v => decide (v ≠ 0)
    | none => false)
  || e.watchDeadline.isSome
  || flightIs s fun o =>
      match o.why with
      | .delivery q g v _ _ => decide (q = p) && decide (g = f) && decide (v ≠ 0)
      | _ => false

/-- R109: the permission of (p, f) to move while MOVING is lacking. -/
def lacksTsm (s : State) (p : Pos) (f : Code) : Bool :=
  if groupLoaded s p (groupOf f) then
    match loadedRow s p f, dirOf s p (groupOf f) with
    | some r, some e => !r.unusable && !permits s e.policyClass r.record.fnClass .tsm
    | _, _ => false
  else true

/-- R109: the stops selected at a position. -/
def selectedStops (s : State) (p : Pos) : List (Pos × Code) :=
  if inService s p then
    (actuatorCodes.filter fun f => mayMove s p f && lacksTsm s p f).map fun f => (p, f)
  else []

/-- R109: the owed stops are selected on a change to MOVING. -/
def motionToPolicy (s : State) : State :=
  if isStationary s then s
  else
    rescanAll ((allPos.flatMap (selectedStops s)).foldl (fun s x => removeOverride x.1 x.2 (addOwed x.1 x.2 s)) s)

/-- R94: the delivered value the entry notice leaves for a target and a delivered value before. R161 says of a LOST recovery
that the part sends nothing to stop a motion lost with the node's number, where R94 and R112 have a stop sent for a nonzero
delivered value under a target of 0; that R94 is followed is the model's choice (notes/assumptions/40.md). -/
def entryDelivered (target : Nat) (before : Option Nat) : Option Nat :=
  if target ≠ 0 then none
  else
    match before with
    | some v => if v ≠ 0 then none else some 0
    | none => some 0

/-- R94: the entry notice of R70: marks and unavailable flags are cleared and delivered values set, and the deliveries
that fall due are the catch-up. -/
def catchUp (p : Pos) (s : State) : State :=
  emitAll (holdNotices p) (modDelivery (fun d => { d with status := d.status.upd p fun t => t.mapIdx fun f e =>
    { e with notFitted := false, unavailable := false, retryAt := none,
             delivered := match targetOf s p f with
               | some v => entryDelivered v e.delivered
               | none => e.delivered } }) s)

/-! ## Reads -/

/-- R102, R153: data is written to the entry of (p, f); a sensor whose changed flag it sets is reported. -/
def writeData (p : Pos) (f : Code) (w : Word) (s : State) : State :=
  if isVacant s p then s
  else
    let differs := decide ((entryOf s p f).lastValue ≠ some w)
    let s' := modEntry p f (fun e => { e with read := true, changed := e.changed || differs, lastValue := some w }) s
    if kindOf f = .sensor ∧ differs = true then emit (.placeValue p f) s' else s'

/-- R152: the node's mark for a reading it holds to be invalid. -/
def invalidReading : Word := 65535

/-- R153: the 65535 mark of a sensor is not taken as data: only the read flag is set. -/
def writeReading (p : Pos) (f : Code) (w : Word) (s : State) : State :=
  if kindOf f = .sensor ∧ w = invalidReading then
    if isVacant s p then s else modEntry p f (fun e => { e with read := true }) s
  else writeData p f w s

/-- R150: g/mm is a present sensor function of p. -/
def presentSensor (s : State) (p : Pos) (f : Code) : Bool :=
  decide (kindOf f = .sensor) &&
    match dirOf s p (groupOf f) with
    | some e => decide ((memberOf f).val < e.members)
    | none => false

/-- R150: the RUNNING notice sets the next periodic-read time of each present sensor function: the moment of the notice, or
none where its mark is set. R150 says 'stays none' there; a time that LOST kept and a read other than a periodic one has since
marked becomes none by the model's reading (notes/assumptions/11.md). -/
def runningReads (p : Pos) (s : State) : State :=
  let set := fun (f : Code) (e : StatusEntry) =>
    if presentSensor s p f then { e with nextRead := if e.notFitted then none else some s.now } else e
  emit (.classSix p) (modDelivery (fun d => { d with status := d.status.upd p fun t => t.mapIdx set }) s)

/-- R151, R156: the class 6 read of (p, f) that is due and not held: whether it is a watch read, and its time. -/
def dueRead (s : State) (p : Pos) (f : Code) : Option (Bool × Time) :=
  let e := entryOf s p f
  match e.nextRead with
  | none => none
  | some t =>
    if s.now < t || e.readLatch || e.notFitted || groupHeld s p (groupOf f) then none
    else
      match kindOf f with
      | .actuator => if e.watchDeadline.isSome && inService s p then some (true, t) else none
      | .sensor => if decide (stateOf s p = .running) then some (false, t) else none
      | .lamp => none

/-- R151: a read that is chosen before another. -/
def readBefore (a b : Code × (Bool × Time)) : Bool :=
  if a.2.1 = b.2.1 then decide (a.2.2 < b.2.2) || (decide (a.2.2 = b.2.2) && decide (a.1 < b.1)) else a.2.1

/-- Insert a read at its place. -/
def insertRead (a : Code × (Bool × Time)) : List (Code × (Bool × Time)) → List (Code × (Bool × Time))
  | [] => [a]
  | b :: bs => if readBefore a b then a :: b :: bs else b :: insertRead a bs

/-- R151: the due, unheld reads of p in the order they are chosen. -/
def dueReads (s : State) (p : Pos) : List (Code × (Bool × Time)) :=
  ((allCodes.drop 64).filterMap fun f => (dueRead s p f).map fun x => (f, x)).foldl (fun l x => insertRead x l) []

/-- R151: the GET of a scheduled read. -/
def scheduledOffer (p : Pos) (f : Code) (watch : Bool) (r : FnRecord) : Offer :=
  { requester := .deliveryUnit, cls := 5, pos := linePos p, op := .get, addr := some r.point, data := none,
    why := match watch with
      | true => .watchRead p f
      | false => .periodicRead p f r.interval }

/-- R103, R151: the first of the reads that translates to a HIT becomes the class 6 offer. -/
def tryReads (p : Pos) : List (Code × (Bool × Time)) → State → State
  | [], s => s
  | (f, watch, _) :: rest, s =>
    if (dueRead s p f).isNone then tryReads p rest s
    else
      match translate p f .rdp false (.scheduledRead p f) s with
      | (.hit r, s') => makeOffer (scheduledOffer p f watch r) s'
      | (.notFitted, s') => tryReads p rest (leaveSchedule p f (markNotFitted p f s'))
      | (.refused, s') => tryReads p rest (modEntry p f (fun e => { e with readLatch := true }) s')
      | (_, s') => tryReads p rest s'

/-- A class 6 read of p is in flight. -/
def readInFlight (s : State) (p : Pos) : Bool :=
  flightIs s fun o =>
    match o.why with
    | .periodicRead q _ _ => decide (q = p)
    | .watchRead q _ => decide (q = p)
    | _ => false

/-- R151: form the class 6 offer of p, when none stands and none is in flight. -/
def classSix (p : Pos) (s : State) : State :=
  if inService s p = false then withdraw .deliveryUnit 5 (linePos p) s
  else if (standing s .deliveryUnit 5 (linePos p)).isSome || readInFlight s p then s
  else tryReads p (dueReads s p) s

/-! ## Ends of transactions -/

/-- R98: a delivery SET ends. It answers a pending override reply where it carries that override's value: R100 says 'a SET
of it' and does not say what the end of a SET of an older value does, so that one that ends Not Heard leaves the reply
pending behind the not-fitted mark is the model's choice (notes/assumptions/10.md). After an Unheard end R98 has the delivery
offered again at once, and R96 keeps an offer that stands and otherwise scans on from the next function: that the offer that
stands, or another due delivery of the class, goes first is the model's choice (notes/assumptions/44.md). -/
def deliveryEnd (p : Pos) (f : Code) (v : Nat) (k : AccessKind) (interval point : Nat) (out : LineOutcome) (s : State) :
    State :=
  match out with
  | .ready =>
    let taken := modEntry p f (fun e => { e with unavailable := false, retryAt := none }) (becomeDelivered p f v s)
    let watched :=
      if kindOf f = .actuator then if v ≠ 0 then startWatch p f interval taken else endWatch p f taken else taken
    emitAll (holdNotices p)
      (emitAll ([Notice.deliveredChanged p f] ++ (if v ≠ 0 then [Notice.setAccepted p f] else []))
        (replyOverride (overrideIs p f v) .ok watched))
  | .notReady =>
    emitAll (holdNotices p) (replyOverride (overrideIs p f v) .notReady
      (modEntry p f (fun e => { e with unavailable := true, retryAt := some (s.now + Config.unavailableRetry) }) s))
  | .notHeard =>
    emitAll (holdNotices p) (replyOverride (overrideIs p f v) .notFitted (pointUnknown p f (some k) point s))
  | .unheard => emitAll (holdNotices p) s

/-- R111: a stop SET ends. That after an Unheard end an offer of another stop that stands, or another owed stop that R110 takes
first, goes before it is the model's choice (notes/assumptions/44.md). -/
def stopEnd (p : Pos) (f : Code) (point : Nat) (out : LineOutcome) (s : State) : State :=
  match out with
  | .ready =>
    emitAll (holdNotices p)
      (replyOverride (overrideIs p f 0) .ok
        (modDelivery (fun d => { d with lastStopped := d.lastStopped.put p f })
          (endWatch p f (modEntry p f (fun e => { e with unavailable := false, retryAt := none, delivered := some 0 })
            (dropOwed p f s)))))
  | .notReady =>
    emitAll (holdNotices p) (replyOverride (overrideIs p f 0) .notReady
      (modOwed p (fun os => os.map fun o =>
        if o.code = f then { o with notBefore := some (s.now + Config.stopRepeat) } else o) s))
  | .notHeard =>
    emitAll (holdNotices p) (replyOverride (overrideIs p f 0) .notFitted (pointUnknown p f (some .tss) point (dropOwed p f s)))
  | .unheard => emitAll (holdNotices p) s

/-- R101: the end of a management GET; one no longer asked for is discarded. That a sensor's Not Heard end leaves its next
periodic-read time as it stands is the model's reading (notes/assumptions/11.md). -/
def managementReadEnd (p : Pos) (f : Code) (point : Nat) (out : LineOutcome) (data : Option Word) (s : State) : State :=
  if ((s.delivery.pendingRead.map (readOf p f)).getD false) = false then emit (.scan p true) s
  else
    emitAll (holdNotices p)
      (match out with
        | .ready =>
          let w := data.getD 0
          let s' := writeReading p f w s
          replyRead (readOf p f) .ok (functionReply s' p f (some w.toNat)) s'
        | .notReady => replyRead (readOf p f) .notReady [] s
        | .notHeard => replyRead (readOf p f) .notFitted [] (pointUnknown p f (some .mgr) point s)
        | .unheard => s)

/-- R152, R153: a periodic sensor GET ends. That the VALUE frame of its data is placed before its result is written is the
model's choice (notes/assumptions/6.md). After an Unheard end R152 has the read offered again at once, and R151 chooses among the
reads due: that the choice is made anew, so that a watch read fallen due meanwhile goes first, is the model's choice
(notes/assumptions/44.md). -/
def periodicEnd (p : Pos) (f : Code) (interval point : Nat) (out : LineOutcome) (data : Option Word) (s : State) :
    State :=
  let again := fun (s : State) =>
    modEntry p f (fun e => { e with nextRead := some (s.now + interval * Config.intervalUnit) }) s
  emit (.classSix p)
    (match out with
      | .ready =>
        let w := data.getD 0
        if w = invalidReading then emit (.writeResult p f .sensorFault) (again (writeReading p f w s))
        else emit (.writeResult p f .ok) (again (writeReading p f w s))
      | .notReady => emit (.writeResult p f .sensorFault) (again s)
      | .notHeard => emit (.writeResult p f .noReply) (leaveSchedule p f (pointUnknown p f (some .rdp) point s))
      | .unheard => s)

/-- R156, R157, R159: a watch GET ends; of one whose watch has ended only the data is taken. A not-fitted mark it sets holds
the deliveries of (p, f) (R96). That after an Unheard end the read is chosen anew by R151 is the model's choice
(notes/assumptions/44.md). -/
def watchReadEnd (p : Pos) (f : Code) (point : Nat) (out : LineOutcome) (data : Option Word) (s : State) : State :=
  let running := (entryOf s p f).watchDeadline.isSome
  emitAll (holdNotices p)
    (match out with
      | .ready =>
        let s' := writeReading p f (data.getD 0) s
        if running then emit (.writeResult p f .ok) (endWatch p f s') else s'
      | .notReady =>
        if running then modEntry p f (fun e => { e with nextRead := some (s.now + Config.watchSpacing) }) s else s
      | .notHeard =>
        if running then emit (.writeResult p f .noReply) (pointUnknown p f (some .rdp) point (endWatch p f s)) else s
      | .unheard => s)

/-! ## Waits -/

/-- R83, R86: a delivery, stop, management read or scheduled read that waited on a fetch is answered NOT-FITTED. -/
def accessFailed (w : Waiter) (s : State) : State :=
  match w with
  | .delivery p f _ => rescan p (replyOverride (overrideOf p f) .notFitted (markNotFitted p f s))
  | .stop p f => rescan p (replyOverride (overrideIs p f 0) .notFitted (markNotFitted p f (dropOwed p f s)))
  | .managementRead p f => replyRead (readOf p f) .notFitted [] s
  | .scheduledRead p f => rescan p (leaveSchedule p f (markNotFitted p f s))
  | _ => s

/-- R101: a GET-FUNCTION is translated, at its request or after its fetch: a HIT on a NODE-fed row becomes the pending
management read, and WAIT keeps it pending. A HIT on a WIRED-fed row is answered with 5 bytes, the data none, then the delivered
value and the check result: that the data stand there is the model's choice (notes/assumptions/23.md). -/
def tryRead (p : Pos) (f : Code) (s : State) : State :=
  match translate p f .mgr false (.managementRead p f) s with
  | (.hit r, s') =>
    match r.feed with
    | .node => emit (.scan p true) (holdHead (setPendingRead (some { pos := p, code := f, point := some r.point }) s'))
    | .wired => answer .ok (functionReply s' p f none) (setPendingRead none s')
  | (.wait, s') => holdHead (setPendingRead (some { pos := p, code := f, point := none }) s')
  | (.notFitted, s') => answer .notFitted [] (setPendingRead none s')
  | (.refused, s') => answer .refused [] (setPendingRead none s')
  | (.noSpace, s') => answer .noSpace [] (setPendingRead none s')
  | (.notReady, s') => answer .notReady [] (setPendingRead none s')

/-- R83: an access that waited translates again. A delivery, stop or scheduled read does so in the scan of its class, and R96 and
R151 form an offer only where none stands: that one that waited stays untranslated while an offer of its class stands, but that
a stop takes the place of a standing delivery (R110), is the model's choice (notes/assumptions/8.md). -/
def accessLoaded (w : Waiter) (s : State) : State :=
  match w with
  | .delivery p _ _ => rescan p s
  | .stop p _ => rescan p s
  | .scheduledRead p _ => rescan p s
  | .managementRead p f =>
    match s.delivery.pendingRead with
    | some r => if readOf p f r && r.point.isNone then tryRead p f s else s
    | none => s
  | _ => s

/-! ## Leaving service -/

/-- R96, R100, R101, R112, R159: p has left EXERCISING and RUNNING: its offers are withdrawn, its owed stops emptied, its
watches ended and its pending replies given. -/
def leaveService (p : Pos) (s : State) : State :=
  let gone := withdrawWhere (fun o => decide (o.requester = .deliveryUnit) && decide (o.pos = linePos p)) s
  let idle := modDelivery (fun d =>
    { d with owed := d.owed.put p [],
             status := d.status.upd p fun t => t.map fun e =>
               if e.watchDeadline.isSome then { e with watchDeadline := none, nextRead := none } else e }) gone
  replyRead (fun r => decide (r.pos = p)) .notReady []
    (replyOverride (fun o => decide (o.pos = p)) .notReady idle)

/-- R91, R96, R110, R176: the Delivery Unit's part of the reset of a released position. -/
def resetDelivery (p : Pos) (s : State) : State :=
  modDelivery (fun d =>
    { d with status := d.status.put p (Tab.fill {}), lastOffered := d.lastOffered.put p (191, 191),
             lastStopped := d.lastStopped.put p 191 }) (leaveService p s)

/-- R92: the activity flags of every entry of p are cleared. -/
def clearActivityOf (p : Pos) : State → State :=
  modDelivery fun d => { d with status := d.status.upd p fun t => t.map fun e =>
    { e with driven := false, read := false, changed := false } }

/-! ## The watch timeout -/

/-- R157, steps 4 and 5: the stop becomes owed and the timeout hold is set. -/
def timeoutStop (p : Pos) (f : Code) (s : State) : State :=
  emitAll (holdNotices p) (modEntry p f (fun e => { e with timeoutHold := true }) (addOwed p f s))

/-- R157: the actuator watch deadline of (p, f) has passed while its watch runs and p is in service. -/
def watchOverdue (s : State) (p : Pos) (f : Code) : Bool := inService s p && passed s (entryOf s p f).watchDeadline

/-- R157: the watch times out. -/
def watchTimesOut (p : Pos) (f : Code) (s : State) : State :=
  emitAll
    [.writeResult p f .actTimeout,
     .faultRequest (faultOf .actTimeout (some p) (some f) none (entryOf s p f).watchUnits), .timeoutStop p f]
    (endWatch p f s)

end Sys2Proof.Machine
end

