-- ==== Sys2Proof/Machine/Bringup.lean ====
section
/-! DEFINITION. The Consist Controller up to RUNNING: coupling sense and chain probe (R57 to R59), the start-up sweep (R37),
enumeration (R38 to R40, R60, R61), identification (R47, R48), the warm or cold decision (R64), cold streams and warm
reads (R49 to R54, R66 to R68) and EXERCISING (R70 to R77). -/

namespace Sys2Proof.Machine

/-- Change the Consist Controller's state. -/
def modConsist (f : Consist → Consist) (s : State) : State := { s with consist := f s.consist }

/-- R33: the offers of the Consist Controller stand at class 5. -/
def consistOfferOf (pos : LinePos) (op : LineOp) (addr : Option Nat) (data : Option Word) (why : Purpose) : Offer :=
  { requester := .consistController, cls := 4, pos := pos, op := op, addr := addr, data := data, why := why }

/-- An offer of the Consist Controller for p, unless the RELEASE of p (R175) is offered or in flight. Where a transaction to p is
in flight as the RELEASE is made, R47, R48, R50, R74 and R181 have an offer follow its end, which by R33 would replace the
RELEASE, and R175 does not say that it is not made: that the RELEASE stands and no such offer is made is the model's choice
(notes/assumptions/18.md). -/
def ccOffer (p : Pos) (o : Offer) (s : State) : State := if releaseOffered s p then s else makeOffer o s

/-- Withdraw the Consist Controller's class 5 offer for p. -/
def ccWithdraw (p : Pos) : State → State := withdraw .consistController 4 (linePos p)

/-! ## The start-up sweep -/

/-- R37, R58: the sweep is complete; a trigger held to its end is made, if the coupling state is PRESENT. -/
def sweepComplete (s : State) : State :=
  let done := modConsist (fun c => { c with sweep := none, sweepTrigger := false }) s
  if s.consist.sweepTrigger && s.consist.cplPresent then emit .enumTrigger done else done

/-- R37: a RELEASE of the sweep ends, whatever its outcome: the next position below is released. -/
def sweepEnd (p : Pos) (s : State) : State :=
  if s.consist.sweep = some p then
    match posBefore p with
    | some q => makeOffer (sweepOffer q) (modConsist (fun c => { c with sweep := some q }) s)
    | none => sweepComplete s
  else s

/-! ## Enumeration -/

/-- The lowest VACANT position. -/
def lowestVacant (s : State) : Option Pos := allPos.find? fun p => isVacant s p

/-- R38: some position is LOST. -/
def anyLost (s : State) : Bool := allPos.any fun p => decide (stateOf s p = .lost)

/-- R25, R38: the ASSIGN of the pass with data n. -/
def assignOffer (n : Pos) : Offer :=
  consistOfferOf 0 .assign none (some (BitVec.ofNat 16 (posNumber n))) (.enumAssign n)

/-- R38: the conditions under which a trigger starts a pass. -/
def passMayStart (s : State) : Bool :=
  !s.consist.pass.active && s.consist.sweep.isNone && !anyLost s && !s.consist.release.active && s.consist.cplPresent
    && (lowestVacant s).isSome

/-- R38: the pass starts at the lowest VACANT position. -/
def startPass (s : State) : State :=
  match lowestVacant s with
  | some n => makeOffer (assignOffer n) (modPass (fun _ => { active := true, n := some n }) s)
  | none => s

/-- R38, R58, R177: an enumeration trigger: held while a release or the sweep is in progress, else it starts a pass where
the conditions are met. -/
def enumTrigger (s : State) : State :=
  if s.consist.release.active then modRelease (fun r => { r with heldTrigger := true }) s
  else if s.consist.sweep.isSome then modConsist (fun c => { c with sweepTrigger := true }) s
  else if passMayStart s then startPass s
  else s

/-- The pass record becomes inactive. -/
def closePass : State → State := modPass fun _ => {}

/-- R40: a pass under way is ended by the phase it is in. -/
def endPass (s : State) : State :=
  if s.consist.pass.active then
    match s.consist.pass.phase with
    | .offered => closePass (withdrawWhere (fun o =>
        match o.why with
        | .enumAssign _ => true
        | _ => false) s)
    | .spacing | .settling => closePass s
    | .inFlight => modPass (fun e => { e with ending := true }) s
  else s

/-- R39: the chain in front of n holds and the coupling sense is present. While a release is in progress (R174) the chain is
being emptied and does not hold, though n - 1 may still await its own RELEASE: so n does not become occupied behind a position
about to be VACANT (R56), which is read from the rules (notes/assumptions/38.md). -/
def frontHolds (s : State) (n : Pos) : Bool :=
  s.consist.cplPresent && !s.consist.release.active &&
    match posBefore n with
    | none => true
    | some m => !isVacant s m

/-- R39, R182: RELEASE of a node that took a number it is not to keep. -/
def strayOffer (p : Pos) : Offer := consistOfferOf (linePos p) .release none none (.strayRelease p)

/-- R39, R56: the ASSIGN of the pass ended Heard and Ready: n is handed to bring-up, or its node released again. -/
def assignTaken (n : Pos) (s : State) : State :=
  if frontHolds s n then
    emit (.handOver n)
      (if s.consist.pass.ending then closePass s
       else modPass (fun e => { e with phase := .settling, attempts := 0, heard := false,
                                       wait := s.now + Config.enumSettle }) s)
  else makeOffer (strayOffer n) (closePass s)

/-- R39, R40: the ASSIGN of the pass ended any other way. `heard`: the node was Heard. -/
def assignMissed (n : Pos) (heard : Bool) (s : State) : State :=
  let e := s.consist.pass
  let heard := e.heard || heard
  if e.ending then closePass s
  else if e.attempts + 1 < Config.enumAttempts then
    modPass (fun e => { e with attempts := e.attempts + 1, heard := heard, phase := .spacing,
                               wait := s.now + Config.enumSpacing }) s
  else emit (.chainEnd n heard) (closePass s)

/-- R39: the end of the ASSIGN with data n. -/
def assignEnd (n : Pos) (out : LineOutcome) (s : State) : State :=
  if s.consist.pass.active && decide (s.consist.pass.n = some n) && decide (s.consist.pass.phase = .inFlight) then
    match out with
    | .ready => assignTaken n s
    | .notReady => assignMissed n true s
    | .notHeard | .unheard => assignMissed n false s
  else s

/-- R38: the spacing ends: the same ASSIGN is offered again. -/
def spacingEnds (s : State) : State :=
  match s.consist.pass.n with
  | some n => makeOffer (assignOffer n) (modPass (fun e => { e with phase := .offered }) s)
  | none => s

/-- R39: the settle ends: n is raised, and the pass ends past 4, or goes on at the lowest VACANT position. -/
def settleEnds (s : State) : State :=
  match (s.consist.pass.n.bind posAfter), lowestVacant s with
  | some _, some n => makeOffer (assignOffer n) (modPass (fun e => { e with phase := .offered, n := some n }) s)
  | _, _ => closePass s

/-- The moment a wait of the pass ends, while it is in this phase. -/
def passWait (s : State) (ph : EnumPhase) : Option Time :=
  if s.consist.pass.active && decide (s.consist.pass.phase = ph) then some s.consist.pass.wait else none

/-- R61: a chain-end notice for n = 1 with no attempt Heard and the coupling state PRESENT makes position 1 WIRED. -/
def chainEnd (n : Pos) (heard : Bool) (s : State) : State :=
  if decide (n = 0) && !heard && s.consist.cplPresent && isVacant s 0 then
    emit .syncRefresh (modRec 0 (fun r => { r with state := .wired }) s)
  else s

/-! ## Coupling sense and chain probe -/

/-- R57: the level at CPL changes. -/
def coupleLevel (present : Bool) (s : State) : State :=
  if s.consist.cplLevel = present then s
  else modConsist (fun c =>
    { c with cplLevel := present, cplTimer := if present = c.cplPresent then none else some s.now }) s

/-- R57: the moment the debounced state takes this level, while the hold timer runs towards it. -/
def coupleMoment (s : State) (present : Bool) : Option Time :=
  if s.consist.cplLevel = present ∧ s.consist.cplPresent ≠ present then
    s.consist.cplTimer.map fun t => t + Config.couplingHold
  else none

/-- R58, R59: the debounced state rises. -/
def coupleRise (s : State) : State :=
  emitAll [.enumTrigger, .slotTest]
    (modConsist (fun c => { c with cplPresent := true, cplTimer := none, probeAt := some (s.now + Config.chainProbe) }) s)

/-- R58: the debounced state falls: the probe stops, the pass is ended, the load checks suspended and every position's
release asked for. -/
def coupleFall (s : State) : State :=
  emit (.releaseRequest 0)
    (suspendChecks (endPass
      (modConsist (fun c => { c with cplPresent := false, cplTimer := none, probeAt := none }) s)))

/-- R59: the chain probe expires. -/
def probeExpires (s : State) : State :=
  emit .enumTrigger (modConsist (fun c => { c with probeAt := c.probeAt.map fun t => t + Config.chainProbe }) s)

/-! ## Identification -/

/-- R48: READ-WORD of header word a. -/
def offerIdent (p : Pos) (a : Nat) : State → State :=
  ccOffer p (consistOfferOf (linePos p) .readWord (some a) none (.identWord p a))

/-- R48, R60, R181: identification starts. -/
def startIdent (p : Pos) (s : State) : State :=
  offerIdent p 0 (modStream p (fun r => { r with identNext := some 0, identWords := [] }) s)

/-- R60: position n is handed to bring-up. -/
def handOver (n : Pos) (s : State) : State :=
  if isVacant s n then startIdent n (modRec n (fun _ => { state := .identifying }) s) else s

/-- R47: DESCRIPTOR-BAD of a read of the Consist Controller. -/
def descriptorBad (p : Pos) (a : Nat) : State → State := recordFault .descriptorBad (some p) none none a

/-- R47, R48: identification ends with a verdict other than IDENTIFIED. -/
def identFails (p : Pos) (a : Nat) (v : IdentVerdict) (s : State) : State :=
  emit (.identVerdict p v (posRec s p).identity)
    (descriptorBad p a (modStream p (fun r => { r with identNext := none, identWords := [] }) s))

/-- R48: word 7 has been taken: the header is held, the identity written and the verdict IDENTIFIED. -/
def identified (p : Pos) (ws : List Word) (s : State) : State :=
  let h := headerOf ws
  emit (.identVerdict p .identified (posRec s p).identity)
    (modRec p (fun r => { r with identity := some (identityOf h) })
      (modStream p (fun r => { r with header := some h, identNext := none, identWords := [] }) s))

/-- R48: header word a is taken and tested. -/
def takeHeaderWord (p : Pos) (a : Nat) (w : Word) (s : State) : State :=
  let ws := (streamRec s p).identWords
  if !headerWordOk ws a w then identFails p a .badHeader s
  else if a = 7 then identified p (ws ++ [w]) s
  else offerIdent p (a + 1) (modStream p (fun r => { r with identNext := some (a + 1), identWords := ws ++ [w] }) s)

/-- R47: the end of an identification read; one no longer under way is discarded. -/
def identEnd (p : Pos) (a : Nat) (out : LineOutcome) (data : Option Word) (s : State) : State :=
  if (streamRec s p).identNext = some a then
    match out with
    | .ready => takeHeaderWord p a (data.getD 0) s
    | .unheard => offerIdent p a s
    | .notReady => identFails p a .readFailed s
    | .notHeard => identFails p a .format s
  else s

/-- R54: an identification or stream of p under way is abandoned. -/
def abandonReads (p : Pos) (s : State) : State :=
  let r := streamRec s p
  if r.active || r.identNext.isSome then ccWithdraw p (modStream p (fun _ => {}) s) else s

/-! ## The warm or cold decision -/

/-- R185: the Consist Memory's answer for position p. -/
def rememberedOf (s : State) (p : Pos) : Option Remembered :=
  if s.memory.invalid || (s.memory.pendingWrites.get p).isSome then none
  else
    match s.memory.writing with
    | some (.record q _) => if q = p then none else s.memory.store.records.get p
    | some (.rebuild _ _) | some (.forget _ _) => none
    | some (.header _) | none => s.memory.store.records.get p

/-- R42, R64: builder id and serial of the remembered record equal the node's. -/
def sameBuilder (r : Remembered) (i : Identity) : Bool := decide (r.builder = i.builder) && decide (r.serial = i.serial)

/-- R64: the decision for p: the remembered directory of a warm bring-up, or none for a cold one, and whether
CONFIG-MISMATCH(p) is set by it. -/
def decideWarm (s : State) (p : Pos) : Option Directory × Bool :=
  match rememberedOf s p, (posRec s p).identity with
  | some r, some i =>
    if sameBuilder r i then
      if r.checksum = i.checksum then (some r.directory, false) else (none, true)
    else (none, false)
  | _, _ => (none, false)

/-- R64: set CONFIG-MISMATCH(p). -/
def setMismatch (p : Pos) (v : Bool) (s : State) : State :=
  { s with memory := { s.memory with mismatch := s.memory.mismatch.put p v } }

/-! ## Streams -/

/-- READ-WORD of descriptor word a. -/
def offerStream (p : Pos) (a : Nat) : State → State :=
  ccOffer p (consistOfferOf (linePos p) .readWord (some a) none (.streamWord p a))

/-- R49: the sum of the eight header words. -/
def headerSum (h : Tab Word 8) : Word := h.toList.foldl (· + ·) 0

/-- R49: the cold stream starts. -/
def startCold (p : Pos) (s : State) : State :=
  match (streamRec s p).header with
  | some h =>
    offerStream p 8 (modStream p (fun r =>
      { header := r.header, active := true, next := some 8, sum := headerSum h }) s)
  | none => s

/-- R67: the lamp groups of a directory with their entries, in ascending order. -/
def lampArrays (d : Directory) : List DirEntry := ([0, 1, 2, 3] : List Group).filterMap fun g => d.get g

/-- R67: the addresses a warm read takes, in order. -/
def warmAddrs (d : Directory) : List Nat :=
  (lampArrays d).flatMap fun e => (List.range (4 * e.members)).map fun i => e.locator + i

/-- The item after the first occurrence of `a`. -/
def itemAfter (a : Nat) : List Nat → Option Nat
  | [] => none
  | x :: xs => if x = a then xs.head? else itemAfter a xs

/-- R53, R66, R68: the description is complete: the directory is copied, the contributors handed over in address order,
the required lamps copied, and the position goes to EXERCISING. -/
def describeDone (p : Pos) (s : State) : State :=
  let r := streamRec s p
  emitAll ((r.wires.map fun i => Notice.addContributor p i) ++ [.enterExercising p])
    (modStream p (fun r => { r with next := none, buffer := [], bufferOf := none })
      (modRec p (fun x => { x with directory := r.directory, required := r.required }) s))

/-- R67: the warm read starts. -/
def startWarm (p : Pos) (d : Directory) (s : State) : State :=
  let first := (warmAddrs d).head?
  let s' := modStream p (fun r =>
    { header := r.header, active := true, warm := true, directory := d, next := first }) s
  match first with
  | some a => offerStream p a s'
  | none => describeDone p s'

/-- R63, R64: IDENTIFIED: the position goes to DESCRIBING and the warm or cold decision is made. -/
def enterDescribing (p : Pos) (s : State) : State :=
  let describing := modRec p (fun r => { r with state := .describing }) s
  match decideWarm s p with
  | (some d, _) => startWarm p d (modRec p (fun r => { r with warm := true }) describing)
  | (none, mismatch) =>
    startCold p (modRec p (fun r => { r with warm := false })
      (if mismatch then setMismatch p true describing else describing))

/-- R63, R66, R67: the position goes to REJECTED. Of its stream record the header and the sum are kept; what R53 does not name
is cleared by the model's choice (notes/assumptions/35.md). -/
def reject (p : Pos) (s : State) : State :=
  modRec p (fun r => { r with state := .rejected })
    (modStream p (fun r => { header := r.header, sum := r.sum }) s)

/-- R47, R51: a stream or warm read ends with a verdict that rejects the position, recording DESCRIPTOR-BAD. -/
def streamFails (p : Pos) (a : Nat) (s : State) : State := reject p (descriptorBad p a s)

/-- R44: the word address of the record of f, by a directory that holds its group. -/
def recordAddr (d : Directory) (f : Code) : Nat :=
  match d.get (groupOf f) with
  | some e => e.locator + 4 * (memberOf f).val
  | none => 0

/-- R49: an item joins a list that is kept in address order. -/
def insertByAddr {α : Type} (addr : α → Nat) (x : α) : List α → List α
  | [] => [x]
  | y :: ys => if addr x < addr y then x :: y :: ys else y :: insertByAddr addr x ys

/-- R49: an item joins a capture in address order. A capture of 64 takes no more, which no stream brings about (R49). -/
def capture {α : Type} (addr : α → Nat) (x : α) (xs : List α) : List α :=
  if xs.length < Config.captureCapacity then insertByAddr addr x xs else xs

/-- R49, R52: the capture of a completed record of g/mm, both captures in address order. -/
def captureRecord (f : Code) (rec : FnRecord) (r : StreamRecord) : StreamRecord :=
  if unusableRecord (groupOf f) rec || decide (kindOf f ≠ .lamp) then r
  else
    match rec.feed with
    | .wired =>
      let item : WireItem := { circuit := circuitOf rec, code := f, nominal := rec.nominal, loadKind := rec.loadKind }
      { r with wires := capture (fun i => recordAddr r.directory i.code) item r.wires }
    | .node => if rec.required then { r with required := capture (recordAddr r.directory) f r.required } else r

/-- R50, R52: a word of a record array goes to the record buffer, and the fourth is decoded and captured. -/
def takeRecordWord (g : Group) (e : DirEntry) (a : Nat) (w : Word) (r : StreamRecord) : StreamRecord :=
  let f := codeOf g (memberAt e a)
  match (a - e.locator) % 4, r.buffer with
  | 3, [w0, w1, w2] => { captureRecord f (fnRecordOf w0 w1 w2 w) r with buffer := [], bufferOf := none }
  | _, ws => { r with buffer := ws ++ [w], bufferOf := some f }

/-- R50, R51: the interpretation of word a of a cold stream; none is the verdict FORMAT. -/
def interpretWord (h : Tab Word 8) (a : Nat) (w : Word) (r : StreamRecord) : Option StreamRecord :=
  let count := (h.get 5).toNat
  if a < 8 + 2 * count then
    match r.wordA with
    | none => some { r with wordA := some w }
    | some wa =>
      (testDirEntry r.directory count (h.get 1).toNat wa w).map fun x =>
        { r with directory := r.directory.put x.1 (some x.2), taken := r.taken + 1, wordA := none }
  else
    match arrayAt r.directory a with
    | some (g, e) => some (takeRecordWord g e a w r)
    | none => some r

/-- R53: the cold stream has taken its last word. -/
def coldEnds (p : Pos) (s : State) : State :=
  let sum := (streamRec s p).sum
  if sum = 0 then describeDone p s
  else reject p (recordFault .checksumBad (some p) none none sum.toNat s)

/-- R50: word a of a cold stream is taken. -/
def takeColdWord (p : Pos) (h : Tab Word 8) (a : Nat) (w : Word) (s : State) : State :=
  match interpretWord h a w { streamRec s p with sum := (streamRec s p).sum + w } with
  | none => streamFails p a (modStream p (fun r => { r with sum := r.sum + w }) s)
  | some r =>
    if a + 1 < (h.get 1).toNat then offerStream p (a + 1) (modStream p (fun _ => { r with next := some (a + 1) }) s)
    else coldEnds p (modStream p (fun _ => r) s)

/-- R67: word a of a warm read is taken. -/
def takeWarmWord (p : Pos) (a : Nat) (w : Word) (s : State) : State :=
  let r := streamRec s p
  let r' :=
    match arrayAt r.directory a with
    | some (g, e) => takeRecordWord g e a w r
    | none => r
  match itemAfter a (warmAddrs r.directory) with
  | some b => offerStream p b (modStream p (fun _ => { r' with next := some b }) s)
  | none => describeDone p (modStream p (fun _ => r') s)

/-- R47: the end of a stream read; one of a stream no longer active is discarded. -/
def streamEnd (p : Pos) (a : Nat) (out : LineOutcome) (data : Option Word) (s : State) : State :=
  let r := streamRec s p
  if r.active && decide (r.next = some a) && decide (stateOf s p = .describing) then
    match out with
    | .ready =>
      if r.warm then takeWarmWord p a (data.getD 0) s
      else
        match r.header with
        | some h => takeColdWord p h a (data.getD 0) s
        | none => s
    | .unheard => offerStream p a s
    | .notReady | .notHeard => streamFails p a s
  else s

/-! ## EXERCISING -/

/-- p is in EXERCISING. -/
def exercising (s : State) (p : Pos) : Bool := decide (stateOf s p = .exercising)

/-- R70: a position enters EXERCISING, from DESCRIBING or on recovery. The steps of R70 come in its order. That the lamp items
(R72) then come before the lookup of the plan's first group (R73), and both before a rebuild that the entry makes pending (R135)
and the POLL (R164), is the model's choice (notes/assumptions/6.md). -/
def enterExercising (p : Pos) (s : State) : State :=
  emitAll [.catchUp p, .buildPlan p, .exitTest p, .entryLamps p, .lookupGroups p, .rebuildEntry, .serviceEntry, .syncRefresh]
    (modStream p (fun r => { r with active := false, next := none, buffer := [], bufferOf := none })
      (modRec p (fun r => { r with state := .exercising, deadline := some (s.now + Config.exerciseDeadline) }) s))

/-- R70: the plan's lamp items. -/
def planLamps (s : State) (p : Pos) : List LampItem :=
  (allLines.filter fun k =>
      (circuitRec s k).contributors.any fun c => decide (c.pos = p) && unchecked s p c.code).map LampItem.circuit
    ++ ((posRec s p).required.filter fun f => unchecked s p f).map LampItem.lamp

/-- R70: the plan's groups to look up: the sensor and actuator groups of the directory. -/
def planGroups (s : State) (p : Pos) : List Group := (allGroups.drop 4).filter fun g => (dirOf s p g).isSome

/-- R70, R182: the sensor and actuator functions of p that hold a result other than UNCHECKED: at the entry those whose
result was kept through a LOST. -/
def keptResults (s : State) (p : Pos) : List Code := (allCodes.drop 64).filter fun f => !unchecked s p f

/-- R70: the exercise plan is built. -/
def buildPlan (p : Pos) (s : State) : State :=
  modRec p (fun r =>
    { r with lampItems := planLamps s p, groupItems := planGroups s p, firstReads := [], awaited := [],
             kept := keptResults s p }) s

/-- R76: the exit test of p, when it is EXERCISING. -/
def exitTest (p : Pos) (s : State) : State := if exercising s p && exitMet s p then emit (.enterRunning p) s else s

/-- R72, R75: the awaited lamps still UNCHECKED are asked to be DEFERRED and the lamp items leave the plan. -/
def deferLamps (p : Pos) (s : State) : State :=
  emitAll (((awaitedLamps s p).map fun f => Notice.deferUnchecked p f) ++ [.exitTest p])
    (modRec p (fun r => { r with lampItems := [] }) s)

/-- R72: the lamp items at the entry, by the motion state. -/
def entryLamps (p : Pos) (s : State) : State :=
  if exercising s p then if isStationary s then emit (.handItems p) s else deferLamps p s else s

/-- The target of a lamp item of p. -/
def itemTarget (p : Pos) (i : LampItem) : Target :=
  match i with
  | .circuit k => .circuit k
  | .lamp f => .lamp p f

/-- R72: the head lamp item is handed to the Exercise Queue; answered full, it waits. -/
def handItems (p : Pos) (s : State) : State :=
  match (posRec s p).lampItems with
  | i :: rest =>
    if exercising s p then
      match queueRequest (itemTarget p i) (some p) s with
      | (.full, s') => s'
      | (_, s') => emitAll [.exitTest p, .handItems p] (modRec p (fun r => { r with lampItems := rest }) s')
    else s
  | [] => s

/-- R71, R73: the required members of a LOADED block, with their points. -/
def requiredMembers (s : State) (b : BlockNo) (g : Group) (e : DirEntry) : List FirstRead :=
  allMembers.filterMap fun m =>
    match (blockOf s b).rows.get m with
    | some r =>
      if m.val < e.members ∧ r.unusable = false ∧ r.record.required = true then
        some { code := codeOf g m, point := r.record.point }
      else none
    | none => none

/-- R70, R73, R182: the first reads that a LOADED block adds. A result kept through a LOST is honoured: its function is
awaited, and read only where the result has turned UNCHECKED again (DEDUCED, notes/assumptions/37.md). -/
def requiredReads (s : State) (p : Pos) (b : BlockNo) (g : Group) (e : DirEntry) : List FirstRead :=
  (requiredMembers s b g e).filter fun x => unchecked s p x.code || !(posRec s p).kept.contains x.code

/-- R73: the first group of the plan is looked up. -/
def lookupGroups (p : Pos) (s : State) : State :=
  match (posRec s p).groupItems with
  | g :: gs =>
    if exercising s p then
      match lookupGroup p g none none (.plan p) s with
      | (.loaded b e, s') =>
        emitAll [.exitTest p, .consistOffer p, .lookupGroups p]
          (modRec p (fun r =>
            { r with groupItems := gs, firstReads := r.firstReads ++ requiredReads s' p b g e,
                     awaited := r.awaited ++ (requiredMembers s' b g e).map fun x => x.code }) s')
      | (.wait, s') => s'
      | (_, s') => emitAll [.exitTest p, .lookupGroups p] (modRec p (fun r => { r with groupItems := gs }) s')
    else s
  | [] => s

/-- R74: the GET of a first read. -/
def firstReadOffer (p : Pos) (x : FirstRead) : Offer :=
  consistOfferOf (linePos p) .get (some x.point) none (.firstRead p x.code)

/-- R74: a class 5 transaction of the Consist Controller to p is in flight. -/
def ccInFlight (s : State) (p : Pos) : Bool :=
  flightIs s fun o => decide (o.requester = .consistController) && decide (o.pos = linePos p)

/-- R74: the one class 5 offer of an EXERCISING position: a node-lamp check GET before the first reads in their order. -/
def consistOffer (p : Pos) (s : State) : State :=
  if !exercising s p || (standing s .consistController 4 (linePos p)).isSome || ccInFlight s p then s
  else
    match wantedReading s p with
    | some x => ccOffer p (readingOffer .consistController p x) s
    | none =>
      match (posRec s p).firstReads.find? fun x => !ahead s x.notBefore with
      | some x => ccOffer p (firstReadOffer p x) s
      | none => s

/-- Change the first read of f at p. -/
def modFirstRead (p : Pos) (f : Code) (g : FirstRead → FirstRead) : State → State :=
  modRec p fun r => { r with firstReads := r.firstReads.map fun x => if x.code = f then g x else x }

/-- R74: a first read leaves the list with a result. -/
def firstReadDone (p : Pos) (f : Code) (res : CheckResult) (s : State) : State :=
  emitAll [.writeResult p f res, .exitTest p, .consistOffer p]
    (modRec p (fun r => { r with firstReads := r.firstReads.filter fun x => !decide (x.code = f) }) s)

/-- R74: data of a first read is written: no VALUE frame follows. -/
def firstReadData (p : Pos) (f : Code) (w : Word) : State → State :=
  modEntry p f fun e =>
    if kindOf f = .sensor then
      { e with read := true, changed := e.changed || decide (e.lastValue ≠ some w), lastValue := some w }
    else { e with read := true, lastValue := some w }

/-- R74: the end of a first read. One taken after the position has left EXERCISING is discarded. That after an Unheard end the
next GET is chosen by the order of R74 is the model's choice (notes/assumptions/44.md). -/
def firstReadEnd (p : Pos) (f : Code) (point : Nat) (out : LineOutcome) (data : Option Word) (s : State) : State :=
  if exercising s p && (posRec s p).firstReads.any fun x => decide (x.code = f) then
    match out with
    | .ready =>
      let w := data.getD 0
      if kindOf f = .sensor ∧ w = invalidReading then
        firstReadDone p f .sensorFault (modEntry p f (fun e => { e with read := true }) s)
      else firstReadDone p f .ok (firstReadData p f w s)
    | .notReady =>
      if kindOf f = .sensor then firstReadDone p f .sensorFault s
      else
        emit (.consistOffer p)
          (modFirstRead p f (fun x =>
            { x with last := .notReady, notBefore := some (s.now + Config.firstReadRepeat) }) s)
    | .notHeard => firstReadDone p f .noReply (recordFault .pointUnknown (some p) (some f) none point s)
    | .unheard => emit (.consistOffer p) (modFirstRead p f (fun x => { x with last := .unheard }) s)
  else emit (.consistOffer p) s

/-- R75: a change of the motion state reaches the EXERCISING positions. -/
def motionToConsist (s : State) : State :=
  if isStationary s then s else allPos.foldl (fun s p => if exercising s p then deferLamps p s else s) s

/-- R76, R77: the Consist Controller's GETs for the exercise of p are withdrawn: its first read and its node-lamp check
GET. A RELEASE of p that stands (R175) is kept. That a first read still on offer when the exit test is met is withdrawn too,
where R76 names the check GET alone, is the model's choice (notes/assumptions/14.md). -/
def withdrawExercise (p : Pos) : State → State :=
  withdrawWhere fun o => decide (o.requester = .consistController) &&
    match o.why with
    | .firstRead q _ | .nodeLamp q _ _ _ => decide (q = p)
    | _ => false

/-- R76: p leaves EXERCISING for RUNNING. -/
def enterRunning (p : Pos) (s : State) : State :=
  if exercising s p then
    emitAll
      ((if (posRec s p).warm then [] else [Notice.memoryRequest p])
        ++ [.runningDelivery p, .runningService p, .nodeLampOffer p])
      (withdrawExercise p (modRec p (fun r =>
        { r with state := .running, deadline := none, lampItems := [], groupItems := [], firstReads := [],
                 awaited := [], kept := [] }) s))
  else s

/-- R77, step 3: a result that the exercise deadline writes. No exit test follows it: the position leaves at step 4. -/
def deadlineWrite (p : Pos) (f : Code) (r : CheckResult) (s : State) : State :=
  if resultDiffers s p f r then emit (.placeResult p f) (setResult p f r s) else s

/-- R77, step 3: what the exercise deadline makes of a first read outstanding. -/
def deadlineRead (p : Pos) (s : State) (x : FirstRead) : State :=
  match x.last with
  | .unheard | .notIssued => deadlineWrite p x.code .noReply s
  | .notReady => recordFault .actTimeout (some p) (some x.code) none 0 (deadlineWrite p x.code .actTimeout s)
  | .issued => s

/-- R77, step 3: DEFERRED is written to an awaited lamp still UNCHECKED. -/
def deadlineLamp (p : Pos) (s : State) (f : Code) : State :=
  if unchecked s p f then deadlineWrite p f .deferred s else s

/-- R77: the exercise deadline of p passes. That the awaited lamps are gone through in the order of `awaitedLamps`, and the first
reads once, in list order, whichever result each gets, is the model's choice (notes/assumptions/14.md). -/
def deadlinePasses (p : Pos) (s : State) : State :=
  let s1 := withdrawWhere (fun o =>
      match o.why with
      | .firstRead q _ => decide (q = p)
      | _ => false)
    (modRec p (fun r => { r with lampItems := [], groupItems := [] }) s)
  emit (.enterRunning p) ((posRec s p).firstReads.foldl (deadlineRead p) ((awaitedLamps s p).foldl (deadlineLamp p) s1))

/-- R77: the exercise deadline of p, while it is EXERCISING. -/
def deadlineOf (s : State) (p : Pos) : Option Time := if exercising s p then (posRec s p).deadline else none

/-- R74: the moment the repeat of the first read of f is held to. -/
def firstReadHeld (s : State) (p : Pos) (f : Code) : Option Time :=
  if exercising s p then
    ((posRec s p).firstReads.find? fun x => decide (x.code = f)).bind fun x => x.notBefore
  else none

end Sys2Proof.Machine
end

