-- ==== Sys2Proof/Machine/Release.lean ====
section
/-! DEFINITION. Releases (R174 to R178), line loss (R179) and recovery (R181 to R183). -/

namespace Sys2Proof.Machine

/-! ## Release -/

/-- R175: the RELEASE of position q in a release. -/
def releaseOffer (q : Pos) : Offer := consistOfferOf (linePos q) .release none none (.positionRelease q)

/-- The highest position that is not VACANT. -/
def highestOccupied (s : State) : Option Pos := ([3, 2, 1, 0] : List Pos).find? fun p => !isVacant s p

/-- R174: some position of p to 4 is other than VACANT. -/
def rangeOccupied (s : State) (p : Pos) : Bool := allPos.any fun q => decide (p ≤ q) && !isVacant s q

/-- R177: the release completes: the record becomes inactive, a RELEASE-POSITION that waits is answered, and with the
coupling state PRESENT an enumeration trigger is made. -/
def completeRelease (s : State) : State :=
  let done := modRelease (fun _ => {}) s
  let answered :=
    if s.consist.release.replyOwed && decide (handedCode s = some 23) then answer .ok [] done else done
  if s.consist.cplPresent then emit .enumTrigger answered else answered

/-- R183, R54: a recovery identification of a LOST position that a release has come to cover is abandoned. That its attempt is
under way no longer, while one whose ASSIGN or GET is out stays under way until its position is reset (R176), is the model's
choice (notes/assumptions/18.md). -/
def abandonRecovery (s : State) : State :=
  allPos.foldl (fun s q =>
    if decide (stateOf s q = .lost) && underRelease s q && (streamRec s q).identNext.isSome then
      modRec q (fun r => { r with attemptUnderWay := false }) (abandonReads q s)
    else s) s

/-- R174: a release of position p is asked for. -/
def releaseRequest (p : Pos) (s : State) : State :=
  match s.consist.release.active, s.consist.release.lowest with
  | true, some l =>
    if p < l then abandonRecovery (modRelease (fun r => { r with lowest := some p }) s) else s
  | _, _ =>
    if rangeOccupied s p then
      emit .releaseWalk
        (abandonRecovery (modRelease (fun r =>
          { r with active := true, lowest := some p, current := highestOccupied s, phase := none }) s))
    else completeRelease s

/-- R175: the next step of the walk: a VACANT position is passed over, a WIRED one reset, another offered its RELEASE. -/
def releaseWalk (s : State) : State :=
  let r := s.consist.release
  if r.active && r.phase.isNone then
    match r.current, r.lowest with
    | some q, some l =>
      if q < l then completeRelease s
      else
        match stateOf s q with
        | .vacant => emit .releaseWalk (modRelease (fun r => { r with current := posBefore q }) s)
        | .wired => emit (.resetPosition q) s
        | _ => makeOffer (releaseOffer q) (modRelease (fun r => { r with phase := some .offered }) s)
    | _, _ => completeRelease s
  else s

/-- R175: the RELEASE of q ends, whatever its outcome. -/
def releaseEnd (q : Pos) (s : State) : State :=
  if s.consist.release.active && decide (s.consist.release.current = some q) then emit (.resetPosition q) s else s

/-- R36: the discard mark is set on a transaction in flight that is addressed to q. -/
def markDiscard (q : Pos) (s : State) : State :=
  match openFlight s with
  | some fl =>
    if fl.offer.pos = linePos q then { s with line := { s.line with flight := some { fl with discard := true } } } else s
  | none => s

/-- R176, step 1: the offers of the Consist Controller at class 5 that belong to q. -/
def belongsTo (q : Pos) (o : Offer) : Bool :=
  decide (o.requester = .consistController) && decide (o.cls = 4)
    && (decide (o.pos = linePos q) || decide (o.why = .recoveryAssign q))

/-- R176: the reset of position q, in the order of the rule's table. -/
def resetPosition (q : Pos) (s : State) : State :=
  emitAll [.endPass, .resetBinding q, .resetDelivery q, .resetLoadCheck q, .resetService q, .syncRefresh, .releaseWalk]
    (markDiscard q (setUnheard q 0
      (modRelease (fun r => { r with current := posBefore q, phase := none })
        (withdrawWhere (belongsTo q) (modStream q (fun _ => {}) (modRec q (fun _ => {}) s))))))

/-- R178: RELEASE-POSITION of p, in range. -/
def askRelease (p : Pos) (s : State) : State :=
  if isVacant s p && !s.consist.release.active then answer .ok [] s
  else emit (.releaseRequest p) (holdHead (modRelease (fun r => { r with replyOwed := true }) s))

/-! ## Line loss -/

/-- R179: the detail of a NODE-LOST fault. -/
def priorDetail (x : PosState) : Nat :=
  match x with
  | .identifying => 1
  | .describing => 2
  | .exercising => 3
  | .running => 4
  | _ => 0

/-- R179: a position goes LOST. -/
def goLost (p : Pos) (s : State) : State :=
  let prior := stateOf s p
  let lost := modRec p (fun r =>
    { r with state := .lost, prior := some prior, lostTimer := some 0, attempts := 0,
             attemptTimer := some (s.now + Config.attemptTimer), attemptUnderWay := false, lampItems := [],
             groupItems := [], firstReads := [], awaited := [], kept := [], deadline := none }) s
  emitAll [.lostDelivery p, .lostLoadCheck p, .resetService p, .syncRefresh]
    (freeFetching p
      (recordFault .nodeLost (some p) none none (priorDetail prior)
        (endPass (ccWithdraw p (abandonReads p lost)))))

/-- R179, R182, R56: a silence notice for p. -/
def silence (p : Pos) (s : State) : State :=
  if releaseOffered s p then s
  else
    match stateOf s p with
    | .identifying | .describing | .exercising | .running => goLost p s
    | .lost =>
      if (posRec s p).attemptUnderWay then modRec p (fun r => { r with attemptUnderWay := false }) (abandonReads p s) else s
    | _ => s

/-! ## Recovery -/

/-- R181: p is the frontmost LOST position, and neither it nor a position in front of it is in an active release. -/
def frontmostLost (s : State) (p : Pos) : Bool :=
  decide (stateOf s p = .lost) && !underRelease s p
    && allPos.all fun q => !decide (q < p) || (!decide (stateOf s q = .lost) && !underRelease s q)

/-- R181: the recovery ASSIGN. -/
def recoveryOffer (p : Pos) : Offer :=
  consistOfferOf 0 .assign none (some (BitVec.ofNat 16 (posNumber p))) (.recoveryAssign p)

/-- R181: the GET of point 63 that looks for a node that kept its number. -/
def probeOffer (p : Pos) : Offer := consistOfferOf (linePos p) .get (some 63) none (.recoveryGet p)

/-- R181: an expiry of the attempt timer restarts it, and makes an attempt where the conditions hold. -/
def attemptExpires (p : Pos) (s : State) : State :=
  let again := modRec p (fun r => { r with attemptTimer := r.attemptTimer.map fun t => t + Config.attemptTimer }) s
  if frontmostLost s p && s.consist.cplPresent && !(posRec s p).attemptUnderWay then
    makeOffer (recoveryOffer p)
      (modRec p (fun r => { r with attempts := min 255 (r.attempts + 1), attemptUnderWay := true }) again)
  else again

/-- R181: the moment the attempt timer of a LOST position expires. -/
def attemptMoment (s : State) (p : Pos) : Option Time :=
  if stateOf s p = .lost then (posRec s p).attemptTimer else none

/-- R181, R182: an attempt of p is under way and no release covers p. -/
def attempting (s : State) (p : Pos) : Bool :=
  decide (stateOf s p = .lost) && (posRec s p).attemptUnderWay && !underRelease s p

/-- R181, R182: the end of a recovery ASSIGN. -/
def recoveryAssignEnd (p : Pos) (out : LineOutcome) (s : State) : State :=
  if attempting s p then
    if out = .ready then startIdent p s else ccOffer p (probeOffer p) s
  else if out = .ready ∧ isVacant s p = true then makeOffer (strayOffer p) s
  else s

/-- R181: the end of the GET of point 63 of an attempt. -/
def recoveryGetEnd (p : Pos) (out : LineOutcome) (s : State) : State :=
  if attempting s p then
    if out = .unheard then modRec p (fun r => { r with attemptUnderWay := false }) s else startIdent p s
  else s

/-- R182: the identification of an attempt found the trailer that was lost, and it had been described. -/
def recovers (s : State) (p : Pos) (v : IdentVerdict) (before : Option Identity) : Bool :=
  match v, before, (posRec s p).identity, (posRec s p).prior with
  | .identified, some b, some i, some .exercising => sameTrailer b i
  | .identified, some b, some i, some .running => sameTrailer b i
  | _, _, _, _ => false

/-- R182: the judgement of a recovery identification. -/
def judgeRecovery (p : Pos) (v : IdentVerdict) (before : Option Identity) (s : State) : State :=
  if recovers s p v before then
    emit (.enterExercising p)
      (modRec p (fun r => { r with lostTimer := none, attempts := 0, prior := none, attemptTimer := none,
                                   attemptUnderWay := false }) s)
  else emit (.releaseRequest p) (modRec p (fun r => { r with attemptUnderWay := false }) s)

/-- R63, R182: the verdict of an identification; one that reaches a position in another state is discarded (R56). -/
def identVerdict (p : Pos) (v : IdentVerdict) (before : Option Identity) (s : State) : State :=
  match stateOf s p with
  | .identifying =>
    match v with
    | .identified => enterDescribing p s
    | _ => reject p s
  | .lost => if (posRec s p).attemptUnderWay then judgeRecovery p v before s else s
  | _ => s

/-- R183: the ticks the LOST timer of p has still to count, while it runs. -/
def lostRemaining (s : State) (p : Pos) : Option Nat :=
  if stateOf s p = .lost ∧ underRelease s p = false then (posRec s p).lostTimer.map fun t => Config.lostLimit - t else none

end Sys2Proof.Machine
end

