-- ==== Sys2Proof/Machine/Service.lean ====
section
/-! DEFINITION. The Service Poller (R164 to R168) and the Sequence Unit (R169 to R172). -/

namespace Sys2Proof.Machine

/-- Change the Service Poller's state. -/
def modService (f : Service → Service) (s : State) : State := { s with service := f s.service }

/-! ## POLLs -/

/-- Some position is EXERCISING or RUNNING. -/
def anyInService (s : State) : Bool := allPos.any fun p => inService s p

/-- R164: the POLL offer. -/
def pollOffer : Offer :=
  { requester := .servicePoller, cls := 3, pos := 0, op := .poll, addr := none, data := none, why := .pollAll }

/-- R164: the Service Poller holds a POLL offer. -/
def pollStands (s : State) : Bool := (standing s .servicePoller 3 0).isSome

/-- A POLL is in flight. -/
def pollInFlight (s : State) : Bool := flightIs s fun o => decide (o.op = .poll)

/-- R164: a POLL is offered, unless one stands or no position is in service. -/
def askPoll (s : State) : State := if pollStands s || !anyInService s then s else makeOffer pollOffer s

/-- R164: a position enters EXERCISING: the POLL is offered where the kept poll time has passed. -/
def pollOnEntry (s : State) : State := if passed s s.service.nextPoll && !pollInFlight s then askPoll s else s

/-- R164: the moment a POLL is to be offered for its poll time: none while one stands or is in flight, or while no position
is in service. -/
def pollMoment (s : State) : Option Time :=
  if anyInService s && !pollStands s && !pollInFlight s then s.service.nextPoll else none

/-! ## Service rounds -/

/-- R165: the service pause of p: one that has passed is none. -/
def pauseOf (s : State) (p : Pos) : Option Time := (s.service.pauses.get p).filter fun t => decide (s.now < t)

/-- R165: p is in the service-pending set. -/
def servicePending (s : State) (p : Pos) : Bool := s.service.pendingSet.get p

/-- R166: the GET of point 62. -/
def wordOffer (p : Pos) : Offer :=
  { requester := .servicePoller, cls := 3, pos := linePos p, op := .get, addr := some 62, data := none,
    why := .serviceWord p }

/-- R167: the GET of a named function's point. -/
def namedOffer (p : Pos) (f : Code) (point : Nat) : Offer :=
  { requester := .servicePoller, cls := 3, pos := linePos p, op := .get, addr := some point, data := none,
    why := .serviceRead p f }

/-- R165: the effect of a POLL's end on one position that answered. -/
def joinPending (s : State) (p : Pos) : State :=
  if !inService s p || servicePending s p || (pauseOf s p).isSome then s
  else
    makeOffer (wordOffer p)
      (modService (fun v => { v with pendingSet := v.pendingSet.put p true, rounds := v.rounds.put p {},
                                     pauses := v.pauses.put p none }) s)

/-- R164, R165: a POLL has ended with these slots answered. -/
def pollEnd (slots : Tab Bool 4) (s : State) : State :=
  (allPos.filter fun p => slots.get p).foldl joinPending
    (modService (fun v => { v with nextPoll := some (s.now + Config.pollSpacing) }) s)

/-- R166, R167, R168: the round of p ends: p leaves the pending set and its offer is withdrawn. R168 gives what the round
record then holds for its own events; that it is the same after a round that ends by its word, a not Ready or Not Heard end or
the limit of 16 is the model's choice (notes/assumptions/41.md). -/
def endRound (p : Pos) (s : State) : State :=
  withdraw .servicePoller 3 (linePos p)
    (modService (fun v => { v with pendingSet := v.pendingSet.put p false, rounds := v.rounds.put p {} }) s)

/-- R167: the round returns to phase WORD. That its named function and point become none then is the model's choice
(notes/assumptions/41.md). -/
def backToWord (p : Pos) (s : State) : State :=
  makeOffer (wordOffer p) (modRound p (fun r => { count := r.count }) s)

/-- R167: the point of the function's row, where the round may read it. -/
def readablePoint (s : State) (p : Pos) (f : Code) (b : BlockNo) (e : DirEntry) : Option Nat :=
  if e.members ≤ (memberOf f).val ∨ (entryOf s p f).notFitted = true then none
  else
    match (blockOf s b).rows.get (memberOf f) with
    | some r => if r.unusable = false ∧ r.record.feed = .node then some r.record.point else none
    | none => none

/-- R167: the lookup of the function the round names. At a position that has left service the round is about to end (R168). A
NO-SPACE fault of it carries function code none by the model's choice (notes/assumptions/39.md). -/
def roundLookup (p : Pos) (s : State) : State :=
  match (roundOf s p).code with
  | none => s
  | some f =>
    match lookupGroup p (groupOf f) none none (.service p) s with
    | (.loaded b e, s') =>
      match readablePoint s' p f b e with
      | some point =>
        makeOffer (namedOffer p f point)
          (modRound p (fun r => { r with reading := true, point := some point, waiting := false }) s')
      | none => backToWord p s'
    | (.wait, s') => modRound p (fun r => { r with waiting := true }) s'
    | (.noSpace, s') => modRound p (fun r => { r with waiting := true }) s'
    | (.notFitted, s') => backToWord p s'
    | (.notReady, s') => s'

/-- R167: a lookup that waits is made again. -/
def retryRound (p : Pos) (s : State) : State := if servicePending s p && (roundOf s p).waiting then roundLookup p s else s

/-- R167: a freed notice ends the round that waits. -/
def freedRound (p : Pos) (s : State) : State := if servicePending s p && (roundOf s p).waiting then endRound p s else s

/-- R167: a function is named: the count is raised, or at 16 the round ends with a pause. -/
def nameFunction (p : Pos) (f : Code) (s : State) : State :=
  if Config.roundLimit ≤ (roundOf s p).count then
    modService (fun v => { v with pauses := v.pauses.put p (some (s.now + Config.servicePause)) }) (endRound p s)
  else roundLookup p (modRound p (fun r => { r with count := r.count + 1, code := some f }) s)

/-- R166: the end of a GET of point 62; one of no round in phase WORD is discarded. -/
def wordEnd (p : Pos) (out : LineOutcome) (data : Option Word) (s : State) : State :=
  let r := roundOf s p
  if servicePending s p && !r.reading && !r.waiting then
    match out with
    | .ready =>
      let n := (data.getD 0).toNat
      if h : n < 192 then nameFunction p ⟨n, h⟩ s else endRound p s
    | .notReady | .notHeard => endRound p s
    | .unheard => makeOffer (wordOffer p) s
  else s

/-- R167: what the data of a service read makes of the entry of (p, f). That a VALUE frame is placed before the result is
written is the model's choice (notes/assumptions/6.md). -/
def serviceData (p : Pos) (f : Code) (w : Word) (s : State) : State :=
  let s' := writeReading p f w s
  match kindOf f with
  | .sensor => emit (.writeResult p f (if w = invalidReading then .sensorFault else .ok)) s'
  | .actuator =>
    if (entryOf s p f).watchDeadline.isSome then emitAll [.writeResult p f .ok, .classSix p] (endWatch p f s') else s'
  | .lamp => s'

/-- R167: the end of a service function GET; one of no round that reads it is discarded. None moves the next periodic-read time
of a sensor. -/
def serviceReadEnd (p : Pos) (f : Code) (point : Nat) (out : LineOutcome) (data : Option Word) (s : State) : State :=
  let r := roundOf s p
  if servicePending s p && r.reading && decide (r.code = some f) then
    match out with
    | .ready => backToWord p (serviceData p f (data.getD 0) s)
    | .notReady => backToWord p s
    | .notHeard =>
      backToWord p (emitAll (.writeResult p f .noReply :: holdNotices p) (pointUnknown p f none point s))
    | .unheard => makeOffer (namedOffer p f point) s
  else s

/-! ## The Sequence Unit -/

/-- R169: a sequence is RUNNING. -/
def seqRunning (s : State) : Bool := decide (s.sequence.state = .running)

/-- The line operation of a sequence. -/
def seqLineOp (o : SeqOp) : LineOp :=
  match o with
  | .get => .get
  | .readWord => .readWord

/-- R169: the greatest point or word address of an operation. -/
def seqLast (o : SeqOp) : Nat :=
  match o with
  | .get => 63
  | .readWord => 1023

/-- R170: offer the current item. -/
def offerItem (s : State) : State :=
  match s.sequence.pos, s.sequence.addr, s.sequence.op with
  | some p, some a, some o =>
    makeOffer { requester := .sequenceUnit, cls := 6, pos := linePos p, op := seqLineOp o, addr := some a, data := none,
                why := .sequenceItem p a s.sequence.run } s
  | _, _, _ => s

/-- R172: the sequence ends with this code: its offer is withdrawn and a pending repeat cancelled. -/
def endSequence (c : SeqEnd) (s : State) : State :=
  withdrawWhere (fun o => decide (o.requester = .sequenceUnit))
    (modSeq (fun q => { q with state := .ended, endCode := some c, repeatAt := none }) s)

/-- R171: the next position of a walk. -/
def walkNext (s : State) (p : Pos) : Option Pos := allPos.find? fun q => decide (p < q) && inService s q

/-- R171: the walk moves to the next position in service, or ends WALK-DONE. -/
def walkMove (s : State) : State :=
  match s.sequence.pos.bind (walkNext s) with
  | some q => offerItem (modSeq (fun x => { x with pos := some q, addr := some 0, itemStart := some s.now }) s)
  | none => endSequence .walkDone s

/-- R170: store an item. -/
def storeItem (heard ready : Bool) (data : Option Word) (s : State) : State :=
  match s.sequence.pos, s.sequence.addr with
  | some p, some a =>
    modSeq (fun q => { q with buffer := q.buffer ++
      [{ pos := p, addr := a, heard := heard, ready := ready, data := if ready then data else none }] }) s
  | _, _ => s

/-- R170: the items stored have reached the count. -/
def seqFull (s : State) : Bool :=
  match s.sequence.count with
  | some n => decide (n ≤ s.sequence.buffer.length)
  | none => false

/-- R170, R171: advance to the next point or address, or end COMPLETE. -/
def seqAdvance (s : State) : State :=
  if seqFull s then endSequence .complete s
  else
    let a := (s.sequence.addr.getD 0) + 1
    if s.sequence.mode = some .walk ∧ seqLast (s.sequence.op.getD .get) < a then walkMove s
    else offerItem (modSeq (fun q => { q with addr := some a, itemStart := some s.now }) s)

/-- R170: the same item is offered again 10 ms after this end. -/
def seqRepeatLater (s : State) : State := modSeq (fun q => { q with repeatAt := some (s.now + Config.sequenceRepeat) }) s

/-- R170: the end of an item of the running sequence; any other is discarded (R172). -/
def sequenceEnd (run : Nat) (out : LineOutcome) (data : Option Word) (s : State) : State :=
  if seqRunning s && decide (s.sequence.run = run) then
    match s.sequence.mode, out with
    | _, .unheard => offerItem s
    | _, .ready => seqAdvance (storeItem true true data s)
    | some .stopOnNotReady, .notReady => endSequence .abortedNotReady (storeItem true false none s)
    | some .stopOnNotReady, .notHeard => endSequence .abortedNotReady (storeItem false false none s)
    | some .ignoreReady, .notReady => seqAdvance (storeItem true false none s)
    | some .ignoreReady, .notHeard => seqAdvance (storeItem false false none s)
    | some .repeatUntilReady, _ => seqRepeatLater s
    | some .walk, .notReady => seqAdvance (storeItem true false none s)
    | some .walk, .notHeard => walkMove s
    | none, _ => s
  else s

/-- R170: the moment the item times out, in REPEAT-UNTIL-READY mode. -/
def itemDeadline (s : State) : Option Time :=
  if seqRunning s && decide (s.sequence.mode = some .repeatUntilReady) then
    match s.sequence.itemStart, s.sequence.timeout with
    | some t, some d => some (t + ms d)
    | _, _ => none
  else none

/-- R169: what START-SEQUENCE asks for. -/
structure SeqRequest where
  pos : Pos
  op : SeqOp
  mode : SeqMode
  addr : Nat
  count : Nat
  timeout : Nat
  deriving DecidableEq, Repr

/-- R169, R190: the position of the first argument byte. -/
def seqPos (b : Nat) : Option Pos := if h : 1 ≤ b / 16 ∧ b / 16 ≤ 4 then some ⟨b / 16 - 1, by omega⟩ else none

/-- R169, R190, R192: the request as its arguments spell it, its position and operation known. -/
def seqRequest (args : List Byte) : Option SeqRequest :=
  let b := argByte args 0
  match seqPos b, seqOpOf (b / 4 % 4) with
  | some p, some o =>
    some { pos := p, op := o, mode := seqModeOf b, addr := argWord args 1, count := argByte args 3, timeout := argWord args 4 }
  | _, _ => none

/-- R169: the first three rows: the ranges of the request. -/
def seqInRange (r : SeqRequest) : Bool :=
  decide (1 ≤ r.count) && decide (r.count ≤ 64) && decide (r.addr ≤ seqLast r.op)
    && (decide (r.mode = .walk) || decide (r.addr + r.count - 1 ≤ seqLast r.op))
    && (decide (r.mode ≠ .repeatUntilReady) || (decide (10 ≤ r.timeout) && decide (r.timeout ≤ 60000)))

/-- R169: the sequence starts. -/
def beginSequence (r : SeqRequest) (s : State) : State :=
  offerItem (modSeq (fun q =>
    { state := .running, endCode := none, op := some r.op, mode := some r.mode, count := some r.count,
      timeout := if r.mode = .repeatUntilReady then some r.timeout else none, pos := some r.pos, addr := some r.addr,
      itemStart := some s.now, run := q.run + 1 }) s)

/-! ## Leaving service -/

/-- R168, R172: p has left EXERCISING and RUNNING, for LOST or by release: its round ends, a release clears its pause, the
POLL offer goes with the last position in service, and a sequence at p ends POSITION-LOST. -/
def leavePoller (p : Pos) (s : State) : State :=
  let ended := endRound p s
  let paused := if isVacant s p then modService (fun v => { v with pauses := v.pauses.put p none }) ended else ended
  let polled := if anyInService paused then paused else withdraw .servicePoller 3 0 paused
  if seqRunning polled && decide (polled.sequence.pos = some p) then endSequence .positionLost polled else polled

end Sys2Proof.Machine
end

