-- ==== Sys2Proof/Machine/Memory.lean ====
section
/-! DEFINITION. The Consist Memory: the store and its checksum (R185), writes (R186), the check at start (R187), forgetting
(R188) and the restart code and cause (R189). -/

namespace Sys2Proof.Machine

/-- Change the Consist Memory. -/
def modMemory (f : Memory → Memory) (s : State) : State := { s with memory := f s.memory }

/-! ## The store -/

/-- R185: the words of a directory entry in the store. The manual gives no layout (DESIGN CHOICE,
notes/assumptions/24.md). -/
def entryWords (e : Option DirEntry) : List Word :=
  match e with
  | some e => [BitVec.ofNat 16 (32768 + 256 * e.policyClass.val + e.members), BitVec.ofNat 16 e.locator]
  | none => [0, 0]

/-- R185: the words of a remembered record in the store; those of an absent one are 0 (DESIGN CHOICE,
notes/assumptions/24.md). -/
def recordWords (r : Option Remembered) : List Word :=
  match r with
  | some r =>
    [1, r.builder, r.serial.extractLsb' 16 16, r.serial.extractLsb' 0 16, r.checksum] ++ r.directory.toList.flatMap entryWords
  | none => []

/-- R185: the word of the restart code. -/
def codeWord (c : RestartCode) : Word :=
  match c with
  | .none => 0
  | .deviceReset => 1

/-- R185: the sum of every word of the store but the checksum word. -/
def contentSum (s : Store) : Word :=
  ((codeWord s.code :: s.records.toList.flatMap recordWords).foldl (· + ·) 0)

/-- R185: the checksum holds: the store is not torn and its words sum to 0. -/
def checksumHolds (s : Store) : Bool := !s.torn && decide (contentSum s + s.checksum = 0)

/-- R186: the checksum word recomputed so that the checksum holds. -/
def sealStore (s : Store) : Store := { s with checksum := 0 - contentSum s, torn := false }

/-- R186: the store after a record write. -/
def storeRecord (p : Pos) (c : Remembered) (s : Store) : Store := sealStore { s with records := s.records.put p (some c) }

/-- R187: the store after a rebuild. -/
def storeRebuilt (p : Pos) (c : Remembered) (s : Store) : Store :=
  sealStore { s with code := .none, records := (Tab.fill none).put p (some c) }

/-- R188, R189: the store after a forget write. -/
def storeForgotten (code : RestartCode) (s : Store) : Store := sealStore { s with code := code, records := Tab.fill none }

/-- R189: the store after a header write. -/
def storeHeader (code : RestartCode) (s : Store) : Store := sealStore { s with code := code }

/-! ## Taking writes -/

/-- Start a write. -/
def startWrite (w : Writing) : State → State := modMemory fun m => { m with writing := some w }

/-- R186: the record of p is valid and equal to the content. -/
def recordEqual (s : State) (p : Pos) (c : Remembered) : Bool := decide (s.memory.store.records.get p = some c)

/-- R186: the pending write of p leaves the pending set and is acted on by the store as it stands. -/
def takeWrite (s : State) (p : Pos) : State :=
  match s.memory.writing, s.memory.pendingWrites.get p with
  | none, some c =>
    let s' := modMemory (fun m => { m with pendingWrites := m.pendingWrites.put p none }) s
    if s.memory.invalid then startWrite (.rebuild p c) s'
    else if recordEqual s p c then setMismatch p false s'
    else startWrite (.record p c) s'
  | _, _ => s

/-- R188, R189: a FORGET-CONSIST or a RESET-DEVICE waits to write. -/
def writeReserved (s : State) : Bool := decide (handedCode s = some 24) || resetting s

/-- R186: with no write in progress, the lowest pending position is taken, and while a record needs no write the next. -/
def takePending (s : State) : State := if writeReserved s then s else allPos.foldl takeWrite s

/-- R189: the write of RESET-DEVICE: a header write, or a forget write while MEMORY-INVALID is set. -/
def startResetWrite (s : State) : State :=
  startWrite (if s.memory.invalid then .forget .deviceReset true else .header .deviceReset) s

/-- R188: the forget write. -/
def startForget (s : State) : State := startWrite (.forget s.memory.store.code false) s

/-- R186, R188, R189: what a write's completion is followed by. That the forget write comes before a write request that
arrived while FORGET-CONSIST waited for this write is the model's choice (notes/assumptions/42.md). -/
def nextWrite (s : State) : State :=
  if resetting s && s.management.resetPlaced.isNone then startResetWrite s
  else if handedCode s = some 24 then startForget s
  else takePending s

/-- R185, R186: the content a position's write request carries. -/
def contentOf (r : ConsistRecord) (i : Identity) : Remembered :=
  { builder := i.builder, serial := i.serial, checksum := i.checksum, directory := r.directory }

/-- R186: a write request for p becomes its pending write. -/
def memoryRequest (p : Pos) (s : State) : State :=
  match (posRec s p).identity with
  | some i =>
    takePending (modMemory (fun m =>
      { m with pendingWrites := m.pendingWrites.put p (some (contentOf (posRec s p) i)) }) s)
  | none => s

/-! ## Completions -/

/-- The write in progress has ended. -/
def writeDone (f : Memory → Memory) : State → State := modMemory fun m => { f m with writing := none }

/-- R186: a record write completes. -/
def recordDone (s : State) : State :=
  match s.memory.writing with
  | some (.record p c) =>
    nextWrite (writeDone (fun m =>
      { m with store := storeRecord p c m.store, mismatch := m.mismatch.put p false }) s)
  | _ => s

/-- R187: a rebuild completes. -/
def rebuildDone (s : State) : State :=
  match s.memory.writing with
  | some (.rebuild p c) =>
    nextWrite (writeDone (fun m =>
      { m with store := storeRebuilt p c m.store, invalid := false, mismatch := m.mismatch.put p false }) s)
  | _ => s

/-- R188: what a forget write leaves of the memory. -/
def forgotten (code : RestartCode) (m : Memory) : Memory :=
  { m with store := storeForgotten code m.store, invalid := false, mismatch := Tab.fill false }

/-- R188, R189: a forget write completes: FORGET-CONSIST is answered OK; one made for RESET-DEVICE is followed by its
reply. -/
def forgetDone (s : State) : State :=
  match s.memory.writing with
  | some (.forget code false) => nextWrite (answer .ok [] (writeDone (forgotten code) s))
  | some (.forget code true) => answerReset (writeDone (forgotten code) s)
  | _ => s

/-- R189: a header write completes: that of RESET-DEVICE is followed by its reply, that of a start by the next write. The
write made for RESET-DEVICE may have been made as a forget write. -/
def headerDone (s : State) : State :=
  match s.memory.writing with
  | some (.header .deviceReset) => answerReset (writeDone (fun m => { m with store := storeHeader .deviceReset m.store }) s)
  | some (.header .none) => nextWrite (writeDone (fun m => { m with store := storeHeader .none m.store }) s)
  | some (.forget code true) => answerReset (writeDone (forgotten code) s)
  | _ => s

/-! ## Start -/

/-- R187, R189: the memory as the check at a start leaves it. -/
def memoryAtStart (store : Store) : Memory :=
  if checksumHolds store then
    { store := store, invalid := false,
      cause := some (if store.code = .deviceReset then .deviceReset else .powerOn),
      writing := if store.code = .deviceReset then some (.header .none) else none }
  else { store := store, invalid := true, cause := some .powerOn }

/-- R186 to R189: the store as a power-on reset finds it. One that falls within a rebuild, a forget write or a header write
leaves it torn; one within a record write, where it falls after the first record word and before the checksum word. What
restart code a torn store holds the rules do not say; that it is the one from before the write cut short is the model's choice
(notes/assumptions/25.md). -/
def storeAtCut (m : Memory) (cut : Bool) : Store :=
  match m.writing with
  | none => m.store
  | some (.record _ _) => if cut then { m.store with torn := true } else m.store
  | some (.rebuild _ _) | some (.header _) | some (.forget _ _) => { m.store with torn := true }

end Sys2Proof.Machine
end

