-- ==== Sys2Proof/Machine/ReadState.lean ====
section
/-! DEFINITION. The answers of the reading requests (R190, R194, R5, R115, R173): each item's fields in the order its rule
names them, in the encodings of R190. -/

namespace Sys2Proof.Machine

/-! ## Moments and names -/

/-- R190: a moment: the ms from the present to it, 0 once passed, at most 65534, and 65535 for none. -/
def moment (s : State) (t : Option Time) : List Byte := optWord (t.map fun t => min 65534 ((t - s.now) / 1000))

/-- R190: a hold start time: the ms from it to the present. -/
def sinceMoment (s : State) (t : Option Time) : List Byte := optWord (t.map fun t => min 65534 ((s.now - t) / 1000))

/-- R190: the ordinal of a decode kind in the list of R3. -/
def decodeKindNumber (k : DecodeKind) : Nat :=
  match k with
  | .switch => 0
  | .phase => 1
  | .level => 2
  | .actuator => 3
  | .speed => 4

/-- R190: the ordinal of a format in the list of R3. -/
def formatNumber (f : FrameFormat) : Nat :=
  match f with
  | .standard => 0
  | .extended => 1

/-- R190: the ordinal of an access kind in the list of R104. -/
def accessNumber (k : AccessKind) : Nat := kindBit k

/-- R190: the ordinal of a fault kind in the list of R113. -/
def faultNumber (k : FaultKind) : Nat :=
  match k with
  | .policyRefused => 0
  | .noSpace => 1
  | .descriptorBad => 2
  | .pointUnknown => 3
  | .nodeLost => 4
  | .lineTrip => 5
  | .groupTrip => 6
  | .actTimeout => 7
  | .checksumBad => 8

/-- R190: the ordinal of a feed kind in the list of R45. -/
def feedNumber (f : Feed) : Nat :=
  match f with
  | .node => 0
  | .wired => 1

/-- R190: the ordinal of a point kind in the list of R45. -/
def pointKindNumber (k : PointKind) : Nat :=
  match k with
  | .lamp => 0
  | .sensor => 1
  | .actuator => 2
  | .noKind => 3

/-- R190: the ordinal of a load kind in the list of R45. -/
def loadNumber (k : LoadKind) : Nat :=
  match k with
  | .resistive => 0
  | .constPower => 1
  | .constCurrent => 2

/-- R190: the ordinal of a block state in the list of R80. -/
def blockNumber (b : BlockState) : Nat :=
  match b with
  | .free => 0
  | .fetching => 1
  | .loaded => 2

/-- R190: the ordinal of a class of an outcome in the list of R132. -/
def classNumber (c : OutClass) : Nat :=
  match c with
  | .ok => 0
  | .low => 1
  | .high => 2
  | .openCircuit => 3
  | .outAttributed => 4
  | .short => 5

/-- R190: the ordinal of a sequence state in the list of R169. -/
def seqStateNumber (x : SeqState) : Nat :=
  match x with
  | .idle => 0
  | .running => 1
  | .ended => 2

/-- R173, R190: the ordinal of an end code in the list of R169. The list begins with none, which R190 sends as 255; that
COMPLETE is then 0 is the model's choice (notes/assumptions/23.md). -/
def seqEndNumber (x : SeqEnd) : Nat :=
  match x with
  | .complete => 0
  | .abortedNotReady => 1
  | .timeout => 2
  | .walkDone => 3
  | .aborted => 4
  | .positionLost => 5

/-- R190: the ordinal of a restart cause in the list of R185. -/
def causeOrdinal (x : RestartCause) : Nat :=
  match x with
  | .powerOn => 0
  | .deviceReset => 1

/-- 0 for the first of two names, 1 for the second. -/
def twoNames (second : Bool) : List Byte := flag second

/-- A list: its length and its entries. -/
def listBytes {α : Type} (f : α → List Byte) (xs : List α) : List Byte := num xs.length ++ xs.flatMap f

/-- A set of positions: bit i for position i + 1. -/
def posSet (t : Tab Bool 4) : List Byte :=
  num (bit01 (t.get 0) + 2 * bit01 (t.get 1) + 4 * bit01 (t.get 2) + 8 * bit01 (t.get 3))

/-! ## The items of R194 -/

/-- Item 0, R13. R194 names the Command Table entry, whose fields R13 lists with the age among them, and R13 names the other
four as read through READ-STATE: that the age is sent, as 2 bytes in its place in the table of R13, is the model's choice
(notes/assumptions/23.md). -/
def commandBytes (s : State) (f : Code) : List Byte :=
  let e := commandOf s f
  word e.value ++ optNum (e.kind.map decodeKindNumber) ++ optWord (commandAge s f) ++ twoNames (!e.fresh)
    ++ flag e.neverUpdated

/-- Item 1. That the speed is sent as 2 bytes with 65535 for none, and that the age of the speed record is clamped to 65534,
are the model's choices (notes/assumptions/23.md). -/
def systemBytes (s : State) : List Byte :=
  let v := s.decoder.speed
  twoNames (decide (s.decoder.motion = .moving)) ++ optWord v.speed ++ optWord ((ageMs s v.since).map fun a => min a 65534)
    ++ twoNames (!v.fresh) ++ sinceMoment s s.decoder.stopTimer ++ twoNames (!s.consist.cplPresent)
    ++ optWord s.direct.supply ++ word s.settings.vref ++ word s.settings.stale ++ word s.settings.window
    ++ word s.settings.tolerance ++ word s.settings.threshold
    ++ (allPos.flatMap fun p => num (unheardOf s p)) ++ optNum (s.memory.cause.map causeOrdinal)

/-- R44: a directory entry. -/
def dirBytes (e : Option DirEntry) : List Byte :=
  match e with
  | some e => num e.policyClass.val ++ num e.members ++ word e.locator
  | none => num 255 ++ num 255 ++ word 65535

/-- R42: an identity. -/
def identityBytes (i : Option Identity) : List Byte :=
  match i with
  | some i => word i.builder.toNat ++ word32 i.serial.toNat ++ word i.length ++ word i.checksum.toNat ++ word i.revision.toNat
  | none => word 65535 ++ word32 4294967295 ++ word 65535 ++ word 65535 ++ word 65535

/-- R55: a lamp item: 0 and a circuit, or 1 and a function code. -/
def lampItemBytes (i : LampItem) : List Byte :=
  match i with
  | .circuit k => num 0 ++ num k.val
  | .lamp f => num 1 ++ num f.val

/-- R55: the attempt timer, as the ms it has counted. -/
def attemptMs (s : State) (r : ConsistRecord) : Option Nat :=
  r.attemptTimer.map fun t => min 1000 ((s.now + Config.attemptTimer - t) / 1000)

/-- Item 2, R55. The item names the record of R55 'and prior state', which is a field of that record: that it is sent once,
in its place in the record, is the model's choice (notes/assumptions/23.md). -/
def positionBytes (s : State) (p : Pos) : List Byte :=
  let r := posRec s p
  num (posStateNumber r.state) ++ identityBytes r.identity ++ flag r.warm ++ r.directory.toList.flatMap dirBytes
    ++ listBytes (fun f : Code => num f.val) r.required ++ listBytes lampItemBytes r.lampItems
    ++ listBytes (fun g : Group => num g.val) r.groupItems ++ listBytes (fun x : FirstRead => num x.code.val) r.firstReads
    ++ moment s r.deadline ++ num r.attempts ++ optWord (r.lostTimer.map fun t => t / 1000)
    ++ optNum (r.prior.map posStateNumber) ++ optWord (attemptMs s r) ++ flag r.attemptUnderWay

/-- Item 3, R79. That the three fields of the record come before its directory entry is the model's choice
(notes/assumptions/23.md). -/
def groupBytes (s : State) (p : Pos) (g : Group) : List Byte :=
  let r := groupRec s p g
  optNum (r.block.map fun b => b.val) ++ flag r.fetchFailed ++ flag r.noSpace ++ dirBytes (dirOf s p g)

/-- Item 4, R80. -/
def blockBytes (s : State) (b : BlockNo) : List Byte :=
  let x := blockOf s b
  num (blockNumber x.state) ++ optPos (x.owner.map fun o => o.1) ++ optNum (x.owner.map fun o => o.2.val)
    ++ flag x.referenced ++ flag x.pinned ++ optNum (x.progress.map fun q => q.1) ++ optNum (x.progress.map fun q => q.2)
    ++ num s.binding.pointer.val

/-- Item 5, R81. That a circuit is sent in the 2 bytes of a point, and the required flag of an invalid row as 0, are the
model's choices (notes/assumptions/23.md). -/
def rowBytes (s : State) (b : BlockNo) (m : Fin 16) : List Byte :=
  match (blockOf s b).rows.get m with
  | some r =>
    flag true ++ flag r.unusable ++ flag r.reported ++ word r.record.point ++ num (feedNumber r.record.feed)
      ++ num (pointKindNumber r.record.pointKind) ++ num r.record.fnClass.val ++ word r.record.nominal
      ++ num (loadNumber r.record.loadKind) ++ flag r.record.required ++ word r.record.interval
  | none =>
    flag false ++ flag false ++ flag false ++ word 65535 ++ num 255 ++ num 255 ++ num 255 ++ word 65535 ++ num 255
      ++ flag false ++ word 65535

/-- Item 6, R91. -/
def statusBytes (s : State) (p : Pos) (f : Code) : List Byte :=
  let e := entryOf s p f
  optWord e.delivered ++ optWord e.override ++ num (resultOrdinal e.result) ++ flag e.driven ++ flag e.read ++ flag e.changed
    ++ optWord (e.lastValue.map fun w => w.toNat) ++ flag e.unavailable ++ moment s e.retryAt ++ flag e.refusalLatch
    ++ flag e.readLatch ++ flag e.notFitted ++ moment s e.watchDeadline ++ moment s e.nextRead ++ flag e.timeoutHold
    ++ flag (findOwed s p f).isSome

/-- Item 7, R118. The width of an on-count and of a sense code is the model's choice (notes/assumptions/23.md). -/
def lineBytes (s : State) (k : LineNo) : List Byte :=
  let l := lineRec s k
  word l.onCount ++ word l.pendingOn ++ flag l.exercise ++ flag l.trip ++ flag l.hold.isSome ++ sinceMoment s l.hold
    ++ num l.settle ++ optWord l.lastSense ++ flag (groupTripped s (lineGroup k))

/-- Item 8, R116. The width of the running count is the model's choice (notes/assumptions/23.md). -/
def timebaseBytes (s : State) (t : TbName) : List Byte :=
  word (timebase s t).period ++ optWord (timebase s t).pending ++ word (countOf s t)

/-- R132: an outcome. -/
def outcomeBytes (o : Option CheckOutcome) : List Byte :=
  optNum (o.map fun x => classNumber x.cls) ++ optPos ((o.bind fun x => x.named).map fun x => x.1)
    ++ optCode ((o.bind fun x => x.named).map fun x => x.2)

/-- Item 9, R132. The width of a code of the sample set is the model's choice (notes/assumptions/23.md). -/
def circuitBytes (s : State) (k : LineNo) : List Byte :=
  let c := circuitRec s k
  flag c.overfull ++ flag c.rebuildPending ++ listBytes (fun n : Nat => word n) c.samples ++ outcomeBytes c.last
    ++ outcomeBytes c.reported ++ flag c.owed

/-- Item 10, R132. -/
def contributorBytes (s : State) (k : LineNo) (i : Nat) : List Byte :=
  match (circuitRec s k).contributors[i]? with
  | some c => num (posNumber c.pos) ++ num c.code.val ++ word c.nominal ++ num (loadNumber c.loadKind)
  | none => num 0 ++ num 255 ++ word 65535 ++ num 255

/-- R145: a target: its circuit, or its position and code. -/
def targetBytes (t : Option Target) : List Byte :=
  match t with
  | some (.circuit k) => num k.val ++ num 0 ++ num 255
  | some (.lamp p f) => num 255 ++ num (posNumber p) ++ num f.val
  | none => num 255 ++ num 0 ++ num 255

/-- R145: a queue entry. R190 gives a set no none: that the requester set of an absent entry is sent as 0 is the model's
choice (notes/assumptions/23.md). -/
def entryBytes (e : Option QueueEntry) : List Byte :=
  targetBytes (e.map fun x => x.target) ++
    (match e with
      | some x => posSet x.requesters
      | none => num 0)

/-- Item 11, R145, R146. -/
def exerciseBytes (s : State) (i : Nat) : List Byte :=
  if i < 16 then entryBytes s.check.queue[i]?
  else
    entryBytes (s.check.slot.map fun x => x.entry)
      ++ optNum (s.check.slot.map fun x => if x.window then 0 else 1) ++ moment s (s.check.slot.map fun x => x.expiry)

/-- R185: the write in progress, and the position of a record write; the layout is the model's choice
(notes/assumptions/23.md). -/
def writingBytes (w : Option Writing) : List Byte :=
  match w with
  | none => num 255 ++ num 0
  | some (.record p _) => num 0 ++ num (posNumber p)
  | some (.rebuild _ _) => num 1 ++ num 0
  | some (.header _) => num 2 ++ num 0
  | some (.forget _ _) => num 3 ++ num 0

/-- R185: a record's content: valid, builder id, serial, descriptor checksum and directory, an absent one with none in every
field but the first. -/
def recordBytes (r : Option Remembered) : List Byte :=
  match r with
  | some r =>
    flag true ++ word r.builder.toNat ++ word32 r.serial.toNat ++ word r.checksum.toNat ++ r.directory.toList.flatMap dirBytes
  | none =>
    flag false ++ word 65535 ++ word32 4294967295 ++ word 65535
      ++ (Tab.fill none : Directory).toList.flatMap dirBytes

/-- Item 12, index 0: the working state of R185, the pending writes as four records (the model's choice,
notes/assumptions/23.md). -/
def workingBytes (s : State) : List Byte :=
  flag s.memory.invalid ++ (allPos.flatMap fun p => flag (s.memory.mismatch.get p))
    ++ (allPos.flatMap fun p => recordBytes (s.memory.pendingWrites.get p)) ++ writingBytes s.memory.writing
    ++ optNum (s.memory.cause.map causeOrdinal)

/-- Item 12, indexes 1 to 4: a remembered record; while MEMORY-INVALID is set every record is taken as absent (R187). That
one being written reads as before until the write completes is the model's choice (notes/assumptions/27.md). -/
def rememberedBytes (s : State) (p : Pos) : List Byte :=
  recordBytes (if s.memory.invalid then none else s.memory.store.records.get p)

/-- Item 13, index 0: the pending set of R163. -/
def pendingSetBytes (s : State) : List Byte := posSet s.service.pendingSet

/-- Item 13, indexes 1 to 4: a round record and its pause. -/
def roundBytes (s : State) (p : Pos) : List Byte :=
  let r := roundOf s p
  twoNames r.reading ++ optCode r.code ++ optWord r.point ++ num r.count ++ moment s (pauseOf s p)

/-- Item 14, R169, R173: state, end code and number stored. -/
def sequenceBytes (s : State) : List Byte :=
  num (seqStateNumber s.sequence.state) ++ optNum (s.sequence.endCode.map seqEndNumber) ++ num s.sequence.buffer.length

/-- A position by an index 1 to 4. -/
def indexPos (i : Nat) : Option Pos := if h : 1 ≤ i ∧ i ≤ 4 then some ⟨i - 1, by omega⟩ else none

/-- An index below n. -/
def indexFin (n i : Nat) : Option (Fin n) := if h : i < n then some ⟨i, h⟩ else none

/-- R194: the answer of an item at an index; none for an unknown item or an index outside its range. -/
def readItem (s : State) (item index : Nat) : Option (List Byte) :=
  match item with
  | 0 => (indexFin 192 index).map fun f => commandBytes s f
  | 1 => if index = 0 then some (systemBytes s) else none
  | 2 => (indexPos index).map fun p => positionBytes s p
  | 3 => (indexFin 48 index).map fun i => groupBytes s ⟨i.val / 12, by omega⟩ ⟨i.val % 12, by omega⟩
  | 4 => (indexFin 16 index).map fun b => blockBytes s b
  | 5 => (indexFin 256 index).map fun i => rowBytes s ⟨i.val / 16, by omega⟩ ⟨i.val % 16, by omega⟩
  | 6 => (indexFin 768 index).map fun i => statusBytes s ⟨i.val / 192, by omega⟩ ⟨i.val % 192, by omega⟩
  | 7 => (indexFin 8 index).map fun k => lineBytes s k
  | 8 => (tbOf index).map fun t => timebaseBytes s t
  | 9 => (indexFin 8 index).map fun k => circuitBytes s k
  | 10 => (indexFin 128 index).map fun i => contributorBytes s ⟨i.val / 16, by omega⟩ (i.val % 16)
  | 11 => if index ≤ 16 then some (exerciseBytes s index) else none
  | 12 => if index = 0 then some (workingBytes s) else (indexPos index).map fun p => rememberedBytes s p
  | 13 => if index = 0 then some (pendingSetBytes s) else (indexPos index).map fun p => roundBytes s p
  | 14 => if index = 0 then some (sequenceBytes s) else none
  | _ => none

/-! ## The other reading requests -/

/-- R5: a Decode Table entry in the order of R3. That an invalid entry's other fields read 255 in every byte is the model's
choice (notes/assumptions/23.md). -/
def decodeBytes (e : Option DecodeEntry) : List Byte :=
  match e with
  | some e =>
    flag true ++ num (formatNumber e.format) ++ word32 e.id ++ num e.byte ++ num e.bit ++ num e.width
      ++ num (decodeKindNumber e.kind) ++ optCode e.code
  | none => flag false ++ num 255 ++ word32 4294967295 ++ num 255 ++ num 255 ++ num 255 ++ num 255 ++ num 255

/-- R115: the oldest fault record and the number held. -/
def faultBytes (s : State) : List Byte :=
  (match s.policy.faults with
    | r :: _ =>
      num (faultNumber r.kind) ++ optPos r.pos ++ optCode r.code ++ optNum (r.access.map accessNumber) ++ word r.detail
        ++ flag r.followed
    | [] => num 255 ++ num 0 ++ num 255 ++ num 255 ++ word 65535 ++ flag false)
    ++ num s.policy.faults.length

/-- R173: a stored item. -/
def itemBytes (i : SeqItem) : List Byte :=
  num (posNumber i.pos) ++ word i.addr ++ flag i.heard ++ flag i.ready ++ optWord (i.data.map fun w => w.toNat)

end Sys2Proof.Machine
end

