-- ==== Sys2Proof/Machine/Notices.lean ====
section
/-! DEFINITION. What each notice between the blocks brings about, and the order in which a command's notices are acted on:
each one's own notices before those already waiting. -/

namespace Sys2Proof.Machine

/-- R33, R35: a transaction's outcome reaches what its offer was wanted for. -/
def takeLineEnd (o : Offer) (out : LineOutcome) (data : Option Word) (s : State) : State :=
  let point := o.addr.getD 0
  match o.why with
  | .enumAssign n => assignEnd n out s
  | .recoveryAssign p => recoveryAssignEnd p out s
  | .recoveryGet p => recoveryGetEnd p out s
  | .sweepRelease p => sweepEnd p s
  | .positionRelease p => releaseEnd p s
  | .strayRelease _ => s
  | .identWord p a => identEnd p a out data s
  | .streamWord p a => streamEnd p a out data s
  | .firstRead p f => firstReadEnd p f point out data s
  | .nodeLamp p src f step => readingEnd p src f step out data s
  | .fetchWord p g b a => fetchEnd p g b a out data s
  | .pollAll => s
  | .serviceWord p => wordEnd p out data s
  | .serviceRead p f => serviceReadEnd p f point out data s
  | .delivery p f v k interval => deliveryEnd p f v k interval point out s
  | .stop p f => stopEnd p f point out s
  | .managementRead p f => managementReadEnd p f point out data s
  | .periodicRead p f interval => periodicEnd p f interval point out data s
  | .watchRead p f => watchReadEnd p f point out data s
  | .sequenceItem _ _ run => sequenceEnd run out data s

/-- R83: a loaded notice. -/
def takeLoaded (w : Waiter) (s : State) : State :=
  match w with
  | .plan p => lookupGroups p s
  | .nodeLamp p src => nodeLampLookup p src s
  | .rebuild => rebuildStep s
  | .service p => retryRound p s
  | .delivery _ _ _ | .stop _ _ | .managementRead _ _ | .scheduledRead _ _ => accessLoaded w s

/-- R83, R86: the answer NOT-FITTED to one that waited on a failed fetch. -/
def takeFailed (w : Waiter) (s : State) : State :=
  match w with
  | .plan p => lookupGroups p s
  | .nodeLamp p src => nodeLampLookup p src s
  | .rebuild => rebuildStep s
  | .service p => retryRound p s
  | .delivery _ _ _ | .stop _ _ | .managementRead _ _ | .scheduledRead _ _ => accessFailed w s

/-- R83: a freed notice. The position has left service, which ends what waited there by other rules. -/
def takeFreed (w : Waiter) (s : State) : State :=
  match w with
  | .delivery p _ _ => rescan p s
  | .rebuild => rebuildStep s
  | .service p => freedRound p s
  | .plan _ | .nodeLamp _ _ | .stop _ _ | .managementRead _ _ | .scheduledRead _ _ => s

/-- The lookups of node-lamp checks that may wait on NO-SPACE. -/
def lampLookups : List Notice :=
  allPos.flatMap fun p => [.nodeLampLookup p .slot, .nodeLampLookup p .opportunistic]

/-- R89: the no-space notice reaches every requester. No rule orders them: that the waiting service rounds look up at once, before
the scans of the Delivery Unit and then the lookups of the node-lamp checks, each by position, so that a waiting round claims a
freed block before a delivery, is the model's choice (notes/assumptions/6.md). -/
def takeNoSpace (s : State) : State :=
  emitAll lampLookups (allPos.foldl (fun s p => retryRound p s) (rescanAll s))

/-- What a notice brings about. -/
def runNotice (n : Notice) (s : State) : State :=
  match n with
  | .writeResult p f r => writeResult p f r s
  | .deferUnchecked p f => deferUnchecked p f s
  | .exitTest p => exitTest p s
  | .placeResult p f => placeResultFrame p (groupOf f) (halfOf f) s
  | .placeValue p f => placeValueFrame p f s
  | .syncRefresh => syncRefresh s
  | .lineEnd o out data => takeLineEnd o out data s
  | .pollEnd slots => pollEnd slots s
  | .serviceNotice _ => askPoll s
  | .silenceNotice p => silence p s
  | .lineFree => freeLine s
  | .faultRequest r => takeFault r s
  | .timeoutStop p f => timeoutStop p f s
  | .scan p second => scan p second s
  | .classSix p => classSix p s
  | .commandChanged f _ old => commandChanged f old s
  | .lineUpdate f => lineUpdate f s
  | .lineChange f _ => lineChange f s
  | .levelBeneath _ => windowToDriven s
  | .windowNotice opening covered => takeWindow opening covered s
  | .motionDelivery => motionToDelivery s
  | .motionPolicy => motionToPolicy s
  | .motionLoadCheck => motionToSlot s
  | .motionConsist => motionToConsist s
  | .waiterLoaded w => takeLoaded w s
  | .waiterFailed w => takeFailed w s
  | .waiterFreed w => takeFreed w s
  | .noSpaceNotice => takeNoSpace s
  | .catchUp p => catchUp p s
  | .buildPlan p => buildPlan p s
  | .entryLamps p => entryLamps p s
  | .handItems p => handItems p s
  | .lookupGroups p => lookupGroups p s
  | .consistOffer p => consistOffer p s
  | .nodeLampOffer p => nodeLampOffer p s
  | .enterExercising p => enterExercising p s
  | .enterRunning p => enterRunning p s
  | .runningDelivery p => runningReads p s
  | .runningService _ => askPoll s
  | .serviceEntry => pollOnEntry s
  | .memoryRequest p => memoryRequest p s
  | .enumTrigger => enumTrigger s
  | .chainEnd n heard => chainEnd n heard s
  | .handOver n => handOver n s
  | .identVerdict p v before => identVerdict p v before s
  | .addContributor p item => fileContributor p item s
  | .changeRequest k => changeRequest k s
  | .rebuildEntry => rebuildOnEntry s
  | .rebuildStart => startRebuild s
  | .rebuildStep => rebuildStep s
  | .slotTest => slotTest s
  | .slotEnded t => slotEnded t s
  | .queueLeft => queueLeft s
  | .tripNotice k => takeTrip k s
  | .nodeLampLookup p src => nodeLampLookup p src s
  | .nodeLampEnded p src => nodeLampEnded p src s
  | .deliveredChanged p f => deliveredToCheck p f .opportunistic (deliveredToCheck p f .slot s)
  | .setAccepted p f => askOpportunistic p f s
  | .endPass => endPass s
  | .releaseRequest p => releaseRequest p s
  | .releaseWalk => releaseWalk s
  | .resetPosition q => resetPosition q s
  | .resetBinding q => resetBinding q s
  | .resetDelivery q => resetDelivery q s
  | .resetLoadCheck q => removePosition q s
  | .removeEntries q => removeEntries q s
  | .removeFromSlot q => removeFromSlot q s
  | .resetService q => leavePoller q s
  | .lostDelivery p => leaveService p s
  | .lostLoadCheck p => dropChecks p s

/-- Act on the notices `ns` in order, each one's own before the rest, up to a bound; those beyond it stay in the state. -/
def drain : Nat → List Notice → State → State
  | 0, ns, s => { s with notices := s.notices ++ ns }
  | _ + 1, [], s => s
  | n + 1, x :: ns, s =>
    let s' := runNotice x { s with notices := [] }
    drain n (s'.notices ++ ns) { s' with notices := [] }

/-- Act on every notice the state holds. -/
def settle (s : State) : State := drain Config.noticeBound s.notices { s with notices := [] }

end Sys2Proof.Machine
end

