-- ==== Sys2Proof/Machine/ResetCommands.lean ====
section
/-! DEFINITION. What the two resets do: POWER_ON_RESET (R37, R187, R128) and DEVICE_RESET (R196, R37, R130, R187). -/

namespace Sys2Proof.Machine

/-- R128: an input found asserted when a power-on reset ends counts as an assertion. -/
def assertIf (asserted : Bool) (g : FaultGroup) (s : State) : State := if asserted then assertFault g s else s

/-- The part as a power-on reset leaves it, before its fault inputs are looked at: everything as State.reset has it but
the strap value, the level at CPL and the store (R2, R57, R187). -/
def poweredOn (pins : Pins) (cut : Bool) (s : State) : State :=
  { State.reset with
    pending := s.pending
    freeCount := s.freeCount
    memory := memoryAtStart (storeAtCut s.memory cut)
    port := { node := pins.straps }
    consist := { sweep := some 3, cplLevel := pins.cpl, cplTimer := if pins.cpl then some 0 else none } }

/-- POWER_ON_RESET. That with both fault inputs asserted FA's trip is recorded first is the model's choice
(notes/assumptions/6.md). -/
def execPowerOnReset (pins : Pins) (cut : Bool) (s : State) : Host.Outcome State Fault Refusal :=
  .next (settle (assertIf pins.fb .fb (assertIf pins.fa .fa (poweredOn pins cut s))))

/-- R196: the moment the device reset takes place: once the reply OK has been sent, or 100 ms after it was placed. -/
def resetMoment (s : State) : Option Time :=
  s.management.resetPlaced.map fun t => if s.management.resetSent then s.now else t + Config.resetWait

/-- R37, R35: the Line Controller after a device reset: no offer stands, and a transaction in flight runs on to its end,
which is discarded. -/
def lineAtReset (l : LineCtl) : LineCtl :=
  { flight := l.flight.bind fun fl => if fl.ended then none else some { fl with discard := true } }

/-- R118, R130: the Direct Line Unit after a device reset. -/
def directAtReset (now : Time) (d : Direct) : Direct :=
  { d with lines := d.lines.mapIdx fun k l => holdAtReset now (if k.val < 4 then d.tripA else d.tripB) l }

/-- R57: the Consist Controller after a device reset. The hold timer starts from 0, which counts only towards a level that
differs from ABSENT. -/
def consistAtReset (now : Time) (level : Bool) : Consist :=
  { sweep := some 3, cplLevel := level, cplTimer := if level then some now else none }

/-- R196: every block is in the condition a device reset leaves it in, before the sweep is offered. -/
def deviceReset (straps : Fin 4) (s : State) : State :=
  { State.reset with
    now := s.now
    pending := s.pending
    freeCount := s.freeCount
    line := lineAtReset s.line
    consist := consistAtReset s.now s.consist.cplLevel
    direct := directAtReset s.now s.direct
    service := { nextPoll := some s.now }
    memory := memoryAtStart s.memory.store
    port := { node := straps, consistAt := s.now + Config.consistSpacing } }

/-- R196, R37, R130: the device reset takes place: a tripped line, which is not held, follows the reset Command Table, and
the RELEASE to position 4 that begins the sweep is offered. -/
def resetNow (straps : Fin 4) (s : State) : State :=
  makeOffer (sweepOffer 3)
    (recomputeWhere (fun s k => (lineRec s k).hold.isNone) (deviceReset straps s))

/-- DEVICE_RESET. -/
def execDeviceReset (straps : Fin 4) (s : State) : Host.Outcome State Fault Refusal :=
  .next (atMoment (resetMoment s) (fun s => settle (resetNow straps s)) s)

end Sys2Proof.Machine
end

