-- ==== Sys2Proof/Machine/TractorCommands.lean ====
section
/-! DEFINITION. What arrives on the tractor's channel and what its silence brings: CAN_FRAME_RECEIVED (R2, R7, R191, R192),
COMMAND_STALE (R15), SPEED_STALE (R17) and STOP_TIMER_EXPIRY (R18). -/

namespace Sys2Proof.Machine

/-! ## Request frames -/

/-- R192: the reply BUSY is placed in the transmit queue, or dropped with the tx-overrun flag set. -/
def answerBusy (code tag : Byte) (s : State) : State :=
  if (txQueue s).length < Config.txCapacity then setQueue (txQueue s ++ [replyFrame s code tag .busy []]) s
  else setOverrun true s

/-- R189: the first request taken after a start makes the restart cause none. -/
def clearCause : State → State := modMemory fun m => { m with cause := none }

/-- R192: a request joins the Request List; as its head, one of an unknown code is answered at once (R191). -/
def joinRequests (r : Request) (s : State) : State :=
  let taken := clearCause { s with management := { s.management with requests := s.management.requests ++ [r] } }
  if s.management.requests.isEmpty then serveUnknown Config.requestCapacity taken else taken

/-- R191: a request frame is taken or refused. -/
def takeRequest (bytes : List Byte) (s : State) : State :=
  match bytes with
  | code :: tag :: args =>
    if s.management.requests.length < Config.requestCapacity then
      joinRequests { code := code, tag := tag, args := args } s
    else answerBusy code tag s
  | _ => s

/-- R2: the frame is a management request of this part. -/
def isRequest (s : State) (f : CanFrame) : Bool :=
  decide (f.format = .standard) && decide (f.id = Config.requestId + s.port.node.val)

/-- CAN_FRAME_RECEIVED. -/
def execCanFrameReceived (f : CanFrame) (s : State) : Host.Outcome State Fault Refusal :=
  .next (if f.remote then s else if isRequest s f then takeRequest (frameBytes f) s else settle (applyFrame f s))

/-! ## Staleness and standstill -/

/-- R15, R17: the moment a record last updated at `since` goes stale, while it is fresh. -/
def staleMoment (s : State) (fresh : Bool) (since : Option Time) : Option Time :=
  if fresh then since.map fun t => t + ms s.settings.stale else none

/-- COMMAND_STALE. -/
def execCommandStale (f : Code) (s : State) : Host.Outcome State Fault Refusal :=
  .next (atMoment (staleMoment s (commandOf s f).fresh (commandOf s f).since) (fun s => settle (entryGoesStale f s)) s)

/-- SPEED_STALE. -/
def execSpeedStale (s : State) : Host.Outcome State Fault Refusal :=
  .next (atMoment (staleMoment s s.decoder.speed.fresh s.decoder.speed.since) (fun s => settle (speedGoesStale s)) s)

/-- R18: the moment the stop timer reaches 2000 ms, while it runs on a fresh speed record. -/
def stopMoment (s : State) : Option Time :=
  if s.decoder.speed.fresh then s.decoder.stopTimer.map fun t => t + Config.standstill else none

/-- STOP_TIMER_EXPIRY. -/
def execStopTimerExpiry (s : State) : Host.Outcome State Fault Refusal :=
  .next (atMoment (stopMoment s) (fun s => settle (goStationary s)) s)

end Sys2Proof.Machine
end

