-- ==== Sys2Proof/Machine/CouplingCommands.lean ====
section
/-! DEFINITION. What the coupling sense, the chain probe and the waits of an enumeration pass bring about: CPL_CHANGE (R57),
COUPLING_RISE and COUPLING_FALL (R58), CHAIN_PROBE (R59), ENUMERATION_SPACING_END (R38) and ENUMERATION_SETTLE_END
(R39). -/

namespace Sys2Proof.Machine

/-- CPL_CHANGE. -/
def execCplChange (present : Bool) (s : State) : Host.Outcome State Fault Refusal := .next (coupleLevel present s)

/-- COUPLING_RISE. -/
def execCouplingRise (s : State) : Host.Outcome State Fault Refusal :=
  .next (atMoment (coupleMoment s true) (fun s => settle (coupleRise s)) s)

/-- COUPLING_FALL. -/
def execCouplingFall (s : State) : Host.Outcome State Fault Refusal :=
  .next (atMoment (coupleMoment s false) (fun s => settle (coupleFall s)) s)

/-- CHAIN_PROBE. -/
def execChainProbe (s : State) : Host.Outcome State Fault Refusal :=
  .next (atMoment s.consist.probeAt (fun s => settle (probeExpires s)) s)

/-- ENUMERATION_SPACING_END. -/
def execEnumerationSpacingEnd (s : State) : Host.Outcome State Fault Refusal :=
  .next (atMoment (passWait s .spacing) (fun s => settle (spacingEnds s)) s)

/-- ENUMERATION_SETTLE_END. -/
def execEnumerationSettleEnd (s : State) : Host.Outcome State Fault Refusal :=
  .next (atMoment (passWait s .settling) (fun s => settle (settleEnds s)) s)

end Sys2Proof.Machine
end

