-- ==== Sys2Proof/Machine/LineCommands.lean ====
section
/-! DEFINITION. How a line transaction ends: TRANSACTION_END (R23), REPLY_DEADLINE (R24) and POLL_WINDOW_END (R29). -/

namespace Sys2Proof.Machine

/-- The transaction in flight, other than POLL, that has not ended. -/
def namedFlight (s : State) : Option Flight := (openFlight s).filter fun fl => decide (fl.offer.op ≠ .poll)

/-- The POLL in flight that has not ended. -/
def pollFlight (s : State) : Option Flight := (openFlight s).filter fun fl => decide (fl.offer.op = .poll)

/-- R23: a reply that is Heard and Ready to an operation that reads carries valid data, and the reply gives none. -/
def dataMissing (op : LineOp) (out : LineOutcome) (data : Option Word) : Bool :=
  decide (out = .ready) && data.isNone && (decide (op = .get) || decide (op = .readWord))

/-- The reply data as handed on: a reading reply that carries none gives a word the manual does not state
(notes/assumptions/4.md). -/
def replyData (op : LineOp) (out : LineOutcome) (data : Option Word) (s : State) : Option Word × State :=
  if dataMissing op out data then (some (Config.freeWord s.freeCount), { s with freeCount := s.freeCount + 1 })
  else (data, s)

/-- R23, R35: a sound reply is taken. -/
def takeReply (fl : Flight) (r : Reply) (s : State) : State :=
  match classify r with
  | (out, data) =>
    match replyData fl.offer.op out data s with
    | (data', s') => settle (endTransaction out data' r.service s')

/-- TRANSACTION_END. R24: a reply at or after the deadline is not taken. -/
def execTransactionEnd (r : Reply) (s : State) : Host.Outcome State Fault Refusal :=
  .next (match namedFlight s with
    | some fl => if s.now < fl.deadline then takeReply fl r s else s
    | none => s)

/-- REPLY_DEADLINE. -/
def execReplyDeadline (s : State) : Host.Outcome State Fault Refusal :=
  .next (atMoment ((namedFlight s).map fun fl => fl.deadline)
    (fun s => settle (endTransaction .unheard none false s)) s)

/-- R29, R35: the POLL is complete: its result is handed to the Service Poller, unless it is to be discarded, and the line
is free. -/
def endPoll (slots : Tab Bool 4) (s : State) : State :=
  match pollFlight s with
  | some fl =>
    emitAll ((if fl.discard then [] else [Notice.pollEnd slots]) ++ [.lineFree])
      { s with line := { s.line with flight := some { fl with ended := true } } }
  | none => s

/-- POLL_WINDOW_END. -/
def execPollWindowEnd (slots : Tab Bool 4) (s : State) : Host.Outcome State Fault Refusal :=
  .next (atMoment ((pollFlight s).map fun fl => fl.deadline) (fun s => settle (endPoll slots s)) s)

end Sys2Proof.Machine
end

