-- ==== Sys2Proof/Machine/TimerCommands.lean ====
section
/-! DEFINITION. What the timers of bring-up, deliveries, reads, load checks, polling, sequences and recovery bring about when
they run out. A timer that does not run brings nothing about (notes/assumptions/2.md). -/

namespace Sys2Proof.Machine

/-- EXERCISE_READ_REPEAT, R74: 100 ms after a not-Ready end the first read is offered again. -/
def execExerciseReadRepeat (p : Pos) (f : Code) (s : State) : Host.Outcome State Fault Refusal :=
  .next (atMoment (firstReadHeld s p f)
    (fun s => settle (consistOffer p (modFirstRead p f (fun x => { x with notBefore := none }) s))) s)

/-- EXERCISE_DEADLINE, R77. -/
def execExerciseDeadline (p : Pos) (s : State) : Host.Outcome State Fault Refusal :=
  .next (atMoment (deadlineOf s p) (fun s => settle (deadlinePasses p s)) s)

/-- R98: the retry time of an unavailable entry of a position in service. -/
def retryMoment (s : State) (p : Pos) (f : Code) : Option Time :=
  if inService s p && (entryOf s p f).unavailable then (entryOf s p f).retryAt else none

/-- UNAVAILABLE_RETRY, R98: the hold of the delivery ends, and the latest target is offered if it is still due. -/
def execUnavailableRetry (p : Pos) (f : Code) (s : State) : Host.Outcome State Fault Refusal :=
  .next (atMoment (retryMoment s p f) (fun s => settle (rescan p s)) s)

/-- R111: the moment the repeat of an owed stop is held to. -/
def stopHeldTo (s : State) (p : Pos) (f : Code) : Option Time := (findOwed s p f).bind fun o => o.notBefore

/-- The owed stop of (p, f) is held no longer. -/
def unholdStop (p : Pos) (f : Code) : State → State :=
  modOwed p fun os => os.map fun o => if o.code = f then { o with notBefore := none } else o

/-- STOP_REPEAT, R111: 100 ms after a not-Ready end the stop is offered again. -/
def execStopRepeat (p : Pos) (f : Code) (s : State) : Host.Outcome State Fault Refusal :=
  .next (atMoment (stopHeldTo s p f) (fun s => settle (rescan p (unholdStop p f s))) s)

/-- R150, R151: the next periodic-read time of a sensor of a RUNNING position. -/
def periodicMoment (s : State) (p : Pos) (f : Code) : Option Time :=
  if decide (kindOf f = .sensor) && decide (stateOf s p = .running) then (entryOf s p f).nextRead else none

/-- PERIODIC_READ_DUE, R151. -/
def execPeriodicReadDue (p : Pos) (f : Code) (s : State) : Host.Outcome State Fault Refusal :=
  .next (atMoment (periodicMoment s p f) (fun s => settle (classSix p s)) s)

/-- R156: the watch read time of an actuator whose watch runs. -/
def watchMoment (s : State) (p : Pos) (f : Code) : Option Time :=
  if decide (kindOf f = .actuator) && (entryOf s p f).watchDeadline.isSome && inService s p then (entryOf s p f).nextRead
  else none

/-- WATCH_READ_DUE, R156. -/
def execWatchReadDue (p : Pos) (f : Code) (s : State) : Host.Outcome State Fault Refusal :=
  .next (atMoment (watchMoment s p f) (fun s => settle (classSix p s)) s)

/-- R157: the actuator watch deadline of a position in service. -/
def watchLimit (s : State) (p : Pos) (f : Code) : Option Time :=
  if inService s p then (entryOf s p f).watchDeadline else none

/-- ACTUATOR_WATCH_TIMEOUT, R157. -/
def execActuatorWatchTimeout (p : Pos) (f : Code) (s : State) : Host.Outcome State Fault Refusal :=
  .next (atMoment (watchLimit s p f) (fun s => settle (watchTimesOut p f s)) s)

/-- NODE_LAMP_READING_DUE, R142. -/
def execNodeLampReadingDue (p : Pos) (src : CheckSource) (s : State) : Host.Outcome State Fault Refusal :=
  .next (atMoment ((nodeCheck s p src).bind fun c => c.nextReading) (fun s => settle (startReading p src s)) s)

/-- NODE_LAMP_CHECK_EXPIRY, R143. -/
def execNodeLampCheckExpiry (p : Pos) (src : CheckSource) (s : State) : Host.Outcome State Fault Refusal :=
  .next (atMoment ((nodeCheck s p src).map fun c => c.expiry) (fun s => settle (expireCheck p src s)) s)

/-- EXERCISE_SLOT_EXPIRY, R147. -/
def execExerciseSlotExpiry (s : State) : Host.Outcome State Fault Refusal :=
  .next (atMoment (s.check.slot.map fun sl => sl.expiry) (fun s => settle (expireSlot s)) s)

/-- POLL_TIME, R164. -/
def execPollTime (s : State) : Host.Outcome State Fault Refusal :=
  .next (atMoment (pollMoment s) (fun s => settle (askPoll s)) s)

/-- R170: the moment a pending repeat of the running sequence is offered. -/
def repeatMoment (s : State) : Option Time := if seqRunning s then s.sequence.repeatAt else none

/-- SEQUENCE_REPEAT, R170. -/
def execSequenceRepeat (s : State) : Host.Outcome State Fault Refusal :=
  .next (atMoment (repeatMoment s)
    (fun s => settle (offerItem (modSeq (fun q => { q with repeatAt := none }) s))) s)

/-- SEQUENCE_ITEM_TIMEOUT, R170. -/
def execSequenceItemTimeout (s : State) : Host.Outcome State Fault Refusal :=
  .next (atMoment (itemDeadline s) (endSequence .timeout) s)

/-- RECOVERY_ATTEMPT, R181. -/
def execRecoveryAttempt (p : Pos) (s : State) : Host.Outcome State Fault Refusal :=
  .next (atMoment (attemptMoment s p) (fun s => settle (attemptExpires p s)) s)

/-- LOST_TIMEOUT, R183: the LOST timer has counted to its limit, and a release of p is asked for. -/
def execLostTimeout (p : Pos) (s : State) : Host.Outcome State Fault Refusal :=
  .next (match lostRemaining s p with
    | some d => settle (releaseRequest p (advance d s))
    | none => s)

end Sys2Proof.Machine
end

