-- ==== Sys2Proof/Machine/WireCommands.lean ====
section
/-! DEFINITION. What the direct lines' timebases and inputs bring about: PERIOD_BOUNDARY (R124), SENSE_SAMPLE (R126, R127),
GROUP_TRIP and FAULT_INPUT_DEASSERTED (R128), SUPPLY_READING (R125) and HOLD_TIMEOUT (R131). -/

namespace Sys2Proof.Machine

/-- R116: the tick at which the next period of a timebase begins. -/
def boundaryOf (s : State) (t : TbName) : Time := (timebase s t).start + (timebase s t).period + 1

/-- PERIOD_BOUNDARY. -/
def execPeriodBoundary (t : TbName) (s : State) : Host.Outcome State Fault Refusal :=
  .next (nextPeriod t (advanceTo (boundaryOf s t) s))

/-- R127: a sample is taken: the code is kept and tested against the trip current. -/
def sampleLine (k : LineNo) (code : Nat) (s : State) : State :=
  let s' := modLine k (fun l => { l with lastSense := some code }) s
  if (wiredOf s k).trip ≤ code * Config.senseStep then tripLine k s' else takeSample k code s'

/-- R126: the sample tick of a line with an on-count in force: none below 50, one off the settle count while it stands at 1
or 2, else a sample. -/
def sampleTickReached (k : LineNo) (code : Nat) (s : State) : State :=
  let s' := modLine k (fun l => { l with sampled := true }) s
  let l := lineRec s k
  if l.onCount < Config.sampleFloor then s'
  else if 0 < l.settle then modLine k (fun l => { l with settle := l.settle - 1 }) s'
  else settle (sampleLine k code s')

/-- SENSE_SAMPLE. -/
def execSenseSample (k : LineNo) (code : Nat) (s : State) : Host.Outcome State Fault Refusal :=
  .next (atMoment (sampleMoment s k) (sampleTickReached k code) s)

/-- GROUP_TRIP: the fault input changes from deasserted to asserted. -/
def execGroupTrip (g : FaultGroup) (s : State) : Host.Outcome State Fault Refusal :=
  .next (if faultInput s g then s else settle (assertFault g s))

/-- FAULT_INPUT_DEASSERTED: the group trip flag stays as it is. -/
def execFaultInputDeasserted (g : FaultGroup) (s : State) : Host.Outcome State Fault Refusal :=
  .next (setFaultInput g false s)

/-- SUPPLY_READING. -/
def execSupplyReading (mv : Nat) (s : State) : Host.Outcome State Fault Refusal :=
  .next (takeSupply mv (advanceTo s.direct.nextSupply s))

/-- R131: the moment the hold of the line reaches the stale timeout. -/
def holdMoment (s : State) (k : LineNo) : Option Time := (lineRec s k).hold.map fun t => t + ms s.settings.stale

/-- HOLD_TIMEOUT. -/
def execHoldTimeout (k : LineNo) (s : State) : Host.Outcome State Fault Refusal :=
  .next (atMoment (holdMoment s k) (expireHold k) s)

end Sys2Proof.Machine
end

