-- ==== Sys2Proof/Machine/PortCommands.lean ====
section
/-! DEFINITION. The Tractor Port's timers and the sending of its frames (CONSIST_TIMER, RESULT_REFRESH, FRAME_TRANSMISSION_START,
FRAME_SENT) and the completions of the Consist Memory's writes (RECORD_WRITE_COMPLETE, REBUILD_COMPLETE,
FORGET_WRITE_COMPLETE, HEADER_WRITE_COMPLETE). -/

namespace Sys2Proof.Machine

/-- R198: the CONSIST timer runs on to its next expiry. -/
def nextConsist (s : State) : State :=
  { s with port := { s.port with consistAt := s.port.consistAt + Config.consistSpacing } }

/-- CONSIST_TIMER, R198. -/
def execConsistTimer (s : State) : Host.Outcome State Fault Refusal :=
  .next (nextConsist (placeConsist (advanceTo s.port.consistAt s)))

/-- R199: the earliest refresh time. -/
def refreshMoment (s : State) : Option Time :=
  (refreshPlaces.filterMap fun x => refreshTime s x.1 x.2.1 x.2.2).min?

/-- RESULT_REFRESH, R199: while fewer than 8 frames are queued, the first of the refresh times that have passed places its
frame. -/
def execResultRefresh (s : State) : Host.Outcome State Fault Refusal :=
  .next (if (txQueue s).length < Config.refreshRoom then atMoment (refreshMoment s) placeRefresh s else s)

/-- FRAME_TRANSMISSION_START, R197. -/
def execFrameTransmissionStart (s : State) : Host.Outcome State Fault Refusal := .next (startSending s)

/-- FRAME_SENT, R197. -/
def execFrameSent (s : State) : Host.Outcome State Fault Refusal := .next (finishSending s)

/-- RECORD_WRITE_COMPLETE, R186. -/
def execRecordWriteComplete (s : State) : Host.Outcome State Fault Refusal := .next (recordDone s)

/-- REBUILD_COMPLETE, R187. -/
def execRebuildComplete (s : State) : Host.Outcome State Fault Refusal := .next (rebuildDone s)

/-- FORGET_WRITE_COMPLETE, R188. -/
def execForgetWriteComplete (s : State) : Host.Outcome State Fault Refusal := .next (forgetDone s)

/-- HEADER_WRITE_COMPLETE, R189. -/
def execHeaderWriteComplete (s : State) : Host.Outcome State Fault Refusal := .next (headerDone s)

end Sys2Proof.Machine
end

