-- ==== Sys2Proof/Machine/ReadRequests.lean ====
section
/-! DEFINITION. The requests that read and write the part's tables, as the head of the Request List is served with each
(R191, R192): READ-STATE, WRITE-DECODE, READ-DECODE, WRITE-POLICY, READ-POLICY, WRITE-WIRED, READ-WIRED, WRITE-TIMEBASE,
SET-SYSTEM, READ-FAULT, CLEAR-FAULT and REARM-LINES. -/

namespace Sys2Proof.Machine

/-- READ_STATE, R194. -/
def execReadState (s : State) : Host.Outcome State Fault Refusal :=
  .next (serve 1 4 (fun args s =>
    match readItem s (argByte args 0) (argWord args 1) with
    | some bytes => answerPart .ok bytes (argByte args 3) s
    | none => answer .badArg [] s) s)

/-! ## The Decode Table -/

/-- Set the decode staging record. -/
def setStaging (x : Option Staging) (s : State) : State := { s with management := { s.management with staging := x } }

/-- R193: the staging record of a first part, where the part passes. -/
def stagingOf (args : List Byte) : Option Staging :=
  match formatOf (argByte args 1) with
  | some f =>
    if argByte args 0 < 48 ∧ idInRange f (argId args 2) = true then
      some { entry := argByte args 0, format := f, id := argId args 2 }
    else none
  | none => none

/-- R193: the head request is a WRITE-DECODE whose first argument byte tells it for a second part. -/
def headIsSecondPart (s : State) : Bool :=
  match s.management.requests with
  | r :: _ => decide (128 ≤ argByte r.args 0)
  | [] => false

/-- WRITE_DECODE_FIRST_PART, R193. -/
def execWriteDecodeFirstPart (s : State) : Host.Outcome State Fault Refusal :=
  .next (if headIsSecondPart s then s
    else serve 2 6 (fun args s =>
      match stagingOf args with
      | some x => answer .ok [] (setStaging (some x) s)
      | none => answer .badArg [] s) s)

/-- R190: an optional function code: none, or one in range. -/
def argOptCode (args : List Byte) (i : Nat) : Option (Option Code) :=
  if argByte args i = 255 then some none else (argCode args i).map some

/-- R193: the entry that a second part makes of the staging record. That a decode kind above 4 makes none, and so is
answered BAD-ARG, is the model's choice (notes/assumptions/21.md). -/
def joinedEntry (x : Staging) (args : List Byte) : Option DecodeEntry :=
  match decodeKindOf (argByte args 4), argOptCode args 5 with
  | some k, some f =>
    some { format := x.format, id := x.id, byte := argByte args 2 / 8, bit := argByte args 2 % 8, width := argByte args 3,
           kind := k, code := f }
  | _, _ => none

/-- R193, R4: the write that a second part with valid set asks for, where it passes. -/
def joinedWrite (s : State) (n : Nat) (args : List Byte) : Option (Fin 48 × DecodeEntry) :=
  match s.management.staging, indexFin 48 n with
  | some x, some i =>
    if x.entry = n then (joinedEntry x args).bind fun e => if decodeEntryOk s i e then some (i, e) else none else none
  | _, _ => none

/-- R193, R4, R5: a second part. That its reply stands before the RESULT frames of a change to MOVING, which the removal of
the SPEED entry brings (R5, R17), is the model's choice (notes/assumptions/22.md). -/
def decodeSecondPart (args : List Byte) (s : State) : State :=
  let n := argByte args 0 - 128
  match argByte args 1 with
  | 0 =>
    match indexFin 48 n with
    | some i => answer .ok [] (putDecodeEntry i none s)
    | none => answer .badArg [] s
  | 1 =>
    let spent := setStaging none s
    match joinedWrite s n args with
    | some (i, e) => answer .ok [] (putDecodeEntry i (some e) spent)
    | none => answer .badArg [] spent
  | _ => answer .badArg [] s

/-- R191, R193: a second part of any length. One too short is answered BAD-ARG, and empties the staging record where its
valid byte is there and set. -/
def secondPart (args : List Byte) (s : State) : State :=
  if 6 ≤ args.length then decodeSecondPart args s
  else answer .badArg [] (if 2 ≤ args.length ∧ argByte args 1 = 1 then setStaging none s else s)

/-- WRITE_DECODE_SECOND_PART, R4. -/
def execWriteDecodeSecondPart (s : State) : Host.Outcome State Fault Refusal :=
  .next (if headIsSecondPart s then settle (serve 2 0 secondPart s) else s)

/-- READ_DECODE, R5. -/
def execReadDecode (s : State) : Host.Outcome State Fault Refusal :=
  .next (serve 3 2 (fun args s =>
    match indexFin 48 (argByte args 0) with
    | some i => answerPart .ok (decodeBytes (s.decoder.entries.get i)) (argByte args 1) s
    | none => answer .badArg [] s) s)

/-! ## The Policy Table -/

/-- R107: one entry is replaced. -/
def putPolicy (c d : Fin 8) (set : BitVec 6) (s : State) : State :=
  { s with policy := { s.policy with table := s.policy.table.put (policyIndex c d) set } }

/-- WRITE_POLICY, R107. -/
def execWritePolicy (s : State) : Host.Outcome State Fault Refusal :=
  .next (settle (serve 4 3 (fun args s =>
    match argClass args 0, argClass args 1 with
    | some c, some d => takePolicyWrite (answer .ok [] (putPolicy c d (BitVec.ofNat 6 (argByte args 2)) s))
    | _, _ => answer .badArg [] s) s))

/-- READ_POLICY, R107. -/
def execReadPolicy (s : State) : Host.Outcome State Fault Refusal :=
  .next (serve 5 2 (fun args s =>
    match argClass args 0, argClass args 1 with
    | some c, some d => answer .ok (num (s.policy.table.get (policyIndex c d)).toNat) s
    | _, _ => answer .badArg [] s) s)

/-! ## The direct lines -/

/-- WRITE_WIRED, R119. -/
def execWriteWired (s : State) : Host.Outcome State Fault Refusal :=
  .next (settle (serve 6 4 (fun args s =>
    match (argLine args 0).bind (fun k => (wiredFieldOf (argByte args 1)).bind fun x => writeWiredField k x (argWord args 2) s)
      with
    | some s' => answer .ok [] s'
    | none => answer .badArg [] s) s))

/-- READ_WIRED, R119. -/
def execReadWired (s : State) : Host.Outcome State Fault Refusal :=
  .next (serve 7 2 (fun args s =>
    match argLine args 0, wiredFieldOf (argByte args 1) with
    | some k, some x => answer .ok (readWiredField s k x) s
    | _, _ => answer .badArg [] s) s)

/-- WRITE_TIMEBASE, R117. -/
def execWriteTimebase (s : State) : Host.Outcome State Fault Refusal :=
  .next (serve 8 3 (fun args s =>
    match tbOf (argByte args 0) with
    | some t =>
      answer .ok [] (modTimebase t (fun b =>
        { b with pending := some (clamp Config.periodMin Config.periodMax (argWord args 1)) }) s)
    | none => answer .badArg [] s) s)

/-- REARM_LINES, R129. -/
def execRearmLines (s : State) : Host.Outcome State Fault Refusal :=
  .next (serve 22 1 (fun args s =>
    let named := lineSet (argByte args 0)
    if named.isEmpty then answer .badArg [] s
    else answer (if rearmBlocked named s then .notReady else .ok) [] (rearmGroup named .fb (rearmGroup named .fa s))) s)

/-! ## System settings -/

/-- Change the system settings. -/
def modSettings (f : Settings → Settings) (s : State) : State := { s with settings := f s.settings }

/-- R16, R131: the stale timeout acts at once on the Command Table, the speed record and the held lines. That they are taken
in this order, the entries in catalogue order and the lines in ascending order, is the model's choice
(notes/assumptions/6.md). -/
def staleTimeoutActs (s : State) : State :=
  allLines.foldl (fun s k => if holdExpired s k then expireHold k s else s)
    (speedStaleIfDue (allCodes.foldl (fun s f => staleIfDue f s) s))

/-- R195: the settings, in the order of the rule. -/
inductive Setting where
  | vref | stale | window | tolerance | threshold
  deriving DecidableEq, Repr

/-- R195: the setting of a number. -/
def settingOf (n : Nat) : Option Setting :=
  match n with
  | 0 => some .vref
  | 1 => some .stale
  | 2 => some .window
  | 3 => some .tolerance
  | 4 => some .threshold
  | _ => none

/-- R195: the value as taken: clamped, or, for V_ref, none where it is neither 12000 nor 24000. -/
def valueTaken (x : Setting) (v : Nat) : Option Nat :=
  match x with
  | .vref => if v = 12000 ∨ v = 24000 then some v else none
  | .stale => some (clamp Config.staleMin Config.staleMax v)
  | .window => some (clamp Config.windowMin Config.windowMax v)
  | .tolerance => some (clamp 0 Config.toleranceMax v)
  | .threshold => some (clamp 0 Config.thresholdMax v)

/-- R195: a value as taken is written, and acts through the setting's owners. -/
def writeSetting (x : Setting) (v : Nat) (s : State) : State :=
  match x with
  | .vref => recomputeWhere (fun _ _ => true) (modSettings (fun q => { q with vref := v }) s)
  | .stale => staleTimeoutActs (modSettings (fun q => { q with stale := v }) s)
  | .window => modSettings (fun q => { q with window := v }) s
  | .tolerance => modSettings (fun q => { q with tolerance := v }) s
  | .threshold => modSettings (fun q => { q with threshold := v }) s

/-- SET_SYSTEM, R195. -/
def execSetSystem (s : State) : Host.Outcome State Fault Refusal :=
  .next (settle (serve 9 3 (fun args s =>
    match settingOf (argByte args 0) with
    | some x =>
      match valueTaken x (argWord args 1) with
      | some v => writeSetting x v (answer .ok (word v) s)
      | none => answer .badArg [] s
    | none => answer .badArg [] s) s))

/-! ## The Fault List -/

/-- READ_FAULT, R115. -/
def execReadFault (s : State) : Host.Outcome State Fault Refusal :=
  .next (serve 20 1 (fun args s => answerPart .ok (faultBytes s) (argByte args 0) s) s)

/-- CLEAR_FAULT, R115. -/
def execClearFault (s : State) : Host.Outcome State Fault Refusal :=
  .next (serve 21 0 (fun _ s =>
    answer .ok [] { s with policy := { s.policy with faults := s.policy.faults.tail } }) s)

end Sys2Proof.Machine
end

