-- ==== Sys2Proof/Machine/ActRequests.lean ====
section
/-! DEFINITION. The requests that act on positions, functions and the part itself, as the head of the Request List is served
with each (R191, R192): SET-FUNCTION, CLEAR-OVERRIDE, GET-FUNCTION, CLEAR-ACTIVITY, PIN-GROUP, UNPIN-GROUP, RECHECK,
START-SEQUENCE, ABORT-SEQUENCE, READ-SEQUENCE-ITEM, RELEASE-POSITION, FORGET-CONSIST and RESET-DEVICE. -/

namespace Sys2Proof.Machine

/-- R190: the position and function code of a request. -/
def argFunction (args : List Byte) : Option (Pos × Code) :=
  match argPos args 0, argCode args 1 with
  | some p, some f => some (p, f)
  | _, _ => none

/-- R190: the position and group of a request. -/
def argPosGroup (args : List Byte) : Option (Pos × Group) :=
  match argPos args 0, argGroup args 1 with
  | some p, some g => some (p, g)
  | _, _ => none

/-! ## Functions -/

/-- R100: the values an override of a function may take. -/
def overrideValueOk (f : Code) (v : Nat) : Bool :=
  match kindOf f with
  | .lamp => decide (v ≤ 255)
  | .sensor => false
  | .actuator => decide (v ≤ 2)

/-- R100: the override is in force: it is answered at once where the target equals the delivered value, else its reply is
pending. -/
def awaitOverride (p : Pos) (f : Code) (v : Nat) (s : State) : State :=
  if targetOf s p f = (entryOf s p f).delivered then answer .ok [] s
  else holdHead (setPendingOverride (some { pos := p, code := f, value := v }) s)

/-- R100: SET-FUNCTION, its position and code in range. -/
def setFunction (p : Pos) (f : Code) (v : Nat) (s : State) : State :=
  if overrideValueOk f v = false then answer .badArg [] s
  else if inService s p = false then answer .notReady [] s
  else if (entryOf s p f).notFitted then answer .notFitted [] s
  else rescan p (awaitOverride p f v (emit (.levelBeneath (.override p f)) (writeOverride p f v s)))

/-- SET_FUNCTION, R100. BAD-ARG for a position outside 1 to 4 is the model's choice (notes/assumptions/21.md). -/
def execSetFunction (s : State) : Host.Outcome State Fault Refusal :=
  .next (settle (serve 10 4 (fun args s =>
    match argFunction args with
    | some (p, f) => setFunction p f (argWord args 2) s
    | none => answer .badArg [] s) s))

/-- CLEAR_OVERRIDE, R93. BAD-ARG for a position or code out of range is the model's choice (notes/assumptions/21.md). -/
def execClearOverride (s : State) : Host.Outcome State Fault Refusal :=
  .next (settle (serve 11 2 (fun args s =>
    match argFunction args with
    | some (p, f) => answer .ok [] (clearOverrideAt p f s)
    | none => answer .badArg [] s) s))

/-- GET_FUNCTION, R101. BAD-ARG for a position outside 1 to 4 is the model's choice (notes/assumptions/21.md). -/
def execGetFunction (s : State) : Host.Outcome State Fault Refusal :=
  .next (settle (serve 12 2 (fun args s =>
    match argFunction args with
    | some (p, f) => tryRead p f s
    | none => answer .badArg [] s) s))

/-- R92: the positions CLEAR-ACTIVITY names. -/
def activityPositions (n : Nat) : Option (List Pos) :=
  if n = 0 then some allPos else (indexPos n).map fun p => [p]

/-- CLEAR_ACTIVITY, R92. -/
def execClearActivity (s : State) : Host.Outcome State Fault Refusal :=
  .next (serve 13 1 (fun args s =>
    match activityPositions (argByte args 0) with
    | some ps => answer .ok [] (ps.foldl (fun s p => clearActivityOf p s) s)
    | none => answer .badArg [] s) s)

/-! ## Groups -/

/-- PIN_GROUP, R90. -/
def execPinGroup (s : State) : Host.Outcome State Fault Refusal :=
  .next (settle (serve 14 2 (fun args s =>
    match argPosGroup args with
    | some (p, g) =>
      match pinGroup p g s with
      | (r, s') => answer r [] s'
    | none => answer .badArg [] s) s))

/-- UNPIN_GROUP, R90. BAD-ARG for a position or group out of range is the model's choice (notes/assumptions/21.md). -/
def execUnpinGroup (s : State) : Host.Outcome State Fault Refusal :=
  .next (settle (serve 15 2 (fun args s =>
    match argPosGroup args with
    | some (p, g) => answer .ok [] (unpinGroup p g s)
    | none => answer .badArg [] s) s))

/-! ## Checks -/

/-- R148: RECHECK of a circuit. That its third argument byte is not looked at, where R1 answers a code out of range BAD-ARG, is
the model's choice (notes/assumptions/21.md). -/
def recheckCircuit (args : List Byte) (s : State) : State :=
  match argLine args 1 with
  | some k =>
    match recheck (.circuit k) none s with
    | (r, s') => answer r [] s'
  | none => answer .badArg [] s

/-- R148: RECHECK of a lamp function of a position. -/
def recheckFunction (args : List Byte) (s : State) : State :=
  match argPos args 1, argCode args 2 with
  | some p, some f =>
    if kindOf f ≠ .lamp then answer .badArg [] s
    else if inService s p = false then answer .notReady [] s
    else
      match recheck (recheckTarget s p f) (some p) s with
      | (r, s') => answer r [] s'
  | _, _ => answer .badArg [] s

/-- RECHECK, R148: form 0 names a circuit, form 1 a function. -/
def execRecheck (s : State) : Host.Outcome State Fault Refusal :=
  .next (settle (serve 16 3 (fun args s =>
    match argByte args 0 with
    | 0 => recheckCircuit args s
    | 1 => recheckFunction args s
    | _ => answer .badArg [] s) s))

/-! ## Sequences -/

/-- START_SEQUENCE, R169. -/
def execStartSequence (s : State) : Host.Outcome State Fault Refusal :=
  .next (settle (serve 17 6 (fun args s =>
    match seqRequest args with
    | none => answer .badArg [] s
    | some r =>
      if seqInRange r = false then answer .badArg [] s
      else if seqRunning s then answer .busy [] s
      else if inService s r.pos = false then answer .notReady [] s
      else beginSequence r (answer .ok [] s)) s))

/-- ABORT_SEQUENCE, R172. -/
def execAbortSequence (s : State) : Host.Outcome State Fault Refusal :=
  .next (serve 18 0 (fun _ s => answer .ok [] (if seqRunning s then endSequence .aborted s else s)) s)

/-- READ_SEQUENCE_ITEM, R173. -/
def execReadSequenceItem (s : State) : Host.Outcome State Fault Refusal :=
  .next (serve 19 2 (fun args s =>
    if 63 < argByte args 0 then answer .badArg [] s
    else
      match s.sequence.buffer[argByte args 0]? with
      | some i => answerPart .ok (sequenceBytes s ++ itemBytes i) (argByte args 1) s
      | none => answerPart .notReady (sequenceBytes s) (argByte args 1) s) s)

/-! ## The part -/

/-- RELEASE_POSITION, R178. -/
def execReleasePosition (s : State) : Host.Outcome State Fault Refusal :=
  .next (settle (serve 23 1 (fun args s =>
    match argPos args 0 with
    | some p => askRelease p s
    | none => answer .badArg [] s) s))

/-- R188: FORGET-CONSIST: the pending writes are discarded, and the forget write made once no write is in progress. -/
def forget (s : State) : State :=
  let held := holdHead (modMemory (fun m => { m with pendingWrites := Tab.fill none }) s)
  if s.memory.writing.isNone then startForget held else held

/-- FORGET_CONSIST, R188. -/
def execForgetConsist (s : State) : Host.Outcome State Fault Refusal := .next (serve 24 0 (fun _ s => forget s) s)

/-- R189: RESET-DEVICE: the restart code is written once no write is in progress. -/
def askReset (s : State) : State :=
  if s.memory.writing.isNone then startResetWrite (holdHead s) else holdHead s

/-- RESET_DEVICE, R189. -/
def execResetDevice (s : State) : Host.Outcome State Fault Refusal := .next (serve 25 0 (fun _ s => askReset s) s)

end Sys2Proof.Machine
end

