-- ==== Sys2Proof/Machine/Dispatch.lean ====
section
/-! DEFINITION. Every command's meaning, one arm per row of the opcode table. -/

namespace Sys2Proof.Machine

/-- The effect of a command on everything but the queue of commands that wait. -/
def exec (i : Instr) (s : State) : Host.Outcome State Fault Refusal :=
  match i with
  | .powerOnReset pins cut => Sys2Proof.Machine.execPowerOnReset pins cut s
  | .deviceReset straps => Sys2Proof.Machine.execDeviceReset straps s
  | .canFrameReceived frame => Sys2Proof.Machine.execCanFrameReceived frame s
  | .commandStale f => Sys2Proof.Machine.execCommandStale f s
  | .speedStale => Sys2Proof.Machine.execSpeedStale s
  | .stopTimerExpiry => Sys2Proof.Machine.execStopTimerExpiry s
  | .cplChange present => Sys2Proof.Machine.execCplChange present s
  | .couplingRise => Sys2Proof.Machine.execCouplingRise s
  | .couplingFall => Sys2Proof.Machine.execCouplingFall s
  | .chainProbe => Sys2Proof.Machine.execChainProbe s
  | .enumerationSpacingEnd => Sys2Proof.Machine.execEnumerationSpacingEnd s
  | .enumerationSettleEnd => Sys2Proof.Machine.execEnumerationSettleEnd s
  | .transactionEnd r => Sys2Proof.Machine.execTransactionEnd r s
  | .replyDeadline => Sys2Proof.Machine.execReplyDeadline s
  | .pollWindowEnd slots => Sys2Proof.Machine.execPollWindowEnd slots s
  | .exerciseReadRepeat p f => Sys2Proof.Machine.execExerciseReadRepeat p f s
  | .exerciseDeadline p => Sys2Proof.Machine.execExerciseDeadline p s
  | .unavailableRetry p f => Sys2Proof.Machine.execUnavailableRetry p f s
  | .stopRepeat p f => Sys2Proof.Machine.execStopRepeat p f s
  | .periodicReadDue p f => Sys2Proof.Machine.execPeriodicReadDue p f s
  | .watchReadDue p f => Sys2Proof.Machine.execWatchReadDue p f s
  | .actuatorWatchTimeout p f => Sys2Proof.Machine.execActuatorWatchTimeout p f s
  | .nodeLampReadingDue p src => Sys2Proof.Machine.execNodeLampReadingDue p src s
  | .nodeLampCheckExpiry p src => Sys2Proof.Machine.execNodeLampCheckExpiry p src s
  | .exerciseSlotExpiry => Sys2Proof.Machine.execExerciseSlotExpiry s
  | .pollTime => Sys2Proof.Machine.execPollTime s
  | .sequenceRepeat => Sys2Proof.Machine.execSequenceRepeat s
  | .sequenceItemTimeout => Sys2Proof.Machine.execSequenceItemTimeout s
  | .recoveryAttempt p => Sys2Proof.Machine.execRecoveryAttempt p s
  | .lostTimeout p => Sys2Proof.Machine.execLostTimeout p s
  | .periodBoundary tb => Sys2Proof.Machine.execPeriodBoundary tb s
  | .senseSample k code => Sys2Proof.Machine.execSenseSample k code s
  | .groupTrip g => Sys2Proof.Machine.execGroupTrip g s
  | .faultInputDeasserted g => Sys2Proof.Machine.execFaultInputDeasserted g s
  | .supplyReading mv => Sys2Proof.Machine.execSupplyReading mv s
  | .holdTimeout k => Sys2Proof.Machine.execHoldTimeout k s
  | .consistTimer => Sys2Proof.Machine.execConsistTimer s
  | .resultRefresh => Sys2Proof.Machine.execResultRefresh s
  | .frameSent => Sys2Proof.Machine.execFrameSent s
  | .recordWriteComplete => Sys2Proof.Machine.execRecordWriteComplete s
  | .rebuildComplete => Sys2Proof.Machine.execRebuildComplete s
  | .forgetWriteComplete => Sys2Proof.Machine.execForgetWriteComplete s
  | .headerWriteComplete => Sys2Proof.Machine.execHeaderWriteComplete s
  | .readState => Sys2Proof.Machine.execReadState s
  | .writeDecodeFirstPart => Sys2Proof.Machine.execWriteDecodeFirstPart s
  | .writeDecodeSecondPart => Sys2Proof.Machine.execWriteDecodeSecondPart s
  | .readDecode => Sys2Proof.Machine.execReadDecode s
  | .writePolicy => Sys2Proof.Machine.execWritePolicy s
  | .readPolicy => Sys2Proof.Machine.execReadPolicy s
  | .writeWired => Sys2Proof.Machine.execWriteWired s
  | .readWired => Sys2Proof.Machine.execReadWired s
  | .writeTimebase => Sys2Proof.Machine.execWriteTimebase s
  | .setSystem => Sys2Proof.Machine.execSetSystem s
  | .setFunction => Sys2Proof.Machine.execSetFunction s
  | .clearOverride => Sys2Proof.Machine.execClearOverride s
  | .getFunction => Sys2Proof.Machine.execGetFunction s
  | .clearActivity => Sys2Proof.Machine.execClearActivity s
  | .pinGroup => Sys2Proof.Machine.execPinGroup s
  | .unpinGroup => Sys2Proof.Machine.execUnpinGroup s
  | .recheck => Sys2Proof.Machine.execRecheck s
  | .startSequence => Sys2Proof.Machine.execStartSequence s
  | .abortSequence => Sys2Proof.Machine.execAbortSequence s
  | .readSequenceItem => Sys2Proof.Machine.execReadSequenceItem s
  | .readFault => Sys2Proof.Machine.execReadFault s
  | .clearFault => Sys2Proof.Machine.execClearFault s
  | .rearmLines => Sys2Proof.Machine.execRearmLines s
  | .releasePosition => Sys2Proof.Machine.execReleasePosition s
  | .forgetConsist => Sys2Proof.Machine.execForgetConsist s
  | .resetDevice => Sys2Proof.Machine.execResetDevice s
  | .frameTransmissionStart => Sys2Proof.Machine.execFrameTransmissionStart s

end Sys2Proof.Machine
end

