-- ==== Sys2Proof/Safety.lean ====
section
/-! DEFINITION. What the statements call safe, in terms of the manual's own bounds: the capacities of its lists, the values
its tables may hold, the on-counts of its lines, and what a notice between blocks never reaches. -/

namespace Sys2Proof.Machine

/-! ## Capacities -/

/-- The bounds the manual sets on the lists and counters it holds. -/
structure State.WithinCapacity (s : State) : Prop where
  /-- R113: the Fault List. -/
  faults : s.policy.faults.length ≤ 8
  /-- R197: the transmit queue. -/
  frames : s.port.queue.length ≤ 16
  /-- R192: the Request List. -/
  requests : s.management.requests.length ≤ 4
  /-- R145: the Exercise Queue. -/
  exercise : s.check.queue.length ≤ 16
  /-- R132: each Contributor List. -/
  contributors : ∀ k, (circuitRec s k).contributors.length ≤ 16
  /-- R132: each sample set. -/
  samples : ∀ k, (circuitRec s k).samples.length ≤ 3
  /-- R144: each pending list of opportunistic checks. -/
  opportunistic : ∀ p, (s.check.oppPending.get p).length ≤ 64
  /-- R32: each unheard counter. -/
  unheard : ∀ p, unheardOf s p ≤ 3

/-- R55, R71, R73: an exercise plan. The groups still to look up are sensor and actuator groups in ascending order, and the
first reads outstanding are sensor and actuator functions of groups already looked up, each once. -/
structure ConsistRecord.PlanSound (r : ConsistRecord) : Prop where
  lampItems : r.lampItems.length ≤ 72
  groups : r.groupItems.length ≤ 8
  ascending : r.groupItems.Pairwise (· < ·)
  groupKinds : ∀ g ∈ r.groupItems, kindOfGroup g ≠ .lamp
  firstReads : r.firstReads.length ≤ 128
  once : (r.firstReads.map fun x => x.code).Nodup
  readKinds : ∀ x ∈ r.firstReads, kindOf x.code ≠ .lamp ∧ groupOf x.code ∉ r.groupItems

/-- The bounds the manual sets on what the Binding Store, the stops, the streams, the plans, the circuits and the service
rounds hold. -/
structure State.ListsBounded (s : State) : Prop where
  /-- R90: the pinned blocks. -/
  pinned : (allBlocks.filter fun b => (blockOf s b).pinned).length ≤ 12
  /-- R109: the owed stops of a position, a set of up to 64 actuator function codes. -/
  owed : ∀ p, (s.delivery.owed.get p).length ≤ 64 ∧ ((s.delivery.owed.get p).map fun o => o.code).Nodup
    ∧ ∀ o ∈ s.delivery.owed.get p, kindOf o.code = .actuator
  /-- R49: the two captures of a stream. -/
  captures : ∀ p, (streamRec s p).wires.length ≤ 64 ∧ (streamRec s p).required.length ≤ 64
  /-- R55: the required lamps of a position. -/
  required : ∀ p, (posRec s p).required.length ≤ 64
  /-- R55: the exercise plan of a position. -/
  plans : ∀ p, (posRec s p).PlanSound
  /-- R132: no Contributor List holds two entries for the same position and function code. -/
  once : ∀ k, ((circuitRec s k).contributors.map fun c => (c.pos, c.code)).Nodup
  /-- R163: the functions named in a round. -/
  rounds : ∀ p, (roundOf s p).count ≤ 16

/-- R155: an actuator watch runs at an ACTUATOR function alone. -/
def State.WatchesSound (s : State) : Prop := ∀ p f, (entryOf s p f).watchDeadline ≠ none → kindOf f = .actuator

/-- R80: a block is FREE with no owner and no valid row, or it is owned by one group of one position whose group record
names it, and no group record names a block it does not own. -/
structure State.BlocksOwned (s : State) : Prop where
  free : ∀ b, (blockOf s b).state = .free → (blockOf s b).owner = none ∧ ∀ m, (blockOf s b).rows.get m = none
  owned : ∀ b, (blockOf s b).state ≠ .free → ∃ p g, (blockOf s b).owner = some (p, g) ∧ (groupRec s p g).block = some b
  named : ∀ p g b, (groupRec s p g).block = some b → (blockOf s b).owner = some (p, g)

/-- R56, R175: the positions that are not VACANT form an unbroken run beginning at position 1, and the positions above the
one an active release works on are VACANT. -/
structure State.RunUnbroken (s : State) : Prop where
  run : ∀ p q, p < q → stateOf s q ≠ .vacant → stateOf s p ≠ .vacant
  reset : s.consist.release.active = true → ∀ q x, s.consist.release.current = some q → q < x → stateOf s x = .vacant
  passed : s.consist.release.active = true → s.consist.release.current = none → ∀ x, stateOf s x = .vacant

/-- R169: the result buffer holds at most the count, which is at most 64, and less while the sequence runs. -/
structure State.SequenceBounded (s : State) : Prop where
  buffer : s.sequence.buffer.length ≤ 64
  running : s.sequence.state = .running → s.sequence.buffer.length < s.sequence.count.getD 0 ∧ s.sequence.count.getD 0 ≤ 64

/-! ## The Decode Table and the Command Table -/

/-- R4: what a valid Decode Table entry keeps to. -/
def DecodeEntry.sound (e : DecodeEntry) : Bool :=
  (match e.format with
      | .standard => decide (e.id < 2048) && !(decide (0x6A0 ≤ e.id) && decide (e.id ≤ 0x6CF))
      | .extended => decide (e.id < 536870912))
    && decide (e.byte ≤ 7) && decide (e.bit ≤ 7) && decide (1 ≤ e.width) && decide (e.width ≤ 8)
    && decide (8 * e.byte + e.bit + e.width ≤ 64)
    && (match e.kind with
      | .switch | .phase | .level => (e.code.map fun f => decide (kindOf f = .lamp)).getD false
      | .actuator => (e.code.map fun f => decide (kindOf f = .actuator)).getD false
      | .speed => e.code.isNone && decide (4 ≤ e.width))

/-- R4: every valid entry of the Decode Table is sound, and at most one of them is of kind SPEED. -/
structure State.DecodeSound (s : State) : Prop where
  entries : ∀ n e, s.decoder.entries.get n = some e → e.sound = true
  oneSpeed : ∀ n m e e', s.decoder.entries.get n = some e → s.decoder.entries.get m = some e' →
    e.kind = .speed → e'.kind = .speed → n = m

/-- R1, R13: the command value a function code may hold, and, of a SENSOR code, that it has never been updated. -/
def commandSound (f : Code) (e : CommandEntry) : Bool :=
  match kindOf f with
  | .lamp => decide (e.value ≤ 255)
  | .sensor => decide (e.value = 0) && e.neverUpdated
  | .actuator => decide (e.value ≤ 2)

/-- R1, R13: every entry of the Command Table holds a value of its code's kind. -/
def State.CommandsSound (s : State) : Prop := ∀ f, commandSound f (commandOf s f) = true

/-! ## Settings and profile -/

/-- R195, R16, R148, R125: the system settings lie in their ranges. -/
def Settings.inRange (q : Settings) : Bool :=
  (decide (q.vref = 12000) || decide (q.vref = 24000))
    && decide (100 ≤ q.stale) && decide (q.stale ≤ 2000) && decide (200 ≤ q.window) && decide (q.window ≤ 2000)
    && decide (q.tolerance ≤ 50) && decide (q.threshold ≤ 1000)

/-- R119: an entry of the Wired Profile holds a LAMP code or none, and its figures lie in their ranges. -/
def WiredEntry.inRange (w : WiredEntry) : Bool :=
  (w.code.map fun f => decide (kindOf f = .lamp)).getD true
    && decide (500 ≤ w.trip) && decide (w.trip ≤ 20000) && decide (w.tLo ≤ 50) && decide (w.tHi ≤ 50)
    && decide (w.openMin ≤ 1000)

/-- R116: a timebase's period and pending period lie in their range. -/
def Timebase.inRange (b : Timebase) : Bool :=
  decide (999 ≤ b.period) && decide (b.period ≤ 19999)
    && (b.pending.map fun p => decide (999 ≤ p) && decide (p ≤ 19999)).getD true

/-- The settings, the Wired Profile and the timebases lie in their ranges. -/
structure State.ConfigInRange (s : State) : Prop where
  settings : s.settings.inRange = true
  wired : ∀ k, (wiredOf s k).inRange = true
  timebases : ∀ t, (timebase s t).inRange = true

/-! ## Direct lines -/

/-- R118, R124: both on-counts of every line lie between 0 and P + 1 of the timebase that drives it. The pending on-count of
one that has left its old timebase comes to lie there with the next period of its new one (R120). -/
def State.OnCountsBounded (s : State) : Prop :=
  ∀ k, (lineRec s k).onCount ≤ (timebase s (lineRec s k).tb).period + 1
    ∧ ((lineRec s k).joining = false → (lineRec s k).pendingOn ≤ (timebase s (lineRec s k).tb).period + 1)

/-- R124: the on-count in force is 0 while the line's own trip flag or its group's is set. -/
def State.TrippedOff (s : State) : Prop := ∀ k, tripped s k = true → (lineRec s k).onCount = 0

/-- R118: the settle count of every line is 0 to 2. -/
def State.SettleBounded (s : State) : Prop := ∀ k, (lineRec s k).settle ≤ 2

/-! ## What no notice reaches -/

/-- The fields of a line record that only its timebase, its samples and its trips change (R118). -/
structure LineCore where
  onCount : Nat
  trip : Bool
  settle : Nat
  lastSense : Option Nat
  tb : TbName
  sampled : Bool
  joining : Bool
  deriving DecidableEq, Repr

/-- The part of a line record that no notice reaches. -/
def Line.core (l : Line) : LineCore :=
  { onCount := l.onCount, trip := l.trip, settle := l.settle, lastSense := l.lastSense, tb := l.tb, sampled := l.sampled,
    joining := l.joining }

/-- What no notice between the blocks changes: the clock, the queue of commands, the Command Decoder, the settings, the
coupling sense and chain probe, the Policy Table, the Direct Line Unit but for what drives its next period, the store of the
Consist Memory, the staging record, the strap value and the CONSIST timer. -/
structure Untouched (a b : State) : Prop where
  now : a.now = b.now
  pending : a.pending = b.pending
  freeCount : a.freeCount = b.freeCount
  decoder : a.decoder = b.decoder
  settings : a.settings = b.settings
  cplLevel : a.consist.cplLevel = b.consist.cplLevel
  cplPresent : a.consist.cplPresent = b.consist.cplPresent
  cplTimer : a.consist.cplTimer = b.consist.cplTimer
  probeAt : a.consist.probeAt = b.consist.probeAt
  table : a.policy.table = b.policy.table
  lines : ∀ k, (lineRec a k).core = (lineRec b k).core
  tbA : a.direct.tbA = b.direct.tbA
  tbB : a.direct.tbB = b.direct.tbB
  wired : a.direct.wired = b.direct.wired
  faultA : a.direct.faultA = b.direct.faultA
  faultB : a.direct.faultB = b.direct.faultB
  tripA : a.direct.tripA = b.direct.tripA
  tripB : a.direct.tripB = b.direct.tripB
  supply : a.direct.supply = b.direct.supply
  nextSupply : a.direct.nextSupply = b.direct.nextSupply
  store : a.memory.store = b.memory.store
  invalid : a.memory.invalid = b.memory.invalid
  cause : a.memory.cause = b.memory.cause
  staging : a.management.staging = b.management.staging
  resetPlaced : a.management.resetPlaced = b.management.resetPlaced
  resetSent : a.management.resetSent = b.management.resetSent
  node : a.port.node = b.port.node
  consistAt : a.port.consistAt = b.port.consistAt

/-- R34: while the line is free no offer stands, since a free line is granted at once. -/
def State.IdleLine (s : State) : Prop := s.line.flight = none → s.line.offers = []

/-- R35: the transaction in flight in `b` is in flight in `a` with the same offer and deadline; only its discard mark may
have been set. -/
def FlightKept (a b : State) : Prop :=
  ∀ fl, b.line.flight = some fl → ∃ d, a.line.flight = some { fl with discard := d }

/-! ## What a command finds -/

/-- No notice waits to be acted on, and no offer stands at a free line (R34). -/
structure State.Quiet (s : State) : Prop where
  notices : s.notices = []
  idle : s.IdleLine

/-- R192: the head of the Request List has this code and its turn has come; the transmit queue has a place for its reply
(R197), and the request behind it, where there is one, has a code of the table (R191). -/
structure State.Serving (s : State) (code : Nat) (r : Request) (rest : List Request) : Prop where
  requests : s.management.requests = r :: rest
  turn : s.management.head = .waiting
  code : r.code.toNat = code
  room : s.port.queue.length < 16
  behind : ∀ x, rest.head? = some x → knownCode x.code = true

/-- R192, R197: the state with the head request answered: its reply frame stands at the tail of the transmit queue and
the requests behind it remain. -/
def State.replied (s : State) (r : Request) (rest : List Request) (result : ResultCode) (bytes : List Byte) : State :=
  { s with
    port := { s.port with
      queue := s.port.queue ++ [{ key := none, id := 0x6B0 + s.port.node.val,
                                  data := [r.code, r.tag, BitVec.ofNat 8 (resultNumber result)] ++ bytes }] }
    management := { s.management with requests := rest, head := .waiting } }

/-- R191: the state with part n of an answer given, or BAD-ARG for a part that begins beyond the answer's end. -/
def State.part (s : State) (r : Request) (rest : List Request) (result : ResultCode) (bytes : List Byte) (n : Nat) : State :=
  if 5 * n < bytes.length then s.replied r rest result ((bytes.drop (5 * n)).take 5) else s.replied r rest .badArg []

/-- R192: the head request is with its owner: nothing is answered yet, and no request behind it is served. -/
def State.held (s : State) : State := { s with management := { s.management with head := .handed } }

/-- R192, R197: the head request r is with its owner, and its reply finds a place in the transmit queue; the request behind
it, where there is one, has a code of the table (R191). -/
structure State.Owing (s : State) (r : Request) (rest : List Request) : Prop where
  requests : s.management.requests = r :: rest
  room : s.port.queue.length < 16
  behind : ∀ x, rest.head? = some x → knownCode x.code = true

/-- R35: o is in flight, its deadline d still ahead and its end not to be discarded; no offer stands and no notice waits. -/
structure State.InFlight (s : State) (o : Offer) (d : Time) : Prop where
  notices : s.notices = []
  offers : s.line.offers = []
  flight : s.line.flight = some { offer := o, deadline := d }
  early : s.now < d

/-- R35: the transaction in flight is over, and the line not yet free. -/
def State.over (s : State) : State :=
  { s with line := { s.line with flight := s.line.flight.map fun fl => { fl with ended := true } } }

/-- R35, step 6: the line is free, no offer standing. -/
def State.free (s : State) : State := { s with line := { s.line with flight := none } }

/-- R34: o, the one offer made, is in flight: it was granted at the end of the transaction before it. -/
def State.granted (o : Offer) (s : State) : State :=
  { s with line := { s.line with
      flight := some { offer := o, deadline := s.now + 2000 }
      lastServed := s.line.lastServed.put o.cls o.pos
      lastGranted := s.line.lastGranted.upd o.cls fun t => t.put o.pos (some o.requester) } }

/-- R92, R199: the result r written to (p, f), p not VACANT: where it differs from the one held, its RESULT frame is placed.
-/
def State.resulting (p : Pos) (f : Code) (r : CheckResult) (s : State) : State :=
  if (entryOf s p f).result = r then s
  else placeResultFrame p (groupOf f) (halfOf f) (modEntry p f (fun x => { x with result := r }) s)

/-- R139, R140: the outcome o of circuit k written: each contributor's class in list order, and, under the presence rule,
the class to (1, f). -/
def State.reporting (k : LineNo) (o : CheckOutcome) (s : State) : State :=
  let cs := (circuitRec s k).contributors
  let presence := stateOf s 0 = .wired ∧ cs = []
  ((cs.map fun c => (c.pos, c.code, classResult o.cls (decide (o.named = some (c.pos, c.code)))))
    ++ (if presence then ((wiredOf s k).code.map fun f => ((0 : Pos), f, classResult o.cls false)).toList else [])).foldl
    (fun t w => State.resulting w.1 w.2.1 w.2.2 t) s

/-- R139: a result written to a contributor of circuit k shows in nothing but that result and its RESULT frame: no check
holds the exercise slot, no position is EXERCISING, and the list, of at most 16, names no VACANT position. -/
structure State.Reportable (s : State) (k : LineNo) : Prop where
  slot : s.check.slot = none
  calm : ∀ p, stateOf s p ≠ .exercising
  listed : (circuitRec s k).contributors.length ≤ 16
  occupied : ∀ c ∈ (circuitRec s k).contributors, stateOf s c.pos ≠ .vacant

/-- R121, R147: the check of circuit k has left the exercise slot, no entry waiting behind it: of a WINDOW the exercise flag
is cleared and the pending on-count, but not in HOLD, that of the level beneath. -/
def State.slotFreed (k : LineNo) (window : Bool) (s : State) : State :=
  let level := ((wiredOf s k).code.map fun f => (commandOf s f).value).getD 0
  modLine k (fun l =>
      if window = false then l
      else if l.hold.isSome then { l with exercise := false }
      else { l with
        exercise := false
        pendingOn := onCountOf level (timebase s l.tb).period (wiredOf s k).comp s.settings.vref s.direct.supply })
    { s with check := { s.check with slot := none } }

/-- R114: the state with a fault recorded. -/
def State.faulted (kind : FaultKind) (p : Pos) (f : Option Code) (access : Option AccessKind) (detail : Nat) (s : State) :
    State :=
  let record : FaultRecord :=
    { kind := kind, pos := some p, code := f, access := access, detail := detail, followed := false }
  { s with policy := { s.policy with faults := addFault record s.policy.faults } }

/-- R98: a Not Heard end at (p, f): POINT-UNKNOWN where the not-fitted mark was clear, and the mark. -/
def State.unfitted (p : Pos) (f : Code) (access : Option AccessKind) (point : Nat) (s : State) : State :=
  modEntry p f (fun x => { x with notFitted := true })
    (if (entryOf s p f).notFitted then s else s.faulted .pointUnknown p (some f) access point)

/-- R102, R153: the data w of a reading of (p, f) taken; of a sensor, 65535 sets the read flag alone. -/
def State.reading (p : Pos) (f : Code) (w : Word) (s : State) : State :=
  if kindOf f = .sensor ∧ w = 65535 then modEntry p f (fun x => { x with read := true }) s
  else modEntry p f (fun x =>
    { x with read := true, changed := x.changed || decide (x.lastValue ≠ some w), lastValue := some w }) s

/-- R153, R200: the VALUE frame of (p, f) placed where w is a sensor's value other than the last one held in `before`. -/
def State.valued (p : Pos) (f : Code) (w : Word) (before s : State) : State :=
  if kindOf f = .sensor ∧ w ≠ 65535 ∧ (entryOf before p f).lastValue ≠ some w then placeValueFrame p f s else s

/-- R82: translation of an access to (p, f) comes as far as the policy test: p is in service, the group is present, its
fetch has not failed and waits for no space, block b holds it LOADED, and the row of the member is usable with record r. -/
structure State.Bound (s : State) (p : Pos) (f : Code) (b : BlockNo) (e : DirEntry) (r : FnRecord) : Prop where
  service : inService s p = true
  present : dirOf s p (groupOf f) = some e
  fetched : (groupRec s p (groupOf f)).fetchFailed = false
  space : (groupRec s p (groupOf f)).noSpace = false
  block : (groupRec s p (groupOf f)).block = some b
  loaded : (blockOf s b).state = .loaded
  member : (memberOf f).val < e.members
  row : ∃ reported, (blockOf s b).rows.get (memberOf f) = some { unusable := false, reported := reported, record := r }

/-- R96, R110: the Delivery Unit has nothing to offer for p at classes 1 and 2: every stop that is owed is held, no delivery
is due and unheld, no management read waits, and no offer of its stands. -/
structure State.SetsAtRest (s : State) (p : Pos) : Prop where
  stops : ∀ o ∈ s.delivery.owed.get p, stopHeld s p o = true
  deliveries : ∀ second f, offerable s p second f = none
  management : readOffer s p = none
  first : standing s .deliveryUnit 0 (linePos p) = none
  second : standing s .deliveryUnit 1 (linePos p) = none

/-- R96, R110, R151: the Delivery Unit has nothing to offer for p at all: no scheduled read is due and unheld either. -/
structure State.AtRest (s : State) (p : Pos) : Prop extends s.SetsAtRest p where
  reads : dueReads s p = []

/-- R96: as `State.AtRest`, but that one delivery, of value v to (p, f), is due and unheld. -/
structure State.OneDue (s : State) (p : Pos) (f : Code) (v : Nat) : Prop where
  stops : s.delivery.owed.get p = []
  deliveries : ∀ second g, offerable s p second g = if g = f ∧ second = secondClass f v then some v else none
  management : readOffer s p = none
  reads : dueReads s p = []
  first : standing s .deliveryUnit 0 (linePos p) = none
  second : standing s .deliveryUnit 1 (linePos p) = none

/-- R96, R110, R151: the Delivery Unit has nothing to offer for any position in service. -/
def State.Resting (s : State) : Prop := ∀ p, inService s p = true → s.AtRest p

/-! ## What a changed command or motion state brings -/

/-- R123, R131: the lines fed by f as an update of it leaves them, `s` holding the value it wrote: a hold is ended, and
where it was or the value is another the pending on-count is computed anew. -/
def State.relined (f : Code) (changed : Bool) (s : State) : State :=
  let line := fun (k : LineNo) (l : Line) =>
    if (wiredOf s k).code = some f ∧ (changed = true ∨ l.hold.isSome = true) then
      { l with
        hold := none
        pendingOn := onCountOf (levelOf s k) (timebase s l.tb).period (wiredOf s k).comp s.settings.vref s.direct.supply }
    else l
  { s with direct := { s.direct with lines := s.direct.lines.mapIdx line } }

/-- R99, R103: the entries of f after a change of its command value that is a target change at every position. -/
def State.retargeted (f : Code) (s : State) : State :=
  let entry := fun (e : StatusEntry) =>
    { e with refusalLatch := false, readLatch := if kindOf f = .actuator then false else e.readLatch }
  { s with delivery := { s.delivery with status := s.delivery.status.map fun t => t.upd f entry } }

/-- R93, R158, R159: f has a target, which rests on its command value at every position: no override and no timeout hold of
it is held, no watch of it runs, and no check holds the exercise slot. -/
structure State.Commanded (s : State) (f : Code) : Prop where
  kind : kindOf f ≠ .sensor
  slot : s.check.slot = none
  override : ∀ p, (entryOf s p f).override = none
  hold : ∀ p, (entryOf s p f).timeoutHold = false
  watch : ∀ p, (entryOf s p f).watchDeadline = none

/-- R94, R96, R97: what a command answers that leaves u with the value v of f delivered wherever it is due: u itself where
nothing is due, and with one delivery due, of a bound NODE-fed function, while another transaction is in flight, that
delivery on offer. -/
def Delivers (answer : Host.Outcome State Fault Refusal) (f : Code) (v : Nat) (u : State) : Prop :=
  (u.Resting → answer = .next u)
    ∧ ∀ (p : Pos) (b : BlockNo) (e : DirEntry) (r : FnRecord) (fl : Flight), u.line.flight = some fl → u.Bound p f b e r →
        r.feed = .node → r.point ≤ 63 → v = 0 ∨ permits u e.policyClass r.fnClass (deliveryKind u p f) = true →
        u.OneDue p f v → (∀ q, q ≠ p → inService u q = true → u.AtRest q) →
        answer = .next (setOffers (fun os => os ++ [setOffer p f v (deliveryKind u p f) r])
          (noteOffered p (secondClass f v) f (reference b u)))

/-- R19: no delivery is on offer or in flight, no position EXERCISING and no check in the exercise slot, so that a change of
the motion state has nothing to form afresh and nothing to defer. -/
structure State.Undisturbed (s : State) : Prop where
  slot : s.check.slot = none
  calm : ∀ p, stateOf s p ≠ .exercising
  offers : ∀ o ∈ s.line.offers, ∀ p f v k i, o.why ≠ .delivery p f v k i
  flight : ∀ fl, s.line.flight = some fl → ∀ p f v k i, fl.offer.why ≠ .delivery p f v k i

/-- R109, R110: what a command answers that turns the motion state to MOVING and leaves u: u itself where no actuator in
service has been delivered a value other than 0 or is watched; and with one such, bound to a row whose entry of the Policy
Table lacks TSM, while another transaction is in flight, its stop owed and on offer. -/
def StopsOwed (answer : Host.Outcome State Fault Refusal) (u : State) : Prop :=
  let still := fun (p : Pos) (f : Code) => kindOf f = .actuator → inService u p = true →
    ((entryOf u p f).delivered = none ∨ (entryOf u p f).delivered = some 0) ∧ (entryOf u p f).watchDeadline = none
  u.Undisturbed → u.Resting →
  ((∀ p f, still p f) → answer = .next u)
    ∧ ∀ (p : Pos) (f : Code) (b : BlockNo) (e : DirEntry) (r : FnRecord) (fl : Flight), ¬ still p f →
        (∀ q g, (q, g) ≠ (p, f) → still q g) → u.line.flight = some fl → u.Bound p f b e r → r.point ≤ 63 →
        permits u e.policyClass r.fnClass .tsm = false → (entryOf u p f).override = none → u.delivery.owed.get p = [] →
        stopInFlight u p f = false →
        answer = .next (setOffers (fun os => os ++ [stopOffer p f r.point])
          (reference b (modOwed p (fun _ => [{ code := f, notBefore := none }]) u)))

end Sys2Proof.Machine
end

