-- ==== Sys2Proof/Certificates/Slice0/Obligations.lean ====
section
/-! DEFINITION. The statements for the provers. Each names the rules of the manual it formalises; `State.Quiet`,
`State.Serving`, `State.InFlight`, `State.AtRest` and `State.Bound` (Safety.lean) are conditions under which a command's whole
effect is given. -/

open Sys2Proof Sys2Proof.Machine

/-! ## The machine -/

/-- One step takes the command at the front of the queue and is that command's effect on the state with the queue's rest.
The queue of waiting commands is the model's own (notes/assumptions/1.md). -/
def Obligations.StepRunsFrontCommand : Prop :=
  ∀ (c : Instr) (rest : List Instr) (s : State), s.pending = c :: rest → step s = exec c { s with pending := rest }

/-- Every command has an effect in every state: no step faults and none is refused; that a command whose event has not come
about changes nothing, in place of a fault, is the model's choice (notes/assumptions/1.md, notes/assumptions/2.md). With no
command waiting, one step is one tick of 1 µs: the clock and, of the LOST positions under no release, the LOST timer
advance, and nothing else changes (the model's choice, notes/assumptions/2.md; R183). -/
def Obligations.EveryStepAnswersNext : Prop :=
  (∀ s : State, ∃ t, step s = .next t)
    ∧ (∀ s : State, s.pending = [] → ∃ t, step s = .next t ∧ t.now = s.now + 1
         ∧ t = { s with now := s.now + 1, consist := { s.consist with table := t.consist.table } }
         ∧ ∀ p, posRec t p = (if underRelease s p then posRec s p
             else { posRec s p with lostTimer := (posRec s p).lostTimer.map fun n => min (ms 30000) (n + 1) }))

/-- What power-on reset leaves in the tables whose reset contents the manual gives: the Policy Table (R105), the Wired
Profile (R119), the timebases (R116), the line records (R118), the settings (R16, R125, R148), the Command Table (R13), the
motion state (R17) and the start-up sweep (R37); and that this state meets every invariant stated below. That the sweep's
RELEASE to position 4 is in flight, and not only on offer, is read from the rules (notes/assumptions/7.md). That no notice
is left unacted on is of the model's own list of notices (notes/assumptions/3.md). -/
def Obligations.ResetContents : Prop :=
  (∀ c d, State.reset.policy.table.get (policyIndex c d) = if d = 0 then 0#6 else 63#6)
    ∧ (∀ k, wiredOf State.reset k =
        { code := some (([16, 17, 2, 0, 1, 4, 5, 36] : List Code).getD k.val 0), timebase := .a, comp := .resistive,
          trip := 15000, tLo := 20, tHi := 20, openMin := 40 })
    ∧ (∀ t, (timebase State.reset t).period = 4999 ∧ (timebase State.reset t).pending = none)
    ∧ (∀ k, lineRec State.reset k =
        { onCount := 0, pendingOn := 0, exercise := false, trip := false, hold := none, settle := 2, lastSense := none })
    ∧ State.reset.settings = { vref := 24000, stale := 500, window := 400, tolerance := 20, threshold := 20 }
    ∧ (∀ f, commandOf State.reset f = { value := 0, kind := none, since := none, fresh := false, neverUpdated := true })
    ∧ State.reset.decoder.motion = .moving ∧ (∀ p, stateOf State.reset p = .vacant)
    ∧ State.reset.line.flight.map (fun fl => (fl.offer.op, fl.offer.pos)) = some (.release, 4)
    ∧ State.reset.WithinCapacity ∧ State.reset.SequenceBounded ∧ State.reset.DecodeSound ∧ State.reset.CommandsSound
      ∧ State.reset.ConfigInRange ∧ State.reset.OnCountsBounded ∧ State.reset.TrippedOff ∧ State.reset.SettleBounded
      ∧ State.reset.IdleLine ∧ State.reset.WatchesSound
      ∧ State.reset.ListsBounded ∧ State.reset.BlocksOwned ∧ State.reset.RunUnbroken
      ∧ State.reset.notices = []

/-! ## Invariants of every step -/

/-- R32, R113, R132, R144, R145, R169, R192, R197: no step takes the Fault List, the transmit queue, the Request List, the
Exercise Queue, a Contributor List or sample set, a pending list of opportunistic checks, the result buffer or an unheard
counter past its capacity. -/
def Obligations.EveryStepKeepsCapacities : Prop :=
  ∀ s t : State, s.WithinCapacity → s.SequenceBounded → step s = .next t → t.WithinCapacity ∧ t.SequenceBounded

/-- R49, R55, R90, R109, R132, R155, R163: no step starts a watch of a function other than an ACTUATOR, pins more than 12
blocks, takes the owed stops of a position past a set of 64 ACTUATOR codes, a capture of a stream or the required lamps past
64, an exercise plan past 72 lamp items, 8 groups and 128 first reads, or a round past 16 functions, and none puts a second
entry for a function into a Contributor List. The premise on the notices says that the model's own list of them is empty
(notes/assumptions/3.md). -/
def Obligations.EveryStepKeepsLists : Prop :=
  ∀ s t : State, s.notices = [] → s.WatchesSound → s.ListsBounded → step s = .next t → t.WatchesSound ∧ t.ListsBounded

/-- R80: in every state a step reaches, each binding block is FREE with no owner and no valid row, or owned by one group of
one position whose group record names it, and no group record names a block it does not own. -/
def Obligations.EveryStepKeepsBlocks : Prop :=
  ∀ s t : State, s.BlocksOwned → step s = .next t → t.BlocksOwned

/-- R38, R39, R56, R175: after every command the positions that are not VACANT form an unbroken run beginning at position 1,
and those above the one an active release works on are VACANT. An ASSIGN of a pass that ends Heard and Ready while a release
is at work takes no node, so that the run stays unbroken: that R39 is read so is notes/assumptions/38.md. Left out is the
end of an ASSIGN alone in a state whose release is active and works on no position, which no command leaves. The premise on
the notices says that the model's own list of them is empty (notes/assumptions/3.md). -/
def Obligations.EveryStepKeepsRun : Prop :=
  ∀ (c : Instr) (s t : State), s.notices = [] → s.RunUnbroken →
    (s.consist.release.active = true → s.consist.release.current = none → (c = .replyDeadline ∨ ∃ r, c = .transactionEnd r) →
      ∀ fl n, s.line.flight = some fl → fl.offer.why ≠ .enumAssign n) →
    exec c s = .next t → t.RunUnbroken

/-- R1, R4, R13, R16, R116, R119, R125, R148, R195: no step puts into the Decode Table an entry that R4 bars (an identifier
out of its format's range or within 6A0h to 6CFh, a field beyond 64 bits, a width or a function code its kind does not have,
a second SPEED entry), nor into the Command Table a value that its function code's kind does not have (a SENSOR code keeps 0
and its never-updated marker), and none takes a setting, a Wired Profile field or a period out of its range. -/
def Obligations.EveryStepKeepsTables : Prop :=
  (∀ s t : State, s.DecodeSound → s.CommandsSound → step s = .next t → t.DecodeSound ∧ t.CommandsSound)
    ∧ ∀ s t : State, s.ConfigInRange → step s = .next t → t.ConfigInRange

/-- R118, R120, R124, R127, R128: no step takes an on-count of a direct line past P + 1 of the timebase that drives the
line, given that the Command Table is sound, but for the pending on-count of a line that has left its old timebase until the
next period of its new one begins; in every state a step reaches, a line whose own trip flag or whose group's is set has
on-count in force 0; and no settle count leaves 0 to 2. -/
def Obligations.EveryStepKeepsLines : Prop :=
  (∀ s t : State, s.DecodeSound → s.CommandsSound → s.OnCountsBounded → step s = .next t → t.OnCountsBounded)
    ∧ ∀ s t : State, s.TrippedOff → s.SettleBounded → step s = .next t → t.TrippedOff ∧ t.SettleBounded

/-- R34: no step leaves an offer standing at a free line. That an offer to an idle line is granted within the command that
makes it is read from that rule (notes/assumptions/7.md). R35: a transaction in flight is never preempted. Whatever comes
but its own end (a reply, its deadline, the end of a POLL's window) or a reset, it is in flight afterwards with the same
offer and deadline; only its discard mark may have been set (R36). The premise there says that the model's own list of
notices is empty (notes/assumptions/3.md). -/
def Obligations.EveryStepKeepsTheLine : Prop :=
  (∀ s t : State, s.IdleLine → step s = .next t → t.IdleLine)
    ∧ ∀ (c : Instr) (s t : State), s.notices = [] →
      (match c with
        | .powerOnReset _ _ | .deviceReset _ | .transactionEnd _ | .replyDeadline | .pollWindowEnd _ => False
        | _ => True) →
      exec c s = .next t → FlightKept t s

/-! ## Direct lines -/

/-- R122. The on-count of a level L of 0 to 255 under a period P is D_base, except in RESISTIVE mode with L of 1 to 254,
where it is D_base × V_ref² / V_c² rounded down, at most P + 1, and at least 1 where D_base is; V_c is the supply reading
clamped to V_ref / 2 to V_ref × 3 / 2, or V_ref itself without a reading. It lies in 0 to P + 1; compensation turns no lit
lamp off; a level of 0 or 255 is not compensated. -/
def Obligations.OnCountOfALevel : Prop :=
  ∀ (level period vref : Nat) (comp : CompMode) (supply : Option Nat), level ≤ 255 → vref = 12000 ∨ vref = 24000 →
    let base := level * (period + 1) / 255
    let vc := (supply.map fun v => max (vref / 2) (min v (vref * 3 / 2))).getD vref
    onCountOf level period comp vref supply ≤ period + 1
      ∧ (0 < base → 0 < onCountOf level period comp vref supply)
      ∧ (comp = .none ∨ level = 0 ∨ level = 255 → onCountOf level period comp vref supply = base)
      ∧ (level = 0 → base = 0) ∧ (level = 255 → base = period + 1)
      ∧ (comp = .resistive → 0 < level → level < 255 →
          onCountOf level period comp vref supply =
            max (min (base * vref ^ 2 / vc ^ 2) (period + 1)) (if 0 < base then 1 else 0))

/-- R116, R117, R120, R124, PERIOD_BOUNDARY: the next period of the timebase begins, with its pending period where one is
held. Each line the timebase goes on driving takes its pending on-count, which for a new period, and for a line that has
moved to the timebase, is computed anew, or in HOLD clamped; or 0 while tripped; and settle count 2 with an on-count of 0. A
line whose profile names the other timebase moves to it with on-count 0 and settle count 2, in HOLD with its pending
on-count as it was; every line of the other timebase, and everything else, is left as it was. That a line that moves has its
pending on-count computed at the move already, with the period of the timebase it moves to, that it is not sampled before
its next period there, and that a line which has moved and whose profile names the old timebase again leaves at the end of a
period of the new one, is read from the rules (notes/assumptions/32.md). That a line in HOLD that leaves at the very period
end at which a pending period applies is not clamped to that period, R117 and R120 not ordering the two, is the model's
choice (notes/assumptions/32.md). That the clock goes on to the moment of a timer whose command comes before it is the
model's choice (notes/assumptions/2.md). -/
def Obligations.PeriodBegins : Prop :=
  ∀ (tb : TbName) (s : State), ∃ t, exec (.periodBoundary tb) s = .next t
    ∧ (let at' := (timebase s tb).start + (timebase s tb).period + 1
       let pend := fun (k : LineNo) (p : Nat) =>
         if (lineRec s k).hold.isSome then min (lineRec s k).pendingOn (p + 1)
         else onCountOf (levelOf s k) p (wiredOf s k).comp s.settings.vref s.direct.supply
       let fresh := (timebase s tb).pending.getD (timebase s tb).period
       let taken := fun (k : LineNo) =>
         if (timebase s tb).pending = none ∧ (lineRec s k).joining = false then (lineRec s k).pendingOn else pend k fresh
       let put := fun (k : LineNo) => if tripped s k then 0 else taken k
       t = { advanceTo at' s with direct := { s.direct with
              tbA := t.direct.tbA, tbB := t.direct.tbB, lines := t.direct.lines } }
         ∧ (∀ x, timebase t x = if x = tb then
              { period := fresh, pending := none, start := at' }
            else timebase s x)
         ∧ ∀ k, lineRec t k =
            if (lineRec s k).tb ≠ tb then lineRec s k
            else if (wiredOf s k).timebase = tb then
              { lineRec s k with onCount := put k, pendingOn := taken k, sampled := false, joining := false,
                                 settle := if put k = 0 then 2 else (lineRec s k).settle }
            else
              { lineRec s k with tb := (wiredOf s k).timebase, onCount := 0, settle := 2, sampled := true, joining := true,
                                 pendingOn := if (lineRec s k).hold.isSome then (lineRec s k).pendingOn
                                   else pend k (timebase s (wiredOf s k).timebase).period })

/-- R126, R127, R136, R137, R139, R147, SENSE_SAMPLE at the sample tick of a line with an on-count in force: below 50 no
sample is taken; from 50, the settle count 1 or 2 falls by one; at settle count 0 the code is kept as the last sense code,
and where code × 5 lies below the trip current it joins its circuit's sample set, or is discarded while the coupling state
is ABSENT or the circuit OVERFULL. The fourth code of a set is evaluated at once and the set emptied. An outcome that
differs from the last evaluation only becomes it; one that equals it is established: where it differs from the reported
outcome it becomes that, and each contributor's class, or that of (1, f) of a wired trailer, is written from it, with the
RESULT frame of each changed result. An establishment that equals the reported outcome writes nothing: R139 says so, and
says of (1, f) that the established class is also written, so that nothing is written to (1, f) then is the model's choice
(notes/assumptions/31.md). An establishment ends the check of its circuit in the slot, no entry waiting: the slot is free,
and of a WINDOW, here of a circuit with no contributors, the exercise flag is clear and the pending on-count that of the
level beneath. Nothing else changes. That the clock goes on to the moment of a timer whose command comes before it is the
model's choice (notes/assumptions/2.md). -/
def Obligations.SampleTick : Prop :=
  ∀ (k : LineNo) (code : Nat) (s : State) (m : Time), s.notices = [] → sampleMoment s k = some m →
    let s1 := modLine k (fun l => { l with sampled := true }) (advanceTo m s)
    ((lineRec s k).onCount < 50 → exec (.senseSample k code) s = .next s1)
      ∧ (50 ≤ (lineRec s k).onCount → 0 < (lineRec s k).settle →
          exec (.senseSample k code) s = .next (modLine k (fun l => { l with settle := l.settle - 1 }) s1))
      ∧ (50 ≤ (lineRec s k).onCount → (lineRec s k).settle = 0 → code * 5 < (wiredOf s k).trip →
          let s2 := modLine k (fun l => { l with lastSense := some code }) s1
          (s.consist.cplPresent = false ∨ (circuitRec s k).overfull = true → exec (.senseSample k code) s = .next s2)
            ∧ (s.consist.cplPresent = true → (circuitRec s k).overfull = false → (circuitRec s k).samples.length < 3 →
                exec (.senseSample k code) s =
                  .next (modCircuit k (fun c => { c with samples := c.samples ++ [code] }) s2))
            ∧ (let o := evaluate s k ((circuitRec s k).samples ++ [code])
               let s3 := modCircuit k (fun c => { c with samples := [], last := some o }) s2
               let s4 := modCircuit k (fun c => { c with reported := some o }) s3
               s.consist.cplPresent = true → (circuitRec s k).overfull = false → (circuitRec s k).samples.length = 3 →
               ((circuitRec s k).last ≠ some o → exec (.senseSample k code) s = .next s3)
                 ∧ ((circuitRec s k).last = some o →
                   let written := if (circuitRec s k).reported = some o then s3 else s4.reporting k o
                   (s.Reportable k → exec (.senseSample k code) s = .next written)
                     ∧ ∀ sl : Slot, s.check.slot = some sl → sl.entry.target = .circuit k → s.check.queue = [] →
                       let u := State.slotFreed k sl.window written
                       State.Reportable { s with check := { s.check with slot := none } } k →
                       (sl.window = true → (circuitRec s k).contributors = [] ∧ u.Resting) →
                       exec (.senseSample k code) s = .next u)))

/-- R127, R139, R140, R147, SENSE_SAMPLE with code × 5 at or above the trip current: the line trip flag is set, the on-count
in force 0 and the settle count 2 at once, the hold ended, and LINE-TRIP recorded with the line number as detail. While the
coupling state is ABSENT nothing else changes; while it is PRESENT the sample set of the circuit is discarded, its last
evaluation none and its reported outcome SHORT, which is written to each contributor, or to (1, f) of a wired trailer, with
the RESULT frame of each changed result, and nothing else changes but that a check of the circuit in the slot ends, no entry
waiting: the slot is free, and of a WINDOW, here of a circuit with no contributors, the exercise flag is clear and the
pending on-count that of the level beneath (R147). The pending on-count that a trip leaves in HOLD and the circuit record
that a trip while ABSENT leaves are read from the rules (notes/assumptions/32.md, notes/assumptions/31.md). That the clock
goes on to the moment of a timer whose command comes before it is the model's choice (notes/assumptions/2.md). -/
def Obligations.LineTrips : Prop :=
  ∀ (k : LineNo) (code : Nat) (s : State) (m : Time), s.notices = [] → sampleMoment s k = some m →
    50 ≤ (lineRec s k).onCount → (lineRec s k).settle = 0 → (wiredOf s k).trip ≤ code * 5 →
    let s1 := modLine k (fun l => { l with sampled := true, lastSense := some code, trip := true, onCount := 0, settle := 2 })
      (advanceTo m s)
    (∃ t, exec (.senseSample k code) s = .next t ∧ Untouched t s1)
      ∧ (let tripped := modLine k (fun l => { l with hold := none }) s1
         let short := modCircuit k (fun c => { c with samples := [], last := none, reported := some { cls := .short } }) tripped
         let fault : FaultRecord :=
           { kind := .lineTrip, pos := none, code := (wiredOf s k).code, access := none, detail := k.val, followed := false }
         let recorded := fun (t : State) => { t with policy := { s.policy with faults := addFault fault s.policy.faults } }
         (s.consist.cplPresent = false → s.check.slot = none → exec (.senseSample k code) s = .next (recorded tripped))
           ∧ (s.consist.cplPresent = true → s.Reportable k →
             exec (.senseSample k code) s = .next (recorded (short.reporting k { cls := .short })))
           ∧ ∀ sl : Slot, s.check.slot = some sl → sl.entry.target = .circuit k → s.check.queue = [] →
             s.consist.cplPresent = true → State.Reportable { s with check := { s.check with slot := none } } k →
             let u := State.slotFreed k sl.window (recorded (short.reporting k { cls := .short }))
             (sl.window = true → (circuitRec s k).contributors = [] ∧ u.Resting) → exec (.senseSample k code) s = .next u)

/-- R128, R140. GROUP_TRIP: an assertion of a fault input that was deasserted, while the group trip flag is clear, sets the
flag and takes the on-count in force of the group's four lines to 0 and their settle counts to 2. No check holding the slot,
their holds are ended and one GROUP-TRIP fault is recorded with detail 0 for FA or 1 for FB; while the coupling state is
PRESENT each circuit whose line was lit loses its sample set and last evaluation and has SHORT reported, which is written to
each contributor, or to (1, f) of a wired trailer, with the RESULT frame of each changed result; and nothing else changes.
An assertion while the flag is set changes what the input reads and nothing more. FAULT_INPUT_DEASSERTED: what the input
reads changes; the group trip flag and all else stays. The pending on-count that a trip leaves in HOLD and the circuit
records that a trip while ABSENT leaves are read from the rules (notes/assumptions/32.md, notes/assumptions/31.md). That the
RESULT frames of several lit circuits stand in the order of ascending lines, which R128 and R140 do not order, is the
model's choice (notes/assumptions/6.md). -/
def Obligations.FaultInputsAct : Prop :=
  (∀ (g : FaultGroup) (s : State), s.notices = [] → faultInput s g = false →
      (groupTripped s g = true → exec (.groupTrip g) s = .next (setFaultInput g true s))
        ∧ (groupTripped s g = false →
            let off := fun (l : Line) => { l with onCount := 0, settle := 2 }
            let in' := fun (k : LineNo) => decide (k ∈ groupLines g)
            ∃ t, exec (.groupTrip g) s = .next t
              ∧ (∀ k, (lineRec t k).core = if in' k then (off (lineRec s k)).core else (lineRec s k).core)
              ∧ (∀ x, groupTripped t x = (groupTripped s x || decide (x = g)))
              ∧ (∀ x, faultInput t x = (faultInput s x || decide (x = g)))
              ∧ (let lit := (groupLines g).filter fun k => s.consist.cplPresent && decide ((lineRec s k).onCount ≠ 0)
                 s.check.slot = none → (∀ k ∈ lit, s.Reportable k) →
                  let fault : FaultRecord :=
                    { kind := .groupTrip, pos := none, code := none, access := none, detail := if g = .fa then 0 else 1,
                      followed := false }
                  let u : State := { s with
                    direct := { t.direct with
                      tbA := s.direct.tbA, tbB := s.direct.tbB, wired := s.direct.wired, supply := s.direct.supply,
                      nextSupply := s.direct.nextSupply }
                    policy := { s.policy with faults := addFault fault s.policy.faults } }
                  t = lit.foldl (fun v k => State.reporting k { cls := .short }
                        (modCircuit k (fun c => { c with samples := [], last := none, reported := some { cls := .short } }) v)) u
                    ∧ ∀ k, lineRec t k = if in' k then { off (lineRec s k) with hold := none } else lineRec s k)))
    ∧ (∀ (g : FaultGroup) (s : State), ∃ t, exec (.faultInputDeasserted g) s = .next t
        ∧ t = { s with direct := { s.direct with faultA := t.direct.faultA, faultB := t.direct.faultB } }
        ∧ ∀ x, faultInput t x = (faultInput s x && decide (x ≠ g)))

/-- R123, R125, SUPPLY_READING: the reading replaces the last, the next comes 10 ms on, and the pending on-count of each
line in RESISTIVE mode whose level is 1 to 254, and which is not in HOLD, is computed with the new reading; nothing else
changes. R131, R146, HOLD_TIMEOUT: a hold that reaches the stale timeout ends with pending on-count 0; where an exercise
window stands open on the circuit its exercise flag is set then, and the pending on-count is that of level 255. Nothing else
changes. That the clock goes on to the moment of a timer whose command comes before it is the model's choice
(notes/assumptions/2.md). -/
def Obligations.SupplyAndHoldsAct : Prop :=
  (∀ (mv : Nat) (s : State), ∃ t, exec (.supplyReading mv) s = .next t
     ∧ t = { advanceTo s.direct.nextSupply s with direct := { s.direct with
             supply := some mv, nextSupply := s.direct.nextSupply + ms 10, lines := t.direct.lines } }
     ∧ ∀ k,
         let d := onCountOf (levelOf s k) (timebase s (lineRec s k).tb).period .resistive s.settings.vref (some mv)
         lineRec t k =
           if (wiredOf s k).comp = .resistive ∧ 0 < levelOf s k ∧ levelOf s k < 255 ∧ (lineRec s k).hold = none then
             { lineRec s k with pendingOn := d }
           else lineRec s k)
    ∧ (∀ (k : LineNo) (s : State) (h : Time), (lineRec s k).hold = some h →
         let s1 := advanceTo (h + ms s.settings.stale) s
         (windowOn s k = false →
             exec (.holdTimeout k) s = .next (modLine k (fun l => { l with hold := none, pendingOn := 0 }) s1))
           ∧ (windowOn s k = true → exec (.holdTimeout k) s =
               .next (modLine k (fun l =>
                 { l with hold := none, exercise := true, pendingOn := (timebase s l.tb).period + 1 }) s1)))

/-! ## The Tractor Port -/

/-- R197, R198, R199. CONSIST_TIMER: the timer runs on by 100 ms and a CONSIST frame is placed. In the place of the one that
waits it carries the tx-overrun flag, and the bit set where the replaced frame had it, and clears the flag; with none
waiting and a place free it stands at the tail, likewise; with none waiting and the queue full it is dropped and the flag
set. RESULT_REFRESH: while 8 frames or more are queued nothing is placed; with fewer, the first place in the order of
positions, groups and halves whose refresh time has passed places its RESULT frame, in the place of the one of its key that
waits, or else at the tail, and its next refresh time is 1000 ms on while it qualifies. Nothing else changes. That the clock
goes on to the moment of a timer whose command comes before it is the model's choice (notes/assumptions/2.md). R197,
FRAME_TRANSMISSION_START and FRAME_SENT: the head frame is marked as in transmission, which its contents then keep; sent, it
leaves the queue, and R196 is told of the RESET-DEVICE reply. With the queue empty neither changes anything (the model's
choice, notes/assumptions/2.md). That one RESULT_REFRESH places one frame, and that a frame may be sent without the start of
its transmission having been commanded, are the model's choices (notes/assumptions/29.md). -/
def Obligations.FramesArePlacedAndSent : Prop :=
  (let waits := fun (k : FrameKey) (f : TxFrame) => f.key = some k ∧ f.sending = false
   (∀ s : State,
       let s1 := advanceTo s.port.consistAt s
       let sent := fun (queue : List TxFrame) =>
         ({ s1 with port := { s.port with consistAt := s.port.consistAt + ms 100, overrun := false, queue := queue } } : State)
       (∀ (pre post : List TxFrame) (f : TxFrame), s.port.queue = pre ++ f :: post → waits .consist f →
           (∀ x ∈ pre ++ post, ¬ waits .consist x) → exec .consistTimer s = .next (sent
             (pre ++ { f with data := consistData s (s.port.overrun || (f.data.getD 2 0).getLsbD 2) } :: post)))
         ∧ ((∀ f ∈ s.port.queue, ¬ waits .consist f) →
           (s.port.queue.length < 16 → exec .consistTimer s = .next (sent (s.port.queue ++
               [{ key := some .consist, id := 0x6C0 + 4 * s.port.node.val, data := consistData s s.port.overrun }])))
             ∧ (16 ≤ s.port.queue.length → exec .consistTimer s = .next { s1 with port := { s.port with
               consistAt := s.port.consistAt + ms 100, overrun := true } })))
     ∧ (∀ s : State,
         (8 ≤ s.port.queue.length → exec .resultRefresh s = .next s)
           ∧ ∀ (m : Time) (p : Pos) (g : Group) (half : Bool), s.port.queue.length < 8 → refreshMoment s = some m →
               let s1 := advanceTo m s
               firstRefresh s1 = some (p, g, half) → qualifies s1 p g half = true →
               let sent := fun (queue : List TxFrame) =>
                 setRefresh p g half (some (s1.now + ms 1000)) { s1 with port := { s.port with queue := queue } }
               (∀ (pre post : List TxFrame) (f : TxFrame), s.port.queue = pre ++ f :: post → waits (.result p g half) f →
                   (∀ x ∈ pre, ¬ waits (.result p g half) x) → exec .resultRefresh s =
                     .next (sent (pre ++ { f with data := resultData s1 p g half } :: post)))
                 ∧ ((∀ f ∈ s.port.queue, ¬ waits (.result p g half) f) → exec .resultRefresh s = .next (sent (s.port.queue ++
                     [{ key := some (.result p g half), id := 0x6C0 + 4 * s.port.node.val + 1,
                        data := resultData s1 p g half }])))))
    ∧ (∀ s : State,
         (s.port.queue = [] → exec .frameTransmissionStart s = .next s ∧ exec .frameSent s = .next s)
           ∧ ∀ (f : TxFrame) (fs : List TxFrame), s.port.queue = f :: fs →
               exec .frameTransmissionStart s =
                   .next { s with port := { s.port with queue := { f with sending := true } :: fs } }
                 ∧ ((∀ r bs, s.management.head ≠ .answered r bs) →
                     exec .frameSent s = .next { s with
                       port := { s.port with queue := fs }
                       management := { s.management with resetSent := s.management.resetSent || f.resetReply } }))

/-! ## The Consist Memory -/

/-- R186, R187, RECORD_WRITE_COMPLETE and REBUILD_COMPLETE, no other write waiting: the store holds the record with its
checksum, CONFIG-MISMATCH of the position is cleared, a rebuild leaves every other record absent, the restart code NONE and
MEMORY-INVALID clear, and no write is in progress. R189, HEADER_WRITE_COMPLETE: the header holds the code written, with its
checksum. A write of DEVICE-RESET is followed by the reply OK of RESET-DEVICE, which keeps the head of the Request List, and
whose placing starts the wait for the reset (R196); a write of NONE at a start is followed by nothing. R188, R189.
FORGET-CONSIST discards every pending write and RESET-DEVICE takes none; with no write in progress the forget write, or the
header write of the code DEVICE-RESET (a forget write while MEMORY-INVALID is set), begins, and with one in progress it
waits for it; the request keeps the head of the list. FORGET_WRITE_COMPLETE of FORGET-CONSIST: every record is absent, the
checksum holds, MEMORY-INVALID and every CONFIG-MISMATCH are cleared, the write has ended and the request is answered OK.
Nothing else changes. When a write completes is left to the command (notes/assumptions/27.md), and the layout behind the
checksum is the model's (notes/assumptions/24.md). -/
def Obligations.StoreWritesComplete : Prop :=
  (∀ (s : State) (p : Pos) (c : Remembered), (∀ q, s.memory.pendingWrites.get q = none) → handedCode s ≠ some 24 →
     resetting s = false →
     (s.memory.writing = some (.record p c) → ∃ t, exec .recordWriteComplete s = .next t
         ∧ t = { s with memory := { s.memory with
               store := t.memory.store, mismatch := s.memory.mismatch.put p false, writing := none } }
         ∧ t.memory.store.records = s.memory.store.records.put p (some c) ∧ t.memory.store.code = s.memory.store.code
         ∧ checksumHolds t.memory.store = true)
       ∧ (s.memory.writing = some (.rebuild p c) → ∃ t, exec .rebuildComplete s = .next t
         ∧ t = { s with memory := { s.memory with
               store := t.memory.store, invalid := false, mismatch := s.memory.mismatch.put p false, writing := none } }
         ∧ t.memory.store.records = (Tab.fill none).put p (some c) ∧ t.memory.store.code = .none
         ∧ checksumHolds t.memory.store = true))
    ∧ (∀ s : State,
         (s.memory.writing = some (.header .none) → (∀ q, s.memory.pendingWrites.get q = none) → handedCode s ≠ some 24 →
             resetting s = false →
             ∃ t, exec .headerWriteComplete s = .next t
               ∧ t = { s with memory := { s.memory with store := t.memory.store, writing := none } }
               ∧ t.memory.store.code = .none ∧ t.memory.store.records = s.memory.store.records
               ∧ checksumHolds t.memory.store = true)
           ∧ ∀ (r : Request) (rest : List Request), s.memory.writing = some (.header .deviceReset) →
             s.management.requests = r :: rest → s.port.queue.length < 16 →
             ∃ t, exec .headerWriteComplete s = .next t
               ∧ t = { s with
                   memory := { s.memory with store := t.memory.store, writing := none }
                   port := { s.port with queue := s.port.queue ++
                     [{ key := none, id := 0x6B0 + s.port.node.val, data := [r.code, r.tag, 0], resetReply := true }] }
                   management := { s.management with head := .handed, resetPlaced := some s.now } }
               ∧ t.memory.store.code = .deviceReset ∧ t.memory.store.records = s.memory.store.records
               ∧ checksumHolds t.memory.store = true)
    ∧ (∀ (s : State) (r : Request) (rest : List Request),
        (s.Serving 24 r rest → exec .forgetConsist s = .next (State.held { s with memory := { s.memory with
            pendingWrites := Tab.fill none
            writing := if s.memory.writing = none then some (.forget s.memory.store.code false) else s.memory.writing } }))
          ∧ (s.Serving 25 r rest → exec .resetDevice s = .next (State.held { s with memory := { s.memory with
            writing :=
              if s.memory.writing = none then
                some (if s.memory.invalid then .forget .deviceReset true else .header .deviceReset)
              else s.memory.writing } })))
    ∧ (∀ (s : State) (r : Request) (rest : List Request) (code : RestartCode),
        s.memory.writing = some (.forget code false) → s.management.requests = r :: rest → s.management.head = .handed →
        r.code.toNat = 24 → s.port.queue.length < 16 → (∀ x, rest.head? = some x → knownCode x.code = true) →
        (∀ q, s.memory.pendingWrites.get q = none) →
        ∃ t, exec .forgetWriteComplete s = .next t
          ∧ t = State.replied { s with memory := { s.memory with
                store := t.memory.store, invalid := false, mismatch := Tab.fill false, writing := none } } r rest .ok []
          ∧ t.memory.store.records = Tab.fill none ∧ t.memory.store.code = code ∧ checksumHolds t.memory.store = true)

/-! ## What arrives on the tractor's channel -/

/-- R8, R9, R10, R11, R12: what the kinds make of a raw value. ACTUATOR converts 0 to 0, 1 to 1, 2 to 2 and any other value
to 0, whatever the width of the field, so that every raw value yields a value. Of a field of width w, SWITCH converts 0 and
1 alone, PHASE and LEVEL every value, SPEED every value but all ones; and no LAMP value lies above 255. -/
def Obligations.FieldConversions : Prop :=
  (∀ w raw : Nat, convertField .actuator w raw = some (if raw = 1 then 1 else if raw = 2 then 2 else 0))
    ∧ ∀ w raw : Nat, 1 ≤ w → w ≤ 8 → raw < 2 ^ w →
      convertField .switch w raw = (if raw = 0 then some 0 else if raw = 1 then some 255 else none)
        ∧ convertField .phase w raw = some (if raw = 0 then 0 else 255)
        ∧ (∃ v, convertField .level w raw = some v ∧ v ≤ 255 ∧ v * (2 ^ w - 1) ≤ raw * 255
            ∧ raw * 255 < (v + 1) * (2 ^ w - 1) ∧ (raw = 0 → v = 0) ∧ (raw = 2 ^ w - 1 → v = 255))
        ∧ convertField .speed w raw = (if raw = 2 ^ w - 1 then none else some raw)

/-- R191, R192, R189, CAN_FRAME_RECEIVED of a request of this part: with fewer than 4 requests held one of a known code
joins the list's tail, and the restart cause becomes none; with 4 held it is answered BUSY, its reply placed at the tail of
the queue, or dropped with the tx-overrun flag set where the queue is full. A frame of fewer than 2 bytes changes nothing.
Nothing else changes. -/
def Obligations.RequestIsTaken : Prop :=
  ∀ (f : CanFrame) (s : State), f.remote = false → f.format = .standard → f.id = 0x6A0 + s.port.node.val →
    (dataLength f < 2 → exec (.canFrameReceived f) s = .next s)
      ∧ ∀ (code tag : Byte) (args : List Byte), frameBytes f = code :: tag :: args →
          (s.management.requests.length < 4 → knownCode code = true →
            exec (.canFrameReceived f) s = .next { s with
              management := { s.management with
                requests := s.management.requests ++ [{ code := code, tag := tag, args := args }] }
              memory := { s.memory with cause := none } })
          ∧ (4 ≤ s.management.requests.length →
              (s.port.queue.length < 16 →
                let reply : TxFrame := { key := none, id := 0x6B0 + s.port.node.val, data := [code, tag, 2] }
                exec (.canFrameReceived f) s = .next { s with
                  port := { s.port with queue := s.port.queue ++ [reply] } })
              ∧ (16 ≤ s.port.queue.length →
                exec (.canFrameReceived f) s = .next { s with port := { s.port with overrun := true } }))

/-- R7, R13, R14, CAN_FRAME_RECEIVED of a frame that one valid entry matches, one that feeds a function code: the field's
value, where it yields one, becomes the code's command value, with the entry's kind, age 0, FRESH and ever updated; where it
yields none nothing changes. No other entry of the Command Table, and nothing else that frames do not reach, changes. R93 to
R99, R123, R131. With the code's targets resting on its command value, the hold of a line fed by the code is ended and its
pending on-count computed anew, as it is of each such line where the value is another; the refusal latch, and of an actuator
the read latch, is cleared by a change, and a delivery that comes due then stands on offer; nothing else changes. R12, R17,
R18, CAN_FRAME_RECEIVED of a frame that the SPEED entry alone matches: the speed becomes the record's, with age 0 and FRESH.
At 3 km/h or more the motion state is MOVING and the stop timer idle; below that STATIONARY stays, and in MOVING 1 or 2 km/h
cancels the stop timer while 0 starts it, or leaves it counting. Nothing else changes without a change of the motion state.
R109, R110. With a change to MOVING the stop of an actuator that may be in motion, and whose permission to move is lacking,
is owed and stands on offer; that this offer moves neither the last-offered nor the last-stopped function is the model's
choice (notes/assumptions/8.md, notes/assumptions/9.md). -/
def Obligations.FramesAreDecoded : Prop :=
  (∀ (f : CanFrame) (s : State) (n : Fin 48) (e : DecodeEntry) (c : Code), s.notices = [] → f.remote = false →
     isRequest s f = false → s.decoder.entries.get n = some e → entryMatches e f = true →
     (∀ m x, s.decoder.entries.get m = some x → entryMatches x f = true → m = n) → e.code = some c →
     (∀ v, (pickField e f).bind (convertField e.kind e.width) = some v →
       let updated : CommandEntry :=
         { value := v, kind := some e.kind, since := some s.now, fresh := true, neverUpdated := false }
       let s1 : State := { s with decoder := { s.decoder with commands := s.decoder.commands.put c updated } }
       (∃ t, exec (.canFrameReceived f) s = .next t ∧ Untouched t s1)
         ∧ (s.Commanded c →
           ((commandOf s c).value = v → exec (.canFrameReceived f) s = .next (s1.relined c false))
             ∧ ((commandOf s c).value ≠ v →
               Delivers (exec (.canFrameReceived f) s) c v (State.retargeted c (s1.relined c true)))))
       ∧ ((pickField e f).bind (convertField e.kind e.width) = none → exec (.canFrameReceived f) s = .next s))
    ∧ (∀ (f : CanFrame) (s : State) (n : Fin 48) (e : DecodeEntry) (v : Nat), s.notices = [] → f.remote = false →
         isRequest s f = false → s.decoder.entries.get n = some e → entryMatches e f = true →
         (∀ m x, s.decoder.entries.get m = some x → entryMatches x f = true → m = n) → e.code = none →
         (pickField e f).bind (convertField e.kind e.width) = some v →
         let u : State := { s with decoder := { s.decoder with
           speed := { speed := some v, since := some s.now, fresh := true }
           motion := if 3 ≤ v then .moving else s.decoder.motion
           stopTimer :=
             if 3 ≤ v then none
             else if s.decoder.motion = .stationary then s.decoder.stopTimer
             else if 1 ≤ v then none
             else some (s.decoder.stopTimer.getD s.now) } }
         (∃ t, exec (.canFrameReceived f) s = .next t ∧ Untouched t u)
           ∧ (v < 3 ∨ s.decoder.motion = .moving → exec (.canFrameReceived f) s = .next u)
           ∧ (3 ≤ v → s.decoder.motion = .stationary → StopsOwed (exec (.canFrameReceived f) s) u))

/-- R15, R17, R18. COMMAND_STALE: a FRESH entry whose age reaches the stale timeout becomes STALE; a PHASE or ACTUATOR entry
falls to 0 and any other keeps its value; a fall that alters the value is a change, which the lines, latches and deliveries
follow as in FramesAreDecoded (R93 to R99, R123). SPEED_STALE: a speed record that reaches the stale timeout keeps its
speed, is stale, cancels the stop timer and leaves MOVING in force, and a change to it owes the stops (R109, R110).
STOP_TIMER_EXPIRY: a stop timer that reaches 2000 ms with the record FRESH makes the motion state STATIONARY and is idle.
Nothing else changes where no delivery is due or on offer and no check has its turn, and in every state nothing beside that
no notice between the blocks reaches. That the clock goes on to the moment of a timer whose command comes before it is the
model's choice (notes/assumptions/2.md), as it is that a stop offered moves neither the last-offered nor the last-stopped
function (notes/assumptions/8.md, notes/assumptions/9.md). -/
def Obligations.StaleTimersRunOut : Prop :=
  (∀ (f : Code) (s : State) (m : Time), s.notices = [] → (commandOf s f).fresh = true → (commandOf s f).since = some m →
      let at' := m + ms s.settings.stale
      let v := if (commandOf s f).kind = some .phase ∨ (commandOf s f).kind = some .actuator then 0 else (commandOf s f).value
      let s1 : State := { advanceTo at' s with decoder := { s.decoder with
        commands := s.decoder.commands.put f { commandOf s f with value := v, fresh := false } } }
      (∃ t, exec (.commandStale f) s = .next t ∧ Untouched t s1)
        ∧ ((commandOf s f).value = v → exec (.commandStale f) s = .next s1)
        ∧ ((commandOf s f).value ≠ v → s.Commanded f → (∀ k, (wiredOf s k).code = some f → (lineRec s k).hold = none) →
          Delivers (exec (.commandStale f) s) f v (State.retargeted f (s1.relined f true))))
    ∧ (∀ (s : State) (m : Time), s.notices = [] → s.decoder.speed.fresh = true →
        (s.decoder.speed.since = some m →
            let s1 := advanceTo (m + ms s.settings.stale) s
            let u : State := { s1 with decoder := { s1.decoder with
              speed := { s1.decoder.speed with fresh := false }, motion := .moving, stopTimer := none } }
            (∃ t, exec .speedStale s = .next t ∧ Untouched t u)
              ∧ (s.decoder.motion = .moving → exec .speedStale s = .next u)
              ∧ (s.decoder.motion = .stationary → StopsOwed (exec .speedStale s) u))
          ∧ (s.decoder.stopTimer = some m →
            let s1 := advanceTo (m + ms 2000) s
            let u : State := { s1 with decoder := { s1.decoder with motion := .stationary, stopTimer := none } }
            (∃ t, exec .stopTimerExpiry s = .next t ∧ Untouched t u)
              ∧ (u.Undisturbed → u.Resting → s.consist.cplPresent = false ∨ s.check.queue = [] →
                exec .stopTimerExpiry s = .next u)))

/-! ## Coupling and enumeration -/

/-- R38, R40, R57, R58, R59, R141, R174, R175, R184. CPL_CHANGE: a change of the level at CPL restarts the hold timer where
the level now differs from the debounced state, and stops it where it agrees; a level that is no change does nothing;
nothing else changes. COUPLING_RISE and COUPLING_FALL: when the hold timer reaches 250 ms the debounced state takes the
level and the timer stops; a rise starts the chain probe with its first expiry 1 s on, and a fall stops it. A rise is an
enumeration trigger: held during a release or the sweep, else the ASSIGN of the lowest VACANT position is offered, with no
pass active and no position LOST; nothing else changes, no entry of the Exercise Queue being free to be taken. A fall ends
the pass by its phase; clears the sample sets, last evaluations, reported outcomes and owed marks, the Exercise Queue, the
slot and the rebuild; writes UNCHECKED to every contributor, with the RESULT frame of each changed result; and has the
release extended to position 1, or begun at the highest position that is not VACANT, whose RELEASE is offered. Nothing else
changes: this is said of a fall with no position EXERCISING, no other rebuild pending, a node lamp not in the slot, and no
identification under way; a fall that finds a WIRED position 1 alone is in PositionsAreReleased. That the clock goes on to
the moment of a timer whose command comes before it is the model's choice (notes/assumptions/2.md), as are that the RESULT
frames of UNCHECKED stand circuit by circuit in ascending order, which R141 does not order (notes/assumptions/6.md), that an
ASSIGN in flight keeps the pass with a mark, and what a pass that has ended reads as (notes/assumptions/17.md). -/
def Obligations.CouplingIsDebounced : Prop :=
  (∀ (present : Bool) (s : State),
      (s.consist.cplLevel = present → exec (.cplChange present) s = .next s)
        ∧ (s.consist.cplLevel ≠ present → exec (.cplChange present) s = .next { s with consist := { s.consist with
            cplLevel := present, cplTimer := if present = s.consist.cplPresent then none else some s.now } }))
    ∧ (∀ (s : State) (m : Time), s.Quiet → s.consist.cplTimer = some m →
        let s1 := advanceTo (m + ms 250) s
        (s.consist.cplLevel = true → s.consist.cplPresent = false →
            let u : State := { s1 with consist := { s1.consist with
              cplPresent := true, cplTimer := none, probeAt := some (s1.now + ms 1000) } }
            let busy := s.consist.pass.active = true ∨ (∃ p, stateOf s p = .lost) ∨ ∀ p, stateOf s p ≠ .vacant
            (∃ t, exec .couplingRise s = .next t ∧ Untouched t u)
              ∧ (s.check.queue = [] ∨ s.decoder.motion = .moving ∨ s.check.slot ≠ none →
                (s.consist.release.active = true → exec .couplingRise s =
                    .next (modRelease (fun r => { r with heldTrigger := true }) u))
                  ∧ (s.consist.release.active = false → s.consist.sweep ≠ none → exec .couplingRise s =
                    .next { u with consist := { u.consist with sweepTrigger := true } })
                  ∧ (s.consist.release.active = false → s.consist.sweep = none → busy → exec .couplingRise s = .next u)
                  ∧ ∀ n, s.consist.release.active = false → s.consist.sweep = none → ¬ busy → lowestVacant s = some n →
                    exec .couplingRise s =
                      .next (makeOffer (assignOffer n) (modPass (fun _ => { active := true, n := some n }) u))))
          ∧ (s.consist.cplLevel = false → s.consist.cplPresent = true →
            let fallen : State := { s1 with consist := { s1.consist with
              cplPresent := false, cplTimer := none, probeAt := none } }
            (∃ t, exec .couplingFall s = .next t ∧ Untouched t fallen)
              ∧ ∀ k : LineNo, (∀ p, stateOf s p ≠ .exercising) →
                (∀ x, (circuitRec s x).rebuildPending = false ∧ (circuitRec s x).contributors.length ≤ 16
                  ∧ ∀ c ∈ (circuitRec s x).contributors, stateOf s c.pos ≠ .vacant) →
                (∀ sl, s.check.slot = some sl → sl.entry.target = .circuit k) → s.check.queue.length ≤ 16 →
                (∀ p, (streamRec s p).identNext = none) →
                let offered := s.consist.pass.active = true ∧ s.consist.pass.phase = .offered
                let isAssign := fun (o : Offer) => match o.why with
                  | .enumAssign _ => true
                  | _ => false
                let ended := setOffers (fun os => if offered then os.filter fun o => !isAssign o else os)
                  (modPass (fun e => if e.active && decide (e.phase = .inFlight) then { e with ending := true }
                    else if e.active then {} else e) fallen)
                let cleared : State := { ended with check := { ended.check with
                  circuits := ended.check.circuits.map fun c =>
                    { c with samples := [], last := none, reported := none, owed := false }
                  queue := [], rebuild := none } }
                let unchecked := (allLines.flatMap fun x => (circuitRec s x).contributors).foldl
                  (fun t c => State.resulting c.pos c.code .unchecked t) cleared
                let u := match s.check.slot with
                  | some sl => State.slotFreed k sl.window unchecked
                  | none => unchecked
                (∀ sl, s.check.slot = some sl → sl.window = true → (circuitRec s k).contributors = [] ∧ u.Resting) →
                (s.consist.release.active = true → s.consist.release.lowest ≠ none → exec .couplingFall s =
                    .next (modRelease (fun r => { r with lowest := some 0 }) u))
                  ∧ (s.consist.release = {} → (∀ p, stateOf s p = .vacant) → exec .couplingFall s = .next u)
                  ∧ ∀ q, s.consist.release.active = false → stateOf s q ≠ .vacant → stateOf s q ≠ .wired →
                    (∀ p, q < p → stateOf s p = .vacant) →
                    exec .couplingFall s = .next (makeOffer (releaseOffer q) (modRelease (fun r =>
                      { r with active := true, lowest := some 0, current := some q, phase := some .offered }) u))))

/-- R38, R59, CHAIN_PROBE: each expiry restarts the probe for 1 s and is an enumeration trigger. With no pass, no release
and no sweep under way, no LOST position, the coupling state PRESENT and n the lowest VACANT position, it starts a pass: the
ASSIGN of n is offered at class 5. Nothing else changes. R38, R39, ENUMERATION_SPACING_END and ENUMERATION_SETTLE_END: the
spacing over, the ASSIGN of the same number is offered again; the settle over, the pass goes on at the lowest VACANT
position while its number is below 4, and ends at 4 or with no position VACANT. Nothing else changes. That an ended pass
reads inactive with no number, no attempts, phase OFFERED and wait 0, and that a settle that finds no VACANT position ends
it, is the model's reading (notes/assumptions/17.md). That the clock goes on to the moment of a timer whose command comes
before it is the model's choice (notes/assumptions/2.md). -/
def Obligations.EnumerationTimersRunOut : Prop :=
  (∀ (s : State) (m : Time) (n : Pos), s.Quiet → s.consist.probeAt = some m → s.consist.pass.active = false →
     s.consist.release.active = false → s.consist.sweep = none → s.consist.cplPresent = true →
     (∀ p, stateOf s p ≠ .lost) → stateOf s n = .vacant → (∀ p, p < n → stateOf s p ≠ .vacant) →
     let s1 := advanceTo m s
     exec .chainProbe s = .next (makeOffer (assignOffer n) { s1 with consist := { s1.consist with
       probeAt := some (m + ms 1000)
       pass := { active := true, n := some n, attempts := 0, phase := .offered } } }))
    ∧ (∀ (s : State) (n : Pos), s.Quiet → s.consist.pass.active = true → s.consist.pass.n = some n →
         let s1 := advanceTo s.consist.pass.wait s
         (s.consist.pass.phase = .spacing → exec .enumerationSpacingEnd s =
             .next (makeOffer (assignOffer n) (modPass (fun e => { e with phase := .offered }) s1)))
           ∧ (s.consist.pass.phase = .settling → ∀ q, n ≠ 3 → lowestVacant s = some q → exec .enumerationSettleEnd s =
             .next (makeOffer (assignOffer q) (modPass (fun e => { e with phase := .offered, n := some q }) s1)))
           ∧ (s.consist.pass.phase = .settling → n = 3 ∨ (∀ p, stateOf s p ≠ .vacant) → exec .enumerationSettleEnd s =
             .next (modPass (fun _ => {}) s1)))

/-- R37, R38, R39, R40, R60, R61, TRANSACTION_END and REPLY_DEADLINE of the ASSIGN of n and of a RELEASE of the start-up
sweep. A Heard and Ready ASSIGN of a VACANT n with the chain in front of it and the coupling sense present hands n to
bring-up: its record is IDENTIFYING, its unheard counter 0 and its word 0 in flight; the pass settles for 20 ms, or is over
where it was ended meanwhile. With that chain broken the RELEASE of n is in flight and the pass over. While a release is in
progress, the RELEASE of n - 1 on offer, the node is not taken either: n stays VACANT, the pass is over, and its RELEASE
stands on offer, that of n - 1 being granted. That R39 and R56 are read so is notes/assumptions/38.md. Any other end takes
no number: an ended pass is over; below the third attempt the ASSIGN waits 50 ms; at the third the pass is over, and for n =
1 with no attempt Heard and coupling PRESENT position 1 is WIRED. A RELEASE of the sweep to position p above 1 is followed,
whatever its outcome, by that of the position below; after that of position 1 the sweep is complete, and a trigger held
during it puts the ASSIGN of position 1 in flight where coupling is PRESENT. Nothing else changes but which RESULT frames
qualify (R199). That the clock goes on to the moment of a timer whose command comes before it is the model's choice
(notes/assumptions/2.md). So are the grant within the command (notes/assumptions/7.md), what a pass that is over reads as
and which ends count as Heard (notes/assumptions/17.md). -/
def Obligations.EnumerationEnds : Prop :=
  (∀ (s : State) (n : Pos) (d : Time), s.InFlight (assignOffer n) d → s.consist.pass.active = true →
      s.consist.pass.n = some n → s.consist.pass.phase = .inFlight → s.consist.release.active = false →
      let e := s.consist.pass
      let front := s.consist.cplPresent = true ∧ ∀ m : Pos, m.val + 1 = n.val → stateOf s m ≠ .vacant
      let pass := fun (e : EnumPass) (s : State) => modPass (fun _ => e) s
      let reply := fun (heard ready : Bool) (x : Option Word) =>
        exec (.transactionEnd { heard := heard, ready := ready, service := false, data := x }) s
      let missed := fun (heard : Bool) (s : State) (answer : Host.Outcome State Fault Refusal) =>
        let wires := n = 0 ∧ (e.heard || heard) = false ∧ s.consist.cplPresent = true ∧ stateOf s 0 = .vacant
        (e.ending = true → answer = .next (pass {} s).free)
          ∧ (e.ending = false → e.attempts < 2 → answer = .next (State.free (pass { e with
              attempts := e.attempts + 1, heard := e.heard || heard, phase := .spacing, wait := s.now + ms 50 } s)))
          ∧ (e.ending = false → 2 ≤ e.attempts → ¬ wires → answer = .next (pass {} s).free)
          ∧ (e.ending = false → 2 ≤ e.attempts → wires → ∃ t, answer = .next t
              ∧ (let u := State.free (modRec 0 (fun r => { r with state := .wired }) (pass {} s))
                 t = { u with port := { u.port with refresh := t.port.refresh } }))
      (∀ x, front → stateOf s n = .vacant → reply true true x = .next
          (State.granted (consistOfferOf (linePos n) .readWord (some 0) none (.identWord n 0))
            (setUnheard n 0 (modStream n (fun r => { r with identNext := some 0, identWords := [] })
              (modRec n (fun _ => { state := .identifying }) (pass (if e.ending then {} else
                { e with phase := .settling, attempts := 0, heard := false, wait := s.now + ms 20 }) s))))))
        ∧ (∀ x, ¬ front → reply true true x = .next
          (State.granted (consistOfferOf (linePos n) .release none none (.strayRelease n)) (setUnheard n 0 (pass {} s))))
        ∧ (∀ x, missed true s (reply true false x))
        ∧ (∀ any x, missed false s (reply false any x))
        ∧ missed false (advanceTo d s) (exec .replyDeadline s))
    ∧ (∀ (s : State) (m n : Pos) (d : Time) (x : Option Word), m.val + 1 = n.val → s.notices = [] →
      s.line.offers = [releaseOffer m] → s.line.flight = some { offer := assignOffer n, deadline := d } → s.now < d →
      s.line.lastServed.get 4 = 0 → s.consist.pass.active = true → s.consist.pass.n = some n →
      s.consist.pass.phase = .inFlight → s.consist.release.active = true → stateOf s n = .vacant →
      let u := modRelease (fun r => { r with phase := some .inFlight }) (setUnheard n 0 (modPass (fun _ => {}) s))
      stateOf u n = .vacant ∧ exec (.transactionEnd { heard := true, ready := true, service := false, data := x }) s = .next
        (setOffers (fun _ => [consistOfferOf (linePos n) .release none none (.strayRelease n)])
          (State.granted (releaseOffer m) u)))
    ∧ (∀ (s : State) (p q : Pos) (d : Time), s.InFlight (sweepOffer p) d → s.consist.sweep = some p → q.val + 1 = p.val →
      (∀ x, inService s x = false) → stateOf s p = .vacant →
      let next := fun (s : State) => State.granted (sweepOffer q) { s with consist := { s.consist with sweep := some q } }
      (∀ r : Reply, exec (.transactionEnd r) s = .next (next (setUnheard p 0 s)))
        ∧ exec .replyDeadline s = .next (next (advanceTo d s)))
    ∧ (∀ (s : State) (d : Time), s.InFlight (sweepOffer 0) d → s.consist.sweep = some 0 →
      (∀ x, inService s x = false) → stateOf s 0 = .vacant →
      let ends := fun (u : State) (answer : Host.Outcome State Fault Refusal) =>
        let done : State := { u with consist := { u.consist with sweep := none, sweepTrigger := false } }
        (s.consist.sweepTrigger = false ∨ s.consist.cplPresent = false → answer = .next done.free)
          ∧ (s.consist.sweepTrigger = true → s.consist.cplPresent = true → s.consist.pass.active = false →
            s.consist.release.active = false → (∀ x, stateOf s x ≠ .lost) → answer = .next (State.granted (assignOffer 0)
              (modPass (fun _ => { active := true, n := some 0, phase := .inFlight }) done)))
      (∀ r : Reply, ends (setUnheard 0 0 s) (exec (.transactionEnd r) s)) ∧ ends (advanceTo d s) (exec .replyDeadline s))

/-! ## The line -/

/-- R34: whenever an offer stands the arbiter chooses one, and its choice is one of the offers standing, of the
lowest-numbered class with an offer, of the first position with an offer of that class in the rotating order after the
class's last-served position, and, where two requesters offer for that class and position, of the one not granted last, or,
none granted yet, of the Consist Controller ahead of the Load Check Unit. -/
def Obligations.ArbiterChooses : Prop :=
  ∀ l : LineCtl, (l.offers ≠ [] → ∃ o, chooseOffer l = some o)
    ∧ ∀ o : Offer, chooseOffer l = some o →
        o ∈ l.offers ∧ (∀ x ∈ l.offers, o.cls ≤ x.cls)
          ∧ ∀ x ∈ l.offers, x.cls = o.cls →
              (o.pos.val + 4 - (l.lastServed.get o.cls).val) % 5 ≤ (x.pos.val + 4 - (l.lastServed.get o.cls).val) % 5
                ∧ (x.pos = o.pos →
                  (∀ r, (l.lastGranted.get o.cls).get o.pos = some r → x.requester ≠ r → o.requester ≠ r)
                    ∧ ((l.lastGranted.get o.cls).get o.pos = none → x.requester ≠ .loadCheckUnit →
                      o.requester ≠ .loadCheckUnit))

/-- R23, R24, R31, R32, R35, R36, R172, TRANSACTION_END, REPLY_DEADLINE and POLL_WINDOW_END. A taken reply is Heard and
Ready with its data, Heard and not Ready or Not Heard without data, whatever the node sent. What an end makes of the unheard
counters follows R32. A reply with no transaction in flight, or at or after the deadline, changes nothing. A Heard and Ready
reply without data to an operation that reads is taken with a free value as its data (notes/assumptions/4.md). The end of a
transaction that carries the discard mark, by a reply before its deadline, by the deadline, or by the end of a POLL's
window, frees the line and does nothing else: no outcome, service notice or unheard count. The end of an item of a sequence
that is over frees the line and sets the unheard counter, and a reply with Service set has a POLL in flight next. That the
clock goes on to the moment of a timer whose command comes before it is the model's choice (notes/assumptions/2.md). -/
def Obligations.TransactionsEnd : Prop :=
  (∀ r : Reply, classify r =
      (if r.heard then if r.ready then (.ready, r.data) else (.notReady, none) else (.notHeard, none)))
    ∧ (∀ (o : Offer) (out : LineOutcome) (s : State) (q : Pos), o.op ≠ .poll →
        unheardOf (countEnd o out s) q =
          if o.op = .assign then if out = .ready ∧ assignPos o.data = some q then 0 else unheardOf s q
          else if o.pos ≠ linePos q then unheardOf s q
          else if out ≠ .unheard then 0
          else if stateOf s q = .vacant ∨ stateOf s q = .wired then unheardOf s q
          else min 3 (unheardOf s q + 1))
    ∧ (∀ (s : State) (r : Reply), s.line.flight = none → exec (.transactionEnd r) s = .next s)
    ∧ (∀ (s : State) (fl : Flight) (r : Reply), s.line.flight = some fl → fl.ended = false →
        let reads := fl.offer.op = .get ∨ fl.offer.op = .readWord
        let missing := reads ∧ r.heard = true ∧ r.ready = true ∧ r.data = none
        (fl.deadline ≤ s.now → exec (.transactionEnd r) s = .next s)
          ∧ (missing → s.now < fl.deadline → exec (.transactionEnd r) s =
            exec (.transactionEnd { r with data := some (Config.freeWord s.freeCount) })
              { s with freeCount := s.freeCount + 1 })
          ∧ (s.notices = [] → s.line.offers = [] → fl.discard = true →
            (fl.offer.op ≠ .poll → s.now < fl.deadline → exec (.transactionEnd r) s =
                .next (State.free (if missing then { s with freeCount := s.freeCount + 1 } else s)))
              ∧ (fl.offer.op ≠ .poll → exec .replyDeadline s = .next (advanceTo fl.deadline s).free)
              ∧ (∀ slots, fl.offer.op = .poll → exec (.pollWindowEnd slots) s = .next (advanceTo fl.deadline s).free)))
    ∧ ∀ (s : State) (p : Pos) (a run : Nat) (d : Time) (w : Word),
        s.InFlight { requester := .sequenceUnit, cls := 6, pos := linePos p, op := .readWord, addr := some a, data := none,
                     why := .sequenceItem p a run } d →
        s.sequence.state ≠ .running → inService s p = true →
        let reply := fun (service : Bool) =>
          exec (.transactionEnd { heard := true, ready := true, service := service, data := some w }) s
        reply false = .next (setUnheard p 0 s.free) ∧ reply true = .next (setUnheard p 0 (s.granted pollOffer))

/-- R29, R164, R165, POLL_WINDOW_END: the next poll time is 20 ms on, and one position in service that answered, with no
round and no pause of its own, joins the pending set with a fresh round and its GET of point 62 in flight; with no such
position the line is free. Nothing else changes. That the clock goes on to the moment of a timer whose command comes before
it is the model's choice (notes/assumptions/2.md). -/
def Obligations.PollEnds : Prop :=
  ∀ (s : State) (fl : Flight), s.notices = [] → s.line.offers = [] → s.line.flight = some fl → fl.ended = false →
    fl.discard = false → fl.offer = pollOffer →
    let s1 := advanceTo fl.deadline s
    let polled := { s1.service with nextPoll := some (s1.now + ms 20) }
    (∀ slots : Tab Bool 4, (∀ x, slots.get x = true → inService s x = false) →
        exec (.pollWindowEnd slots) s = .next { s1 with line := { s.line with flight := none }, service := polled })
      ∧ ∀ p, inService s p = true → servicePending s p = false → s.service.pauses.get p = none →
        exec (.pollWindowEnd ((Tab.fill false).put p true)) s = .next { s1 with
          line := { s.line with
            flight := some { offer := wordOffer p, deadline := s1.now + 2000 }
            lastServed := s.line.lastServed.put 3 (linePos p)
            lastGranted := s.line.lastGranted.upd 3 fun t => t.put (linePos p) (some .servicePoller) }
          service := { polled with
            pendingSet := s.service.pendingSet.put p true
            rounds := s.service.rounds.put p {}
            pauses := s.service.pauses.put p none } }

/-! ## Identification and bring-up -/

/-- R42, R47, R48, R49, R63, R64, R67, TRANSACTION_END and REPLY_DEADLINE of the READ-WORD of header word a of an
IDENTIFYING position under no release. A word that passes its test is taken and the next word's READ-WORD is in flight; one
that fails, a not Ready end and a Not Heard one record DESCRIPTOR-BAD with the address as detail and leave the position
REJECTED, its header and sum kept; Unheard, the unheard counter rises and the same word is read again. With word 7 the
header and the identity are held and the position is DESCRIBING: warm where the remembered record agrees in builder, serial
and checksum, with the first word of its first lamp group in flight; else cold, with the sum of the header words and word 8
in flight, and CONFIG-MISMATCH set where the checksum alone differs. Nothing else changes. That the clock goes on to the
moment of a timer whose command comes before it is the model's choice (notes/assumptions/2.md), as is what a REJECTED
position's stream record keeps beyond what R53 names (notes/assumptions/35.md). -/
def Obligations.HeaderWordsAreTaken : Prop :=
  ∀ (s : State) (p : Pos) (a : Nat) (ws : List Word) (d : Time),
    let read := fun (a : Nat) => consistOfferOf (linePos p) .readWord (some a) none (.identWord p a)
    let stream := fun (a : Nat) => consistOfferOf (linePos p) .readWord (some a) none (.streamWord p a)
    s.InFlight (read a) d → stateOf s p = .identifying → s.consist.release.active = false →
    (streamRec s p).identNext = some a → (streamRec s p).identWords = ws → ws.length = a → a ≤ 7 →
    let reply := fun (heard ready : Bool) (x : Option Word) =>
      exec (.transactionEnd { heard := heard, ready := ready, service := false, data := x }) s
    let heard := setUnheard p 0
    let rejected := Host.Outcome.next (heard (State.free (modRec p (fun r => { r with state := .rejected })
      (modStream p (fun r => { header := r.header, sum := r.sum }) (s.faulted .descriptorBad p none none a)))))
    let passes := fun (w : Word) => (a = 0 → w.toNat = 1) ∧ (a = 1 → 16 ≤ w.toNat ∧ w.toNat ≤ 1024)
      ∧ (a = 5 → w.toNat ≤ 12 ∧ 8 + 2 * w.toNat ≤ (ws.getD 1 0).toNat)
    (∀ w : Word, ¬ passes w → reply true true (some w) = rejected)
      ∧ (∀ x, reply true false x = rejected) ∧ (∀ any x, reply false any x = rejected)
      ∧ (unheardOf s p < 2 → exec .replyDeadline s =
          .next (State.granted (read a) (setUnheard p (unheardOf s p + 1) (advanceTo d s))))
      ∧ (∀ w : Word, a < 7 → passes w → reply true true (some w) = .next (heard (State.granted (read (a + 1))
          (modStream p (fun r => { r with identNext := some (a + 1), identWords := ws ++ [w] }) s))))
      ∧ ∀ (w : Word) (h : Tab Word 8), a = 7 → (∀ k, h.get k = (ws ++ [w]).getD k.val 0) →
          let i : Identity := { builder := h.get 2, serial := h.get 3 ++ h.get 4, length := (h.get 1).toNat,
                                checksum := h.get 7, revision := h.get 6 }
          let described := fun (warm : Bool) (y : StreamRecord) => heard (modStream p (fun _ => { y with header := some h })
            (modRec p (fun r => { r with identity := some i, state := .describing, warm := warm }) s))
          let cold := (described false { active := true, next := some 8, sum := (ws ++ [w]).foldl (· + ·) 0 }).granted (stream 8)
          (rememberedOf s p = none → reply true true (some w) = .next cold)
            ∧ ∀ r : Remembered, rememberedOf s p = some r →
              (r.builder ≠ i.builder ∨ r.serial ≠ i.serial → reply true true (some w) = .next cold)
                ∧ (r.builder = i.builder → r.serial = i.serial → r.checksum ≠ i.checksum → reply true true (some w) =
                  .next { cold with memory := { s.memory with mismatch := s.memory.mismatch.put p true } })
                ∧ ∀ (g : Group) (e : DirEntry), r.builder = i.builder → r.serial = i.serial → r.checksum = i.checksum →
                  kindOfGroup g = .lamp → r.directory.get g = some e → (∀ x, x < g → r.directory.get x = none) →
                  1 ≤ e.members → e.locator ≤ 1023 → reply true true (some w) = .next (State.granted (stream e.locator)
                    (described true { active := true, warm := true, directory := r.directory, next := some e.locator }))

/-- R44, R45, R46, R47, R49, R50, R51, R52, R53, R66, R67, TRANSACTION_END and REPLY_DEADLINE of the READ-WORD of word a of
a cold stream or a warm read of a DESCRIBING position under no release. A cold word joins the running sum. In the directory
a word A is kept, and its word B is filed under its group where every test of R51 passes. In the array of an entry a word
joins the record buffer; the fourth empties it, and the record of a usable lamp joins the contributors where it is
WIRED-fed, or the required lamps where it is NODE-fed and required, behind those of lower addresses. Elsewhere nothing is
interpreted. The next word is in flight: of a cold stream the next address; of a warm read the next one of the array, or the
first of the next lamp group's. A word B that fails, a not Ready end and a Not Heard one record DESCRIPTOR-BAD with the
address as detail, a last word that leaves a sum other than 0 records CHECKSUM-BAD with the sum, and each leaves the
position REJECTED, its header and sum kept. Unheard, the unheard counter rises and the same word is read again. Nothing else
changes. That the clock goes on to the moment of a timer whose command comes before it is the model's choice
(notes/assumptions/2.md), as is what a REJECTED position's stream record keeps beyond what R53 names
(notes/assumptions/35.md). -/
def Obligations.StreamWordsAreTaken : Prop :=
  ∀ (s : State) (p : Pos) (a : Nat) (h : Tab Word 8) (d : Time),
    let read := fun (a : Nat) => consistOfferOf (linePos p) .readWord (some a) none (.streamWord p a)
    s.InFlight (read a) d → stateOf s p = .describing → s.consist.release.active = false →
    let x := streamRec s p
    x.active = true → x.next = some a → x.header = some h → a ≤ 1023 →
    let count := (h.get 5).toNat
    let length := (h.get 1).toNat
    let reply := fun (heard ready : Bool) (x : Option Word) =>
      exec (.transactionEnd { heard := heard, ready := ready, service := false, data := x }) s
    let heard := setUnheard p 0
    let rejected := fun (sum : Word) (kind : FaultKind) (detail : Nat) => Host.Outcome.next (heard (State.free
      (modRec p (fun r => { r with state := .rejected }) (modStream p (fun _ => { header := some h, sum := sum })
        (s.faulted kind p none none detail)))))
    let next := fun (b : Nat) (y : StreamRecord) =>
      Host.Outcome.next (heard (State.granted (read b) (modStream p (fun _ => { y with next := some b }) s)))
    let cold := fun (w : Word) (y : StreamRecord) =>
      a + 1 < length → a < 1023 → reply true true (some w) = next (a + 1) { y with sum := x.sum + w }
    (∀ y, reply true false y = rejected x.sum .descriptorBad a)
      ∧ (∀ any y, reply false any y = rejected x.sum .descriptorBad a)
      ∧ (unheardOf s p < 2 → exec .replyDeadline s =
          .next (State.granted (read a) (setUnheard p (unheardOf s p + 1) (advanceTo d s))))
      ∧ (∀ w : Word, x.warm = false → a < 8 + 2 * count →
        (x.wordA = none → cold w { x with wordA := some w })
          ∧ ∀ v : Word, x.wordA = some v →
            let m := v.toNat % 32
            let passes := fun (g : Group) => v.toNat / 4096 = g.val ∧ 1 ≤ m ∧ m ≤ 16 ∧ x.directory.get g = none
              ∧ 8 + 2 * count ≤ w.toNat ∧ w.toNat + 4 * m ≤ length
              ∧ ∀ g' e, x.directory.get g' = some e → w.toNat + 4 * m ≤ e.locator ∨ e.locator + 4 * e.members ≤ w.toNat
            ((∀ g, ¬ passes g) → reply true true (some w) = rejected (x.sum + w) .descriptorBad a)
              ∧ ∀ (g : Group) (c : Fin 8), passes g → c.val = v.toNat / 256 % 8 → cold w { x with
                  directory := x.directory.put g (some { policyClass := c, members := m, locator := w.toNat })
                  taken := x.taken + 1, wordA := none })
      ∧ (∀ w : Word, x.warm = false → 8 + 2 * count ≤ a → a + 1 = length → x.sum + w ≠ 0 →
          reply true true (some w) = rejected (x.sum + w) .checksumBad (x.sum + w).toNat)
      ∧ (∀ w : Word, x.warm = false → 8 + 2 * count ≤ a →
          (∀ g e, x.directory.get g = some e → a < e.locator ∨ e.locator + 4 * e.members ≤ a) → cold w x)
      ∧ ∀ (g : Group) (e : DirEntry) (f : Code), x.directory.get g = some e → e.locator ≤ a → a < e.locator + 4 * e.members →
          (∀ g' e', x.directory.get g' = some e' → e'.locator ≤ a → a < e'.locator + 4 * e'.members → g' = g) →
          e.members ≤ 16 → f.val = 16 * g.val + (a - e.locator) / 4 →
          let goesOn := fun (w : Word) (y : StreamRecord) =>
            (x.warm = false → 8 + 2 * count ≤ a → cold w y)
              ∧ (x.warm = true → kindOfGroup g = .lamp → a + 1 < e.locator + 4 * e.members → a < 1023 →
                reply true true (some w) = next (a + 1) y)
              ∧ ∀ (g' : Group) (e' : DirEntry), x.warm = true → kindOfGroup g' = .lamp → a + 1 = e.locator + 4 * e.members →
                g < g' → x.directory.get g' = some e' → (∀ z, g < z → z < g' → x.directory.get z = none) →
                1 ≤ e'.members → e'.locator ≤ 1023 → reply true true (some w) = next e'.locator y
          (∀ w : Word, (a - e.locator) % 4 ≠ 3 → goesOn w { x with buffer := x.buffer ++ [w], bufferOf := some f })
            ∧ ∀ w0 w1 w2 w : Word, (a - e.locator) % 4 = 3 → x.buffer = [w0, w1, w2] →
              let r := fnRecordOf w0 w1 w2 w
              let y := { x with buffer := [], bufferOf := none }
              let item : WireItem :=
                { circuit := circuitOf r, code := f, nominal := r.nominal, loadKind := r.loadKind }
              let below := fun (f' : Code) => recordAddr x.directory f' ≤ recordAddr x.directory f
              (unusableRecord g r = true ∨ kindOf f ≠ .lamp → goesOn w y)
                ∧ (unusableRecord g r = false → kindOf f = .lamp → r.feed = .wired → x.wires.length < 64 →
                  (∀ i ∈ x.wires, below i.code) → goesOn w { y with wires := x.wires ++ [item] })
                ∧ (unusableRecord g r = false → kindOf f = .lamp → r.feed = .node → r.required = false → goesOn w y)
                ∧ (unusableRecord g r = false → kindOf f = .lamp → r.feed = .node → r.required = true →
                  x.required.length < 64 → (∀ f' ∈ x.required, below f') → goesOn w { y with required := x.required ++ [f] })

/-- R53, R66, R68, R70, R71, R73, R76, R94, R164, R182, R186, TRANSACTION_END of the last word of a description. The plan
holds each circuit with a contributor of the position still UNCHECKED, in ascending order, then each required lamp still
UNCHECKED in list order, and each sensor and actuator group of the directory in ascending order; the exit test is met when
both are empty and no awaited function is UNCHECKED. The first reads that a LOADED group adds are those of its required
usable rows in member order, but for a function whose result was kept at the entry and is not UNCHECKED since (R73, R182,
notes/assumptions/37.md). The last word of a trailer none of whose lamps is WIRED-fed or required, every target 0: the
directory is copied, the marks and unavailable flags cleared and each delivered value 0. With lamps alone the exit test is
met at once: the position is RUNNING with an empty plan and no deadline, and a POLL is in flight; after a cold description
its record is written where it differs from the one held, and otherwise CONFIG-MISMATCH is cleared. With sensor or actuator
groups the position is EXERCISING, its deadline 10 s on and those groups its plan, the lowest of them being fetched for the
plan into the lowest FREE block (R73, R84), with its first word in flight. R72, R75, R133, R134, R145. A trailer with lamps
alone, one of them WIRED-fed, has it added at its place in the Contributor List of its circuit, or, with 16 entries there,
only the overfull flag set; the sample set, the last evaluation and the reported outcome are discarded and UNCHECKED is
written to each entry. One that was stored while MOVING gets DEFERRED at the entry; at a standstill with coupling PRESENT,
another circuit in the slot, the circuit joins the Exercise Queue with the position its requester, and the position stays
EXERCISING. Nothing else changes but which RESULT frames qualify (R199). -/
def Obligations.BringUpCompletes : Prop :=
  (∀ (s : State) (p : Pos),
      let r := posRec (buildPlan p s) p
      let open' := fun (f : Code) => (entryOf s p f).result = .unchecked
      (∀ k, .circuit k ∈ r.lampItems ↔ ∃ c ∈ (circuitRec s k).contributors, c.pos = p ∧ open' c.code)
        ∧ (∀ f, .lamp f ∈ r.lampItems ↔ f ∈ (posRec s p).required ∧ open' f)
        ∧ (∀ g, g ∈ r.groupItems ↔ 4 ≤ g.val ∧ dirOf s p g ≠ none)
        ∧ r.groupItems.Pairwise (· < ·)
        ∧ (∀ f, f ∈ r.kept ↔ kindOf f ≠ .lamp ∧ ¬ open' f)
        ∧ (∀ (b : BlockNo) (g : Group) (e : DirEntry),
            ((requiredReads s p b g e).map fun x => x.code).Pairwise (· < ·)
              ∧ ∀ x, x ∈ requiredReads s p b g e ↔ ∃ (m : Fin 16) (row : Row), m.val < e.members
                ∧ (blockOf s b).rows.get m = some row ∧ row.unusable = false ∧ row.record.required = true
                ∧ x = { code := codeOf g m, point := row.record.point }
                ∧ (open' x.code ∨ x.code ∉ (posRec s p).kept))
        ∧ (∃ (ks : List LineNo) (fs : List Code), r.lampItems = ks.map LampItem.circuit ++ fs.map LampItem.lamp
            ∧ ks.Pairwise (· < ·) ∧ fs.Sublist (posRec s p).required)
        ∧ (exitMet s p = true ↔ (posRec s p).lampItems = [] ∧ (posRec s p).groupItems = []
            ∧ (∀ k, ∀ c ∈ (circuitRec s k).contributors, c.pos = p → ¬ open' c.code)
            ∧ (∀ f ∈ (posRec s p).required, ¬ open' f) ∧ ∀ f ∈ (posRec s p).awaited, ¬ open' f))
    ∧ ∀ (s : State) (p : Pos) (a : Nat) (h : Tab Word 8) (d : Time) (g : Group) (e : DirEntry) (i : Identity)
        (w0 w1 w2 w : Word),
        s.InFlight (consistOfferOf (linePos p) .readWord (some a) none (.streamWord p a)) d → stateOf s p = .describing →
        s.consist.release.active = false →
        let x := streamRec s p
        let r := fnRecordOf w0 w1 w2 w
        x.active = true → x.next = some a → x.header = some h → x.buffer = [w0, w1, w2] → x.required = [] →
        (posRec s p).warm = x.warm → (posRec s p).identity = some i → (posRec s p).lampItems = [] →
        x.directory.get g = some e → a + 1 = e.locator + 4 * e.members → 1 ≤ e.members → e.members ≤ 16 →
        (∀ g' e', x.directory.get g' = some e' → e'.locator ≤ a → a < e'.locator + 4 * e'.members → g' = g) →
        (x.warm = true → ∀ z, g < z → z.val < 4 → x.directory.get z = none) →
        (x.warm = false → 8 + 2 * (h.get 5).toNat ≤ a ∧ a + 1 = (h.get 1).toNat ∧ x.sum + w = 0) →
        unusableRecord g r = true ∨ (r.feed = .node ∧ r.required = false) →
        (∀ src, nodeCheck s p src = none) → s.check.rebuild = none →
        (∀ k, (circuitRec s k).overfull = false ∧ (circuitRec s k).rebuildPending = false
          ∧ ∀ c ∈ (circuitRec s k).contributors, c.pos ≠ p) →
        s.delivery.owed.get p = [] → s.delivery.pendingRead = none →
        (∀ f, targetBeneath s p f = 0 ∧ (entryOf s p f).nextRead = none
          ∧ ((entryOf s p f).delivered = none ∨ (entryOf s p f).delivered = some 0)) →
        s.memory.invalid = false → s.memory.writing = none → (∀ q, s.memory.pendingWrites.get q = none) →
        handedCode s ≠ some 24 → resetting s = false →
        let c : Remembered :=
          { builder := i.builder, serial := i.serial, checksum := i.checksum, directory := x.directory }
        let entered := fun (v : State) (st : PosState) (deadline : Option Time) (groups : List Group) (kept : List Code) =>
          modStream p (fun _ =>
            { x with active := false, next := none, buffer := [], bufferOf := none,
                     sum := if x.warm then x.sum else x.sum + w })
          (modRec p (fun y => { y with
            state := st, directory := x.directory, required := [], deadline := deadline, groupItems := groups,
            firstReads := [], awaited := [], kept := kept }) v)
        let leaves := fun (v u : State) => ∃ t,
          exec (.transactionEnd { heard := true, ready := true, service := false, data := some w }) s = .next t
            ∧ t = { setUnheard p 0 u with
                port := { u.port with refresh := t.port.refresh }
                delivery := { s.delivery with status := t.delivery.status } }
            ∧ ∀ q f, entryOf t q f = if q = p then
                { entryOf v p f with notFitted := false, unavailable := false, retryAt := none,
                                     delivered := if kindOf f = .sensor then (entryOf s p f).delivered else some 0 }
              else entryOf v q f
        let runs := fun (v : State) => leaves v { (entered v .running none [] []).granted pollOffer with
          memory := if x.warm then s.memory
            else if s.memory.store.records.get p = some c then { s.memory with mismatch := s.memory.mismatch.put p false }
            else { s.memory with writing := some (.record p c) } }
        (x.wires = [] → s.check.slot = none → (∀ z, 4 ≤ z.val → x.directory.get z = none) → runs s)
          ∧ (∀ item : WireItem, x.wires = [item] → (∀ z, 4 ≤ z.val → x.directory.get z = none) →
            (∀ q, stateOf s q ≠ .exercising) →
            let k := item.circuit
            let old := (circuitRec s k).contributors
            let n : Contributor := { pos := p, code := item.code, nominal := item.nominal, loadKind := item.loadKind }
            let changed := fun (cs : List Contributor) (full : Bool) => cs.foldl
              (fun t c => State.resulting c.pos c.code .unchecked t) (modCircuit k (fun c =>
                { c with contributors := cs, overfull := full, samples := [], last := none, reported := none })
                (modRec p (fun y => { y with directory := x.directory }) s))
            (∀ c ∈ old, stateOf s c.pos ≠ .vacant) →
            (old.length = 16 → s.check.slot = none → runs (changed old true))
              ∧ ∀ front back : List Contributor, old = front ++ back → old.length < 16 → (∀ c ∈ front, c.pos < p) →
                (∀ c ∈ back, p < c.pos) →
                let v := changed (front ++ n :: back) false
                (s.decoder.motion = .moving → s.check.slot = none → runs (State.resulting p item.code .deferred v))
                  ∧ ∀ (sl : Slot) (k' : LineNo), s.decoder.motion = .stationary → s.consist.cplPresent = true →
                    s.check.slot = some sl → sl.entry.target = .circuit k' → k' ≠ k →
                    (∀ y ∈ s.check.queue, y.target ≠ .circuit k) → s.check.queue.length < 16 →
                    (∀ m, s.service.nextPoll = some m → s.now < m) →
                    leaves v { (entered v .exercising (some (s.now + ms 10000)) [] (keptResults v p)).free with
                      check := { v.check with queue := s.check.queue ++
                        [{ target := .circuit k, requesters := (Tab.fill false).put p true }] } })
          ∧ ∀ (g0 : Group) (e0 : DirEntry) (b : BlockNo), x.wires = [] → s.check.slot = none →
            4 ≤ g0.val → x.directory.get g0 = some e0 → e0.locator ≤ 1023 →
            (∀ z, 4 ≤ z.val → z < g0 → x.directory.get z = none) → groupRec s p g0 = {} → blockOf s b = {} →
            (∀ c, c < b → (blockOf s c).state ≠ .free) →
            (∀ c h, (blockOf s c).owner = some (p, h) → (blockOf s c).state ≠ .fetching) →
            (∀ m, s.service.nextPoll = some m → s.now < m) →
            let word : Offer :=
              { requester := .bindingStore, cls := 2, pos := linePos p, op := .readWord, addr := some e0.locator, data := none,
                why := .fetchWord p g0 b e0.locator }
            leaves s (State.granted word (modGroup p g0 (fun y => { y with block := some b }) (modBlock b (fun _ =>
              { state := .fetching, owner := some (p, g0), progress := some (0, 0), waiters := [.plan p] })
              (entered s .exercising (some (s.now + ms 10000))
                (([4, 5, 6, 7, 8, 9, 10, 11] : List Group).filter fun z => (x.directory.get z).isSome)
                (keptResults s p)))))

/-- R32, R74, R76, R92, TRANSACTION_END and REPLY_DEADLINE of the GET of the only first read of an EXERCISING position, no
node-lamp reading being asked for. A sensor's 65535 and its not Ready end write SENSOR-FAULT, the first setting the read
flag; other data of a Heard and Ready end is the last value, sets the read flag and, of a sensor, the changed flag where it
differs, and OK is written, with no VALUE frame; Not Heard, NO-REPLY is written and POINT-UNKNOWN recorded, without the
not-fitted mark. Each of these takes the read from the list and places the RESULT frame of a changed result; the exit test
not met, the line is then free; met at a warm position with no sensor to read, the plan is emptied, the deadline none, the
position RUNNING and a POLL in flight. An actuator's not Ready end holds the read for 100 ms. Unheard, the unheard counter
rises and the same GET is in flight again. Nothing else changes. That a last value of none counts as different from the
data, where R74 says only that the changed flag is set if the data differs from the last value held, and that the read of an
actuator leaves the changed flag as it stands, are the model's choices (notes/assumptions/14.md). That the clock goes on to
the moment of a timer whose command comes before it is the model's choice (notes/assumptions/2.md). -/
def Obligations.FirstReadsEnd : Prop :=
  ∀ (s : State) (p : Pos) (x : FirstRead) (d : Time), s.InFlight (firstReadOffer p x) d → stateOf s p = .exercising →
    (posRec s p).firstReads = [x] → wantedReading s p = none → x.notBefore = none →
    let f := x.code
    let reply := fun (heard ready : Bool) (w : Option Word) =>
      exec (.transactionEnd { heard := heard, ready := ready, service := false, data := w }) s
    let reads := fun (xs : List FirstRead) (s : State) => modRec p (fun r => { r with firstReads := xs }) s
    let entry := fun (g : StatusEntry → StatusEntry) => modEntry p f g s
    let ends := fun (answer : Host.Outcome State Fault Refusal) (t : State) (r : CheckResult) =>
      let u := setUnheard p 0 (State.resulting p f r (reads [] t))
      let v := modRec p (fun y => { y with
        state := .running, deadline := none, lampItems := [], groupItems := [], firstReads := [], awaited := [],
        kept := [] }) u
      (exitMet u p = false → answer = .next u.free)
        ∧ (exitMet u p = true → (posRec s p).warm = true → (∀ g, kindOfGroup g = .sensor → dirOf s p g = none) →
          (∀ src, nodeCheck s p src = none) → dueReads v p = [] → answer = .next (v.granted pollOffer))
    (kindOf f = .sensor →
        ends (reply true true (some 65535)) (entry fun e => { e with read := true }) .sensorFault
          ∧ (∀ w : Word, w ≠ 65535 → ends (reply true true (some w)) (entry fun e =>
              { e with read := true, changed := e.changed || decide (e.lastValue ≠ some w), lastValue := some w }) .ok)
          ∧ ∀ y, ends (reply true false y) s .sensorFault)
      ∧ (kindOf f = .actuator →
        (∀ w : Word, ends (reply true true (some w)) (entry fun e => { e with read := true, lastValue := some w }) .ok)
          ∧ ∀ y, reply true false y = .next
            (setUnheard p 0 (reads [{ x with last := .notReady, notBefore := some (s.now + ms 100) }] s)).free)
      ∧ (∀ any y, ends (reply false any y) (s.faulted .pointUnknown p (some f) none x.point) .noReply)
      ∧ (unheardOf s p < 2 → x.point ≤ 63 → releaseOffered s p = false →
        exec .replyDeadline s = .next (State.granted (firstReadOffer p x)
          (setUnheard p (unheardOf s p + 1) (reads [{ x with last := .unheard }] (advanceTo d s)))))

/-! ## Release and line loss -/

/-- R174, R175, R178, R183, LOST_TIMEOUT and RELEASE_POSITION with no release under way and no identification of a recovery:
the release begins at q, the highest position that is not VACANT, whose RELEASE is offered at class 5; a RELEASE-POSITION's
reply is held. RELEASE-POSITION of a VACANT position is answered OK at once. Nothing else changes. That the clock goes on to
the moment of a timer whose command comes before it is the model's choice (notes/assumptions/2.md). -/
def Obligations.ReleaseBegins : Prop :=
  ∀ (s : State) (p q : Pos), s.Quiet → s.consist.release.active = false → (∀ x, (streamRec s x).identNext = none) →
    p ≤ q → stateOf s q ≠ .vacant → stateOf s q ≠ .wired → (∀ x, q < x → stateOf s x = .vacant) →
    let begun := fun (s : State) => makeOffer (releaseOffer q) (modRelease (fun r =>
      { r with active := true, lowest := some p, current := some q, phase := some .offered }) s)
    (∀ n, stateOf s p = .lost → (posRec s p).lostTimer = some n →
        exec (.lostTimeout p) s = .next (begun (advance (ms 30000 - n) s)))
      ∧ ∀ (r : Request) (rest : List Request), s.Serving 23 r rest → r.args ≠ [] →
          (argByte r.args 0 = p.val + 1 → stateOf s p ≠ .vacant →
              exec .releasePosition s = .next (begun (State.held (modRelease (fun r => { r with replyOwed := true }) s))))
            ∧ (∀ x : Pos, argByte r.args 0 = x.val + 1 → stateOf s x = .vacant →
              exec .releasePosition s = .next (s.replied r rest .ok []))
            ∧ (argByte r.args 0 = 0 ∨ 4 < argByte r.args 0 →
              exec .releasePosition s = .next (s.replied r rest .badArg []))

/-- R38, R91, R168, R174, R175, R176, R177, the end of the RELEASE of q in a release, whatever its outcome: q is reset. Its
record, its stream record, its group records and its entries are as after reset, its blocks FREE, its unheard counter 0, its
stops, checks, round and pause gone. The walk goes on: with q above the lowest position the RELEASE of the position below is
in flight; at the lowest position the release record is as after reset, a RELEASE-POSITION that waits is answered OK, and
with coupling PRESENT, no position LOST and no sweep, the ASSIGN of q, now the lowest VACANT position, is in flight. R134,
R135, R149. Each node-lamp entry of q, and each whose requester set holds q alone, leaves the Exercise Queue, and q every
other set. While MOVING or with coupling ABSENT, each circuit with contributors of q loses those, its sample set, last
evaluation and reported outcome, and UNCHECKED is written to each that remains, with the RESULT frame of each changed
result. An OVERFULL one is rebuilt at once: a WIRED-fed row of a LOADED lamp group in service whose lamp its list lacks is
added at its place, and the overfull flag cleared where no position is LOST and none describes. Nothing else changes but
which RESULT frames qualify (R199). This is said of a q with no block being fetched, node-lamp check, sequence or request
that waits. R58, R62, R178. A WIRED position 1 is reset without a RELEASE: when the walk comes to it from position 2, and,
being alone, on RELEASE-POSITION of 1, which is answered OK, and on COUPLING_FALL, which does what CouplingIsDebounced says
besides, here with no contributor listed; with coupling PRESENT the ASSIGN of 1 is then in flight or on offer. The model's
choices: that the clock goes on to a timer's moment (notes/assumptions/2.md), the order of the RESULT frames of UNCHECKED,
circuits ascending (notes/assumptions/6.md), the grant within the command (notes/assumptions/7.md) and the order of the
steps at completion (notes/assumptions/18.md). -/
def Obligations.PositionsAreReleased : Prop :=
  let unwired := fun (s : State) => setUnheard 0 0 { s with
    consist := { s.consist with table := s.consist.table.put 0 {}, streams := s.consist.streams.put 0 {} }
    binding := { s.binding with groups := s.binding.groups.put 0 (Tab.fill {}) }
    delivery := { s.delivery with
      status := s.delivery.status.put 0 (Tab.fill {}), owed := s.delivery.owed.put 0 []
      lastOffered := s.delivery.lastOffered.put 0 (191, 191), lastStopped := s.delivery.lastStopped.put 0 191 }
    check := { s.check with oppPending := s.check.oppPending.put 0 [] }
    service := { s.service with
      pendingSet := s.service.pendingSet.put 0 false, rounds := s.service.rounds.put 0 {}
      pauses := s.service.pauses.put 0 none } }
  let wired := fun (s : State) => stateOf s 0 = .wired ∧ (∀ b g, (blockOf s b).owner ≠ some (0, g))
    ∧ (∀ k, (circuitRec s k).rebuildPending = false ∧ ∀ c ∈ (circuitRec s k).contributors, c.pos ≠ 0)
    ∧ (∀ e ∈ s.check.queue, e.requesters.get 0 = false ∧ ∀ f, e.target ≠ .lamp 0 f) ∧ s.check.slot = none
    ∧ (∀ src, nodeCheck s 0 src = none) ∧ (∀ o, s.delivery.pendingOverride = some o → o.pos ≠ 0)
    ∧ (∀ o, s.delivery.pendingRead = some o → o.pos ≠ 0) ∧ (s.sequence.state = .running → s.sequence.pos ≠ some 0)
  (∀ (s : State) (q l : Pos) (d : Time), s.InFlight (releaseOffer q) d → s.consist.release.active = true →
    s.consist.release.lowest = some l → l ≤ q → s.consist.release.current = some q →
    s.consist.release.phase = some .inFlight → s.consist.pass.active = false → anyNoSpace s = false →
    (∀ b g, (blockOf s b).owner = some (q, g) → (blockOf s b).state = .loaded ∧ (blockOf s b).waiters = []) →
    (∀ o, s.delivery.pendingOverride = some o → o.pos ≠ q) → (∀ o, s.delivery.pendingRead = some o → o.pos ≠ q) →
    let left := fun (k : LineNo) => (circuitRec s k).contributors.filter fun c => decide (c.pos ≠ q)
    let hit := fun (k : LineNo) => decide (∃ c ∈ (circuitRec s k).contributors, c.pos = q)
    let settled := ∀ p, p ≠ q → stateOf s p ≠ .lost ∧ (stateOf s p = .describing → (streamRec s p).active = false)
    (∀ k, (circuitRec s k).rebuildPending = false) →
    (∀ k, hit k = true → (circuitRec s k).contributors.length ≤ 16 ∧ (∀ c ∈ left k, stateOf s c.pos ≠ .vacant)
      ∧ (∀ p, p ≠ q → stateOf s p ≠ .exercising) ∧ (s.decoder.motion = .moving ∨ s.consist.cplPresent = false)
      ∧ s.check.rebuild = none) →
    let stays := fun (e : QueueEntry) => match e.target with
      | .lamp p _ => decide (p ≠ q) && (!e.requesters.get q || decide (∃ p, p ≠ q ∧ e.requesters.get p = true))
      | .circuit _ => !e.requesters.get q || decide (∃ p, p ≠ q ∧ e.requesters.get p = true)
    (s.check.queue ≠ [] → (∀ p, p ≠ q → stateOf s p ≠ .exercising) ∧ (∀ k, (circuitRec s k).owed = false)
      ∧ (s.decoder.motion = .moving ∨ s.consist.cplPresent = false) ∧ s.check.queue.length ≤ 16) →
    s.check.slot = none → (∀ src, nodeCheck s q src = none) →
    (s.sequence.state = .running → s.sequence.pos ≠ some q) →
    let cleared := fun (s : State) => (allLines.flatMap fun k => if hit k then left k else []).foldl
      (fun t c => State.resulting c.pos c.code .unchecked t) <| setUnheard q 0 { s with
      consist := { s.consist with
        table := s.consist.table.put q {}, streams := s.consist.streams.put q {} }
      binding := { s.binding with
        groups := s.binding.groups.put q (Tab.fill {})
        blocks := s.binding.blocks.map fun x => if (x.owner.map fun o => o.1) = some q then {} else x }
      delivery := { s.delivery with
        status := s.delivery.status.put q (Tab.fill {}), owed := s.delivery.owed.put q []
        lastOffered := s.delivery.lastOffered.put q (191, 191), lastStopped := s.delivery.lastStopped.put q 191 }
      check := { s.check with
        oppPending := s.check.oppPending.put q []
        queue := (s.check.queue.filter stays).map fun e => { e with requesters := e.requesters.put q false }
        circuits := s.check.circuits.mapIdx fun k c => if hit k then
          { c with contributors := left k, samples := [], last := none, reported := none, overfull := c.overfull && !settled }
        else c }
      service := { s.service with
        pendingSet := s.service.pendingSet.put q false, rounds := s.service.rounds.put q {}
        pauses := s.service.pauses.put q none } }
    let ends := fun (u : State → State) =>
      let synced := fun (t u : State) => t = { u with port := { u.port with refresh := t.port.refresh } }
      (∀ heard ready x, ∃ t,
          exec (.transactionEnd { heard := heard, ready := ready, service := false, data := x }) s = .next t
            ∧ synced t (u (cleared s)))
        ∧ ∃ t, exec .replyDeadline s = .next t ∧ synced t (u (cleared (advanceTo d s)))
    let released := fun (r : ReleaseRecord) (s : State) => modRelease (fun _ => r) s
    let rel := s.consist.release
    let bare := fun (k : LineNo) => hit k = true → (circuitRec s k).overfull = true →
      ∀ (p : Pos) (g : Group), p ≠ q → g.val < 4 → inService s p = true → dirOf s p g = none
    (∀ p : Pos, (∀ k, bare k) → l < q → p.val + 1 = q.val → stateOf s p ≠ .vacant → stateOf s p ≠ .wired →
        ends fun s => (released { rel with current := some p, phase := some .inFlight } s).granted (releaseOffer p))
      ∧ ((∀ k, bare k) → q = l → s.consist.cplPresent = false →
        (rel.replyOwed = false → ends fun s => (released {} s).free)
          ∧ ∀ r rest, rel.replyOwed = true → s.Owing r rest → handedCode s = some 23 →
            ends fun s => State.replied (released {} s).free r rest .ok [])
      ∧ (∀ (k : LineNo) (p : Pos) (g : Group) (m : Fin 16) (b : BlockNo) (e : DirEntry) (r : FnRecord)
            (front back : List Contributor),
          q = l → s.consist.cplPresent = false → rel.replyOwed = false → hit k = true → (circuitRec s k).overfull = true →
          settled → (∀ k', k' ≠ k → hit k' = true → (circuitRec s k').overfull = false) →
          (∀ p' g', (p', g') ≠ (p, g) → p' ≠ q → g'.val < 4 → inService s p' = true → dirOf s p' g' = none) →
          p ≠ q → g.val < 4 → s.Bound p (codeOf g m) b e r → r.feed = .wired → circuitOf r = k →
          (∀ m' x, m' ≠ m → (blockOf s b).rows.get m' = some x →
            x.unusable = true ∨ x.record.feed = .node ∨ circuitOf x.record ≠ k) →
          left k = front ++ back →
          (∀ c ∈ front, c.pos < p ∨ (c.pos = p ∧ c.code < codeOf g m)) →
          (∀ c ∈ back, p < c.pos ∨ (c.pos = p ∧ codeOf g m < c.code)) →
          let n : Contributor := { pos := p, code := codeOf g m, nominal := r.nominal, loadKind := r.loadKind }
          ends fun s => State.free (released {} ((front ++ n :: back).foldl
            (fun t c => State.resulting c.pos c.code .unchecked t)
            (reference b (modCircuit k (fun c => { c with contributors := front ++ n :: back }) s)))))
      ∧ ((∀ k, bare k) → q = l → s.consist.cplPresent = true → rel.replyOwed = false → s.consist.sweep = none →
        (∀ x, stateOf s x = .lost → x = q) → (∀ x, x < q → stateOf s x ≠ .vacant) →
        ends fun s => (modPass (fun _ => { active := true, n := some q, phase := .inFlight }) (released {} s)).granted
          (assignOffer q))
      ∧ ((∀ k, bare k) → q = 1 → l = 0 → wired s → rel.replyOwed = false → s.consist.sweep = none →
        (∀ x, stateOf s x = .lost → x = q) →
        (s.consist.cplPresent = false → ends fun s => (released {} (unwired s)).free)
          ∧ (s.consist.cplPresent = true → ends fun s =>
            (modPass (fun _ => { active := true, n := some 0, phase := .inFlight }) (released {} (unwired s))).granted
              (assignOffer 0))))
    ∧ ∀ s : State, s.Quiet → s.line.offers = [] → (∀ fl, s.line.flight = some fl → fl.offer.pos ≠ linePos 0) →
      wired s → (∀ x, x ≠ 0 → stateOf s x = .vacant) → s.consist.release.active = false → s.consist.pass.active = false →
      let synced := fun (answer : Host.Outcome State Fault Refusal) (u : State) => ∃ t, answer = .next t
        ∧ t = { u with port := { u.port with refresh := t.port.refresh } }
      (∀ (r : Request) (rest : List Request), s.Serving 23 r rest → r.args ≠ [] → argByte r.args 0 = 1 →
          let u := State.replied (modRelease (fun _ => {}) (unwired s)) r rest .ok []
          (s.consist.cplPresent = false → synced (exec .releasePosition s) u)
            ∧ (s.consist.cplPresent = true → s.consist.sweep = none → synced (exec .releasePosition s)
              (makeOffer (assignOffer 0) (modPass (fun _ => { active := true, n := some 0 }) u))))
        ∧ ∀ m, s.consist.cplTimer = some m → s.consist.cplLevel = false → s.consist.cplPresent = true →
          (∀ k, (circuitRec s k).contributors = []) → s.check.queue.length ≤ 16 →
          let s1 := advanceTo (m + ms 250) s
          synced (exec .couplingFall s) (unwired { s1 with
            consist := { s1.consist with cplPresent := false, cplTimer := none, probeAt := none, release := {} }
            check := { s1.check with
              circuits := s1.check.circuits.map fun c => { c with samples := [], last := none, reported := none, owed := false }
              queue := [], rebuild := none } })

/-- R32, R54, R168, R179, R181, REPLY_DEADLINE that raises the unheard counter of p from 2 to 3, with no release and no pass
under way. At an identification word of an IDENTIFYING position, a stream word of a DESCRIBING one, and the GET of point 62
of one in service: it is LOST with the state it left as its prior state, its LOST timer and attempts 0, its attempt timer at
1000 ms and its plan empty; NODE-LOST is recorded with the prior state; the identification or stream, its stops, watches,
checks and round are gone. Its blocks, results, overrides and directory are kept. At an identification word of a LOST
position the attempt is over and the identification abandoned. A word that ends when no identification or stream is under
way is discarded. Nothing else changes but which RESULT frames qualify (R199). This is said of a p with no block being
fetched, no node-lamp check, no sequence and no request that waits. R48, R70, R174, R182, the ends of a recovery attempt of
p, no release under way. A Heard and Ready ASSIGN sets the counter of p to 0 and its identification begins, word 0 in
flight; after any other end the GET of point 63 is in flight, whose end, not Unheard, does the same; Unheard, the counter
rises to 3 at most and the attempt is over. An ASSIGN that ends Heard and Ready with p VACANT is followed by a RELEASE of p;
every other end with no attempt under way, an Unheard GET aside, is discarded. A header word that fails as in
HeaderWordsAreTaken, or word 7 of another trailer or of one whose prior state is not EXERCISING or RUNNING, ends the attempt
and asks for a release of p: the RELEASE of the highest position that is not VACANT is in flight. Word 7 of the known
trailer clears its timers, attempts and prior state, and with every target 0, no sensor or actuator group and no awaited
lamp UNCHECKED, it is RUNNING, a POLL in flight. That the clock goes on to a timer's moment is the model's choice
(notes/assumptions/2.md). -/
def Obligations.SilenceLosesPosition : Prop :=
  (∀ (s : State) (p : Pos) (d : Time), s.consist.release.active = false → s.consist.pass.active = false →
    (∀ b g, (blockOf s b).owner = some (p, g) → (blockOf s b).state ≠ .fetching) →
    (∀ o, s.delivery.pendingOverride = some o → o.pos ≠ p) → (∀ o, s.delivery.pendingRead = some o → o.pos ≠ p) →
    (∀ src, nodeCheck s p src = none) → (s.sequence.state = .running → s.sequence.pos ≠ some p) →
    let read := fun (a : Nat) => consistOfferOf (linePos p) .readWord (some a) none (.identWord p a)
    let next := fun (a : Nat) => consistOfferOf (linePos p) .readWord (some a) none (.streamWord p a)
    let stream := fun (r : StreamRecord) => modStream p fun _ => r
    let silent := fun (s : State) => setUnheard p 3 s.free
    let lost := fun (prior : PosState) (detail : Nat) (s : State) => State.faulted .nodeLost p none none detail
      { modRec p (fun r => { r with
          state := .lost, prior := some prior, lostTimer := some 0, attempts := 0, attemptTimer := some (s.now + ms 1000)
          attemptUnderWay := false, lampItems := [], groupItems := [], firstReads := [], awaited := [], kept := []
          deadline := none }) s
        with
        delivery := { s.delivery with
          owed := s.delivery.owed.put p []
          status := s.delivery.status.upd p fun t => t.map fun x =>
            if x.watchDeadline ≠ none then { x with watchDeadline := none, nextRead := none } else x }
        check := { s.check with oppPending := s.check.oppPending.put p [] }
        service := { s.service with
          pendingSet := s.service.pendingSet.put p false, rounds := s.service.rounds.put p {} } }
    let ends := fun (u : State) => ∃ t, exec .replyDeadline s = .next t
      ∧ t = { u with port := { u.port with refresh := t.port.refresh } }
    (unheardOf s p = 2 →
        (∀ a, s.InFlight (read a) d → a ≤ 1023 → (streamRec s p).identNext = some a →
          (stateOf s p = .identifying → ends (silent (lost .identifying 1 (stream {} (advanceTo d s)))))
            ∧ (stateOf s p = .lost → (posRec s p).attemptUnderWay = true → exec .replyDeadline s = .next (silent
              (modRec p (fun r => { r with attemptUnderWay := false }) (stream {} (advanceTo d s))))))
          ∧ (∀ a, s.InFlight (next a) d → a ≤ 1023 → stateOf s p = .describing → (streamRec s p).active = true →
            (streamRec s p).next = some a → ends (silent (lost .describing 2 (stream {} (advanceTo d s)))))
          ∧ (s.InFlight (wordOffer p) d → servicePending s p = true → (roundOf s p).reading = false →
            (roundOf s p).waiting = false → (streamRec s p).active = false → (streamRec s p).identNext = none →
            (stateOf s p = .exercising → ends (silent (lost .exercising 3 (advanceTo d s))))
              ∧ (stateOf s p = .running → ends (silent (lost .running 4 (advanceTo d s))))))
      ∧ ∀ (a : Nat) (heard ready : Bool) (w : Word),
          (s.InFlight (read a) d ∧ (streamRec s p).identNext = none)
            ∨ (s.InFlight (next a) d ∧ (streamRec s p).active = false) →
          exec (.transactionEnd { heard := heard, ready := ready, service := false, data := some w }) s =
            .next (setUnheard p 0 s.free))
    ∧ ∀ (s : State) (p : Pos) (d : Time), s.consist.release.active = false →
      let read := fun (a : Nat) => consistOfferOf (linePos p) .readWord (some a) none (.identWord p a)
      let reply := fun (heard ready : Bool) (x : Option Word) =>
        exec (.transactionEnd { heard := heard, ready := ready, service := false, data := x }) s
      let attempts := stateOf s p = .lost ∧ (posRec s p).attemptUnderWay = true
      let ended := fun (s : State) => modRec p (fun r => { r with attemptUnderWay := false }) s
      let identifies := Host.Outcome.next (State.granted (read 0) (setUnheard p 0 (modStream p (fun r =>
        { r with identNext := some 0, identWords := [] }) s)))
      let probes := fun (s : State) => Host.Outcome.next (State.granted (probeOffer p) s)
      (s.InFlight (recoveryOffer p) d →
          (attempts → (∀ x, reply true true x = identifies) ∧ (∀ x, reply true false x = probes s)
            ∧ (∀ any x, reply false any x = probes s) ∧ exec .replyDeadline s = probes (advanceTo d s))
          ∧ (stateOf s p = .vacant → (∀ x, reply true true x = .next (State.granted (strayOffer p) (setUnheard p 0 s)))
            ∧ (∀ x, reply true false x = .next s.free) ∧ (∀ any x, reply false any x = .next s.free)
            ∧ exec .replyDeadline s = .next (advanceTo d s).free)
          ∧ (¬ attempts → stateOf s p ≠ .vacant → (∀ x, reply true true x = .next (setUnheard p 0 s.free))
            ∧ (∀ x, reply true false x = .next s.free) ∧ (∀ any x, reply false any x = .next s.free)
            ∧ exec .replyDeadline s = .next (advanceTo d s).free))
        ∧ (s.InFlight (probeOffer p) d → ¬ attempts → (∀ w : Word, reply true true (some w) = .next (setUnheard p 0 s.free))
          ∧ (∀ x, reply true false x = .next (setUnheard p 0 s.free))
          ∧ ∀ any x, reply false any x = .next (setUnheard p 0 s.free))
        ∧ (s.InFlight (probeOffer p) d → attempts → (∀ w : Word, reply true true (some w) = identifies)
          ∧ (∀ x, reply true false x = identifies) ∧ (∀ any x, reply false any x = identifies)
          ∧ (unheardOf s p ≤ 3 → exec .replyDeadline s =
            .next (ended (setUnheard p (min 3 (unheardOf s p + 1)) (advanceTo d s))).free))
        ∧ ∀ (a : Nat) (ws : List Word), s.InFlight (read a) d → attempts → (streamRec s p).identNext = some a →
          (streamRec s p).identWords = ws → ws.length = a → a ≤ 7 →
          let passes := fun (w : Word) => (a = 0 → w.toNat = 1) ∧ (a = 1 → 16 ≤ w.toNat ∧ w.toNat ≤ 1024)
            ∧ (a = 5 → w.toNat ≤ 12 ∧ 8 + 2 * w.toNat ≤ (ws.getD 1 0).toNat)
          let asks := fun (answer : Host.Outcome State Fault Refusal) (u : State) => ∀ q, stateOf s q ≠ .vacant →
            stateOf s q ≠ .wired → (∀ x, q < x → stateOf s x = .vacant) → (∀ x, x ≠ p → (streamRec s x).identNext = none) →
            answer = .next (setUnheard p 0 (State.granted (releaseOffer q) (modRelease (fun r =>
              { r with active := true, lowest := some p, current := some q, phase := some .inFlight }) (ended u))))
          let failed := modStream p (fun r => { r with identNext := none, identWords := [] })
            (s.faulted .descriptorBad p none none a)
          (∀ w : Word, ¬ passes w → asks (reply true true (some w)) failed)
            ∧ (∀ x, asks (reply true false x) failed) ∧ (∀ any x, asks (reply false any x) failed)
            ∧ (unheardOf s p < 2 → exec .replyDeadline s =
                .next (State.granted (read a) (setUnheard p (unheardOf s p + 1) (advanceTo d s))))
            ∧ (∀ w : Word, a < 7 → passes w → reply true true (some w) = .next (setUnheard p 0 (State.granted (read (a + 1))
                (modStream p (fun r => { r with identNext := some (a + 1), identWords := ws ++ [w] }) s))))
            ∧ ∀ (w : Word) (h : Tab Word 8), a = 7 → (∀ k, h.get k = (ws ++ [w]).getD k.val 0) →
              let i : Identity := { builder := h.get 2, serial := h.get 3 ++ h.get 4, length := (h.get 1).toNat,
                                    checksum := h.get 7, revision := h.get 6 }
              let known := (∃ b, (posRec s p).identity = some b ∧ b.builder = i.builder ∧ b.serial = i.serial
                  ∧ b.checksum = i.checksum)
                ∧ ((posRec s p).prior = some .exercising ∨ (posRec s p).prior = some .running)
              let taken := modRec p (fun r => { r with identity := some i }) (modStream p (fun r =>
                { r with header := some h, identNext := none, identWords := [] }) s)
              (¬ known → asks (reply true true (some w)) taken)
                ∧ (known → (posRec s p).warm = true → (∀ g : Group, 4 ≤ g.val → dirOf s p g = none) →
                  (∀ f ∈ awaitedLamps s p, (entryOf s p f).result ≠ .unchecked) → s.check.slot = none →
                  s.check.rebuild = none → (∀ k, (circuitRec s k).overfull = false ∧ (circuitRec s k).rebuildPending = false) →
                  (∀ src, nodeCheck s p src = none) → s.delivery.owed.get p = [] → s.delivery.pendingRead = none →
                  (∀ f, targetBeneath s p f = 0 ∧ (entryOf s p f).nextRead = none
                    ∧ ((entryOf s p f).delivered = none ∨ (entryOf s p f).delivered = some 0)) →
                  ∃ t, reply true true (some w) = .next t
                    ∧ (let u := setUnheard p 0 (State.granted pollOffer (modStream p (fun r =>
                          { r with active := false, next := none, buffer := [], bufferOf := none })
                        (modRec p (fun r => { r with
                          state := .running, deadline := none, lampItems := [], groupItems := [], firstReads := []
                          awaited := [], kept := [], lostTimer := none, attempts := 0, prior := none, attemptTimer := none
                          attemptUnderWay := false }) taken)))
                      t = { u with
                        port := { u.port with refresh := t.port.refresh }
                        delivery := { s.delivery with status := t.delivery.status } })
                    ∧ ∀ q f, entryOf t q f = if q = p then
                        { entryOf s p f with notFitted := false, unavailable := false, retryAt := none,
                                             delivered := if kindOf f = .sensor then (entryOf s p f).delivered else some 0 }
                      else entryOf s q f)

/-! ## Deliveries, reads and rounds -/

/-- R98, R100, R111, R155, R159, TRANSACTION_END and REPLY_DEADLINE of a delivery SET and of a stop SET at a position in
service with no node-lamp check. Heard and Ready, the value is the delivered one, the unavailable flag clear, the driven
flag set by a nonzero value, a watch started by a nonzero value to an actuator and ended by 0; a stop besides is owed no
longer and is the last stopped. Heard and not Ready, a delivery is unavailable with its retry 1000 ms on, and a stop held
for 100 ms. A delivery still due when the stop is taken, as that of an override written since, is then offered under its
own access kind. Not Heard, POINT-UNKNOWN is recorded where the not-fitted mark was clear, the mark set, and a stop owed no
longer. A pending override reply of that function and value is answered OK, NOT-READY or NOT-FITTED. Unheard, the unheard
counter rises and the delivery still due is offered again at once. The line is free, the Delivery Unit then having nothing
else to offer, and nothing else changes. R142, R144. A nonzero SET accepted by a lamp whose result is DEFERRED, bound to a
NODE-fed row of point kind LAMP, besides starts its opportunistic check, with the first reading 50 ms on. That the clock
goes on to the moment of a timer whose command comes before it is the model's choice (notes/assumptions/2.md); so are the
moves of the last-offered and last-stopped functions (notes/assumptions/8.md, notes/assumptions/9.md) and which end answers
the override (notes/assumptions/10.md). -/
def Obligations.SetsEnd : Prop :=
  ∀ (s : State) (p : Pos) (f : Code) (v interval point : Nat) (k : AccessKind) (o : Offer) (d : Time) (q : Request)
    (rest : List Request), s.InFlight o d → o.pos = linePos p → o.op = .set → o.addr = some point → kindOf f ≠ .sensor →
    inService s p = true → (∀ src, nodeCheck s p src = none) → (s.delivery.pendingOverride ≠ none → s.Owing q rest) →
    let told := fun (v : Nat) (r : ResultCode) (s : State) =>
      if s.delivery.pendingOverride = some { pos := p, code := f, value := v } then
        State.replied { s with delivery := { s.delivery with pendingOverride := none } } q rest r []
      else s
    let ends := fun (heard ready : Bool) (t : State) => ∀ x : Option Word,
      State.AtRest (setUnheard p 0 t.over) p →
      exec (.transactionEnd { heard := heard, ready := ready, service := false, data := x }) s = .next (setUnheard p 0 t.free)
    let stopped := fun (s : State) => { s with delivery := { s.delivery with
      owed := s.delivery.owed.upd p fun os => os.filter fun x => decide (x.code ≠ f) } }
    (o.why = .delivery p f v k interval →
        ((v ≠ 0 → (entryOf s p f).result ≠ .deferred) → ends true true (told v .ok (modEntry p f (fun x =>
            let y := { x with delivered := some v, driven := x.driven || decide (v ≠ 0), unavailable := false, retryAt := none }
            if kindOf f = .actuator ∧ v ≠ 0 then
              { y with watchDeadline := some (s.now + interval * ms 100), watchUnits := interval,
                       nextRead := some (s.now + ms 100) }
            else if kindOf f = .actuator ∧ x.watchDeadline ≠ none then { y with watchDeadline := none, nextRead := none }
            else y) s)))
          ∧ (∀ (b : BlockNo) (e : DirEntry) (r : FnRecord), v ≠ 0 → kindOf f = .lamp → (entryOf s p f).result = .deferred →
            s.Bound p f b e r → r.feed = .node → r.pointKind = .lamp →
            ends true true (setNodeCheck p .opportunistic (some
                { code := f, row := some (r.point, r.nominal, r.loadKind), nextReading := some (s.now + ms 50)
                  expiry := s.now + ms s.settings.window, tolerance := s.settings.tolerance
                  threshold := s.settings.threshold })
              (reference b (told v .ok (modEntry p f (fun x =>
                { x with delivered := some v, driven := true, unavailable := false, retryAt := none }) s)))))
          ∧ ends true false (told v .notReady (modEntry p f (fun x =>
              { x with unavailable := true, retryAt := some (s.now + ms 1000) }) s))
          ∧ (∀ any, ends false any (told v .notFitted (s.unfitted p f (some k) point)))
          ∧ ∀ (w : Nat) (b : BlockNo) (e : DirEntry) (r : FnRecord), unheardOf s p < 2 → s.Bound p f b e r → r.point ≤ 63 →
              r.feed = .node → w = 0 ∨ permits s e.policyClass r.fnClass (deliveryKind s p f) = true →
              let s1 := setUnheard p (unheardOf s p + 1) (advanceTo d s)
              let again := State.granted (setOffer p f w (deliveryKind s p f) r)
                (noteOffered p (secondClass f w) f (reference b s1))
              s1.over.OneDue p f w → again.AtRest p → exec .replyDeadline s = .next again)
      ∧ (o.why = .stop p f →
        let taken := told 0 .ok (modEntry p f (fun x =>
            let y := { x with delivered := some 0, unavailable := false, retryAt := none }
            if x.watchDeadline ≠ none then { y with watchDeadline := none, nextRead := none } else y)
            { stopped s with delivery := { (stopped s).delivery with lastStopped := s.delivery.lastStopped.put p f } })
        ends true true taken
          ∧ (∀ (w : Nat) (b : BlockNo) (e : DirEntry) (r : FnRecord) (x : Option Word), s.Bound p f b e r → r.point ≤ 63 →
            r.feed = .node → permits s e.policyClass r.fnClass (deliveryKind s p f) = true →
            let again := State.granted (setOffer p f w (deliveryKind s p f) r)
              (noteOffered p (secondClass f w) f (reference b (setUnheard p 0 taken)))
            State.OneDue (setUnheard p 0 taken.over) p f w → again.AtRest p →
            exec (.transactionEnd { heard := true, ready := true, service := false, data := x }) s = .next again)
          ∧ ends true false (told 0 .notReady { s with delivery := { s.delivery with
              owed := s.delivery.owed.upd p fun os => os.map fun x =>
                if x.code = f then { x with notBefore := some (s.now + ms 100) } else x } })
          ∧ ∀ any, ends false any (told 0 .notFitted ((stopped s).unfitted p f (some .tss) point)))

/-- R82, R101, R102, R106, R152, R153, R156, R159, TRANSACTION_END and REPLY_DEADLINE of the GET of a management read, of a
periodic sensor read and of a watch read, at a RUNNING position. The data of a Heard and Ready end is taken as a reading,
with the VALUE frame of a sensor's new value. A management read is answered OK with the data, the delivered value and the
check result, NOT-READY or NOT-FITTED; one no longer asked for is discarded. A periodic read sets its next time by its
interval and writes OK, or SENSOR-FAULT for the 65535 mark or a not Ready end. A watch read that is Ready ends the watch
with OK; not Ready, it is due again 100 ms on; of one whose watch is over the data alone is taken (notes/assumptions/13.md).
Not Heard, POINT-UNKNOWN and the not-fitted mark are as for a SET, a scheduled read writes NO-REPLY, and a periodic read has
no next time. Unheard, the unheard counter rises and the same GET is offered again. The line is free, the Delivery Unit then
having nothing else to offer, and nothing else changes. That the clock goes on to the moment of a timer whose command comes
before it is the model's choice (notes/assumptions/2.md); that a 65535 from a sensor to a management read sets its read flag
alone is notes/assumptions/12.md, that a sensor whose management read ends Not Heard keeps its next periodic-read time is
notes/assumptions/11.md, that a read moves no last-offered function is notes/assumptions/8.md, and that the VALUE frame of a
read stands before its RESULT frame and after the reply is notes/assumptions/6.md and notes/assumptions/22.md. -/
def Obligations.ReadsEnd : Prop :=
  ∀ (s : State) (p : Pos) (f : Code) (point : Nat) (o : Offer) (d : Time), s.InFlight o d → o.pos = linePos p → o.op = .get →
    o.addr = some point → stateOf s p = .running →
    let reply := fun (heard ready : Bool) (x : Option Word) =>
      exec (.transactionEnd { heard := heard, ready := ready, service := false, data := x }) s
    let entry := fun (g : StatusEntry → StatusEntry) => modEntry p f g
    let after := fun (wait : Nat) => entry fun x => { x with nextRead := some (s.now + wait) }
    let s1 := setUnheard p (unheardOf s p + 1) (advanceTo d s)
    (o.why = .managementRead p f → ∀ (q : Request) (rest : List Request),
        let answered := fun (r : ResultCode) (bytes : List Byte) (s : State) =>
          State.replied { s with delivery := { s.delivery with pendingRead := none } } q rest r bytes
        let ends := fun (answer : Host.Outcome State Fault Refusal) (t : State) (frame : State → State) =>
          State.AtRest (setUnheard p 0 t.over) p → answer = .next (frame (setUnheard p 0 t.free))
        (∀ heard ready w, s.delivery.pendingRead = none → ends (reply heard ready (some w)) s id)
          ∧ (s.delivery.pendingRead = some { pos := p, code := f, point := some point } → s.Owing q rest →
            (∀ w : Word, ends (reply true true (some w))
                (answered .ok (word w.toNat ++ word ((entryOf s p f).delivered.getD 65535)
                  ++ [BitVec.ofNat 8 (resultOrdinal (entryOf s p f).result)]) (s.reading p f w)) (State.valued p f w s))
              ∧ (∀ x, ends (reply true false x) (answered .notReady [] s) id)
              ∧ (∀ any x, ends (reply false any x) (answered .notFitted [] (s.unfitted p f (some .mgr) point)) id)
              ∧ (point ≤ 63 → unheardOf s p < 2 →
                let get : Offer :=
                  { requester := .deliveryUnit, cls := 1, pos := linePos p, op := .get, addr := some point, data := none,
                    why := .managementRead p f }
                State.SetsAtRest { s1.over with delivery := { s.delivery with pendingRead := none } } p →
                  dueReads s1.over p = [] → (s1.granted get).SetsAtRest p →
                  exec .replyDeadline s = .next (s1.granted get))))
      ∧ (∀ interval, o.why = .periodicRead p f interval → kindOf f = .sensor →
        let ends := fun (answer : Host.Outcome State Fault Refusal) (t : State) (frame : State → State) (r : CheckResult) =>
          dueReads (setUnheard p 0 t.over) p = [] → answer = .next (State.resulting p f r (frame (setUnheard p 0 t.free)))
        (∀ w : Word, ends (reply true true (some w)) (after (interval * ms 100) (s.reading p f w)) (State.valued p f w s)
            (if w = 65535 then .sensorFault else .ok))
          ∧ (∀ x, ends (reply true false x) (after (interval * ms 100) s) id .sensorFault)
          ∧ (∀ any x, ends (reply false any x)
              (entry (fun e => { e with nextRead := none }) (s.unfitted p f (some .rdp) point)) id .noReply)
          ∧ (∀ (b : BlockNo) (e : DirEntry) (r : FnRecord) (t : Time) (more : List (Code × Bool × Time)), unheardOf s p < 2 →
              s.Bound p f b e r → r.point ≤ 63 → permits s e.policyClass r.fnClass .rdp = true →
              dueReads s1.over p = (f, false, t) :: more →
              exec .replyDeadline s = .next ((reference b s1).granted (scheduledOffer p f false r))))
      ∧ (o.why = .watchRead p f → kindOf f = .actuator →
        let ends := fun (answer : Host.Outcome State Fault Refusal) (t : State) (result : State → State) =>
          State.AtRest (setUnheard p 0 t.over) p → answer = .next (result (setUnheard p 0 t.free))
        let ended := entry fun x => { x with watchDeadline := none, nextRead := none }
        ((entryOf s p f).watchDeadline = none →
            (∀ w : Word, ends (reply true true (some w)) (s.reading p f w) id)
              ∧ (∀ x, ends (reply true false x) s id) ∧ ∀ any x, ends (reply false any x) s id)
          ∧ ((entryOf s p f).watchDeadline ≠ none →
            (∀ w : Word, ends (reply true true (some w)) (ended (s.reading p f w)) (State.resulting p f .ok))
              ∧ (∀ x, ends (reply true false x) (after (ms 100) s) id)
              ∧ (∀ any x, ends (reply false any x) ((ended s).unfitted p f (some .rdp) point) (State.resulting p f .noReply)))
          ∧ (∀ (b : BlockNo) (e : DirEntry) (r : FnRecord) (t : Time) (more : List (Code × Bool × Time)), unheardOf s p < 2 →
              s.Bound p f b e r → r.point ≤ 63 → permits s e.policyClass r.fnClass .rdp = true → s1.over.SetsAtRest p →
              dueReads s1.over p = (f, true, t) :: more →
              exec .replyDeadline s = .next ((reference b s1).granted (scheduledOffer p f true r))))

/-- R82, R102, R153, R156, R166, R167, TRANSACTION_END and REPLY_DEADLINE of a GET of a service round at a RUNNING position.
Point 62: a word that names a function raises the count, and the function's GET is in flight where its group holds a LOADED
block with a usable NODE-fed row and its not-fitted mark is clear; where its group is not present it is passed over and
point 62 read again. A word that names none, a not Ready end and a Not Heard one end the round, and so does a 17th function,
with a pause of 1000 ms. The function's GET: its data is taken as a reading, a sensor is written OK or SENSOR-FAULT, and an
actuator's watch ends with OK; not Ready changes nothing, Not Heard writes NO-REPLY beside POINT-UNKNOWN and the not-fitted
mark; after each of these point 62 is read again, and none moves the next periodic-read time of a sensor. Unheard, the
unheard counter rises and the same GET is offered again. The line is free after a round that ends, and nothing else changes,
the Delivery Unit having nothing else to offer. That the clock goes on to the moment of a timer whose command comes before
it is the model's choice (notes/assumptions/2.md); that the VALUE frame stands before the RESULT frame is
notes/assumptions/6.md, that a 65535 sets the read flag alone is notes/assumptions/12.md, and that the return to point 62
clears the named function and its point, and a round that ends, for whatever reason, leaves its record as after reset, is
notes/assumptions/41.md. -/
def Obligations.ServiceRoundsGoOn : Prop :=
  ∀ (s : State) (p : Pos) (d : Time), stateOf s p = .running → servicePending s p = true → (roundOf s p).waiting = false →
    let c := (roundOf s p).count
    let reply := fun (heard ready : Bool) (x : Option Word) =>
      exec (.transactionEnd { heard := heard, ready := ready, service := false, data := x }) s
    let heard := setUnheard p 0
    let s1 := setUnheard p (unheardOf s p + 1) (advanceTo d s)
    let round := fun (r : Round) (s : State) =>
      { s with service := { s.service with rounds := s.service.rounds.put p r } }
    let done := fun (pause : Option Time) (s : State) => { s with service := { s.service with
      pendingSet := s.service.pendingSet.put p false, rounds := s.service.rounds.put p {},
      pauses := match pause with
        | some t => s.service.pauses.put p (some t)
        | none => s.service.pauses } }
    let word := wordOffer p
    (s.InFlight word d → (roundOf s p).reading = false →
        (∀ w : Word, 192 ≤ w.toNat → reply true true (some w) = .next (heard (done none s).free))
          ∧ (∀ (w : Word) (f : Code), w.toNat = f.val →
            (16 ≤ c → reply true true (some w) = .next (heard (done (some (s.now + ms 1000)) s).free))
              ∧ (c < 16 → dirOf s p (groupOf f) = none →
                reply true true (some w) = .next (heard ((round { count := c + 1 } s).granted word)))
              ∧ ∀ (b : BlockNo) (e : DirEntry) (r : FnRecord), c < 16 → s.Bound p f b e r → r.point ≤ 63 →
                (r.feed = .node → (entryOf s p f).notFitted = false → reply true true (some w) = .next (heard (State.granted
                    (namedOffer p f r.point)
                    (round { reading := true, code := some f, point := some r.point, count := c + 1 } (reference b s)))))
                  ∧ (r.feed = .wired ∨ (entryOf s p f).notFitted = true →
                    reply true true (some w) = .next (heard (State.granted word (round { count := c + 1 } (reference b s))))))
          ∧ (∀ x, reply true false x = .next (heard (done none s).free))
          ∧ (∀ any x, reply false any x = .next (heard (done none s).free))
          ∧ (unheardOf s p < 2 → exec .replyDeadline s = .next (s1.granted word)))
      ∧ ∀ (f : Code) (point : Nat), s.InFlight (namedOffer p f point) d → point ≤ 63 → (roundOf s p).reading = true →
        (roundOf s p).code = some f →
        let again := fun (s : State) => State.granted word (round { count := c } s)
        let watched := kindOf f = .actuator ∧ (entryOf s p f).watchDeadline ≠ none
        (∀ w : Word,
            let t := again (heard (s.reading p f w))
            let u := modEntry p f (fun x => { x with watchDeadline := none, nextRead := none }) t
            (kindOf f = .sensor → reply true true (some w) =
                .next (State.resulting p f (if w = 65535 then .sensorFault else .ok) (State.valued p f w s t)))
              ∧ (kindOf f ≠ .sensor → ¬ watched → reply true true (some w) = .next t)
              ∧ (watched → dueReads u p = [] → reply true true (some w) = .next (State.resulting p f .ok u)))
          ∧ (∀ x, reply true false x = .next (again (heard s)))
          ∧ (∀ any x, (heard (s.unfitted p f none point)).over.AtRest p →
            reply false any x = .next (State.resulting p f .noReply (again (heard (s.unfitted p f none point)))))
          ∧ (unheardOf s p < 2 → exec .replyDeadline s = .next (s1.granted (namedOffer p f point)))

/-- R169, R170, R171, R172, TRANSACTION_END and REPLY_DEADLINE of an item of the running sequence. Where the item is stored
it joins the buffer with its data where it was Ready: always on a Ready end, else in every mode but REPEAT-UNTIL-READY, but
for a Not Heard one of a WALK. A stored item that is not Ready ends STOP-ON-NOT-READY with ABORTED-NOT-READY; any other
stored item ends the sequence COMPLETE at the count, and else the next point or address is in flight with the item start
now, or, past the last one of a WALK, point 0 of the next position in service, and with none the sequence ends WALK-DONE. A
Not Heard item of a WALK moves on to that position too. REPEAT-UNTIL-READY repeats an item that is not Ready 10 ms on.
Unheard, the unheard counter rises and the same item is offered again. The line is free where nothing is offered, and
nothing else changes. That the clock goes on to the moment of a timer whose command comes before it is the model's choice
(notes/assumptions/2.md), as are the run number and that an item not Ready that reaches the count of STOP-ON-NOT-READY ends
it ABORTED-NOT-READY (notes/assumptions/19.md). -/
def Obligations.SequenceItemsEnd : Prop :=
  ∀ (s : State) (p : Pos) (a n : Nat) (op : SeqOp) (m : SeqMode) (d : Time), s.sequence.state = .running →
    s.sequence.pos = some p → s.sequence.addr = some a → s.sequence.op = some op → s.sequence.mode = some m →
    s.sequence.count = some n → inService s p = true → a ≤ seqLast op →
    let item := fun (p : Pos) (a : Nat) =>
      ({ requester := .sequenceUnit, cls := 6, pos := linePos p, op := seqLineOp op, addr := some a, data := none,
         why := .sequenceItem p a s.sequence.run } : Offer)
    s.InFlight (item p a) d →
    let reply := fun (heard ready : Bool) (x : Option Word) =>
      exec (.transactionEnd { heard := heard, ready := ready, service := false, data := x }) s
    let heard := setUnheard p 0
    let seq := fun (f : Sequence → Sequence) => { s with sequence := f s.sequence }
    let store := fun (heard : Bool) (w : Option Word) (q : Sequence) => { q with
      buffer := q.buffer ++ [{ pos := p, addr := a, heard := heard, ready := w.isSome, data := w }] }
    let ended := fun (c : SeqEnd) (q : Sequence) => { q with state := .ended, endCode := some c, repeatAt := none }
    let ends := fun (x : Host.Outcome State Fault Refusal) (f : Sequence → Sequence) => x = .next (heard (seq f).free)
    let goesOn := fun (x : Host.Outcome State Fault Refusal) (f : Sequence → Sequence) (q : Pos) (b : Nat) =>
      x = .next (heard (State.granted (item q b)
        (seq fun y => { f y with pos := some q, addr := some b, itemStart := some s.now })))
    let moves := fun (x : Host.Outcome State Fault Refusal) (f : Sequence → Sequence) =>
      ((∀ q, p < q → inService s q = false) → ends x fun y => ended .walkDone (f y))
        ∧ ∀ q, p < q → inService s q = true → (∀ r, p < r → r < q → inService s r = false) → goesOn x f q 0
    let advances := fun (x : Host.Outcome State Fault Refusal) (f : Sequence → Sequence) =>
      (n ≤ s.sequence.buffer.length + 1 → ends x fun y => ended .complete (f y))
        ∧ (s.sequence.buffer.length + 1 < n → (m = .walk → a < seqLast op) → a + 1 ≤ seqLast op → goesOn x f p (a + 1))
        ∧ (s.sequence.buffer.length + 1 < n → m = .walk → a = seqLast op → moves x f)
    (∀ w : Word, advances (reply true true (some w)) (store true (some w)))
      ∧ (∀ x, (m = .stopOnNotReady → ends (reply true false x) fun y => ended .abortedNotReady (store true none y))
        ∧ (m = .ignoreReady ∨ m = .walk → advances (reply true false x) (store true none))
        ∧ (m = .repeatUntilReady → ends (reply true false x) fun y => { y with repeatAt := some (s.now + ms 10) }))
      ∧ (∀ any x, (m = .stopOnNotReady → ends (reply false any x) fun y => ended .abortedNotReady (store false none y))
        ∧ (m = .ignoreReady → advances (reply false any x) (store false none))
        ∧ (m = .repeatUntilReady → ends (reply false any x) fun y => { y with repeatAt := some (s.now + ms 10) })
        ∧ (m = .walk → moves (reply false any x) id))
      ∧ (unheardOf s p < 2 → exec .replyDeadline s =
          .next (State.granted (item p a) (setUnheard p (unheardOf s p + 1) (advanceTo d s))))

/-! ## Timers -/

/-- R74, EXERCISE_READ_REPEAT of the only first read of an EXERCISING position: it is held no longer and its GET is offered
at class 5. R76, R77, R114, EXERCISE_DEADLINE of a warm position with no sensor group present: DEFERRED is written to each
awaited lamp still UNCHECKED, NO-REPLY to each first read outstanding that is unheard or not yet issued, and ACT-TIMEOUT,
with the fault of that kind, to each whose last end was not Ready, with the RESULT frame of each changed result; a GET for
its exercise on offer is withdrawn; the plan is emptied, the state becomes RUNNING, the deadline none, and a POLL is offered
(R164). Nothing else changes. That a first read in flight gets no result is the model's choice (notes/assumptions/14.md). So
is the order in which the results are written and their RESULT frames stand, which R77 does not give: the awaited lamps as
the model lists them, those of the circuits by ascending circuit and then the required lamps of the record, and the first
reads in one pass in list order, NO-REPLY and ACT-TIMEOUT mixed (notes/assumptions/6.md, notes/assumptions/14.md). That the
clock goes on to the moment of a timer whose command comes before it is the model's choice (notes/assumptions/2.md). -/
def Obligations.FirstReadTimersRunOut : Prop :=
  ∀ (s : State) (p : Pos) (m : Time), s.Quiet → stateOf s p = .exercising → wantedReading s p = none →
    let s1 := advanceTo m s
    (∀ x : FirstRead, (posRec s p).firstReads = [x] → x.notBefore = some m → ccInFlight s p = false →
        s.line.offers = [] → releaseOffered s p = false → x.point ≤ 63 →
        exec (.exerciseReadRepeat p x.code) s = .next (makeOffer (firstReadOffer p x)
          (modRec p (fun r => { r with firstReads := [{ x with notBefore := none }] }) s1)))
      ∧ ((posRec s p).deadline = some m → (posRec s p).warm = true →
          (∀ g, kindOfGroup g = .sensor → dirOf s p g = none) → (∀ f, (entryOf s p f).nextRead = none) →
          (awaitedLamps s p).length ≤ 256 → (posRec s p).firstReads.length ≤ 256 →
          (∀ o ∈ s.line.offers, o.requester = .servicePoller → o.cls = 3 → o.pos = 0 → o = pollOffer) →
          let lamps := (awaitedLamps s p).filter fun f => decide ((entryOf s p f).result = .unchecked)
          let s2 := lamps.foldl (fun t f => State.resulting p f .deferred t) s1
          let s3 := (posRec s p).firstReads.foldl (fun t x => match x.last with
            | .unheard | .notIssued => State.resulting p x.code .noReply t
            | .notReady => (State.resulting p x.code .actTimeout t).faulted .actTimeout p (some x.code) none 0
            | .issued => t) s2
          let withdrawn := setOffers (fun os => os.filter fun o => !(decide (o.requester = .consistController) &&
            match o.why with
            | .firstRead q _ | .nodeLamp q _ _ _ => decide (q = p)
            | _ => false)) s3
          exec (.exerciseDeadline p) s = .next (makeOffer pollOffer (modRec p (fun r =>
            { r with
              state := .running, deadline := none, lampItems := [], groupItems := [], firstReads := [], awaited := [],
              kept := [] })
            withdrawn)))

/-- R82, R96, R98, R110, R111, UNAVAILABLE_RETRY and STOP_REPEAT while a transaction is in flight, the function bound to a
usable row: the delivery that is due and unheld now stands on offer with its value, and the owed stop, held no longer,
stands on offer as a SET of 0, which no policy bars. The block's referenced flag is set. Nothing else changes: that the stop
offered moves neither the last-offered nor the last-stopped function is read from the rules (notes/assumptions/8.md,
notes/assumptions/9.md). R82, R106, R151, R156, PERIODIC_READ_DUE and WATCH_READ_DUE of the read that is the first due of
its position, its function bound to a row that admits the read and no class 6 read of the position standing or in flight:
its GET is offered at class 6 and the block's referenced flag is set. Nothing else changes. That the clock goes on to the
moment of a timer whose command comes before it is the model's choice (notes/assumptions/2.md). -/
def Obligations.HeldAccessesAreOffered : Prop :=
  (∀ (s : State) (p : Pos) (f : Code) (m : Time) (b : BlockNo) (e : DirEntry) (r : FnRecord) (fl : Flight), s.notices = [] →
     s.line.flight = some fl → s.Bound p f b e r → r.point ≤ 63 →
     let s1 := advanceTo m s
     (∀ v, (entryOf s p f).unavailable = true → (entryOf s p f).retryAt = some m → s1.OneDue p f v → r.feed = .node →
         v = 0 ∨ permits s e.policyClass r.fnClass (deliveryKind s p f) = true →
         exec (.unavailableRetry p f) s = .next (setOffers (fun os => os ++ [setOffer p f v (deliveryKind s p f) r])
           (noteOffered p (secondClass f v) f (reference b s1))))
       ∧ (s.delivery.owed.get p = [{ code := f, notBefore := some m }] → State.AtRest (modOwed p (fun _ => []) s1) p →
           stopInFlight s p f = false →
           exec (.stopRepeat p f) s = .next (setOffers (fun os => os ++ [stopOffer p f r.point])
             (reference b (modOwed p (fun _ => [{ code := f, notBefore := none }]) s1)))))
    ∧ (∀ (s : State) (p : Pos) (f : Code) (m : Time) (b : BlockNo) (e : DirEntry) (r : FnRecord)
         (rest : List (Code × Bool × Time)),
         s.Quiet → s.Bound p f b e r → r.point ≤ 63 → permits s e.policyClass r.fnClass .rdp = true →
         standing s .deliveryUnit 5 (linePos p) = none → readInFlight s p = false →
         let s1 := advanceTo m s
         (periodicMoment s p f = some m → dueReads s1 p = (f, false, m) :: rest →
             exec (.periodicReadDue p f) s = .next (makeOffer (scheduledOffer p f false r) (reference b s1)))
           ∧ (watchMoment s p f = some m → dueReads s1 p = (f, true, m) :: rest →
             exec (.watchReadDue p f) s = .next (makeOffer (scheduledOffer p f true r) (reference b s1))))

/-- R92, R109, R110, R157, R199, ACTUATOR_WATCH_TIMEOUT at a RUNNING position while another transaction is in flight,
nothing else due at the position: the watch ends, ACT-TIMEOUT is written and its RESULT frame placed, the ACT-TIMEOUT fault
recorded with the completion timeout as detail, the timeout hold set, and the stop that is owed now stands on offer. Nothing
else changes: that the stop offered moves neither the last-offered nor the last-stopped function is read from the rules
(notes/assumptions/8.md, notes/assumptions/9.md). That the clock goes on to the moment of a timer whose command comes before
it is the model's choice (notes/assumptions/2.md). -/
def Obligations.WatchTimesOut : Prop :=
  ∀ (s : State) (p : Pos) (f : Code) (m : Time) (b : BlockNo) (e : DirEntry) (r : FnRecord) (fl : Flight), s.notices = [] →
    s.line.flight = some fl → stateOf s p = .running → (entryOf s p f).watchDeadline = some m →
    (entryOf s p f).result ≠ .actTimeout → s.Bound p f b e r → r.point ≤ 63 → stopInFlight s p f = false →
    (∀ o ∈ s.line.offers, o.why ≠ .watchRead p f) →
    s.delivery.owed.get p = [] →
    let s1 := advanceTo m s
    s1.AtRest p →
    let s2 := placeResultFrame p (groupOf f) (halfOf f) (modEntry p f (fun x =>
      { x with watchDeadline := none, nextRead := none, result := .actTimeout }) s1)
    let fault : FaultRecord :=
      { kind := .actTimeout, pos := some p, code := some f, access := none, detail := (entryOf s p f).watchUnits,
        followed := false }
    let s3 := modOwed p (fun _ => [{ code := f, notBefore := none }]) (modEntry p f (fun x => { x with timeoutHold := true }) s2)
    exec (.actuatorWatchTimeout p f) s = .next (setOffers (fun os => os ++ [stopOffer p f r.point])
      (reference b { s3 with policy := { s.policy with faults := addFault fault s.policy.faults } }))

/-- R142, R143, R144, R147, NODE_LAMP_READING_DUE, NODE_LAMP_CHECK_EXPIRY and EXERCISE_SLOT_EXPIRY. The reading that is due,
of the one check of a RUNNING position, asks for point 63 and its GET is offered at class 5. An opportunistic check that
expires, no code waiting behind it, is over: its last counted class is written and the RESULT frame placed, and with none
counted nothing is written over a result other than UNCHECKED. A circuit check that expires, no entry waiting, frees the
slot. Its last evaluation is reported as SampleTick says of an establishment (a last evaluation that is reported already
writes nothing, notes/assumptions/31.md); with none made DEFERRED is written to each contributor still UNCHECKED. A WINDOW
besides clears the exercise flag and has the pending on-count computed from the level beneath; with no contributors nothing
is delivered, and a single WIRED-fed contributor, its target 0 again, has 0 delivered. Nothing else changes. That the clock
goes on to the moment of a timer whose command comes before it is the model's choice (notes/assumptions/2.md). -/
def Obligations.LoadCheckTimersRunOut : Prop :=
  ∀ (s : State) (p : Pos) (m : Time), s.Quiet →
    let s1 := advanceTo m s
    (∀ src c, stateOf s p = .running → nodeCheck s p src = some c → c.nextReading = some m →
        (∀ x, x ≠ src → nodeCheck s p x = none) → standing s .loadCheckUnit 4 (linePos p) = none →
        readingInFlight s p = false →
        exec (.nodeLampReadingDue p src) s = .next (makeOffer (readingOffer .loadCheckUnit p (src, c.code, .supply, 63))
          (setNodeCheck p src (some { c with nextReading := none, step := some .supply, supply := none }) s1)))
      ∧ (∀ c, stateOf s p = .running → nodeCheck s p .opportunistic = some c → c.expiry = m → nodeCheck s p .slot = none →
          s.check.oppPending.get p = [] →
          let s2 := withdrawReading p .opportunistic (setNodeCheck p .opportunistic none s1)
          (c.lastClass = none → (entryOf s p c.code).result ≠ .unchecked →
              exec (.nodeLampCheckExpiry p .opportunistic) s = .next s2)
            ∧ ∀ cls, c.lastClass = some cls → (entryOf s p c.code).result ≠ classResult cls true →
              exec (.nodeLampCheckExpiry p .opportunistic) s = .next (placeResultFrame p (groupOf c.code) (halfOf c.code)
                (modEntry p c.code (fun x => { x with result := classResult cls true }) s2)))
      ∧ (∀ (sl : Slot) (k : LineNo), s.check.slot = some sl → sl.entry.target = .circuit k → sl.expiry = m →
          s.check.queue = [] → (circuitRec s k).contributors.length ≤ 16 →
          let x := circuitRec s k
          let open' := x.contributors.filter fun c => decide ((entryOf s c.pos c.code).result = .unchecked)
          let ends := fun (writes : Prop) (written : State) =>
            let u := State.slotFreed k sl.window written
            (writes → State.Reportable { s with check := { s.check with slot := none } } k) →
            (sl.window = false → exec .exerciseSlotExpiry s = .next u)
              ∧ (sl.window = true → x.contributors = [] → u.Resting → exec .exerciseSlotExpiry s = .next u)
              ∧ ∀ (c : Contributor) (b : BlockNo) (e : DirEntry) (r : FnRecord), sl.window = true → x.contributors = [c] →
                written.Bound c.pos c.code b e r → r.feed = .wired → kindOf c.code = .lamp →
                targetBeneath s c.pos c.code = 0 →
                s.delivery.pendingOverride = none → (∀ src, nodeCheck s c.pos src = none) →
                let v := modEntry c.pos c.code (fun y => { y with refusalLatch := false }) u
                let w := modEntry c.pos c.code (fun y => { y with delivered := some 0 }) (reference b v)
                v.OneDue c.pos c.code 0 → w.AtRest c.pos → (∀ q, q ≠ c.pos → inService s q = true → v.AtRest q) →
                exec .exerciseSlotExpiry s = .next w
          (x.last = none → ends (open' ≠ [])
              (open'.foldl (fun t c => State.resulting c.pos c.code .deferred t) s1))
            ∧ ∀ o, x.last = some o → ends (x.reported ≠ some o)
              (if x.reported = some o then s1 else State.reporting k o (modCircuit k (fun c => { c with reported := some o }) s1)))

/-- R164, R169, R170, R172, R181, POLL_TIME, SEQUENCE_REPEAT, SEQUENCE_ITEM_TIMEOUT and RECOVERY_ATTEMPT. The POLL is
offered; the repeated item is offered again at class 7; an item that runs out of time ends the sequence TIMEOUT with its
offer withdrawn; and an attempt timer restarts for 1 s, making an attempt, counted to at most 255, at the frontmost LOST
position where the coupling state is PRESENT and none is under way. Nothing else changes. That the clock goes on to the
moment of a timer whose command comes before it is the model's choice (notes/assumptions/2.md). -/
def Obligations.LineTimersRunOut : Prop :=
  ∀ (s : State) (m : Time), s.Quiet →
    let s1 := advanceTo m s
    (pollMoment s = some m → exec .pollTime s = .next (makeOffer pollOffer s1))
      ∧ (∀ p a o, s.sequence.state = .running → s.sequence.repeatAt = some m → s.sequence.pos = some p →
          s.sequence.addr = some a → s.sequence.op = some o → a ≤ seqLast o →
          exec .sequenceRepeat s = .next (makeOffer
            { requester := .sequenceUnit, cls := 6, pos := linePos p, op := seqLineOp o, addr := some a, data := none,
              why := .sequenceItem p a s.sequence.run }
            { s1 with sequence := { s.sequence with repeatAt := none } }))
      ∧ (∀ t n, s.sequence.state = .running → s.sequence.mode = some .repeatUntilReady → s.sequence.itemStart = some t →
          s.sequence.timeout = some n → m = t + ms n →
          exec .sequenceItemTimeout s = .next { s1 with
            sequence := { s.sequence with state := .ended, endCode := some .timeout, repeatAt := none }
            line := { s.line with offers := s.line.offers.filter fun o => decide (o.requester ≠ .sequenceUnit) } })
      ∧ ∀ p, stateOf s p = .lost → (posRec s p).attemptTimer = some m →
          (frontmostLost s p = true → s.consist.cplPresent = true → (posRec s p).attemptUnderWay = false →
              exec (.recoveryAttempt p) s = .next (makeOffer (recoveryOffer p) (modRec p (fun r =>
                { r with attemptTimer := some (m + ms 1000), attempts := min 255 (r.attempts + 1),
                         attemptUnderWay := true }) s1)))
            ∧ (frontmostLost s p = false ∨ s.consist.cplPresent = false ∨ (posRec s p).attemptUnderWay = true →
              exec (.recoveryAttempt p) s = .next (modRec p (fun r => { r with attemptTimer := some (m + ms 1000) }) s1))

/-! ## Resets -/

/-- R2, R37, R57, R128, R187, R189, POWER_ON_RESET: everything is as after reset, but for the strap value, the level at CPL,
the fault inputs and the store. An input found asserted trips its group, recorded as a GROUP-TRIP fault, FA first. A store
whose checksum holds gives the restart cause by its restart code, and a DEVICE-RESET code is rewritten; one whose checksum
fails sets MEMORY-INVALID and gives POWER-ON. That FA's fault record stands before FB's, and that the RELEASE of the
start-up sweep is in flight at once, are the model's choices (notes/assumptions/6.md, notes/assumptions/7.md). What a
cut-short write leaves, the counter of free values and the queue that stays are the model's choices (notes/assumptions/4.md,
notes/assumptions/24.md, notes/assumptions/25.md). R35, R37, R57, R118, R130, R187, R189, R196, DEVICE_RESET, due once the
reply of RESET-DEVICE has been sent or 100 ms after it was placed: everything is as after reset, but that the clock, the
store and the Direct Line Unit are kept, each line in HOLD with its on-count pending, or, tripped, with pending on-count 0;
the strap value is the one now read, the CONSIST timer and the poll time start afresh, a transaction in flight runs on with
its end discarded, and the sweep's RELEASE to position 4 is offered. That the clock goes on to the moment of a timer whose
command comes before it is the model's choice (notes/assumptions/2.md). What is kept beyond what the rules name, the level
at CPL among it, is the model's choice (notes/assumptions/26.md). -/
def Obligations.PartResets : Prop :=
  (∀ (s : State) (pins : Pins) (cut : Bool),
     let store := storeAtCut s.memory cut
     let fault := fun (n : Nat) =>
       ({ kind := .groupTrip, pos := none, code := none, access := none, detail := n, followed := false } : FaultRecord)
     exec (.powerOnReset pins cut) s = .next { State.reset with
       pending := s.pending
       freeCount := s.freeCount
       port := { node := pins.straps }
       consist := { sweep := some 3, cplLevel := pins.cpl, cplTimer := if pins.cpl then some 0 else none }
       direct := { faultA := pins.fa, tripA := pins.fa, faultB := pins.fb, tripB := pins.fb }
       policy := { faults := (if pins.fa then [fault 0] else []) ++ (if pins.fb then [fault 1] else []) }
       memory :=
         if checksumHolds store then
           { store := store, invalid := false, cause := some (if store.code = .deviceReset then .deviceReset else .powerOn),
             writing := if store.code = .deviceReset then some (.header .none) else none }
         else { store := store, invalid := true, cause := some .powerOn } })
    ∧ (∀ (s : State) (straps : Fin 4) (t : Time), s.notices = [] → s.management.resetPlaced = some t →
         (∀ fl, s.line.flight = some fl → fl.ended = false) →
         let s1 := advanceTo (if s.management.resetSent then s.now else t + ms 100) s
         ∃ u : State, exec (.deviceReset straps) s = .next (makeOffer (sweepOffer 3) u)
           ∧ u = { State.reset with
               now := s1.now
               pending := s.pending
               freeCount := s.freeCount
               line := { flight := s.line.flight.map fun fl => { fl with discard := true } }
               consist := { sweep := some 3, cplLevel := s.consist.cplLevel,
                            cplTimer := if s.consist.cplLevel then some s1.now else none }
               direct := { s.direct with lines := u.direct.lines }
               service := { nextPoll := some s1.now }
               memory := memoryAtStart s.memory.store
               port := { node := straps, consistAt := s1.now + ms 100 } }
           ∧ ∀ k, lineRec u k =
               if tripped s k then { lineRec s k with exercise := false, hold := none, pendingOn := 0 }
               else { lineRec s k with exercise := false, hold := some s1.now, pendingOn := (lineRec s k).onCount })

/-! ## Requests -/

/-- R191: a request of the table whose argument bytes end before its arguments do is answered BAD-ARG, by its own command,
and nothing else changes, but that a short second part of WRITE-DECODE whose valid byte is there and set empties the staging
record (R193). That a command whose request is not at the head changes nothing, and that a second part with its valid byte
clear or missing keeps the staging record, are the model's reading (notes/assumptions/30.md). -/
def Obligations.ShortRequestsAreRefused : Prop :=
  (∀ (c : Instr) (code need : Nat) (s : State) (r : Request) (rest : List Request),
    (c, code, need) ∈ ([(.readState, 1, 4), (.writeDecodeFirstPart, 2, 6), (.readDecode, 3, 2), (.writePolicy, 4, 3),
      (.readPolicy, 5, 2), (.writeWired, 6, 4), (.readWired, 7, 2), (.writeTimebase, 8, 3), (.setSystem, 9, 3),
      (.setFunction, 10, 4), (.clearOverride, 11, 2), (.getFunction, 12, 2), (.clearActivity, 13, 1), (.pinGroup, 14, 2),
      (.unpinGroup, 15, 2), (.recheck, 16, 3), (.startSequence, 17, 6), (.readSequenceItem, 19, 2), (.readFault, 20, 1),
      (.rearmLines, 22, 1), (.releasePosition, 23, 1)] : List (Instr × Nat × Nat)) →
    s.notices = [] → s.Serving code r rest → r.args.length < need → (code = 2 → argByte r.args 0 < 128) →
    exec c s = .next (s.replied r rest .badArg []))
  ∧ ∀ (s : State) (r : Request) (rest : List Request), s.notices = [] → s.Serving 2 r rest → r.args.length < 6 →
    128 ≤ argByte r.args 0 → exec .writeDecodeSecondPart s = .next (State.replied
      (if 2 ≤ r.args.length ∧ argByte r.args 1 = 1 then setStaging none s else s) r rest .badArg [])

/-- R5, R107, R115, R119, R173, R191, R194: READ-STATE, READ-DECODE, READ-POLICY, READ-WIRED, READ-FAULT and
READ-SEQUENCE-ITEM answer with the part asked for of what they name, or BAD-ARG where the item, entry, class, line, field or
part is out of range; an index with no stored item is answered NOT-READY. Nothing else changes. The encodings of READ-STATE
that the manual does not spell out are the model's choices, that COMMAND sends the age of the entry among them
(notes/assumptions/23.md). -/
def Obligations.TablesAreRead : Prop :=
  ∀ (s : State) (r : Request) (rest : List Request),
    let a := argByte r.args
    let bad := Host.Outcome.next (s.replied r rest .badArg [])
    (s.Serving 1 r rest → 4 ≤ r.args.length →
        (∀ bytes, readItem s (a 0) (a 1 + 256 * a 2) = some bytes →
            exec .readState s = .next (s.part r rest .ok bytes (a 3)))
          ∧ (readItem s (a 0) (a 1 + 256 * a 2) = none → exec .readState s = bad))
      ∧ (s.Serving 3 r rest → 2 ≤ r.args.length →
        (∀ n : Fin 48, a 0 = n.val →
            exec .readDecode s = .next (s.part r rest .ok (decodeBytes (s.decoder.entries.get n)) (a 1)))
          ∧ (48 ≤ a 0 → exec .readDecode s = bad))
      ∧ (s.Serving 5 r rest → 2 ≤ r.args.length →
        (∀ c d : Fin 8, a 0 = c.val → a 1 = d.val →
            exec .readPolicy s =
              .next (s.replied r rest .ok [BitVec.ofNat 8 (s.policy.table.get (policyIndex c d)).toNat]))
          ∧ (8 ≤ a 0 ∨ 8 ≤ a 1 → exec .readPolicy s = bad))
      ∧ (s.Serving 7 r rest → 2 ≤ r.args.length →
        (∀ (k : LineNo) (x : WiredField), a 0 = k.val → wiredFieldOf (a 1) = some x →
            exec .readWired s = .next (s.replied r rest .ok (readWiredField s k x)))
          ∧ (8 ≤ a 0 ∨ 7 ≤ a 1 → exec .readWired s = bad))
      ∧ (s.Serving 20 r rest → 1 ≤ r.args.length →
        exec .readFault s = .next (s.part r rest .ok (faultBytes s) (a 0)))
      ∧ (s.Serving 19 r rest → 2 ≤ r.args.length →
        (∀ i, a 0 ≤ 63 → s.sequence.buffer[a 0]? = some i →
            exec .readSequenceItem s = .next (s.part r rest .ok (sequenceBytes s ++ itemBytes i) (a 1)))
          ∧ (a 0 ≤ 63 → s.sequence.buffer.length ≤ a 0 →
            exec .readSequenceItem s = .next (s.part r rest .notReady (sequenceBytes s) (a 1)))
          ∧ (63 < a 0 → exec .readSequenceItem s = bad))

/-- R4, R5, R193, WRITE_DECODE_FIRST_PART and WRITE_DECODE_SECOND_PART. A first part that passes replaces the staging
record; one that does not leaves it. A second part with valid clear makes its entry invalid; with valid set and the same
entry staged, an entry that passes R4 replaces the one held; with none or another entry staged the answer is BAD-ARG; and
the staging record becomes none whatever the answer. R17, R109, R110. Where the entry held was the valid SPEED entry and the
new one is none or of another kind, the speed record is reset, the stop timer stops and the motion state is MOVING, a change
to which owes the stops as SPEED_STALE does. Nothing else changes where no delivery is due or on offer and no check has its
turn, and in every state nothing beside that no notice between the blocks reaches. The model's choices are that a valid byte
above 1 is answered BAD-ARG (notes/assumptions/21.md), that the reply stands before what the change of the motion state
brings (notes/assumptions/22.md) and that a stop offered moves neither the last-offered nor the last-stopped function
(notes/assumptions/8.md, notes/assumptions/9.md). -/
def Obligations.DecodeIsWritten : Prop :=
  ∀ (s : State) (r : Request) (rest : List Request), s.notices = [] → s.Serving 2 r rest → 6 ≤ r.args.length →
    let a := argByte r.args
    let put := fun (s : State) (n : Fin 48) (e : Option DecodeEntry) =>
      { s with decoder := { s.decoder with entries := s.decoder.entries.put n e } }
    let spent := setStaging none s
    let drops := fun (n : Fin 48) (e : Option DecodeEntry) (s : State) (answer : Host.Outcome State Fault Refusal) =>
      let u := State.replied { s with decoder := { s.decoder with
        entries := s.decoder.entries.put n e, speed := {}, motion := .moving, stopTimer := none } } r rest .ok []
      (∃ t, answer = .next t ∧ Untouched t u)
        ∧ (s.decoder.motion = .moving → answer = .next u)
        ∧ (s.decoder.motion = .stationary → StopsOwed answer u)
    (∀ (n : Fin 48) (f : FrameFormat), a 0 = n.val → formatOf (a 1) = some f → idInRange f (argId r.args 2) = true →
        exec .writeDecodeFirstPart s =
          .next ((setStaging (some { entry := a 0, format := f, id := argId r.args 2 }) s).replied r rest .ok []))
      ∧ ((48 ≤ a 0 ∨ 2 ≤ a 1 ∨ ∃ f, formatOf (a 1) = some f ∧ idInRange f (argId r.args 2) = false) → a 0 < 128 →
          exec .writeDecodeFirstPart s = .next (s.replied r rest .badArg []))
      ∧ (∀ n : Fin 48, a 0 = 128 + n.val → a 1 = 0 →
          (isSpeedEntry (s.decoder.entries.get n) = false →
              exec .writeDecodeSecondPart s = .next ((put s n none).replied r rest .ok []))
            ∧ (isSpeedEntry (s.decoder.entries.get n) = true → drops n none s (exec .writeDecodeSecondPart s)))
      ∧ (∀ (n : Fin 48) (x : Staging) (k : DecodeKind) (f : Option Code), a 0 = 128 + n.val → a 1 = 1 →
          s.management.staging = some x → x.entry = n.val → decodeKindOf (a 4) = some k → argOptCode r.args 5 = some f →
          let e : DecodeEntry :=
            { format := x.format, id := x.id, byte := a 2 / 8, bit := a 2 % 8, width := a 3, kind := k, code := f }
          (decodeEntryOk s n e = false → exec .writeDecodeSecondPart s = .next (spent.replied r rest .badArg []))
            ∧ (decodeEntryOk s n e = true → isSpeedEntry (s.decoder.entries.get n) = false ∨ k = .speed →
              exec .writeDecodeSecondPart s = .next ((put spent n (some e)).replied r rest .ok []))
            ∧ (decodeEntryOk s n e = true → isSpeedEntry (s.decoder.entries.get n) = true → k ≠ .speed →
              drops n (some e) spent (exec .writeDecodeSecondPart s)))
      ∧ (128 ≤ a 0 → a 1 = 1 → (∀ x, s.management.staging = some x → x.entry ≠ a 0 - 128) →
          exec .writeDecodeSecondPart s = .next (spent.replied r rest .badArg []))
      ∧ (128 ≤ a 0 → 1 < a 1 ∨ (a 1 = 0 ∧ 176 ≤ a 0) → exec .writeDecodeSecondPart s = .next (s.replied r rest .badArg []))

/-- R92, R99, R103, R107, R115, R117: WRITE-POLICY replaces one entry and, with no position in service, clears every refusal
and read latch; WRITE-TIMEBASE holds the clamped period as the pending one; CLEAR-FAULT removes the oldest record;
CLEAR-ACTIVITY clears the driven, read and changed flags of one position or of all. Each is answered OK, or BAD-ARG with
nothing changed where a class, timebase or position is out of range. That the reply is placed before what the write brings
about is the model's choice (notes/assumptions/22.md). -/
def Obligations.TablesAreWritten : Prop :=
  ∀ (s : State) (r : Request) (rest : List Request), s.notices = [] →
    let a := argByte r.args
    let bad := Host.Outcome.next (s.replied r rest .badArg [])
    (s.Serving 4 r rest → 3 ≤ r.args.length →
        (∀ c d : Fin 8, a 0 = c.val → a 1 = d.val → (∀ p, inService s p = false) → s.line.offers = [] →
            ∃ t, exec .writePolicy s = .next t
              ∧ t = State.replied { s with
                  policy := { s.policy with table := s.policy.table.put (policyIndex c d) (BitVec.ofNat 6 (a 2)) }
                  delivery := { s.delivery with status := t.delivery.status } } r rest .ok []
              ∧ ∀ p f, entryOf t p f = { entryOf s p f with refusalLatch := false, readLatch := false })
          ∧ (8 ≤ a 0 ∨ 8 ≤ a 1 → exec .writePolicy s = bad))
      ∧ (s.Serving 8 r rest → 3 ≤ r.args.length →
        (∀ x : TbName, tbOf (a 0) = some x →
            exec .writeTimebase s = .next (State.replied
              (modTimebase x (fun b => { b with pending := some (max 999 (min 19999 (a 1 + 256 * a 2))) }) s) r rest .ok []))
          ∧ (2 ≤ a 0 → exec .writeTimebase s = bad))
      ∧ (s.Serving 21 r rest →
        exec .clearFault s = .next (State.replied
          { s with policy := { s.policy with faults := s.policy.faults.drop 1 } } r rest .ok []))
      ∧ (s.Serving 13 r rest → 1 ≤ r.args.length →
        (a 0 ≤ 4 → ∃ t, exec .clearActivity s = .next t
            ∧ t = State.replied { s with delivery := { s.delivery with status := t.delivery.status } } r rest .ok []
            ∧ ∀ p f, entryOf t p f =
              if a 0 = 0 ∨ a 0 = p.val + 1 then { entryOf s p f with driven := false, read := false, changed := false }
              else entryOf s p f)
          ∧ (4 < a 0 → exec .clearActivity s = bad))

/-- R119, R120, R123, R129, R131: WRITE-WIRED of a trip current, tolerance or open threshold keeps the clamped value; of a
timebase keeps it for the line's move; of a compensation mode has the pending on-count computed anew, but not in HOLD; of a
function code (LAMP, or none) ends the hold and has it computed from the new level, or, under an open exercise window of the
line whose level beneath stays 0, from level 255; a new level other than 0 turns that window into a DRIVEN check (R147),
said here of a circuit with no contributors while no position is in service. A line, field, or value that the field cannot
take is answered BAD-ARG; that a nonzero high byte of a one-byte field's value is none it can take is the model's choice
(notes/assumptions/21.md). REARM-LINES clears the line trip flag of each named line and the group trip flag of each group
named, but for a group whose flag is set with its fault input asserted, which makes the answer NOT-READY; a request that
names no line is answered BAD-ARG. Nothing else changes but which RESULT frames qualify (R199). -/
def Obligations.LinesAreConfigured : Prop :=
  ∀ (s : State) (r : Request) (rest : List Request), s.notices = [] →
    let a := argByte r.args
    let v := a 2 + 256 * a 3
    let written := fun (s' : State) => exec .writeWired s = .next (s'.replied r rest .ok [])
    (∀ k : LineNo, s.Serving 6 r rest → 4 ≤ r.args.length → a 0 = k.val →
        (a 1 = 3 → written (modWired k (fun w => { w with trip := max 500 (min 20000 v) }) s))
          ∧ (a 1 = 4 → written (modWired k (fun w => { w with tLo := min 50 v }) s))
          ∧ (a 1 = 5 → written (modWired k (fun w => { w with tHi := min 50 v }) s))
          ∧ (a 1 = 6 → written (modWired k (fun w => { w with openMin := min 1000 v }) s))
          ∧ (∀ x, a 1 = 1 → a 3 = 0 → tbOf (a 2) = some x → written (modWired k (fun w => { w with timebase := x }) s))
          ∧ (∀ x, a 1 = 2 → a 3 = 0 → compOf (a 2) = some x →
              let s2 := modWired k (fun w => { w with comp := x }) s
              written (if (lineRec s k).hold.isSome then s2
                else modLine k (fun l => { l with pendingOn := lineOnCount s2 k }) s2))
          ∧ (∀ c : Option Code, a 1 = 0 → (v = 255 ∧ c = none ∨ ∃ f, c = some f ∧ v = f.val ∧ kindOf f = .lamp) →
              let s2 := modWired k (fun w => { w with code := c }) s
              let level := (c.map fun f => (commandOf s f).value).getD 0
              let period := (timebase s (lineRec s k).tb).period
              let count := fun (n : Nat) => onCountOf n period (wiredOf s k).comp s.settings.vref s.direct.supply
              let leaves := fun (s3 : State) => ∃ t, exec .writeWired s = .next t
                ∧ (let s4 := s3.replied r rest .ok []
                   t = { s4 with port := { s4.port with refresh := t.port.refresh } })
              ((∀ sl, s.check.slot = some sl → sl.window = false
                    ∨ (sl.entry.target ≠ .circuit k ∧ levelBeneath s sl.entry.target = 0)) →
                  leaves (modLine k (fun l =>
                    { l with hold := none, pendingOn := count (if l.exercise then 255 else level) }) s2))
                ∧ ∀ sl, s.check.slot = some sl → sl.window = true → sl.entry.target = .circuit k →
                  (level = 0 → leaves (modLine k (fun l =>
                      { l with hold := none, exercise := true, pendingOn := count 255 }) s2))
                    ∧ (level ≠ 0 → (circuitRec s k).contributors = [] → (∀ p, inService s p = false) →
                      s.line.offers = [] → leaves { modLine k (fun l =>
                        { l with hold := none, exercise := false, pendingOn := count level }) s2 with
                        check := { s.check with slot := some { sl with window := false } } })))
      ∧ (s.Serving 6 r rest → 4 ≤ r.args.length →
        (8 ≤ a 0 ∨ 7 ≤ a 1 ∨ (a 1 = 0 ∧ v ≠ 255 ∧ 64 ≤ v) ∨ ((a 1 = 1 ∨ a 1 = 2) ∧ (2 ≤ a 2 ∨ a 3 ≠ 0))) →
          exec .writeWired s = .next (s.replied r rest .badArg []))
      ∧ (s.Serving 22 r rest → 1 ≤ r.args.length →
        (a 0 = 0 → exec .rearmLines s = .next (s.replied r rest .badArg []))
          ∧ (a 0 ≠ 0 →
            let stays := fun (g : FaultGroup) => groupTripped s g && faultInput s g
            let named := fun (k : LineNo) => (a 0).testBit k.val
            ∃ t, exec .rearmLines s = .next t
              ∧ t = State.replied { s with direct := { s.direct with
                  tripA := t.direct.tripA, tripB := t.direct.tripB, lines := t.direct.lines } } r rest
                  (if ∃ k, named k = true ∧ stays (lineGroup k) = true then .notReady else .ok) []
              ∧ (∀ g, groupTripped t g =
                  if (∃ k, named k = true ∧ lineGroup k = g) ∧ stays g = false then false else groupTripped s g)
              ∧ ∀ k, lineRec t k =
                  if named k = true ∧ stays (lineGroup k) = false then { lineRec s k with trip := false } else lineRec s k))

/-- R16, R123, R125, R148, R195, SET_SYSTEM: the window length, tolerance and threshold are taken clamped and answered with
the value taken; V_ref takes 12000 or 24000, which has the pending on-counts of the lines not in HOLD computed anew, and any
other value is answered BAD-ARG; a stale timeout, clamped and answered with the value taken, acts at once on every FRESH
entry of the Command Table and the speed record whose age has reached it, as their own timers do, and ends each hold that
has reached it with pending on-count 0; a setting above 4 is answered BAD-ARG. Nothing else changes, but for what a fall to
0 or a change to MOVING by a stale timeout brings about in the blocks it is handed on to, within what no notice reaches.
That the reply is placed before the frames that the effects of the setting place is the model's choice
(notes/assumptions/22.md). -/
def Obligations.SettingsAreWritten : Prop :=
  ∀ (s : State) (r : Request) (rest : List Request), s.notices = [] → s.Serving 9 r rest → 3 ≤ r.args.length →
    let a := argByte r.args
    let v := a 1 + 256 * a 2
    let bad := Host.Outcome.next (s.replied r rest .badArg [])
    let taken := fun (q : Settings) (v : Nat) => Host.Outcome.next (State.replied { s with settings := q } r rest .ok (word v))
    (a 0 = 2 → exec .setSystem s =
        taken { s.settings with window := max 200 (min 2000 v) } (max 200 (min 2000 v)))
      ∧ (a 0 = 3 → exec .setSystem s = taken { s.settings with tolerance := min 50 v } (min 50 v))
      ∧ (a 0 = 4 → exec .setSystem s = taken { s.settings with threshold := min 1000 v } (min 1000 v))
      ∧ (4 < a 0 → exec .setSystem s = bad)
      ∧ (a 0 = 0 → v ≠ 12000 → v ≠ 24000 → exec .setSystem s = bad)
      ∧ (a 0 = 0 → v = 12000 ∨ v = 24000 → ∃ t, exec .setSystem s = .next t
          ∧ t = State.replied { s with settings := { s.settings with vref := v }
                                       direct := { s.direct with lines := t.direct.lines } } r rest .ok (word v)
          ∧ ∀ k, lineRec t k =
              if (lineRec s k).hold.isSome then lineRec s k
              else { lineRec s k with
                pendingOn := onCountOf (levelOf s k) (timebase s (lineRec s k).tb).period (wiredOf s k).comp v s.direct.supply })
      ∧ (a 0 = 1 →
          let taken := max 100 (min 2000 v)
          let reached := fun (t : Option Time) => ∃ m, t = some m ∧ m + ms taken ≤ s.now
          let falls := fun (e : CommandEntry) => e.kind = some .phase ∨ e.kind = some .actuator
          let late := s.decoder.speed.fresh = true ∧ reached s.decoder.speed.since
          ∃ t, exec .setSystem s = .next t
            ∧ t.decoder = { s.decoder with
                commands := t.decoder.commands, speed := t.decoder.speed, motion := t.decoder.motion
                stopTimer := t.decoder.stopTimer }
            ∧ (late → t.decoder.speed = { s.decoder.speed with fresh := false } ∧ t.decoder.motion = .moving
              ∧ t.decoder.stopTimer = none)
            ∧ (¬ late → t.decoder.speed = s.decoder.speed ∧ t.decoder.motion = s.decoder.motion
              ∧ t.decoder.stopTimer = s.decoder.stopTimer)
            ∧ (∀ f, (commandOf s f).fresh = true ∧ reached (commandOf s f).since →
                (falls (commandOf s f) → commandOf t f = { commandOf s f with value := 0, fresh := false })
                  ∧ (¬ falls (commandOf s f) → commandOf t f = { commandOf s f with fresh := false }))
            ∧ (∀ f, ¬ ((commandOf s f).fresh = true ∧ reached (commandOf s f).since) → commandOf t f = commandOf s f)
            ∧ Untouched t { s with settings := { s.settings with stale := taken }, decoder := t.decoder }
            ∧ (s.check.slot = none → ¬ late ∨ s.decoder.motion = .moving →
              (∀ f, (commandOf s f).fresh = true → reached (commandOf s f).since → falls (commandOf s f) →
                (commandOf s f).value = 0) →
              t = State.replied { s with
                    settings := { s.settings with stale := taken }
                    decoder := t.decoder
                    direct := { s.direct with lines := t.direct.lines } } r rest .ok (word taken)
                ∧ (∀ k, reached (lineRec s k).hold → lineRec t k = { lineRec s k with hold := none, pendingOn := 0 })
                ∧ ∀ k, ¬ reached (lineRec s k).hold → lineRec t k = lineRec s k))

/-- R93, R99, R100, R159: SET-FUNCTION of a function with no watch and no timeout hold, while the slot is free, writes the
override and clears the refusal latch, and, where the target of an ACTUATOR changes, the read latch. It is answered OK where
the target then equals the delivered value, and its reply is pending while the delivery is held, as it is while a stop of
the function is owed (R111; that a stop owed under R157 and a value of 0 are no exceptions is the model's reading,
notes/assumptions/9.md). CLEAR-OVERRIDE removes the override with the same clearing, answered OK, and changes nothing where
none is held. A value or code SET-FUNCTION cannot take is answered BAD-ARG (a LAMP value above 255 by the model's choice,
notes/assumptions/21.md), a position out of service NOT-READY and a not-fitted function NOT-FITTED. Nothing else changes. -/
def Obligations.OverridesAreWritten : Prop :=
  ∀ (s : State) (r : Request) (rest : List Request) (p : Pos) (f : Code), s.notices = [] → argByte r.args 0 = p.val + 1 →
    argByte r.args 1 = f.val →
    let v := argByte r.args 2 + 256 * argByte r.args 3
    let ok := (kindOf f = .lamp ∧ v ≤ 255) ∨ (kindOf f = .actuator ∧ v ≤ 2)
    let latch := fun (x : StatusEntry) (old new : Nat) =>
      if kindOf f = .actuator ∧ old ≠ new then false else x.readLatch
    let x := entryOf s p f
    let beneath := (commandOf s f).value
    let set := modEntry p f (fun x =>
      { x with override := some v, refusalLatch := false, readLatch := latch x (x.override.getD beneath) v }) s
    let cleared := modEntry p f (fun x =>
      { x with override := none, refusalLatch := false, readLatch := latch x (x.override.getD beneath) beneath }) s
    (s.Serving 10 r rest → 4 ≤ r.args.length →
        (¬ ok → exec .setFunction s = .next (s.replied r rest .badArg []))
          ∧ (ok → inService s p = false → exec .setFunction s = .next (s.replied r rest .notReady []))
          ∧ (ok → inService s p = true → x.notFitted = true → exec .setFunction s = .next (s.replied r rest .notFitted []))
          ∧ (ok → inService s p = true → x.notFitted = false → s.check.slot = none → x.watchDeadline = none →
              x.timeoutHold = false →
              ((∃ o ∈ s.delivery.owed.get p, o.code = f) → ∀ second, offerable set p second f = none)
                ∧ (x.delivered = some v → State.AtRest (set.replied r rest .ok []) p →
                  exec .setFunction s = .next (set.replied r rest .ok []))
                ∧ (x.delivered ≠ some v →
                  let waits := State.held { set with delivery := { set.delivery with
                    pendingOverride := some { pos := p, code := f, value := v } } }
                  waits.AtRest p → exec .setFunction s = .next waits)))
      ∧ (s.Serving 11 r rest → 2 ≤ r.args.length →
        (x.override = none → exec .clearOverride s = .next (s.replied r rest .ok []))
          ∧ (x.override ≠ none → kindOf f ≠ .sensor → s.check.slot = none → x.watchDeadline = none → x.timeoutHold = false →
            s.delivery.pendingOverride = none → inService s p = true → State.AtRest (cleared.replied r rest .ok []) p →
            exec .clearOverride s = .next (cleared.replied r rest .ok [])))

/-- R82, R96, R101, R106, R190, GET_FUNCTION of a function bound to a usable row: admitted under MGR, a NODE-fed one has its
GET stand on offer at class 2, ahead of deliveries, while another transaction is in flight, and its reply waits; a WIRED-fed
one is answered OK at once with the data as none, the delivered value and the check result; one not admitted is answered
REFUSED, with POLICY-REFUSED recorded. A position out of service is answered NOT-READY, and a group not present NOT-FITTED.
Nothing else changes: that a read at class 2 leaves the last-offered function of that class is read from the rules
(notes/assumptions/8.md), and that the data, as none, stand in the reply of a WIRED-fed one, whose reply R101 has carry the
other two alone, is the model's choice (notes/assumptions/23.md). -/
def Obligations.FunctionIsRead : Prop :=
  ∀ (s : State) (r : Request) (rest : List Request) (p : Pos) (f : Code), s.notices = [] → s.Serving 12 r rest →
    2 ≤ r.args.length → argByte r.args 0 = p.val + 1 → argByte r.args 1 = f.val → s.delivery.pendingRead = none →
    (inService s p = false → exec .getFunction s = .next (s.replied r rest .notReady []))
      ∧ (inService s p = true → dirOf s p (groupOf f) = none → exec .getFunction s = .next (s.replied r rest .notFitted []))
      ∧ ∀ (b : BlockNo) (e : DirEntry) (x : FnRecord), s.Bound p f b e x →
          let s1 := reference b s
          (permits s e.policyClass x.fnClass .mgr = false →
              let fault : FaultRecord :=
                { kind := .policyRefused, pos := some p, code := some f, access := some .mgr,
                  detail := 8 * e.policyClass.val + x.fnClass.val, followed := false }
              exec .getFunction s = .next (State.replied
                { s1 with policy := { s.policy with faults := addFault fault s.policy.faults } } r rest .refused []))
            ∧ (permits s e.policyClass x.fnClass .mgr = true → x.feed = .wired →
              exec .getFunction s = .next (s1.replied r rest .ok
                ([255, 255] ++ word ((entryOf s p f).delivered.getD 65535)
                  ++ [BitVec.ofNat 8 (resultOrdinal (entryOf s p f).result)])))
            ∧ (∀ fl, permits s e.policyClass x.fnClass .mgr = true → x.feed = .node → x.point ≤ 63 →
              s.line.flight = some fl → fl.offer.why ≠ .managementRead p f → standing s .deliveryUnit 1 (linePos p) = none →
              let get : Offer :=
                { requester := .deliveryUnit, cls := 1, pos := linePos p, op := .get, addr := some x.point, data := none,
                  why := .managementRead p f }
              exec .getFunction s = .next (setOffers (fun os => os ++ [get]) (State.held { s1 with
                delivery := { s.delivery with pendingRead := some { pos := p, code := f, point := some x.point } } })))

/-- R84, R88, R89, R90, PIN_GROUP and UNPIN_GROUP, by the rows of R90: NOT-READY, NOT-FITTED, OK with no change for a block
pinned already, NO-SPACE with 12 blocks pinned, and OK with the flag set. A group that holds no block claims the lowest FREE
one, which starts FETCHING, pinned, with its first word on offer, here while another transaction is in flight and nothing
else is due. UNPIN-GROUP clears the flag of the group's block where one is held, and is answered OK in every case. Nothing
else changes. -/
def Obligations.GroupsArePinned : Prop :=
  ∀ (s : State) (r : Request) (rest : List Request) (p : Pos) (g : Group), s.notices = [] → argByte r.args 0 = p.val + 1 →
    argByte r.args 1 = g.val → 2 ≤ r.args.length →
    let pins := (allBlocks.filter fun b => (blockOf s b).pinned).length
    let fitted := (dirOf s p g).isSome = true ∧ (groupRec s p g).fetchFailed = false
    let flag := fun (b : BlockNo) (v : Bool) => modBlock b (fun x => { x with pinned := v }) s
    (s.Serving 14 r rest →
        (inService s p = false → exec .pinGroup s = .next (s.replied r rest .notReady []))
          ∧ (inService s p = true → ¬ fitted → exec .pinGroup s = .next (s.replied r rest .notFitted []))
          ∧ (∀ b, inService s p = true → fitted → (groupRec s p g).block = some b →
            ((blockOf s b).pinned = true → exec .pinGroup s = .next (s.replied r rest .ok []))
              ∧ ((blockOf s b).pinned = false → 12 ≤ pins → exec .pinGroup s = .next (s.replied r rest .noSpace []))
              ∧ ((blockOf s b).pinned = false → pins < 12 → exec .pinGroup s = .next ((flag b true).replied r rest .ok [])))
          ∧ (inService s p = true → fitted → (groupRec s p g).block = none → 12 ≤ pins →
            exec .pinGroup s = .next (s.replied r rest .noSpace []))
          ∧ (∀ (b : BlockNo) (e : DirEntry) (fl : Flight), inService s p = true → fitted → dirOf s p g = some e →
            e.locator ≤ 1023 → (groupRec s p g).block = none → pins < 12 → (blockOf s b).state = .free →
            (blockOf s b).owner = none → (∀ x, x < b → (blockOf s x).state = .loaded) →
            (∀ x, b < x → (blockOf s x).state ≠ .fetching) → s.line.flight = some fl →
            standing s .bindingStore 2 (linePos p) = none →
            (∀ a, fl.offer.why ≠ .fetchWord p g b a) →
            let word : Offer :=
              { requester := .bindingStore, cls := 2, pos := linePos p, op := .readWord, addr := some e.locator, data := none,
                why := .fetchWord p g b e.locator }
            let t := State.replied (setOffers (fun os => os ++ [word]) (modGroup p g (fun x => { x with block := some b })
              (modBlock b (fun _ =>
                { state := .fetching, owner := some (p, g), pinned := true, progress := some (0, 0) }) s))) r rest .ok []
            t.AtRest p → exec .pinGroup s = .next t))
      ∧ (s.Serving 15 r rest →
        (∀ b, (groupRec s p g).block = some b → anyNoSpace s = false →
            exec .unpinGroup s = .next ((flag b false).replied r rest .ok []))
          ∧ ((groupRec s p g).block = none → exec .unpinGroup s = .next (s.replied r rest .ok [])))

/-- R121, R142, R145, R146, R148, RECHECK. Form 0 hands the queue its circuit, and form 1 the circuit whose list holds the
function, or else the node lamp, with the position as requester: a request for a target in the queue joins its requester
set, one into a queue with room joins the tail, and one into a full queue is answered NO-SPACE; into an empty queue it stays
there while the part moves, is uncoupled or the slot is held. At a standstill, coupling PRESENT and the slot free, the slot
takes it. A circuit loses its last evaluation; with a level its check is DRIVEN; with none it is a WINDOW, which sets the
exercise flag with the pending on-count full, but not in HOLD, and delivers 255 to the contributor, said here of a list of
none or of one WIRED-fed function. A node lamp overridden to 0 gets DEFERRED where UNCHECKED and the slot stays free; any
other bound NODE-fed lamp gets its check, with the first reading 50 ms on where it is lit, DRIVEN with a level and else a
WINDOW, whose SET of 255 under EXS then stands on offer. A circuit above 7 or a function that is no LAMP is answered
BAD-ARG, and a position out of service NOT-READY. Nothing else changes: that the offer of that SET moves the last-offered
function is read from the rules (notes/assumptions/8.md). That the reply stands before the RESULT frame of DEFERRED is the
model's choice (notes/assumptions/6.md, notes/assumptions/22.md), as it is that form 0 does not look at the third byte and
that a form above 1, of which this says nothing, is answered BAD-ARG (notes/assumptions/21.md). -/
def Obligations.CircuitIsRechecked : Prop :=
  ∀ (s : State) (r : Request) (rest : List Request), s.notices = [] → s.Serving 16 r rest → 3 ≤ r.args.length →
    let a := argByte r.args
    let asked := fun (t : Target) (who : Option Pos) =>
      let add := fun (x : Tab Bool 4) => (who.map fun p => x.put p true).getD x
      let queue := fun (q : List QueueEntry) => { s with check := { s.check with queue := q } }
      ((∃ e ∈ s.check.queue, e.target = t) → exec .recheck s = .next (State.replied (queue (s.check.queue.map fun e =>
          if e.target = t then { e with requesters := add e.requesters } else e)) r rest .ok []))
        ∧ ((∀ e ∈ s.check.queue, e.target ≠ t) → s.check.queue.length < 16 →
            s.check.queue ≠ [] ∨ s.decoder.motion = .moving ∨ s.consist.cplPresent = false ∨ s.check.slot ≠ none →
            exec .recheck s = .next (State.replied (queue (s.check.queue ++
              [{ target := t, requesters := add (Tab.fill false) }])) r rest .ok []))
        ∧ ((∀ e ∈ s.check.queue, e.target ≠ t) → 16 ≤ s.check.queue.length →
            exec .recheck s = .next (s.replied r rest .noSpace []))
    let free := s.check.queue = [] ∧ s.decoder.motion = .stationary ∧ s.consist.cplPresent = true ∧ s.check.slot = none
      ∧ (∀ k, (circuitRec s k).owed = false) ∧ ∀ p, (posRec s p).lampItems = []
    let entered := fun (t : Target) (who : Option Pos) (window : Bool) (u : State) => State.replied
      { u with check := { u.check with slot := some {
          entry := { target := t, requesters := (who.map fun p => (Tab.fill false).put p true).getD (Tab.fill false) }
          window := window, expiry := s.now + ms s.settings.window } } } r rest .ok []
    let takesCircuit := fun (k : LineNo) (who : Option Pos) => free →
      let level := ((wiredOf s k).code.map fun f => (commandOf s f).value).getD 0
      let fresh := modCircuit k (fun c => { c with last := none }) s
      let u := entered (.circuit k) who true (modLine k (fun l =>
        if l.hold.isSome then l else { l with exercise := true, pendingOn := (timebase s l.tb).period + 1 }) fresh)
      (level ≠ 0 → exec .recheck s = .next (entered (.circuit k) who false fresh))
        ∧ (level = 0 → (circuitRec s k).contributors = [] → u.Resting → exec .recheck s = .next u)
        ∧ ∀ (c : Contributor) (b : BlockNo) (e : DirEntry) (x : FnRecord), level = 0 → (circuitRec s k).contributors = [c] →
          s.Bound c.pos c.code b e x → x.feed = .wired → permits s e.policyClass x.fnClass .exs = true → kindOf c.code = .lamp →
          targetBeneath s c.pos c.code = 0 → s.delivery.pendingOverride = none → (∀ src, nodeCheck s c.pos src = none) →
          let v := modEntry c.pos c.code (fun y => { y with refusalLatch := false }) u
          let w := modEntry c.pos c.code (fun y => { y with delivered := some 255, driven := true }) (reference b v)
          v.OneDue c.pos c.code 255 → w.AtRest c.pos → (∀ q, q ≠ c.pos → inService s q = true → v.AtRest q) →
          exec .recheck s = .next w
    let takesLamp := fun (p : Pos) (f : Code) => free →
      ((entryOf s p f).override = some 0 → stateOf s p = .running → exec .recheck s = .next
          (if (entryOf s p f).result = .unchecked then State.resulting p f .deferred (s.replied r rest .ok [])
           else s.replied r rest .ok []))
        ∧ ∀ (b : BlockNo) (e : DirEntry) (x : FnRecord), s.Bound p f b e x → x.feed = .node → x.pointKind = .lamp →
          (entryOf s p f).override ≠ some 0 →
          let checked := fun (window : Bool) => entered (.lamp p f) (some p) window (setNodeCheck p .slot (some
            { code := f, expiry := s.now + ms s.settings.window, tolerance := s.settings.tolerance,
              threshold := s.settings.threshold, row := some (x.point, x.nominal, x.loadKind),
              nextReading := if (entryOf s p f).delivered.getD 0 ≠ 0 then some (s.now + ms 50) else none }) (reference b s))
          (targetBeneath s p f ≠ 0 → exec .recheck s = .next (checked false))
            ∧ ∀ fl, targetBeneath s p f = 0 → s.line.flight = some fl → x.point ≤ 63 →
              permits s e.policyClass x.fnClass .exs = true → s.delivery.pendingOverride = none → nodeCheck s p .slot = none →
              let v := modEntry p f (fun y => { y with refusalLatch := false }) (checked true)
              v.OneDue p f 255 → (∀ q, q ≠ p → inService s q = true → v.AtRest q) →
              exec .recheck s = .next (setOffers (fun os => os ++ [setOffer p f 255 .exs x]) (noteOffered p false f v))
    (∀ k : LineNo, a 0 = 0 → a 1 = k.val → asked (.circuit k) none ∧ takesCircuit k none)
      ∧ (a 0 = 0 → 8 ≤ a 1 → exec .recheck s = .next (s.replied r rest .badArg []))
      ∧ ∀ (p : Pos) (f : Code), a 0 = 1 → a 1 = p.val + 1 → a 2 = f.val →
          (kindOf f ≠ .lamp → exec .recheck s = .next (s.replied r rest .badArg []))
            ∧ (kindOf f = .lamp → inService s p = false → exec .recheck s = .next (s.replied r rest .notReady []))
            ∧ (kindOf f = .lamp → inService s p = true → (∀ k, holdsContributor s k p f = false) →
                asked (.lamp p f) (some p) ∧ takesLamp p f)
            ∧ (∀ k, kindOf f = .lamp → inService s p = true → holdsContributor s k p f = true →
                (∀ x, x < k → holdsContributor s x p f = false) →
                asked (.circuit k) (some p) ∧ takesCircuit k (some p))

/-- R169, R172, R191: START-SEQUENCE, by the rows of R169: BAD-ARG out of range, BUSY while one runs, NOT-READY at a
position out of service, and else OK, with the record set up, the buffer empty and the first item offered at class 7.
ABORT-SEQUENCE ends a running sequence ABORTED with its offer withdrawn, and is answered OK whether one runs or not. Nothing
else changes. The run number that tells the items of one sequence from those of another is the model's own
(notes/assumptions/19.md). -/
def Obligations.SequencesStartAndAbort : Prop :=
  ∀ (s : State) (r : Request) (rest : List Request), s.Quiet →
    (s.Serving 17 r rest → 6 ≤ r.args.length →
        (seqRequest r.args = none → exec .startSequence s = .next (s.replied r rest .badArg []))
          ∧ ∀ q, seqRequest r.args = some q →
            let fits := 1 ≤ q.count ∧ q.count ≤ 64 ∧ q.addr ≤ seqLast q.op
              ∧ (q.mode ≠ .walk → q.addr + q.count - 1 ≤ seqLast q.op)
              ∧ (q.mode = .repeatUntilReady → 10 ≤ q.timeout ∧ q.timeout ≤ 60000)
            (¬ fits → exec .startSequence s = .next (s.replied r rest .badArg []))
              ∧ (fits → s.sequence.state = .running → exec .startSequence s = .next (s.replied r rest .busy []))
              ∧ (fits → s.sequence.state ≠ .running → inService s q.pos = false →
                  exec .startSequence s = .next (s.replied r rest .notReady []))
              ∧ (fits → s.sequence.state ≠ .running → inService s q.pos = true →
                  let record : Sequence :=
                    { state := .running, endCode := none, op := some q.op, mode := some q.mode, count := some q.count,
                      timeout := if q.mode = .repeatUntilReady then some q.timeout else none, pos := some q.pos,
                      addr := some q.addr, itemStart := some s.now, repeatAt := none, buffer := [], run := s.sequence.run + 1 }
                  exec .startSequence s = .next (makeOffer
                    { requester := .sequenceUnit, cls := 6, pos := linePos q.pos, op := seqLineOp q.op, addr := some q.addr,
                      data := none, why := .sequenceItem q.pos q.addr (s.sequence.run + 1) }
                    (State.replied { s with sequence := record } r rest .ok []))))
      ∧ (s.Serving 18 r rest →
        (s.sequence.state ≠ .running → exec .abortSequence s = .next (s.replied r rest .ok []))
          ∧ (s.sequence.state = .running → exec .abortSequence s = .next (State.replied { s with
              sequence := { s.sequence with state := .ended, endCode := some .aborted, repeatAt := none }
              line := { s.line with offers := s.line.offers.filter fun o => decide (o.requester ≠ .sequenceUnit) } }
              r rest .ok [])))

/-! ## Bindings, policy and load checks -/

/-- R82, R99, R106: what a translation of an access to (p, f) under a kind answers, and leaves. Bound to a usable row it is
a HIT where the Policy Table's entry of the two classes contains the kind, or the access delivers 0, and else REFUSED, with
POLICY-REFUSED recorded with the entry as detail; the block's referenced flag is set. A position out of service is
NOT-READY, a REJECTED one too, where R65 says NOT-FITTED: the steps of R82 in their order are the model's choice
(notes/assumptions/36.md). A group that is not present, or whose fetch failed, is NOT-FITTED; one that waits for space
NO-SPACE; one being fetched WAIT, the access joining its wait set once. A group that holds no block claims one (R88): taken,
it is set up FETCHING from its first word, unpinned and with the access alone waiting, its former owner holding none, its
first word offered at class 3 where no other block of p is being fetched (R84), and the answer is WAIT; none taken, NO-SPACE
is recorded and the no-space mark set. After a claim the Delivery Unit is told to look again: that this is told in notices,
acted on within the command, and at these moments, is the model's (notes/assumptions/3.md, notes/assumptions/8.md). A member
at or above the count and an unusable row are NOT-FITTED, the latter with DESCRIPTOR-BAD recorded once; the referenced flag
is set. -/
def Obligations.TranslationIsAnswered : Prop :=
  ∀ (s : State) (p : Pos) (f : Code) (k : AccessKind) (zero : Bool) (w : Waiter),
    let g := groupOf f
    (inService s p = false → Machine.translate p f k zero w s = (.notReady, s))
      ∧ (inService s p = true → dirOf s p g = none → Machine.translate p f k zero w s = (.notFitted, s))
      ∧ ∀ e, inService s p = true → dirOf s p g = some e →
          ((groupRec s p g).fetchFailed = true → Machine.translate p f k zero w s = (.notFitted, s))
            ∧ ((groupRec s p g).fetchFailed = false → (groupRec s p g).noSpace = true →
              Machine.translate p f k zero w s = (.noSpace, s))
            ∧ (∀ b, (groupRec s p g).fetchFailed = false → (groupRec s p g).noSpace = false →
              (groupRec s p g).block = some b → (blockOf s b).state = .fetching →
              Machine.translate p f k zero w s = (.wait, modBlock b (fun x =>
                { x with waiters := if w ∈ x.waiters then x.waiters else x.waiters ++ [w] }) s))
            ∧ ((groupRec s p g).fetchFailed = false → (groupRec s p g).noSpace = false → (groupRec s p g).block = none →
              (∀ b s1, s.IdleLine → takeBlock s = (some b, s1) → ∃ t, Machine.translate p f k zero w s = (.wait, t)
                  ∧ t = { s1 with binding := t.binding, line := t.line, notices := t.notices }
                  ∧ (let word : Offer :=
                      { requester := .bindingStore, cls := 2, pos := linePos p, op := .readWord, addr := some e.locator,
                        data := none, why := .fetchWord p g b e.locator }
                    e.locator ≤ 1023 → (∀ fl, s.line.flight = some fl → fl.offer.why ≠ word.why) →
                    (∀ c h, (blockOf s c).owner = some (p, h) → (blockOf s c).state ≠ .fetching) →
                    t.line = (makeOffer word s1).line
                      ∧ t.notices = (makeOffer word s1).notices ++ [.scan p false, .scan p true, .classSix p])
                  ∧ blockOf t b = { state := .fetching, owner := some (p, g), progress := some (0, 0), waiters := [w] }
                  ∧ (∀ c, c ≠ b → blockOf t c = blockOf s1 c) ∧ t.binding.pointer = s1.binding.pointer
                  ∧ ∀ q h, groupRec t q h =
                    if q = p ∧ h = g then { groupRec s p g with block := some b }
                    else if (blockOf s b).owner = some (q, h) then { groupRec s q h with block := none }
                    else groupRec s q h)
                ∧ (∀ s1, takeBlock s = (none, s1) →
                  let fault : FaultRecord :=
                    { kind := .noSpace, pos := some p, code := some f, access := some k, detail := g.val, followed := false }
                  Machine.translate p f k zero w s = (.noSpace, { modGroup p g (fun x => { x with noSpace := true }) s1 with
                    policy := { s.policy with faults := addFault fault s.policy.faults }
                    notices := s.notices ++ [.scan p false, .scan p true, .classSix p] })))
            ∧ (∀ b, (groupRec s p g).fetchFailed = false → (groupRec s p g).noSpace = false →
              (groupRec s p g).block = some b → (blockOf s b).state = .loaded →
              let used := modBlock b (fun x => { x with referenced := true }) s
              (e.members ≤ (memberOf f).val → Machine.translate p f k zero w s = (.notFitted, used))
                ∧ ∀ x : Row, (memberOf f).val < e.members → (blockOf s b).rows.get (memberOf f) = some x → x.unusable = true →
                  let fault : FaultRecord :=
                    { kind := .descriptorBad, pos := some p, code := some f, access := some k,
                      detail := e.locator + 4 * (memberOf f).val, followed := false }
                  (x.reported = true → Machine.translate p f k zero w s = (.notFitted, used))
                    ∧ (x.reported = false → Machine.translate p f k zero w s = (.notFitted,
                      { modBlock b (fun y => { y with
                          rows := y.rows.put (memberOf f) (some { x with reported := true }) }) used with
                        policy := { s.policy with faults := addFault fault s.policy.faults } })))
            ∧ ∀ b r, s.Bound p f b e r →
              let used := modBlock b (fun x => { x with referenced := true }) s
              let fault : FaultRecord :=
                { kind := .policyRefused, pos := some p, code := some f, access := some k,
                  detail := 8 * e.policyClass.val + r.fnClass.val, followed := false }
              let set := s.policy.table.get (policyIndex e.policyClass r.fnClass)
              (zero = true ∨ set.getLsbD (kindBit k) = true → Machine.translate p f k zero w s = (.hit r, used))
                ∧ (zero = false → set.getLsbD (kindBit k) = false →
                  Machine.translate p f k zero w s =
                    (.refused, { used with policy := { s.policy with faults := addFault fault s.policy.faults } }))

/-- R43, R45, R46, R81, R83, R84, R85, R86, R87, TRANSACTION_END and REPLY_DEADLINE of a fetch word of block b for group g
of a position in service, its only block being fetched. A wanted word is taken: the fourth of a record writes the member's
row, an unusable one with function class 0; the next word is in flight; with the last row the block is LOADED, referenced,
and the delivery that waits on it is looked at again. Unheard, the unheard counter rises and the same word is read again. A
not Ready end and a Not Heard one record DESCRIPTOR-BAD with the address as detail, free the block and set the fetch-failed
mark. A word no longer wanted changes nothing. The line is free where nothing is in flight, the Delivery Unit having nothing
to offer, and nothing else changes; no no-space mark is set. That the clock goes on to the moment of a timer whose command
comes before it is the model's choice (notes/assumptions/2.md). -/
def Obligations.FetchWordsAreTaken : Prop :=
  ∀ (s : State) (p : Pos) (g : Group) (b : BlockNo) (a : Nat) (d : Time),
    let word := fun (a : Nat) =>
      ({ requester := .bindingStore, cls := 2, pos := linePos p, op := .readWord, addr := some a, data := none,
         why := .fetchWord p g b a } : Offer)
    s.InFlight (word a) d → inService s p = true →
    let reply := fun (heard ready : Bool) (x : Option Word) =>
      exec (.transactionEnd { heard := heard, ready := ready, service := false, data := x }) s
    let heard := setUnheard p 0
    let block := fun (f : Block → Block) => modBlock b f s
    ((blockOf s b).state ≠ .fetching ∨ (blockOf s b).owner ≠ some (p, g) →
        ∀ x y (w : Word), reply x y (some w) = .next (heard s.free))
      ∧ ∀ (m i : Nat) (e : DirEntry), (blockOf s b).state = .fetching → (blockOf s b).owner = some (p, g) →
        (blockOf s b).progress = some (m, i) → dirOf s p g = some e → a = e.locator + 4 * m + i → a < 1023 →
        m < e.members → e.members ≤ 16 → anyNoSpace s = false →
        (∀ c h, c ≠ b → (blockOf s c).owner = some (p, h) → (blockOf s c).state ≠ .fetching) →
        (∀ w : Word, i < 3 → reply true true (some w) = .next (heard (State.granted (word (a + 1))
            (block fun x => { x with progress := some (m, i + 1), words := x.words ++ [w] }))))
          ∧ (∀ (w0 w1 w2 w : Word) (n : Fin 16), i = 3 → n.val = m → (blockOf s b).words = [w0, w1, w2] →
            let r := fnRecordOf w0 w1 w2 w
            let row : Row := { unusable := unusableRecord g r, reported := false,
                               record := if unusableRecord g r then { r with fnClass := 0 } else r }
            (m + 1 < e.members → reply true true (some w) = .next (heard (State.granted (word (a + 1)) (block fun x =>
                { x with rows := x.rows.put n (some row), words := [], progress := some (m + 1, 0) }))))
              ∧ (m + 1 = e.members →
                ((blockOf s b).waiters = [] ∨ ∃ f k, (blockOf s b).waiters = [.delivery p f k]) →
                let loaded := block fun x => { x with
                  rows := x.rows.put n (some row), words := [], state := .loaded, referenced := true, progress := none
                  waiters := [] }
                (heard loaded.over).AtRest p → reply true true (some w) = .next (heard loaded.free)))
          ∧ (unheardOf s p < 2 → exec .replyDeadline s =
              .next (State.granted (word a) (setUnheard p (unheardOf s p + 1) (advanceTo d s))))
          ∧ ((blockOf s b).waiters = [] →
            let failed := modGroup p g (fun x => { x with block := none, fetchFailed := true })
              (modBlock b (fun _ => {}) (s.faulted .descriptorBad p none none a))
            (heard failed.over).AtRest p →
            (∀ x, reply true false x = .next (heard failed.free)) ∧ ∀ any x, reply false any x = .next (heard failed.free))

/-- R88: the block a claim takes. The lowest-numbered FREE block, and nothing changes; else, going round from the block
after the reclaim pointer and passing over pinned and FETCHING blocks, the first whose referenced flag is clear, the flags
of those before it cleared; with every flag set the first of them, all flags cleared; the pointer is the block taken. With
no block that is neither pinned nor FETCHING none is taken, and nothing changes. -/
def Obligations.ClaimTakesABlock : Prop :=
  ∀ s : State,
    let far := fun (b : BlockNo) => (b.val + 15 - s.binding.pointer.val) % 16
    let can := fun (b : BlockNo) => (blockOf s b).pinned = false ∧ (blockOf s b).state ≠ .fetching
    let taken := fun (b : BlockNo) (n : Nat) => (some b, { s with binding := { s.binding with
      pointer := b
      blocks := s.binding.blocks.mapIdx fun c x => if can c ∧ far c < n then { x with referenced := false } else x } })
    (∀ b, (blockOf s b).state = .free → (∀ c, c < b → (blockOf s c).state ≠ .free) → takeBlock s = (some b, s))
      ∧ ((∀ b, (blockOf s b).state ≠ .free) →
        (∀ b, can b → (blockOf s b).referenced = false →
            (∀ c, far c < far b → can c → (blockOf s c).referenced = true) → takeBlock s = taken b (far b))
          ∧ (∀ b, can b → (∀ c, can c → (blockOf s c).referenced = true) → (∀ c, far c < far b → ¬ can c) →
            takeBlock s = taken b 16)
          ∧ ((∀ b, ¬ can b) → takeBlock s = (none, s)))

/-- R137, R138: the evaluation of a circuit judges the current 5 × the sum of its four codes / 4 over its contributors, each
expected by its load kind at the supply reading clamped to half and three halves of V_ref, under the fields of the line and
with presence only where position 1 is WIRED and the list empty. The outcome of a measured current M over contributors with
expected currents: below the open threshold it is OPEN, or OK with nothing expected; above it, with nothing expected, HIGH,
or OK by presence only; else OK within the window of the two tolerances, HIGH above it, and below it OUT-ATTRIBUTED where
exactly one contributor's expected current matches the shortfall within the lower tolerance, naming it, and LOW where none
or several do. R142, R143, R147, TRANSACTION_END and REPLY_DEADLINE of the two GETs of a reading of the only node-lamp check
of a position in service. The data of point 63 is the supply of the reading, none where its end is not Ready or Not Heard,
and the GET of the lamp's point is in flight. Its data is counted, judged as a current with the check's row as its one
contributor: where the class is the last counted one, or the reading the fourth, the class is written, the RESULT frame of a
changed result placed, and the check over, and one of the slot, here DRIVEN with no entry waiting, frees the slot. Else the
class is the last counted one, and the next reading falls 50 ms on, as it does uncounted after a not Ready end. Not Heard,
NO-REPLY is written, POINT-UNKNOWN recorded and the check over. Unheard, the unheard counter rises and the same GET is in
flight again. The end of a GET of a check that is over is discarded. Nothing else changes: at an EXERCISING position this is
said with no first read outstanding and a group still to look up. That the clock goes on to the moment of a timer whose
command comes before it is the model's choice (notes/assumptions/2.md). -/
def Obligations.CurrentIsJudged : Prop :=
  (∀ (s : State) (k : LineNo) (codes : List Nat),
      let cs := (circuitRec s k).contributors
      let vref := s.settings.vref
      let vc := (s.direct.supply.map fun v => max (vref / 2) (min v (vref * 3 / 2))).getD vref
      let expected := fun (c : Contributor) => match c.loadKind with
        | .resistive => c.nominal * vc / vref
        | .constPower => c.nominal * vref / vc
        | .constCurrent => c.nominal
      evaluate s k codes = judgeCurrent (cs.map fun c => ((c.pos, c.code), expected c)) (5 * codes.sum / 4) (wiredOf s k).tLo
        (wiredOf s k).tHi (wiredOf s k).openMin (decide (stateOf s 0 = .wired) && cs.isEmpty))
  ∧ ∀ (es : List ((Pos × Code) × Nat)) (m tLo tHi openMin : Nat) (presence : Bool),
    let e := (es.map fun x => x.2).sum
    let o := judgeCurrent es m tLo tHi openMin presence
    let fits := es.filter fun x => decide (max (e - m) x.2 - min (e - m) x.2 ≤ x.2 * tLo / 100)
    (m < openMin → o = { cls := if e = 0 then .ok else .openCircuit, named := none })
      ∧ (openMin ≤ m → e = 0 → o = { cls := if presence then .ok else .high, named := none })
      ∧ (openMin ≤ m → e ≠ 0 → e * (100 - tLo) / 100 ≤ m →
          o = { cls := if e * (100 + tHi) / 100 < m then .high else .ok, named := none })
      ∧ (openMin ≤ m → e ≠ 0 → m < e * (100 - tLo) / 100 →
          (∀ c, fits = [c] → o = { cls := .outAttributed, named := some c.1 })
            ∧ (fits.length ≠ 1 → o = { cls := .low, named := none }))
  ∧ ∀ (s : State) (p : Pos) (src : CheckSource) (c : NodeLampCheck) (point n : Nat) (kind : LoadKind) (d : Time),
    let get := fun (step : ReadingStep) => readingOffer
      (if stateOf s p = .exercising then .consistController else .loadCheckUnit) p
      (src, c.code, step, if step = .supply then 63 else point)
    stateOf s p = .running ∨ (stateOf s p = .exercising ∧ (posRec s p).firstReads = [] ∧ (posRec s p).groupItems ≠ []
      ∧ releaseOffered s p = false) →
    c.row = some (point, n, kind) → point ≤ 63 → (∀ x, x ≠ src → nodeCheck s p x = none) → s.check.oppPending.get p = [] →
    (src = .slot → s.check.queue = [] ∧ ∃ sl, s.check.slot = some sl ∧ sl.entry.target = .lamp p c.code ∧ sl.window = false) →
    let reply := fun (heard ready : Bool) (x : Option Word) =>
      exec (.transactionEnd { heard := heard, ready := ready, service := false, data := x }) s
    let check := setNodeCheck p src
    let paused := fun (c : NodeLampCheck) => Host.Outcome.next (setUnheard p 0 (State.free (check (some
      { c with step := none, supply := none, nextReading := some (s.now + ms 50) }) s)))
    let ends := fun (r : CheckResult) (s : State) => Host.Outcome.next (setUnheard p 0 (State.free (check none (State.resulting
      p c.code r (if src = .slot then { s with check := { s.check with slot := none } } else s)))))
    let again := fun (step : ReadingStep) => unheardOf s p < 2 → exec .replyDeadline s =
      .next (State.granted (get step) (setUnheard p (unheardOf s p + 1) (advanceTo d s)))
    let reads := fun (v : Option Nat) => Host.Outcome.next (State.granted (get .lamp) (setUnheard p 0 (check (some
      { c with step := some .lamp, supply := v }) s)))
    (nodeCheck s p src = some c → c.step = some .supply → s.InFlight (get .supply) d →
        (∀ w : Word, reply true true (some w) = reads (some w.toNat)) ∧ (∀ x, reply true false x = reads none)
          ∧ (∀ any x, reply false any x = reads none) ∧ again .supply)
      ∧ (nodeCheck s p src = some c → c.step = some .lamp → s.InFlight (get .lamp) d →
        (∀ w : Word,
            let vref := s.settings.vref
            let vc := (c.supply.map fun v => max (vref / 2) (min v (vref * 3 / 2))).getD vref
            let expected := match kind with
              | .resistive => n * vc / vref
              | .constPower => n * vref / vc
              | .constCurrent => n
            let cls := (judgeCurrent [((p, c.code), expected)] w.toNat c.tolerance c.tolerance c.threshold false).cls
            (c.lastClass = some cls ∨ 3 ≤ c.counted → reply true true (some w) = ends (classResult cls true) s)
              ∧ (c.lastClass ≠ some cls → c.counted < 3 → reply true true (some w) =
                paused { c with counted := c.counted + 1, lastClass := some cls }))
          ∧ (∀ x, reply true false x = paused c)
          ∧ (∀ any x, reply false any x = ends .noReply (s.faulted .pointUnknown p (some c.code) none point))
          ∧ again .lamp)
      ∧ ∀ (step : ReadingStep) (w : Word), nodeCheck s p src = none → s.InFlight (get step) d →
          reply true true (some w) = .next (setUnheard p 0 s.free)
end

