-- ==== Sys2Proof/Laws/Tables.lean ====
section
/-! SUPPORT. What reading a cell of a table gives after each way of changing the table. -/

namespace Sys2Proof

variable {α β : Type} {n : Nat}

theorem Tab.get_eq (t : Tab α n) (i : Fin n) : t.get i = t.cells[i.val] := rfl

@[simp] theorem Tab.get_fill (a : α) (i : Fin n) : (Tab.fill a : Tab α n).get i = a := by
  simp [Tab.get_eq, Tab.fill]

theorem Tab.get_put (t : Tab α n) (i j : Fin n) (a : α) : (t.put i a).get j = if j = i then a else t.get j := by
  simp only [Tab.get_eq, Tab.put, Vector.getElem_set, Fin.ext_iff]
  simp only [eq_comm]

@[simp] theorem Tab.get_put_same (t : Tab α n) (i : Fin n) (a : α) : (t.put i a).get i = a := by simp [Tab.get_put]

theorem Tab.get_put_ne (t : Tab α n) {i j : Fin n} (a : α) (h : j ≠ i) : (t.put i a).get j = t.get j := by
  simp [Tab.get_put, h]

theorem Tab.get_upd (t : Tab α n) (i j : Fin n) (f : α → α) : (t.upd i f).get j = if j = i then f (t.get i) else t.get j := by
  simp [Tab.upd, Tab.get_put]

@[simp] theorem Tab.get_upd_same (t : Tab α n) (i : Fin n) (f : α → α) : (t.upd i f).get i = f (t.get i) := by
  simp [Tab.get_upd]

theorem Tab.get_upd_ne (t : Tab α n) {i j : Fin n} (f : α → α) (h : j ≠ i) : (t.upd i f).get j = t.get j := by
  simp [Tab.get_upd, h]

@[simp] theorem Tab.get_mapIdx (f : Fin n → α → α) (t : Tab α n) (i : Fin n) : (t.mapIdx f).get i = f i (t.get i) := by
  simp [Tab.get_eq, Tab.mapIdx]

@[simp] theorem Tab.get_map (f : α → β) (t : Tab α n) (i : Fin n) : (t.map f).get i = f (t.get i) := by
  simp [Tab.get_eq, Tab.map]

/-- Two tables whose cells agree are the same table. -/
theorem Tab.ext_get {s t : Tab α n} (h : ∀ i, s.get i = t.get i) : s = t := by
  obtain ⟨⟨s, hs⟩⟩ := s
  obtain ⟨⟨t, ht⟩⟩ := t
  have : s = t := by
    apply Array.ext
    · rw [hs, ht]
    · intro i hi _
      simpa [Tab.get_eq] using h ⟨i, hs ▸ hi⟩
  simp [this]

/-- Putting a cell's own value back changes nothing. -/
@[simp] theorem Tab.put_get_self (t : Tab α n) (i : Fin n) : t.put i (t.get i) = t := by
  apply Tab.ext_get
  intro j
  by_cases h : j = i <;> simp [Tab.get_put, h]

/-- A cell changed by a function that leaves it alone changes nothing. -/
theorem Tab.upd_eq_self (t : Tab α n) (i : Fin n) {f : α → α} (h : f (t.get i) = t.get i) : t.upd i f = t := by
  simp [Tab.upd, h]

end Sys2Proof
end

