-- ==== Sys2Proof/Laws/Calm.lean ====
section
/-! SUPPORT. What every operation between the blocks keeps: `Calm a b` says that the state `a`, reached from `b`, differs
from it in nothing that a notice may not change, keeps every capacity, and leaves the transaction in flight alone. It is
reflexive and transitive, and each operation of the block files has one lemma that says it is calm. -/

namespace Sys2Proof.Machine

/-- R118, R120: the pending on-count of every line lies between 0 and P + 1, unless it has left its old timebase and not yet
joined the new one. -/
def PendingBounded (s : State) : Prop :=
  ∀ k, (lineRec s k).joining = false → (lineRec s k).pendingOn ≤ (timebase s (lineRec s k).tb).period + 1

/-- What an operation between the blocks keeps of the state `b` it is applied to. -/
structure Calm (a b : State) : Prop where
  untouched : Untouched a b
  capacity : b.WithinCapacity → a.WithinCapacity
  sequence : b.SequenceBounded → a.SequenceBounded
  pendingOn : b.CommandsSound → PendingBounded b → PendingBounded a
  flight : FlightKept a b
  free : Notice.lineFree ∉ b.notices → Notice.lineFree ∉ a.notices
  idle : b.IdleLine → a.IdleLine

theorem Untouched.refl (s : State) : Untouched s s := by constructor <;> intros <;> rfl

theorem Untouched.trans {a b c : State} (h : Untouched a b) (h' : Untouched b c) : Untouched a c := by
  constructor
  all_goals first
    | exact fun k => (h.lines k).trans (h'.lines k)
    | (cases h; cases h'; simp_all)

theorem FlightKept.refl (s : State) : FlightKept s s := fun fl h => ⟨fl.discard, h⟩

theorem FlightKept.trans {a b c : State} (h : FlightKept a b) (h' : FlightKept b c) : FlightKept a c := by
  intro fl hf
  obtain ⟨d, hd⟩ := h' fl hf
  obtain ⟨e, he⟩ := h _ hd
  exact ⟨e, he⟩

theorem commandsSound_of_untouched {a b : State} (h : Untouched a b) (hb : b.CommandsSound) : a.CommandsSound := by
  intro f
  have := hb f
  simpa [commandOf, h.decoder] using this

@[simp] theorem Calm.refl (s : State) : Calm s s :=
  ⟨Untouched.refl s, id, id, fun _ => id, FlightKept.refl s, id, id⟩

theorem Calm.trans {a b c : State} (h : Calm a b) (h' : Calm b c) : Calm a c where
  untouched := h.untouched.trans h'.untouched
  capacity := h.capacity ∘ h'.capacity
  sequence := h.sequence ∘ h'.sequence
  pendingOn := fun hc hp => h.pendingOn (commandsSound_of_untouched h'.untouched hc) (h'.pendingOn hc hp)
  flight := h.flight.trans h'.flight
  free := h.free ∘ h'.free
  idle := h.idle ∘ h'.idle

/-- Everything `Calm` looks at. -/
structure View where
  rest : Time × List Instr × List Notice × Nat × Decoder × Settings
  coupling : Bool × Bool × Option Time × Option Time
  policy : Policy
  direct : Direct
  line : List Offer × Option Flight × Tab Nat 4
  check : Tab Circuit 8 × List QueueEntry × Tab (List Code) 4
  sequence : Sequence
  memory : Store × Bool × Option RestartCause
  management : List Request × Option Staging × Option Time × Bool
  port : Fin 4 × Time × List TxFrame

/-- What `Calm` looks at, of a state. -/
def view (s : State) : View where
  rest := (s.now, s.pending, s.notices, s.freeCount, s.decoder, s.settings)
  coupling := (s.consist.cplLevel, s.consist.cplPresent, s.consist.cplTimer, s.consist.probeAt)
  policy := s.policy
  direct := s.direct
  line := (s.line.offers, s.line.flight, s.line.unheard)
  check := (s.check.circuits, s.check.queue, s.check.oppPending)
  sequence := s.sequence
  memory := (s.memory.store, s.memory.invalid, s.memory.cause)
  management := (s.management.requests, s.management.staging, s.management.resetPlaced, s.management.resetSent)
  port := (s.port.node, s.port.consistAt, s.port.queue)

/-- An operation that changes nothing `Calm` looks at is calm. -/
theorem Calm.of_view {a b : State} (h : view a = view b) : Calm a b := by
  obtain ⟨a1, a2, a3, a4, a5, a6, ⟨ao, af, au, as, ag⟩, ⟨ct, cs, cp, cr, cw, cg, cl, cq, cm, cb⟩, a9, a10, a11, a12,
    ⟨k1, k2, k3, k4, k5, k6, k7⟩, a14, a15, ⟨m1, m2, m3, m4, m5, m6⟩, ⟨g1, g2, g3, g4, g5⟩, ⟨p1, p2, p3, p4, p5⟩⟩ := a
  obtain ⟨b1, b2, b3, b4, b5, b6, ⟨bo, bf, bu, bs, bg⟩, ⟨dt, ds, dp, dr, dw, dg, dl, dq, dm, db⟩, b9, b10, b11, b12,
    ⟨l1, l2, l3, l4, l5, l6, l7⟩, b14, b15, ⟨n1, n2, n3, n4, n5, n6⟩, ⟨h1, h2, h3, h4, h5⟩, ⟨q1, q2, q3, q4, q5⟩⟩ := b
  simp only [view, View.mk.injEq, Prod.mk.injEq] at h
  obtain ⟨⟨rfl, rfl, rfl, rfl, rfl, rfl⟩, ⟨rfl, rfl, rfl, rfl⟩, rfl, rfl, ⟨rfl, rfl, rfl⟩, ⟨rfl, rfl, rfl⟩, rfl, ⟨rfl, rfl, rfl⟩,
    ⟨rfl, rfl, rfl, rfl⟩, ⟨rfl, rfl, rfl⟩⟩ := h
  exact ⟨by constructor <;> intros <;> rfl, fun h => ⟨h.1, h.2, h.3, h.4, h.5, h.6, h.7, h.8⟩, fun h => ⟨h.1, h.2⟩,
    fun _ => id, fun fl h => ⟨fl.discard, h⟩, id, id⟩

theorem Calm.step {a b c : State} (h : Calm b c) (hv : view a = view b) : Calm a c := (Calm.of_view hv).trans h

/-- The state a pair carries, by the pair. -/
theorem snd_eq {α : Type} {r : α × State} {a : α} {t : State} (e : r = (a, t)) : t = r.2 := by rw [e]

/-- A loop whose body is calm is calm. -/
@[simp] theorem foldl_calm {α : Type} {f : State → α → State} (hf : ∀ s x, Calm (f s x) s) (xs : List α) {s c : State}
    (h : Calm s c) : Calm (xs.foldl f s) c := by
  induction xs generalizing s with
  | nil => exact h
  | cons x xs ih => exact ih ((hf s x).trans h)

/-- A loop that carries an answer beside its state, and whose body is calm, is calm. -/
theorem foldl_snd_calm {α β : Type} {f : β × State → α → β × State} (hf : ∀ a x, Calm (f a x).2 a.2) (xs : List α)
    {a : β × State} {c : State} (h : Calm a.2 c) : Calm (xs.foldl f a).2 c := by
  induction xs generalizing a with
  | nil => exact h
  | cons x xs ih => exact ih ((hf a x).trans h)

end Sys2Proof.Machine
end

