-- ==== Sys2Proof/Laws/CalmOps.lean ====
section
/-! SUPPORT. The named operations are calm: records, notices, faults, offers and the grant, the transmit queue and the
Request List. -/

namespace Sys2Proof.Machine

variable {s z : State}

/-! ## Records -/

@[simp] theorem modRec_calm (p : Pos) (f : ConsistRecord → ConsistRecord) (h : Calm s z) : Calm (modRec p f s) z :=
  h.step rfl
@[simp] theorem modStream_calm (p : Pos) (f : StreamRecord → StreamRecord) (h : Calm s z) : Calm (modStream p f s) z :=
  h.step rfl
@[simp] theorem modPass_calm (f : EnumPass → EnumPass) (h : Calm s z) : Calm (modPass f s) z := h.step rfl
@[simp] theorem modRelease_calm (f : ReleaseRecord → ReleaseRecord) (h : Calm s z) : Calm (modRelease f s) z := h.step rfl
@[simp] theorem modEntry_calm (p : Pos) (f : Code) (g : StatusEntry → StatusEntry) (h : Calm s z) :
    Calm (modEntry p f g s) z := h.step rfl
@[simp] theorem modGroup_calm (p : Pos) (g : Group) (f : GroupRecord → GroupRecord) (h : Calm s z) :
    Calm (modGroup p g f s) z := h.step rfl
@[simp] theorem modBlock_calm (b : BlockNo) (f : Block → Block) (h : Calm s z) : Calm (modBlock b f s) z := h.step rfl
@[simp] theorem setNodeCheck_calm (p : Pos) (src : CheckSource) (x : Option NodeLampCheck) (h : Calm s z) :
    Calm (setNodeCheck p src x s) z := by cases src <;> exact h.step rfl
@[simp] theorem modRound_calm (p : Pos) (f : Round → Round) (h : Calm s z) : Calm (modRound p f s) z := h.step rfl

/-- A change of a circuit record that keeps its two bounds is calm. -/
theorem modCircuit_calm (k : LineNo) (f : Circuit → Circuit)
    (hc : (circuitRec s k).contributors.length ≤ 16 → (f (circuitRec s k)).contributors.length ≤ 16)
    (hs : (circuitRec s k).samples.length ≤ 3 → (f (circuitRec s k)).samples.length ≤ 3) (h : Calm s z) :
    Calm (modCircuit k f s) z := by
  refine Calm.trans ?_ h
  refine ⟨by constructor <;> intros <;> rfl, fun w => { w with contributors := ?_, samples := ?_ }, fun w => ⟨w.1, w.2⟩,
    fun _ => id, fun fl h => ⟨fl.discard, h⟩, id, id⟩
  · intro j
    have := w.contributors j
    by_cases hj : j = k
    · subst hj; simpa [circuitRec, modCircuit] using hc (w.contributors j)
    · simpa [circuitRec, modCircuit, Tab.get_upd_ne _ _ hj] using this
  · intro j
    have := w.samples j
    by_cases hj : j = k
    · subst hj; simpa [circuitRec, modCircuit] using hs (w.samples j)
    · simpa [circuitRec, modCircuit, Tab.get_upd_ne _ _ hj] using this

/-- A change of a line record that keeps its core, and its pending on-count in its bound, is calm. -/
theorem modLine_calm (k : LineNo) (f : Line → Line) (hf : (f (lineRec s k)).core = (lineRec s k).core)
    (hp : s.CommandsSound → (lineRec s k).pendingOn ≤ (timebase s (lineRec s k).tb).period + 1 →
      (f (lineRec s k)).pendingOn ≤ (timebase s (lineRec s k).tb).period + 1) (h : Calm s z) :
    Calm (modLine k f s) z := by
  refine Calm.trans ?_ h
  have htb : (f (lineRec s k)).tb = (lineRec s k).tb := by
    have := congrArg LineCore.tb hf; simpa [Line.core] using this
  have hjn : (f (lineRec s k)).joining = (lineRec s k).joining := by
    have := congrArg LineCore.joining hf; simpa [Line.core] using this
  refine ⟨?_, fun w => ⟨w.1, w.2, w.3, w.4, w.5, w.6, w.7, w.8⟩, fun w => ⟨w.1, w.2⟩, ?_, fun fl h => ⟨fl.discard, h⟩, id, id⟩
  · constructor
    case lines =>
      intro j
      by_cases hj : j = k
      · subst hj; simpa [lineRec, modLine] using hf
      · simp [lineRec, modLine, Tab.get_upd_ne _ _ hj]
    all_goals rfl
  · intro hc w j
    have hw := w j
    intro hjj
    have ht : ∀ t, timebase (modLine k f s) t = timebase s t := by intro t; cases t <;> rfl
    by_cases hj : j = k
    · subst hj
      have e : lineRec (modLine j f s) j = f (lineRec s j) := by simp [lineRec, modLine]
      rw [e, hjn] at hjj
      rw [e, ht, htb]; exact hp hc (hw hjj)
    · have e : lineRec (modLine k f s) j = lineRec s j := by simp [lineRec, modLine, Tab.get_upd_ne _ _ hj]
      rw [e] at hjj
      rw [e, ht]; exact hw hjj

/-! ## Notices and faults -/

/-- Notices none of which frees the line are calm. -/
@[simp] theorem emitAll_calm (ns : List Notice) (hn : Notice.lineFree ∉ ns) (h : Calm s z) : Calm (emitAll ns s) z := by
  refine Calm.trans ?_ h
  refine ⟨by constructor <;> intros <;> rfl, fun w => ⟨w.1, w.2, w.3, w.4, w.5, w.6, w.7, w.8⟩, fun w => ⟨w.1, w.2⟩,
    fun _ => id, fun fl h => ⟨fl.discard, h⟩, fun w => ?_, id⟩
  simp only [emitAll, List.mem_append, not_or]
  exact ⟨w, hn⟩

@[simp] theorem emit_calm (n : Notice) (hn : n ≠ .lineFree) (h : Calm s z) : Calm (emit n s) z :=
  emitAll_calm [n] (by simpa using fun e => hn e.symm) h

theorem addFault_length (r : FaultRecord) (fs : List FaultRecord) (h : fs.length ≤ 8) : (addFault r fs).length ≤ 8 := by
  unfold addFault
  split
  · simp_all [Config.faultCapacity]
  · cases hf : fs.getLast? <;> simp <;> omega

@[simp] theorem takeFault_calm (r : FaultRecord) (h : Calm s z) : Calm (takeFault r s) z := by
  refine Calm.trans ?_ h
  exact ⟨by constructor <;> intros <;> rfl,
    fun w => ⟨addFault_length r _ w.1, w.2, w.3, w.4, w.5, w.6, w.7, w.8⟩, fun w => ⟨w.1, w.2⟩,
    fun _ => id, fun fl h => ⟨fl.discard, h⟩, id, id⟩

@[simp] theorem recordFault_calm (kind : FaultKind) (p : Option Pos) (f : Option Code) (access : Option AccessKind)
    (detail : Nat) (h : Calm s z) : Calm (recordFault kind p f access detail s) z := takeFault_calm _ h

/-! ## Offers -/

/-- Offers that are withdrawn are calm. -/
theorem filterOffers_calm (f : Offer → Bool) (h : Calm s z) : Calm (setOffers (fun os => os.filter f) s) z := by
  refine Calm.trans ?_ h
  exact ⟨by constructor <;> intros <;> rfl, fun w => ⟨w.1, w.2, w.3, w.4, w.5, w.6, w.7, w.8⟩, fun w => ⟨w.1, w.2⟩,
    fun _ => id, fun fl h => ⟨fl.discard, h⟩, id, fun w hf => by simp [setOffers, w hf]⟩

@[simp] theorem withdraw_calm (r : Requester) (c : ArbClass) (p : LinePos) (h : Calm s z) : Calm (withdraw r c p s) z :=
  filterOffers_calm _ h
@[simp] theorem withdrawWhere_calm (f : Offer → Bool) (h : Calm s z) : Calm (withdrawWhere f s) z :=
  filterOffers_calm _ h
@[simp] theorem notePhase_calm (o : Offer) (h : Calm s z) : Calm (notePhase o s) z := by
  unfold notePhase; split <;> simp [h]

theorem grantNotices_not_free (o : Offer) : Notice.lineFree ∉ grantNotices o := by
  unfold grantNotices
  repeat' split
  all_goals simp

/-- Changing the offers and the transaction in flight of a free line. -/
theorem setLine_calm (os : List Offer) (fl : Option Flight) (a : Tab LinePos 7)
    (b : Tab (Tab (Option Requester) 5) 7) (hf : s.line.flight = none) (hi : fl = none → os = []) :
    Calm { s with line := { s.line with offers := os, flight := fl, lastServed := a, lastGranted := b } } s :=
  ⟨by constructor <;> intros <;> rfl, fun w => ⟨w.1, w.2, w.3, w.4, w.5, w.6, w.7, w.8⟩, fun w => ⟨w.1, w.2⟩,
    fun _ => id, fun fl h => by simp [hf] at h, id, fun _ => hi⟩

/-- A grant is made only while no transaction is in flight. -/
theorem grant_calm (o : Offer) (hf : s.line.flight = none) (h : Calm s z) : Calm (grant o s) z :=
  emitAll_calm _ (grantNotices_not_free o) (notePhase_calm o ((setLine_calm _ _ _ _ hf (by simp)).trans h))

@[simp] theorem grantLine_calm (h : Calm s z) : Calm (grantLine s) z := by
  unfold grantLine
  split
  · exact h
  · split
    · exact grant_calm _ (by assumption) h
    · exact h

/-! ## The arbiter finds an offer -/

theorem pickRequester_isSome (last : Option Requester) {os : List Offer} (h : os ≠ []) : (pickRequester last os).isSome := by
  obtain ⟨o, os, rfl⟩ := List.exists_cons_of_ne_nil h
  unfold pickRequester
  split <;> simp [Option.isSome_or]

theorem mem_rotation (last p : LinePos) : p ∈ rotation last := by
  revert last p; decide

theorem bestClass_eq_none {os : List Offer} (h : bestClass os = none) : os = [] := by
  unfold bestClass at h
  rw [List.find?_eq_none] at h
  by_contra hne
  obtain ⟨o, os, rfl⟩ := List.exists_cons_of_ne_nil hne
  have hm : o.cls ∈ ([0, 1, 2, 3, 4, 5, 6] : List ArbClass) := by
    have : ∀ c : ArbClass, c ∈ ([0, 1, 2, 3, 4, 5, 6] : List ArbClass) := by decide
    exact this _
  exact h _ hm (by simp)

/-- R34: while an offer stands the arbiter chooses one. -/
theorem chooseOffer_eq_none {l : LineCtl} (h : chooseOffer l = none) : l.offers = [] := by
  unfold chooseOffer at h
  split at h
  · exact bestClass_eq_none (by assumption)
  · rename_i c hc
    exfalso
    rw [List.findSome?_eq_none_iff] at h
    unfold bestClass at hc
    have := List.find?_some hc
    simp only [List.any_eq_true, decide_eq_true_eq] at this
    obtain ⟨o, ho, hcls⟩ := this
    have hp := h o.pos (mem_rotation _ _)
    have hs := pickRequester_isSome ((l.lastGranted.get c).get o.pos)
      (os := l.offers.filter fun x => decide (x.cls = c) && decide (x.pos = o.pos))
      (by intro e; rw [List.filter_eq_nil_iff] at e; exact e o ho (by simp [hcls]))
    rw [hp] at hs
    simp at hs

/-- R34: once the grant has been looked at, a free line has no offer standing. -/
theorem grantLine_idle (s : State) : (grantLine s).IdleLine := by
  unfold grantLine
  split
  · rename_i fl hf
    intro h; rw [hf] at h; cases h
  · split
    · intro h
      exfalso
      revert h
      unfold grant
      simp only [emitAll]
      unfold notePhase
      repeat' split
      all_goals simp [modPass, modRelease, modRec]
    · rename_i hc
      exact fun _ => chooseOffer_eq_none hc

/-- R33: an offer made to a busy line stands, and is granted at once on a free one. -/
theorem putOffer_grant_calm (o : Offer) (h : Calm s z) : Calm (grantLine (setOffers (putOffer o) s)) z := by
  refine Calm.trans ?_ h
  have hs : Untouched (setOffers (putOffer o) s) s := by constructor <;> intros <;> rfl
  have hg := grantLine_calm (Calm.refl (setOffers (putOffer o) s))
  exact ⟨hg.untouched.trans hs, fun w => hg.capacity ⟨w.1, w.2, w.3, w.4, w.5, w.6, w.7, w.8⟩,
    fun w => hg.sequence ⟨w.1, w.2⟩, fun hc hp => hg.pendingOn hc hp,
    hg.flight.trans (fun fl hf => ⟨fl.discard, hf⟩), fun hn => hg.free hn, fun _ => grantLine_idle _⟩

@[simp] theorem makeOffer_calm (o : Offer) (h : Calm s z) : Calm (makeOffer o s) z := by
  unfold makeOffer
  split
  · exact putOffer_grant_calm o h
  · exact emit_calm _ (by simp) h

/-- An unheard counter set to at most 3 is calm. -/
@[simp] theorem setUnheard_calm (p : Pos) (n : Nat) (hn : n ≤ 3) (h : Calm s z) : Calm (setUnheard p n s) z := by
  refine Calm.trans ?_ h
  refine ⟨by constructor <;> intros <;> rfl, fun w => { w with unheard := ?_ }, fun w => ⟨w.1, w.2⟩,
    fun _ => id, fun fl h => ⟨fl.discard, h⟩, id, id⟩
  intro q
  have := w.unheard q
  by_cases hq : q = p
  · subst hq; simpa [unheardOf, setUnheard] using hn
  · simpa [unheardOf, setUnheard, Tab.get_put_ne _ _ hq] using this

/-! ## The transmit queue and the Request List -/

/-- A queue of at most 16 frames is calm. -/
theorem setQueue_calm (q : List TxFrame) (hq : s.port.queue.length ≤ 16 → q.length ≤ 16) (h : Calm s z) :
    Calm (setQueue q s) z := by
  refine Calm.trans ?_ h
  exact ⟨by constructor <;> intros <;> rfl, fun w => ⟨w.1, hq w.2, w.3, w.4, w.5, w.6, w.7, w.8⟩, fun w => ⟨w.1, w.2⟩,
    fun _ => id, fun fl h => ⟨fl.discard, h⟩, id, id⟩

@[simp] theorem setOverrun_calm (v : Bool) (h : Calm s z) : Calm (setOverrun v s) z := h.step rfl

theorem replaceFrame_length (k : FrameKey) (data : List Byte) (q q' : List TxFrame) (h : replaceFrame k data q = some q') :
    q'.length = q.length := by
  induction q generalizing q' with
  | nil => simp [replaceFrame] at h
  | cons f fs ih =>
    rw [replaceFrame] at h
    split at h
    · cases h; rfl
    · simp only [Option.map_eq_some_iff] at h
      obtain ⟨r, hr, rfl⟩ := h
      simp [ih r hr]

@[simp] theorem placeStatus_calm (k : FrameKey) (id : Nat) (data : List Byte) (h : Calm s z) :
    Calm (placeStatus k id data s) z := by
  unfold placeStatus
  split
  · rename_i q hq
    exact setQueue_calm _ (fun w => by rw [replaceFrame_length _ _ _ _ hq]; exact w) h
  · split
    · rename_i hl
      exact setQueue_calm _ (fun _ => by simp [txQueue, Config.txCapacity] at hl ⊢; omega) h
    · simp [h]

/-- A Request List that is no longer than the one held is calm. -/
theorem setRequests_calm (rs : List Request) (x : HeadState) (hr : rs.length ≤ s.management.requests.length) (h : Calm s z) :
    Calm (setRequests rs x s) z := by
  refine Calm.trans ?_ h
  exact ⟨by constructor <;> intros <;> rfl, fun w => ⟨w.1, w.2, le_trans hr w.3, w.4, w.5, w.6, w.7, w.8⟩,
    fun w => ⟨w.1, w.2⟩, fun _ => id, fun fl h => ⟨fl.discard, h⟩, id, id⟩

@[simp] theorem serveUnknown_calm (n : Nat) (h : Calm s z) : Calm (serveUnknown n s) z := by
  induction n generalizing s with
  | zero => exact h
  | succ n ih =>
    unfold serveUnknown
    split
    · rename_i r rs hr _
      split
      · exact h
      · split
        · rename_i hl
          refine ih (setRequests_calm _ _ (by simp [setQueue, hr])
            (setQueue_calm _ (fun _ => ?_) h))
          simp [txQueue, Config.txCapacity] at hl ⊢; omega
        · exact setRequests_calm _ _ (by simp [hr]) h
    · exact h

@[simp] theorem popRequest_calm (h : Calm s z) : Calm (popRequest s) z :=
  serveUnknown_calm _ (setRequests_calm _ _ (by simp) h)

@[simp] theorem answer_calm (result : ResultCode) (bytes : List Byte) (h : Calm s z) : Calm (answer result bytes s) z := by
  unfold answer
  split
  · exact h
  · rename_i r rs hr
    split
    · rename_i hl
      refine popRequest_calm (setQueue_calm _ (fun _ => ?_) h)
      simp [txQueue, Config.txCapacity] at hl ⊢; omega
    · exact setRequests_calm _ _ (by simp [hr]) h

@[simp] theorem holdHead_calm (h : Calm s z) : Calm (holdHead s) z := setRequests_calm _ _ (le_refl _) h

@[simp] theorem answerPart_calm (result : ResultCode) (bytes : List Byte) (part : Nat) (h : Calm s z) :
    Calm (answerPart result bytes part s) z := by
  unfold answerPart; split <;> simp [h]

end Sys2Proof.Machine
end

