-- ==== Sys2Proof/Laws/CalmPort.lean ====
section
/-! SUPPORT. The Tractor Port's frames and refresh times are calm. -/

namespace Sys2Proof.Machine

variable {s z : State}

@[simp] theorem setRefresh_calm (p : Pos) (g : Group) (half : Bool) (t : Option Time) (h : Calm s z) :
    Calm (setRefresh p g half t s) z := h.step rfl

@[simp] theorem placeConsist_calm (h : Calm s z) : Calm (placeConsist s) z := by
  unfold placeConsist
  with_reducible repeat' first
    | exact h | apply setOverrun_calm | apply placeStatus_calm | split

@[simp] theorem noteRefresh_calm (p : Pos) (g : Group) (half : Bool) (h : Calm s z) :
    Calm (noteRefresh p g half s) z := by
  unfold noteRefresh
  with_reducible repeat' first
    | exact h | apply setRefresh_calm | split

@[simp] theorem placeResultFrame_calm (p : Pos) (g : Group) (half : Bool) (h : Calm s z) :
    Calm (placeResultFrame p g half s) z := by
  unfold placeResultFrame
  with_reducible repeat' first
    | exact h | apply noteRefresh_calm | apply placeStatus_calm | apply setOverrun_calm | split

@[simp] theorem placeValueFrame_calm (p : Pos) (f : Code) (h : Calm s z) : Calm (placeValueFrame p f s) z := by
  unfold placeValueFrame; apply placeStatus_calm; exact h

@[simp] theorem syncOne_calm (p : Pos) (g : Group) (half : Bool) (h : Calm s z) : Calm (syncOne p g half s) z := by
  unfold syncOne
  with_reducible repeat' first
    | exact h | apply setRefresh_calm | split

@[simp] theorem syncRefresh_calm (h : Calm s z) : Calm (syncRefresh s) z :=
  foldl_calm (fun s p => foldl_calm (fun s g => by simp) _ (Calm.refl s)) _ h

@[simp] theorem placeRefresh_calm (h : Calm s z) : Calm (placeRefresh s) z := by
  unfold placeRefresh
  with_reducible repeat' first
    | exact h | apply placeResultFrame_calm | split

end Sys2Proof.Machine
end

