-- ==== Sys2Proof/Laws/CalmLines.lean ====
section
/-! SUPPORT. What notices bring about on the direct lines is calm: the pending on-counts, the exercise flags and the holds. -/

namespace Sys2Proof.Machine

variable {s z : State}

/-! ## The bound of an on-count -/

/-- R122: an on-count is at most P + 1. -/
theorem onCountOf_le {level period : Nat} (comp : CompMode) (vref : Nat) (supply : Option Nat) (h : level ≤ 255) :
    onCountOf level period comp vref supply ≤ period + 1 := by
  have hb : level * (period + 1) / 255 ≤ period + 1 := by
    apply Nat.div_le_of_le_mul
    nlinarith
  unfold onCountOf
  dsimp only
  split
  · split
    · omega
    · exact Nat.min_le_right _ _
  · exact hb

theorem commandOf_le (hs : s.CommandsSound) (f : Code) : (commandOf s f).value ≤ 255 := by
  have := hs f
  unfold commandSound at this
  split at this <;> simp at this <;> omega

theorem levelOf_le (hs : s.CommandsSound) (k : LineNo) : levelOf s k ≤ 255 := by
  unfold levelOf codeLevel
  split
  · exact le_refl _
  · split
    · exact commandOf_le hs _
    · omega

/-- A change of a line's exercise flag or hold is calm. -/
theorem modLine_flags_calm (k : LineNo) (f : Line → Line) (hc : ∀ l, (f l).core = l.core)
    (hp : ∀ l, (f l).pendingOn = l.pendingOn) (h : Calm s z) : Calm (modLine k f s) z :=
  modLine_calm k f (hc _) (fun _ w => by rw [hp]; exact w) h

@[simp] theorem computePending_calm (k : LineNo) (h : Calm s z) : Calm (computePending k s) z :=
  modLine_calm k _ rfl (fun hs _ => onCountOf_le _ _ _ (levelOf_le hs k)) h

@[simp] theorem recompute_calm (k : LineNo) (h : Calm s z) : Calm (recompute k s) z := by
  unfold recompute
  with_reducible repeat' first
    | exact h | apply computePending_calm | split

@[simp] theorem recomputeWhere_calm (f : State → LineNo → Bool) (h : Calm s z) : Calm (recomputeWhere f s) z :=
  foldl_calm (fun s k => by split <;> simp) _ h

@[simp] theorem openLineWindow_calm (k : LineNo) (h : Calm s z) : Calm (openLineWindow k s) z := by
  unfold openLineWindow
  split
  · exact h
  · exact computePending_calm k (modLine_flags_calm k _ (fun _ => rfl) (fun _ => rfl) h)

@[simp] theorem closeLineWindow_calm (k : LineNo) (h : Calm s z) : Calm (closeLineWindow k s) z :=
  recompute_calm k (modLine_flags_calm k _ (fun _ => rfl) (fun _ => rfl) h)

@[simp] theorem windowAfterHold_calm (k : LineNo) (h : Calm s z) : Calm (windowAfterHold k s) z := by
  unfold windowAfterHold
  with_reducible repeat' first
    | exact h | apply openLineWindow_calm | split

@[simp] theorem clearHold_calm (k : LineNo) (h : Calm s z) : Calm (clearHold k s) z :=
  modLine_flags_calm k _ (fun _ => rfl) (fun _ => rfl) h

@[simp] theorem endHold_calm (k : LineNo) (h : Calm s z) : Calm (endHold k s) z := by
  unfold endHold
  with_reducible repeat' first
    | exact h | apply windowAfterHold_calm | apply computePending_calm | apply clearHold_calm

@[simp] theorem expireHold_calm (k : LineNo) (h : Calm s z) : Calm (expireHold k s) z :=
  windowAfterHold_calm k (modLine_calm k _ rfl (fun _ _ => Nat.zero_le _) (clearHold_calm k h))

@[simp] theorem dropHold_calm (k : LineNo) (h : Calm s z) : Calm (dropHold k s) z := by
  unfold dropHold
  with_reducible repeat' first
    | exact h | apply windowAfterHold_calm | apply clearHold_calm | split

@[simp] theorem lineUpdateOne_calm (f : Code) (k : LineNo) (h : Calm s z) : Calm (lineUpdateOne f s k) z := by
  unfold lineUpdateOne
  with_reducible repeat' first
    | exact h | apply endHold_calm | split

@[simp] theorem lineUpdate_calm (f : Code) (h : Calm s z) : Calm (lineUpdate f s) z :=
  foldl_calm (fun s k => by simp) _ h

@[simp] theorem lineChangeOne_calm (f : Code) (k : LineNo) (h : Calm s z) : Calm (lineChangeOne f s k) z := by
  unfold lineChangeOne
  with_reducible repeat' first
    | exact h | apply recompute_calm | split

@[simp] theorem lineChange_calm (f : Code) (h : Calm s z) : Calm (lineChange f s) z :=
  foldl_calm (fun s k => by simp) _ h

end Sys2Proof.Machine
end

