-- ==== Sys2Proof/Laws/CalmBinding.lean ====
section
/-! SUPPORT. The Binding Store's operations are calm. -/

namespace Sys2Proof.Machine

variable {s z : State}

theorem holdNotices_not_free (p : Pos) : Notice.lineFree ∉ holdNotices p := by simp [holdNotices]

@[simp] theorem modBinding_calm (f : Binding → Binding) (h : Calm s z) : Calm (modBinding f s) z := h.step rfl

@[simp] theorem offerFetch_calm (p : Pos) (h : Calm s z) : Calm (offerFetch p s) z := by
  unfold offerFetch
  with_reducible repeat' first
    | exact h | apply withdraw_calm | apply makeOffer_calm | split

@[simp] theorem firstCircle_calm (x0 : List BlockNo) (h : Calm s z) : Calm (firstCircle x0 s).2 z := by
  induction x0 generalizing s with
  | nil => exact h
  | cons b bs ih =>
    unfold firstCircle
    split
    · split
      · exact ih (modBlock_calm _ _ h)
      · exact h
    · exact ih h

@[simp] theorem setPointer_calm (b : BlockNo) (h : Calm s z) : Calm (setPointer b s) z := by
  unfold setPointer; apply modBinding_calm; exact h

@[simp] theorem takeBlock_calm (h : Calm s z) : Calm (takeBlock s).2 z := by
  unfold takeBlock
  with_reducible repeat' first
    | exact h | apply firstCircle_calm | apply setPointer_calm | dsimp only | split
    | (rename_i e; have e' := snd_eq e; subst e'; clear e) | (rename_i e; clear e)

@[simp] theorem dropOwner_calm (b : BlockNo) (h : Calm s z) : Calm (dropOwner b s) z := by
  unfold dropOwner
  with_reducible repeat' first
    | exact h | apply modGroup_calm | split

@[simp] theorem setUpBlock_calm (b : BlockNo) (p : Pos) (g : Group) (pin : Bool) (h : Calm s z) :
    Calm (setUpBlock b p g pin s) z := by
  unfold setUpBlock
  with_reducible repeat' first
    | exact h | apply emitAll_calm | apply offerFetch_calm | apply modGroup_calm | apply modBlock_calm
    | apply dropOwner_calm | exact holdNotices_not_free _ | (simp [holdNotices]; done)

@[simp] theorem claimFailed_calm (p : Pos) (g : Group) (f : Option Code) (k : Option AccessKind) (h : Calm s z) :
    Calm (claimFailed p g f k s) z := by
  unfold claimFailed
  with_reducible repeat' first
    | exact h | apply emitAll_calm | apply recordFault_calm | apply modGroup_calm | exact holdNotices_not_free _
    | (simp [holdNotices]; done) | split

@[simp] theorem claim_calm (p : Pos) (g : Group) (pin : Bool) (f : Option Code) (k : Option AccessKind)
    (h : Calm s z) : Calm (claim p g pin f k s).2 z := by
  unfold claim
  with_reducible repeat' first
    | exact h | apply takeBlock_calm | apply setUpBlock_calm | apply claimFailed_calm | dsimp only | split
    | (rename_i e; have e' := snd_eq e; subst e'; clear e) | (rename_i e; clear e)

@[simp] theorem joinWait_calm (b : BlockNo) (w : Waiter) (h : Calm s z) : Calm (joinWait b w s) z := by
  unfold joinWait
  with_reducible repeat' first
    | exact h | apply modBlock_calm | split

@[simp] theorem reference_calm (b : BlockNo) (h : Calm s z) : Calm (reference b s) z := by
  unfold reference; apply modBlock_calm; exact h

@[simp] theorem lookupGroup_calm (p : Pos) (g : Group) (f : Option Code) (k : Option AccessKind) (w : Waiter)
    (h : Calm s z) : Calm (lookupGroup p g f k w s).2 z := by
  unfold lookupGroup
  with_reducible repeat' first
    | exact h | apply joinWait_calm | apply reference_calm | apply claim_calm | dsimp only | split
    | (rename_i e; have e' := snd_eq e; subst e'; clear e) | (rename_i e; clear e)

@[simp] theorem checkPolicy_calm (p : Pos) (f : Code) (c2 : Fin 8) (d : Fin 8) (k : AccessKind) (h : Calm s z) :
    Calm (checkPolicy p f c2 d k s).2 z := by
  unfold checkPolicy
  with_reducible repeat' first
    | exact h | apply recordFault_calm | dsimp only | split

@[simp] theorem reportRow_calm (p : Pos) (f : Code) (k : AccessKind) (b : BlockNo) (e : DirEntry) (h : Calm s z) :
    Calm (reportRow p f k b e s) z := by
  unfold reportRow
  with_reducible repeat' first
    | exact h | apply recordFault_calm | apply modBlock_calm | split

@[simp] theorem translate_calm (p : Pos) (f : Code) (k : AccessKind) (zero : Bool) (w : Waiter) (h : Calm s z) :
    Calm (translate p f k zero w s).2 z := by
  unfold translate
  with_reducible repeat' first
    | exact h | apply lookupGroup_calm | apply reportRow_calm | apply checkPolicy_calm | dsimp only | split
    | (rename_i e; have e' := snd_eq e; subst e'; clear e) | (rename_i e; clear e)

@[simp] theorem clearNoSpace_calm (h : Calm s z) : Calm (clearNoSpace s) z := by
  unfold clearNoSpace
  with_reducible repeat' first
    | exact h | apply emit_calm | apply modBinding_calm | (simp; done) | split

@[simp] theorem releaseBlock_calm (b : BlockNo) (h : Calm s z) : Calm (releaseBlock b s) z := by
  unfold releaseBlock
  with_reducible repeat' first
    | exact h | apply offerFetch_calm | apply modGroup_calm | apply modBlock_calm | split

@[simp] theorem freeBlock_calm (b : BlockNo) (h : Calm s z) : Calm (freeBlock b s) z := by
  unfold freeBlock
  with_reducible repeat' first
    | exact h | apply clearNoSpace_calm | apply emitAll_calm | apply releaseBlock_calm | (simp; done)

@[simp] theorem freeFetching_calm (p : Pos) (h : Calm s z) : Calm (freeFetching p s) z := by
  unfold freeFetching
  with_reducible repeat' first
    | exact h | apply freeBlock_calm | refine foldl_calm (fun _ _ => ?_) _ ?_ | exact Calm.refl _

@[simp] theorem resetBinding_calm (p : Pos) (h : Calm s z) : Calm (resetBinding p s) z := by
  unfold resetBinding
  with_reducible repeat' first
    | exact h | apply modBinding_calm | apply freeBlock_calm | refine foldl_calm (fun _ _ => ?_) _ ?_
    | exact Calm.refl _

@[simp] theorem fetchFails_calm (p : Pos) (g : Group) (b : BlockNo) (addr : Nat) (h : Calm s z) :
    Calm (fetchFails p g b addr s) z := by
  unfold fetchFails
  with_reducible repeat' first
    | exact h | apply clearNoSpace_calm | apply emitAll_calm | apply modGroup_calm | apply releaseBlock_calm
    | apply recordFault_calm | dsimp only | exact holdNotices_not_free _ | (simp [holdNotices]; done)

@[simp] theorem writeRow_calm (b : BlockNo) (g : Group) (m : Nat) (w0 : Word) (w1 : Word) (w2 : Word) (w3 : Word)
    (h : Calm s z) : Calm (writeRow b g m w0 w1 w2 w3 s) z := by
  unfold writeRow
  with_reducible repeat' first
    | exact h | apply modBlock_calm | split

@[simp] theorem becomeLoaded_calm (p : Pos) (b : BlockNo) (h : Calm s z) : Calm (becomeLoaded p b s) z := by
  unfold becomeLoaded
  with_reducible repeat' first
    | exact h | apply clearNoSpace_calm | apply emitAll_calm | apply modBlock_calm | dsimp only
    | exact holdNotices_not_free _ | (simp [holdNotices]; done)

@[simp] theorem takeFetchWord_calm (p : Pos) (g : Group) (b : BlockNo) (w : Word) (h : Calm s z) :
    Calm (takeFetchWord p g b w s) z := by
  unfold takeFetchWord
  with_reducible repeat' first
    | exact h | apply writeRow_calm | apply becomeLoaded_calm | apply modBlock_calm | dsimp only | split

@[simp] theorem fetchEnd_calm (p : Pos) (g : Group) (b : BlockNo) (addr : Nat) (out : LineOutcome)
    (data : Option Word) (h : Calm s z) : Calm (fetchEnd p g b addr out data s) z := by
  unfold fetchEnd
  with_reducible repeat' first
    | exact h | apply offerFetch_calm | apply takeFetchWord_calm | apply fetchFails_calm | split

@[simp] theorem pinGroup_calm (p : Pos) (g : Group) (h : Calm s z) : Calm (pinGroup p g s).2 z := by
  unfold pinGroup
  with_reducible repeat' first
    | exact h | apply modBlock_calm | apply claim_calm | dsimp only | split
    | (rename_i e; have e' := snd_eq e; subst e'; clear e) | (rename_i e; clear e)

@[simp] theorem unpinGroup_calm (p : Pos) (g : Group) (h : Calm s z) : Calm (unpinGroup p g s) z := by
  unfold unpinGroup
  with_reducible repeat' first
    | exact h | apply clearNoSpace_calm | apply modBlock_calm | split

end Sys2Proof.Machine
end

