-- ==== Sys2Proof/Laws/CalmLoadCheck.lean ====
section
/-! SUPPORT. The Load Check Unit's operations are calm. -/

namespace Sys2Proof.Machine

variable {s z : State}

@[simp] theorem outcomeWrites_not_free (s : State) (k : LineNo) (o : CheckOutcome) :
    Notice.lineFree ∉ outcomeWrites s k o := by
  unfold outcomeWrites; split <;> simp

theorem insertContributor_length (c : Contributor) (cs : List Contributor) :
    (insertContributor c cs).length = cs.length + 1 := by
  induction cs with
  | nil => rfl
  | cons d ds ih => unfold insertContributor; split <;> simp [ih]

/-- An Exercise Queue of at most 16 entries is calm. -/
theorem setExQueue_calm (q : List QueueEntry) (hq : s.check.queue.length ≤ 16 → q.length ≤ 16) (h : Calm s z) :
    Calm (setExQueue q s) z := by
  refine Calm.trans ?_ h
  exact ⟨by constructor <;> intros <;> rfl, fun w => ⟨w.1, w.2, w.3, hq w.4, w.5, w.6, w.7, w.8⟩, fun w => ⟨w.1, w.2⟩,
    fun _ => id, fun fl h => ⟨fl.discard, h⟩, id, id⟩

/-- A pending list of at most 64 codes is calm. -/
theorem setPending_calm (p : Pos) (fs : List Code)
    (hf : (s.check.oppPending.get p).length ≤ 64 → fs.length ≤ 64) (h : Calm s z) : Calm (setPending p fs s) z := by
  refine Calm.trans ?_ h
  refine ⟨by constructor <;> intros <;> rfl, fun w => { w with opportunistic := ?_ }, fun w => ⟨w.1, w.2⟩,
    fun _ => id, fun fl h => ⟨fl.discard, h⟩, id, id⟩
  intro q
  have := w.opportunistic q
  by_cases hq : q = p
  · subst hq; simpa [setPending] using hf this
  · simpa [setPending, Tab.get_put_ne _ _ hq] using this

theorem nextPending_length (s : State) (p : Pos) (fs : List Code) {f : Code} {rest : List Code}
    (h : nextPending s p fs = some (f, rest)) : rest.length ≤ fs.length := by
  induction fs with
  | nil => simp [nextPending] at h
  | cons g gs ih =>
    unfold nextPending at h
    split at h
    · cases h; simp
    · exact le_trans (ih h) (by simp)

@[simp] theorem reportOutcome_calm (k : LineNo) (o : CheckOutcome) (h : Calm s z) : Calm (reportOutcome k o s) z := by
  unfold reportOutcome
  with_reducible repeat' first
    | exact h | apply emitAll_calm | apply modCircuit_calm | (simp; done) | split

@[simp] theorem takeEvaluation_calm (k : LineNo) (o : CheckOutcome) (h : Calm s z) : Calm (takeEvaluation k o s) z := by
  unfold takeEvaluation
  with_reducible repeat' first
    | exact h | apply modCircuit_calm | apply emit_calm | apply reportOutcome_calm | dsimp only | (simp; done)
    | split

@[simp] theorem takeSample_calm (k : LineNo) (code : Nat) (h : Calm s z) : Calm (takeSample k code s) z := by
  unfold takeSample
  split
  · exact h
  · dsimp only
    split
    · rename_i hl
      exact modCircuit_calm k _ id (fun _ => Nat.le_of_lt_succ hl) h
    · exact takeEvaluation_calm _ _ (modCircuit_calm k _ id (fun _ => Nat.zero_le _) h)

@[simp] theorem takeTrip_calm (k : LineNo) (h : Calm s z) : Calm (takeTrip k s) z := by
  unfold takeTrip
  with_reducible repeat' first
    | exact h | apply emitAll_calm | apply modCircuit_calm | dsimp only | (simp; done) | split

@[simp] theorem changeRule_calm (k : LineNo) (exercise : Bool) (h : Calm s z) : Calm (changeRule k exercise s) z := by
  unfold changeRule
  refine emitAll_calm _ (by split <;> simp) (modCircuit_calm k _ id (fun _ => Nat.zero_le _) h)

@[simp] theorem windowJoin_calm (k : LineNo) (opening : Bool) (p : Pos) (f : Code) (h : Calm s z) :
    Calm (windowJoin k opening p f s) z := by
  unfold windowJoin
  with_reducible repeat' first
    | exact h | apply emit_calm | (simp; done) | split

@[simp] theorem modRebuild_calm (f : Rebuild → Rebuild) (h : Calm s z) : Calm (modRebuild f s) z := by
  unfold modRebuild; exact h.step rfl

@[simp] theorem noteTurnedAway_calm (k : LineNo) (h : Calm s z) : Calm (noteTurnedAway k s) z := modRebuild_calm _ h

@[simp] theorem fileContributor_calm (p : Pos) (i : WireItem) (h : Calm s z) : Calm (fileContributor p i s) z := by
  unfold fileContributor
  dsimp only
  split
  · exact h
  · split
    · rename_i hl
      refine changeRule_calm _ _ (windowJoin_calm _ _ _ _ (modCircuit_calm _ _ (fun _ => ?_) id h))
      simp only [insertContributor_length]
      exact hl
    · split
      · exact noteTurnedAway_calm _ h
      · exact noteTurnedAway_calm _ (changeRule_calm _ _ (modCircuit_calm _ _ id id h))

@[simp] theorem makeRebuildPending_calm (k : LineNo) (h : Calm s z) : Calm (makeRebuildPending k s) z := by
  unfold makeRebuildPending
  with_reducible repeat' first
    | exact h | apply modCircuit_calm | (simp; done) | split

@[simp] theorem rebuildOnEntry_calm (h : Calm s z) : Calm (rebuildOnEntry s) z := by
  unfold rebuildOnEntry
  with_reducible repeat' first
    | exact h | apply emit_calm | apply makeRebuildPending_calm | refine foldl_calm (fun _ _ => ?_) _ ?_
    | exact Calm.refl _ | (simp; done)

@[simp] theorem setRebuild_calm (r : Option Rebuild) (h : Calm s z) : Calm (setRebuild r s) z := by
  unfold setRebuild; exact h.step rfl

@[simp] theorem startRebuild_calm (h : Calm s z) : Calm (startRebuild s) z := by
  unfold startRebuild
  with_reducible repeat' first
    | exact h | apply emit_calm | apply setRebuild_calm | apply modCircuit_calm | (simp; done) | split

@[simp] theorem endRebuild_calm (r : Rebuild) (h : Calm s z) : Calm (endRebuild r s) z := by
  unfold endRebuild
  with_reducible repeat' first
    | exact h | apply setRebuild_calm | apply emit_calm | apply changeRule_calm | apply modCircuit_calm | dsimp only
    | (simp; done) | split

@[simp] theorem rebuildRows_calm (k : LineNo) (p : Pos) (g : Group) (b : BlockNo) (h : Calm s z) :
    Calm (rebuildRows k p g b s) z := by
  unfold rebuildRows
  refine foldl_calm (fun a m => ?_) _ h
  split
  · split
    · exact fileContributor_calm _ _ (Calm.refl _)
    · exact Calm.refl _
  · exact Calm.refl _

@[simp] theorem rebuildOnward_calm (h : Calm s z) : Calm (rebuildOnward s) z :=
  emit_calm _ (by simp) (modRebuild_calm _ h)

@[simp] theorem rebuildStep_calm (h : Calm s z) : Calm (rebuildStep s) z := by
  unfold rebuildStep
  with_reducible repeat' first
    | exact h | apply lookupGroup_calm | apply rebuildRows_calm | apply rebuildOnward_calm | apply modRebuild_calm
    | apply endRebuild_calm | dsimp only | (simp; done) | split
    | (rename_i e; have e' := snd_eq e; subst e'; clear e) | (rename_i e; clear e)

@[simp] theorem queueRequest_calm (t : Target) (who : Option Pos) (h : Calm s z) : Calm (queueRequest t who s).2 z := by
  unfold queueRequest
  dsimp only
  split
  · exact setExQueue_calm _ (fun hq => by simpa using hq) h
  · split
    · rename_i hl
      have hc : Calm (setExQueue (s.check.queue ++ [{ target := t, requesters := joinSet who (Tab.fill false) }]) s) z :=
        setExQueue_calm _ (fun _ => by simpa [Config.queueCapacity] using hl) h
      dsimp only
      split
      · exact emit_calm _ (by simp) hc
      · exact hc
    · exact h

@[simp] theorem changeRequest_calm (k : LineNo) (h : Calm s z) : Calm (changeRequest k s) z := by
  unfold changeRequest
  with_reducible repeat' first
    | exact h | apply queueRequest_calm | apply modCircuit_calm | (simp; done) | split
    | (rename_i e; have e' := snd_eq e; subst e'; clear e) | (rename_i e; clear e)

@[simp] theorem queueLeft_calm (h : Calm s z) : Calm (queueLeft s) z := by
  unfold queueLeft
  with_reducible repeat' first
    | exact h | apply emitAll_calm | apply queueRequest_calm | apply modCircuit_calm
    | refine foldl_calm (fun _ _ => ?_) _ ?_ | exact Calm.refl _ | (simp; done) | split

@[simp] theorem withdrawReading_calm (p : Pos) (src : CheckSource) (h : Calm s z) : Calm (withdrawReading p src s) z := by
  unfold withdrawReading
  with_reducible repeat' first
    | exact h | apply withdrawWhere_calm | split

@[simp] theorem finishCheck_calm (p : Pos) (src : CheckSource) (h : Calm s z) : Calm (finishCheck p src s) z := by
  unfold finishCheck
  with_reducible repeat' first
    | exact h | apply emitAll_calm | apply withdrawReading_calm | apply setNodeCheck_calm | (simp; done)

@[simp] theorem startCheck_calm (p : Pos) (src : CheckSource) (f : Code) (h : Calm s z) :
    Calm (startCheck p src f s) z := by
  unfold startCheck
  with_reducible repeat' first
    | exact h | apply emit_calm | apply setNodeCheck_calm | (simp; done)

@[simp] theorem nodeLampLookup_calm (p : Pos) (src : CheckSource) (h : Calm s z) : Calm (nodeLampLookup p src s) z := by
  unfold nodeLampLookup
  with_reducible repeat' first
    | exact h | apply lookupGroup_calm | apply setNodeCheck_calm | apply finishCheck_calm | apply emit_calm
    | (simp; done) | split | (rename_i e; have e' := snd_eq e; subst e'; clear e) | (rename_i e; clear e)

@[simp] theorem deliveredToCheck_calm (p : Pos) (f : Code) (src : CheckSource) (h : Calm s z) :
    Calm (deliveredToCheck p f src s) z := by
  unfold deliveredToCheck
  with_reducible repeat' first
    | exact h | apply setNodeCheck_calm | apply emit_calm | apply withdrawReading_calm | (simp; done) | split

@[simp] theorem startReading_calm (p : Pos) (src : CheckSource) (h : Calm s z) : Calm (startReading p src s) z := by
  unfold startReading
  with_reducible repeat' first
    | exact h | apply emit_calm | apply setNodeCheck_calm | (simp; done) | split

@[simp] theorem nodeLampOffer_calm (p : Pos) (h : Calm s z) : Calm (nodeLampOffer p s) z := by
  unfold nodeLampOffer
  dsimp only
  with_reducible repeat' first
    | exact h | apply emit_calm | apply makeOffer_calm | (simp; done) | split

@[simp] theorem countReading_calm (p : Pos) (src : CheckSource) (c2 : NodeLampCheck) (m : Nat) (h : Calm s z) :
    Calm (countReading p src c2 m s) z := by
  unfold countReading
  dsimp only
  split
  · exact finishCheck_calm _ _ (emit_calm _ (by simp) h)
  · exact setNodeCheck_calm _ _ _ h

@[simp] theorem readingEnd_calm (p : Pos) (src : CheckSource) (f : Code) (step : ReadingStep) (out : LineOutcome)
    (data : Option Word) (h : Calm s z) : Calm (readingEnd p src f step out data s) z := by
  unfold readingEnd
  with_reducible repeat' first
    | exact h | apply emit_calm | apply nodeLampOffer_calm | apply setNodeCheck_calm | apply countReading_calm
    | apply finishCheck_calm | apply recordFault_calm | (simp; done) | split

@[simp] theorem expireCheck_calm (p : Pos) (src : CheckSource) (h : Calm s z) : Calm (expireCheck p src s) z := by
  unfold expireCheck
  with_reducible repeat' first
    | exact h | apply finishCheck_calm | apply emit_calm | (simp; done) | split

@[simp] theorem nodeLampEnded_calm (p : Pos) (src : CheckSource) (h : Calm s z) : Calm (nodeLampEnded p src s) z := by
  unfold nodeLampEnded
  have ht : ∀ t, Calm t z → Calm
      (if (t.check.oppChecks.get p).isSome || !inService t p then t
       else
         match nextPending t p (t.check.oppPending.get p) with
         | some (f, fs) => startCheck p .opportunistic f (setPending p fs t)
         | none => setPending p [] t) z := by
    intro t h
    split
    · exact h
    · split
      · rename_i hn
        exact startCheck_calm _ _ _ (setPending_calm _ _ (le_trans (nextPending_length _ _ _ hn)) h)
      · exact setPending_calm _ _ (fun _ => Nat.zero_le _) h
  refine ht _ ?_
  split
  · split
    · split
      · exact emit_calm _ (by simp) h
      · exact h
    · exact h
  · exact h

@[simp] theorem askOpportunistic_calm (p : Pos) (f : Code) (h : Calm s z) : Calm (askOpportunistic p f s) z := by
  unfold askOpportunistic
  split
  · split
    · exact startCheck_calm _ _ _ h
    · dsimp only
      split
      · exact h
      · rename_i hl
        simp only [Bool.or_eq_true, decide_eq_true_eq, not_or, not_le] at hl
        exact setPending_calm _ _ (fun _ => by simp only [List.length_append]; exact hl.2) h
  · exact h

@[simp] theorem dropChecks_calm (p : Pos) (h : Calm s z) : Calm (dropChecks p s) z := by
  have hc : Calm (setPending p [] (setNodeCheck p .opportunistic none (withdrawReading p .opportunistic
      (setNodeCheck p .slot none (withdrawReading p .slot s))))) z :=
    setPending_calm _ _ (fun _ => Nat.zero_le _) (setNodeCheck_calm _ _ _ (withdrawReading_calm _ _
      (setNodeCheck_calm _ _ _ (withdrawReading_calm _ _ h))))
  unfold dropChecks
  dsimp only
  split
  · exact emit_calm _ (by simp) hc
  · exact hc

@[simp] theorem setSlot_calm (x : Option Slot) (h : Calm s z) : Calm (setSlot x s) z := by
  unfold setSlot; exact h.step rfl

@[simp] theorem closeWindow_calm (t : Target) (h : Calm s z) : Calm (closeWindow t s) z := by
  unfold closeWindow
  refine emit_calm _ (by simp) ?_
  split
  · exact closeLineWindow_calm _ h
  · exact h

@[simp] theorem endSlot_calm (h : Calm s z) : Calm (endSlot s) z := by
  unfold endSlot
  split
  · exact h
  · dsimp only
    rename_i sl _
    have hc : Calm (match sl.entry.target with
        | .lamp p _ => emit (.nodeLampOffer p) (setNodeCheck p .slot none (withdrawReading p .slot (setSlot none s)))
        | .circuit _ => setSlot none s) z := by
      split
      · exact emit_calm _ (by simp) (setNodeCheck_calm _ _ _ (withdrawReading_calm _ _ (setSlot_calm _ h)))
      · exact setSlot_calm _ h
    refine emit_calm _ (by simp) ?_
    split
    · exact closeWindow_calm _ hc
    · exact hc

@[simp] theorem slotEnded_calm (t : Target) (h : Calm s z) : Calm (slotEnded t s) z := by
  unfold slotEnded
  with_reducible repeat' first
    | exact h | apply endSlot_calm | split

@[simp] theorem windowToDriven_calm (h : Calm s z) : Calm (windowToDriven s) z := by
  unfold windowToDriven
  with_reducible repeat' first
    | exact h | apply closeWindow_calm | apply setSlot_calm | split

@[simp] theorem takeEntry_calm (e : QueueEntry) (h : Calm s z) : Calm (takeEntry e s) z := by
  unfold takeEntry
  with_reducible repeat' first
    | exact h | apply modCircuit_calm | apply setSlot_calm | apply emit_calm | apply openLineWindow_calm
    | apply emitAll_calm | apply startCheck_calm | dsimp only | (simp; done) | split

@[simp] theorem slotTest_calm (h : Calm s z) : Calm (slotTest s) z := by
  unfold slotTest
  split
  · split
    · rename_i e es he
      exact emit_calm _ (by simp) (takeEntry_calm _ (setExQueue_calm _ (fun hq => by rw [he] at hq; simp at hq; omega) h))
    · exact h
  · exact h

@[simp] theorem expireSlot_calm (h : Calm s z) : Calm (expireSlot s) z := by
  unfold expireSlot
  with_reducible repeat' first
    | exact h | apply emit_calm | apply slotEnded_calm | apply reportOutcome_calm | apply emitAll_calm
    | apply expireCheck_calm | (simp; done) | split

@[simp] theorem motionToSlot_calm (h : Calm s z) : Calm (motionToSlot s) z := by
  unfold motionToSlot
  with_reducible repeat' first
    | exact h | apply slotTest_calm | apply emit_calm | apply slotEnded_calm | apply emitAll_calm | (simp; done)
    | split

@[simp] theorem suspendChecks_calm (h : Calm s z) : Calm (suspendChecks s) z := by
  unfold suspendChecks
  refine emit_calm _ (by simp) (setRebuild_calm _ (endSlot_calm (emitAll_calm _ (by simp)
    (setExQueue_calm _ (fun _ => Nat.zero_le _) ?_))))
  exact foldl_calm (fun s k => modCircuit_calm _ _ id (fun _ => Nat.zero_le _) (Calm.refl s)) _ h

@[simp] theorem windowLeave_calm (p : Pos) (k : LineNo) (h : Calm s z) : Calm (windowLeave p k s) z :=
  foldl_calm (fun s c => windowJoin_calm _ _ _ _ (Calm.refl s)) _ h

@[simp] theorem removeFromCircuit_calm (p : Pos) (k : LineNo) (h : Calm s z) : Calm (removeFromCircuit p k s) z := by
  unfold removeFromCircuit
  split
  · exact makeRebuildPending_calm _ (changeRule_calm _ _ (modCircuit_calm _ _
      (fun hl => le_trans (List.length_filter_le _ _) hl) id (windowLeave_calm _ _ h)))
  · exact h

@[simp] theorem removeFromSlot_calm (p : Pos) (h : Calm s z) : Calm (removeFromSlot p s) z := by
  unfold removeFromSlot
  with_reducible repeat' first
    | exact h | apply setSlot_calm | apply endSlot_calm | split

@[simp] theorem removeEntries_calm (p : Pos) (h : Calm s z) : Calm (removeEntries p s) z :=
  emitAll_calm _ (by simp) (setExQueue_calm _ (fun hq => le_trans (List.length_filterMap_le _ _) hq) h)

@[simp] theorem removePosition_calm (p : Pos) (h : Calm s z) : Calm (removePosition p s) z :=
  emitAll_calm _ (by simp) (foldl_calm (fun s k => removeFromCircuit_calm _ _ (Calm.refl s)) _ h)

@[simp] theorem recheck_calm (t : Target) (who : Option Pos) (h : Calm s z) : Calm (recheck t who s).2 z := by
  unfold recheck
  with_reducible repeat' first
    | exact h | apply queueRequest_calm | dsimp only | split | (rename_i e; have e' := snd_eq e; subst e'; clear e)
    | (rename_i e; clear e)

end Sys2Proof.Machine
end

