-- ==== Sys2Proof/Laws/CalmDelivery.lean ====
section
/-! SUPPORT. The Delivery Unit's operations are calm. -/

namespace Sys2Proof.Machine

variable {s z : State}

@[simp] theorem modDelivery_calm (f : Delivery → Delivery) (h : Calm s z) : Calm (modDelivery f s) z := by
  unfold modDelivery; exact h.step rfl

@[simp] theorem setResult_calm (p : Pos) (f : Code) (r : CheckResult) (h : Calm s z) : Calm (setResult p f r s) z :=
  modEntry_calm _ _ _ h

@[simp] theorem writeResult_calm (p : Pos) (f : Code) (r : CheckResult) (h : Calm s z) :
    Calm (writeResult p f r s) z := by
  unfold writeResult
  with_reducible repeat' first
    | exact h | apply emitAll_calm | apply setResult_calm | (simp; done) | split

@[simp] theorem deferUnchecked_calm (p : Pos) (f : Code) (h : Calm s z) : Calm (deferUnchecked p f s) z := by
  unfold deferUnchecked
  with_reducible repeat' first
    | exact h | apply writeResult_calm | split

@[simp] theorem withdrawWatch_calm (p : Pos) (f : Code) (h : Calm s z) : Calm (withdrawWatch p f s) z :=
  withdrawWhere_calm _ h

@[simp] theorem endWatch_calm (p : Pos) (f : Code) (h : Calm s z) : Calm (endWatch p f s) z := by
  unfold endWatch
  with_reducible repeat' first
    | exact h | apply withdrawWatch_calm | apply modEntry_calm | split

@[simp] theorem startWatch_calm (p : Pos) (f : Code) (interval : Nat) (h : Calm s z) :
    Calm (startWatch p f interval s) z := by
  unfold startWatch; apply modEntry_calm; exact withdrawWatch_calm p f h

@[simp] theorem endTimeoutHold_calm (p : Pos) (f : Code) (h : Calm s z) : Calm (endTimeoutHold p f s) z := by
  unfold endTimeoutHold
  with_reducible repeat' first
    | exact h | apply modEntry_calm | apply emit_calm | apply writeResult_calm | dsimp only | (simp; done) | split

@[simp] theorem markNotFitted_calm (p : Pos) (f : Code) (h : Calm s z) : Calm (markNotFitted p f s) z := by
  unfold markNotFitted
  with_reducible repeat' first
    | exact h | apply withdrawWhere_calm | apply modEntry_calm | split

@[simp] theorem leaveSchedule_calm (p : Pos) (f : Code) (h : Calm s z) : Calm (leaveSchedule p f s) z := by
  unfold leaveSchedule
  with_reducible repeat' first
    | exact h | apply modEntry_calm | split

@[simp] theorem pointUnknown_calm (p : Pos) (f : Code) (k : Option AccessKind) (point : Nat) (h : Calm s z) :
    Calm (pointUnknown p f k point s) z := by
  unfold pointUnknown
  with_reducible repeat' first
    | exact h | apply markNotFitted_calm | apply recordFault_calm | split

@[simp] theorem setPendingOverride_calm (o : Option PendingOverride) (h : Calm s z) :
    Calm (setPendingOverride o s) z := by
  unfold setPendingOverride; apply modDelivery_calm; exact h

@[simp] theorem setPendingRead_calm (r : Option PendingRead) (h : Calm s z) : Calm (setPendingRead r s) z := by
  unfold setPendingRead; apply modDelivery_calm; exact h

@[simp] theorem replyOverride_calm (f : PendingOverride → Bool) (r : ResultCode) (h : Calm s z) :
    Calm (replyOverride f r s) z := by
  unfold replyOverride
  with_reducible repeat' first
    | exact h | apply answer_calm | apply setPendingOverride_calm | split

@[simp] theorem replyRead_calm (f : PendingRead → Bool) (r : ResultCode) (bytes : List Byte) (h : Calm s z) :
    Calm (replyRead f r bytes s) z := by
  unfold replyRead
  with_reducible repeat' first
    | exact h | apply answer_calm | apply setPendingRead_calm | split

@[simp] theorem targetChanged_calm (p : Pos) (f : Code) (h : Calm s z) : Calm (targetChanged p f s) z := by
  unfold targetChanged
  with_reducible repeat' first
    | exact h | apply endWatch_calm | apply modEntry_calm | split

@[simp] theorem retarget_calm (p : Pos) (f : Code) (old : Option Nat) (h : Calm s z) : Calm (retarget p f old s) z := by
  unfold retarget
  with_reducible repeat' first
    | exact h | apply targetChanged_calm | split

@[simp] theorem rescan_calm (p : Pos) (h : Calm s z) : Calm (rescan p s) z := by
  unfold rescan
  with_reducible repeat' first
    | exact h | apply emitAll_calm | exact holdNotices_not_free _ | (simp [holdNotices]; done) | split

@[simp] theorem dropOverride_calm (p : Pos) (f : Code) (h : Calm s z) : Calm (dropOverride p f s) z := by
  unfold dropOverride
  with_reducible repeat' first
    | exact h | apply emit_calm | apply replyOverride_calm | apply modEntry_calm | (simp; done) | split

@[simp] theorem changeAt_calm (f : Code) (old : Nat) (p : Pos) (h : Calm s z) : Calm (changeAt f old s p) z := by
  unfold changeAt
  with_reducible repeat' first
    | exact h | apply rescan_calm | apply endTimeoutHold_calm | apply retarget_calm | apply dropOverride_calm
    | dsimp only | split

@[simp] theorem commandChanged_calm (f : Code) (old : Nat) (h : Calm s z) : Calm (commandChanged f old s) z := by
  unfold commandChanged
  with_reducible repeat' first
    | exact h | apply changeAt_calm | refine foldl_calm (fun _ _ => ?_) _ ?_ | exact Calm.refl _

@[simp] theorem removeOverride_calm (p : Pos) (f : Code) (h : Calm s z) : Calm (removeOverride p f s) z := by
  unfold removeOverride
  with_reducible repeat' first
    | exact h | apply retarget_calm | apply dropOverride_calm

@[simp] theorem clearOverrideAt_calm (p : Pos) (f : Code) (h : Calm s z) : Calm (clearOverrideAt p f s) z := by
  unfold clearOverrideAt
  with_reducible repeat' first
    | exact h | apply rescan_calm | apply endTimeoutHold_calm | apply removeOverride_calm | split

@[simp] theorem writeOverride_calm (p : Pos) (f : Code) (v : Nat) (h : Calm s z) : Calm (writeOverride p f v s) z := by
  unfold writeOverride
  with_reducible repeat' first
    | exact h | apply endTimeoutHold_calm | apply retarget_calm | apply modEntry_calm

@[simp] theorem becomeDelivered_calm (p : Pos) (f : Code) (v : Nat) (h : Calm s z) :
    Calm (becomeDelivered p f v s) z := by
  unfold becomeDelivered; apply modEntry_calm; exact h

@[simp] theorem noteOffered_calm (p : Pos) (second : Bool) (f : Code) (h : Calm s z) :
    Calm (noteOffered p second f s) z := by
  unfold noteOffered
  with_reducible repeat' first
    | exact h | apply modDelivery_calm | split

@[simp] theorem deliverOne_calm (p : Pos) (f : Code) (v : Nat) (h : Calm s z) : Calm (deliverOne p f v s).2 z := by
  unfold deliverOne
  with_reducible repeat' first
    | exact h | apply translate_calm | apply makeOffer_calm | apply noteOffered_calm | apply emit_calm
    | apply replyOverride_calm | apply becomeDelivered_calm | apply modEntry_calm | apply markNotFitted_calm
    | dsimp only | (simp; done) | split | (rename_i e; have e' := snd_eq e; subst e'; clear e)
    | (rename_i e; clear e)

@[simp] theorem scanCodes_calm (p : Pos) (second : Bool) (x0 : List Code) (h : Calm s z) :
    Calm (scanCodes p second x0 s) z := by
  induction x0 generalizing s with
  | nil => exact h
  | cons x xs ih =>
    unfold scanCodes
    with_reducible repeat' first
      | exact h | apply ih | apply deliverOne_calm | split | (rename_i e; have e' := snd_eq e; subst e'; clear e)
      | (rename_i e; clear e)

@[simp] theorem modOwed_calm (p : Pos) (g : List OwedStop → List OwedStop) (h : Calm s z) : Calm (modOwed p g s) z := by
  unfold modOwed; apply modDelivery_calm; exact h

@[simp] theorem addOwed_calm (p : Pos) (f : Code) (h : Calm s z) : Calm (addOwed p f s) z := by
  unfold addOwed
  with_reducible repeat' first
    | exact h | apply modOwed_calm | split

@[simp] theorem dropOwed_calm (p : Pos) (f : Code) (h : Calm s z) : Calm (dropOwed p f s) z := by
  unfold dropOwed; apply modOwed_calm; exact h

@[simp] theorem tryStops_calm (p : Pos) (x0 : List Code) (h : Calm s z) : Calm (tryStops p x0 s).2 z := by
  induction x0 generalizing s with
  | nil => exact h
  | cons x xs ih =>
    unfold tryStops
    with_reducible repeat' first
      | exact h | apply ih | apply translate_calm | apply makeOffer_calm | apply replyOverride_calm
      | apply markNotFitted_calm | apply dropOwed_calm | dsimp only | split
      | (rename_i e; have e' := snd_eq e; subst e'; clear e) | (rename_i e; clear e)

@[simp] theorem formOffer_calm (p : Pos) (second : Bool) (h : Calm s z) : Calm (formOffer p second s) z := by
  unfold formOffer
  with_reducible repeat' first
    | exact h | apply makeOffer_calm | apply scanCodes_calm | apply tryStops_calm | split
    | (rename_i e; have e' := snd_eq e; subst e'; clear e) | (rename_i e; clear e)

@[simp] theorem reform_calm (p : Pos) (second : Bool) (f : Code) (h : Calm s z) : Calm (reform p second f s) z := by
  unfold reform
  with_reducible repeat' first
    | exact h | apply withdraw_calm | apply deliverOne_calm | apply formOffer_calm | dsimp only | split
    | (rename_i e; have e' := snd_eq e; subst e'; clear e) | (rename_i e; clear e)

@[simp] theorem scan_calm (p : Pos) (second : Bool) (h : Calm s z) : Calm (scan p second s) z := by
  unfold scan
  with_reducible repeat' first
    | exact h | apply withdraw_calm | apply formOffer_calm | apply tryStops_calm | apply reform_calm | dsimp only
    | split | (rename_i e; have e' := snd_eq e; subst e'; clear e) | (rename_i e; clear e)

@[simp] theorem reformWhere_calm (f : Offer → Bool) (h : Calm s z) : Calm (reformWhere f s) z := by
  unfold reformWhere
  with_reducible repeat' first
    | exact h | apply reform_calm | refine foldl_calm (fun _ _ => ?_) _ ?_ | exact Calm.refl _ | split

@[simp] theorem rescanAll_calm (h : Calm s z) : Calm (rescanAll s) z := by
  unfold rescanAll
  with_reducible repeat' first
    | exact h | apply rescan_calm | refine foldl_calm (fun _ _ => ?_) _ ?_ | exact Calm.refl _

@[simp] theorem motionToDelivery_calm (h : Calm s z) : Calm (motionToDelivery s) z := by
  unfold motionToDelivery
  with_reducible repeat' first
    | exact h | apply rescanAll_calm | apply reformWhere_calm

@[simp] theorem takeWindow_calm (opening : Bool) (xs : List (Pos × Code)) (h : Calm s z) :
    Calm (takeWindow opening xs s) z := by
  unfold takeWindow
  with_reducible repeat' first
    | exact h | apply targetChanged_calm | apply replyOverride_calm | apply rescanAll_calm | apply reformWhere_calm
    | dsimp only | refine foldl_calm (fun _ _ => ?_) _ ?_ | exact Calm.refl _ | split

@[simp] theorem takePolicyWrite_calm (h : Calm s z) : Calm (takePolicyWrite s) z := by
  unfold takePolicyWrite
  with_reducible repeat' first
    | exact h | apply rescanAll_calm | apply reformWhere_calm | apply modDelivery_calm

@[simp] theorem motionToPolicy_calm (h : Calm s z) : Calm (motionToPolicy s) z := by
  unfold motionToPolicy
  with_reducible repeat' first
    | exact h | apply rescanAll_calm | apply removeOverride_calm | apply addOwed_calm
    | refine foldl_calm (fun _ _ => ?_) _ ?_ | exact Calm.refl _ | split

@[simp] theorem catchUp_calm (p : Pos) (h : Calm s z) : Calm (catchUp p s) z := by
  unfold catchUp
  with_reducible repeat' first
    | exact h | apply emitAll_calm | apply modDelivery_calm | exact holdNotices_not_free _
    | (simp [holdNotices]; done) | split

@[simp] theorem writeData_calm (p : Pos) (f : Code) (w : Word) (h : Calm s z) : Calm (writeData p f w s) z := by
  unfold writeData
  with_reducible repeat' first
    | exact h | apply modEntry_calm | apply emit_calm | dsimp only | (simp; done) | split

@[simp] theorem writeReading_calm (p : Pos) (f : Code) (w : Word) (h : Calm s z) : Calm (writeReading p f w s) z := by
  unfold writeReading
  with_reducible repeat' first
    | exact h | apply modEntry_calm | apply writeData_calm | split

@[simp] theorem runningReads_calm (p : Pos) (h : Calm s z) : Calm (runningReads p s) z := by
  unfold runningReads
  with_reducible repeat' first
    | exact h | apply emit_calm | apply modDelivery_calm | dsimp only | (simp; done) | split

@[simp] theorem tryReads_calm (p : Pos) (x0 : List (Code × (Bool × Time))) (h : Calm s z) : Calm (tryReads p x0 s) z := by
  induction x0 generalizing s with
  | nil => exact h
  | cons x xs ih =>
    unfold tryReads
    with_reducible repeat' first
      | exact h | apply ih | apply translate_calm | apply makeOffer_calm | apply leaveSchedule_calm
      | apply markNotFitted_calm | apply modEntry_calm | split | (rename_i e; have e' := snd_eq e; subst e'; clear e) | (rename_i e; clear e)

@[simp] theorem classSix_calm (p : Pos) (h : Calm s z) : Calm (classSix p s) z := by
  unfold classSix
  with_reducible repeat' first
    | exact h | apply withdraw_calm | apply tryReads_calm | split

@[simp] theorem deliveryEnd_calm (p : Pos) (f : Code) (v : Nat) (k : AccessKind) (interval : Nat) (point : Nat)
    (out : LineOutcome) (h : Calm s z) : Calm (deliveryEnd p f v k interval point out s) z := by
  unfold deliveryEnd
  with_reducible repeat' first
    | exact h | apply modEntry_calm | apply becomeDelivered_calm | apply startWatch_calm | apply endWatch_calm
    | apply emitAll_calm | apply replyOverride_calm | apply pointUnknown_calm | dsimp only
    | exact holdNotices_not_free _ | (simp [holdNotices]; done) | split

@[simp] theorem stopEnd_calm (p : Pos) (f : Code) (point : Nat) (out : LineOutcome) (h : Calm s z) :
    Calm (stopEnd p f point out s) z := by
  unfold stopEnd
  with_reducible repeat' first
    | exact h | apply emitAll_calm | apply replyOverride_calm | apply modDelivery_calm | apply endWatch_calm
    | apply modEntry_calm | apply dropOwed_calm | apply modOwed_calm | apply pointUnknown_calm
    | exact holdNotices_not_free _ | (simp [holdNotices]; done) | split

@[simp] theorem managementReadEnd_calm (p : Pos) (f : Code) (point : Nat) (out : LineOutcome) (data : Option Word)
    (h : Calm s z) : Calm (managementReadEnd p f point out data s) z := by
  unfold managementReadEnd
  with_reducible repeat' first
    | exact h | apply emit_calm | apply scan_calm | apply emitAll_calm | apply writeReading_calm
    | apply replyRead_calm | apply pointUnknown_calm | dsimp only | exact holdNotices_not_free _
    | (simp [holdNotices]; done) | split

@[simp] theorem periodicEnd_calm (p : Pos) (f : Code) (interval : Nat) (point : Nat) (out : LineOutcome)
    (data : Option Word) (h : Calm s z) : Calm (periodicEnd p f interval point out data s) z := by
  unfold periodicEnd
  with_reducible repeat' first
    | exact h | apply modEntry_calm | apply emit_calm | apply classSix_calm | apply writeResult_calm
    | apply writeReading_calm | apply leaveSchedule_calm | apply pointUnknown_calm | dsimp only | (simp; done) | split

@[simp] theorem watchReadEnd_calm (p : Pos) (f : Code) (point : Nat) (out : LineOutcome) (data : Option Word)
    (h : Calm s z) : Calm (watchReadEnd p f point out data s) z := by
  unfold watchReadEnd
  with_reducible repeat' first
    | exact h | apply emit_calm | apply emitAll_calm | exact holdNotices_not_free _ | apply writeReading_calm | apply writeResult_calm
    | apply endWatch_calm | apply modEntry_calm | apply pointUnknown_calm | dsimp only | (simp; done) | split

@[simp] theorem accessFailed_calm (w : Waiter) (h : Calm s z) : Calm (accessFailed w s) z := by
  unfold accessFailed
  with_reducible repeat' first
    | exact h | apply rescan_calm | apply replyOverride_calm | apply leaveSchedule_calm | apply markNotFitted_calm
    | apply dropOwed_calm | apply replyRead_calm | split

@[simp] theorem tryRead_calm (p : Pos) (f : Code) (h : Calm s z) : Calm (tryRead p f s) z := by
  unfold tryRead
  with_reducible repeat' first
    | exact h | apply translate_calm | apply emit_calm | apply scan_calm | apply holdHead_calm
    | apply setPendingRead_calm | apply answer_calm | (simp; done) | split
    | (rename_i e; have e' := snd_eq e; subst e'; clear e) | (rename_i e; clear e)

@[simp] theorem accessLoaded_calm (w : Waiter) (h : Calm s z) : Calm (accessLoaded w s) z := by
  unfold accessLoaded
  with_reducible repeat' first
    | exact h | apply rescan_calm | apply tryRead_calm | split

@[simp] theorem leaveService_calm (p : Pos) (h : Calm s z) : Calm (leaveService p s) z := by
  unfold leaveService
  with_reducible repeat' first
    | exact h | apply withdrawWhere_calm | apply modDelivery_calm | apply replyRead_calm | apply replyOverride_calm
    | dsimp only | split

@[simp] theorem resetDelivery_calm (p : Pos) (h : Calm s z) : Calm (resetDelivery p s) z := by
  unfold resetDelivery
  with_reducible repeat' first
    | exact h | apply modDelivery_calm | apply leaveService_calm

@[simp] theorem clearActivityOf_calm (p : Pos) (h : Calm s z) : Calm (clearActivityOf p s) z := by
  unfold clearActivityOf; apply modDelivery_calm; exact h

@[simp] theorem timeoutStop_calm (p : Pos) (f : Code) (h : Calm s z) : Calm (timeoutStop p f s) z := by
  unfold timeoutStop
  with_reducible repeat' first
    | exact h | apply emitAll_calm | apply modEntry_calm | apply addOwed_calm | exact holdNotices_not_free _
    | (simp [holdNotices]; done)

@[simp] theorem watchTimesOut_calm (p : Pos) (f : Code) (h : Calm s z) : Calm (watchTimesOut p f s) z := by
  unfold watchTimesOut
  with_reducible repeat' first
    | exact h | apply emitAll_calm | apply writeResult_calm | apply timeoutStop_calm | apply endWatch_calm
    | (simp; done)

end Sys2Proof.Machine
end

