-- ==== Sys2Proof/Laws/CalmBringup.lean ====
section
/-! SUPPORT. The Consist Controller's operations up to RUNNING are calm. -/

namespace Sys2Proof.Machine

variable {s z : State}

/-- A change of the Consist Controller that leaves its coupling sense and chain probe alone is calm. -/
theorem modConsist_calm (f : Consist → Consist) (h1 : (f s.consist).cplLevel = s.consist.cplLevel)
    (h2 : (f s.consist).cplPresent = s.consist.cplPresent) (h3 : (f s.consist).cplTimer = s.consist.cplTimer)
    (h4 : (f s.consist).probeAt = s.consist.probeAt) (h : Calm s z) : Calm (modConsist f s) z :=
  h.step (by simp [view, modConsist, h1, h2, h3, h4])

@[simp] theorem ccOffer_calm (p : Pos) (o : Offer) (h : Calm s z) : Calm (ccOffer p o s) z := by
  unfold ccOffer
  with_reducible repeat' first
    | exact h | apply makeOffer_calm | split

@[simp] theorem ccWithdraw_calm (p : Pos) (h : Calm s z) : Calm (ccWithdraw p s) z := by
  unfold ccWithdraw; apply withdraw_calm; exact h

@[simp] theorem sweepComplete_calm (h : Calm s z) : Calm (sweepComplete s) z := by
  have hc : Calm (modConsist (fun c => { c with sweep := none, sweepTrigger := false }) s) z :=
    modConsist_calm _ rfl rfl rfl rfl h
  unfold sweepComplete
  dsimp only
  split
  · exact emit_calm _ (by simp) hc
  · exact hc

@[simp] theorem sweepEnd_calm (p : Pos) (h : Calm s z) : Calm (sweepEnd p s) z := by
  unfold sweepEnd
  split
  · split
    · exact makeOffer_calm _ (modConsist_calm _ rfl rfl rfl rfl h)
    · exact sweepComplete_calm h
  · exact h

@[simp] theorem startPass_calm (h : Calm s z) : Calm (startPass s) z := by
  unfold startPass
  with_reducible repeat' first
    | exact h | apply makeOffer_calm | apply modPass_calm | split

@[simp] theorem enumTrigger_calm (h : Calm s z) : Calm (enumTrigger s) z := by
  unfold enumTrigger
  split
  · exact modRelease_calm _ h
  · split
    · exact modConsist_calm _ rfl rfl rfl rfl h
    · split
      · exact startPass_calm h
      · exact h

@[simp] theorem closePass_calm (h : Calm s z) : Calm (closePass s) z := by
  unfold closePass; apply modPass_calm; exact h

@[simp] theorem endPass_calm (h : Calm s z) : Calm (endPass s) z := by
  unfold endPass
  with_reducible repeat' first
    | exact h | apply closePass_calm | apply withdrawWhere_calm | apply modPass_calm | split

@[simp] theorem assignTaken_calm (n : Pos) (h : Calm s z) : Calm (assignTaken n s) z := by
  unfold assignTaken
  with_reducible repeat' first
    | exact h | apply emit_calm | apply closePass_calm | apply modPass_calm | apply makeOffer_calm | (simp; done)
    | split

@[simp] theorem assignMissed_calm (n : Pos) (heard : Bool) (h : Calm s z) : Calm (assignMissed n heard s) z := by
  unfold assignMissed
  with_reducible repeat' first
    | exact h | apply closePass_calm | apply modPass_calm | apply emit_calm | dsimp only | (simp; done) | split

@[simp] theorem assignEnd_calm (n : Pos) (out : LineOutcome) (h : Calm s z) : Calm (assignEnd n out s) z := by
  unfold assignEnd
  with_reducible repeat' first
    | exact h | apply assignTaken_calm | apply assignMissed_calm | split

@[simp] theorem spacingEnds_calm (h : Calm s z) : Calm (spacingEnds s) z := by
  unfold spacingEnds
  with_reducible repeat' first
    | exact h | apply makeOffer_calm | apply modPass_calm | split

@[simp] theorem settleEnds_calm (h : Calm s z) : Calm (settleEnds s) z := by
  unfold settleEnds
  with_reducible repeat' first
    | exact h | apply makeOffer_calm | apply modPass_calm | apply closePass_calm | split

@[simp] theorem chainEnd_calm (n : Pos) (heard : Bool) (h : Calm s z) : Calm (chainEnd n heard s) z := by
  unfold chainEnd
  with_reducible repeat' first
    | exact h | apply emit_calm | apply syncRefresh_calm | apply modRec_calm | (simp; done) | split

@[simp] theorem offerIdent_calm (p : Pos) (a : Nat) (h : Calm s z) : Calm (offerIdent p a s) z := by
  unfold offerIdent; apply ccOffer_calm; exact h

@[simp] theorem startIdent_calm (p : Pos) (h : Calm s z) : Calm (startIdent p s) z := by
  unfold startIdent
  with_reducible repeat' first
    | exact h | apply offerIdent_calm | apply modStream_calm

@[simp] theorem handOver_calm (n : Pos) (h : Calm s z) : Calm (handOver n s) z := by
  unfold handOver
  with_reducible repeat' first
    | exact h | apply startIdent_calm | apply modRec_calm | split

@[simp] theorem descriptorBad_calm (p : Pos) (a : Nat) (h : Calm s z) : Calm (descriptorBad p a s) z := by
  unfold descriptorBad; apply recordFault_calm; exact h

@[simp] theorem identFails_calm (p : Pos) (a : Nat) (v : IdentVerdict) (h : Calm s z) : Calm (identFails p a v s) z := by
  unfold identFails
  with_reducible repeat' first
    | exact h | apply emit_calm | apply descriptorBad_calm | apply modStream_calm | (simp; done)

@[simp] theorem identified_calm (p : Pos) (ws : List Word) (h : Calm s z) : Calm (identified p ws s) z := by
  unfold identified
  with_reducible repeat' first
    | exact h | apply emit_calm | apply modRec_calm | apply modStream_calm | dsimp only | (simp; done)

@[simp] theorem takeHeaderWord_calm (p : Pos) (a : Nat) (w : Word) (h : Calm s z) : Calm (takeHeaderWord p a w s) z := by
  unfold takeHeaderWord
  with_reducible repeat' first
    | exact h | apply identFails_calm | apply identified_calm | apply offerIdent_calm | apply modStream_calm
    | dsimp only | split

@[simp] theorem identEnd_calm (p : Pos) (a : Nat) (out : LineOutcome) (data : Option Word) (h : Calm s z) :
    Calm (identEnd p a out data s) z := by
  unfold identEnd
  with_reducible repeat' first
    | exact h | apply takeHeaderWord_calm | apply offerIdent_calm | apply identFails_calm | split

@[simp] theorem abandonReads_calm (p : Pos) (h : Calm s z) : Calm (abandonReads p s) z := by
  unfold abandonReads
  with_reducible repeat' first
    | exact h | apply ccWithdraw_calm | apply modStream_calm | dsimp only | split

@[simp] theorem setMismatch_calm (p : Pos) (v : Bool) (h : Calm s z) : Calm (setMismatch p v s) z :=
  h.step rfl

@[simp] theorem offerStream_calm (p : Pos) (a : Nat) (h : Calm s z) : Calm (offerStream p a s) z := by
  unfold offerStream; apply ccOffer_calm; exact h

@[simp] theorem startCold_calm (p : Pos) (h : Calm s z) : Calm (startCold p s) z := by
  unfold startCold
  with_reducible repeat' first
    | exact h | apply offerStream_calm | apply modStream_calm | split

@[simp] theorem describeDone_calm (p : Pos) (h : Calm s z) : Calm (describeDone p s) z := by
  unfold describeDone
  with_reducible repeat' first
    | exact h | apply emitAll_calm | apply modStream_calm | apply modRec_calm | dsimp only | (simp; done)

@[simp] theorem startWarm_calm (p : Pos) (d : Directory) (h : Calm s z) : Calm (startWarm p d s) z := by
  unfold startWarm
  with_reducible repeat' first
    | exact h | apply modStream_calm | apply offerStream_calm | apply describeDone_calm | dsimp only | split

@[simp] theorem enterDescribing_calm (p : Pos) (h : Calm s z) : Calm (enterDescribing p s) z := by
  unfold enterDescribing
  with_reducible repeat' first
    | exact h | apply modRec_calm | apply startWarm_calm | apply startCold_calm | apply setMismatch_calm
    | dsimp only | split | (rename_i e; have e' := snd_eq e; subst e'; clear e) | (rename_i e; clear e)

@[simp] theorem reject_calm (p : Pos) (h : Calm s z) : Calm (reject p s) z := by
  unfold reject
  with_reducible repeat' first
    | exact h | apply modRec_calm | apply modStream_calm

@[simp] theorem streamFails_calm (p : Pos) (a : Nat) (h : Calm s z) : Calm (streamFails p a s) z := by
  unfold streamFails
  with_reducible repeat' first
    | exact h | apply reject_calm | apply descriptorBad_calm

@[simp] theorem coldEnds_calm (p : Pos) (h : Calm s z) : Calm (coldEnds p s) z := by
  unfold coldEnds
  with_reducible repeat' first
    | exact h | apply describeDone_calm | apply reject_calm | apply recordFault_calm | dsimp only | split

@[simp] theorem takeColdWord_calm (p : Pos) (h2 : Tab Word 8) (a : Nat) (w : Word) (h : Calm s z) :
    Calm (takeColdWord p h2 a w s) z := by
  unfold takeColdWord
  with_reducible repeat' first
    | exact h | apply streamFails_calm | apply modStream_calm | apply offerStream_calm | apply coldEnds_calm | split

@[simp] theorem takeWarmWord_calm (p : Pos) (a : Nat) (w : Word) (h : Calm s z) : Calm (takeWarmWord p a w s) z := by
  unfold takeWarmWord
  with_reducible repeat' first
    | exact h | apply offerStream_calm | apply modStream_calm | apply describeDone_calm | dsimp only | split

@[simp] theorem streamEnd_calm (p : Pos) (a : Nat) (out : LineOutcome) (data : Option Word) (h : Calm s z) :
    Calm (streamEnd p a out data s) z := by
  unfold streamEnd
  with_reducible repeat' first
    | exact h | apply takeWarmWord_calm | apply takeColdWord_calm | apply offerStream_calm | apply streamFails_calm
    | dsimp only | split

@[simp] theorem enterExercising_calm (p : Pos) (h : Calm s z) : Calm (enterExercising p s) z := by
  unfold enterExercising
  with_reducible repeat' first
    | exact h | apply emitAll_calm | apply catchUp_calm | apply syncRefresh_calm | apply modStream_calm
    | apply modRec_calm | (simp; done)

@[simp] theorem buildPlan_calm (p : Pos) (h : Calm s z) : Calm (buildPlan p s) z := by
  unfold buildPlan; apply modRec_calm; exact h

@[simp] theorem exitTest_calm (p : Pos) (h : Calm s z) : Calm (exitTest p s) z := by
  unfold exitTest
  with_reducible repeat' first
    | exact h | apply emit_calm | (simp; done) | split

@[simp] theorem deferLamps_calm (p : Pos) (h : Calm s z) : Calm (deferLamps p s) z := by
  unfold deferLamps
  with_reducible repeat' first
    | exact h | apply emitAll_calm | apply deferUnchecked_calm | apply exitTest_calm | apply modRec_calm
    | (simp; done)

@[simp] theorem entryLamps_calm (p : Pos) (h : Calm s z) : Calm (entryLamps p s) z := by
  unfold entryLamps
  with_reducible repeat' first
    | exact h | apply emit_calm | apply deferLamps_calm | (simp; done) | split

@[simp] theorem handItems_calm (p : Pos) (h : Calm s z) : Calm (handItems p s) z := by
  unfold handItems
  with_reducible repeat' first
    | exact h | apply queueRequest_calm | apply emitAll_calm | apply exitTest_calm | apply modRec_calm
    | (simp; done) | split | (rename_i e; have e' := snd_eq e; subst e'; clear e) | (rename_i e; clear e)

@[simp] theorem lookupGroups_calm (p : Pos) (h : Calm s z) : Calm (lookupGroups p s) z := by
  unfold lookupGroups
  with_reducible repeat' first
    | exact h | apply lookupGroup_calm | apply emitAll_calm | apply exitTest_calm | apply modRec_calm | dsimp only
    | (simp; done) | split | (rename_i e; have e' := snd_eq e; subst e'; clear e) | (rename_i e; clear e)

@[simp] theorem consistOffer_calm (p : Pos) (h : Calm s z) : Calm (consistOffer p s) z := by
  unfold consistOffer
  with_reducible repeat' first
    | exact h | apply ccOffer_calm | split

@[simp] theorem modFirstRead_calm (p : Pos) (f : Code) (g : FirstRead → FirstRead) (h : Calm s z) :
    Calm (modFirstRead p f g s) z := by
  unfold modFirstRead
  with_reducible repeat' first
    | exact h | apply modRec_calm | split

@[simp] theorem firstReadDone_calm (p : Pos) (f : Code) (res : CheckResult) (h : Calm s z) :
    Calm (firstReadDone p f res s) z := by
  unfold firstReadDone
  with_reducible repeat' first
    | exact h | apply emitAll_calm | apply writeResult_calm | apply exitTest_calm | apply consistOffer_calm
    | apply modRec_calm | (simp; done)

@[simp] theorem firstReadData_calm (p : Pos) (f : Code) (w : Word) (h : Calm s z) : Calm (firstReadData p f w s) z := by
  unfold firstReadData
  with_reducible repeat' first
    | exact h | apply modEntry_calm | split

@[simp] theorem firstReadEnd_calm (p : Pos) (f : Code) (point : Nat) (out : LineOutcome) (data : Option Word)
    (h : Calm s z) : Calm (firstReadEnd p f point out data s) z := by
  unfold firstReadEnd
  with_reducible repeat' first
    | exact h | apply firstReadDone_calm | apply modEntry_calm | apply firstReadData_calm | apply emit_calm
    | apply consistOffer_calm | apply modFirstRead_calm | apply recordFault_calm | apply pointUnknown_calm
    | dsimp only | (simp; done) | split

@[simp] theorem motionToConsist_calm (h : Calm s z) : Calm (motionToConsist s) z := by
  unfold motionToConsist
  with_reducible repeat' first
    | exact h | apply deferLamps_calm | refine foldl_calm (fun _ _ => ?_) _ ?_ | exact Calm.refl _ | split

@[simp] theorem enterRunning_calm (p : Pos) (h : Calm s z) : Calm (enterRunning p s) z := by
  unfold enterRunning withdrawExercise
  with_reducible repeat' first
    | exact h | apply emitAll_calm | apply withdrawWhere_calm | apply modRec_calm | (simp; done) | split

@[simp] theorem deadlineWrite_calm (p : Pos) (f : Code) (r : CheckResult) (h : Calm s z) :
    Calm (deadlineWrite p f r s) z := by
  unfold deadlineWrite
  with_reducible repeat' first
    | exact h | apply emit_calm | apply setResult_calm | (simp; done) | split

@[simp] theorem deadlineRead_calm (p : Pos) (x : FirstRead) (h : Calm s z) : Calm (deadlineRead p s x) z := by
  unfold deadlineRead
  with_reducible repeat' first
    | exact h | apply recordFault_calm | apply deadlineWrite_calm | split

@[simp] theorem deadlineLamp_calm (p : Pos) (f : Code) (h : Calm s z) : Calm (deadlineLamp p s f) z := by
  unfold deadlineLamp
  with_reducible repeat' first
    | exact h | apply deadlineWrite_calm | split

@[simp] theorem deadlinePasses_calm (p : Pos) (h : Calm s z) : Calm (deadlinePasses p s) z :=
  emit_calm _ (by simp) (foldl_calm (fun _ _ => deadlineRead_calm _ _ (Calm.refl _)) _
    (foldl_calm (fun _ _ => deadlineLamp_calm _ _ (Calm.refl _)) _ (withdrawWhere_calm _ (modRec_calm _ _ h))))

end Sys2Proof.Machine
end

