-- ==== Sys2Proof/Laws/CalmRelease.lean ====
section
/-! SUPPORT. Releases, line loss and recovery are calm. -/

namespace Sys2Proof.Machine

variable {s z : State}

theorem openFlight_eq {fl : Flight} (h : openFlight s = some fl) : s.line.flight = some fl := by
  unfold openFlight at h
  split at h
  · split at h
    · cases h
    · cases h; assumption
  · cases h

@[simp] theorem completeRelease_calm (h : Calm s z) : Calm (completeRelease s) z := by
  unfold completeRelease
  with_reducible repeat' first
    | exact h | apply modRelease_calm | apply answer_calm | apply emit_calm | apply enumTrigger_calm | dsimp only
    | (simp; done) | split

@[simp] theorem abandonRecovery_calm (h : Calm s z) : Calm (abandonRecovery s) z := by
  unfold abandonRecovery
  with_reducible repeat' first
    | exact h | apply modRec_calm | apply abandonReads_calm | refine foldl_calm (fun _ _ => ?_) _ ?_
    | exact Calm.refl _ | split

@[simp] theorem releaseRequest_calm (p : Pos) (h : Calm s z) : Calm (releaseRequest p s) z := by
  unfold releaseRequest
  with_reducible repeat' first
    | exact h | apply abandonRecovery_calm | apply modRelease_calm | apply emit_calm | apply completeRelease_calm
    | (simp; done) | split

@[simp] theorem releaseWalk_calm (h : Calm s z) : Calm (releaseWalk s) z := by
  unfold releaseWalk
  with_reducible repeat' first
    | exact h | apply completeRelease_calm | apply emit_calm | apply modRelease_calm | apply makeOffer_calm
    | dsimp only | (simp; done) | split

@[simp] theorem releaseEnd_calm (q : Pos) (h : Calm s z) : Calm (releaseEnd q s) z := by
  unfold releaseEnd
  with_reducible repeat' first
    | exact h | apply emit_calm | (simp; done) | split

@[simp] theorem markDiscard_calm (q : Pos) (h : Calm s z) : Calm (markDiscard q s) z := by
  unfold markDiscard
  split
  · rename_i fl hf
    split
    · refine Calm.trans ?_ h
      refine ⟨by constructor <;> intros <;> rfl, fun w => ⟨w.1, w.2, w.3, w.4, w.5, w.6, w.7, w.8⟩, fun w => ⟨w.1, w.2⟩,
        fun _ => id, fun x hx => ⟨true, ?_⟩, id, fun _ e => by simp at e⟩
      rw [openFlight_eq hf] at hx
      cases hx; rfl
    · exact h
  · exact h

@[simp] theorem resetPosition_calm (q : Pos) (h : Calm s z) : Calm (resetPosition q s) z := by
  unfold resetPosition
  with_reducible repeat' first
    | exact h | apply emitAll_calm | apply endPass_calm | apply resetBinding_calm | apply resetDelivery_calm
    | apply syncRefresh_calm | apply releaseWalk_calm | apply markDiscard_calm | apply setUnheard_calm
    | apply modRelease_calm | apply withdrawWhere_calm | apply modStream_calm | apply modRec_calm | (simp; done)

@[simp] theorem askRelease_calm (p : Pos) (h : Calm s z) : Calm (askRelease p s) z := by
  unfold askRelease
  with_reducible repeat' first
    | exact h | apply answer_calm | apply emit_calm | apply releaseRequest_calm | apply holdHead_calm
    | apply modRelease_calm | (simp; done) | split

@[simp] theorem goLost_calm (p : Pos) (h : Calm s z) : Calm (goLost p s) z := by
  unfold goLost
  with_reducible repeat' first
    | exact h | apply modRec_calm | apply emitAll_calm | apply syncRefresh_calm | apply freeFetching_calm
    | apply recordFault_calm | apply endPass_calm | apply ccWithdraw_calm | apply abandonReads_calm | dsimp only
    | (simp; done)

@[simp] theorem silence_calm (p : Pos) (h : Calm s z) : Calm (silence p s) z := by
  unfold silence
  with_reducible repeat' first
    | exact h | apply goLost_calm | apply modRec_calm | apply abandonReads_calm | split

@[simp] theorem attemptExpires_calm (p : Pos) (h : Calm s z) : Calm (attemptExpires p s) z := by
  unfold attemptExpires
  with_reducible repeat' first
    | exact h | apply modRec_calm | apply makeOffer_calm | dsimp only | split

@[simp] theorem recoveryAssignEnd_calm (p : Pos) (out : LineOutcome) (h : Calm s z) :
    Calm (recoveryAssignEnd p out s) z := by
  unfold recoveryAssignEnd
  with_reducible repeat' first
    | exact h | apply startIdent_calm | apply ccOffer_calm | apply makeOffer_calm | split

@[simp] theorem recoveryGetEnd_calm (p : Pos) (out : LineOutcome) (h : Calm s z) : Calm (recoveryGetEnd p out s) z := by
  unfold recoveryGetEnd
  with_reducible repeat' first
    | exact h | apply modRec_calm | apply startIdent_calm | split

@[simp] theorem judgeRecovery_calm (p : Pos) (v : IdentVerdict) (before : Option Identity) (h : Calm s z) :
    Calm (judgeRecovery p v before s) z := by
  unfold judgeRecovery
  with_reducible repeat' first
    | exact h | apply emit_calm | apply enterExercising_calm | apply modRec_calm | apply releaseRequest_calm
    | (simp; done) | split

@[simp] theorem identVerdict_calm (p : Pos) (v : IdentVerdict) (before : Option Identity) (h : Calm s z) :
    Calm (identVerdict p v before s) z := by
  unfold identVerdict
  with_reducible repeat' first
    | exact h | apply identified_calm | apply enterDescribing_calm | apply reject_calm | apply judgeRecovery_calm
    | split

end Sys2Proof.Machine
end

