-- ==== Sys2Proof/Laws/CalmService.lean ====
section
/-! SUPPORT. The Service Poller's and the Sequence Unit's operations are calm. -/

namespace Sys2Proof.Machine

variable {s z : State}

/-- A change of the Sequence Unit's record that keeps its bounds is calm. -/
theorem modSeq_calm (f : Sequence → Sequence) (hs : s.SequenceBounded → (modSeq f s).SequenceBounded) (h : Calm s z) :
    Calm (modSeq f s) z := by
  refine Calm.trans ?_ h
  exact ⟨by constructor <;> intros <;> rfl, fun w => ⟨w.1, w.2, w.3, w.4, w.5, w.6, w.7, w.8⟩, hs,
    fun _ => id, fun fl h => ⟨fl.discard, h⟩, id, id⟩

/-- What storing an item adds to the buffer. -/
theorem storeItem_eq (heard ready : Bool) (data : Option Word) (s : State) :
    ∃ xs : List SeqItem, xs.length ≤ 1 ∧ storeItem heard ready data s = modSeq (fun q => { q with buffer := q.buffer ++ xs }) s := by
  unfold storeItem
  split
  · exact ⟨_, by simp, rfl⟩
  · exact ⟨[], by simp, by simp [modSeq]⟩

/-- An item stored while the count is not reached keeps the bounds of a running sequence. -/
theorem storeItem_calm (heard ready : Bool) (data : Option Word) (hr : s.sequence.state = .running)
    (hf : seqFull (storeItem heard ready data s) = false) (h : Calm s z) : Calm (storeItem heard ready data s) z := by
  obtain ⟨xs, hx, he⟩ := storeItem_eq heard ready data s
  rw [he] at hf ⊢
  refine modSeq_calm _ (fun w => ?_) h
  have hw := w.running hr
  cases hc : s.sequence.count with
  | none => simp [hc] at hw
  | some n =>
    simp only [hc, Option.getD_some] at hw
    have hn : s.sequence.buffer.length + xs.length < n := by
      simpa [seqFull, modSeq, hc] using hf
    exact ⟨by simp [modSeq]; omega, fun _ => by simp [modSeq, hc]; omega⟩

@[simp] theorem modService_calm (f : Service → Service) (h : Calm s z) : Calm (modService f s) z := by
  unfold modService; exact h.step rfl

@[simp] theorem askPoll_calm (h : Calm s z) : Calm (askPoll s) z := by
  unfold askPoll
  with_reducible repeat' first
    | exact h | apply makeOffer_calm | split

@[simp] theorem pollOnEntry_calm (h : Calm s z) : Calm (pollOnEntry s) z := by
  unfold pollOnEntry
  with_reducible repeat' first
    | exact h | apply askPoll_calm | split

@[simp] theorem joinPending_calm (p : Pos) (h : Calm s z) : Calm (joinPending s p) z := by
  unfold joinPending
  with_reducible repeat' first
    | exact h | apply makeOffer_calm | apply modService_calm | split

@[simp] theorem pollEnd_calm (slots : Tab Bool 4) (h : Calm s z) : Calm (pollEnd slots s) z := by
  unfold pollEnd
  with_reducible repeat' first
    | exact h | apply joinPending_calm | apply modService_calm | refine foldl_calm (fun _ _ => ?_) _ ?_
    | exact Calm.refl _

@[simp] theorem endRound_calm (p : Pos) (h : Calm s z) : Calm (endRound p s) z := by
  unfold endRound
  with_reducible repeat' first
    | exact h | apply withdraw_calm | apply modService_calm

@[simp] theorem backToWord_calm (p : Pos) (h : Calm s z) : Calm (backToWord p s) z := by
  unfold backToWord
  with_reducible repeat' first
    | exact h | apply makeOffer_calm | apply modRound_calm

@[simp] theorem roundLookup_calm (p : Pos) (h : Calm s z) : Calm (roundLookup p s) z := by
  unfold roundLookup
  with_reducible repeat' first
    | exact h | apply lookupGroup_calm | apply makeOffer_calm | apply modRound_calm | apply backToWord_calm | split
    | (rename_i e; have e' := snd_eq e; subst e'; clear e) | (rename_i e; clear e)

@[simp] theorem retryRound_calm (p : Pos) (h : Calm s z) : Calm (retryRound p s) z := by
  unfold retryRound
  with_reducible repeat' first
    | exact h | apply roundLookup_calm | split

@[simp] theorem freedRound_calm (p : Pos) (h : Calm s z) : Calm (freedRound p s) z := by
  unfold freedRound
  with_reducible repeat' first
    | exact h | apply endRound_calm | split

@[simp] theorem nameFunction_calm (p : Pos) (f : Code) (h : Calm s z) : Calm (nameFunction p f s) z := by
  unfold nameFunction
  with_reducible repeat' first
    | exact h | apply modService_calm | apply endRound_calm | apply roundLookup_calm | apply modRound_calm | split

@[simp] theorem wordEnd_calm (p : Pos) (out : LineOutcome) (data : Option Word) (h : Calm s z) :
    Calm (wordEnd p out data s) z := by
  unfold wordEnd
  with_reducible repeat' first
    | exact h | apply nameFunction_calm | apply endRound_calm | apply makeOffer_calm | dsimp only | split

@[simp] theorem serviceData_calm (p : Pos) (f : Code) (w : Word) (h : Calm s z) : Calm (serviceData p f w s) z := by
  unfold serviceData
  with_reducible repeat' first
    | exact h | apply writeReading_calm | apply emit_calm | apply writeResult_calm | apply emitAll_calm
    | apply classSix_calm | apply endWatch_calm | dsimp only | (simp; done) | split

@[simp] theorem serviceReadEnd_calm (p : Pos) (f : Code) (point : Nat) (out : LineOutcome) (data : Option Word)
    (h : Calm s z) : Calm (serviceReadEnd p f point out data s) z := by
  unfold serviceReadEnd
  with_reducible repeat' first
    | exact h | apply backToWord_calm | apply serviceData_calm | apply emitAll_calm | apply writeResult_calm
    | apply classSix_calm | apply pointUnknown_calm | apply makeOffer_calm | dsimp only | (simp; done) | (simp [holdNotices]; done) | split

@[simp] theorem offerItem_calm (h : Calm s z) : Calm (offerItem s) z := by
  unfold offerItem
  with_reducible repeat' first
    | exact h | apply makeOffer_calm | split

@[simp] theorem endSequence_calm (c2 : SeqEnd) (h : Calm s z) : Calm (endSequence c2 s) z :=
  withdrawWhere_calm _ (modSeq_calm _ (fun w => ⟨w.buffer, fun hr => by simp [modSeq] at hr⟩) h)

/-- An item stored by a running sequence that then ends keeps the bound of the buffer. -/
theorem endSequence_store_calm (x : SeqEnd) (heard ready : Bool) (data : Option Word)
    (hr : s.sequence.state = .running) (h : Calm s z) : Calm (endSequence x (storeItem heard ready data s)) z := by
  obtain ⟨xs, hx, he⟩ := storeItem_eq heard ready data s
  rw [he]
  refine withdrawWhere_calm _ (?_ : Calm (modSeq _ (modSeq _ s)) z)
  have hm : ∀ f g : Sequence → Sequence, modSeq f (modSeq g s) = modSeq (fun q => f (g q)) s := fun _ _ => rfl
  rw [hm]
  refine modSeq_calm _ (fun w => ⟨?_, fun hr => by simp [modSeq] at hr⟩) h
  have hw := w.running hr
  simp [modSeq]
  omega

@[simp] theorem walkMove_calm (h : Calm s z) : Calm (walkMove s) z := by
  unfold walkMove
  split
  · exact offerItem_calm (modSeq_calm _ (fun w => ⟨w.buffer, w.running⟩) h)
  · exact endSequence_calm _ h

/-- Advancing from a stored item is calm. -/
theorem seqAdvance_calm (heard ready : Bool) (data : Option Word) (hr : s.sequence.state = .running) (h : Calm s z) :
    Calm (seqAdvance (storeItem heard ready data s)) z := by
  unfold seqAdvance
  split
  · exact endSequence_store_calm _ _ _ _ hr h
  · rename_i hf
    have hc := storeItem_calm heard ready data hr (by simpa using hf) h
    dsimp only
    split
    · exact walkMove_calm hc
    · exact offerItem_calm (modSeq_calm _ (fun w => ⟨w.buffer, w.running⟩) hc)

@[simp] theorem seqRepeatLater_calm (h : Calm s z) : Calm (seqRepeatLater s) z :=
  modSeq_calm _ (fun w => ⟨w.buffer, w.running⟩) h

@[simp] theorem sequenceEnd_calm (run : Nat) (out : LineOutcome) (data : Option Word) (h : Calm s z) :
    Calm (sequenceEnd run out data s) z := by
  unfold sequenceEnd
  split
  · rename_i hg
    have hr : s.sequence.state = .running := by
      simp only [Bool.and_eq_true, seqRunning, decide_eq_true_eq] at hg; exact hg.1
    split
    · exact offerItem_calm h
    · exact seqAdvance_calm _ _ _ hr h
    · exact endSequence_store_calm _ _ _ _ hr h
    · exact endSequence_store_calm _ _ _ _ hr h
    · exact seqAdvance_calm _ _ _ hr h
    · exact seqAdvance_calm _ _ _ hr h
    · exact seqRepeatLater_calm h
    · exact seqAdvance_calm _ _ _ hr h
    · exact walkMove_calm h
    · exact h
  · exact h

@[simp] theorem leavePoller_calm (p : Pos) (h : Calm s z) : Calm (leavePoller p s) z := by
  have ht : ∀ t, Calm t z → Calm
      (if seqRunning t && decide (t.sequence.pos = some p) then endSequence .positionLost t else t) z := by
    intro t h
    split
    · exact endSequence_calm _ h
    · exact h
  have hp : ∀ t, Calm t z → Calm (if anyInService t then t else withdraw .servicePoller 3 0 t) z := by
    intro t h
    split
    · exact h
    · exact withdraw_calm _ _ _ h
  unfold leavePoller
  refine ht _ (hp _ ?_)
  split
  · exact modService_calm _ (endRound_calm _ h)
  · exact endRound_calm _ h

end Sys2Proof.Machine
end

