-- ==== Sys2Proof/Laws/CalmMemory.lean ====
section
/-! SUPPORT. Taking a write request is calm. -/

namespace Sys2Proof.Machine

variable {s z : State}

/-- A change of the Consist Memory that leaves its store, MEMORY-INVALID and the restart cause alone is calm. -/
theorem modMemory_calm (f : Memory → Memory) (h1 : (f s.memory).store = s.memory.store)
    (h2 : (f s.memory).invalid = s.memory.invalid) (h3 : (f s.memory).cause = s.memory.cause) (h : Calm s z) :
    Calm (modMemory f s) z := h.step (by simp [view, modMemory, h1, h2, h3])

@[simp] theorem startWrite_calm (w : Writing) (h : Calm s z) : Calm (startWrite w s) z := modMemory_calm _ rfl rfl rfl h

@[simp] theorem takeWrite_calm (p : Pos) (h : Calm s z) : Calm (takeWrite s p) z := by
  have hc : Calm (modMemory (fun m => { m with pendingWrites := m.pendingWrites.put p none }) s) z :=
    modMemory_calm _ rfl rfl rfl h
  unfold takeWrite
  split
  · dsimp only
    split
    · exact startWrite_calm _ hc
    · split
      · exact setMismatch_calm _ _ hc
      · exact startWrite_calm _ hc
  · exact h

@[simp] theorem takePending_calm (h : Calm s z) : Calm (takePending s) z := by
  unfold takePending
  split
  · exact h
  · exact foldl_calm (fun s p => takeWrite_calm p (Calm.refl s)) _ h

@[simp] theorem memoryRequest_calm (p : Pos) (h : Calm s z) : Calm (memoryRequest p s) z := by
  unfold memoryRequest
  split
  · exact takePending_calm (modMemory_calm _ rfl rfl rfl h)
  · exact h

end Sys2Proof.Machine
end

