-- ==== Sys2Proof/Laws/Settle.lean ====
section
/-! SUPPORT. What acting on a command's notices can do, said once: `settle` changes nothing outside what its blocks hold
(`settle_untouched`), keeps every capacity and bound, and leaves the transaction in flight alone unless a notice frees the
line. With no notice it does nothing. -/

namespace Sys2Proof.Machine

variable {s z : State}

/-! ## One notice -/

@[simp] theorem takeLineEnd_calm (o : Offer) (out : LineOutcome) (data : Option Word) (h : Calm s z) :
    Calm (takeLineEnd o out data s) z := by
  unfold takeLineEnd
  dsimp only
  with_reducible split
  with_reducible all_goals first
    | exact h
    | exact assignEnd_calm _ _ h
    | exact recoveryAssignEnd_calm _ _ h
    | exact recoveryGetEnd_calm _ _ h
    | exact sweepEnd_calm _ h
    | exact releaseEnd_calm _ h
    | exact identEnd_calm _ _ _ _ h
    | exact streamEnd_calm _ _ _ _ h
    | exact firstReadEnd_calm _ _ _ _ _ h
    | exact readingEnd_calm _ _ _ _ _ _ h
    | exact fetchEnd_calm _ _ _ _ _ _ h
    | exact wordEnd_calm _ _ _ h
    | exact serviceReadEnd_calm _ _ _ _ _ h
    | exact deliveryEnd_calm _ _ _ _ _ _ _ h
    | exact stopEnd_calm _ _ _ _ h
    | exact managementReadEnd_calm _ _ _ _ _ h
    | exact periodicEnd_calm _ _ _ _ _ _ h
    | exact watchReadEnd_calm _ _ _ _ _ h
    | exact sequenceEnd_calm _ _ _ h

@[simp] theorem takeLoaded_calm (w : Waiter) (h : Calm s z) : Calm (takeLoaded w s) z := by
  unfold takeLoaded
  split
  all_goals first
    | exact lookupGroups_calm _ h
    | exact nodeLampLookup_calm _ _ h
    | exact rebuildStep_calm h
    | exact retryRound_calm _ h
    | exact accessLoaded_calm _ h

@[simp] theorem takeFailed_calm (w : Waiter) (h : Calm s z) : Calm (takeFailed w s) z := by
  unfold takeFailed
  split
  all_goals first
    | exact lookupGroups_calm _ h
    | exact nodeLampLookup_calm _ _ h
    | exact rebuildStep_calm h
    | exact retryRound_calm _ h
    | exact accessFailed_calm _ h

@[simp] theorem takeFreed_calm (w : Waiter) (h : Calm s z) : Calm (takeFreed w s) z := by
  unfold takeFreed
  split
  all_goals first
    | exact h
    | exact rescan_calm _ h
    | exact rebuildStep_calm h
    | exact freedRound_calm _ h

@[simp] theorem takeNoSpace_calm (h : Calm s z) : Calm (takeNoSpace s) z :=
  emitAll_calm _ (by simp [lampLookups]) (foldl_calm (fun _ _ => retryRound_calm _ (Calm.refl _)) _ (rescanAll_calm h))

/-- Every notice but the one that frees the line is calm. -/
theorem runNotice_calm {n : Notice} (hn : n ≠ .lineFree) (h : Calm s z) : Calm (runNotice n s) z := by
  cases n
  case lineFree => exact absurd rfl hn
  all_goals dsimp only [runNotice]
  case writeResult => with_reducible exact writeResult_calm _ _ _ h
  case deferUnchecked => with_reducible exact deferUnchecked_calm _ _ h
  case exitTest => with_reducible exact exitTest_calm _ h
  case placeResult => with_reducible exact placeResultFrame_calm _ _ _ h
  case placeValue => with_reducible exact placeValueFrame_calm _ _ h
  case syncRefresh => with_reducible exact syncRefresh_calm h
  case lineEnd => with_reducible exact takeLineEnd_calm _ _ _ h
  case pollEnd => with_reducible exact pollEnd_calm _ h
  case serviceNotice => with_reducible exact askPoll_calm h
  case silenceNotice => with_reducible exact silence_calm _ h
  case faultRequest => with_reducible exact takeFault_calm _ h
  case timeoutStop => with_reducible exact timeoutStop_calm _ _ h
  case scan => with_reducible exact scan_calm _ _ h
  case classSix => with_reducible exact classSix_calm _ h
  case commandChanged => with_reducible exact commandChanged_calm _ _ h
  case lineUpdate => with_reducible exact lineUpdate_calm _ h
  case lineChange => with_reducible exact lineChange_calm _ h
  case levelBeneath => with_reducible exact windowToDriven_calm h
  case windowNotice => with_reducible exact takeWindow_calm _ _ h
  case motionDelivery => with_reducible exact motionToDelivery_calm h
  case motionPolicy => with_reducible exact motionToPolicy_calm h
  case motionLoadCheck => with_reducible exact motionToSlot_calm h
  case motionConsist => with_reducible exact motionToConsist_calm h
  case waiterLoaded => with_reducible exact takeLoaded_calm _ h
  case waiterFailed => with_reducible exact takeFailed_calm _ h
  case waiterFreed => with_reducible exact takeFreed_calm _ h
  case noSpaceNotice => with_reducible exact takeNoSpace_calm h
  case catchUp => with_reducible exact catchUp_calm _ h
  case buildPlan => with_reducible exact buildPlan_calm _ h
  case entryLamps => with_reducible exact entryLamps_calm _ h
  case handItems => with_reducible exact handItems_calm _ h
  case lookupGroups => with_reducible exact lookupGroups_calm _ h
  case consistOffer => with_reducible exact consistOffer_calm _ h
  case nodeLampOffer => with_reducible exact nodeLampOffer_calm _ h
  case enterExercising => with_reducible exact enterExercising_calm _ h
  case enterRunning => with_reducible exact enterRunning_calm _ h
  case runningDelivery => with_reducible exact runningReads_calm _ h
  case runningService => with_reducible exact askPoll_calm h
  case serviceEntry => with_reducible exact pollOnEntry_calm h
  case memoryRequest => with_reducible exact memoryRequest_calm _ h
  case enumTrigger => with_reducible exact enumTrigger_calm h
  case chainEnd => with_reducible exact chainEnd_calm _ _ h
  case handOver => with_reducible exact handOver_calm _ h
  case identVerdict => with_reducible exact identVerdict_calm _ _ _ h
  case addContributor => with_reducible exact fileContributor_calm _ _ h
  case changeRequest => with_reducible exact changeRequest_calm _ h
  case rebuildEntry => with_reducible exact rebuildOnEntry_calm h
  case rebuildStart => with_reducible exact startRebuild_calm h
  case rebuildStep => with_reducible exact rebuildStep_calm h
  case slotTest => with_reducible exact slotTest_calm h
  case slotEnded => with_reducible exact slotEnded_calm _ h
  case queueLeft => with_reducible exact queueLeft_calm h
  case tripNotice => with_reducible exact takeTrip_calm _ h
  case nodeLampLookup => with_reducible exact nodeLampLookup_calm _ _ h
  case nodeLampEnded => with_reducible exact nodeLampEnded_calm _ _ h
  case deliveredChanged p f => with_reducible exact deliveredToCheck_calm p f .opportunistic (deliveredToCheck_calm p f .slot h)
  case setAccepted => with_reducible exact askOpportunistic_calm _ _ h
  case endPass => with_reducible exact endPass_calm h
  case releaseRequest => with_reducible exact releaseRequest_calm _ h
  case releaseWalk => with_reducible exact releaseWalk_calm h
  case resetPosition => with_reducible exact resetPosition_calm _ h
  case resetBinding => with_reducible exact resetBinding_calm _ h
  case resetDelivery => with_reducible exact resetDelivery_calm _ h
  case resetLoadCheck => with_reducible exact removePosition_calm _ h
  case removeEntries => with_reducible exact removeEntries_calm _ h
  case removeFromSlot => with_reducible exact removeFromSlot_calm _ h
  case resetService => with_reducible exact leavePoller_calm _ h
  case lostDelivery => with_reducible exact leaveService_calm _ h
  case lostLoadCheck => with_reducible exact dropChecks_calm _ h

/-! ## All the notices of a command -/

/-- What acting on any notice keeps. -/
structure Gentle (a b : State) : Prop where
  untouched : Untouched a b
  capacity : b.WithinCapacity → a.WithinCapacity
  sequence : b.SequenceBounded → a.SequenceBounded
  pendingOn : b.CommandsSound → PendingBounded b → PendingBounded a
  idle : b.IdleLine → a.IdleLine

theorem Gentle.refl (s : State) : Gentle s s := ⟨Untouched.refl s, id, id, fun _ => id, id⟩

theorem Gentle.trans {a b c : State} (h : Gentle a b) (h' : Gentle b c) : Gentle a c where
  untouched := h.untouched.trans h'.untouched
  capacity := h.capacity ∘ h'.capacity
  sequence := h.sequence ∘ h'.sequence
  pendingOn := fun hc hp => h.pendingOn (commandsSound_of_untouched h'.untouched hc) (h'.pendingOn hc hp)
  idle := h.idle ∘ h'.idle

theorem Calm.gentle {a b : State} (h : Calm a b) : Gentle a b := ⟨h.untouched, h.capacity, h.sequence, h.pendingOn, h.idle⟩

theorem setNotices_gentle (ns : List Notice) (s : State) : Gentle { s with notices := ns } s :=
  ⟨by constructor <;> intros <;> rfl, fun w => ⟨w.1, w.2, w.3, w.4, w.5, w.6, w.7, w.8⟩, fun w => ⟨w.1, w.2⟩, fun _ => id, id⟩

theorem freeLine_gentle (s : State) : Gentle (freeLine s) s := by
  have hs : Untouched { s with line := { s.line with flight := none } } s := by constructor <;> intros <;> rfl
  have hg := grantLine_calm (Calm.refl { s with line := { s.line with flight := none } })
  exact ⟨hg.untouched.trans hs, fun w => hg.capacity ⟨w.1, w.2, w.3, w.4, w.5, w.6, w.7, w.8⟩,
    fun w => hg.sequence ⟨w.1, w.2⟩, fun hc hp => hg.pendingOn hc hp, fun _ => grantLine_idle _⟩

theorem runNotice_gentle (n : Notice) (s : State) : Gentle (runNotice n s) s := by
  by_cases hn : n = .lineFree
  · subst hn
    exact freeLine_gentle s
  · exact (runNotice_calm hn (Calm.refl s)).gentle

theorem drain_gentle (k : Nat) (ns : List Notice) (s : State) : Gentle (drain k ns s) s := by
  induction k generalizing ns s with
  | zero => exact setNotices_gentle _ s
  | succ k ih =>
    cases ns with
    | nil => exact Gentle.refl s
    | cons n ns =>
      exact (ih _ _).trans ((setNotices_gentle _ _).trans ((runNotice_gentle _ _).trans (setNotices_gentle _ _)))

/-- Acting on the notices changes nothing outside what the blocks hold, and keeps every bound. -/
theorem settle_gentle (s : State) : Gentle (settle s) s := (drain_gentle _ _ _).trans (setNotices_gentle _ _)

theorem settle_untouched (s : State) : Untouched (settle s) s := (settle_gentle s).untouched

/-- With no notice waiting there is nothing to act on. -/
theorem settle_of_no_notices (h : s.notices = []) : settle s = s := by
  obtain ⟨_, _, ns, _⟩ := s
  subst h
  rfl

/-! ## The transaction in flight -/

theorem flightKept_of_eq {a b : State} (h : a.line.flight = b.line.flight) : FlightKept a b :=
  fun fl hf => ⟨fl.discard, by rw [h, hf]⟩

theorem drain_flight (k : Nat) (ns : List Notice) (s : State) (hn : Notice.lineFree ∉ ns) (hs : Notice.lineFree ∉ s.notices) :
    FlightKept (drain k ns s) s ∧ Notice.lineFree ∉ (drain k ns s).notices := by
  induction k generalizing ns s with
  | zero => exact ⟨flightKept_of_eq rfl, by simp [drain, hn, hs]⟩
  | succ k ih =>
    cases ns with
    | nil => exact ⟨flightKept_of_eq rfl, hs⟩
    | cons n ns =>
      have hne : n ≠ .lineFree := fun e => hn (by simp [e])
      have hc := runNotice_calm (s := { s with notices := [] }) hne (Calm.refl _)
      have hf := hc.free (by simp)
      have hi := ih ((runNotice n { s with notices := [] }).notices ++ ns)
        { runNotice n { s with notices := [] } with notices := [] }
        (by simp only [List.mem_append, not_or]; exact ⟨hf, fun hm => hn (by simp [hm])⟩) (by simp)
      refine ⟨hi.1.trans ?_, hi.2⟩
      exact (flightKept_of_eq rfl : FlightKept { runNotice n { s with notices := [] } with notices := [] } _).trans
        (hc.flight.trans (flightKept_of_eq rfl))

/-- R35: no notice but the one that frees the line ends a transaction in flight. -/
theorem settle_flight (h : Notice.lineFree ∉ s.notices) : FlightKept (settle s) s :=
  (drain_flight _ _ _ h (by simp)).1.trans (flightKept_of_eq rfl)

end Sys2Proof.Machine
end

