-- ==== Sys2Proof/Laws/Quiet.lean ====
section
/-! SUPPORT. What a command does when little else is going on: an operation that hands no notice leaves nothing to act on,
an offer is granted to a free line or stands at a busy one, and the head of the Request List is answered. -/

namespace Sys2Proof.Machine

variable {s : State}

/-! ## Notices -/

/-- A state with no notice is settled. -/
theorem settle_eq (h : s.notices = []) : settle s = s := settle_of_no_notices h

/-- One notice is acted on, and then those it handed on. -/
theorem drain_cons (n : Nat) (x : Notice) (ns : List Notice) (s : State) :
    drain (n + 1) (x :: ns) s =
      drain n ((runNotice x { s with notices := [] }).notices ++ ns) { runNotice x { s with notices := [] } with notices := [] } :=
  rfl

theorem drain_nil (n : Nat) (s : State) : drain (n + 1) [] s = s := rfl

/-- A notice that hands on nothing. -/
theorem drain_silent (n : Nat) (x : Notice) (ns : List Notice) {s t : State} (hs : s.notices = [])
    (h : runNotice x s = t) (ht : t.notices = []) : drain (n + 1) (x :: ns) s = drain n ns t := by
  have e : { s with notices := [] } = s := by cases s; simp_all
  have e' : { t with notices := [] } = t := by cases t; simp_all
  rw [drain_cons, e, h, ht, e']; rfl

/-- Acting on the notices a quiet state hands on. -/
theorem settle_emitAll (ns : List Notice) {s : State} (h : s.notices = []) :
    settle (emitAll ns s) = drain Config.noticeBound ns s := by
  have e : { s with notices := [] } = s := by cases s; simp_all
  have e' : { emitAll ns s with notices := [] } = s := e
  have e'' : (emitAll ns s).notices = ns := by simp [emitAll, h]
  rw [settle, e', e'']

/-! ## The clock -/

theorem posRec_advance (d : Nat) (s : State) (p : Pos) : posRec (advance d s) p = lostAfter s d p (posRec s p) := by
  simp [posRec, advance]

theorem posRec_advanceTo (t : Time) (s : State) (p : Pos) : posRec (advanceTo t s) p = lostAfter s (t - s.now) p (posRec s p) :=
  posRec_advance _ s p

/-- The clock changes no position's state. -/
@[simp] theorem stateOf_advanceTo (t : Time) (s : State) (p : Pos) : stateOf (advanceTo t s) p = stateOf s p := by
  unfold stateOf; rw [posRec_advanceTo]; unfold lostAfter; split <;> rfl

@[simp] theorem dirOf_advanceTo (t : Time) (s : State) (p : Pos) (g : Group) : dirOf (advanceTo t s) p g = dirOf s p g := by
  unfold dirOf; rw [posRec_advanceTo]; unfold lostAfter; split <;> rfl

@[simp] theorem inService_advanceTo (t : Time) (s : State) (p : Pos) : inService (advanceTo t s) p = inService s p := by
  unfold inService; rw [stateOf_advanceTo]

/-! ## Offers -/

theorem grantNotices_nil {o : Offer} (h : o.cls ≠ 0 ∧ o.cls ≠ 1) : grantNotices o = [] := by
  unfold grantNotices
  split <;> simp [h.1, h.2]

theorem notePhase_notices (o : Offer) (s : State) : (notePhase o s).notices = s.notices := by
  unfold notePhase; split <;> rfl

/-- The only offer is the one chosen. -/
theorem chooseOffer_single (l : LineCtl) (o : Offer) (h : l.offers = [o]) : chooseOffer l = some o := by
  cases hc : chooseOffer l with
  | none => exact absurd (chooseOffer_eq_none hc) (by simp [h])
  | some x =>
    unfold chooseOffer at hc
    split at hc
    · simp at hc
    · obtain ⟨p, _, hp⟩ := List.exists_of_findSome?_eq_some hc
      rw [h] at hp
      unfold pickRequester at hp
      have hm : ∀ ys : List Offer, (∀ y ∈ ys, y = o) → ∀ r z, (ys.find? r).or ys.head? = some z → z = o := by
        intro ys hy r z hz
        rcases Option.or_eq_some_iff.mp hz with hz | ⟨_, hz⟩
        · exact hy _ (List.mem_of_find?_eq_some hz)
        · exact hy _ (List.mem_of_head? hz)
      have hsub : ∀ q : Offer → Bool, ∀ y ∈ [o].filter q, y = o := by
        intro q y hy; simpa using (List.mem_filter.mp hy).1
      split at hp <;> rw [hm _ (hsub _) _ _ hp]

/-- R33: an offer made while the line is busy stands. -/
theorem makeOffer_busy {o : Offer} {fl : Flight} (hv : offerValid o = true) (hf : s.line.flight = some fl) :
    makeOffer o s = setOffers (putOffer o) s := by
  simp [makeOffer, hv, grantLine, setOffers, hf]

/-- R34: an offer made to an idle line is granted. -/
theorem makeOffer_idle {o : Offer} (hv : offerValid o = true) (hf : s.line.flight = none) (ho : s.line.offers = []) :
    makeOffer o s = grant o (setOffers (fun _ => [o]) s) := by
  have hs : setOffers (putOffer o) s = setOffers (fun _ => [o]) s := by simp [setOffers, ho, putOffer]
  have hc : chooseOffer (setOffers (fun _ => [o]) s).line = some o := chooseOffer_single _ o rfl
  have hl : (setOffers (fun _ => [o]) s).line.flight = none := hf
  simp only [makeOffer, hv, if_true, hs, grantLine, hl, hc]

theorem grant_notices (o : Offer) (s : State) : (grant o s).notices = s.notices ++ grantNotices o := by
  simp [grant, emitAll, notePhase_notices]

/-- An offer whose grant tells nobody anything leaves no notice. -/
theorem makeOffer_notices {o : Offer} (hv : offerValid o = true) (hg : grantNotices o = []) (hi : s.IdleLine) :
    (makeOffer o s).notices = s.notices := by
  cases hf : s.line.flight with
  | none => rw [makeOffer_idle hv hf (hi hf), grant_notices, hg, List.append_nil]; rfl
  | some fl => rw [makeOffer_busy hv hf]; rfl

/-- R34: the line is never free with an offer standing. -/
theorem makeOffer_idleLine (o : Offer) (hi : s.IdleLine) : (makeOffer o s).IdleLine := by
  unfold makeOffer
  split
  · exact grantLine_idle _
  · exact hi

/-- R35: a free line with no offer stays free. -/
theorem grantLine_empty (hf : s.line.flight = none) (ho : s.line.offers = []) : grantLine s = s := by
  have : chooseOffer s.line = none := by simp [chooseOffer, bestClass, ho]
  simp [grantLine, hf, this]

/-! ## Requests -/

theorem serve_eq {code need : Nat} {r : Request} {rest : List Request} (h : s.Serving code r rest)
    (hl : need ≤ r.args.length) (body : List Byte → State → State) : serve code need body s = body r.args s := by
  have : ¬ r.args.length < need := by omega
  simp [serve, h.requests, h.turn, h.code, this]

theorem serve_short {code need : Nat} {r : Request} {rest : List Request} (h : s.Serving code r rest)
    (hl : r.args.length < need) (body : List Byte → State → State) : serve code need body s = answer .badArg [] s := by
  simp [serve, h.requests, h.turn, h.code, hl]

/-- R191: the requests behind an answered one wait their turn where their codes are of the table. -/
theorem serveUnknown_known (n : Nat) {rest : List Request} (hr : s.management.requests = rest)
    (hk : ∀ x, rest.head? = some x → knownCode x.code = true) : serveUnknown n s = s := by
  cases n with
  | zero => rfl
  | succ n =>
    unfold serveUnknown
    cases rest with
    | nil => simp [hr]
    | cons x xs =>
      have := hk x rfl
      cases hh : s.management.head <;> simp [hr, this]

/-- R192: the head request is answered. -/
theorem answer_eq {r : Request} {rest : List Request} (hr : s.management.requests = r :: rest)
    (hq : s.port.queue.length < 16) (hk : ∀ x, rest.head? = some x → knownCode x.code = true) (result : ResultCode)
    (bytes : List Byte) : answer result bytes s = s.replied r rest result bytes := by
  have hq' : (txQueue s).length < Config.txCapacity := hq
  unfold answer
  rw [hr]
  simp only [hq', if_true]
  unfold popRequest
  have hr' : (setQueue (txQueue s ++ [replyFrame s r.code r.tag result bytes]) s).management.requests = r :: rest := hr
  rw [hr', serveUnknown_known _ (rest := rest) rfl hk]
  rfl

@[simp] theorem replied_notices (r : Request) (rest : List Request) (x : ResultCode) (bs : List Byte) :
    (s.replied r rest x bs).notices = s.notices := rfl

theorem State.Serving.answer {code : Nat} {r : Request} {rest : List Request} (h : s.Serving code r rest) (result : ResultCode)
    (bytes : List Byte) : answer result bytes s = s.replied r rest result bytes :=
  answer_eq h.requests h.room h.behind result bytes

/-- The same with the rest of the state changed first. -/
theorem State.Serving.answer_in {code : Nat} {r : Request} {rest : List Request} (h : s.Serving code r rest) {x : State}
    (result : ResultCode) (bytes : List Byte) (hr : x.management.requests = s.management.requests := by rfl)
    (hq : x.port.queue = s.port.queue := by rfl) : Machine.answer result bytes x = x.replied r rest result bytes :=
  answer_eq (hr.trans h.requests) (by rw [hq]; exact h.room) h.behind result bytes

theorem State.Serving.part {code : Nat} {r : Request} {rest : List Request} (h : s.Serving code r rest) (result : ResultCode)
    (bytes : List Byte) (n : Nat) : answerPart result bytes n s = s.part r rest result bytes n := by
  unfold answerPart State.part; split <;> exact h.answer _ _

end Sys2Proof.Machine
end

