-- ==== Sys2Proof/Laws/AtRest.lean ====
section
/-! SUPPORT. What the Delivery Unit makes of a look at its offers for a position: nothing where nothing is due
(`State.AtRest`), and the one offer where one delivery, or one owed stop, is (`State.OneDue`). -/

namespace Sys2Proof.Machine

variable {s : State} {p : Pos}

/-- R96: a scan that finds nothing due and unheld offers nothing. -/
theorem scanCodes_none (second : Bool) (fs : List Code) (h : ∀ f ∈ fs, offerable s p second f = none) :
    scanCodes p second fs s = s := by
  induction fs with
  | nil => rfl
  | cons f fs ih =>
    unfold scanCodes
    rw [h f (by simp)]
    exact ih fun g hg => h g (by simp [hg])

/-- R96: a scan passes over what is not due or is held. -/
theorem scanCodes_skip (second : Bool) (fs gs : List Code) (h : ∀ f ∈ fs, offerable s p second f = none) :
    scanCodes p second (fs ++ gs) s = scanCodes p second gs s := by
  induction fs with
  | nil => rfl
  | cons f fs ih =>
    rw [List.cons_append, scanCodes, h f (by simp)]
    exact ih fun g hg => h g (by simp [hg])

/-- R110: stops that are held are passed over. -/
theorem tryStops_held (fs : List Code) (h : ∀ o ∈ s.delivery.owed.get p, stopHeld s p o = true) :
    tryStops p fs s = (false, s) := by
  induction fs with
  | nil => rfl
  | cons f fs ih =>
    unfold tryStops
    split
    · exact ih
    · rename_i o ho
      rw [if_pos (h o (List.mem_of_find?_eq_some ho))]
      exact ih

/-- R96: with nothing due no offer is formed. -/
theorem formOffer_atRest (h : s.AtRest p) (second : Bool) : formOffer p second s = s := by
  unfold formOffer
  cases second
  · rw [if_neg Bool.false_ne_true, tryStops_held _ h.stops]
    exact scanCodes_none false _ fun f _ => h.deliveries false f
  · rw [if_pos rfl, h.management]
    exact scanCodes_none true _ fun f _ => h.deliveries true f

theorem scan_atRest (h : s.AtRest p) (hs : inService s p = true) (second : Bool) : scan p second s = s := by
  have : standing s .deliveryUnit (if second then 1 else 0) (linePos p) = none := by
    cases second
    · exact h.first
    · exact h.second
  simp only [scan, hs, Bool.true_eq_false, if_false, this]
  exact formOffer_atRest h second

theorem classSix_noReads (hr : dueReads s p = []) (hs : inService s p = true) : classSix p s = s := by
  simp only [classSix, hs, Bool.true_eq_false, if_false, hr, tryReads]
  split <;> rfl

/-- R96, R151: with nothing due, being told to look again changes nothing. -/
theorem drain_holdNotices (n : Nat) (ns : List Notice) (hn : s.notices = []) (h : s.AtRest p) (hs : inService s p = true) :
    drain (n + 1 + 1 + 1) (holdNotices p ++ ns) s = drain n ns s := by
  unfold holdNotices
  rw [List.cons_append, drain_silent _ _ _ hn (show runNotice (.scan p false) s = s from scan_atRest h hs false) hn,
    List.cons_append, drain_silent _ _ _ hn (show runNotice (.scan p true) s = s from scan_atRest h hs true) hn,
    List.cons_append, drain_silent _ _ _ hn (show runNotice (.classSix p) s = s from classSix_noReads h.reads hs) hn]
  rfl

theorem settle_rescan (hn : s.notices = []) (h : s.AtRest p) : settle (rescan p s) = s := by
  unfold rescan
  split
  · rename_i hs
    rw [settle_emitAll _ hn, ← List.append_nil (holdNotices p)]
    show drain (99997 + 1 + 1 + 1) _ _ = _
    rw [drain_holdNotices _ _ hn h hs]
    rfl
  · exact settle_eq hn

/-- R82: an access to a bound function that is admitted is a HIT, and marks the block as used. -/
theorem translate_hit {f : Code} {b : BlockNo} {e : DirEntry} {r : FnRecord} (h : s.Bound p f b e r) (k : AccessKind)
    (zero : Bool) (w : Waiter) (hk : zero = true ∨ permits s e.policyClass r.fnClass k = true) :
    translate p f k zero w s = (.hit r, reference b s) := by
  obtain ⟨rep, hrow⟩ := h.row
  have hm : ¬ e.members ≤ (memberOf f).val := Nat.not_le.mpr h.member
  have hl : (blockOf s b).state ≠ .fetching := by rw [h.loaded]; decide
  have hrow' : (blockOf (reference b s) b).rows.get (memberOf f) =
      some { unusable := false, reported := rep, record := r } := by
    simp [blockOf, reference, modBlock, Tab.get_upd]; exact hrow
  have base : lookupGroup p (groupOf f) (some f) (some k) w s = (.loaded b e, reference b s) := by
    simp [lookupGroup, h.service, h.present, h.fetched, h.space, h.block, hl]
  have hset : permits (reference b s) e.policyClass r.fnClass k = permits s e.policyClass r.fnClass k := rfl
  unfold translate
  rw [base]
  simp only [hm, if_false, hrow', Bool.false_eq_true]
  by_cases hz : zero = true
  · simp [hz]
  · simp [hz, checkPolicy, hset, hk.resolve_left hz]

/-- R33: an offer whose place no standing offer takes stands behind the others. -/
theorem putOffer_new {o : Offer} (h : standing s o.requester o.cls o.pos = none) :
    putOffer o s.line.offers = s.line.offers ++ [o] := by
  have : s.line.offers.any (fun x => decide (x.requester = o.requester) && decide (x.cls = o.cls) && decide (x.pos = o.pos)) =
      false := by
    rw [List.any_eq_false]
    intro x hx hc
    exact absurd hc (by simpa using List.find?_eq_none.mp h x hx)
  unfold putOffer
  rw [this, if_neg Bool.false_ne_true]

/-- R33: an offer made at a busy line, in a place that no offer takes. -/
theorem makeOffer_new {o : Offer} {fl : Flight} (hv : offerValid o = true) (hf : s.line.flight = some fl)
    (h : standing s o.requester o.cls o.pos = none) : makeOffer o s = setOffers (fun os => os ++ [o]) s := by
  rw [makeOffer_busy hv hf]
  show { s with line := { s.line with offers := putOffer o s.line.offers } } = _
  rw [putOffer_new h]
  rfl

end Sys2Proof.Machine
end

