-- ==== Sys2Proof/Laws/State.lean ====
section
/-! SUPPORT. What each update of one part of the state leaves of every other part, and what it makes of its own cell. -/

namespace Sys2Proof.Machine

variable (s : State)

/-! ### modRec -/

@[simp] theorem modRec_now (p : Pos) (f : ConsistRecord → ConsistRecord) : (modRec p f s).now = s.now := rfl
@[simp] theorem modRec_pending (p : Pos) (f : ConsistRecord → ConsistRecord) : (modRec p f s).pending = s.pending := rfl
@[simp] theorem modRec_notices (p : Pos) (f : ConsistRecord → ConsistRecord) : (modRec p f s).notices = s.notices := rfl
@[simp] theorem modRec_freeCount (p : Pos) (f : ConsistRecord → ConsistRecord) :
    (modRec p f s).freeCount = s.freeCount := rfl
@[simp] theorem modRec_decoder (p : Pos) (f : ConsistRecord → ConsistRecord) : (modRec p f s).decoder = s.decoder := rfl
@[simp] theorem modRec_settings (p : Pos) (f : ConsistRecord → ConsistRecord) :
    (modRec p f s).settings = s.settings := rfl
@[simp] theorem modRec_line (p : Pos) (f : ConsistRecord → ConsistRecord) : (modRec p f s).line = s.line := rfl
@[simp] theorem modRec_binding (p : Pos) (f : ConsistRecord → ConsistRecord) : (modRec p f s).binding = s.binding := rfl
@[simp] theorem modRec_delivery (p : Pos) (f : ConsistRecord → ConsistRecord) :
    (modRec p f s).delivery = s.delivery := rfl
@[simp] theorem modRec_policy (p : Pos) (f : ConsistRecord → ConsistRecord) : (modRec p f s).policy = s.policy := rfl
@[simp] theorem modRec_direct (p : Pos) (f : ConsistRecord → ConsistRecord) : (modRec p f s).direct = s.direct := rfl
@[simp] theorem modRec_check (p : Pos) (f : ConsistRecord → ConsistRecord) : (modRec p f s).check = s.check := rfl
@[simp] theorem modRec_service (p : Pos) (f : ConsistRecord → ConsistRecord) : (modRec p f s).service = s.service := rfl
@[simp] theorem modRec_sequence (p : Pos) (f : ConsistRecord → ConsistRecord) :
    (modRec p f s).sequence = s.sequence := rfl
@[simp] theorem modRec_memory (p : Pos) (f : ConsistRecord → ConsistRecord) : (modRec p f s).memory = s.memory := rfl
@[simp] theorem modRec_management (p : Pos) (f : ConsistRecord → ConsistRecord) :
    (modRec p f s).management = s.management := rfl
@[simp] theorem modRec_port (p : Pos) (f : ConsistRecord → ConsistRecord) : (modRec p f s).port = s.port := rfl

/-! ### modStream -/

@[simp] theorem modStream_now (p : Pos) (f : StreamRecord → StreamRecord) : (modStream p f s).now = s.now := rfl
@[simp] theorem modStream_pending (p : Pos) (f : StreamRecord → StreamRecord) :
    (modStream p f s).pending = s.pending := rfl
@[simp] theorem modStream_notices (p : Pos) (f : StreamRecord → StreamRecord) :
    (modStream p f s).notices = s.notices := rfl
@[simp] theorem modStream_freeCount (p : Pos) (f : StreamRecord → StreamRecord) :
    (modStream p f s).freeCount = s.freeCount := rfl
@[simp] theorem modStream_decoder (p : Pos) (f : StreamRecord → StreamRecord) :
    (modStream p f s).decoder = s.decoder := rfl
@[simp] theorem modStream_settings (p : Pos) (f : StreamRecord → StreamRecord) :
    (modStream p f s).settings = s.settings := rfl
@[simp] theorem modStream_line (p : Pos) (f : StreamRecord → StreamRecord) : (modStream p f s).line = s.line := rfl
@[simp] theorem modStream_binding (p : Pos) (f : StreamRecord → StreamRecord) :
    (modStream p f s).binding = s.binding := rfl
@[simp] theorem modStream_delivery (p : Pos) (f : StreamRecord → StreamRecord) :
    (modStream p f s).delivery = s.delivery := rfl
@[simp] theorem modStream_policy (p : Pos) (f : StreamRecord → StreamRecord) :
    (modStream p f s).policy = s.policy := rfl
@[simp] theorem modStream_direct (p : Pos) (f : StreamRecord → StreamRecord) :
    (modStream p f s).direct = s.direct := rfl
@[simp] theorem modStream_check (p : Pos) (f : StreamRecord → StreamRecord) : (modStream p f s).check = s.check := rfl
@[simp] theorem modStream_service (p : Pos) (f : StreamRecord → StreamRecord) :
    (modStream p f s).service = s.service := rfl
@[simp] theorem modStream_sequence (p : Pos) (f : StreamRecord → StreamRecord) :
    (modStream p f s).sequence = s.sequence := rfl
@[simp] theorem modStream_memory (p : Pos) (f : StreamRecord → StreamRecord) :
    (modStream p f s).memory = s.memory := rfl
@[simp] theorem modStream_management (p : Pos) (f : StreamRecord → StreamRecord) :
    (modStream p f s).management = s.management := rfl
@[simp] theorem modStream_port (p : Pos) (f : StreamRecord → StreamRecord) : (modStream p f s).port = s.port := rfl

/-! ### modPass -/

@[simp] theorem modPass_now (f : EnumPass → EnumPass) : (modPass f s).now = s.now := rfl
@[simp] theorem modPass_pending (f : EnumPass → EnumPass) : (modPass f s).pending = s.pending := rfl
@[simp] theorem modPass_notices (f : EnumPass → EnumPass) : (modPass f s).notices = s.notices := rfl
@[simp] theorem modPass_freeCount (f : EnumPass → EnumPass) : (modPass f s).freeCount = s.freeCount := rfl
@[simp] theorem modPass_decoder (f : EnumPass → EnumPass) : (modPass f s).decoder = s.decoder := rfl
@[simp] theorem modPass_settings (f : EnumPass → EnumPass) : (modPass f s).settings = s.settings := rfl
@[simp] theorem modPass_line (f : EnumPass → EnumPass) : (modPass f s).line = s.line := rfl
@[simp] theorem modPass_binding (f : EnumPass → EnumPass) : (modPass f s).binding = s.binding := rfl
@[simp] theorem modPass_delivery (f : EnumPass → EnumPass) : (modPass f s).delivery = s.delivery := rfl
@[simp] theorem modPass_policy (f : EnumPass → EnumPass) : (modPass f s).policy = s.policy := rfl
@[simp] theorem modPass_direct (f : EnumPass → EnumPass) : (modPass f s).direct = s.direct := rfl
@[simp] theorem modPass_check (f : EnumPass → EnumPass) : (modPass f s).check = s.check := rfl
@[simp] theorem modPass_service (f : EnumPass → EnumPass) : (modPass f s).service = s.service := rfl
@[simp] theorem modPass_sequence (f : EnumPass → EnumPass) : (modPass f s).sequence = s.sequence := rfl
@[simp] theorem modPass_memory (f : EnumPass → EnumPass) : (modPass f s).memory = s.memory := rfl
@[simp] theorem modPass_management (f : EnumPass → EnumPass) : (modPass f s).management = s.management := rfl
@[simp] theorem modPass_port (f : EnumPass → EnumPass) : (modPass f s).port = s.port := rfl

/-! ### modRelease -/

@[simp] theorem modRelease_now (f : ReleaseRecord → ReleaseRecord) : (modRelease f s).now = s.now := rfl
@[simp] theorem modRelease_pending (f : ReleaseRecord → ReleaseRecord) : (modRelease f s).pending = s.pending := rfl
@[simp] theorem modRelease_notices (f : ReleaseRecord → ReleaseRecord) : (modRelease f s).notices = s.notices := rfl
@[simp] theorem modRelease_freeCount (f : ReleaseRecord → ReleaseRecord) :
    (modRelease f s).freeCount = s.freeCount := rfl
@[simp] theorem modRelease_decoder (f : ReleaseRecord → ReleaseRecord) : (modRelease f s).decoder = s.decoder := rfl
@[simp] theorem modRelease_settings (f : ReleaseRecord → ReleaseRecord) : (modRelease f s).settings = s.settings := rfl
@[simp] theorem modRelease_line (f : ReleaseRecord → ReleaseRecord) : (modRelease f s).line = s.line := rfl
@[simp] theorem modRelease_binding (f : ReleaseRecord → ReleaseRecord) : (modRelease f s).binding = s.binding := rfl
@[simp] theorem modRelease_delivery (f : ReleaseRecord → ReleaseRecord) : (modRelease f s).delivery = s.delivery := rfl
@[simp] theorem modRelease_policy (f : ReleaseRecord → ReleaseRecord) : (modRelease f s).policy = s.policy := rfl
@[simp] theorem modRelease_direct (f : ReleaseRecord → ReleaseRecord) : (modRelease f s).direct = s.direct := rfl
@[simp] theorem modRelease_check (f : ReleaseRecord → ReleaseRecord) : (modRelease f s).check = s.check := rfl
@[simp] theorem modRelease_service (f : ReleaseRecord → ReleaseRecord) : (modRelease f s).service = s.service := rfl
@[simp] theorem modRelease_sequence (f : ReleaseRecord → ReleaseRecord) : (modRelease f s).sequence = s.sequence := rfl
@[simp] theorem modRelease_memory (f : ReleaseRecord → ReleaseRecord) : (modRelease f s).memory = s.memory := rfl
@[simp] theorem modRelease_management (f : ReleaseRecord → ReleaseRecord) :
    (modRelease f s).management = s.management := rfl
@[simp] theorem modRelease_port (f : ReleaseRecord → ReleaseRecord) : (modRelease f s).port = s.port := rfl

/-! ### modConsist -/

@[simp] theorem modConsist_now (f : Consist → Consist) : (modConsist f s).now = s.now := rfl
@[simp] theorem modConsist_pending (f : Consist → Consist) : (modConsist f s).pending = s.pending := rfl
@[simp] theorem modConsist_notices (f : Consist → Consist) : (modConsist f s).notices = s.notices := rfl
@[simp] theorem modConsist_freeCount (f : Consist → Consist) : (modConsist f s).freeCount = s.freeCount := rfl
@[simp] theorem modConsist_decoder (f : Consist → Consist) : (modConsist f s).decoder = s.decoder := rfl
@[simp] theorem modConsist_settings (f : Consist → Consist) : (modConsist f s).settings = s.settings := rfl
@[simp] theorem modConsist_line (f : Consist → Consist) : (modConsist f s).line = s.line := rfl
@[simp] theorem modConsist_binding (f : Consist → Consist) : (modConsist f s).binding = s.binding := rfl
@[simp] theorem modConsist_delivery (f : Consist → Consist) : (modConsist f s).delivery = s.delivery := rfl
@[simp] theorem modConsist_policy (f : Consist → Consist) : (modConsist f s).policy = s.policy := rfl
@[simp] theorem modConsist_direct (f : Consist → Consist) : (modConsist f s).direct = s.direct := rfl
@[simp] theorem modConsist_check (f : Consist → Consist) : (modConsist f s).check = s.check := rfl
@[simp] theorem modConsist_service (f : Consist → Consist) : (modConsist f s).service = s.service := rfl
@[simp] theorem modConsist_sequence (f : Consist → Consist) : (modConsist f s).sequence = s.sequence := rfl
@[simp] theorem modConsist_memory (f : Consist → Consist) : (modConsist f s).memory = s.memory := rfl
@[simp] theorem modConsist_management (f : Consist → Consist) : (modConsist f s).management = s.management := rfl
@[simp] theorem modConsist_port (f : Consist → Consist) : (modConsist f s).port = s.port := rfl

/-! ### modEntry -/

@[simp] theorem modEntry_now (p : Pos) (c : Code) (f : StatusEntry → StatusEntry) :
    (modEntry p c f s).now = s.now := rfl
@[simp] theorem modEntry_pending (p : Pos) (c : Code) (f : StatusEntry → StatusEntry) :
    (modEntry p c f s).pending = s.pending := rfl
@[simp] theorem modEntry_notices (p : Pos) (c : Code) (f : StatusEntry → StatusEntry) :
    (modEntry p c f s).notices = s.notices := rfl
@[simp] theorem modEntry_freeCount (p : Pos) (c : Code) (f : StatusEntry → StatusEntry) :
    (modEntry p c f s).freeCount = s.freeCount := rfl
@[simp] theorem modEntry_decoder (p : Pos) (c : Code) (f : StatusEntry → StatusEntry) :
    (modEntry p c f s).decoder = s.decoder := rfl
@[simp] theorem modEntry_settings (p : Pos) (c : Code) (f : StatusEntry → StatusEntry) :
    (modEntry p c f s).settings = s.settings := rfl
@[simp] theorem modEntry_line (p : Pos) (c : Code) (f : StatusEntry → StatusEntry) :
    (modEntry p c f s).line = s.line := rfl
@[simp] theorem modEntry_consist (p : Pos) (c : Code) (f : StatusEntry → StatusEntry) :
    (modEntry p c f s).consist = s.consist := rfl
@[simp] theorem modEntry_binding (p : Pos) (c : Code) (f : StatusEntry → StatusEntry) :
    (modEntry p c f s).binding = s.binding := rfl
@[simp] theorem modEntry_policy (p : Pos) (c : Code) (f : StatusEntry → StatusEntry) :
    (modEntry p c f s).policy = s.policy := rfl
@[simp] theorem modEntry_direct (p : Pos) (c : Code) (f : StatusEntry → StatusEntry) :
    (modEntry p c f s).direct = s.direct := rfl
@[simp] theorem modEntry_check (p : Pos) (c : Code) (f : StatusEntry → StatusEntry) :
    (modEntry p c f s).check = s.check := rfl
@[simp] theorem modEntry_service (p : Pos) (c : Code) (f : StatusEntry → StatusEntry) :
    (modEntry p c f s).service = s.service := rfl
@[simp] theorem modEntry_sequence (p : Pos) (c : Code) (f : StatusEntry → StatusEntry) :
    (modEntry p c f s).sequence = s.sequence := rfl
@[simp] theorem modEntry_memory (p : Pos) (c : Code) (f : StatusEntry → StatusEntry) :
    (modEntry p c f s).memory = s.memory := rfl
@[simp] theorem modEntry_management (p : Pos) (c : Code) (f : StatusEntry → StatusEntry) :
    (modEntry p c f s).management = s.management := rfl
@[simp] theorem modEntry_port (p : Pos) (c : Code) (f : StatusEntry → StatusEntry) :
    (modEntry p c f s).port = s.port := rfl

/-! ### modDelivery -/

@[simp] theorem modDelivery_now (f : Delivery → Delivery) : (modDelivery f s).now = s.now := rfl
@[simp] theorem modDelivery_pending (f : Delivery → Delivery) : (modDelivery f s).pending = s.pending := rfl
@[simp] theorem modDelivery_notices (f : Delivery → Delivery) : (modDelivery f s).notices = s.notices := rfl
@[simp] theorem modDelivery_freeCount (f : Delivery → Delivery) : (modDelivery f s).freeCount = s.freeCount := rfl
@[simp] theorem modDelivery_decoder (f : Delivery → Delivery) : (modDelivery f s).decoder = s.decoder := rfl
@[simp] theorem modDelivery_settings (f : Delivery → Delivery) : (modDelivery f s).settings = s.settings := rfl
@[simp] theorem modDelivery_line (f : Delivery → Delivery) : (modDelivery f s).line = s.line := rfl
@[simp] theorem modDelivery_consist (f : Delivery → Delivery) : (modDelivery f s).consist = s.consist := rfl
@[simp] theorem modDelivery_binding (f : Delivery → Delivery) : (modDelivery f s).binding = s.binding := rfl
@[simp] theorem modDelivery_policy (f : Delivery → Delivery) : (modDelivery f s).policy = s.policy := rfl
@[simp] theorem modDelivery_direct (f : Delivery → Delivery) : (modDelivery f s).direct = s.direct := rfl
@[simp] theorem modDelivery_check (f : Delivery → Delivery) : (modDelivery f s).check = s.check := rfl
@[simp] theorem modDelivery_service (f : Delivery → Delivery) : (modDelivery f s).service = s.service := rfl
@[simp] theorem modDelivery_sequence (f : Delivery → Delivery) : (modDelivery f s).sequence = s.sequence := rfl
@[simp] theorem modDelivery_memory (f : Delivery → Delivery) : (modDelivery f s).memory = s.memory := rfl
@[simp] theorem modDelivery_management (f : Delivery → Delivery) : (modDelivery f s).management = s.management := rfl
@[simp] theorem modDelivery_port (f : Delivery → Delivery) : (modDelivery f s).port = s.port := rfl

/-! ### modCommand -/

@[simp] theorem modCommand_now (c : Code) (f : CommandEntry → CommandEntry) : (modCommand c f s).now = s.now := rfl
@[simp] theorem modCommand_pending (c : Code) (f : CommandEntry → CommandEntry) :
    (modCommand c f s).pending = s.pending := rfl
@[simp] theorem modCommand_notices (c : Code) (f : CommandEntry → CommandEntry) :
    (modCommand c f s).notices = s.notices := rfl
@[simp] theorem modCommand_freeCount (c : Code) (f : CommandEntry → CommandEntry) :
    (modCommand c f s).freeCount = s.freeCount := rfl
@[simp] theorem modCommand_settings (c : Code) (f : CommandEntry → CommandEntry) :
    (modCommand c f s).settings = s.settings := rfl
@[simp] theorem modCommand_line (c : Code) (f : CommandEntry → CommandEntry) : (modCommand c f s).line = s.line := rfl
@[simp] theorem modCommand_consist (c : Code) (f : CommandEntry → CommandEntry) :
    (modCommand c f s).consist = s.consist := rfl
@[simp] theorem modCommand_binding (c : Code) (f : CommandEntry → CommandEntry) :
    (modCommand c f s).binding = s.binding := rfl
@[simp] theorem modCommand_delivery (c : Code) (f : CommandEntry → CommandEntry) :
    (modCommand c f s).delivery = s.delivery := rfl
@[simp] theorem modCommand_policy (c : Code) (f : CommandEntry → CommandEntry) :
    (modCommand c f s).policy = s.policy := rfl
@[simp] theorem modCommand_direct (c : Code) (f : CommandEntry → CommandEntry) :
    (modCommand c f s).direct = s.direct := rfl
@[simp] theorem modCommand_check (c : Code) (f : CommandEntry → CommandEntry) :
    (modCommand c f s).check = s.check := rfl
@[simp] theorem modCommand_service (c : Code) (f : CommandEntry → CommandEntry) :
    (modCommand c f s).service = s.service := rfl
@[simp] theorem modCommand_sequence (c : Code) (f : CommandEntry → CommandEntry) :
    (modCommand c f s).sequence = s.sequence := rfl
@[simp] theorem modCommand_memory (c : Code) (f : CommandEntry → CommandEntry) :
    (modCommand c f s).memory = s.memory := rfl
@[simp] theorem modCommand_management (c : Code) (f : CommandEntry → CommandEntry) :
    (modCommand c f s).management = s.management := rfl
@[simp] theorem modCommand_port (c : Code) (f : CommandEntry → CommandEntry) : (modCommand c f s).port = s.port := rfl

/-! ### modDecoder -/

@[simp] theorem modDecoder_now (f : Decoder → Decoder) : (modDecoder f s).now = s.now := rfl
@[simp] theorem modDecoder_pending (f : Decoder → Decoder) : (modDecoder f s).pending = s.pending := rfl
@[simp] theorem modDecoder_notices (f : Decoder → Decoder) : (modDecoder f s).notices = s.notices := rfl
@[simp] theorem modDecoder_freeCount (f : Decoder → Decoder) : (modDecoder f s).freeCount = s.freeCount := rfl
@[simp] theorem modDecoder_settings (f : Decoder → Decoder) : (modDecoder f s).settings = s.settings := rfl
@[simp] theorem modDecoder_line (f : Decoder → Decoder) : (modDecoder f s).line = s.line := rfl
@[simp] theorem modDecoder_consist (f : Decoder → Decoder) : (modDecoder f s).consist = s.consist := rfl
@[simp] theorem modDecoder_binding (f : Decoder → Decoder) : (modDecoder f s).binding = s.binding := rfl
@[simp] theorem modDecoder_delivery (f : Decoder → Decoder) : (modDecoder f s).delivery = s.delivery := rfl
@[simp] theorem modDecoder_policy (f : Decoder → Decoder) : (modDecoder f s).policy = s.policy := rfl
@[simp] theorem modDecoder_direct (f : Decoder → Decoder) : (modDecoder f s).direct = s.direct := rfl
@[simp] theorem modDecoder_check (f : Decoder → Decoder) : (modDecoder f s).check = s.check := rfl
@[simp] theorem modDecoder_service (f : Decoder → Decoder) : (modDecoder f s).service = s.service := rfl
@[simp] theorem modDecoder_sequence (f : Decoder → Decoder) : (modDecoder f s).sequence = s.sequence := rfl
@[simp] theorem modDecoder_memory (f : Decoder → Decoder) : (modDecoder f s).memory = s.memory := rfl
@[simp] theorem modDecoder_management (f : Decoder → Decoder) : (modDecoder f s).management = s.management := rfl
@[simp] theorem modDecoder_port (f : Decoder → Decoder) : (modDecoder f s).port = s.port := rfl

/-! ### modGroup -/

@[simp] theorem modGroup_now (p : Pos) (g : Group) (f : GroupRecord → GroupRecord) :
    (modGroup p g f s).now = s.now := rfl
@[simp] theorem modGroup_pending (p : Pos) (g : Group) (f : GroupRecord → GroupRecord) :
    (modGroup p g f s).pending = s.pending := rfl
@[simp] theorem modGroup_notices (p : Pos) (g : Group) (f : GroupRecord → GroupRecord) :
    (modGroup p g f s).notices = s.notices := rfl
@[simp] theorem modGroup_freeCount (p : Pos) (g : Group) (f : GroupRecord → GroupRecord) :
    (modGroup p g f s).freeCount = s.freeCount := rfl
@[simp] theorem modGroup_decoder (p : Pos) (g : Group) (f : GroupRecord → GroupRecord) :
    (modGroup p g f s).decoder = s.decoder := rfl
@[simp] theorem modGroup_settings (p : Pos) (g : Group) (f : GroupRecord → GroupRecord) :
    (modGroup p g f s).settings = s.settings := rfl
@[simp] theorem modGroup_line (p : Pos) (g : Group) (f : GroupRecord → GroupRecord) :
    (modGroup p g f s).line = s.line := rfl
@[simp] theorem modGroup_consist (p : Pos) (g : Group) (f : GroupRecord → GroupRecord) :
    (modGroup p g f s).consist = s.consist := rfl
@[simp] theorem modGroup_delivery (p : Pos) (g : Group) (f : GroupRecord → GroupRecord) :
    (modGroup p g f s).delivery = s.delivery := rfl
@[simp] theorem modGroup_policy (p : Pos) (g : Group) (f : GroupRecord → GroupRecord) :
    (modGroup p g f s).policy = s.policy := rfl
@[simp] theorem modGroup_direct (p : Pos) (g : Group) (f : GroupRecord → GroupRecord) :
    (modGroup p g f s).direct = s.direct := rfl
@[simp] theorem modGroup_check (p : Pos) (g : Group) (f : GroupRecord → GroupRecord) :
    (modGroup p g f s).check = s.check := rfl
@[simp] theorem modGroup_service (p : Pos) (g : Group) (f : GroupRecord → GroupRecord) :
    (modGroup p g f s).service = s.service := rfl
@[simp] theorem modGroup_sequence (p : Pos) (g : Group) (f : GroupRecord → GroupRecord) :
    (modGroup p g f s).sequence = s.sequence := rfl
@[simp] theorem modGroup_memory (p : Pos) (g : Group) (f : GroupRecord → GroupRecord) :
    (modGroup p g f s).memory = s.memory := rfl
@[simp] theorem modGroup_management (p : Pos) (g : Group) (f : GroupRecord → GroupRecord) :
    (modGroup p g f s).management = s.management := rfl
@[simp] theorem modGroup_port (p : Pos) (g : Group) (f : GroupRecord → GroupRecord) :
    (modGroup p g f s).port = s.port := rfl

/-! ### modBlock -/

@[simp] theorem modBlock_now (b : BlockNo) (f : Block → Block) : (modBlock b f s).now = s.now := rfl
@[simp] theorem modBlock_pending (b : BlockNo) (f : Block → Block) : (modBlock b f s).pending = s.pending := rfl
@[simp] theorem modBlock_notices (b : BlockNo) (f : Block → Block) : (modBlock b f s).notices = s.notices := rfl
@[simp] theorem modBlock_freeCount (b : BlockNo) (f : Block → Block) : (modBlock b f s).freeCount = s.freeCount := rfl
@[simp] theorem modBlock_decoder (b : BlockNo) (f : Block → Block) : (modBlock b f s).decoder = s.decoder := rfl
@[simp] theorem modBlock_settings (b : BlockNo) (f : Block → Block) : (modBlock b f s).settings = s.settings := rfl
@[simp] theorem modBlock_line (b : BlockNo) (f : Block → Block) : (modBlock b f s).line = s.line := rfl
@[simp] theorem modBlock_consist (b : BlockNo) (f : Block → Block) : (modBlock b f s).consist = s.consist := rfl
@[simp] theorem modBlock_delivery (b : BlockNo) (f : Block → Block) : (modBlock b f s).delivery = s.delivery := rfl
@[simp] theorem modBlock_policy (b : BlockNo) (f : Block → Block) : (modBlock b f s).policy = s.policy := rfl
@[simp] theorem modBlock_direct (b : BlockNo) (f : Block → Block) : (modBlock b f s).direct = s.direct := rfl
@[simp] theorem modBlock_check (b : BlockNo) (f : Block → Block) : (modBlock b f s).check = s.check := rfl
@[simp] theorem modBlock_service (b : BlockNo) (f : Block → Block) : (modBlock b f s).service = s.service := rfl
@[simp] theorem modBlock_sequence (b : BlockNo) (f : Block → Block) : (modBlock b f s).sequence = s.sequence := rfl
@[simp] theorem modBlock_memory (b : BlockNo) (f : Block → Block) : (modBlock b f s).memory = s.memory := rfl
@[simp] theorem modBlock_management (b : BlockNo) (f : Block → Block) :
    (modBlock b f s).management = s.management := rfl
@[simp] theorem modBlock_port (b : BlockNo) (f : Block → Block) : (modBlock b f s).port = s.port := rfl

/-! ### modBinding -/

@[simp] theorem modBinding_now (f : Binding → Binding) : (modBinding f s).now = s.now := rfl
@[simp] theorem modBinding_pending (f : Binding → Binding) : (modBinding f s).pending = s.pending := rfl
@[simp] theorem modBinding_notices (f : Binding → Binding) : (modBinding f s).notices = s.notices := rfl
@[simp] theorem modBinding_freeCount (f : Binding → Binding) : (modBinding f s).freeCount = s.freeCount := rfl
@[simp] theorem modBinding_decoder (f : Binding → Binding) : (modBinding f s).decoder = s.decoder := rfl
@[simp] theorem modBinding_settings (f : Binding → Binding) : (modBinding f s).settings = s.settings := rfl
@[simp] theorem modBinding_line (f : Binding → Binding) : (modBinding f s).line = s.line := rfl
@[simp] theorem modBinding_consist (f : Binding → Binding) : (modBinding f s).consist = s.consist := rfl
@[simp] theorem modBinding_delivery (f : Binding → Binding) : (modBinding f s).delivery = s.delivery := rfl
@[simp] theorem modBinding_policy (f : Binding → Binding) : (modBinding f s).policy = s.policy := rfl
@[simp] theorem modBinding_direct (f : Binding → Binding) : (modBinding f s).direct = s.direct := rfl
@[simp] theorem modBinding_check (f : Binding → Binding) : (modBinding f s).check = s.check := rfl
@[simp] theorem modBinding_service (f : Binding → Binding) : (modBinding f s).service = s.service := rfl
@[simp] theorem modBinding_sequence (f : Binding → Binding) : (modBinding f s).sequence = s.sequence := rfl
@[simp] theorem modBinding_memory (f : Binding → Binding) : (modBinding f s).memory = s.memory := rfl
@[simp] theorem modBinding_management (f : Binding → Binding) : (modBinding f s).management = s.management := rfl
@[simp] theorem modBinding_port (f : Binding → Binding) : (modBinding f s).port = s.port := rfl

/-! ### modLine -/

@[simp] theorem modLine_now (k : LineNo) (f : Line → Line) : (modLine k f s).now = s.now := rfl
@[simp] theorem modLine_pending (k : LineNo) (f : Line → Line) : (modLine k f s).pending = s.pending := rfl
@[simp] theorem modLine_notices (k : LineNo) (f : Line → Line) : (modLine k f s).notices = s.notices := rfl
@[simp] theorem modLine_freeCount (k : LineNo) (f : Line → Line) : (modLine k f s).freeCount = s.freeCount := rfl
@[simp] theorem modLine_decoder (k : LineNo) (f : Line → Line) : (modLine k f s).decoder = s.decoder := rfl
@[simp] theorem modLine_settings (k : LineNo) (f : Line → Line) : (modLine k f s).settings = s.settings := rfl
@[simp] theorem modLine_line (k : LineNo) (f : Line → Line) : (modLine k f s).line = s.line := rfl
@[simp] theorem modLine_consist (k : LineNo) (f : Line → Line) : (modLine k f s).consist = s.consist := rfl
@[simp] theorem modLine_binding (k : LineNo) (f : Line → Line) : (modLine k f s).binding = s.binding := rfl
@[simp] theorem modLine_delivery (k : LineNo) (f : Line → Line) : (modLine k f s).delivery = s.delivery := rfl
@[simp] theorem modLine_policy (k : LineNo) (f : Line → Line) : (modLine k f s).policy = s.policy := rfl
@[simp] theorem modLine_check (k : LineNo) (f : Line → Line) : (modLine k f s).check = s.check := rfl
@[simp] theorem modLine_service (k : LineNo) (f : Line → Line) : (modLine k f s).service = s.service := rfl
@[simp] theorem modLine_sequence (k : LineNo) (f : Line → Line) : (modLine k f s).sequence = s.sequence := rfl
@[simp] theorem modLine_memory (k : LineNo) (f : Line → Line) : (modLine k f s).memory = s.memory := rfl
@[simp] theorem modLine_management (k : LineNo) (f : Line → Line) : (modLine k f s).management = s.management := rfl
@[simp] theorem modLine_port (k : LineNo) (f : Line → Line) : (modLine k f s).port = s.port := rfl

/-! ### modWired -/

@[simp] theorem modWired_now (k : LineNo) (f : WiredEntry → WiredEntry) : (modWired k f s).now = s.now := rfl
@[simp] theorem modWired_pending (k : LineNo) (f : WiredEntry → WiredEntry) :
    (modWired k f s).pending = s.pending := rfl
@[simp] theorem modWired_notices (k : LineNo) (f : WiredEntry → WiredEntry) :
    (modWired k f s).notices = s.notices := rfl
@[simp] theorem modWired_freeCount (k : LineNo) (f : WiredEntry → WiredEntry) :
    (modWired k f s).freeCount = s.freeCount := rfl
@[simp] theorem modWired_decoder (k : LineNo) (f : WiredEntry → WiredEntry) :
    (modWired k f s).decoder = s.decoder := rfl
@[simp] theorem modWired_settings (k : LineNo) (f : WiredEntry → WiredEntry) :
    (modWired k f s).settings = s.settings := rfl
@[simp] theorem modWired_line (k : LineNo) (f : WiredEntry → WiredEntry) : (modWired k f s).line = s.line := rfl
@[simp] theorem modWired_consist (k : LineNo) (f : WiredEntry → WiredEntry) :
    (modWired k f s).consist = s.consist := rfl
@[simp] theorem modWired_binding (k : LineNo) (f : WiredEntry → WiredEntry) :
    (modWired k f s).binding = s.binding := rfl
@[simp] theorem modWired_delivery (k : LineNo) (f : WiredEntry → WiredEntry) :
    (modWired k f s).delivery = s.delivery := rfl
@[simp] theorem modWired_policy (k : LineNo) (f : WiredEntry → WiredEntry) : (modWired k f s).policy = s.policy := rfl
@[simp] theorem modWired_check (k : LineNo) (f : WiredEntry → WiredEntry) : (modWired k f s).check = s.check := rfl
@[simp] theorem modWired_service (k : LineNo) (f : WiredEntry → WiredEntry) :
    (modWired k f s).service = s.service := rfl
@[simp] theorem modWired_sequence (k : LineNo) (f : WiredEntry → WiredEntry) :
    (modWired k f s).sequence = s.sequence := rfl
@[simp] theorem modWired_memory (k : LineNo) (f : WiredEntry → WiredEntry) : (modWired k f s).memory = s.memory := rfl
@[simp] theorem modWired_management (k : LineNo) (f : WiredEntry → WiredEntry) :
    (modWired k f s).management = s.management := rfl
@[simp] theorem modWired_port (k : LineNo) (f : WiredEntry → WiredEntry) : (modWired k f s).port = s.port := rfl

/-! ### modTimebase -/

@[simp] theorem modTimebase_now (t : TbName) (f : Timebase → Timebase) :
    (modTimebase t f s).now = s.now := by cases t <;> rfl
@[simp] theorem modTimebase_pending (t : TbName) (f : Timebase → Timebase) :
    (modTimebase t f s).pending = s.pending := by cases t <;> rfl
@[simp] theorem modTimebase_notices (t : TbName) (f : Timebase → Timebase) :
    (modTimebase t f s).notices = s.notices := by cases t <;> rfl
@[simp] theorem modTimebase_freeCount (t : TbName) (f : Timebase → Timebase) :
    (modTimebase t f s).freeCount = s.freeCount := by cases t <;> rfl
@[simp] theorem modTimebase_decoder (t : TbName) (f : Timebase → Timebase) :
    (modTimebase t f s).decoder = s.decoder := by cases t <;> rfl
@[simp] theorem modTimebase_settings (t : TbName) (f : Timebase → Timebase) :
    (modTimebase t f s).settings = s.settings := by cases t <;> rfl
@[simp] theorem modTimebase_line (t : TbName) (f : Timebase → Timebase) :
    (modTimebase t f s).line = s.line := by cases t <;> rfl
@[simp] theorem modTimebase_consist (t : TbName) (f : Timebase → Timebase) :
    (modTimebase t f s).consist = s.consist := by cases t <;> rfl
@[simp] theorem modTimebase_binding (t : TbName) (f : Timebase → Timebase) :
    (modTimebase t f s).binding = s.binding := by cases t <;> rfl
@[simp] theorem modTimebase_delivery (t : TbName) (f : Timebase → Timebase) :
    (modTimebase t f s).delivery = s.delivery := by cases t <;> rfl
@[simp] theorem modTimebase_policy (t : TbName) (f : Timebase → Timebase) :
    (modTimebase t f s).policy = s.policy := by cases t <;> rfl
@[simp] theorem modTimebase_check (t : TbName) (f : Timebase → Timebase) :
    (modTimebase t f s).check = s.check := by cases t <;> rfl
@[simp] theorem modTimebase_service (t : TbName) (f : Timebase → Timebase) :
    (modTimebase t f s).service = s.service := by cases t <;> rfl
@[simp] theorem modTimebase_sequence (t : TbName) (f : Timebase → Timebase) :
    (modTimebase t f s).sequence = s.sequence := by cases t <;> rfl
@[simp] theorem modTimebase_memory (t : TbName) (f : Timebase → Timebase) :
    (modTimebase t f s).memory = s.memory := by cases t <;> rfl
@[simp] theorem modTimebase_management (t : TbName) (f : Timebase → Timebase) :
    (modTimebase t f s).management = s.management := by cases t <;> rfl
@[simp] theorem modTimebase_port (t : TbName) (f : Timebase → Timebase) :
    (modTimebase t f s).port = s.port := by cases t <;> rfl

/-! ### setGroupTrip -/

@[simp] theorem setGroupTrip_now (g : FaultGroup) (v : Bool) : (setGroupTrip g v s).now = s.now := by cases g <;> rfl
@[simp] theorem setGroupTrip_pending (g : FaultGroup) (v : Bool) :
    (setGroupTrip g v s).pending = s.pending := by cases g <;> rfl
@[simp] theorem setGroupTrip_notices (g : FaultGroup) (v : Bool) :
    (setGroupTrip g v s).notices = s.notices := by cases g <;> rfl
@[simp] theorem setGroupTrip_freeCount (g : FaultGroup) (v : Bool) :
    (setGroupTrip g v s).freeCount = s.freeCount := by cases g <;> rfl
@[simp] theorem setGroupTrip_decoder (g : FaultGroup) (v : Bool) :
    (setGroupTrip g v s).decoder = s.decoder := by cases g <;> rfl
@[simp] theorem setGroupTrip_settings (g : FaultGroup) (v : Bool) :
    (setGroupTrip g v s).settings = s.settings := by cases g <;> rfl
@[simp] theorem setGroupTrip_line (g : FaultGroup) (v : Bool) : (setGroupTrip g v s).line = s.line := by cases g <;> rfl
@[simp] theorem setGroupTrip_consist (g : FaultGroup) (v : Bool) :
    (setGroupTrip g v s).consist = s.consist := by cases g <;> rfl
@[simp] theorem setGroupTrip_binding (g : FaultGroup) (v : Bool) :
    (setGroupTrip g v s).binding = s.binding := by cases g <;> rfl
@[simp] theorem setGroupTrip_delivery (g : FaultGroup) (v : Bool) :
    (setGroupTrip g v s).delivery = s.delivery := by cases g <;> rfl
@[simp] theorem setGroupTrip_policy (g : FaultGroup) (v : Bool) :
    (setGroupTrip g v s).policy = s.policy := by cases g <;> rfl
@[simp] theorem setGroupTrip_check (g : FaultGroup) (v : Bool) :
    (setGroupTrip g v s).check = s.check := by cases g <;> rfl
@[simp] theorem setGroupTrip_service (g : FaultGroup) (v : Bool) :
    (setGroupTrip g v s).service = s.service := by cases g <;> rfl
@[simp] theorem setGroupTrip_sequence (g : FaultGroup) (v : Bool) :
    (setGroupTrip g v s).sequence = s.sequence := by cases g <;> rfl
@[simp] theorem setGroupTrip_memory (g : FaultGroup) (v : Bool) :
    (setGroupTrip g v s).memory = s.memory := by cases g <;> rfl
@[simp] theorem setGroupTrip_management (g : FaultGroup) (v : Bool) :
    (setGroupTrip g v s).management = s.management := by cases g <;> rfl
@[simp] theorem setGroupTrip_port (g : FaultGroup) (v : Bool) : (setGroupTrip g v s).port = s.port := by cases g <;> rfl

/-! ### setFaultInput -/

@[simp] theorem setFaultInput_now (g : FaultGroup) (v : Bool) : (setFaultInput g v s).now = s.now := by cases g <;> rfl
@[simp] theorem setFaultInput_pending (g : FaultGroup) (v : Bool) :
    (setFaultInput g v s).pending = s.pending := by cases g <;> rfl
@[simp] theorem setFaultInput_notices (g : FaultGroup) (v : Bool) :
    (setFaultInput g v s).notices = s.notices := by cases g <;> rfl
@[simp] theorem setFaultInput_freeCount (g : FaultGroup) (v : Bool) :
    (setFaultInput g v s).freeCount = s.freeCount := by cases g <;> rfl
@[simp] theorem setFaultInput_decoder (g : FaultGroup) (v : Bool) :
    (setFaultInput g v s).decoder = s.decoder := by cases g <;> rfl
@[simp] theorem setFaultInput_settings (g : FaultGroup) (v : Bool) :
    (setFaultInput g v s).settings = s.settings := by cases g <;> rfl
@[simp] theorem setFaultInput_line (g : FaultGroup) (v : Bool) :
    (setFaultInput g v s).line = s.line := by cases g <;> rfl
@[simp] theorem setFaultInput_consist (g : FaultGroup) (v : Bool) :
    (setFaultInput g v s).consist = s.consist := by cases g <;> rfl
@[simp] theorem setFaultInput_binding (g : FaultGroup) (v : Bool) :
    (setFaultInput g v s).binding = s.binding := by cases g <;> rfl
@[simp] theorem setFaultInput_delivery (g : FaultGroup) (v : Bool) :
    (setFaultInput g v s).delivery = s.delivery := by cases g <;> rfl
@[simp] theorem setFaultInput_policy (g : FaultGroup) (v : Bool) :
    (setFaultInput g v s).policy = s.policy := by cases g <;> rfl
@[simp] theorem setFaultInput_check (g : FaultGroup) (v : Bool) :
    (setFaultInput g v s).check = s.check := by cases g <;> rfl
@[simp] theorem setFaultInput_service (g : FaultGroup) (v : Bool) :
    (setFaultInput g v s).service = s.service := by cases g <;> rfl
@[simp] theorem setFaultInput_sequence (g : FaultGroup) (v : Bool) :
    (setFaultInput g v s).sequence = s.sequence := by cases g <;> rfl
@[simp] theorem setFaultInput_memory (g : FaultGroup) (v : Bool) :
    (setFaultInput g v s).memory = s.memory := by cases g <;> rfl
@[simp] theorem setFaultInput_management (g : FaultGroup) (v : Bool) :
    (setFaultInput g v s).management = s.management := by cases g <;> rfl
@[simp] theorem setFaultInput_port (g : FaultGroup) (v : Bool) :
    (setFaultInput g v s).port = s.port := by cases g <;> rfl

/-! ### modCircuit -/

@[simp] theorem modCircuit_now (k : LineNo) (f : Circuit → Circuit) : (modCircuit k f s).now = s.now := rfl
@[simp] theorem modCircuit_pending (k : LineNo) (f : Circuit → Circuit) : (modCircuit k f s).pending = s.pending := rfl
@[simp] theorem modCircuit_notices (k : LineNo) (f : Circuit → Circuit) : (modCircuit k f s).notices = s.notices := rfl
@[simp] theorem modCircuit_freeCount (k : LineNo) (f : Circuit → Circuit) :
    (modCircuit k f s).freeCount = s.freeCount := rfl
@[simp] theorem modCircuit_decoder (k : LineNo) (f : Circuit → Circuit) : (modCircuit k f s).decoder = s.decoder := rfl
@[simp] theorem modCircuit_settings (k : LineNo) (f : Circuit → Circuit) :
    (modCircuit k f s).settings = s.settings := rfl
@[simp] theorem modCircuit_line (k : LineNo) (f : Circuit → Circuit) : (modCircuit k f s).line = s.line := rfl
@[simp] theorem modCircuit_consist (k : LineNo) (f : Circuit → Circuit) : (modCircuit k f s).consist = s.consist := rfl
@[simp] theorem modCircuit_binding (k : LineNo) (f : Circuit → Circuit) : (modCircuit k f s).binding = s.binding := rfl
@[simp] theorem modCircuit_delivery (k : LineNo) (f : Circuit → Circuit) :
    (modCircuit k f s).delivery = s.delivery := rfl
@[simp] theorem modCircuit_policy (k : LineNo) (f : Circuit → Circuit) : (modCircuit k f s).policy = s.policy := rfl
@[simp] theorem modCircuit_direct (k : LineNo) (f : Circuit → Circuit) : (modCircuit k f s).direct = s.direct := rfl
@[simp] theorem modCircuit_service (k : LineNo) (f : Circuit → Circuit) : (modCircuit k f s).service = s.service := rfl
@[simp] theorem modCircuit_sequence (k : LineNo) (f : Circuit → Circuit) :
    (modCircuit k f s).sequence = s.sequence := rfl
@[simp] theorem modCircuit_memory (k : LineNo) (f : Circuit → Circuit) : (modCircuit k f s).memory = s.memory := rfl
@[simp] theorem modCircuit_management (k : LineNo) (f : Circuit → Circuit) :
    (modCircuit k f s).management = s.management := rfl
@[simp] theorem modCircuit_port (k : LineNo) (f : Circuit → Circuit) : (modCircuit k f s).port = s.port := rfl

/-! ### setNodeCheck -/

@[simp] theorem setNodeCheck_now (p : Pos) (src : CheckSource) (x : Option NodeLampCheck) :
    (setNodeCheck p src x s).now = s.now := by cases src <;> rfl
@[simp] theorem setNodeCheck_pending (p : Pos) (src : CheckSource) (x : Option NodeLampCheck) :
    (setNodeCheck p src x s).pending = s.pending := by cases src <;> rfl
@[simp] theorem setNodeCheck_notices (p : Pos) (src : CheckSource) (x : Option NodeLampCheck) :
    (setNodeCheck p src x s).notices = s.notices := by cases src <;> rfl
@[simp] theorem setNodeCheck_freeCount (p : Pos) (src : CheckSource) (x : Option NodeLampCheck) :
    (setNodeCheck p src x s).freeCount = s.freeCount := by cases src <;> rfl
@[simp] theorem setNodeCheck_decoder (p : Pos) (src : CheckSource) (x : Option NodeLampCheck) :
    (setNodeCheck p src x s).decoder = s.decoder := by cases src <;> rfl
@[simp] theorem setNodeCheck_settings (p : Pos) (src : CheckSource) (x : Option NodeLampCheck) :
    (setNodeCheck p src x s).settings = s.settings := by cases src <;> rfl
@[simp] theorem setNodeCheck_line (p : Pos) (src : CheckSource) (x : Option NodeLampCheck) :
    (setNodeCheck p src x s).line = s.line := by cases src <;> rfl
@[simp] theorem setNodeCheck_consist (p : Pos) (src : CheckSource) (x : Option NodeLampCheck) :
    (setNodeCheck p src x s).consist = s.consist := by cases src <;> rfl
@[simp] theorem setNodeCheck_binding (p : Pos) (src : CheckSource) (x : Option NodeLampCheck) :
    (setNodeCheck p src x s).binding = s.binding := by cases src <;> rfl
@[simp] theorem setNodeCheck_delivery (p : Pos) (src : CheckSource) (x : Option NodeLampCheck) :
    (setNodeCheck p src x s).delivery = s.delivery := by cases src <;> rfl
@[simp] theorem setNodeCheck_policy (p : Pos) (src : CheckSource) (x : Option NodeLampCheck) :
    (setNodeCheck p src x s).policy = s.policy := by cases src <;> rfl
@[simp] theorem setNodeCheck_direct (p : Pos) (src : CheckSource) (x : Option NodeLampCheck) :
    (setNodeCheck p src x s).direct = s.direct := by cases src <;> rfl
@[simp] theorem setNodeCheck_service (p : Pos) (src : CheckSource) (x : Option NodeLampCheck) :
    (setNodeCheck p src x s).service = s.service := by cases src <;> rfl
@[simp] theorem setNodeCheck_sequence (p : Pos) (src : CheckSource) (x : Option NodeLampCheck) :
    (setNodeCheck p src x s).sequence = s.sequence := by cases src <;> rfl
@[simp] theorem setNodeCheck_memory (p : Pos) (src : CheckSource) (x : Option NodeLampCheck) :
    (setNodeCheck p src x s).memory = s.memory := by cases src <;> rfl
@[simp] theorem setNodeCheck_management (p : Pos) (src : CheckSource) (x : Option NodeLampCheck) :
    (setNodeCheck p src x s).management = s.management := by cases src <;> rfl
@[simp] theorem setNodeCheck_port (p : Pos) (src : CheckSource) (x : Option NodeLampCheck) :
    (setNodeCheck p src x s).port = s.port := by cases src <;> rfl

/-! ### setExQueue -/

@[simp] theorem setExQueue_now (q : List QueueEntry) : (setExQueue q s).now = s.now := rfl
@[simp] theorem setExQueue_pending (q : List QueueEntry) : (setExQueue q s).pending = s.pending := rfl
@[simp] theorem setExQueue_notices (q : List QueueEntry) : (setExQueue q s).notices = s.notices := rfl
@[simp] theorem setExQueue_freeCount (q : List QueueEntry) : (setExQueue q s).freeCount = s.freeCount := rfl
@[simp] theorem setExQueue_decoder (q : List QueueEntry) : (setExQueue q s).decoder = s.decoder := rfl
@[simp] theorem setExQueue_settings (q : List QueueEntry) : (setExQueue q s).settings = s.settings := rfl
@[simp] theorem setExQueue_line (q : List QueueEntry) : (setExQueue q s).line = s.line := rfl
@[simp] theorem setExQueue_consist (q : List QueueEntry) : (setExQueue q s).consist = s.consist := rfl
@[simp] theorem setExQueue_binding (q : List QueueEntry) : (setExQueue q s).binding = s.binding := rfl
@[simp] theorem setExQueue_delivery (q : List QueueEntry) : (setExQueue q s).delivery = s.delivery := rfl
@[simp] theorem setExQueue_policy (q : List QueueEntry) : (setExQueue q s).policy = s.policy := rfl
@[simp] theorem setExQueue_direct (q : List QueueEntry) : (setExQueue q s).direct = s.direct := rfl
@[simp] theorem setExQueue_service (q : List QueueEntry) : (setExQueue q s).service = s.service := rfl
@[simp] theorem setExQueue_sequence (q : List QueueEntry) : (setExQueue q s).sequence = s.sequence := rfl
@[simp] theorem setExQueue_memory (q : List QueueEntry) : (setExQueue q s).memory = s.memory := rfl
@[simp] theorem setExQueue_management (q : List QueueEntry) : (setExQueue q s).management = s.management := rfl
@[simp] theorem setExQueue_port (q : List QueueEntry) : (setExQueue q s).port = s.port := rfl

/-! ### setSlot -/

@[simp] theorem setSlot_now (x : Option Slot) : (setSlot x s).now = s.now := rfl
@[simp] theorem setSlot_pending (x : Option Slot) : (setSlot x s).pending = s.pending := rfl
@[simp] theorem setSlot_notices (x : Option Slot) : (setSlot x s).notices = s.notices := rfl
@[simp] theorem setSlot_freeCount (x : Option Slot) : (setSlot x s).freeCount = s.freeCount := rfl
@[simp] theorem setSlot_decoder (x : Option Slot) : (setSlot x s).decoder = s.decoder := rfl
@[simp] theorem setSlot_settings (x : Option Slot) : (setSlot x s).settings = s.settings := rfl
@[simp] theorem setSlot_line (x : Option Slot) : (setSlot x s).line = s.line := rfl
@[simp] theorem setSlot_consist (x : Option Slot) : (setSlot x s).consist = s.consist := rfl
@[simp] theorem setSlot_binding (x : Option Slot) : (setSlot x s).binding = s.binding := rfl
@[simp] theorem setSlot_delivery (x : Option Slot) : (setSlot x s).delivery = s.delivery := rfl
@[simp] theorem setSlot_policy (x : Option Slot) : (setSlot x s).policy = s.policy := rfl
@[simp] theorem setSlot_direct (x : Option Slot) : (setSlot x s).direct = s.direct := rfl
@[simp] theorem setSlot_service (x : Option Slot) : (setSlot x s).service = s.service := rfl
@[simp] theorem setSlot_sequence (x : Option Slot) : (setSlot x s).sequence = s.sequence := rfl
@[simp] theorem setSlot_memory (x : Option Slot) : (setSlot x s).memory = s.memory := rfl
@[simp] theorem setSlot_management (x : Option Slot) : (setSlot x s).management = s.management := rfl
@[simp] theorem setSlot_port (x : Option Slot) : (setSlot x s).port = s.port := rfl

/-! ### setRebuild -/

@[simp] theorem setRebuild_now (r : Option Rebuild) : (setRebuild r s).now = s.now := rfl
@[simp] theorem setRebuild_pending (r : Option Rebuild) : (setRebuild r s).pending = s.pending := rfl
@[simp] theorem setRebuild_notices (r : Option Rebuild) : (setRebuild r s).notices = s.notices := rfl
@[simp] theorem setRebuild_freeCount (r : Option Rebuild) : (setRebuild r s).freeCount = s.freeCount := rfl
@[simp] theorem setRebuild_decoder (r : Option Rebuild) : (setRebuild r s).decoder = s.decoder := rfl
@[simp] theorem setRebuild_settings (r : Option Rebuild) : (setRebuild r s).settings = s.settings := rfl
@[simp] theorem setRebuild_line (r : Option Rebuild) : (setRebuild r s).line = s.line := rfl
@[simp] theorem setRebuild_consist (r : Option Rebuild) : (setRebuild r s).consist = s.consist := rfl
@[simp] theorem setRebuild_binding (r : Option Rebuild) : (setRebuild r s).binding = s.binding := rfl
@[simp] theorem setRebuild_delivery (r : Option Rebuild) : (setRebuild r s).delivery = s.delivery := rfl
@[simp] theorem setRebuild_policy (r : Option Rebuild) : (setRebuild r s).policy = s.policy := rfl
@[simp] theorem setRebuild_direct (r : Option Rebuild) : (setRebuild r s).direct = s.direct := rfl
@[simp] theorem setRebuild_service (r : Option Rebuild) : (setRebuild r s).service = s.service := rfl
@[simp] theorem setRebuild_sequence (r : Option Rebuild) : (setRebuild r s).sequence = s.sequence := rfl
@[simp] theorem setRebuild_memory (r : Option Rebuild) : (setRebuild r s).memory = s.memory := rfl
@[simp] theorem setRebuild_management (r : Option Rebuild) : (setRebuild r s).management = s.management := rfl
@[simp] theorem setRebuild_port (r : Option Rebuild) : (setRebuild r s).port = s.port := rfl

/-! ### modRebuild -/

@[simp] theorem modRebuild_now (f : Rebuild → Rebuild) : (modRebuild f s).now = s.now := rfl
@[simp] theorem modRebuild_pending (f : Rebuild → Rebuild) : (modRebuild f s).pending = s.pending := rfl
@[simp] theorem modRebuild_notices (f : Rebuild → Rebuild) : (modRebuild f s).notices = s.notices := rfl
@[simp] theorem modRebuild_freeCount (f : Rebuild → Rebuild) : (modRebuild f s).freeCount = s.freeCount := rfl
@[simp] theorem modRebuild_decoder (f : Rebuild → Rebuild) : (modRebuild f s).decoder = s.decoder := rfl
@[simp] theorem modRebuild_settings (f : Rebuild → Rebuild) : (modRebuild f s).settings = s.settings := rfl
@[simp] theorem modRebuild_line (f : Rebuild → Rebuild) : (modRebuild f s).line = s.line := rfl
@[simp] theorem modRebuild_consist (f : Rebuild → Rebuild) : (modRebuild f s).consist = s.consist := rfl
@[simp] theorem modRebuild_binding (f : Rebuild → Rebuild) : (modRebuild f s).binding = s.binding := rfl
@[simp] theorem modRebuild_delivery (f : Rebuild → Rebuild) : (modRebuild f s).delivery = s.delivery := rfl
@[simp] theorem modRebuild_policy (f : Rebuild → Rebuild) : (modRebuild f s).policy = s.policy := rfl
@[simp] theorem modRebuild_direct (f : Rebuild → Rebuild) : (modRebuild f s).direct = s.direct := rfl
@[simp] theorem modRebuild_service (f : Rebuild → Rebuild) : (modRebuild f s).service = s.service := rfl
@[simp] theorem modRebuild_sequence (f : Rebuild → Rebuild) : (modRebuild f s).sequence = s.sequence := rfl
@[simp] theorem modRebuild_memory (f : Rebuild → Rebuild) : (modRebuild f s).memory = s.memory := rfl
@[simp] theorem modRebuild_management (f : Rebuild → Rebuild) : (modRebuild f s).management = s.management := rfl
@[simp] theorem modRebuild_port (f : Rebuild → Rebuild) : (modRebuild f s).port = s.port := rfl

/-! ### setPending -/

@[simp] theorem setPending_now (p : Pos) (fs : List Code) : (setPending p fs s).now = s.now := rfl
@[simp] theorem setPending_pending (p : Pos) (fs : List Code) : (setPending p fs s).pending = s.pending := rfl
@[simp] theorem setPending_notices (p : Pos) (fs : List Code) : (setPending p fs s).notices = s.notices := rfl
@[simp] theorem setPending_freeCount (p : Pos) (fs : List Code) : (setPending p fs s).freeCount = s.freeCount := rfl
@[simp] theorem setPending_decoder (p : Pos) (fs : List Code) : (setPending p fs s).decoder = s.decoder := rfl
@[simp] theorem setPending_settings (p : Pos) (fs : List Code) : (setPending p fs s).settings = s.settings := rfl
@[simp] theorem setPending_line (p : Pos) (fs : List Code) : (setPending p fs s).line = s.line := rfl
@[simp] theorem setPending_consist (p : Pos) (fs : List Code) : (setPending p fs s).consist = s.consist := rfl
@[simp] theorem setPending_binding (p : Pos) (fs : List Code) : (setPending p fs s).binding = s.binding := rfl
@[simp] theorem setPending_delivery (p : Pos) (fs : List Code) : (setPending p fs s).delivery = s.delivery := rfl
@[simp] theorem setPending_policy (p : Pos) (fs : List Code) : (setPending p fs s).policy = s.policy := rfl
@[simp] theorem setPending_direct (p : Pos) (fs : List Code) : (setPending p fs s).direct = s.direct := rfl
@[simp] theorem setPending_service (p : Pos) (fs : List Code) : (setPending p fs s).service = s.service := rfl
@[simp] theorem setPending_sequence (p : Pos) (fs : List Code) : (setPending p fs s).sequence = s.sequence := rfl
@[simp] theorem setPending_memory (p : Pos) (fs : List Code) : (setPending p fs s).memory = s.memory := rfl
@[simp] theorem setPending_management (p : Pos) (fs : List Code) : (setPending p fs s).management = s.management := rfl
@[simp] theorem setPending_port (p : Pos) (fs : List Code) : (setPending p fs s).port = s.port := rfl

/-! ### modService -/

@[simp] theorem modService_now (f : Service → Service) : (modService f s).now = s.now := rfl
@[simp] theorem modService_pending (f : Service → Service) : (modService f s).pending = s.pending := rfl
@[simp] theorem modService_notices (f : Service → Service) : (modService f s).notices = s.notices := rfl
@[simp] theorem modService_freeCount (f : Service → Service) : (modService f s).freeCount = s.freeCount := rfl
@[simp] theorem modService_decoder (f : Service → Service) : (modService f s).decoder = s.decoder := rfl
@[simp] theorem modService_settings (f : Service → Service) : (modService f s).settings = s.settings := rfl
@[simp] theorem modService_line (f : Service → Service) : (modService f s).line = s.line := rfl
@[simp] theorem modService_consist (f : Service → Service) : (modService f s).consist = s.consist := rfl
@[simp] theorem modService_binding (f : Service → Service) : (modService f s).binding = s.binding := rfl
@[simp] theorem modService_delivery (f : Service → Service) : (modService f s).delivery = s.delivery := rfl
@[simp] theorem modService_policy (f : Service → Service) : (modService f s).policy = s.policy := rfl
@[simp] theorem modService_direct (f : Service → Service) : (modService f s).direct = s.direct := rfl
@[simp] theorem modService_check (f : Service → Service) : (modService f s).check = s.check := rfl
@[simp] theorem modService_sequence (f : Service → Service) : (modService f s).sequence = s.sequence := rfl
@[simp] theorem modService_memory (f : Service → Service) : (modService f s).memory = s.memory := rfl
@[simp] theorem modService_management (f : Service → Service) : (modService f s).management = s.management := rfl
@[simp] theorem modService_port (f : Service → Service) : (modService f s).port = s.port := rfl

/-! ### modRound -/

@[simp] theorem modRound_now (p : Pos) (f : Round → Round) : (modRound p f s).now = s.now := rfl
@[simp] theorem modRound_pending (p : Pos) (f : Round → Round) : (modRound p f s).pending = s.pending := rfl
@[simp] theorem modRound_notices (p : Pos) (f : Round → Round) : (modRound p f s).notices = s.notices := rfl
@[simp] theorem modRound_freeCount (p : Pos) (f : Round → Round) : (modRound p f s).freeCount = s.freeCount := rfl
@[simp] theorem modRound_decoder (p : Pos) (f : Round → Round) : (modRound p f s).decoder = s.decoder := rfl
@[simp] theorem modRound_settings (p : Pos) (f : Round → Round) : (modRound p f s).settings = s.settings := rfl
@[simp] theorem modRound_line (p : Pos) (f : Round → Round) : (modRound p f s).line = s.line := rfl
@[simp] theorem modRound_consist (p : Pos) (f : Round → Round) : (modRound p f s).consist = s.consist := rfl
@[simp] theorem modRound_binding (p : Pos) (f : Round → Round) : (modRound p f s).binding = s.binding := rfl
@[simp] theorem modRound_delivery (p : Pos) (f : Round → Round) : (modRound p f s).delivery = s.delivery := rfl
@[simp] theorem modRound_policy (p : Pos) (f : Round → Round) : (modRound p f s).policy = s.policy := rfl
@[simp] theorem modRound_direct (p : Pos) (f : Round → Round) : (modRound p f s).direct = s.direct := rfl
@[simp] theorem modRound_check (p : Pos) (f : Round → Round) : (modRound p f s).check = s.check := rfl
@[simp] theorem modRound_sequence (p : Pos) (f : Round → Round) : (modRound p f s).sequence = s.sequence := rfl
@[simp] theorem modRound_memory (p : Pos) (f : Round → Round) : (modRound p f s).memory = s.memory := rfl
@[simp] theorem modRound_management (p : Pos) (f : Round → Round) : (modRound p f s).management = s.management := rfl
@[simp] theorem modRound_port (p : Pos) (f : Round → Round) : (modRound p f s).port = s.port := rfl

/-! ### modSeq -/

@[simp] theorem modSeq_now (f : Sequence → Sequence) : (modSeq f s).now = s.now := rfl
@[simp] theorem modSeq_pending (f : Sequence → Sequence) : (modSeq f s).pending = s.pending := rfl
@[simp] theorem modSeq_notices (f : Sequence → Sequence) : (modSeq f s).notices = s.notices := rfl
@[simp] theorem modSeq_freeCount (f : Sequence → Sequence) : (modSeq f s).freeCount = s.freeCount := rfl
@[simp] theorem modSeq_decoder (f : Sequence → Sequence) : (modSeq f s).decoder = s.decoder := rfl
@[simp] theorem modSeq_settings (f : Sequence → Sequence) : (modSeq f s).settings = s.settings := rfl
@[simp] theorem modSeq_line (f : Sequence → Sequence) : (modSeq f s).line = s.line := rfl
@[simp] theorem modSeq_consist (f : Sequence → Sequence) : (modSeq f s).consist = s.consist := rfl
@[simp] theorem modSeq_binding (f : Sequence → Sequence) : (modSeq f s).binding = s.binding := rfl
@[simp] theorem modSeq_delivery (f : Sequence → Sequence) : (modSeq f s).delivery = s.delivery := rfl
@[simp] theorem modSeq_policy (f : Sequence → Sequence) : (modSeq f s).policy = s.policy := rfl
@[simp] theorem modSeq_direct (f : Sequence → Sequence) : (modSeq f s).direct = s.direct := rfl
@[simp] theorem modSeq_check (f : Sequence → Sequence) : (modSeq f s).check = s.check := rfl
@[simp] theorem modSeq_service (f : Sequence → Sequence) : (modSeq f s).service = s.service := rfl
@[simp] theorem modSeq_memory (f : Sequence → Sequence) : (modSeq f s).memory = s.memory := rfl
@[simp] theorem modSeq_management (f : Sequence → Sequence) : (modSeq f s).management = s.management := rfl
@[simp] theorem modSeq_port (f : Sequence → Sequence) : (modSeq f s).port = s.port := rfl

/-! ### modMemory -/

@[simp] theorem modMemory_now (f : Memory → Memory) : (modMemory f s).now = s.now := rfl
@[simp] theorem modMemory_pending (f : Memory → Memory) : (modMemory f s).pending = s.pending := rfl
@[simp] theorem modMemory_notices (f : Memory → Memory) : (modMemory f s).notices = s.notices := rfl
@[simp] theorem modMemory_freeCount (f : Memory → Memory) : (modMemory f s).freeCount = s.freeCount := rfl
@[simp] theorem modMemory_decoder (f : Memory → Memory) : (modMemory f s).decoder = s.decoder := rfl
@[simp] theorem modMemory_settings (f : Memory → Memory) : (modMemory f s).settings = s.settings := rfl
@[simp] theorem modMemory_line (f : Memory → Memory) : (modMemory f s).line = s.line := rfl
@[simp] theorem modMemory_consist (f : Memory → Memory) : (modMemory f s).consist = s.consist := rfl
@[simp] theorem modMemory_binding (f : Memory → Memory) : (modMemory f s).binding = s.binding := rfl
@[simp] theorem modMemory_delivery (f : Memory → Memory) : (modMemory f s).delivery = s.delivery := rfl
@[simp] theorem modMemory_policy (f : Memory → Memory) : (modMemory f s).policy = s.policy := rfl
@[simp] theorem modMemory_direct (f : Memory → Memory) : (modMemory f s).direct = s.direct := rfl
@[simp] theorem modMemory_check (f : Memory → Memory) : (modMemory f s).check = s.check := rfl
@[simp] theorem modMemory_service (f : Memory → Memory) : (modMemory f s).service = s.service := rfl
@[simp] theorem modMemory_sequence (f : Memory → Memory) : (modMemory f s).sequence = s.sequence := rfl
@[simp] theorem modMemory_management (f : Memory → Memory) : (modMemory f s).management = s.management := rfl
@[simp] theorem modMemory_port (f : Memory → Memory) : (modMemory f s).port = s.port := rfl

/-! ### setMismatch -/

@[simp] theorem setMismatch_now (p : Pos) (v : Bool) : (setMismatch p v s).now = s.now := rfl
@[simp] theorem setMismatch_pending (p : Pos) (v : Bool) : (setMismatch p v s).pending = s.pending := rfl
@[simp] theorem setMismatch_notices (p : Pos) (v : Bool) : (setMismatch p v s).notices = s.notices := rfl
@[simp] theorem setMismatch_freeCount (p : Pos) (v : Bool) : (setMismatch p v s).freeCount = s.freeCount := rfl
@[simp] theorem setMismatch_decoder (p : Pos) (v : Bool) : (setMismatch p v s).decoder = s.decoder := rfl
@[simp] theorem setMismatch_settings (p : Pos) (v : Bool) : (setMismatch p v s).settings = s.settings := rfl
@[simp] theorem setMismatch_line (p : Pos) (v : Bool) : (setMismatch p v s).line = s.line := rfl
@[simp] theorem setMismatch_consist (p : Pos) (v : Bool) : (setMismatch p v s).consist = s.consist := rfl
@[simp] theorem setMismatch_binding (p : Pos) (v : Bool) : (setMismatch p v s).binding = s.binding := rfl
@[simp] theorem setMismatch_delivery (p : Pos) (v : Bool) : (setMismatch p v s).delivery = s.delivery := rfl
@[simp] theorem setMismatch_policy (p : Pos) (v : Bool) : (setMismatch p v s).policy = s.policy := rfl
@[simp] theorem setMismatch_direct (p : Pos) (v : Bool) : (setMismatch p v s).direct = s.direct := rfl
@[simp] theorem setMismatch_check (p : Pos) (v : Bool) : (setMismatch p v s).check = s.check := rfl
@[simp] theorem setMismatch_service (p : Pos) (v : Bool) : (setMismatch p v s).service = s.service := rfl
@[simp] theorem setMismatch_sequence (p : Pos) (v : Bool) : (setMismatch p v s).sequence = s.sequence := rfl
@[simp] theorem setMismatch_management (p : Pos) (v : Bool) : (setMismatch p v s).management = s.management := rfl
@[simp] theorem setMismatch_port (p : Pos) (v : Bool) : (setMismatch p v s).port = s.port := rfl

/-! ### modSettings -/

@[simp] theorem modSettings_now (f : Settings → Settings) : (modSettings f s).now = s.now := rfl
@[simp] theorem modSettings_pending (f : Settings → Settings) : (modSettings f s).pending = s.pending := rfl
@[simp] theorem modSettings_notices (f : Settings → Settings) : (modSettings f s).notices = s.notices := rfl
@[simp] theorem modSettings_freeCount (f : Settings → Settings) : (modSettings f s).freeCount = s.freeCount := rfl
@[simp] theorem modSettings_decoder (f : Settings → Settings) : (modSettings f s).decoder = s.decoder := rfl
@[simp] theorem modSettings_line (f : Settings → Settings) : (modSettings f s).line = s.line := rfl
@[simp] theorem modSettings_consist (f : Settings → Settings) : (modSettings f s).consist = s.consist := rfl
@[simp] theorem modSettings_binding (f : Settings → Settings) : (modSettings f s).binding = s.binding := rfl
@[simp] theorem modSettings_delivery (f : Settings → Settings) : (modSettings f s).delivery = s.delivery := rfl
@[simp] theorem modSettings_policy (f : Settings → Settings) : (modSettings f s).policy = s.policy := rfl
@[simp] theorem modSettings_direct (f : Settings → Settings) : (modSettings f s).direct = s.direct := rfl
@[simp] theorem modSettings_check (f : Settings → Settings) : (modSettings f s).check = s.check := rfl
@[simp] theorem modSettings_service (f : Settings → Settings) : (modSettings f s).service = s.service := rfl
@[simp] theorem modSettings_sequence (f : Settings → Settings) : (modSettings f s).sequence = s.sequence := rfl
@[simp] theorem modSettings_memory (f : Settings → Settings) : (modSettings f s).memory = s.memory := rfl
@[simp] theorem modSettings_management (f : Settings → Settings) : (modSettings f s).management = s.management := rfl
@[simp] theorem modSettings_port (f : Settings → Settings) : (modSettings f s).port = s.port := rfl

/-! ### setStaging -/

@[simp] theorem setStaging_now (x : Option Staging) : (setStaging x s).now = s.now := rfl
@[simp] theorem setStaging_pending (x : Option Staging) : (setStaging x s).pending = s.pending := rfl
@[simp] theorem setStaging_notices (x : Option Staging) : (setStaging x s).notices = s.notices := rfl
@[simp] theorem setStaging_freeCount (x : Option Staging) : (setStaging x s).freeCount = s.freeCount := rfl
@[simp] theorem setStaging_decoder (x : Option Staging) : (setStaging x s).decoder = s.decoder := rfl
@[simp] theorem setStaging_settings (x : Option Staging) : (setStaging x s).settings = s.settings := rfl
@[simp] theorem setStaging_line (x : Option Staging) : (setStaging x s).line = s.line := rfl
@[simp] theorem setStaging_consist (x : Option Staging) : (setStaging x s).consist = s.consist := rfl
@[simp] theorem setStaging_binding (x : Option Staging) : (setStaging x s).binding = s.binding := rfl
@[simp] theorem setStaging_delivery (x : Option Staging) : (setStaging x s).delivery = s.delivery := rfl
@[simp] theorem setStaging_policy (x : Option Staging) : (setStaging x s).policy = s.policy := rfl
@[simp] theorem setStaging_direct (x : Option Staging) : (setStaging x s).direct = s.direct := rfl
@[simp] theorem setStaging_check (x : Option Staging) : (setStaging x s).check = s.check := rfl
@[simp] theorem setStaging_service (x : Option Staging) : (setStaging x s).service = s.service := rfl
@[simp] theorem setStaging_sequence (x : Option Staging) : (setStaging x s).sequence = s.sequence := rfl
@[simp] theorem setStaging_memory (x : Option Staging) : (setStaging x s).memory = s.memory := rfl
@[simp] theorem setStaging_port (x : Option Staging) : (setStaging x s).port = s.port := rfl

/-! ### setRequests -/

@[simp] theorem setRequests_now (rs : List Request) (x : HeadState) : (setRequests rs x s).now = s.now := rfl
@[simp] theorem setRequests_pending (rs : List Request) (x : HeadState) :
    (setRequests rs x s).pending = s.pending := rfl
@[simp] theorem setRequests_notices (rs : List Request) (x : HeadState) :
    (setRequests rs x s).notices = s.notices := rfl
@[simp] theorem setRequests_freeCount (rs : List Request) (x : HeadState) :
    (setRequests rs x s).freeCount = s.freeCount := rfl
@[simp] theorem setRequests_decoder (rs : List Request) (x : HeadState) :
    (setRequests rs x s).decoder = s.decoder := rfl
@[simp] theorem setRequests_settings (rs : List Request) (x : HeadState) :
    (setRequests rs x s).settings = s.settings := rfl
@[simp] theorem setRequests_line (rs : List Request) (x : HeadState) : (setRequests rs x s).line = s.line := rfl
@[simp] theorem setRequests_consist (rs : List Request) (x : HeadState) :
    (setRequests rs x s).consist = s.consist := rfl
@[simp] theorem setRequests_binding (rs : List Request) (x : HeadState) :
    (setRequests rs x s).binding = s.binding := rfl
@[simp] theorem setRequests_delivery (rs : List Request) (x : HeadState) :
    (setRequests rs x s).delivery = s.delivery := rfl
@[simp] theorem setRequests_policy (rs : List Request) (x : HeadState) : (setRequests rs x s).policy = s.policy := rfl
@[simp] theorem setRequests_direct (rs : List Request) (x : HeadState) : (setRequests rs x s).direct = s.direct := rfl
@[simp] theorem setRequests_check (rs : List Request) (x : HeadState) : (setRequests rs x s).check = s.check := rfl
@[simp] theorem setRequests_service (rs : List Request) (x : HeadState) :
    (setRequests rs x s).service = s.service := rfl
@[simp] theorem setRequests_sequence (rs : List Request) (x : HeadState) :
    (setRequests rs x s).sequence = s.sequence := rfl
@[simp] theorem setRequests_memory (rs : List Request) (x : HeadState) : (setRequests rs x s).memory = s.memory := rfl
@[simp] theorem setRequests_port (rs : List Request) (x : HeadState) : (setRequests rs x s).port = s.port := rfl

/-! ### setOffers -/

@[simp] theorem setOffers_now (f : List Offer → List Offer) : (setOffers f s).now = s.now := rfl
@[simp] theorem setOffers_pending (f : List Offer → List Offer) : (setOffers f s).pending = s.pending := rfl
@[simp] theorem setOffers_notices (f : List Offer → List Offer) : (setOffers f s).notices = s.notices := rfl
@[simp] theorem setOffers_freeCount (f : List Offer → List Offer) : (setOffers f s).freeCount = s.freeCount := rfl
@[simp] theorem setOffers_decoder (f : List Offer → List Offer) : (setOffers f s).decoder = s.decoder := rfl
@[simp] theorem setOffers_settings (f : List Offer → List Offer) : (setOffers f s).settings = s.settings := rfl
@[simp] theorem setOffers_consist (f : List Offer → List Offer) : (setOffers f s).consist = s.consist := rfl
@[simp] theorem setOffers_binding (f : List Offer → List Offer) : (setOffers f s).binding = s.binding := rfl
@[simp] theorem setOffers_delivery (f : List Offer → List Offer) : (setOffers f s).delivery = s.delivery := rfl
@[simp] theorem setOffers_policy (f : List Offer → List Offer) : (setOffers f s).policy = s.policy := rfl
@[simp] theorem setOffers_direct (f : List Offer → List Offer) : (setOffers f s).direct = s.direct := rfl
@[simp] theorem setOffers_check (f : List Offer → List Offer) : (setOffers f s).check = s.check := rfl
@[simp] theorem setOffers_service (f : List Offer → List Offer) : (setOffers f s).service = s.service := rfl
@[simp] theorem setOffers_sequence (f : List Offer → List Offer) : (setOffers f s).sequence = s.sequence := rfl
@[simp] theorem setOffers_memory (f : List Offer → List Offer) : (setOffers f s).memory = s.memory := rfl
@[simp] theorem setOffers_management (f : List Offer → List Offer) : (setOffers f s).management = s.management := rfl
@[simp] theorem setOffers_port (f : List Offer → List Offer) : (setOffers f s).port = s.port := rfl

/-! ### setUnheard -/

@[simp] theorem setUnheard_now (p : Pos) (n : Nat) : (setUnheard p n s).now = s.now := rfl
@[simp] theorem setUnheard_pending (p : Pos) (n : Nat) : (setUnheard p n s).pending = s.pending := rfl
@[simp] theorem setUnheard_notices (p : Pos) (n : Nat) : (setUnheard p n s).notices = s.notices := rfl
@[simp] theorem setUnheard_freeCount (p : Pos) (n : Nat) : (setUnheard p n s).freeCount = s.freeCount := rfl
@[simp] theorem setUnheard_decoder (p : Pos) (n : Nat) : (setUnheard p n s).decoder = s.decoder := rfl
@[simp] theorem setUnheard_settings (p : Pos) (n : Nat) : (setUnheard p n s).settings = s.settings := rfl
@[simp] theorem setUnheard_consist (p : Pos) (n : Nat) : (setUnheard p n s).consist = s.consist := rfl
@[simp] theorem setUnheard_binding (p : Pos) (n : Nat) : (setUnheard p n s).binding = s.binding := rfl
@[simp] theorem setUnheard_delivery (p : Pos) (n : Nat) : (setUnheard p n s).delivery = s.delivery := rfl
@[simp] theorem setUnheard_policy (p : Pos) (n : Nat) : (setUnheard p n s).policy = s.policy := rfl
@[simp] theorem setUnheard_direct (p : Pos) (n : Nat) : (setUnheard p n s).direct = s.direct := rfl
@[simp] theorem setUnheard_check (p : Pos) (n : Nat) : (setUnheard p n s).check = s.check := rfl
@[simp] theorem setUnheard_service (p : Pos) (n : Nat) : (setUnheard p n s).service = s.service := rfl
@[simp] theorem setUnheard_sequence (p : Pos) (n : Nat) : (setUnheard p n s).sequence = s.sequence := rfl
@[simp] theorem setUnheard_memory (p : Pos) (n : Nat) : (setUnheard p n s).memory = s.memory := rfl
@[simp] theorem setUnheard_management (p : Pos) (n : Nat) : (setUnheard p n s).management = s.management := rfl
@[simp] theorem setUnheard_port (p : Pos) (n : Nat) : (setUnheard p n s).port = s.port := rfl

/-! ### setQueue -/

@[simp] theorem setQueue_now (q : List TxFrame) : (setQueue q s).now = s.now := rfl
@[simp] theorem setQueue_pending (q : List TxFrame) : (setQueue q s).pending = s.pending := rfl
@[simp] theorem setQueue_notices (q : List TxFrame) : (setQueue q s).notices = s.notices := rfl
@[simp] theorem setQueue_freeCount (q : List TxFrame) : (setQueue q s).freeCount = s.freeCount := rfl
@[simp] theorem setQueue_decoder (q : List TxFrame) : (setQueue q s).decoder = s.decoder := rfl
@[simp] theorem setQueue_settings (q : List TxFrame) : (setQueue q s).settings = s.settings := rfl
@[simp] theorem setQueue_line (q : List TxFrame) : (setQueue q s).line = s.line := rfl
@[simp] theorem setQueue_consist (q : List TxFrame) : (setQueue q s).consist = s.consist := rfl
@[simp] theorem setQueue_binding (q : List TxFrame) : (setQueue q s).binding = s.binding := rfl
@[simp] theorem setQueue_delivery (q : List TxFrame) : (setQueue q s).delivery = s.delivery := rfl
@[simp] theorem setQueue_policy (q : List TxFrame) : (setQueue q s).policy = s.policy := rfl
@[simp] theorem setQueue_direct (q : List TxFrame) : (setQueue q s).direct = s.direct := rfl
@[simp] theorem setQueue_check (q : List TxFrame) : (setQueue q s).check = s.check := rfl
@[simp] theorem setQueue_service (q : List TxFrame) : (setQueue q s).service = s.service := rfl
@[simp] theorem setQueue_sequence (q : List TxFrame) : (setQueue q s).sequence = s.sequence := rfl
@[simp] theorem setQueue_memory (q : List TxFrame) : (setQueue q s).memory = s.memory := rfl
@[simp] theorem setQueue_management (q : List TxFrame) : (setQueue q s).management = s.management := rfl

/-! ### setOverrun -/

@[simp] theorem setOverrun_now (v : Bool) : (setOverrun v s).now = s.now := rfl
@[simp] theorem setOverrun_pending (v : Bool) : (setOverrun v s).pending = s.pending := rfl
@[simp] theorem setOverrun_notices (v : Bool) : (setOverrun v s).notices = s.notices := rfl
@[simp] theorem setOverrun_freeCount (v : Bool) : (setOverrun v s).freeCount = s.freeCount := rfl
@[simp] theorem setOverrun_decoder (v : Bool) : (setOverrun v s).decoder = s.decoder := rfl
@[simp] theorem setOverrun_settings (v : Bool) : (setOverrun v s).settings = s.settings := rfl
@[simp] theorem setOverrun_line (v : Bool) : (setOverrun v s).line = s.line := rfl
@[simp] theorem setOverrun_consist (v : Bool) : (setOverrun v s).consist = s.consist := rfl
@[simp] theorem setOverrun_binding (v : Bool) : (setOverrun v s).binding = s.binding := rfl
@[simp] theorem setOverrun_delivery (v : Bool) : (setOverrun v s).delivery = s.delivery := rfl
@[simp] theorem setOverrun_policy (v : Bool) : (setOverrun v s).policy = s.policy := rfl
@[simp] theorem setOverrun_direct (v : Bool) : (setOverrun v s).direct = s.direct := rfl
@[simp] theorem setOverrun_check (v : Bool) : (setOverrun v s).check = s.check := rfl
@[simp] theorem setOverrun_service (v : Bool) : (setOverrun v s).service = s.service := rfl
@[simp] theorem setOverrun_sequence (v : Bool) : (setOverrun v s).sequence = s.sequence := rfl
@[simp] theorem setOverrun_memory (v : Bool) : (setOverrun v s).memory = s.memory := rfl
@[simp] theorem setOverrun_management (v : Bool) : (setOverrun v s).management = s.management := rfl

/-! ### setRefresh -/

@[simp] theorem setRefresh_now (p : Pos) (g : Group) (half : Bool) (t : Option Time) :
    (setRefresh p g half t s).now = s.now := rfl
@[simp] theorem setRefresh_pending (p : Pos) (g : Group) (half : Bool) (t : Option Time) :
    (setRefresh p g half t s).pending = s.pending := rfl
@[simp] theorem setRefresh_notices (p : Pos) (g : Group) (half : Bool) (t : Option Time) :
    (setRefresh p g half t s).notices = s.notices := rfl
@[simp] theorem setRefresh_freeCount (p : Pos) (g : Group) (half : Bool) (t : Option Time) :
    (setRefresh p g half t s).freeCount = s.freeCount := rfl
@[simp] theorem setRefresh_decoder (p : Pos) (g : Group) (half : Bool) (t : Option Time) :
    (setRefresh p g half t s).decoder = s.decoder := rfl
@[simp] theorem setRefresh_settings (p : Pos) (g : Group) (half : Bool) (t : Option Time) :
    (setRefresh p g half t s).settings = s.settings := rfl
@[simp] theorem setRefresh_line (p : Pos) (g : Group) (half : Bool) (t : Option Time) :
    (setRefresh p g half t s).line = s.line := rfl
@[simp] theorem setRefresh_consist (p : Pos) (g : Group) (half : Bool) (t : Option Time) :
    (setRefresh p g half t s).consist = s.consist := rfl
@[simp] theorem setRefresh_binding (p : Pos) (g : Group) (half : Bool) (t : Option Time) :
    (setRefresh p g half t s).binding = s.binding := rfl
@[simp] theorem setRefresh_delivery (p : Pos) (g : Group) (half : Bool) (t : Option Time) :
    (setRefresh p g half t s).delivery = s.delivery := rfl
@[simp] theorem setRefresh_policy (p : Pos) (g : Group) (half : Bool) (t : Option Time) :
    (setRefresh p g half t s).policy = s.policy := rfl
@[simp] theorem setRefresh_direct (p : Pos) (g : Group) (half : Bool) (t : Option Time) :
    (setRefresh p g half t s).direct = s.direct := rfl
@[simp] theorem setRefresh_check (p : Pos) (g : Group) (half : Bool) (t : Option Time) :
    (setRefresh p g half t s).check = s.check := rfl
@[simp] theorem setRefresh_service (p : Pos) (g : Group) (half : Bool) (t : Option Time) :
    (setRefresh p g half t s).service = s.service := rfl
@[simp] theorem setRefresh_sequence (p : Pos) (g : Group) (half : Bool) (t : Option Time) :
    (setRefresh p g half t s).sequence = s.sequence := rfl
@[simp] theorem setRefresh_memory (p : Pos) (g : Group) (half : Bool) (t : Option Time) :
    (setRefresh p g half t s).memory = s.memory := rfl
@[simp] theorem setRefresh_management (p : Pos) (g : Group) (half : Bool) (t : Option Time) :
    (setRefresh p g half t s).management = s.management := rfl

/-! ### emitAll -/

@[simp] theorem emitAll_now (ns : List Notice) : (emitAll ns s).now = s.now := rfl
@[simp] theorem emitAll_pending (ns : List Notice) : (emitAll ns s).pending = s.pending := rfl
@[simp] theorem emitAll_freeCount (ns : List Notice) : (emitAll ns s).freeCount = s.freeCount := rfl
@[simp] theorem emitAll_decoder (ns : List Notice) : (emitAll ns s).decoder = s.decoder := rfl
@[simp] theorem emitAll_settings (ns : List Notice) : (emitAll ns s).settings = s.settings := rfl
@[simp] theorem emitAll_line (ns : List Notice) : (emitAll ns s).line = s.line := rfl
@[simp] theorem emitAll_consist (ns : List Notice) : (emitAll ns s).consist = s.consist := rfl
@[simp] theorem emitAll_binding (ns : List Notice) : (emitAll ns s).binding = s.binding := rfl
@[simp] theorem emitAll_delivery (ns : List Notice) : (emitAll ns s).delivery = s.delivery := rfl
@[simp] theorem emitAll_policy (ns : List Notice) : (emitAll ns s).policy = s.policy := rfl
@[simp] theorem emitAll_direct (ns : List Notice) : (emitAll ns s).direct = s.direct := rfl
@[simp] theorem emitAll_check (ns : List Notice) : (emitAll ns s).check = s.check := rfl
@[simp] theorem emitAll_service (ns : List Notice) : (emitAll ns s).service = s.service := rfl
@[simp] theorem emitAll_sequence (ns : List Notice) : (emitAll ns s).sequence = s.sequence := rfl
@[simp] theorem emitAll_memory (ns : List Notice) : (emitAll ns s).memory = s.memory := rfl
@[simp] theorem emitAll_management (ns : List Notice) : (emitAll ns s).management = s.management := rfl
@[simp] theorem emitAll_port (ns : List Notice) : (emitAll ns s).port = s.port := rfl

/-! ### emit -/

@[simp] theorem emit_now (n : Notice) : (emit n s).now = s.now := rfl
@[simp] theorem emit_pending (n : Notice) : (emit n s).pending = s.pending := rfl
@[simp] theorem emit_freeCount (n : Notice) : (emit n s).freeCount = s.freeCount := rfl
@[simp] theorem emit_decoder (n : Notice) : (emit n s).decoder = s.decoder := rfl
@[simp] theorem emit_settings (n : Notice) : (emit n s).settings = s.settings := rfl
@[simp] theorem emit_line (n : Notice) : (emit n s).line = s.line := rfl
@[simp] theorem emit_consist (n : Notice) : (emit n s).consist = s.consist := rfl
@[simp] theorem emit_binding (n : Notice) : (emit n s).binding = s.binding := rfl
@[simp] theorem emit_delivery (n : Notice) : (emit n s).delivery = s.delivery := rfl
@[simp] theorem emit_policy (n : Notice) : (emit n s).policy = s.policy := rfl
@[simp] theorem emit_direct (n : Notice) : (emit n s).direct = s.direct := rfl
@[simp] theorem emit_check (n : Notice) : (emit n s).check = s.check := rfl
@[simp] theorem emit_service (n : Notice) : (emit n s).service = s.service := rfl
@[simp] theorem emit_sequence (n : Notice) : (emit n s).sequence = s.sequence := rfl
@[simp] theorem emit_memory (n : Notice) : (emit n s).memory = s.memory := rfl
@[simp] theorem emit_management (n : Notice) : (emit n s).management = s.management := rfl
@[simp] theorem emit_port (n : Notice) : (emit n s).port = s.port := rfl

/-! ### takeFault -/

@[simp] theorem takeFault_now (r : FaultRecord) : (takeFault r s).now = s.now := rfl
@[simp] theorem takeFault_pending (r : FaultRecord) : (takeFault r s).pending = s.pending := rfl
@[simp] theorem takeFault_notices (r : FaultRecord) : (takeFault r s).notices = s.notices := rfl
@[simp] theorem takeFault_freeCount (r : FaultRecord) : (takeFault r s).freeCount = s.freeCount := rfl
@[simp] theorem takeFault_decoder (r : FaultRecord) : (takeFault r s).decoder = s.decoder := rfl
@[simp] theorem takeFault_settings (r : FaultRecord) : (takeFault r s).settings = s.settings := rfl
@[simp] theorem takeFault_line (r : FaultRecord) : (takeFault r s).line = s.line := rfl
@[simp] theorem takeFault_consist (r : FaultRecord) : (takeFault r s).consist = s.consist := rfl
@[simp] theorem takeFault_binding (r : FaultRecord) : (takeFault r s).binding = s.binding := rfl
@[simp] theorem takeFault_delivery (r : FaultRecord) : (takeFault r s).delivery = s.delivery := rfl
@[simp] theorem takeFault_direct (r : FaultRecord) : (takeFault r s).direct = s.direct := rfl
@[simp] theorem takeFault_check (r : FaultRecord) : (takeFault r s).check = s.check := rfl
@[simp] theorem takeFault_service (r : FaultRecord) : (takeFault r s).service = s.service := rfl
@[simp] theorem takeFault_sequence (r : FaultRecord) : (takeFault r s).sequence = s.sequence := rfl
@[simp] theorem takeFault_memory (r : FaultRecord) : (takeFault r s).memory = s.memory := rfl
@[simp] theorem takeFault_management (r : FaultRecord) : (takeFault r s).management = s.management := rfl
@[simp] theorem takeFault_port (r : FaultRecord) : (takeFault r s).port = s.port := rfl

/-! ### advance -/

@[simp] theorem advance_pending (d : Nat) : (advance d s).pending = s.pending := rfl
@[simp] theorem advance_notices (d : Nat) : (advance d s).notices = s.notices := rfl
@[simp] theorem advance_freeCount (d : Nat) : (advance d s).freeCount = s.freeCount := rfl
@[simp] theorem advance_decoder (d : Nat) : (advance d s).decoder = s.decoder := rfl
@[simp] theorem advance_settings (d : Nat) : (advance d s).settings = s.settings := rfl
@[simp] theorem advance_line (d : Nat) : (advance d s).line = s.line := rfl
@[simp] theorem advance_binding (d : Nat) : (advance d s).binding = s.binding := rfl
@[simp] theorem advance_delivery (d : Nat) : (advance d s).delivery = s.delivery := rfl
@[simp] theorem advance_policy (d : Nat) : (advance d s).policy = s.policy := rfl
@[simp] theorem advance_direct (d : Nat) : (advance d s).direct = s.direct := rfl
@[simp] theorem advance_check (d : Nat) : (advance d s).check = s.check := rfl
@[simp] theorem advance_service (d : Nat) : (advance d s).service = s.service := rfl
@[simp] theorem advance_sequence (d : Nat) : (advance d s).sequence = s.sequence := rfl
@[simp] theorem advance_memory (d : Nat) : (advance d s).memory = s.memory := rfl
@[simp] theorem advance_management (d : Nat) : (advance d s).management = s.management := rfl
@[simp] theorem advance_port (d : Nat) : (advance d s).port = s.port := rfl
@[simp] theorem advanceTo_pending (t : Time) : (advanceTo t s).pending = s.pending := rfl
@[simp] theorem advanceTo_notices (t : Time) : (advanceTo t s).notices = s.notices := rfl
@[simp] theorem advanceTo_freeCount (t : Time) : (advanceTo t s).freeCount = s.freeCount := rfl
@[simp] theorem advanceTo_decoder (t : Time) : (advanceTo t s).decoder = s.decoder := rfl
@[simp] theorem advanceTo_settings (t : Time) : (advanceTo t s).settings = s.settings := rfl
@[simp] theorem advanceTo_line (t : Time) : (advanceTo t s).line = s.line := rfl
@[simp] theorem advanceTo_binding (t : Time) : (advanceTo t s).binding = s.binding := rfl
@[simp] theorem advanceTo_delivery (t : Time) : (advanceTo t s).delivery = s.delivery := rfl
@[simp] theorem advanceTo_policy (t : Time) : (advanceTo t s).policy = s.policy := rfl
@[simp] theorem advanceTo_direct (t : Time) : (advanceTo t s).direct = s.direct := rfl
@[simp] theorem advanceTo_check (t : Time) : (advanceTo t s).check = s.check := rfl
@[simp] theorem advanceTo_service (t : Time) : (advanceTo t s).service = s.service := rfl
@[simp] theorem advanceTo_sequence (t : Time) : (advanceTo t s).sequence = s.sequence := rfl
@[simp] theorem advanceTo_memory (t : Time) : (advanceTo t s).memory = s.memory := rfl
@[simp] theorem advanceTo_management (t : Time) : (advanceTo t s).management = s.management := rfl
@[simp] theorem advanceTo_port (t : Time) : (advanceTo t s).port = s.port := rfl
@[simp] theorem advance_now (d : Nat) : (advance d s).now = s.now + d := rfl
theorem advanceTo_now (t : Time) : (advanceTo t s).now = max s.now t := by
  have h : ∀ a b : Nat, a + (b - a) = max a b := by omega
  exact h _ _

end Sys2Proof.Machine
end

