-- ==== Sys2Proof/Laws/DirectLines.lean ====
section
/-! SUPPORT. What the loops over the eight direct lines do: each line gets its own change, and nothing but the line records
changes. -/

namespace Sys2Proof.Machine

/-- The state with other line records. -/
def setLines (l : Tab Line 8) (s : State) : State := { s with direct := { s.direct with lines := l } }

@[simp] theorem lineRec_setLines (l : Tab Line 8) (s : State) (k : LineNo) : lineRec (setLines l s) k = l.get k := rfl
@[simp] theorem setLines_setLines (l m : Tab Line 8) (s : State) : setLines l (setLines m s) = setLines l s := rfl
@[simp] theorem setLines_self (s : State) : setLines s.direct.lines s = s := rfl
@[simp] theorem wiredOf_setLines (l : Tab Line 8) (s : State) (k : LineNo) : wiredOf (setLines l s) k = wiredOf s k := rfl
@[simp] theorem timebase_setLines (l : Tab Line 8) (s : State) (t : TbName) : timebase (setLines l s) t = timebase s t := by
  cases t <;> rfl
@[simp] theorem groupTripped_setLines (l : Tab Line 8) (s : State) (g : FaultGroup) :
    groupTripped (setLines l s) g = groupTripped s g := by cases g <;> rfl
@[simp] theorem modLine_setLines (k : LineNo) (f : Line → Line) (l : Tab Line 8) (s : State) :
    modLine k f (setLines l s) = setLines (l.upd k f) s := rfl
theorem modLine_eq (k : LineNo) (f : Line → Line) (s : State) : modLine k f s = setLines (s.direct.lines.upd k f) s := rfl
@[simp] theorem commandOf_setLines (l : Tab Line 8) (s : State) (f : Code) : commandOf (setLines l s) f = commandOf s f := rfl

theorem lineRec_modLine (s : State) (k j : LineNo) (f : Line → Line) :
    lineRec (modLine k f s) j = if j = k then f (lineRec s k) else lineRec s j := by
  simp [lineRec, modLine, Tab.get_upd]

theorem modLine_modLine (k : LineNo) (f g : Line → Line) (s : State) :
    modLine k g (modLine k f s) = modLine k (fun l => g (f l)) s := by
  show setLines ((s.direct.lines.upd k f).upd k g) s = setLines (s.direct.lines.upd k fun l => g (f l)) s
  congr 1
  apply Tab.ext_get
  intro j
  by_cases h : j = k <;> simp [Tab.get_upd, h]

/-- R122: the on-count a line record would be given under other line records. -/
theorem lineOnCount_setLines (l : Tab Line 8) (s : State) (k : LineNo) :
    lineOnCount (setLines l s) k =
      onCountOf (if (l.get k).exercise then 255 else codeLevel s (wiredOf s k).code) (timebase s (l.get k).tb).period
        (wiredOf s k).comp s.settings.vref s.direct.supply := by
  show onCountOf (if (l.get k).exercise then 255 else codeLevel (setLines l s) (wiredOf s k).code)
    (timebase (setLines l s) (l.get k).tb).period (wiredOf s k).comp s.settings.vref s.direct.supply = _
  rw [timebase_setLines]
  rfl

/-- A loop that changes each line by itself. -/
theorem foldl_lines (s : State) (f : State → LineNo → State) (g : LineNo → Line → Line)
    (hf : ∀ l k, l.get k = lineRec s k → f (setLines l s) k = setLines (l.upd k (g k)) s) (ks : List LineNo) (hn : ks.Nodup)
    (l : Tab Line 8) (hl : ∀ k ∈ ks, l.get k = lineRec s k) :
    ∃ m, ks.foldl f (setLines l s) = setLines m s
      ∧ ∀ k, m.get k = if k ∈ ks then g k (lineRec s k) else l.get k := by
  induction ks generalizing l with
  | nil => exact ⟨l, rfl, by simp⟩
  | cons k ks ih =>
    rw [List.nodup_cons] at hn
    have hk := hl k (by simp)
    rw [List.foldl_cons, hf l k hk]
    obtain ⟨m, hm, hg⟩ := ih hn.2 (l.upd k (g k)) (fun j hj => by
      have : j ≠ k := fun e => hn.1 (e ▸ hj)
      rw [Tab.get_upd_ne _ _ this]; exact hl j (by simp [hj]))
    refine ⟨m, hm, fun j => ?_⟩
    rw [hg j]
    by_cases h : j = k
    · subst h; simp [hn.1, hk]
    · simp [h, Tab.get_upd_ne _ _ h]

theorem allLines_nodup : allLines.Nodup := by decide
theorem mem_allLines (k : LineNo) : k ∈ allLines := by revert k; decide

/-- A loop over all eight lines that changes each by itself. -/
theorem foldl_allLines (s : State) (f : State → LineNo → State) (g : LineNo → Line → Line)
    (hf : ∀ l k, l.get k = lineRec s k → f (setLines l s) k = setLines (l.upd k (g k)) s) :
    ∃ m, allLines.foldl f s = setLines m s ∧ ∀ k, m.get k = g k (lineRec s k) := by
  obtain ⟨m, hm, hg⟩ := foldl_lines s f g hf allLines allLines_nodup s.direct.lines (fun _ _ => rfl)
  exact ⟨m, hm, fun k => by rw [hg k, if_pos (mem_allLines k)]⟩

end Sys2Proof.Machine
end

