-- ==== Sys2Proof/Tests/Slice0.lean ====
section
/-! SUPPORT. Tests of the model: ill-formed operands, steps of the manual's worked examples, and for every statement with
hypotheses a state and operands that meet them. -/

set_option maxRecDepth 20000

namespace Sys2Proof.Tests

open Sys2Proof Sys2Proof.Machine

/-! ## Ill-formed operands -/

/-- A standard data frame. -/
def frame (id : Nat) (bytes : List Nat) : CanFrame :=
  { format := .standard, remote := false, id := id, dlc := bytes.length,
    data := (Tab.fill 0).mapIdx fun i _ => BitVec.ofNat 8 (bytes.getD i.val 0) }

theorem test_wellFormed_frame : (Instr.canFrameReceived (frame 0x7FF [1, 2])).wellFormed = true := by decide
theorem test_illFormed_standardId : (Instr.canFrameReceived (frame 0x800 [])).wellFormed = false := by decide
theorem test_illFormed_extendedId :
    (Instr.canFrameReceived { frame (2 ^ 29) [] with format := .extended }).wellFormed = false := by decide
theorem test_illFormed_dataLength : (Instr.canFrameReceived { frame 1 [] with dlc := 16 }).wellFormed = false := by decide
theorem test_illFormed_senseCode : (Instr.senseSample 0 4096).wellFormed = false := by decide
theorem test_illFormed_supplyRange : (Instr.supplyReading 40960).wellFormed = false := by decide
theorem test_illFormed_supplyStep : (Instr.supplyReading 12005).wellFormed = false := by decide

/-! ## Small states -/

/-- The state a command leaves. -/
def run (c : Instr) (s : State) : State :=
  match exec c s with
  | .next t => t
  | _ => s

/-- After reset, with the start-up sweep done and no POLL due. -/
def still : State := { State.reset with now := 5000000, line := {}, consist := {}, service := { nextPoll := none } }

/-- A row of function class 1 at a point. -/
def row (point : Nat) (k : PointKind) (feed : Feed := .node) : Row :=
  { unusable := false, reported := false,
    record := { point := point, feed := feed, pointKind := k, fnClass := 1, nominal := 200, loadKind := .resistive,
                required := false, interval := 3 } }

/-- A directory entry of policy class 2 with one member. -/
def entry (locator : Nat) : DirEntry := { policyClass := 2, members := 1, locator := locator }

/-- Position 2 in a state, its groups 0, 4 and 8 LOADED in blocks 0, 1 and 2, each delivered value 0. -/
def at2 (st : PosState) (feed : Feed := .node) : State :=
  let dir := (((Tab.fill none).put 0 (some (entry 100))).put 4 (some (entry 200))).put 8 (some (entry 300))
  let groups := (((Tab.fill {}).put 0 { block := some 0 }).put 4 { block := some 1 }).put 8 { block := some 2 }
  let block := fun (g : Group) (r : Row) =>
    ({ state := .loaded, owner := some (1, g), rows := (Tab.fill none).put 0 r } : Block)
  let blocks := (((Tab.fill {}).put 0 (block 0 (row 10 .lamp feed))).put 1 (block 4 (row 11 .sensor feed))).put 2
    (block 8 (row 12 .actuator feed))
  { still with
    consist := { cplPresent := true, cplLevel := true,
                 table := (Tab.fill {}).put 1 { state := st, warm := true, directory := dir } }
    binding := { groups := (Tab.fill (Tab.fill {})).put 1 groups, blocks := blocks }
    delivery := { status := Tab.fill (Tab.fill { delivered := some 0 }) } }

/-- The transaction of `busy`. -/
def busyOffer : Offer :=
  { requester := .sequenceUnit, cls := 6, pos := 1, op := .readWord, addr := some 7, data := none, why := .sequenceItem 0 7 0 }

/-- The state with a READ-WORD of the Sequence Unit in flight. -/
def busy (s : State) : State :=
  { s with line := { s.line with flight := some { offer := busyOffer, deadline := s.now + 1000 } } }

/-- A request with tag 9. -/
def req (code : Nat) (args : List Nat) : Request :=
  { code := BitVec.ofNat 8 code, tag := 9, args := args.map fun n => BitVec.ofNat 8 n }

/-- The state with one request in its list. -/
def asked (code : Nat) (args : List Nat) (s : State) : State :=
  { s with management := { s.management with requests := [req code args], head := .waiting } }

theorem serving {s : State} {code : Nat} {args : List Nat} (h : s.port.queue.length < 16)
    (hc : (BitVec.ofNat 8 code).toNat = code) : (asked code args s).Serving code (req code args) [] :=
  ⟨rfl, rfl, hc, h, nofun⟩

/-! ## Steps of the manual's worked examples -/

/-- Section 1.7: entries 0 and 9 both feed 0/00, entry 6 takes a field over two bytes. -/
def decoder17 : State :=
  let e := fun (byte bit width : Nat) (k : DecodeKind) (f : Code) =>
    ({ format := .standard, id := 0x2C4, byte := byte, bit := bit, width := width, kind := k, code := some f } : DecodeEntry)
  let t := ((((Tab.fill none).put 0 (some (e 0 0 1 .switch 0))).put 2 (some (e 0 2 2 .switch 2))).put 6
    (some (e 1 6 4 .level 52))).put 9 (some (e 3 0 1 .switch 0))
  { still with decoder := { entries := t } }

theorem test_frame_updates : ([0, 2, 52] : List Code).map (fun f =>
    (commandOf (applyFrame (frame 0x2C4 [21, 192, 2, 0]) decoder17) f).value) = [0, 255, 187] := by decide

theorem test_frame_errorCodeKeeps :
    (commandOf (applyFrame (frame 0x2C4 [29, 192, 2, 0]) decoder17) 2).neverUpdated = true := by decide

/-- Section 1.8: a PHASE entry falls to 0. -/
theorem test_stale_phase :
    let e : CommandEntry := { value := 255, kind := some .phase, since := some 4900000, fresh := true }
    (commandOf (run (.commandStale 16) (modCommand 16 (fun _ => e) still)) 16).value = 0 := by decide

/-- Section 1.10: a standstill of 2000 ms. -/
theorem test_standstill :
    let d : Decoder := { speed := { speed := some 0, since := some 4900000, fresh := true }, stopTimer := some 4000000 }
    (run .stopTimerExpiry { still with decoder := d }).decoder.motion = .stationary := by decide

/-- Section 2.10: class 1 is served first, and position 3 comes before position 1 after position 2. -/
theorem test_arbiter_rotation :
    let os := [{ busyOffer with cls := 2 }, { busyOffer with cls := 0 }, { busyOffer with cls := 0, pos := 3 }]
    ((chooseOffer { offers := os, lastServed := (Tab.fill 4).put 0 2 }).map fun o => (o.cls, o.pos)) = some (0, 3) := by
  decide

/-- Section 3.4: the records of 0/01 and 9/00. -/
theorem test_record_unusable : unusableRecord 0 (fnRecordOf 4420 250 1 0) = true := by decide
theorem test_record_fields : fnRecordOf 12820 0 0 150 =
    { point := 20, feed := .node, pointKind := .actuator, fnClass := 3, nominal := 0, loadKind := .resistive, required := false,
      interval := 150 } := by decide

/-- Section 5.12: class 5 and class 3 name the entry 43. -/
theorem test_policyIndex : (policyIndex 5 3).val = 43 := by decide

/-- Section 6.6: the eighth record is kept, and a ninth request only marks it followed. -/
theorem test_fullList_followed :
    let r : FaultRecord := { kind := .noSpace, pos := none, code := none, access := none, detail := 4, followed := false }
    ((addFault { r with detail := 9 } (List.replicate 8 r)).getLast?.map fun x => (x.detail, x.followed)) = some (4, true) := by
  decide

/-- Section 7.4: level 128 at five supply readings, and level 1 of the shortest period. -/
theorem test_onCount_readings : [27600, 24000, 20000, 11000, 39000].map (fun v => onCountOf 128 4999 .resistive 24000 (some v))
    = [1897, 2509, 3612, 5000, 1115] := by decide
theorem test_onCount_shortest : onCountOf 1 999 .resistive 24000 (some 40950) = 1 := by decide

/-- Section 8.3: two lamps match the shortfall, and then one alone. -/
def expected83 : List ((Pos × Code) × Nat) := [((0, 2), 1006), ((0, 3), 1006), ((1, 2), 434)]
theorem test_judge_low : (judgeCurrent expected83 1437 20 20 40 false).cls = .low := by decide
theorem test_judge_attributed : (judgeCurrent expected83 2011 10 10 40 false).named = some (1, 2) := by decide

/-- Section 10.5: an item that would pass point 63 is refused in a mode other than WALK. -/
theorem test_sequence_range :
    ((seqRequest [17, 60, 0, 10, 0, 0]).map seqInRange, (seqRequest [19, 60, 0, 10, 0, 0]).map seqInRange)
      = (some false, some true) := by decide

/-- Section 12.6: a power-on reset between a record and its checksum word. -/
theorem test_tornWrite :
    let content : Remembered := { builder := 1, serial := 2, checksum := 3, directory := Tab.fill none }
    (run (.powerOnReset { straps := 0, cpl := false, fa := false, fb := false } true)
      { still with memory := { writing := some (.record 3 content) } }).memory.invalid = true := by decide

/-- R11: a raw value above 2. -/
theorem test_actuator_other : convertField .actuator 2 3 = some 0 := by decide

/-- R198: the CONSIST timer runs on by 100 ms. -/
theorem test_consistTimer : (run .consistTimer State.reset).port.consistAt = 200000 := by decide

/-- R120, R117: a held pending on-count is clamped when the new timebase's next period begins, with the period of then. -/
theorem test_move_inHold :
    let direct := { still.direct with
      wired := still.direct.wired.upd 2 fun w => { w with timebase := .b }, tbB := { period := 4999, pending := some 14999 } }
    let held := modLine 2 (fun l => { l with hold := some 4900000, pendingOn := 10000 }) { still with direct := direct }
    (lineRec (run (.periodBoundary .b) (run (.periodBoundary .a) held)) 2).onCount = 10000 := by decide

/-- R151, R155: a watch that replaces another withdraws the offer of the read of the one before. -/
theorem test_watch_replaced :
    let old := setOffers (fun _ => [scheduledOffer 1 128 true (row 12 .actuator).record]) (busy (at2 .running))
    (startWatch 1 128 3 old).line.offers = [] := by decide

/-- R70, R73, R182: a required sensor whose result was kept is awaited and not read; UNCHECKED again, it is read. -/
theorem test_kept_result (r : CheckResult) (hr : r = .ok ∨ r = .unchecked) :
    let required := (row 11 .sensor).record
    let s := modEntry 1 64 (fun e => { e with result := r })
      (modRec 1 (fun x => { x with groupItems := [4], kept := [64] })
        (modBlock 1 (fun b => { b with rows := (Tab.fill none).put 0 (some
          { unusable := false, reported := false, record := { required with required := true } }) }) (at2 .exercising)))
    let t := posRec (lookupGroups 1 s) 1
    t.awaited = [64] ∧ t.firstReads.map (fun x => x.code) = if r = .ok then [] else [64] := by
  rcases hr with rfl | rfl <;> decide

/-! ## Witnesses: the machine and its invariants -/

theorem quiet_still : still.Quiet := ⟨rfl, fun _ => rfl⟩
theorem quiet_at2 (st : PosState) (feed : Feed) : (at2 st feed).Quiet := ⟨rfl, fun _ => rfl⟩
theorem quiet_busy {s : State} (h : s.notices = []) : (busy s).Quiet := ⟨h, nofun⟩
theorem quiet_asked {s : State} (h : s.Quiet) (code : Nat) (args : List Nat) : (asked code args s).Quiet :=
  ⟨h.notices, h.idle⟩

theorem witness_StepRunsFrontCommand :
    ({ still with pending := [.pollTime, .frameSent] } : State).pending = .pollTime :: [.frameSent] := rfl

theorem witness_EveryStepAnswersNext : still.pending = [] := rfl

/-- Eight faults, 16 frames, 4 requests, 16 entries, 16 contributors, 3 samples, 64 codes, counters at 3, and 63 of 64
items. -/
def brimful : State :=
  let fault : FaultRecord := { kind := .noSpace, pos := none, code := none, access := none, detail := 0, followed := false }
  let item : SeqItem := { pos := 0, addr := 0, heard := true, ready := true, data := none }
  let c : Contributor := { pos := 0, code := 0, nominal := 0, loadKind := .resistive }
  let circuit : Circuit := { contributors := List.replicate 16 c, samples := [0, 0, 0] }
  { still with
    pending := [.consistTimer]
    policy := { faults := List.replicate 8 fault }
    port := { queue := List.replicate 16 { key := none, id := 0, data := [] } }
    management := { requests := List.replicate 4 (req 21 []) }
    check := { circuits := Tab.fill circuit, queue := List.replicate 16 { target := .circuit 0 },
               oppPending := Tab.fill (List.replicate 64 0) }
    line := { unheard := Tab.fill 3 }
    sequence := { state := .running, count := some 64, buffer := List.replicate 63 item } }

theorem witness_EveryStepKeepsCapacities :
    brimful.WithinCapacity ∧ brimful.SequenceBounded ∧ ∃ t, step brimful = .next t :=
  ⟨⟨by decide, by decide, by decide, by decide, by decide, by decide, by decide, by decide⟩, ⟨by decide, by decide⟩, _, rfl⟩

theorem witness_EveryStepKeepsTables_sound :
    let s := { modCommand 5 (fun e => { e with value := 255 }) still with pending := [.commandStale 5] }
    s.DecodeSound ∧ s.CommandsSound ∧ ∃ t, step s = .next t := by
  refine ⟨?_, ?_, _, rfl⟩
  · constructor <;> intro n <;> intros <;> simp_all [modCommand, still, State.reset]
  · intro f
    have h : commandOf (modCommand 5 (fun e => { e with value := 255 }) still) f
        = if f = 5 then { value := 255 } else {} := by
      simp [commandOf, modCommand, still, State.reset, Tab.get_upd]
    have hk : commandSound f (commandOf (modCommand 5 (fun e => { e with value := 255 }) still) f) = true := by
      rw [h]
      split
      · subst f; decide
      · unfold commandSound; split <;> decide
    exact hk

theorem witness_EveryStepKeepsTables_range :
    let q : Settings := { vref := 12000, stale := 100, window := 2000, tolerance := 50, threshold := 1000 }
    let s := { still with pending := [.periodBoundary .a], settings := q
                          direct := { tbA := { period := 999, pending := some 19999 } } }
    s.ConfigInRange ∧ ∃ t, step s = .next t :=
  ⟨⟨by decide, by decide, fun t => by cases t <;> decide⟩, _, rfl⟩

theorem witness_EveryStepKeepsLines_counts :
    let s := { modLine 3 (fun l => { l with onCount := 5000, pendingOn := 5000 }) still with pending := [.periodBoundary .a] }
    s.DecodeSound ∧ s.CommandsSound ∧ s.OnCountsBounded ∧ ∃ t, step s = .next t := by
  refine ⟨?_, ?_, by unfold State.OnCountsBounded; decide, _, rfl⟩
  · constructor <;> intro n <;> intros <;> simp_all [modLine, still, State.reset]
  · intro f
    simp only [commandOf, modLine, still, State.reset, Tab.get_fill]
    unfold commandSound; split <;> decide

theorem witness_EveryStepKeepsLines_tripped :
    let s := { modLine 3 (fun l => { l with trip := true }) still with pending := [.periodBoundary .a] }
    s.TrippedOff ∧ s.SettleBounded ∧ ∃ t, step s = .next t :=
  ⟨by unfold State.TrippedOff; decide, by unfold State.SettleBounded; decide, _, rfl⟩

theorem witness_EveryStepKeepsLists :
    let b := { still.binding with blocks := still.binding.blocks.mapIdx fun n x => { x with pinned := decide (n.val < 12) } }
    let s := { still with pending := [.pollTime], binding := b, service := { rounds := Tab.fill { count := 16 } } }
    s.notices = [] ∧ s.WatchesSound ∧ s.ListsBounded ∧ ∃ t, step s = .next t :=
  ⟨rfl, fun p f h => absurd (by simp [entryOf, still, State.reset]) h,
    ⟨by decide, by decide, by decide, by decide, fun p => by constructor <;> decide +revert, by decide, by decide⟩, _, rfl⟩

/-- Positions 1 and 2 in service, the groups 0, 4 and 8 of position 2 LOADED. -/
def at12 (st : PosState) (feed : Feed := .node) : State := modRec 0 (fun r => { r with state := .running }) (at2 st feed)

theorem witness_EveryStepKeepsBlocks :
    let s := { at12 .running with pending := [.pollTime] }
    s.BlocksOwned ∧ ∃ t, step s = .next t := by
  exact ⟨⟨by decide, by decide, by decide⟩, _, rfl⟩

/-- Position 3's ASSIGN in flight, position 2 awaiting the RELEASE a release has put on offer. -/
def emptying : State :=
  { at12 .running with
    consist := { (at12 .running).consist with
      cplPresent := true
      pass := { active := true, n := some 2, phase := .inFlight }
      release := { active := true, lowest := some 0, current := some 1, phase := some .offered } }
    line := { (at12 .running).line with
      offers := [releaseOffer 1]
      lastServed := Tab.fill 0
      flight := some { offer := assignOffer 2, deadline := 5000300 } } }

theorem witness_EveryStepKeepsRun :
    emptying.notices = [] ∧ emptying.RunUnbroken ∧ emptying.consist.release.current ≠ none
      ∧ ∃ t, exec (.transactionEnd { heard := true, ready := true, service := false, data := none }) emptying = .next t :=
  ⟨rfl, ⟨by decide, by decide, by decide⟩, by decide, _, rfl⟩

theorem witness_EveryStepKeepsTheLine_idle :
    ({ still with pending := [.pollTime] } : State).IdleLine ∧ ∃ t, step { still with pending := [.pollTime] } = .next t :=
  ⟨fun _ => rfl, _, rfl⟩

theorem witness_EveryStepKeepsTheLine_flight :
    (busy still).notices = [] ∧ (busy still).line.flight.isSome = true ∧ ∃ t, exec (.cplChange true) (busy still) = .next t :=
  ⟨rfl, rfl, _, rfl⟩

/-! ## Witnesses: direct lines -/

theorem witness_OnCountOfALevel : (255 ≤ 255 ∧ (12000 = 12000 ∨ 12000 = 24000)) ∧ (0 < 1 ∧ 1 < 255) ∧ (0 < 254 ∧ 254 < 255) :=
  by decide

/-- DL2 lit with an on-count and a settle count, its period begun at 5000000. -/
def lit (onCount settle : Nat) : State :=
  modLine 2 (fun l => { l with onCount := onCount, settle := settle }) (modTimebase .a (fun b => { b with start := 5000000 })
    { still with consist := { cplPresent := true } })

theorem witness_SampleTick :
    (∀ n ∈ [49, 50, 5000], (lit n 0).notices = [] ∧ (sampleMoment (lit n 0) 2).isSome = true)
      ∧ (lineRec (lit 49 0) 2).onCount < 50 ∧ 50 ≤ (lineRec (lit 50 1) 2).onCount ∧ 0 < (lineRec (lit 50 1) 2).settle
      ∧ (lineRec (lit 50 0) 2).settle = 0 ∧ 2999 * 5 < (wiredOf (lit 50 0) 2).trip
      ∧ (lit 50 0).consist.cplPresent = true ∧ (circuitRec (lit 50 0) 2).samples.length < 3 := by decide

theorem witness_SampleTick_fourth :
    let s := modCircuit 2 (fun c => { c with samples := [0, 0, 0] }) (lit 50 0)
    s.notices = [] ∧ (sampleMoment s 2).isSome = true ∧ (circuitRec s 2).overfull = false
      ∧ (circuitRec s 2).samples.length = 3 ∧ (circuitRec s 2).last ≠ some (evaluate s 2 [0, 0, 0, 0]) := by decide

theorem witness_SampleTick_discarded :
    let s := modCircuit 2 (fun c => { c with overfull := true }) (lit 50 0)
    s.notices = [] ∧ (sampleMoment s 2).isSome = true ∧ (circuitRec s 2).overfull = true := by decide

theorem witness_LineTrips :
    let s := { lit 50 0 with consist := {} }
    s.notices = [] ∧ (sampleMoment s 2).isSome = true ∧ (lineRec s 2).settle = 0 ∧ (wiredOf s 2).trip ≤ 3000 * 5
      ∧ s.consist.cplPresent = false ∧ s.check.slot = none := by decide

theorem witness_FaultInputsAct :
    (still.notices = [] ∧ faultInput still .fb = false ∧ groupTripped still .fb = false ∧ still.consist.cplPresent = false
      ∧ still.check.slot = none)
      ∧ groupTripped (setGroupTrip .fb true still) .fb = true ∧ faultInput (setGroupTrip .fb true still) .fb = false := by
  decide

theorem witness_SupplyAndHoldsAct :
    let held := modLine 3 (fun l => { l with hold := some 4900000 }) still
    let slot : Slot := { entry := { target := .circuit 3 }, window := true, expiry := 6000000 }
    let open' := { held with check := { held.check with slot := some slot } }
    (lineRec held 3).hold = some 4900000 ∧ windowOn held 3 = false ∧ (lineRec open' 3).hold = some 4900000
      ∧ windowOn open' 3 = true := by decide

/-! ## Witnesses: the Tractor Port and the Consist Memory -/

/-- A queue of so many replies. -/
def queued (n : Nat) (s : State) : State :=
  { s with port := { s.port with queue := List.replicate n { key := none, id := 0x6B0, data := [1] } } }

theorem witness_FramesArePlacedAndSent_consist :
    ∀ n ∈ [0, 15, 16], ∀ f ∈ (queued n still).port.queue, f.key = some .consist → f.sending = true := by decide

/-- A frame of a key waits behind a reply. -/
def behind (k : FrameKey) (s : State) : State :=
  { s with port := { s.port with
    queue := [{ key := none, id := 0x6B0, data := [1] }, { key := some k, id := 0x6C0, data := [4, 0, 4] }] } }

theorem witness_FramesArePlacedAndSent_replaced :
    let s := behind .consist still
    let r := behind (.result 1 0 false) (setRefresh 1 0 false (some 4900000) (at2 .running))
    s.port.queue = [{ key := none, id := 0x6B0, data := [1] }] ++ { key := some .consist, id := 0x6C0, data := [4, 0, 4] } :: []
      ∧ r.port.queue = [{ key := none, id := 0x6B0, data := [1] }]
          ++ { key := some (.result 1 0 false), id := 0x6C0, data := [4, 0, 4] } :: []
      ∧ refreshMoment r = some 4900000 ∧ firstRefresh (advanceTo 4900000 r) = some (1, 0, false)
      ∧ qualifies (advanceTo 4900000 r) 1 0 false = true := ⟨rfl, rfl, by decide, by decide, by decide⟩

/-- A refresh time of (2, group 0, half 0) that has passed. -/
def refreshing (n : Nat) : State := queued n (setRefresh 1 0 false (some 4900000) (at2 .running))

theorem witness_FramesArePlacedAndSent_refresh :
    8 ≤ (refreshing 8).port.queue.length ∧ (refreshing 7).port.queue.length < 8
      ∧ refreshMoment (refreshing 7) = some 4900000
      ∧ firstRefresh (advanceTo 4900000 (refreshing 7)) = some (1, 0, false)
      ∧ (∀ f ∈ (refreshing 7).port.queue, f.key ≠ some (.result 1 0 false))
      ∧ qualifies (advanceTo 4900000 (refreshing 7)) 1 0 false = true := by decide

theorem witness_FramesArePlacedAndSent_head :
    still.port.queue = [] ∧ (queued 1 still).port.queue = { key := none, id := 0x6B0, data := [1] } :: []
      ∧ ∀ r bs, (queued 1 still).management.head ≠ .answered r bs := ⟨rfl, rfl, nofun⟩

/-- A write in progress. -/
def writing (w : Writing) : State := { still with memory := { writing := some w } }

theorem witness_StoreWritesComplete_record :
    let c : Remembered := { builder := 1, serial := 2, checksum := 3, directory := Tab.fill none }
    let s := writing (.record 3 c)
    (∀ q, s.memory.pendingWrites.get q = none) ∧ handedCode s ≠ some 24 ∧ resetting s = false
      ∧ s.memory.writing = some (.record 3 c) ∧ handedCode (writing (.rebuild 0 c)) ≠ some 24
      ∧ resetting (writing (.rebuild 0 c)) = false := by decide

theorem witness_StoreWritesComplete_header :
    let s := writing (.header .none)
    let r := { asked 25 [] (writing (.header .deviceReset)) with port := (queued 15 still).port }
    (s.memory.writing = some (.header .none) ∧ (∀ q, s.memory.pendingWrites.get q = none) ∧ handedCode s ≠ some 24
        ∧ resetting s = false)
      ∧ r.memory.writing = some (.header .deviceReset) ∧ r.management.requests = req 25 [] :: []
      ∧ r.port.queue.length < 16 := by decide

/-! ## Witnesses: what arrives on the tractor's channel -/

theorem witness_FieldConversions : (1 ≤ 1 ∧ 1 ≤ 8 ∧ 1 < 2 ^ 1) ∧ 1 ≤ 8 ∧ 8 ≤ 8 ∧ 255 < 2 ^ 8 := by decide

theorem witness_RequestIsTaken :
    let f := frame 0x6A0 [21, 9]
    (f.remote = false ∧ f.format = .standard ∧ f.id = 0x6A0 + still.port.node.val ∧ frameBytes f = 21 :: 9 :: [])
      ∧ still.management.requests.length < 4 ∧ knownCode 21 = true ∧ knownCode 1 = true ∧ knownCode 25 = true
      ∧ 4 ≤ brimful.management.requests.length ∧ 16 ≤ brimful.port.queue.length
      ∧ (queued 15 brimful).port.queue.length < 16 ∧ dataLength (frame 0x6A0 [21]) < 2 := by decide

/-- One entry, number 47. -/
def oneEntry (k : DecodeKind) (f : Option Code) : State :=
  let e : DecodeEntry := { format := .standard, id := 0x2C4, byte := 0, bit := 0, width := 8, kind := k, code := f }
  { still with decoder := { entries := (Tab.fill none).put 47 (some e) } }

theorem witness_FramesAreDecoded_command :
    let s := oneEntry .switch (some 63)
    let e : DecodeEntry :=
      { format := .standard, id := 0x2C4, byte := 0, bit := 0, width := 8, kind := .switch, code := some 63 }
    (s.notices = [] ∧ isRequest s (frame 0x2C4 [1]) = false ∧ s.decoder.entries.get 47 = some e
        ∧ entryMatches e (frame 0x2C4 [1]) = true
        ∧ ∀ m x, s.decoder.entries.get m = some x → entryMatches x (frame 0x2C4 [1]) = true → m = 47)
      ∧ (pickField e (frame 0x2C4 [1])).bind (convertField e.kind e.width) = some 255
      ∧ (pickField e (frame 0x2C4 [2])).bind (convertField e.kind e.width) = none := by
  refine ⟨⟨rfl, by decide, by decide, by decide, ?_⟩, by decide, by decide⟩
  intro m x h _
  simp only [oneEntry, still, State.reset, Tab.get_put, Tab.get_fill] at h
  split at h
  · assumption
  · cases h

theorem witness_FramesAreDecoded_speed :
    let s := oneEntry .speed none
    let e : DecodeEntry := { format := .standard, id := 0x2C4, byte := 0, bit := 0, width := 8, kind := .speed, code := none }
    (s.notices = [] ∧ isRequest s (frame 0x2C4 [0]) = false ∧ s.decoder.entries.get 47 = some e
        ∧ entryMatches e (frame 0x2C4 [0]) = true
        ∧ ∀ m x, s.decoder.entries.get m = some x → entryMatches x (frame 0x2C4 [0]) = true → m = 47)
      ∧ ∀ v ∈ [0, 1, 2, 3, 254], (pickField e (frame 0x2C4 [v])).bind (convertField e.kind e.width) = some v := by
  refine ⟨⟨rfl, by decide, by decide, by decide, ?_⟩, by decide⟩
  intro m x h _
  simp only [oneEntry, still, State.reset, Tab.get_put, Tab.get_fill] at h
  split at h
  · assumption
  · cases h

theorem witness_StaleTimersRunOut :
    let e : CommandEntry := { value := 255, kind := some .phase, since := some 4900000, fresh := true }
    let s := modCommand 16 (fun _ => e) still
    let d : Decoder := { speed := { speed := some 0, since := some 4900000, fresh := true }, stopTimer := some 4000000 }
    let m := { still with decoder := d }
    ((commandOf s 16).fresh = true ∧ (commandOf s 16).since = some 4900000)
      ∧ m.decoder.speed.fresh = true ∧ m.decoder.speed.since = some 4900000 ∧ m.decoder.stopTimer = some 4000000 := by
  decide

/-! ## Witnesses: coupling and enumeration -/

theorem witness_CouplingIsDebounced :
    let up := { still with consist := { cplLevel := true, cplTimer := some 4800000 } }
    let down := { still with consist := { cplPresent := true, cplTimer := some 4800000 } }
    (still.consist.cplLevel = false ∧ still.consist.cplLevel ≠ true)
      ∧ up.Quiet ∧ down.Quiet
      ∧ (up.consist.cplTimer = some 4800000 ∧ up.consist.cplLevel = true ∧ up.consist.cplPresent = false)
      ∧ down.consist.cplTimer = some 4800000 ∧ down.consist.cplLevel = false ∧ down.consist.cplPresent = true :=
  ⟨by decide, ⟨rfl, fun _ => rfl⟩, ⟨rfl, fun _ => rfl⟩, by decide⟩

theorem witness_EnumerationTimersRunOut_probe :
    let s := modRec 0 (fun r => { r with state := .running })
      { still with consist := { cplPresent := true, probeAt := some 5000001 } }
    s.Quiet ∧ s.consist.probeAt = some 5000001 ∧ s.consist.pass.active = false ∧ s.consist.release.active = false
      ∧ s.consist.sweep = none ∧ s.consist.cplPresent = true ∧ (∀ p, stateOf s p ≠ .lost) ∧ stateOf s 1 = .vacant
      ∧ ∀ p, p < 1 → stateOf s p ≠ .vacant :=
  ⟨⟨rfl, fun _ => rfl⟩, by decide⟩

/-- A pass at a number, in a wait. -/
def passing (n : Pos) (ph : EnumPhase) : State :=
  { still with consist := { cplPresent := true, pass := { active := true, n := some n, phase := ph, wait := 5000050 } } }

theorem witness_EnumerationTimersRunOut_waits :
    (passing 0 .spacing).Quiet ∧ (passing 2 .settling).Quiet ∧ (passing 2 .settling).consist.pass.active = true
      ∧ (passing 2 .settling).consist.pass.n = some 2 ∧ (passing 0 .spacing).consist.pass.phase = .spacing
      ∧ lowestVacant (passing 2 .settling) = some 0 ∧ (passing 3 .settling).consist.pass.n = some 3 :=
  ⟨⟨rfl, fun _ => rfl⟩, ⟨rfl, fun _ => rfl⟩, by decide⟩

/-! ## Witnesses: the line -/

theorem witness_ArbiterChooses :
    chooseOffer { offers := [{ busyOffer with cls := 6 }, { busyOffer with cls := 0, pos := 0 }] }
      = some { busyOffer with cls := 0, pos := 0 } := by decide

theorem witness_TransactionsEnd_op : busyOffer.op ≠ .poll ∧ (assignOffer 3).op ≠ .poll := by decide

/-- A transaction in flight whose end is to be discarded. -/
def discarding (o : Offer) : State :=
  { still with line := { flight := some { offer := o, deadline := 5000001, discard := true } } }

theorem witness_TransactionsEnd_discarded :
    ((discarding busyOffer).notices = [] ∧ (discarding busyOffer).line.offers = [] ∧ busyOffer.op ≠ .poll
        ∧ (discarding busyOffer).now < 5000001)
      ∧ pollOffer.op = .poll ∧ (∃ fl, (discarding pollOffer).line.flight = some fl ∧ fl.discard = true ∧ fl.ended = false)
      ∧ ∃ fl, { discarding busyOffer with now := 5000001 }.line.flight = some fl ∧ fl.deadline ≤ 5000001 :=
  ⟨by decide, rfl, ⟨_, rfl, rfl, rfl⟩, _, rfl, by decide⟩

theorem witness_EnumerationEnds_sweep :
    ∀ p ∈ ([1, 3] : List Pos), ∃ q : Pos, q.val + 1 = p.val ∧
      (let s : State := { still with now := 1999, consist := { sweep := some p }
                                     line := { flight := some { offer := sweepOffer p, deadline := 2000 } } }
       s.notices = [] ∧ s.line.offers = [] ∧ s.consist.sweep = some p ∧ (∀ x, inService s x = false)
         ∧ stateOf s p = .vacant ∧ s.now < 2000) := by decide

theorem witness_EnumerationEnds_swept :
    ∀ trigger cpl : Bool,
      let s : State := { still with now := 1999, consist := { sweep := some 0, sweepTrigger := trigger, cplPresent := cpl }
                                    line := { flight := some { offer := sweepOffer 0, deadline := 2000 } } }
      s.InFlight (sweepOffer 0) 2000 ∧ s.consist.sweep = some 0 ∧ stateOf s 0 = .vacant ∧ s.consist.pass.active = false
        ∧ s.consist.release.active = false ∧ ∀ x, inService s x = false ∧ stateOf s x ≠ .lost :=
  fun trigger cpl => ⟨⟨rfl, rfl, rfl, (by decide : (1999 : Nat) < 2000)⟩, rfl, rfl, rfl, rfl,
    by cases trigger <;> cases cpl <;> decide⟩

/-- A POLL in flight. -/
def polling (s : State) : State := { s with line := { flight := some { offer := pollOffer, deadline := 5000002 } } }

theorem witness_PollEnds :
    (polling (at2 .running)).notices = [] ∧ (polling (at2 .running)).line.offers = []
      ∧ (∀ x, ((Tab.fill true).put 1 false : Tab Bool 4).get x = true → inService (polling (at2 .running)) x = false)
      ∧ inService (polling (at2 .running)) 1 = true ∧ servicePending (polling (at2 .running)) 1 = false
      ∧ (polling (at2 .running)).service.pauses.get 1 = none := by decide

/-! ## Witnesses: timers -/

/-- An actuator first read held to a moment. -/
def heldRead : FirstRead := { code := 128, point := 63, last := .notReady, notBefore := some 5000100 }

theorem witness_FirstReadTimersRunOut_read :
    let s := modRec 1 (fun r => { r with firstReads := [heldRead] }) (at2 .exercising)
    s.Quiet ∧ stateOf s 1 = .exercising ∧ s.line.offers = [] ∧ wantedReading s 1 = none
      ∧ (posRec s 1).firstReads = [heldRead] ∧ ccInFlight s 1 = false ∧ releaseOffered s 1 = false :=
  ⟨⟨rfl, fun _ => rfl⟩, by decide⟩

theorem witness_FirstReadTimersRunOut_deadline :
    let s := modRec 1 (fun r => { r with deadline := some 5000100, directory := Tab.fill none }) (at2 .exercising)
    s.Quiet ∧ stateOf s 1 = .exercising ∧ wantedReading s 1 = none ∧ (posRec s 1).firstReads = []
      ∧ (posRec s 1).deadline = some 5000100 ∧ (posRec s 1).warm = true ∧ (∀ g, dirOf s 1 g = none) ∧ awaitedLamps s 1 = []
      ∧ ∀ f, (entryOf s 1 f).nextRead = none := by
  refine ⟨⟨rfl, fun _ => rfl⟩, by decide, by decide, by decide, by decide, by decide, by decide, by decide, ?_⟩
  intro f
  simp [entryOf, modRec, at2]

theorem bound2 {s : State} (f : Code) (b : BlockNo) (e : DirEntry) (r : FnRecord) (hs : inService s 1 = true)
    (hd : dirOf s 1 (groupOf f) = some e) (hg : groupRec s 1 (groupOf f) = { block := some b })
    (hb : (blockOf s b).state = .loaded) (hm : (memberOf f).val < e.members)
    (hr : (blockOf s b).rows.get (memberOf f) = some { unusable := false, reported := false, record := r }) :
    s.Bound 1 f b e r :=
  ⟨hs, hd, by rw [hg], by rw [hg], by rw [hg], hb, hm, false, hr⟩

theorem not_offered {s : State} {p : Pos} {f : Code} (hs : windowCovers s p f = false) (hc : (commandOf s f).value = 0)
    (he : entryOf s p f = { delivered := some 0 }) (second : Bool) : offerable s p second f = none := by
  have ht : targetOf s p f = none ∨ targetOf s p f = some 0 := by
    unfold targetOf
    split
    · exact .inl rfl
    · simp [hs, targetBeneath, he, hc]
  rcases ht with ht | ht <;> simp [offerable, isDue, ht, he]

theorem no_reads {s : State} {p : Pos} (x : Code) (he : ∀ f, f ≠ x → entryOf s p f = { delivered := some 0 })
    (hx : dueRead s p x = none) : dueReads s p = [] := by
  have hn : ∀ f, dueRead s p f = none := by
    intro f
    by_cases hf : f = x
    · rw [hf]; exact hx
    · simp [dueRead, he f hf]
  simp [dueReads, hn]

/-- The Delivery Unit has nothing to offer for a position where only one function departs from delivered value 0, and that
one has nothing to offer either. -/
theorem nothing_but {s : State} {p : Pos} (x : Code) (ho : s.delivery.owed.get p = [])
    (hs : ∀ f, f ≠ x → windowCovers s p f = false)
    (hr : readOffer s p = none) (hc : ∀ f, f ≠ x → (commandOf s f).value = 0)
    (he : ∀ f, f ≠ x → entryOf s p f = { delivered := some 0 }) (hx : ∀ second, offerable s p second x = none)
    (hd : dueRead s p x = none) (h0 : standing s .deliveryUnit 0 (linePos p) = none)
    (h1 : standing s .deliveryUnit 1 (linePos p) = none) : s.AtRest p := by
  refine ⟨⟨by simp [ho], fun second f => ?_, hr, h0, h1⟩, no_reads x he hd⟩
  by_cases hf : f = x
  · rw [hf]; exact hx second
  · exact not_offered (hs f hf) (hc f hf) (he f hf) second

/-- As `nothing_but`, the one function's delivery of v being due. -/
theorem only_due {s : State} {p : Pos} (x : Code) (v : Nat) (ho : s.delivery.owed.get p = [])
    (hs : ∀ f, f ≠ x → windowCovers s p f = false)
    (hr : readOffer s p = none) (hc : ∀ f, f ≠ x → (commandOf s f).value = 0)
    (he : ∀ f, f ≠ x → entryOf s p f = { delivered := some 0 })
    (hx : ∀ second, offerable s p second x = if second = secondClass x v then some v else none)
    (hd : dueRead s p x = none) (h0 : standing s .deliveryUnit 0 (linePos p) = none)
    (h1 : standing s .deliveryUnit 1 (linePos p) = none) : s.OneDue p x v := by
  refine ⟨ho, fun second f => ?_, hr, no_reads x he hd, h0, h1⟩
  by_cases hf : f = x
  · rw [hf, hx second]; simp
  · rw [not_offered (hs f hf) (hc f hf) (he f hf) second]; simp [hf]

/-- The state with the entry of (2, f) replaced. -/
def with2 (f : Code) (e : StatusEntry) (s : State) : State := modEntry 1 f (fun _ => e) s

theorem entryOf_with2 (f g : Code) (e : StatusEntry) (st : PosState) (feed : Feed) :
    entryOf (with2 f e (at2 st feed)) 1 g = if g = f then e else { delivered := some 0 } := by
  simp [entryOf, with2, modEntry, at2, Tab.get_upd]

theorem entryOf_modEntry_ne {p : Pos} {f g : Code} (h : StatusEntry → StatusEntry) (s : State) (hg : g ≠ f) :
    entryOf (modEntry p f h s) p g = entryOf s p g := by
  simp [entryOf, modEntry, Tab.get_upd, hg]

theorem commandOf_at2 (g : Code) (st : PosState) (feed : Feed) : (commandOf (at2 st feed) g).value = 0 := by
  simp [commandOf, at2, still, State.reset]

/-- The entry of an actuator not yet delivered, whose retry time comes. -/
def due : StatusEntry := { delivered := some 0, override := some 1, unavailable := true, retryAt := some 5000500 }

theorem witness_HeldAccessesAreOffered_bound :
    let s := busy (with2 128 due (at2 .running))
    s.notices = [] ∧ s.line.flight = some { offer := busyOffer, deadline := 5001000 }
      ∧ s.Bound 1 128 2 (entry 300) (row 12 .actuator).record ∧ (row 12 .actuator).record.point ≤ 63
      ∧ (row 12 .actuator).record.feed = .node ∧ (entryOf s 1 128).unavailable = true
      ∧ (entryOf s 1 128).retryAt = some 5000500 ∧ permits s 2 1 (deliveryKind s 1 128) = true :=
  ⟨rfl, rfl, bound2 128 2 _ _ (by decide) (by decide) (by decide) (by decide) (by decide) (by decide), by decide⟩

theorem witness_HeldAccessesAreOffered_due :
    State.OneDue (advanceTo 5000500 (busy (with2 128 due (at2 .running)))) 1 128 1 := by
  refine only_due 128 1 (by decide) (fun _ _ => rfl) (by decide) (fun g _ => commandOf_at2 g .running .node)
      ?_ ?_ (by decide) (by decide)
    (by decide)
  · exact fun g hg => (entryOf_with2 128 g due .running .node).trans (if_neg hg)
  · intro second; cases second <;> decide

theorem witness_HeldAccessesAreOffered_stop :
    let s1 := advanceTo 5000500 (modOwed 1 (fun _ => [{ code := 128, notBefore := some 5000500 }]) (busy (at2 .running)))
    State.AtRest (modOwed 1 (fun _ => []) s1) 1 ∧ stopInFlight s1 1 128 = false := by
  refine ⟨nothing_but 128 (by decide) (fun _ _ => rfl) (by decide) ?_ ?_ ?_ (by decide) (by decide) (by decide), by decide⟩
  · exact fun g _ => commandOf_at2 g .running .node
  · intro g _
    simp [entryOf, modOwed, modDelivery, advanceTo, advance, busy, at2]
  · intro second; cases second <;> decide

theorem dueReads_only {s : State} {p : Pos} {f : Code} {w : Bool} {t : Time} (hf : f ∈ allCodes.drop 64)
    (hd : ∀ g, dueRead s p g = if g = f then some (w, t) else none) : dueReads s p = [(f, w, t)] := by
  have h : ∀ fs : List Code, fs.Nodup → (fs.filterMap fun g => (dueRead s p g).map fun x => (g, x))
      = if f ∈ fs then [(f, w, t)] else [] := by
    intro fs
    induction fs with
    | nil => intro _; rfl
    | cons a as ih =>
      intro hn
      rw [List.filterMap_cons, hd a]
      by_cases ha : a = f
      · subst ha
        simp [ih (List.nodup_cons.mp hn).2, (List.nodup_cons.mp hn).1]
      · simp [ha, ih (List.nodup_cons.mp hn).2, Ne.symm ha]
  have hn : (allCodes.drop 64).Nodup := (List.nodup_finRange 192).sublist (List.drop_sublist _ _)
  rw [dueReads, h _ hn, if_pos hf]
  rfl

/-- The entry of a sensor whose next periodic read comes, and of an actuator whose watch read comes. -/
def dueSensor : StatusEntry := { delivered := some 0, nextRead := some 5000500 }
def dueWatch : StatusEntry := { delivered := some 0, watchDeadline := some 6000000, nextRead := some 5000500 }

theorem witness_HeldAccessesAreOffered_periodic :
    let s := with2 64 dueSensor (at2 .running)
    s.Quiet ∧ s.Bound 1 64 1 (entry 200) (row 11 .sensor).record ∧ permits s 2 1 .rdp = true
      ∧ standing s .deliveryUnit 5 (linePos 1) = none ∧ readInFlight s 1 = false ∧ periodicMoment s 1 64 = some 5000500
      ∧ dueReads (advanceTo 5000500 s) 1 = (64, false, 5000500) :: [] := by
  refine ⟨⟨rfl, fun _ => rfl⟩, bound2 64 1 _ _ (by decide) (by decide) (by decide) (by decide) (by decide) (by decide),
    by decide, by decide, by decide, by decide, ?_⟩
  refine dueReads_only (by decide) fun g => ?_
  have he : entryOf (advanceTo 5000500 (with2 64 dueSensor (at2 .running))) 1 g
      = if g = 64 then dueSensor else { delivered := some 0 } := entryOf_with2 64 g dueSensor .running .node
  by_cases hg : g = 64
  · subst hg; decide
  · simp [dueRead, he, hg]

theorem witness_HeldAccessesAreOffered_watch :
    let s := with2 128 dueWatch (at2 .running)
    s.Bound 1 128 2 (entry 300) (row 12 .actuator).record ∧ watchMoment s 1 128 = some 5000500
      ∧ dueReads (advanceTo 5000500 s) 1 = (128, true, 5000500) :: [] := by
  refine ⟨bound2 128 2 _ _ (by decide) (by decide) (by decide) (by decide) (by decide) (by decide), by decide, ?_⟩
  refine dueReads_only (by decide) fun g => ?_
  have he : entryOf (advanceTo 5000500 (with2 128 dueWatch (at2 .running))) 1 g
      = if g = 128 then dueWatch else { delivered := some 0 } := entryOf_with2 128 g dueWatch .running .node
  by_cases hg : g = 128
  · subst hg; decide
  · simp [dueRead, he, hg]

/-- The entry of an actuator that runs until its deadline. -/
def watched : StatusEntry :=
  { delivered := some 1, override := some 1, watchDeadline := some 5000500, nextRead := some 5000600, watchUnits := 600 }

theorem witness_WatchTimesOut :
    let s := busy (with2 128 watched (at2 .running))
    s.notices = [] ∧ s.line.flight.isSome = true ∧ stateOf s 1 = .running ∧ (entryOf s 1 128).watchDeadline = some 5000500
      ∧ (entryOf s 1 128).result ≠ .actTimeout ∧ s.Bound 1 128 2 (entry 300) (row 12 .actuator).record
      ∧ stopInFlight s 1 128 = false ∧ s.line.offers = [] ∧ s.delivery.owed.get 1 = [] ∧ (advanceTo 5000500 s).AtRest 1 := by
  refine ⟨rfl, rfl, by decide, by decide, by decide,
    bound2 128 2 _ _ (by decide) (by decide) (by decide) (by decide) (by decide) (by decide), by decide, rfl, by decide, ?_⟩
  refine nothing_but 128 (by decide) (fun _ _ => rfl) (by decide) (fun g _ => commandOf_at2 g .running .node)
      ?_ ?_ (by decide) (by decide)
    (by decide)
  · intro g hg
    exact (entryOf_with2 128 g watched .running .node).trans (if_neg hg)
  · intro second; cases second <;> decide

/-- A node-lamp check whose reading comes first and whose expiry comes later. -/
def lampCheck : NodeLampCheck :=
  { code := 0, nextReading := some 5000200, expiry := 5009000, tolerance := 20, threshold := 20 }

theorem witness_LoadCheckTimersRunOut_node :
    let s := setNodeCheck 1 .opportunistic (some lampCheck) (at2 .running)
    let r := setNodeCheck 1 .opportunistic (some { lampCheck with lastClass := some .ok }) (at2 .running)
    (s.Quiet ∧ stateOf s 1 = .running ∧ nodeCheck s 1 .opportunistic = some lampCheck
        ∧ nodeCheck s 1 .slot = none ∧ (∀ x, x ≠ .opportunistic → nodeCheck s 1 x = none)
        ∧ standing s .loadCheckUnit 4 (linePos 1) = none ∧ readingInFlight s 1 = false ∧ s.check.oppPending.get 1 = [])
      ∧ (entryOf (with2 0 { result := .ok } s) 1 0).result ≠ .unchecked
      ∧ (entryOf r 1 0).result ≠ classResult .ok true :=
  ⟨⟨⟨rfl, fun _ => rfl⟩, by decide, by decide, by decide, fun x hx => by cases x <;> first | rfl | exact absurd rfl hx,
    by decide, by decide, by decide⟩, by decide, by decide⟩

theorem witness_LoadCheckTimersRunOut_slot :
    let slot : Slot := { entry := { target := .circuit 7 }, window := false, expiry := 5000300 }
    let o : CheckOutcome := { cls := .low }
    let s := { at2 .running with check := { slot := some slot } }
    let c : Contributor := { pos := 1, code := 0, nominal := 5, loadKind := .resistive }
    let r := modCircuit 7 (fun x => { x with contributors := List.replicate 16 c, last := some o, reported := some o }) s
    (s.Quiet ∧ s.check.slot = some slot ∧ s.check.queue = [] ∧ (circuitRec s 7).contributors.length ≤ 16
        ∧ (circuitRec s 7).last = none ∧ ∀ c ∈ (circuitRec s 7).contributors, (entryOf s c.pos c.code).result ≠ .unchecked)
      ∧ (circuitRec r 7).contributors.length ≤ 16 ∧ (circuitRec r 7).last = some o ∧ (circuitRec r 7).reported = some o :=
  ⟨⟨⟨rfl, fun _ => rfl⟩, by decide, by decide, by decide, by decide, by decide⟩, by decide⟩

/-- A running sequence at an item. -/
def sequence (m : SeqMode) (again : Option Time) : State :=
  { at2 .running with sequence := { state := .running, op := some .get, mode := some m, count := some 64, timeout := some 10,
                                    pos := some 1, addr := some 63, itemStart := some 4995000, repeatAt := again } }

theorem witness_LineTimersRunOut :
    let p := { at2 .running with service := { nextPoll := some 5000001 } }
    let s := sequence .repeatUntilReady (some 5000010)
    (p.Quiet ∧ pollMoment p = some 5000001)
      ∧ (s.Quiet ∧ s.sequence.state = .running ∧ s.sequence.repeatAt = some 5000010 ∧ s.sequence.pos = some 1
        ∧ s.sequence.addr = some 63 ∧ s.sequence.op = some .get ∧ 63 ≤ seqLast .get)
      ∧ s.sequence.mode = some .repeatUntilReady ∧ s.sequence.itemStart = some 4995000 ∧ s.sequence.timeout = some 10 :=
  ⟨⟨⟨rfl, fun _ => rfl⟩, by decide⟩, ⟨⟨rfl, fun _ => rfl⟩, by decide⟩, by decide⟩

theorem witness_LineTimersRunOut_attempt :
    let s := modRec 1 (fun r => { r with attemptTimer := some 5000500 }) (at2 .lost)
    let far := { s with consist := { s.consist with cplPresent := false } }
    (s.Quiet ∧ stateOf s 1 = .lost ∧ (posRec s 1).attemptTimer = some 5000500 ∧ frontmostLost s 1 = true
        ∧ s.consist.cplPresent = true ∧ (posRec s 1).attemptUnderWay = false)
      ∧ far.Quiet ∧ (posRec far 1).attemptTimer = some 5000500 ∧ far.consist.cplPresent = false :=
  ⟨⟨⟨rfl, fun _ => rfl⟩, by decide⟩, ⟨rfl, fun _ => rfl⟩, by decide⟩

/-! ## Witnesses: resets and requests -/

theorem witness_PartResets :
    let s := busy { still with management := { resetPlaced := some 4950000 } }
    s.notices = [] ∧ s.management.resetPlaced = some 4950000
      ∧ ∀ fl, s.line.flight = some fl → fl.ended = false := by
  refine ⟨rfl, rfl, ?_⟩
  intro fl h
  cases h
  rfl

theorem witness_ShortRequestsAreRefused :
    (asked 1 [1, 2, 3] still).notices = [] ∧ (asked 1 [1, 2, 3] still).Serving 1 (req 1 [1, 2, 3]) []
      ∧ (req 1 [1, 2, 3]).args.length < 4 ∧ (asked 2 [127, 0, 0, 0, 0] still).Serving 2 (req 2 [127, 0, 0, 0, 0]) []
      ∧ (req 2 [127, 0, 0, 0, 0]).args.length < 6 ∧ argByte (req 2 [127, 0, 0, 0, 0]).args 0 < 128
      ∧ (asked 2 [128, 1, 0, 0, 0] still).Serving 2 (req 2 [128, 1, 0, 0, 0]) []
      ∧ (req 2 [128, 1, 0, 0, 0]).args.length < 6 ∧ 128 ≤ argByte (req 2 [128, 1, 0, 0, 0]).args 0
      ∧ argByte (req 2 [128, 1, 0, 0, 0]).args 1 = 1 ∧ (req 2 [128]).args.length < 2 :=
  ⟨rfl, serving (by decide) (by decide), by decide, serving (by decide) (by decide), by decide, by decide,
    serving (by decide) (by decide), by decide⟩

/-- 63 of 64 items stored, and room for a reply. -/
def stored : State := { brimful with port := {} }

theorem witness_TablesAreRead :
    ((asked 1 [0, 0, 0, 0] still).Serving 1 (req 1 [0, 0, 0, 0]) [] ∧ (readItem still 0 0).isSome = true
        ∧ readItem still 255 0 = none)
      ∧ (asked 3 [47, 0] still).Serving 3 (req 3 [47, 0]) [] ∧ (asked 5 [7, 7] still).Serving 5 (req 5 [7, 7]) []
      ∧ (asked 7 [7, 6] still).Serving 7 (req 7 [7, 6]) [] ∧ (wiredFieldOf 6).isSome = true ∧ wiredFieldOf 7 = none
      ∧ (asked 20 [0] still).Serving 20 (req 20 [0]) [] ∧ (asked 19 [62, 0] stored).Serving 19 (req 19 [62, 0]) []
      ∧ stored.sequence.buffer[62]?.isSome = true ∧ stored.sequence.buffer.length ≤ 63 :=
  ⟨⟨serving (by decide) (by decide), by decide, by decide⟩, serving (by decide) (by decide), serving (by decide) (by decide),
    serving (by decide) (by decide), by decide, by decide, serving (by decide) (by decide), serving (by decide) (by decide),
    by decide⟩

/-- The valid entry 47 is the SPEED entry, and a first part for it is staged. -/
def staged : State := setStaging (some { entry := 47, format := .extended, id := 2 ^ 29 - 1 }) (oneEntry .speed none)

theorem witness_DecodeIsWritten :
    let s := fun (args : List Nat) => asked 2 args staged
    let e : DecodeEntry :=
      { format := .extended, id := 2 ^ 29 - 1, byte := 7, bit := 0, width := 8, kind := .level, code := some 63 }
    ((s [47, 1, 255, 255, 255, 31]).notices = []
        ∧ (s [47, 1, 255, 255, 255, 31]).Serving 2 (req 2 [47, 1, 255, 255, 255, 31]) []
        ∧ 6 ≤ (req 2 [47, 1, 255, 255, 255, 31]).args.length ∧ formatOf 1 = some .extended
        ∧ idInRange .extended (argId (req 2 [47, 1, 255, 255, 255, 31]).args 2) = true)
      ∧ (isSpeedEntry (staged.decoder.entries.get 47) = true ∧ staged.decoder.motion = .moving
        ∧ isSpeedEntry (staged.decoder.entries.get 46) = false)
      ∧ staged.management.staging = some { entry := 47, format := .extended, id := 2 ^ 29 - 1 }
      ∧ (formatOf 0 = some .standard ∧ idInRange .standard (argId [4, 0, 0, 8, 0, 0] 2) = false) ∧ 47 ≠ 174 - 128
      ∧ decodeKindOf 2 = some .level ∧ argOptCode [128, 1, 56, 8, 2, 63] 5 = some (some 63)
      ∧ decodeEntryOk still 47 e = true ∧ decodeEntryOk still 47 { e with bit := 1 } = false
      ∧ still.management.staging = none :=
  ⟨⟨rfl, serving (by decide) (by decide), by decide, by decide, by decide⟩, by decide⟩

theorem witness_TablesAreWritten :
    ((asked 4 [7, 7, 63] still).Serving 4 (req 4 [7, 7, 63]) [] ∧ (∀ p, inService (asked 4 [7, 7, 63] still) p = false)
        ∧ (asked 4 [7, 7, 63] still).line.offers = [])
      ∧ (asked 8 [1, 0, 0] still).Serving 8 (req 8 [1, 0, 0]) [] ∧ tbOf 1 = some .b
      ∧ (asked 21 [] still).Serving 21 (req 21 []) [] ∧ (asked 13 [4] still).Serving 13 (req 13 [4]) [] :=
  ⟨⟨serving (by decide) (by decide), by decide, rfl⟩, serving (by decide) (by decide), rfl, serving (by decide) (by decide),
    serving (by decide) (by decide)⟩

theorem witness_LinesAreConfigured :
    let t := { setGroupTrip .fb true still with direct := { still.direct with faultB := true, tripB := true } }
    ((asked 6 [7, 0, 63, 0] still).notices = [] ∧ (asked 6 [7, 0, 63, 0] still).Serving 6 (req 6 [7, 0, 63, 0]) []
        ∧ kindOf 63 = .lamp ∧ tbOf 1 = some .b ∧ compOf 1 = some .resistive ∧ still.check.slot = none)
      ∧ (asked 22 [128] t).Serving 22 (req 22 [128]) [] ∧ (128).testBit 7 = true
      ∧ (groupTripped t (lineGroup 7) && faultInput t (lineGroup 7)) = true ∧ lineGroup 3 = .fa ∧ lineGroup 4 = .fb :=
  ⟨⟨rfl, serving (by decide) (by decide), by decide, rfl, rfl, rfl⟩, serving (by decide) (by decide), by decide⟩

/-- An exercise window or a DRIVEN check of circuit 7 holds the slot. -/
def slotted (window : Bool) (s : State) : State :=
  { s with check := { s.check with slot := some { entry := { target := .circuit 7 }, window := window, expiry := 6000000 } } }

theorem witness_LinesAreConfigured_slot :
    let s := fun window => asked 6 [7, 0, 63, 0] (slotted window still)
    let lit := modCommand 63 (fun e => { e with value := 1 }) (s true)
    (∀ window, (s window).Serving 6 (req 6 [7, 0, 63, 0]) []) ∧ (s false).check.slot.map (fun sl => sl.window) = some false
      ∧ ((s true).check.slot.map (fun sl => (sl.window, sl.entry.target)) = some (true, .circuit 7)
        ∧ levelBeneath (s true) (.circuit 6) = 0 ∧ (commandOf (s true) 63).value = 0 ∧ (commandOf lit 63).value ≠ 0
        ∧ (circuitRec lit 7).contributors = [] ∧ (∀ p, inService lit p = false) ∧ lit.line.offers = [])
      ∧ (asked 6 [7, 6, 0, 0] still).Serving 6 (req 6 [7, 6, 0, 0]) [] :=
  ⟨fun _ => serving (Nat.succ_pos 15) (by decide), by decide, by decide, serving (by decide) (by decide)⟩

theorem witness_SettingsAreWritten_stale :
    let e : CommandEntry := { value := 0, kind := some .phase, since := some 4900000, fresh := true, neverUpdated := false }
    let d : Decoder :=
      { commands := (Tab.fill {}).put 16 e, speed := { speed := some 3, since := some 4900000, fresh := true } }
    let s := asked 9 [1, 100, 0] { still with decoder := d }
    s.notices = [] ∧ s.Serving 9 (req 9 [1, 100, 0]) [] ∧ argByte (req 9 [1, 100, 0]).args 0 = 1
      ∧ ((commandOf s 16).fresh = true ∧ (commandOf s 16).since = some 4900000 ∧ 4900000 + ms (max 100 (min 2000 100)) ≤ s.now)
      ∧ (s.decoder.speed.fresh = true ∧ s.decoder.motion = .moving ∧ s.check.slot = none)
      ∧ (commandOf s 17).fresh = false ∧ ¬ 4900001 + ms (max 100 (min 2000 100)) ≤ s.now :=
  ⟨rfl, serving (by decide) (by decide), by decide, by decide, by decide, by decide⟩

theorem witness_SettingsAreWritten :
    (asked 9 [4, 255, 255] still).notices = [] ∧ (asked 9 [4, 255, 255] still).Serving 9 (req 9 [4, 255, 255]) []
      ∧ 3 ≤ (req 9 [4, 255, 255]).args.length ∧ argByte (req 9 [4, 255, 255]).args 0 = 4
      ∧ argByte (req 9 [0, 224, 46]).args 1 + 256 * argByte (req 9 [0, 224, 46]).args 2 = 12000
      ∧ argByte (req 9 [0, 192, 93]).args 1 + 256 * argByte (req 9 [0, 192, 93]).args 2 = 24000 :=
  ⟨rfl, serving (by decide) (by decide), by decide⟩

/-- An actuator with value 2 delivered, one whose delivery is held to a retry time, and one with an override. -/
def delivered2 : StatusEntry := { delivered := some 2, refusalLatch := true, readLatch := true }
def retrying : StatusEntry := { delivered := some 0, unavailable := true, retryAt := some 9000000 }
def overridden : StatusEntry := { delivered := some 0, override := some 2, refusalLatch := true }

/-- What a request leaves of the entry of (2, 8/00), its override being written. -/
def withOverride (v : Option Nat) (s : State) : State :=
  modEntry 1 128 (fun x => { x with override := v, refusalLatch := false, readLatch := false }) s

/-- The SET-FUNCTION of (2, 8/00) to 1 waits. -/
def waiting (s : State) : State :=
  State.held { s with delivery := { s.delivery with pendingOverride := some { pos := 1, code := 128, value := 1 } } }

theorem entryOf_waiting (s : State) (p : Pos) (g : Code) : entryOf (waiting s) p g = entryOf s p g := rfl
theorem entryOf_replied (s : State) (r : Request) (p : Pos) (g : Code) :
    entryOf (s.replied r [] .ok []) p g = entryOf s p g := rfl
theorem entryOf_asked (s : State) (n : Nat) (l : List Nat) (p : Pos) (g : Code) :
    entryOf (asked n l s) p g = entryOf s p g := rfl
theorem entryOf_override (v : Option Nat) (e : StatusEntry) (n : Nat) (l : List Nat) {g : Code} (hg : g ≠ 128) :
    entryOf (withOverride v (asked n l (with2 128 e (at2 .running)))) 1 g = { delivered := some 0 } :=
  (entryOf_modEntry_ne _ _ hg).trans
    ((entryOf_asked _ n l 1 g).trans ((entryOf_with2 128 g e .running .node).trans (if_neg hg)))

theorem commandOf_kept (s : State) (v : Option Nat) (e : StatusEntry) (n : Nat) (l : List Nat) (g : Code) :
    commandOf (withOverride v (asked n l (with2 128 e s))) g = commandOf s g := rfl
theorem commandOf_waiting (s : State) (g : Code) : commandOf (waiting s) g = commandOf s g := rfl
theorem commandOf_replied (s : State) (r : Request) (g : Code) : commandOf (s.replied r [] .ok []) g = commandOf s g := rfl
theorem commandOf_override (v : Option Nat) (e : StatusEntry) (n : Nat) (l : List Nat) (g : Code) :
    (commandOf (withOverride v (asked n l (with2 128 e (at2 .running)))) g).value = 0 := by
  rw [commandOf_kept]
  exact commandOf_at2 g .running .node

theorem witness_OverridesAreWritten_set :
    let s := asked 10 [2, 128, 2, 0] (with2 128 delivered2 (at2 .running))
    s.notices = [] ∧ s.Serving 10 (req 10 [2, 128, 2, 0]) [] ∧ (kindOf 128 = .actuator ∧ 2 ≤ 2)
      ∧ inService s 1 = true ∧ (entryOf s 1 128).notFitted = false ∧ s.check.slot = none
      ∧ (entryOf s 1 128).watchDeadline = none ∧ (entryOf s 1 128).timeoutHold = false ∧ (entryOf s 1 128).delivered = some 2
      ∧ State.AtRest ((withOverride (some 2) s).replied (req 10 [2, 128, 2, 0]) [] .ok []) 1 := by
  refine ⟨rfl, serving (by decide) (by decide), by decide, by decide, by decide, rfl, by decide, by decide, by decide, ?_⟩
  refine nothing_but 128 (by decide) (fun _ _ => rfl) (by decide)
      (fun g _ => by rw [commandOf_replied]; exact commandOf_override _ _ _ _ g)
    ?_ ?_ (by decide) (by decide) (by decide)
  · exact fun g hg => (entryOf_replied _ _ 1 g).trans (entryOf_override _ _ _ _ hg)
  · intro second; cases second <;> decide

theorem witness_OverridesAreWritten_waits :
    let s := asked 10 [2, 128, 1, 0] (with2 128 retrying (at2 .running))
    (entryOf s 1 128).delivered ≠ some 1 ∧ (waiting (withOverride (some 1) s)).AtRest 1 := by
  refine ⟨by decide, ?_⟩
  refine nothing_but 128 (by decide) (fun _ _ => rfl) (by decide)
      (fun g _ => by rw [commandOf_waiting]; exact commandOf_override _ _ _ _ g)
    ?_ ?_ (by decide) (by decide) (by decide)
  · exact fun g hg => (entryOf_waiting _ 1 g).trans (entryOf_override _ _ _ _ hg)
  · intro second; cases second <;> decide

theorem witness_OverridesAreWritten_owed :
    let s := asked 10 [2, 128, 1, 0]
      (modOwed 1 (fun _ => [{ code := 128, notBefore := some 5000500 }]) (with2 128 delivered2 (at2 .running)))
    s.Serving 10 (req 10 [2, 128, 1, 0]) [] ∧ (∃ o ∈ s.delivery.owed.get 1, o.code = 128) ∧ s.check.slot = none
      ∧ (entryOf s 1 128).delivered ≠ some 1 :=
  ⟨serving (by decide) (by decide), ⟨_, List.mem_cons_self, rfl⟩, rfl, by decide⟩

theorem witness_OverridesAreWritten_clear :
    let s := asked 11 [2, 128] (with2 128 overridden (at2 .running))
    s.Serving 11 (req 11 [2, 128]) [] ∧ (entryOf s 1 128).override ≠ none ∧ kindOf 128 ≠ .sensor
      ∧ s.delivery.pendingOverride = none ∧ inService s 1 = true
      ∧ State.AtRest ((withOverride none s).replied (req 11 [2, 128]) [] .ok []) 1 := by
  refine ⟨serving (by decide) (by decide), by decide, by decide, by decide, by decide, ?_⟩
  refine nothing_but 128 (by decide) (fun _ _ => rfl) (by decide)
      (fun g _ => by rw [commandOf_replied]; exact commandOf_override _ _ _ _ g)
    ?_ ?_ (by decide) (by decide) (by decide)
  · exact fun g hg => (entryOf_replied _ _ 1 g).trans (entryOf_override _ _ _ _ hg)
  · intro second; cases second <;> decide

theorem witness_FunctionIsRead :
    let s := fun (feed : Feed) => asked 12 [2, 0] (at2 .running feed)
    let n := asked 12 [2, 0] (busy (at2 .running))
    let refused := { s .node with policy := { faults := [], table := (policyDefault).put (policyIndex 2 1) 0 } }
    ((s .wired).notices = [] ∧ (s .wired).Serving 12 (req 12 [2, 0]) [] ∧ argByte (req 12 [2, 0]).args 0 = (1 : Pos).val + 1
        ∧ argByte (req 12 [2, 0]).args 1 = (0 : Code).val ∧ (s .wired).delivery.pendingRead = none
        ∧ (s .wired).Bound 1 0 0 (entry 100) (row 10 .lamp .wired).record ∧ permits (s .wired) 2 1 .mgr = true)
      ∧ (n.Serving 12 (req 12 [2, 0]) [] ∧ n.Bound 1 0 0 (entry 100) (row 10 .lamp).record ∧ permits n 2 1 .mgr = true
        ∧ busyOffer.why ≠ .managementRead 1 0 ∧ standing n .deliveryUnit 1 (linePos 1) = none)
      ∧ refused.Bound 1 0 0 (entry 100) (row 10 .lamp).record ∧ permits refused 2 1 .mgr = false :=
  ⟨⟨rfl, serving (by decide) (by decide), by decide, by decide, rfl,
      bound2 0 0 _ _ (by decide) (by decide) (by decide) (by decide) (by decide) (by decide), by decide⟩,
    ⟨serving (by decide) (by decide), bound2 0 0 _ _ (by decide) (by decide) (by decide) (by decide) (by decide) (by decide),
      by decide, by decide, by decide⟩,
    bound2 0 0 _ _ (by decide) (by decide) (by decide) (by decide) (by decide) (by decide), by decide⟩

/-- So many blocks pinned, from block 4 on. -/
def pinned (n : Nat) (s : State) : State :=
  { s with binding := { s.binding with blocks := s.binding.blocks.mapIdx fun b x =>
      { x with pinned := decide (4 ≤ b.val ∧ b.val < 4 + n) } } }

theorem witness_GroupsArePinned :
    let s := asked 14 [2, 4] (at2 .running)
    (s.notices = [] ∧ s.Serving 14 (req 14 [2, 4]) [] ∧ inService s 1 = true ∧ (dirOf s 1 4).isSome = true
        ∧ (groupRec s 1 4).fetchFailed = false ∧ (groupRec s 1 4).block = some 1 ∧ (blockOf s 1).pinned = false)
      ∧ ((allBlocks.filter fun b => (blockOf (pinned 11 s) b).pinned).length < 12
        ∧ 12 ≤ (allBlocks.filter fun b => (blockOf (pinned 12 s) b).pinned).length)
      ∧ ((asked 15 [2, 4] (at2 .running)).Serving 15 (req 15 [2, 4]) [] ∧ anyNoSpace s = false) :=
  ⟨⟨rfl, serving (by decide) (by decide), by decide⟩, by decide, serving (by decide) (by decide), by decide⟩

/-- Group 4 of position 2 holds no block, and block 3 is the lowest FREE one. -/
def unblocked : State :=
  asked 14 [2, 4] (modGroup 1 4 (fun x => { x with block := none }) (modBlock 1 (fun x => { x with owner := none })
    (busy (at2 .running))))

theorem witness_GroupsArePinned_claim :
    let word : Offer :=
      { requester := .bindingStore, cls := 2, pos := linePos 1, op := .readWord, addr := some 200, data := none,
        why := .fetchWord 1 4 3 200 }
    let t := State.replied (setOffers (fun os => os ++ [word]) (modGroup 1 4 (fun x => { x with block := some 3 })
      (modBlock 3 (fun _ => { state := .fetching, owner := some (1, 4), pinned := true, progress := some (0, 0) }) unblocked)))
      (req 14 [2, 4]) [] .ok []
    (inService unblocked 1 = true ∧ dirOf unblocked 1 4 = some (entry 200) ∧ (groupRec unblocked 1 4).block = none
        ∧ (blockOf unblocked 3).state = .free ∧ (blockOf unblocked 3).owner = none
        ∧ (∀ x, x < 3 → (blockOf unblocked x).state = .loaded) ∧ (∀ x, 3 < x → (blockOf unblocked x).state ≠ .fetching)
        ∧ standing unblocked .bindingStore 2 (linePos 1) = none ∧ ∀ a, busyOffer.why ≠ .fetchWord 1 4 3 a)
      ∧ t.AtRest 1 := by
  refine ⟨⟨by decide, by decide, by decide, by decide, by decide, by decide, by decide, by decide, nofun⟩, ?_⟩
  refine nothing_but 128 (by decide) (fun _ _ => rfl) (by decide) (fun g _ => commandOf_at2 g .running .node)
      ?_ ?_ (by decide) (by decide)
    (by decide)
  · intro g _
    simp [entryOf, State.replied, setOffers, modGroup, modBlock, unblocked, asked, busy, at2]
  · intro second; cases second <;> decide

/-- The Exercise Queue with so many node lamps of position 1. -/
def queue (n : Nat) (s : State) : State :=
  { s with check := { s.check with queue := (allCodes.take n).map fun f => { target := .lamp 0 f } } }

/-- Circuit 5 lists (2, 0/07). -/
def listing (s : State) : State :=
  modCircuit 5 (fun c => { c with contributors := [{ pos := 1, code := 7, nominal := 3, loadKind := .resistive }] }) s

theorem witness_CircuitIsRechecked :
    let s := fun (n : Nat) => asked 16 [1, 2, 7] (queue n (listing (at2 .running)))
    ((s 15).notices = [] ∧ (s 15).Serving 16 (req 16 [1, 2, 7]) [] ∧ 3 ≤ (req 16 [1, 2, 7]).args.length ∧ kindOf 7 = .lamp
        ∧ inService (s 15) 1 = true ∧ holdsContributor (s 15) 5 1 7 = true
        ∧ (∀ x, x < 5 → holdsContributor (s 15) x 1 7 = false) ∧ ∀ k, holdsContributor (s 15) k 1 8 = false)
      ∧ ((s 15).check.queue.length < 16 ∧ (s 15).check.queue ≠ [] ∧ ∀ e ∈ (s 15).check.queue, e.target ≠ .circuit 5)
      ∧ (16 ≤ (s 16).check.queue.length ∧ ∀ e ∈ (s 16).check.queue, e.target ≠ .circuit 5)
      ∧ ((s 0).decoder.motion = .moving ∧ (s 0).check.queue = [])
      ∧ ∃ e ∈ (s 15).check.queue, e.target = .lamp 0 14 :=
  ⟨⟨rfl, serving (by decide) (by decide), by decide⟩, by decide, by decide, by decide, by decide⟩

theorem witness_SequencesStartAndAbort :
    let a := [34, 63, 0, 1, 10, 0]
    let s := asked 17 a (at2 .running)
    let q : SeqRequest := { pos := 1, op := .get, mode := .repeatUntilReady, addr := 63, count := 1, timeout := 10 }
    (s.Quiet ∧ s.Serving 17 (req 17 a) [] ∧ seqRequest (req 17 a).args = some q ∧ 1 ≤ q.count ∧ q.addr ≤ seqLast q.op
        ∧ q.addr + q.count - 1 ≤ seqLast q.op ∧ 10 ≤ q.timeout ∧ s.sequence.state ≠ .running ∧ inService s q.pos = true)
      ∧ seqRequest (req 17 [0, 0, 0, 1, 0, 0]).args = none
      ∧ (asked 18 [] (sequence .ignoreReady none)).Quiet
      ∧ (asked 18 [] (sequence .ignoreReady none)).Serving 18 (req 18 []) []
      ∧ (asked 18 [] (sequence .ignoreReady none)).sequence.state = .running :=
  ⟨⟨⟨rfl, fun _ => rfl⟩, serving (by decide) (by decide), by decide⟩, by decide, ⟨rfl, fun _ => rfl⟩,
    serving (by decide) (by decide), rfl⟩

theorem witness_ReleaseBegins :
    let s := modRec 1 (fun r => { r with lostTimer := some 30000000 })
      (modRec 3 (fun r => { r with state := .running }) (at2 .lost))
    (s.Quiet ∧ s.consist.release.active = false ∧ (∀ x, (streamRec s x).identNext = none) ∧ stateOf s 3 ≠ .vacant
        ∧ stateOf s 3 ≠ .wired ∧ (∀ x, 3 < x → stateOf s x = .vacant) ∧ stateOf s 1 = .lost
        ∧ (posRec s 1).lostTimer = some 30000000 ∧ stateOf s 0 = .vacant)
      ∧ (asked 23 [2] s).Serving 23 (req 23 [2]) [] ∧ argByte (req 23 [2]).args 0 = (1 : Pos).val + 1 :=
  ⟨⟨⟨rfl, fun _ => rfl⟩, by decide⟩, serving (by decide) (by decide), by decide⟩

theorem witness_StoreWritesComplete_forget :
    let s := asked 24 [] still
    let d := { queued 15 (writing (.forget .deviceReset false)) with
      management := { requests := [req 24 []], head := .handed } }
    s.Serving 24 (req 24 []) [] ∧ (asked 25 [] still).Serving 25 (req 25 []) []
      ∧ (d.memory.writing = some (.forget .deviceReset false) ∧ d.management.requests = req 24 [] :: []
        ∧ d.management.head = .handed ∧ (req 24 []).code.toNat = 24 ∧ d.port.queue.length < 16
        ∧ ∀ q, d.memory.pendingWrites.get q = none) :=
  ⟨serving (by decide) (by decide), serving (by decide) (by decide), by decide⟩

/-! ## Witnesses: bindings, policy and load checks -/

theorem witness_TranslationIsAnswered :
    let s := at2 .running
    let marked := fun (g : GroupRecord) => modGroup 1 0 (fun _ => g) s
    let fetching := modBlock 0 (fun b => { b with state := .fetching }) s
    (inService (at2 .lost) 1 = false ∧ inService s 1 = true ∧ dirOf s 1 (groupOf 176) = none
        ∧ dirOf s 1 (groupOf 15) = some (entry 100))
      ∧ (groupRec (marked { fetchFailed := true }) 1 0).fetchFailed = true
      ∧ (groupRec (marked { noSpace := true }) 1 0).noSpace = true
      ∧ ((groupRec fetching 1 0).block = some 0 ∧ (blockOf fetching 0).state = .fetching)
      ∧ s.Bound 1 0 0 (entry 100) (row 10 .lamp).record
      ∧ (s.policy.table.get (policyIndex 2 1)).getLsbD (kindBit .rdp) = true
      ∧ (s.policy.table.get (policyIndex 2 0)).getLsbD (kindBit .rdp) = false := by
  refine ⟨by decide, by decide, by decide, by decide, ?_, by decide, by decide⟩
  exact bound2 0 0 _ _ (by decide) (by decide) (by decide) (by decide) (by decide) (by decide)

theorem witness_TranslationIsAnswered_missing :
    let s := modGroup 1 4 (fun x => { x with block := none }) (at2 .running)
    let full := { s with binding := { s.binding with blocks := s.binding.blocks.map fun x =>
      { x with state := .loaded, pinned := true, owner := some (0, 0) } } }
    let bad := modBlock 1 (fun x => { x with rows := (Tab.fill none).put 0 (some { row 11 .sensor with unusable := true }) })
      (at2 .running)
    ((groupRec s 1 4).block = none ∧ (takeBlock s).1 = some 3 ∧ (takeBlock full).1 = none)
      ∧ ((entry 200).members ≤ (memberOf 65).val ∧ (memberOf 64).val < (entry 200).members)
      ∧ (blockOf bad 1).rows.get (memberOf 64) = some { row 11 .sensor with unusable := true } := by decide

theorem witness_CurrentIsJudged :
    let e := (expected83.map fun x => x.2).sum
    39 < 40 ∧ 40 ≤ 40 ∧ e = 2446 ∧ e * (100 - 20) / 100 ≤ 1956 ∧ 1955 < e * (100 - 20) / 100
      ∧ (([] : List ((Pos × Code) × Nat)).map fun x => x.2).sum = 0
      ∧ expected83.filter (fun x => decide (max (e - 2011) x.2 - min (e - 2011) x.2 ≤ x.2 * 10 / 100)) = [((1, 2), 434)]
      ∧ (expected83.filter fun x => decide (max (e - 1437) x.2 - min (e - 1437) x.2 ≤ x.2 * 20 / 100)).length ≠ 1 := by decide

/-! ## Witnesses: the ends of transactions -/

/-- The state with a transaction in flight and no offer standing. -/
def flying (o : Offer) (d : Time) (s : State) : State :=
  { s with line := { s.line with offers := [], flight := some { offer := o, deadline := d } } }

theorem inFlight_flying {o : Offer} {d : Time} {s : State} (hn : s.notices = []) (hd : s.now < d) :
    (flying o d s).InFlight o d := ⟨hn, rfl, rfl, hd⟩

theorem early : (5000000 : Nat) < 5000300 := by decide

theorem witness_SampleTick_established :
    let c : Contributor := { pos := 1, code := 7, nominal := 3, loadKind := .resistive }
    let s := { modCircuit 2 (fun x =>
        { x with samples := [0, 0, 0], contributors := List.replicate 16 c, last := some { cls := .openCircuit } })
        (lit 50 0) with consist := (at2 .running).consist }
    s.notices = [] ∧ (sampleMoment s 2).isSome = true ∧ s.consist.cplPresent = true ∧ s.Reportable 2
      ∧ (circuitRec s 2).last = some (evaluate s 2 ([0, 0, 0] ++ [0]))
      ∧ (circuitRec s 2).reported ≠ some (evaluate s 2 ([0, 0, 0] ++ [0])) := by
  refine ⟨rfl, by decide, by decide, ⟨rfl, by decide, by decide, by decide⟩, by decide, by decide⟩

theorem witness_LineTrips_present :
    let s := { lit 50 0 with consist := (at2 .running).consist }
    s.notices = [] ∧ (sampleMoment s 2).isSome = true ∧ (lineRec s 2).settle = 0 ∧ (wiredOf s 2).trip ≤ 3000 * 5
      ∧ s.consist.cplPresent = true ∧ s.Reportable 2 :=
  ⟨rfl, by decide, by decide, by decide, rfl, rfl, by decide, by decide, by decide⟩

theorem witness_ArbiterChooses_turns :
    let a := { busyOffer with requester := .consistController, cls := 4 }
    let b := { busyOffer with requester := .loadCheckUnit, cls := 4 }
    let l : LineCtl := { offers := [b, a] }
    chooseOffer l = some a ∧ (l.lastGranted.get 4).get 1 = none ∧ a.requester ≠ .loadCheckUnit
      ∧ chooseOffer { l with lastGranted := l.lastGranted.upd 4 fun t => t.put 1 (some .consistController) } = some b
      ∧ b.requester ≠ .consistController := by decide

theorem witness_TransactionsEnd_missing :
    let s := busy still
    let r : Reply := { heard := true, ready := true, service := false, data := none }
    (∃ fl, s.line.flight = some fl ∧ fl.ended = false ∧ fl.offer.op = .readWord ∧ s.now < fl.deadline) ∧ r.data = none
      ∧ still.line.flight = none :=
  ⟨⟨_, rfl, rfl, rfl, by decide⟩, rfl, rfl⟩

theorem witness_TransactionsEnd_service :
    let o : Offer := { busyOffer with pos := linePos 1, why := .sequenceItem 1 7 0 }
    let s := flying o 5000100 (at2 .running)
    s.InFlight o 5000100 ∧ s.sequence.state ≠ .running ∧ inService s 1 = true :=
  ⟨inFlight_flying rfl (by decide), by decide, by decide⟩

/-- A pass whose ASSIGN is in flight, position 2 in a state. -/
def assigning (n : Pos) (st : PosState) (cpl : Bool) (attempts : Nat) (ending : Bool) : State :=
  flying (assignOffer n) 5000300 (modRec 1 (fun r => { r with state := st }) { still with consist := {
    cplPresent := cpl, pass := { active := true, n := some n, attempts := attempts, ending := ending, phase := .inFlight } } })

theorem witness_EnumerationEnds_assign :
    (∀ st cpl k e, (assigning 2 st cpl k e).InFlight (assignOffer 2) 5000300
        ∧ (assigning 0 st cpl k e).InFlight (assignOffer 0) 5000300)
      ∧ (let s := assigning 2 .lost true 2 false
         s.consist.pass.n = some 2 ∧ s.consist.pass.active = true ∧ s.consist.pass.phase = .inFlight
           ∧ s.consist.release.active = false ∧ stateOf s 2 = .vacant
           ∧ (s.consist.cplPresent = true ∧ ∀ m : Pos, m.val + 1 = (2 : Pos).val → stateOf s m ≠ .vacant))
      ∧ stateOf (assigning 2 .vacant true 1 true) 1 = .vacant ∧ (assigning 2 .lost false 0 true).consist.cplPresent = false
      ∧ (assigning 0 .vacant true 2 false).consist.pass.heard = false
      ∧ stateOf (assigning 0 .vacant true 2 false) 0 = .vacant := by
  exact ⟨fun _ _ _ _ => ⟨inFlight_flying rfl early, inFlight_flying rfl early⟩, by decide⟩

theorem witness_EnumerationEnds_release :
    emptying.notices = [] ∧ emptying.line.offers = [releaseOffer 1] ∧ emptying.now < 5000300
      ∧ emptying.line.flight = some { offer := assignOffer 2, deadline := 5000300 } ∧ emptying.line.lastServed.get 4 = 0
      ∧ emptying.consist.pass.active = true ∧ emptying.consist.pass.n = some 2 ∧ emptying.consist.pass.phase = .inFlight
      ∧ emptying.consist.release.active = true ∧ stateOf emptying 2 = .vacant := by decide

/-- R39, R56: a node that takes number 3 while position 2 awaits its RELEASE is not handed to bring-up. -/
theorem test_assign_during_release :
    let t := run (.transactionEnd { heard := true, ready := true, service := false, data := none }) emptying
    stateOf t 2 = .vacant ∧ t.consist.pass.active = false
      ∧ t.line.flight.map (fun fl => (fl.offer.op, fl.offer.pos)) = some (.release, 2)
      ∧ t.line.offers.map (fun o => (o.op, o.pos)) = [(.release, 3)] := by decide

/-- Position 3, its word at an address in flight. -/
def identifying (ws : List Word) (r : Option Remembered) : State :=
  flying (consistOfferOf (linePos 2) .readWord (some ws.length) none (.identWord 2 ws.length)) 5000300
    (modStream 2 (fun x => { x with identNext := some ws.length, identWords := ws })
      (modRec 2 (fun _ => { state := .identifying })
        { still with memory := { store := { records := (Tab.fill none).put 2 r } } }))

/-- A remembered directory of lamp groups 0 and 2, the lower one at the last locator. -/
def lampGroups : Directory :=
  ((Tab.fill none).put 0 (some { entry 1020 with members := 1 })).put 2 (some { entry 12 with members := 2 })

theorem witness_HeaderWordsAreTaken :
    let start := identifying [] none
    let last := fun (r : Option Remembered) => identifying [1, 1024, 7, 8, 9, 12, 3] r
    let agrees : Remembered := { builder := 7, serial := (8 : Word) ++ (9 : Word), checksum := 4, directory := lampGroups }
    (∀ s ∈ [start, last none], stateOf s 2 = .identifying ∧ s.consist.release.active = false ∧ unheardOf s 2 < 2)
      ∧ start.InFlight (consistOfferOf (linePos 2) .readWord (some 0) none (.identWord 2 0)) 5000300
      ∧ (last none).InFlight (consistOfferOf (linePos 2) .readWord (some 7) none (.identWord 2 7)) 5000300
      ∧ (streamRec (last none) 2).identNext = some 7 ∧ (streamRec (last none) 2).identWords.length = 7
      ∧ ((1 : Word).toNat = 1 ∧ (2 : Word).toNat ≠ 1 ∧ (1024 : Word).toNat ≤ 1024
        ∧ 8 + 2 * (12 : Word).toNat ≤ (1024 : Word).toNat)
      ∧ rememberedOf (last none) 2 = none ∧ rememberedOf (last (some agrees)) 2 = some agrees
      ∧ (kindOfGroup 0 = .lamp ∧ agrees.directory.get 0 = some { entry 1020 with members := 1 }) := by
  exact ⟨by decide, inFlight_flying rfl early, inFlight_flying rfl early, by decide⟩

/-- A header of 40 words with 3 directory entries. -/
def header40 : Tab Word 8 := ((Tab.fill 1).put 1 40).put 5 3

/-- Position 3, a word of its description in flight. -/
def describing (a : Nat) (x : StreamRecord) : State :=
  flying (consistOfferOf (linePos 2) .readWord (some a) none (.streamWord 2 a)) 5000300
    (modStream 2 (fun _ => { x with active := true, next := some a, header := some header40 })
      (modRec 2 (fun _ =>
        { state := .describing, warm := x.warm,
          identity := some { builder := 1, serial := 2, length := 40, checksum := 1, revision := 1 } })
        { still with consist := { cplPresent := true } }))

/-- A directory of lamp groups 0 and 2, the lower one at the higher locator. -/
def dir3 : Directory :=
  (((Tab.fill none).put 0 (some { entry 36 with members := 1 })).put 2 (some { entry 14 with members := 2 }))

theorem dir3_cases {g : Group} {e : DirEntry} (h : dir3.get g = some e) :
    (g = 2 ∧ e = { entry 14 with members := 2 }) ∨ (g = 0 ∧ e = { entry 36 with members := 1 }) := by
  simp only [dir3, Tab.get_put, Tab.get_fill] at h
  split at h
  · exact .inl ⟨‹_›, (Option.some.inj h).symm⟩
  · split at h
    · exact .inr ⟨‹_›, (Option.some.inj h).symm⟩
    · cases h

theorem witness_StreamWordsAreTaken :
    (∀ a x, (describing a x).InFlight (consistOfferOf (linePos 2) .readWord (some a) none (.streamWord 2 a)) 5000300)
      ∧ (∀ s ∈ [describing 13 {}, describing 14 { warm := true, directory := dir3 }],
          stateOf s 2 = .describing ∧ s.consist.release.active = false ∧ unheardOf s 2 < 2)
      ∧ (13 < 8 + 2 * (header40.get 5).toNat ∧ 8 + 2 * (header40.get 5).toNat ≤ 14 ∧ (header40.get 1).toNat = 40
        ∧ (streamRec (describing 13 {}) 2).wordA = none
        ∧ (streamRec (describing 13 { wordA := some 0x1201 }) 2).wordA = some 0x1201)
      ∧ ((0x1201 : Word).toNat / 4096 = (1 : Group).val ∧ (0x1201 : Word).toNat % 32 = 1 ∧ dir3.get 1 = none
        ∧ ∀ g' e, dir3.get g' = some e → 22 + 4 * 1 ≤ e.locator ∨ e.locator + 4 * e.members ≤ 22)
      ∧ (∀ g e, dir3.get g = some e → 22 < e.locator ∨ e.locator + 4 * e.members ≤ 22)
      ∧ (∀ a ∈ [14, 17, 21], ∀ g' e', dir3.get g' = some e' → e'.locator ≤ a → a < e'.locator + 4 * e'.members → g' = 2)
      ∧ (unusableRecord 2 (fnRecordOf 64 200 0 0) = false ∧ (fnRecordOf 64 200 0 0).feed = .wired)
      ∧ (unusableRecord 2 (fnRecordOf 0 200 1 0) = false ∧ (fnRecordOf 0 200 1 0).feed = .node
        ∧ (fnRecordOf 0 200 1 0).required = true)
      ∧ recordAddr dir3 32 ≤ recordAddr dir3 33 ∧ recordAddr dir3 33 ≤ recordAddr dir3 0 := by
  refine ⟨fun _ _ => inFlight_flying rfl early, by decide, by decide, ⟨by decide, by decide, by decide, ?_⟩, ?_, ?_, by decide,
    by decide, by decide⟩
  · intro g e h
    rcases dir3_cases h with ⟨-, rfl⟩ | ⟨-, rfl⟩ <;> decide
  · intro g e h
    rcases dir3_cases h with ⟨-, rfl⟩ | ⟨-, rfl⟩ <;> decide
  · intro a ha g e h h1 h2
    rcases dir3_cases h with ⟨rfl, -⟩ | ⟨-, rfl⟩
    · rfl
    · simp only [entry, List.mem_cons, List.not_mem_nil, or_false] at ha h1
      omega

/-- The last word of a description with one usable lamp group, or beside it sensor group 4. -/
def finishing (warm sensors : Bool) : State :=
  let d := (Tab.fill none).put 2 (some { entry 36 with members := 1 })
  describing 39 { warm := warm, sum := 9, buffer := [0, 200, 0],
                  directory := if sensors then d.put 4 (some { entry 14 with members := 2 }) else d }

theorem finishing_dir {warm sensors : Bool} {g : Group} {e : DirEntry}
    (h : (streamRec (finishing warm sensors) 2).directory.get g = some e) :
    g = 2 ∨ (g = 4 ∧ e = { entry 14 with members := 2 }) := by
  simp only [finishing, describing, flying, streamRec, modStream, modRec, still, Tab.get_upd, if_true] at h
  split at h
  · simp only [Tab.get_put, Tab.get_fill] at h
    split at h
    · exact .inr ⟨‹_›, (Option.some.inj h).symm⟩
    · split at h
      · exact .inl ‹_›
      · cases h
  · simp only [Tab.get_put, Tab.get_fill] at h
    split at h
    · exact .inl ‹_›
    · cases h

theorem witness_BringUpCompletes (warm sensors : Bool) :
    let s := finishing warm sensors
    let x := streamRec s 2
    s.InFlight (consistOfferOf (linePos 2) .readWord (some 39) none (.streamWord 2 39)) 5000300
      ∧ (stateOf s 2 = .describing ∧ s.consist.release.active = false ∧ x.active = true ∧ x.next = some 39
        ∧ x.header = some header40 ∧ x.buffer = [0, 200, 0] ∧ x.wires = [] ∧ x.required = [] ∧ (posRec s 2).warm = x.warm
        ∧ (posRec s 2).identity.isSome = true ∧ (posRec s 2).lampItems = []
        ∧ x.directory.get 2 = some { entry 36 with members := 1 })
      ∧ (∀ g e, x.directory.get g = some e → e.locator ≤ 39 → 39 < e.locator + 4 * e.members → g = 2)
      ∧ (x.warm = true → ∀ z, 2 < z → z.val < 4 → x.directory.get z = none)
      ∧ (8 + 2 * (header40.get 5).toNat ≤ 39 ∧ 39 + 1 = (header40.get 1).toNat ∧ (9 : Word) + 0xFFF7 = 0)
      ∧ ((fnRecordOf 0 200 0 0xFFF7).feed = .node ∧ (fnRecordOf 0 200 0 0xFFF7).required = false)
      ∧ (∀ f, targetBeneath s 2 f = 0 ∧ (entryOf s 2 f).nextRead = none ∧ (entryOf s 2 f).delivered = none)
      ∧ (s.memory.invalid = false ∧ s.memory.writing = none ∧ handedCode s ≠ some 24 ∧ resetting s = false
        ∧ (∀ q, s.memory.pendingWrites.get q = none) ∧ s.check.slot = none ∧ s.check.rebuild = none
        ∧ nodeCheck s 2 .slot = none ∧ nodeCheck s 2 .opportunistic = none ∧ s.delivery.owed.get 2 = []
        ∧ s.delivery.pendingRead = none ∧ (∀ b, (blockOf s b).owner = none)
        ∧ ∀ k, (circuitRec s k).overfull = false ∧ (circuitRec s k).rebuildPending = false ∧ (circuitRec s k).contributors = [])
      ∧ (∀ z : Group, 4 ≤ z.val → x.directory.get z ≠ none → sensors = true ∧ z = 4)
      ∧ groupRec s 2 4 = {} ∧ blockOf s 0 = {} ∧ s.service.nextPoll = none := by
  refine ⟨inFlight_flying rfl early, by cases warm <;> cases sensors <;> decide, ?_, ?_, by decide, by decide, ?_,
    by cases warm <;> cases sensors <;> decide, ?_, ?_⟩
  · intro g e h _ h2
    rcases finishing_dir h with rfl | ⟨-, rfl⟩
    · rfl
    · simp only [entry] at h2; omega
  · cases warm <;> cases sensors <;> decide
  · intro f
    cases warm <;> cases sensors <;>
      simp [targetBeneath, entryOf, commandOf, finishing, describing, flying, modStream, modRec, still, State.reset]
  · cases warm <;> cases sensors <;> decide
  · cases warm <;> cases sensors <;> decide

/-- A first read in flight at a warm EXERCISING position, with or without another function awaited. -/
def firstReading (f : Code) (more : List Code) : State :=
  flying (firstReadOffer 1 { code := f, point := 63, last := .issued }) 5000300 (modRec 1 (fun r =>
    { r with firstReads := [{ code := f, point := 63, last := .issued }], deadline := some 9000000, awaited := f :: more,
             directory := r.directory.put 4 none }) (at2 .exercising))

theorem witness_FirstReadsEnd :
    let ok := fun s => modEntry 1 128 (fun x => { x with result := .ok }) (modRec 1 (fun r => { r with firstReads := [] }) s)
    (∀ f ∈ ([64, 128] : List Code),
      (firstReading f []).InFlight (firstReadOffer 1 { code := f, point := 63, last := .issued }) 5000300
        ∧ stateOf (firstReading f []) 1 = .exercising ∧ wantedReading (firstReading f []) 1 = none
        ∧ (posRec (firstReading f []) 1).warm = true ∧ releaseOffered (firstReading f []) 1 = false
        ∧ ∀ src, nodeCheck (firstReading f []) 1 src = none)
      ∧ (kindOf 64 = .sensor ∧ kindOf 128 = .actuator)
      ∧ (∀ g, kindOfGroup g = .sensor → dirOf (firstReading 128 []) 1 g = none)
      ∧ exitMet (ok (firstReading 128 [])) 1 = true ∧ exitMet (ok (firstReading 128 [0])) 1 = false := by
  refine ⟨?_, by decide, by decide, by decide, by decide⟩
  intro f hf
  refine ⟨inFlight_flying rfl early, ?_, ?_, ?_, ?_, fun src => by cases src <;> rfl⟩
  all_goals revert f; decide


/-- A release down to position l, the RELEASE of position 2 in flight, position 1 EXERCISING. -/
def releasing (l : Pos) (cpl owed : Bool) : State :=
  let s := modRec 0 (fun r => { r with state := .exercising }) (at2 .lost)
  flying (releaseOffer 1) 5000300 { s with
    consist := { s.consist with
      cplPresent := cpl, release := { active := true, lowest := some l, current := some 1, phase := some .inFlight,
                                      replyOwed := owed } }
    management := if owed then { requests := [req 23 [2]], head := .handed } else {} }

theorem witness_PositionsAreReleased :
    (∀ s ∈ [releasing 0 true false, releasing 1 false true, releasing 1 true false],
        s.consist.release.active = true ∧ s.consist.release.current = some 1 ∧ s.consist.release.phase = some .inFlight
          ∧ s.consist.pass.active = false ∧ anyNoSpace s = false ∧ s.check.queue = [] ∧ s.check.slot = none)
      ∧ (∀ l cpl owed, (releasing l cpl owed).InFlight (releaseOffer 1) 5000300
          ∧ (∀ b, (blockOf (releasing l cpl owed) b).state = .loaded → (blockOf (releasing l cpl owed) b).waiters = [])
          ∧ (∀ k, (circuitRec (releasing l cpl owed) k).rebuildPending = false
            ∧ (circuitRec (releasing l cpl owed) k).contributors = [])
          ∧ ∀ src, nodeCheck (releasing l cpl owed) 1 src = none)
      ∧ (stateOf (releasing 0 true false) 0 ≠ .vacant ∧ stateOf (releasing 0 true false) 0 ≠ .wired)
      ∧ handedCode (releasing 1 false true) = some 23
      ∧ (releasing 1 false true).Owing (req 23 [2]) []
      ∧ ((∀ x, stateOf (releasing 1 true false) x = .lost → x = 1)
        ∧ ∀ x, x < 1 → stateOf (releasing 1 true false) x ≠ .vacant) := by
  refine ⟨by decide, fun l cpl owed => ⟨inFlight_flying ?_ ?_, ?_, ?_, ?_⟩, by decide, by decide, ⟨rfl, by decide, nofun⟩,
    by decide⟩
  · cases owed <;> rfl
  · exact early
  · intro b _; revert b; cases owed <;> cases cpl <;> decide +revert
  · intro k; simp [circuitRec, releasing, flying, modRec, at2, still, State.reset]
  · intro src; cases src <;> rfl


/-- The unheard counter of position 2 stands at 2. -/
def unheardTwice (o : Offer) (x : StreamRecord) (s : State) : State :=
  flying o 5000300 (setUnheard 1 2 (modStream 1 (fun _ => x) s))

theorem witness_SilenceLosesPosition :
    let word := consistOfferOf (linePos 1) .readWord (some 1023) none (.identWord 1 1023)
    let next := consistOfferOf (linePos 1) .readWord (some 1023) none (.streamWord 1 1023)
    let i := unheardTwice word { identNext := some 1023 } (at2 .identifying)
    let l := unheardTwice word { identNext := some 1023 } (modRec 1 (fun r => { r with attemptUnderWay := true }) (at2 .lost))
    let n := unheardTwice next { active := true, next := some 1023 } (at2 .describing)
    let r := fun st => unheardTwice (wordOffer 1) {} { at2 st with service := { pendingSet := (Tab.fill false).put 1 true } }
    (i.InFlight word 5000300 ∧ l.InFlight word 5000300 ∧ n.InFlight next 5000300 ∧ (r .running).InFlight (wordOffer 1) 5000300
        ∧ (r .exercising).InFlight (wordOffer 1) 5000300)
      ∧ (unheardOf i 1 = 2 ∧ stateOf i 1 = .identifying ∧ stateOf l 1 = .lost ∧ (posRec l 1).attemptUnderWay = true
        ∧ stateOf n 1 = .describing ∧ stateOf (r .exercising) 1 = .exercising ∧ servicePending (r .exercising) 1 = true
        ∧ (roundOf (r .exercising) 1).reading = false ∧ (roundOf (r .exercising) 1).waiting = false)
      ∧ (∀ s ∈ [i, l, n, r .running, r .exercising], s.consist.release.active = false ∧ s.consist.pass.active = false
        ∧ (∀ b, (blockOf s b).state ≠ .fetching) ∧ nodeCheck s 1 .slot = none ∧ nodeCheck s 1 .opportunistic = none
        ∧ s.sequence.state ≠ .running ∧ s.delivery.pendingOverride = none ∧ s.delivery.pendingRead = none)
      ∧ (flying word 5000300 (at2 .lost)).InFlight word 5000300
      ∧ (streamRec (flying word 5000300 (at2 .lost)) 1).identNext = none := by
  refine ⟨⟨inFlight_flying rfl early, inFlight_flying rfl early, inFlight_flying rfl early, inFlight_flying rfl early,
    inFlight_flying rfl early⟩, by decide, by decide, inFlight_flying rfl early, by decide⟩

/-- A recovery attempt of position 2, whose trailer was RUNNING, with the words of its identification read so far. -/
def attempt (o : Offer) (ws : Option (List Word)) : State :=
  flying o 5000300 (modStream 1 (fun x => { x with identNext := ws.map fun l => l.length, identWords := ws.getD [] })
    (modRec 1 (fun _ =>
        { state := .lost, attemptUnderWay := true, prior := some .running, warm := true
          identity := some { builder := 1, serial := 0x10001, length := 40, checksum := 1, revision := 1 } })
      { still with consist := { cplPresent := true } }))

theorem witness_SilenceLosesPosition_attempt :
    let word := fun (a : Nat) => consistOfferOf (linePos 1) .readWord (some a) none (.identWord 1 a)
    let ws : List Word := [1, 40, 1, 1, 1, 3, 1]
    (∀ o ws, (attempt o ws).InFlight o 5000300 ∧ (attempt o ws).consist.release.active = false
        ∧ stateOf (attempt o ws) 1 = .lost ∧ (posRec (attempt o ws) 1).attemptUnderWay = true ∧ unheardOf (attempt o ws) 1 = 0
        ∧ ∀ q, q ≠ 1 → stateOf (attempt o ws) q = .vacant ∧ (streamRec (attempt o ws) q).identNext = none)
      ∧ (let s := flying (recoveryOffer 1) 5000300 still
         s.InFlight (recoveryOffer 1) 5000300 ∧ stateOf s 1 = .vacant ∧ s.consist.release.active = false)
      ∧ (let s := attempt (word 5) (some (ws.take 5))
         (streamRec s 1).identNext = some 5 ∧ (streamRec s 1).identWords = ws.take 5
           ∧ ((12 : Word).toNat ≤ 12 ∧ 8 + 2 * (12 : Word).toNat ≤ ((ws.take 5).getD 1 0).toNat)
           ∧ ¬ (13 : Word).toNat ≤ 12)
      ∧ (let s := attempt (word 7) (some ws)
         (streamRec s 1).identNext = some 7 ∧ (streamRec s 1).identWords = ws ∧ ws.length = 7
           ∧ (∃ b, (posRec s 1).identity = some b ∧ b.builder = 1 ∧ b.serial = (1 : Word) ++ (1 : Word) ∧ b.checksum = 1)
           ∧ (posRec s 1).prior = some .running ∧ (posRec s 1).warm = true ∧ (∀ g, dirOf s 1 g = none)
           ∧ awaitedLamps s 1 = [] ∧ s.check.slot = none ∧ s.check.rebuild = none
           ∧ (∀ k, (circuitRec s k).overfull = false ∧ (circuitRec s k).rebuildPending = false)
           ∧ (∀ src, nodeCheck s 1 src = none) ∧ s.delivery.owed.get 1 = [] ∧ s.delivery.pendingRead = none
           ∧ ∀ f, targetBeneath s 1 f = 0 ∧ entryOf s 1 f = {}) := by
  refine ⟨fun o ws => ⟨inFlight_flying rfl early, rfl, rfl, rfl, rfl, ?_⟩, ⟨inFlight_flying rfl early, rfl, rfl⟩, by decide,
    rfl, rfl, rfl, ⟨_, rfl, rfl, by decide, rfl⟩, rfl, rfl, by decide, by decide, rfl, rfl, by decide,
    fun src => by cases src <;> rfl, rfl, rfl, fun f => ?_⟩
  · intro q hq
    simp [attempt, flying, stateOf, posRec, streamRec, modStream, modRec, still, State.reset, Tab.get_upd, hq]
  · simp [attempt, flying, targetBeneath, entryOf, commandOf, modStream, modRec, still, State.reset]

/-- The reading of a node-lamp check of (2, 0/00) in flight, its class so far LOW. -/
def readingCheck (step : ReadingStep) : NodeLampCheck :=
  { lampCheck with nextReading := none, step := some step, row := some (10, 200, .resistive), counted := 1
                   lastClass := some .low }
def reading (st : PosState) (src : CheckSource) (step : ReadingStep) : State :=
  let s := setNodeCheck 1 src (some (readingCheck step)) (modRec 1 (fun r => { r with groupItems := [8] }) (at2 st))
  flying (readingOffer (if st = .exercising then .consistController else .loadCheckUnit) 1
      (src, 0, step, if step = .supply then 63 else 10)) 5000300
    { s with check := { s.check with
      slot := if src = .slot then some { entry := { target := .lamp 1 0 }, window := false, expiry := 5009000 } else none } }

theorem witness_CurrentIsJudged_reading :
    ∀ st ∈ [PosState.running, .exercising], ∀ src ∈ [CheckSource.slot, .opportunistic],
      ∀ step ∈ [ReadingStep.supply, .lamp],
      let s := reading st src step
      (s.notices = [] ∧ s.line.offers = [] ∧ s.now < 5000300)
        ∧ stateOf s 1 = st ∧ (posRec s 1).firstReads = [] ∧ (posRec s 1).groupItems ≠ [] ∧ releaseOffered s 1 = false
        ∧ (∀ x ∈ [CheckSource.slot, .opportunistic], nodeCheck s 1 x = if x = src then some (readingCheck step) else none)
        ∧ s.check.oppPending.get 1 = [] ∧ s.check.queue = []
        ∧ (src = .slot → s.check.slot = some { entry := { target := .lamp 1 0 }, window := false, expiry := 5009000 })
        ∧ unheardOf s 1 < 2 ∧ (10 : Nat) ≤ 63
        ∧ ((readingCheck step).lastClass = some .low ∧ (readingCheck step).lastClass ≠ some .ok
          ∧ (readingCheck step).counted < 3)
        ∧ nodeCheck (setNodeCheck 1 src none s) 1 src = none := by decide

/-- The SET of value 1 to the actuator (2, 8/00), asked for by an override, and a stop of it, in flight. -/
def settingOffer : Offer := setOffer 1 128 1 .tsm (row 12 .actuator).record
def ask1 : StatusEntry := { delivered := some 0, override := some 1 }
def setting (o : Offer) (e : StatusEntry) : State :=
  flying o 5000300 { with2 128 e (at2 .running) with management := { requests := [req 10 [2, 128, 1, 0]], head := .handed } }

theorem entryOf_setting (o : Offer) (e : StatusEntry) (g : Code) :
    entryOf (setting o e) 1 g = if g = 128 then e else { delivered := some 0 } := entryOf_with2 128 g e .running .node

theorem witness_SetsEnd_delivery :
    let s := setting settingOffer ask1
    let t := modEntry 1 128 (fun x => { x with
      delivered := some 1, driven := true, unavailable := false, retryAt := none
      watchDeadline := some (s.now + 3 * ms 100), watchUnits := 3, nextRead := some (s.now + ms 100) }) s
    s.InFlight settingOffer 5000300 ∧ kindOf 128 = .actuator ∧ inService s 1 = true ∧ (∀ src, nodeCheck s 1 src = none)
      ∧ s.Owing (req 10 [2, 128, 1, 0]) [] ∧ settingOffer.why = .delivery 1 128 1 .tsm 3
      ∧ (entryOf s 1 128).result ≠ .deferred ∧ State.AtRest (setUnheard 1 0 t.over) 1 := by
  refine ⟨inFlight_flying rfl early, by decide, by decide, fun src => by cases src <;> rfl, ⟨rfl, by decide, nofun⟩, rfl,
    by decide, ?_⟩
  refine nothing_but 128 (by decide) (fun _ _ => rfl) (by decide) (fun g _ => commandOf_at2 g .running .node)
      ?_ ?_ (by decide) (by decide)
    (by decide)
  · exact fun g hg => (entryOf_modEntry_ne _ _ hg).trans ((entryOf_setting _ _ g).trans (if_neg hg))
  · intro second; cases second <;> decide

/-- The SET of value 1 to the lamp (2, 0/00), whose result is DEFERRED. -/
def lampOffer : Offer := setOffer 1 0 1 .tsm (row 10 .lamp).record
def lampSetting : State := flying lampOffer 5000300 (with2 0 { delivered := some 0, override := some 1, result := .deferred }
  (at2 .running))

theorem witness_SetsEnd_opportunistic :
    let s := lampSetting
    let r := (row 10 .lamp).record
    let t := setNodeCheck 1 .opportunistic (some
        { code := 0, row := some (r.point, r.nominal, r.loadKind), nextReading := some (s.now + ms 50)
          expiry := s.now + ms s.settings.window, tolerance := s.settings.tolerance, threshold := s.settings.threshold })
      (reference 0 (modEntry 1 0 (fun x =>
        { x with delivered := some 1, driven := true, unavailable := false, retryAt := none }) s))
    s.InFlight lampOffer 5000300 ∧ lampOffer.why = .delivery 1 0 1 .tsm 3 ∧ (entryOf s 1 0).result = .deferred
      ∧ s.delivery.pendingOverride = none ∧ (∀ src, nodeCheck s 1 src = none) ∧ s.Bound 1 0 0 (entry 100) r
      ∧ State.AtRest (setUnheard 1 0 t.over) 1 := by
  refine ⟨inFlight_flying rfl early, rfl, by decide, rfl, fun src => by cases src <;> rfl,
    bound2 0 0 _ _ (by decide) (by decide) (by decide) (by decide) (by decide) (by decide), ?_⟩
  refine nothing_but 0 (by decide) (fun _ _ => rfl) (by decide) (fun g _ => commandOf_at2 g .running .node)
      ?_ ?_ (by decide) (by decide) (by decide)
  · exact fun g hg => (entryOf_modEntry_ne _ _ hg).trans ((entryOf_with2 0 g _ .running .node).trans (if_neg hg))
  · intro second; cases second <;> decide

theorem witness_SetsEnd_unheard :
    let s := setting settingOffer ask1
    let s1 := setUnheard 1 (unheardOf s 1 + 1) (advanceTo 5000300 s)
    s.Bound 1 128 2 (entry 300) (row 12 .actuator).record ∧ unheardOf s 1 < 2 ∧ permits s 2 1 (deliveryKind s 1 128) = true
      ∧ s1.over.OneDue 1 128 1
      ∧ State.AtRest (State.granted (setOffer 1 128 1 (deliveryKind s 1 128) (row 12 .actuator).record)
          (noteOffered 1 (secondClass 128 1) 128 (reference 2 s1))) 1 := by
  refine ⟨bound2 128 2 _ _ (by decide) (by decide) (by decide) (by decide) (by decide) (by decide), by decide, by decide,
    ?_, ?_⟩
  · refine only_due 128 1 (by decide) (fun _ _ => rfl) (by decide) (fun g _ => commandOf_at2 g .running .node)
      ?_ ?_ (by decide)
      (by decide) (by decide)
    · exact fun g hg => (entryOf_setting settingOffer ask1 g).trans (if_neg hg)
    · intro second; cases second <;> decide
  · refine nothing_but 128 (by decide) (fun _ _ => rfl) (by decide) (fun g _ => commandOf_at2 g .running .node)
      ?_ ?_ (by decide)
      (by decide) (by decide)
    · exact fun g hg => (entryOf_setting settingOffer ask1 g).trans (if_neg hg)
    · intro second; cases second <;> decide


theorem witness_SetsEnd_stop :
    let s := modOwed 1 (fun _ => [{ code := 128, notBefore := none }]) (setting (stopOffer 1 128 12) { delivered := some 1 })
    let t := modEntry 1 128 (fun x => { x with delivered := some 0, unavailable := false, retryAt := none })
      { modOwed 1 (fun _ => []) s with delivery := { (modOwed 1 (fun _ => []) s).delivery with
          lastStopped := s.delivery.lastStopped.put 1 128 } }
    s.InFlight (stopOffer 1 128 12) 5000300 ∧ (stopOffer 1 128 12).why = .stop 1 128
      ∧ State.AtRest (setUnheard 1 0 t.over) 1 := by
  refine ⟨⟨rfl, rfl, rfl, by decide⟩, rfl, ?_⟩
  refine nothing_but 128 (by decide) (fun _ _ => rfl) (by decide) (fun g _ => commandOf_at2 g .running .node)
      ?_ ?_ (by decide) (by decide)
    (by decide)
  · exact fun g hg => (entryOf_modEntry_ne _ _ hg).trans ((entryOf_setting settingOffer _ g).trans (if_neg hg))
  · intro second; cases second <;> decide

theorem witness_SetsEnd_stop_override :
    let s := modOwed 1 (fun _ => [{ code := 128, notBefore := none }])
      (setting (stopOffer 1 128 12) { delivered := some 2, override := some 1 })
    let taken := modEntry 1 128 (fun x => { x with delivered := some 0, unavailable := false, retryAt := none })
      { modOwed 1 (fun _ => []) s with delivery := { (modOwed 1 (fun _ => []) s).delivery with
          lastStopped := s.delivery.lastStopped.put 1 128 } }
    s.InFlight (stopOffer 1 128 12) 5000300 ∧ s.Bound 1 128 2 (entry 300) (row 12 .actuator).record
      ∧ permits s 2 1 (deliveryKind s 1 128) = true ∧ State.OneDue (setUnheard 1 0 taken.over) 1 128 1
      ∧ State.AtRest (State.granted (setOffer 1 128 1 (deliveryKind s 1 128) (row 12 .actuator).record)
          (noteOffered 1 (secondClass 128 1) 128 (reference 2 (setUnheard 1 0 taken)))) 1 := by
  refine ⟨⟨rfl, rfl, rfl, by decide⟩,
    bound2 128 2 _ _ (by decide) (by decide) (by decide) (by decide) (by decide) (by decide), by decide, ?_, ?_⟩
  · refine only_due 128 1 (by decide) (fun _ _ => rfl) (by decide) (fun g _ => commandOf_at2 g .running .node)
      ?_ ?_ (by decide) (by decide) (by decide)
    · exact fun g hg => (entryOf_modEntry_ne _ _ hg).trans ((entryOf_setting settingOffer _ g).trans (if_neg hg))
    · intro second; cases second <;> decide
  · refine nothing_but 128 (by decide) (fun _ _ => rfl) (by decide) (fun g _ => commandOf_at2 g .running .node)
      ?_ ?_ (by decide) (by decide) (by decide)
    · exact fun g hg => (entryOf_modEntry_ne _ _ hg).trans ((entryOf_setting settingOffer _ g).trans (if_neg hg))
    · intro second; cases second <;> decide

/-- A stop of (2, 8/00) waits on its repeat; a SET-FUNCTION of the function makes no offer meanwhile (R111). -/
theorem test_override_waits_for_stop :
    let s := run .setFunction (modOwed 1 (fun _ => [{ code := 128, notBefore := some 5000500 }])
      (asked 10 [2, 128, 1, 0] (busy (with2 128 delivered2 (at2 .running)))))
    (entryOf s 1 128).override = some 1 ∧ s.line.offers = [] := by decide

/-- A read of (2, f) in flight, with the entry of f. -/
def readingOf (o : Offer) (f : Code) (e : StatusEntry) (asked : Bool) : State :=
  let s := with2 f e (at2 .running)
  flying o 5000900 { s with
    delivery := { s.delivery with
      pendingRead := if asked then some { pos := 1, code := f, point := some 11 } else none }
    management := if asked then { requests := [req 12 [2, 64]], head := .handed } else {} }

theorem entryOf_readingOf (o : Offer) (f : Code) (e : StatusEntry) (asked : Bool) (g : Code) :
    entryOf (readingOf o f e asked) 1 g = if g = f then e else { delivered := some 0 } := entryOf_with2 f g e .running .node

/-- The GET of a management read of (2, 4/00). -/
def managedOffer : Offer :=
  { requester := .deliveryUnit, cls := 1, pos := linePos 1, op := .get, addr := some 11, data := none,
    why := .managementRead 1 64 }

theorem witness_ReadsEnd_management :
    let s := readingOf managedOffer 64 { delivered := some 0 } true
    let t := State.replied { s.reading 1 64 7 with
      delivery := { (s.reading 1 64 7).delivery with pendingRead := none } } (req 12 [2, 64]) [] .ok (word 7 ++ word 0 ++ [0])
    let s1 := setUnheard 1 1 (advanceTo 5000900 s)
    s.InFlight managedOffer 5000900 ∧ stateOf s 1 = .running ∧ s.Owing (req 12 [2, 64]) []
      ∧ s.delivery.pendingRead = some { pos := 1, code := 64, point := some 11 } ∧ State.AtRest (setUnheard 1 0 t.over) 1
      ∧ unheardOf s 1 < 2 ∧ State.SetsAtRest { s1.over with delivery := { s.delivery with pendingRead := none } } 1
      ∧ dueReads s1.over 1 = [] ∧ (s1.granted managedOffer).SetsAtRest 1
      ∧ State.AtRest (setUnheard 1 0 (readingOf managedOffer 64 { delivered := some 0 } false).over) 1 := by
  have hs : ∀ u : State, commandOf u = commandOf (at2 .running) → (∀ g, g ≠ 64 → entryOf u 1 g = { delivered := some 0 }) →
      u.delivery.owed.get 1 = [] → u.check.slot = none → readOffer u 1 = none → (∀ second, offerable u 1 second 64 = none) →
      dueRead u 1 64 = none → standing u .deliveryUnit 0 (linePos 1) = none → standing u .deliveryUnit 1 (linePos 1) = none →
      u.AtRest 1 := by
    intro u hc he ho hsl hr hx hd h0 h1
    exact nothing_but 64 ho (fun g _ => by simp [windowCovers, hsl]) hr
        (fun g _ => by rw [hc]; exact commandOf_at2 g .running .node) he hx hd h0 h1
  have he : ∀ asked g, g ≠ 64 →
      entryOf (readingOf managedOffer 64 { delivered := some 0 } asked) 1 g = { delivered := some 0 } :=
    fun asked g hg => (entryOf_readingOf _ _ _ asked g).trans (if_neg hg)
  refine ⟨inFlight_flying rfl (by decide), by decide, ⟨rfl, by decide, nofun⟩, by decide, ?_, by decide, ?_, ?_, ?_, ?_⟩
  · refine hs _ rfl ?_ (by decide) rfl (by decide) (fun second => by cases second <;> decide) (by decide) (by decide)
      (by decide)
    exact fun g hg => (entryOf_modEntry_ne _ _ hg).trans (he true g hg)
  · refine State.AtRest.toSetsAtRest ?_
    exact hs _ rfl (he true) (by decide) rfl (by decide) (fun second => by cases second <;> decide) (by decide) (by decide)
      (by decide)
  · exact no_reads 64 (he true) (by decide)
  · refine State.AtRest.toSetsAtRest ?_
    exact hs _ rfl (he true) (by decide) rfl (by decide) (fun second => by cases second <;> decide) (by decide) (by decide)
      (by decide)
  · exact hs _ rfl (he false) (by decide) rfl (by decide) (fun second => by cases second <;> decide) (by decide) (by decide)
      (by decide)

theorem witness_ReadsEnd_periodic :
    let o := scheduledOffer 1 64 false (row 11 .sensor).record
    let s := readingOf o 64 dueSensor false
    let t := modEntry 1 64 (fun x => { x with nextRead := some (s.now + 3 * ms 100) }) (s.reading 1 64 7)
    let s1 := setUnheard 1 1 (advanceTo 5000900 s)
    s.InFlight o 5000900 ∧ kindOf 64 = .sensor ∧ stateOf s 1 = .running ∧ dueReads (setUnheard 1 0 t.over) 1 = []
      ∧ s.Bound 1 64 1 (entry 200) (row 11 .sensor).record ∧ permits s 2 1 .rdp = true
      ∧ dueReads s1.over 1 = [(64, false, 5000500)] := by
  refine ⟨inFlight_flying rfl (by decide), by decide, by decide, ?_,
    bound2 64 1 _ _ (by decide) (by decide) (by decide) (by decide) (by decide) (by decide), by decide, ?_⟩
  · refine no_reads 64 (fun g hg => ?_) (by decide)
    exact (entryOf_modEntry_ne _ _ hg).trans ((entryOf_modEntry_ne _ _ hg).trans
      ((entryOf_readingOf (scheduledOffer 1 64 false (row 11 .sensor).record) _ _ false g).trans (if_neg hg)))
  · refine dueReads_only (by decide) fun g => ?_
    by_cases hg : g = 64
    · subst hg; decide
    · have he : entryOf (State.over (setUnheard 1 1 (advanceTo 5000900
          (readingOf (scheduledOffer 1 64 false (row 11 .sensor).record) 64 dueSensor false)))) 1 g = { delivered := some 0 } :=
        (entryOf_readingOf (scheduledOffer 1 64 false (row 11 .sensor).record) 64 dueSensor false g).trans (if_neg hg)
      simp [dueRead, he, hg]

theorem witness_ReadsEnd_periodic_notHeard :
    let s := readingOf (scheduledOffer 1 64 false (row 11 .sensor).record) 64 dueSensor false
    let t := modEntry 1 64 (fun e => { e with nextRead := none }) (s.unfitted 1 64 (some .rdp) 11)
    dueReads (setUnheard 1 0 t.over) 1 = [] := by
  refine no_reads 64 (fun g hg => ?_) (by decide)
  exact (entryOf_modEntry_ne _ _ hg).trans ((entryOf_modEntry_ne _ _ hg).trans
    ((entryOf_readingOf (scheduledOffer 1 64 false (row 11 .sensor).record) _ _ false g).trans (if_neg hg)))

theorem witness_ReadsEnd_watch :
    let o := scheduledOffer 1 128 true (row 12 .actuator).record
    let s := readingOf o 128 dueWatch false
    let t := modEntry 1 128 (fun x => { x with watchDeadline := none, nextRead := none }) (s.reading 1 128 7)
    let s1 := setUnheard 1 1 (advanceTo 5000900 s)
    s.InFlight o 5000900 ∧ kindOf 128 = .actuator ∧ stateOf s 1 = .running ∧ (entryOf s 1 128).watchDeadline ≠ none
      ∧ State.AtRest (setUnheard 1 0 t.over) 1 ∧ s.Bound 1 128 2 (entry 300) (row 12 .actuator).record
      ∧ s1.over.SetsAtRest 1 ∧ dueReads s1.over 1 = [(128, true, 5000500)]
      ∧ State.AtRest (setUnheard 1 0 (readingOf o 128 { delivered := some 0 } false).over) 1 := by
  refine ⟨inFlight_flying rfl (by decide), by decide, by decide, by decide, ?_,
    bound2 128 2 _ _ (by decide) (by decide) (by decide) (by decide) (by decide) (by decide), ⟨?_, ?_, ?_, ?_, ?_⟩, ?_, ?_⟩
  · refine nothing_but 128 (by decide) (fun _ _ => rfl) (by decide) (fun g _ => commandOf_at2 g .running .node)
      ?_ ?_ (by decide) (by decide)
      (by decide)
    · exact fun g hg => (entryOf_modEntry_ne _ _ hg).trans ((entryOf_modEntry_ne _ _ hg).trans
        ((entryOf_readingOf (scheduledOffer 1 128 true (row 12 .actuator).record) _ _ false g).trans (if_neg hg)))
    · intro second; cases second <;> decide
  · decide
  · intro second f
    by_cases hf : f = 128
    · subst hf; cases second <;> decide
    · refine not_offered ?_ ?_ ?_ second
      · rfl
      · exact commandOf_at2 f .running .node
      · exact (entryOf_readingOf (scheduledOffer 1 128 true (row 12 .actuator).record) _ _ false f).trans (if_neg hf)
  · decide
  · decide
  · decide
  · refine dueReads_only (by decide) fun g => ?_
    by_cases hg : g = 128
    · subst hg; decide
    · have he : entryOf (State.over (setUnheard 1 1 (advanceTo 5000900
          (readingOf (scheduledOffer 1 128 true (row 12 .actuator).record) 128 dueWatch false)))) 1 g
          = { delivered := some 0 } :=
        (entryOf_readingOf (scheduledOffer 1 128 true (row 12 .actuator).record) 128 dueWatch false g).trans (if_neg hg)
      simp [dueRead, he, hg]
  · refine nothing_but 128 (by decide) (fun _ _ => rfl) (by decide) (fun g _ => commandOf_at2 g .running .node)
      ?_ ?_ (by decide) (by decide)
      (by decide)
    · exact fun g hg => (entryOf_readingOf (scheduledOffer 1 128 true (row 12 .actuator).record) _ _ false g).trans (if_neg hg)
    · intro second; cases second <;> decide


/-- A service round of position 2, its GET in flight. -/
def inRound (o : Offer) (r : Round) (s : State) : State :=
  flying o 5000300 { s with service := { pendingSet := (Tab.fill false).put 1 true, rounds := (Tab.fill {}).put 1 r } }

theorem witness_ServiceRoundsGoOn_word :
    let s := fun n => inRound (wordOffer 1) { count := n } (at2 .running)
    (s 15).InFlight (wordOffer 1) 5000300 ∧ (s 16).InFlight (wordOffer 1) 5000300 ∧ stateOf (s 15) 1 = .running
      ∧ servicePending (s 15) 1 = true ∧ (roundOf (s 15) 1).waiting = false ∧ (roundOf (s 15) 1).reading = false
      ∧ (192 ≤ (192 : Word).toNat ∧ (191 : Word).toNat = (191 : Code).val) ∧ dirOf (s 15) 1 (groupOf 191) = none
      ∧ (s 15).Bound 1 128 2 (entry 300) (row 12 .actuator).record
      ∧ (inRound (wordOffer 1) {} (at2 .running .wired)).Bound 1 0 0 (entry 100) (row 10 .lamp .wired).record :=
  ⟨inFlight_flying rfl early, inFlight_flying rfl early, by decide, by decide, by decide, by decide, by decide, by decide,
    bound2 128 2 _ _ (by decide) (by decide) (by decide) (by decide) (by decide) (by decide),
    bound2 0 0 _ _ (by decide) (by decide) (by decide) (by decide) (by decide) (by decide)⟩

theorem witness_ServiceRoundsGoOn_function :
    let r : Round := { count := 16, reading := true, code := some 128, point := some 12 }
    let s := inRound (namedOffer 1 128 12) r (with2 128 dueWatch (at2 .running))
    let t := setUnheard 1 0 (s.unfitted 1 128 none 12)
    let u := modEntry 1 128 (fun x => { x with watchDeadline := none, nextRead := none })
      (State.granted (wordOffer 1) { setUnheard 1 0 (s.reading 1 128 7) with
        service := { s.service with rounds := s.service.rounds.put 1 { count := 16 } } })
    s.InFlight (namedOffer 1 128 12) 5000300 ∧ (roundOf s 1).reading = true ∧ (roundOf s 1).code = some 128
      ∧ (kindOf 128 = .actuator ∧ (entryOf s 1 128).watchDeadline ≠ none)
      ∧ dueReads u 1 = [] ∧ t.over.AtRest 1 := by
  refine ⟨inFlight_flying rfl early, by decide, by decide, by decide, ?_, ?_⟩
  · refine no_reads 128 (fun g hg => ?_) (by decide)
    exact (entryOf_modEntry_ne _ _ hg).trans ((entryOf_modEntry_ne _ _ hg).trans
      ((entryOf_with2 128 g dueWatch .running .node).trans (if_neg hg)))
  · refine nothing_but 128 (by decide) (fun _ _ => rfl) (by decide) (fun g _ => commandOf_at2 g .running .node)
      ?_ ?_ (by decide) (by decide)
      (by decide)
    · exact fun g hg => (entryOf_modEntry_ne _ _ hg).trans ((entryOf_with2 128 g dueWatch .running .node).trans (if_neg hg))
    · intro second; cases second <;> decide

/-- The GET of the sensor (2, 4/00) in a service round, its periodic read still to come. -/
def sensorRound : State :=
  inRound (namedOffer 1 64 11) { count := 1, reading := true, code := some 64, point := some 11 }
    (with2 64 dueSensor (at2 .running))

theorem witness_ServiceRoundsGoOn_sensor :
    let s := sensorRound
    s.InFlight (namedOffer 1 64 11) 5000300 ∧ (roundOf s 1).reading = true ∧ (roundOf s 1).code = some 64
      ∧ kindOf 64 = .sensor ∧ (setUnheard 1 0 (s.unfitted 1 64 none 11)).over.AtRest 1 := by
  refine ⟨inFlight_flying rfl early, by decide, by decide, by decide, ?_⟩
  refine nothing_but 64 (by decide) (fun _ _ => rfl) (by decide) (fun g _ => commandOf_at2 g .running .node)
      ?_ ?_ (by decide) (by decide)
    (by decide)
  · exact fun g hg => (entryOf_modEntry_ne _ _ hg).trans ((entryOf_with2 64 g dueSensor .running .node).trans (if_neg hg))
  · intro second; cases second <;> decide

/-- R167: a Not Heard service read sets the not-fitted mark and leaves the next periodic-read time. -/
theorem test_service_notHeard_keepsReadTime :
    let e := entryOf (serviceReadEnd 1 64 11 .notHeard none sensorRound) 1 64
    e.notFitted = true ∧ e.nextRead = some 5000500 := by decide

/-- R152: a Not Heard periodic read sets the mark, and the time to none. -/
theorem test_periodic_notHeard_endsReadTime :
    let e := entryOf (periodicEnd 1 64 3 11 .notHeard none sensorRound) 1 64
    e.notFitted = true ∧ e.nextRead = none := by decide

/-- The item of a sequence at (2, a), its run the seventh. -/
def sequenceOffer (op : SeqOp) (a : Nat) : Offer :=
  { requester := .sequenceUnit, cls := 6, pos := linePos 1, op := seqLineOp op, addr := some a, data := none,
    why := .sequenceItem 1 a 7 }

/-- A running sequence of 4 items at an item that is in flight, 2 or 3 of them stored. -/
def sequencing (op : SeqOp) (m : SeqMode) (a stored : Nat) : State :=
  let i : SeqItem := { pos := 0, addr := 0, heard := true, ready := true, data := none }
  flying (sequenceOffer op a) 5000300 { modRec 3 (fun r => { r with state := .exercising }) (at2 .running) with
    sequence := { state := .running, op := some op, mode := some m, count := some 4, timeout := some 10, pos := some 1,
                  addr := some a, itemStart := some 4995000, run := 7, buffer := List.replicate stored i } }

theorem witness_SequenceItemsEnd :
    (∀ s ∈ [sequencing .get .walk 63 2, sequencing .get .walk 63 3, sequencing .readWord .stopOnNotReady 1022 2],
        s.sequence.state = .running ∧ s.sequence.pos = some 1 ∧ s.sequence.count = some 4 ∧ inService s 1 = true
          ∧ unheardOf s 1 < 2)
      ∧ (sequencing .get .walk 63 2).InFlight (sequenceOffer .get 63) 5000300
      ∧ (63 ≤ seqLast .get ∧ 63 = seqLast .get ∧ 1022 + 1 ≤ seqLast .readWord)
      ∧ ((sequencing .get .walk 63 2).sequence.buffer.length + 1 < 4
        ∧ 4 ≤ (sequencing .get .walk 63 3).sequence.buffer.length + 1)
      ∧ (inService (sequencing .get .walk 63 2) 3 = true
        ∧ ∀ r, 1 < r → r < 3 → inService (sequencing .get .walk 63 2) r = false)
      ∧ ∀ q, 1 < q → inService (at2 .running) q = false :=
  ⟨by decide, inFlight_flying rfl early, by decide, by decide, by decide, by decide⟩

/-- A word of block 1 in flight for group 4 of position 2, which has two members. -/
def fetchOffer (a : Nat) : Offer :=
  { requester := .bindingStore, cls := 2, pos := linePos 1, op := .readWord, addr := some a, data := none,
    why := .fetchWord 1 4 1 a }
def fetching (m i : Nat) (ws : List Word) : State :=
  flying (fetchOffer (1015 + 4 * m + i)) 5000300 (modBlock 1 (fun x =>
    { x with state := .fetching, progress := some (m, i), words := ws, waiters := [], rows := Tab.fill none })
    (modRec 1 (fun r => { r with directory := r.directory.put 4 (some { entry 1015 with members := 2 }) }) (at2 .running)))

theorem entryOf_fetching (m i : Nat) (ws : List Word) (g : Code) : entryOf (fetching m i ws) 1 g = { delivered := some 0 } := by
  simp [entryOf, fetching, flying, modBlock, modRec, at2]

theorem witness_FetchWordsAreTaken :
    let s := fetching 0 0 []
    let l := fetching 1 3 [0x0200, 0, 0]
    (∀ m i ws, (fetching m i ws).InFlight (fetchOffer (1015 + 4 * m + i)) 5000300) ∧ inService s 1 = true
      ∧ ((blockOf s 1).state = .fetching ∧ (blockOf s 1).owner = some (1, 4) ∧ (blockOf s 1).progress = some (0, 0)
        ∧ dirOf s 1 4 = some { entry 1015 with members := 2 } ∧ anyNoSpace s = false
        ∧ ∀ c, c ≠ 1 → (blockOf s c).state ≠ .fetching)
      ∧ ((blockOf l 1).words = [0x0200, 0, 0] ∧ 1015 + 4 * 1 + 3 < 1023 ∧ (blockOf l 1).waiters = [])
      ∧ (at2 .running).notices = [] ∧ (blockOf (at2 .running) 1).state ≠ .fetching
      ∧ State.AtRest (setUnheard 1 0 (modBlock 1 (fun x => { x with state := .loaded }) l)).over 1
      ∧ State.AtRest (setUnheard 1 0 (modGroup 1 4 (fun x => { x with block := none, fetchFailed := true })
          (modBlock 1 (fun _ => {}) (l.faulted .descriptorBad 1 none none 1022)))).over 1 := by
  refine ⟨fun _ _ _ => inFlight_flying rfl early, by decide, by decide, by decide, rfl, by decide, ?_, ?_⟩
  · refine nothing_but 128 (by decide) (fun _ _ => rfl) (by decide) (fun g _ => commandOf_at2 g .running .node)
      ?_ ?_ (by decide) (by decide)
      (by decide)
    · exact fun g _ => entryOf_fetching 1 3 [0x0200, 0, 0] g
    · intro second; cases second <;> decide
  · refine nothing_but 128 (by decide) (fun _ _ => rfl) (by decide) (fun g _ => commandOf_at2 g .running .node)
      ?_ ?_ (by decide) (by decide)
      (by decide)
    · exact fun g _ => entryOf_fetching 1 3 [0x0200, 0, 0] g
    · intro second; cases second <;> decide

/-- Every block LOADED, but for the state, pin and flag given for block 15. -/
def filled (st : BlockState) (pinned referenced others : Bool) : State :=
  { still with binding := { blocks := ((Tab.fill { state := .loaded, pinned := others, referenced := true }).put 15
      { state := st, pinned := pinned, referenced := referenced }) } }

theorem witness_ClaimTakesABlock :
    let free := filled .free false false false
    let clear := filled .loaded false false true
    let set := filled .loaded false true false
    let none' := filled .fetching false false true
    ((blockOf free 15).state = .free ∧ ∀ c, c < 15 → (blockOf free c).state ≠ .free)
      ∧ ((∀ b, (blockOf clear b).state ≠ .free) ∧ (blockOf clear 15).pinned = false ∧ (blockOf clear 15).referenced = false
        ∧ ∀ c, c ≠ 15 → (blockOf clear c).pinned = true)
      ∧ (∀ c, (blockOf set c).pinned = false ∧ (blockOf set c).state = .loaded ∧ (blockOf set c).referenced = true)
      ∧ ∀ b, ¬ ((blockOf none' b).pinned = false ∧ (blockOf none' b).state ≠ .fetching) := by decide

/-! ## Witnesses: checks in the slot and changed commands -/

/-- A check of circuit k holds the slot until 5000300. -/
def checking (k : LineNo) (window : Bool) (s : State) : State :=
  { s with check := { s.check with slot := some { entry := { target := .circuit k }, window := window, expiry := 5000300 } } }

/-- With one position in service the Delivery Unit rests where it has nothing to offer for that one. -/
theorem resting_one {s : State} (hi : ∀ p, p ≠ 1 → inService s p = false) (h : s.AtRest 1) : s.Resting := by
  intro p hp
  by_cases hq : p = 1
  · exact hq ▸ h
  · rw [hi p hq] at hp; cases hp

theorem resting_none {s : State} (hi : ∀ p, inService s p = false) : s.Resting := by
  intro p hp
  rw [hi p] at hp; cases hp

theorem others_out {s : State} (hi : ∀ p, p ≠ 1 → inService s p = false) (t : State) :
    ∀ p, p ≠ 1 → inService s p = true → t.AtRest p := by
  intro p hq hp
  rw [hi p hq] at hp; cases hp

/-- Of position 2 one function alone departs from delivered value 0, and nothing is due. -/
theorem atRest_but {s : State} (x : Code) (ho : s.delivery.owed.get 1 = []) (hs : ∀ f, f ≠ x → windowCovers s 1 f = false)
    (hr : readOffer s 1 = none) (hc : ∀ f, f ≠ x → (commandOf s f).value = 0)
    (he : ∀ f, f ≠ x → entryOf s 1 f = { delivered := some 0 })
    (hx : offerable s 1 false x = none ∧ offerable s 1 true x = none ∧ dueRead s 1 x = none)
    (h0 : standing s .deliveryUnit 0 (linePos 1) = none ∧ standing s .deliveryUnit 1 (linePos 1) = none) : s.AtRest 1 :=
  nothing_but x ho hs hr hc he (fun second => by cases second <;> simp [hx]) hx.2.2 h0.1 h0.2

theorem witness_SampleTick_slot :
    let o : CheckOutcome := { cls := .ok }
    let s := checking 2 true (modCircuit 2 (fun x => { x with samples := [0, 0, 0], last := some o, reported := some o })
        (lit 50 0))
    let c := evaluate s 2 ([0, 0, 0] ++ [0])
    (s.notices = [] ∧ (sampleMoment s 2).isSome = true ∧ (circuitRec s 2).samples.length = 3
        ∧ (circuitRec s 2).last = some c ∧ (circuitRec s 2).reported = some c ∧ s.check.slot.isSome = true
        ∧ s.check.queue = [] ∧ (circuitRec s 2).contributors = [])
      ∧ State.Reportable { s with check := { s.check with slot := none } } 2
      ∧ State.Resting (State.slotFreed 2 true s) := by
  refine ⟨by decide, ⟨rfl, by decide, by decide, by decide⟩, resting_none (by decide)⟩

theorem witness_LineTrips_slot :
    let s := checking 2 true (lit 50 0)
    (s.notices = [] ∧ (sampleMoment s 2).isSome = true ∧ (lineRec s 2).settle = 0 ∧ (wiredOf s 2).trip ≤ 3000 * 5
        ∧ s.consist.cplPresent = true ∧ s.check.queue = [] ∧ (circuitRec s 2).contributors = [])
      ∧ State.Reportable { s with check := { s.check with slot := none } } 2
      ∧ State.Resting (State.slotFreed 2 true s) := by
  refine ⟨by decide, ⟨rfl, by decide, by decide, by decide⟩, resting_none (by decide)⟩

theorem witness_FaultInputsAct_present :
    let s := lit 50 0
    s.notices = [] ∧ faultInput s .fa = false ∧ groupTripped s .fa = false ∧ s.check.slot = none
      ∧ ((groupLines .fa).filter fun k => s.consist.cplPresent && decide ((lineRec s k).onCount ≠ 0)) = [2]
      ∧ s.Reportable 2 :=
  ⟨rfl, by decide, by decide, rfl, by decide, rfl, by decide, by decide, by decide⟩

/-- Circuit 7 lists lamp 0/00 of position 2, which is lit by a window. -/
def windowed (result : CheckResult) (last : Option CheckOutcome) : State :=
  checking 7 true (modCircuit 7 (fun x => { x with
    contributors := [{ pos := 1, code := 0, nominal := 5, loadKind := .resistive }], last := last })
    (with2 0 { delivered := some 255, result := result } (at2 .running .wired)))

theorem witness_LoadCheckTimersRunOut_writes :
    let o : CheckOutcome := { cls := .low }
    (∀ r, (windowed r (some o)).Quiet) ∧ (circuitRec (windowed .ok (some o)) 7).reported ≠ some o
      ∧ (((circuitRec (windowed .unchecked none) 7).contributors.filter fun c =>
        decide ((entryOf (windowed .unchecked none) c.pos c.code).result = .unchecked)) ≠ [])
      ∧ State.Reportable { windowed .unchecked none with check := { (windowed .unchecked none).check with slot := none } } 7
      ∧ (∀ p, inService (checking 7 true still) p = false) ∧ (circuitRec (checking 7 true still) 7).contributors = [] :=
  ⟨fun _ => ⟨rfl, fun _ => rfl⟩, by decide, by decide, ⟨rfl, by decide, by decide, by decide⟩, by decide, rfl⟩

theorem witness_LoadCheckTimersRunOut_window :
    let s := windowed .low none
    let u := State.slotFreed 7 true (advanceTo 5000300 s)
    let v := modEntry 1 0 (fun y => { y with refusalLatch := false }) u
    let w := modEntry 1 0 (fun y => { y with delivered := some 0 }) (reference 0 v)
    s.Quiet ∧ (advanceTo 5000300 s).Bound 1 0 0 (entry 100) (row 10 .lamp .wired).record
      ∧ (targetBeneath s 1 0 = 0 ∧ s.delivery.pendingOverride = none ∧ (row 10 .lamp .wired).record.feed = .wired
        ∧ kindOf 0 = .lamp)
      ∧ (∀ src, nodeCheck s 1 src = none)
      ∧ v.OneDue 1 0 0 ∧ w.AtRest 1 ∧ ∀ q, q ≠ 1 → inService s q = false := by
  have hw : ∀ (g : Code) (e : StatusEntry), g ≠ 0 →
      entryOf (with2 0 e (at2 .running .wired)) 1 g = { delivered := some 0 } := fun g e hg =>
    (entryOf_with2 0 g e .running .wired).trans (if_neg hg)
  refine ⟨⟨rfl, fun _ => rfl⟩, bound2 0 0 _ _ (by decide) (by decide) (by decide) (by decide) (by decide) (by decide),
    by decide, fun src => by cases src <;> rfl, ?_, ?_, by decide⟩
  · refine only_due 0 0 (by decide) (fun _ _ => rfl) (by decide) (fun g _ => commandOf_at2 g .running .wired)
      ?_ ?_ (by decide) (by decide)
      (by decide)
    · exact fun g hg => (entryOf_modEntry_ne _ _ hg).trans (hw g _ hg)
    · intro second; cases second <;> decide
  · refine atRest_but 0 (by decide) (fun _ _ => rfl) (by decide)
      (fun g _ => commandOf_at2 g .running .wired) ?_ (by decide) (by decide)
    exact fun g hg => (entryOf_modEntry_ne _ _ hg).trans ((entryOf_modEntry_ne _ _ hg).trans (hw g _ hg))

/-- A RECHECK at a standstill. -/
def rechecking (args : List Nat) (s : State) : State :=
  asked 16 args { s with decoder := { s.decoder with motion := .stationary } }

/-- The state in which the check of that RECHECK holds the slot. -/
def rechecked (t : Target) (who : Tab Bool 4) (window : Bool) (args : List Nat) (s : State) : State :=
  State.replied { s with check := { s.check with
    slot := some { entry := { target := t, requesters := who }, window := window, expiry := s.now + 400000 } } }
    (req 16 args) [] .ok []

theorem witness_CircuitIsRechecked_free :
    let args := [0, 7, 0]
    let s := rechecking args (at2 .running)
    let lit := modCommand 36 (fun e => { e with value := 1 }) s
    let held := rechecking args (modLine 7 (fun l => { l with hold := some 4900000 }) still)
    (s.notices = [] ∧ s.Serving 16 (req 16 args) [] ∧ 3 ≤ (req 16 args).args.length
        ∧ argByte (req 16 args).args 1 = (7 : LineNo).val)
      ∧ (s.check.queue = [] ∧ s.decoder.motion = .stationary ∧ s.consist.cplPresent = true ∧ s.check.slot = none
        ∧ (∀ k, (circuitRec s k).owed = false) ∧ ∀ p, (posRec s p).lampItems = [])
      ∧ ((wiredOf s 7).code = some 36 ∧ (commandOf s 36).value = 0 ∧ (commandOf lit 36).value ≠ 0)
      ∧ ((circuitRec held 7).contributors = [] ∧ (lineRec held 7).hold.isSome = true ∧ ∀ p, inService held p = false) :=
  ⟨⟨rfl, serving (by decide) (by decide), by decide⟩, by decide, by decide, by decide⟩

/-- RECHECK of circuit 7, whose list holds lamp 0/00 of position 2. -/
def windowAsked : State :=
  rechecking [0, 7, 0] (modCircuit 7 (fun x => { x with
    contributors := [{ pos := 1, code := 0, nominal := 5, loadKind := .resistive }] }) (at2 .running .wired))

theorem witness_CircuitIsRechecked_window :
    let s := windowAsked
    let u := rechecked (.circuit 7) (Tab.fill false) true [0, 7, 0] (modLine 7 (fun l =>
      { l with exercise := true, pendingOn := (timebase s l.tb).period + 1 })
      (modCircuit 7 (fun c => { c with last := none }) s))
    let v := modEntry 1 0 (fun y => { y with refusalLatch := false }) u
    let w := modEntry 1 0 (fun y => { y with delivered := some 255, driven := true }) (reference 0 v)
    s.Bound 1 0 0 (entry 100) (row 10 .lamp .wired).record ∧ permits s 2 1 .exs = true ∧ kindOf 0 = .lamp
      ∧ targetBeneath s 1 0 = 0 ∧ v.OneDue 1 0 255 ∧ w.AtRest 1 ∧ ∀ q, q ≠ 1 → inService s q = false := by
  have he : ∀ g : Code, entryOf windowAsked 1 g = { delivered := some 0 } := fun g => by
    simp [entryOf, windowAsked, rechecking, asked, modCircuit, at2]
  have hw : ∀ t : State, t.check.slot = some { entry := { target := .circuit 7 }, window := true, expiry := 5400000 } →
      (circuitRec t 7).contributors = [{ pos := 1, code := 0, nominal := 5, loadKind := .resistive }] → ∀ g : Code, g ≠ 0 →
      windowCovers t 1 g = false := fun t h1 h2 g hg => by simp [windowCovers, h1, h2, hg.symm]
  refine ⟨bound2 0 0 _ _ (by decide) (by decide) (by decide) (by decide) (by decide) (by decide), by decide, by decide,
    by decide, ?_, ?_, by decide⟩
  · refine only_due 0 255 (by decide) (hw _ (by decide) (by decide)) (by decide) (fun g _ => commandOf_at2 g .running .wired)
      ?_ ?_
      (by decide) (by decide) (by decide)
    · exact fun g hg => (entryOf_modEntry_ne _ _ hg).trans (he g)
    · intro second; cases second <;> decide
  · refine atRest_but 0 (by decide) (hw _ (by decide) (by decide)) (by decide) (fun g _ => commandOf_at2 g .running .wired) ?_
      (by decide) (by decide)
    exact fun g hg => (entryOf_modEntry_ne _ _ hg).trans ((entryOf_modEntry_ne _ _ hg).trans (he g))

/-- RECHECK of lamp 0/00 of position 2. -/
def lampAsked : State := rechecking [1, 2, 0] (busy (at2 .running))

theorem witness_CircuitIsRechecked_lamp :
    let s := lampAsked
    let dark := modEntry 1 0 (fun e => { e with override := some 0 }) s
    let lit := modEntry 1 0 (fun e => { e with override := some 9, delivered := some 9 }) s
    let x := (row 10 .lamp).record
    let check : NodeLampCheck := { code := 0, expiry := 5400000, tolerance := 20, threshold := 20,
                                   row := some (10, 200, .resistive), nextReading := none }
    let v := modEntry 1 0 (fun y => { y with refusalLatch := false }) (rechecked (.lamp 1 0) ((Tab.fill false).put 1 true) true
      [1, 2, 0] (setNodeCheck 1 .slot (some check) (reference 0 s)))
    (s.notices = [] ∧ s.Serving 16 (req 16 [1, 2, 0]) [] ∧ (∀ k, holdsContributor s k 1 0 = false))
      ∧ ((entryOf dark 1 0).override = some 0 ∧ (entryOf lit 1 0).override ≠ some 0 ∧ targetBeneath lit 1 0 ≠ 0)
      ∧ s.Bound 1 0 0 (entry 100) x ∧ (x.feed = .node ∧ x.pointKind = .lamp ∧ x.point ≤ 63 ∧ permits s 2 1 .exs = true)
      ∧ (s.line.flight.isSome = true ∧ nodeCheck s 1 .slot = none)
      ∧ v.OneDue 1 0 255 ∧ ∀ q, q ≠ 1 → inService s q = false := by
  have he : ∀ g : Code, entryOf lampAsked 1 g = { delivered := some 0 } := fun g => by
    simp [entryOf, lampAsked, rechecking, asked, busy, at2]
  have hw : ∀ (t : State) (r : Tab Bool 4),
      t.check.slot = some { entry := { target := .lamp 1 0, requesters := r }, window := true, expiry := 5400000 } →
      ∀ g : Code, g ≠ 0 → windowCovers t 1 g = false := fun t r h1 g hg => by simp [windowCovers, h1, hg.symm]
  refine ⟨⟨rfl, serving (by decide) (by decide), by decide⟩, by decide,
    bound2 0 0 _ _ (by decide) (by decide) (by decide) (by decide) (by decide) (by decide), by decide, by decide, ?_, by decide⟩
  refine only_due 0 255 (by decide) (hw _ ((Tab.fill false).put 1 true) (by decide)) (by decide)
      (fun g _ => commandOf_at2 g .running .node) ?_ ?_
    (by decide) (by decide) (by decide)
  · exact fun g hg => (entryOf_modEntry_ne _ _ hg).trans (he g)
  · intro second; cases second <;> decide

theorem witness_FirstReadTimersRunOut_results :
    let read := fun (f : Code) (l : FirstReadEnd) => ({ code := f, point := 12, last := l, notBefore := none } : FirstRead)
    let s := modRec 1 (fun r => { r with
      deadline := some 5000100, directory := r.directory.put 4 none, required := [0]
      firstReads := [read 128 .notReady, read 129 .unheard, read 130 .issued] })
        (setOffers (fun _ => [pollOffer]) (busy (at2 .exercising)))
    s.Quiet ∧ stateOf s 1 = .exercising ∧ wantedReading s 1 = none ∧ (posRec s 1).deadline = some 5000100
      ∧ (posRec s 1).warm = true ∧ (∀ g, kindOfGroup g = .sensor → dirOf s 1 g = none)
      ∧ ((∀ o ∈ s.line.offers, o = pollOffer)
        ∧ (awaitedLamps s 1).filter (fun f => decide ((entryOf s 1 f).result = .unchecked)) = [0])
      ∧ ∀ f, (entryOf s 1 f).nextRead = none := by
  refine ⟨⟨rfl, nofun⟩, by decide, by decide, by decide, by decide, by decide, by decide, ?_⟩
  intro f
  simp [entryOf, modRec, at2, setOffers, busy]

theorem witness_TranslationIsAnswered_claim :
    let s := modGroup 1 4 (fun x => { x with block := none }) (modBlock 1 (fun x => { x with owner := none })
        (busy (at2 .running)))
    s.IdleLine ∧ inService s 1 = true ∧ dirOf s 1 4 = some (entry 200) ∧ (groupRec s 1 4).fetchFailed = false
      ∧ (groupRec s 1 4).noSpace = false ∧ (groupRec s 1 4).block = none ∧ takeBlock s = (some 3, s)
      ∧ (∀ fl, s.line.flight = some fl → fl.offer.why ≠ .fetchWord 1 4 3 200)
      ∧ ∀ c h, (blockOf s c).owner = some (1, h) → (blockOf s c).state ≠ .fetching := by
  refine ⟨nofun, by decide, by decide, by decide, by decide, by decide, rfl, ?_, by decide⟩
  intro fl h
  cases h
  decide

theorem witness_StreamWordsAreTaken_room :
    ∀ a x, (streamRec (describing a x) 2).wires = x.wires ∧ (streamRec (describing a x) 2).required = x.required := by
  intro a x
  simp [streamRec, describing, flying, modStream, modRec, still]

/-! The changes of a command value and of the motion state. -/

/-- Entry 47 feeds a code, position 2 in service, a READ-WORD in flight. -/
def fed (k : DecodeKind) (f : Option Code) (s : State) : State :=
  { s with decoder := { s.decoder with entries := (oneEntry k f).decoder.entries } }

theorem fed_only (k : DecodeKind) (f : Option Code) (s : State) (m : Fin 48) (x : DecodeEntry) :
    (fed k f s).decoder.entries.get m = some x → m = 47 := by
  intro h
  simp only [fed, oneEntry, Tab.get_put, Tab.get_fill] at h
  split at h
  · assumption
  · cases h

theorem witness_FramesAreDecoded_changed :
    let s := fed .actuator (some 128) (busy (at2 .running))
    let e : CommandEntry := { value := 1, kind := some .actuator, since := some 5000000, fresh := true, neverUpdated := false }
    let s1 : State := { s with decoder := { s.decoder with commands := s.decoder.commands.put 128 e } }
    let u := State.retargeted 128 (s1.relined 128 true)
    let r := (row 12 .actuator).record
    s.notices = [] ∧ isRequest s (frame 0x2C4 [1]) = false ∧ s.Commanded 128 ∧ (commandOf s 128).value ≠ 1
      ∧ (u.line.flight.isSome = true ∧ u.Bound 1 128 2 (entry 300) r ∧ r.feed = .node ∧ r.point ≤ 63
        ∧ permits u 2 1 (deliveryKind u 1 128) = true ∧ u.OneDue 1 128 1 ∧ ∀ q, q ≠ 1 → inService u q = false) := by
  refine ⟨rfl, by decide, ⟨by decide, rfl, ?_, ?_, ?_⟩, by decide, rfl,
    bound2 128 2 _ _ (by decide) (by decide) (by decide) (by decide) (by decide) (by decide), by decide, by decide, by decide,
    ?_, by decide⟩
  · decide
  · decide
  · decide
  · refine only_due 128 1 (by decide) (fun _ _ => rfl) (by decide) ?_ ?_ ?_ (by decide) (by decide) (by decide)
    · intro g hg
      simp [commandOf, State.retargeted, State.relined, fed, busy, at2, still, State.reset, Tab.get_put, hg]
    · intro g hg
      simp [entryOf, State.retargeted, State.relined, fed, busy, at2, Tab.get_upd, hg]
    · intro second; cases second <;> decide

theorem witness_FramesAreDecoded_held :
    let s := fed .level (some 2) (modLine 2 (fun l => { l with hold := some 4900000 }) still)
    s.Commanded 2 ∧ (commandOf s 2).value = 0 ∧ (wiredOf s 2).code = some 2 ∧ (lineRec s 2).hold.isSome = true
      ∧ ∀ p, inService s p = false :=
  ⟨⟨by decide, rfl, by decide, by decide, by decide⟩, by decide⟩

/-- At a standstill, actuator 8/00 of position 2 delivered the value 1 that it is commanded, and no access permitted. -/
def started : State :=
  busy (with2 128 { delivered := some 1 } { at2 .running with
    policy := { table := Tab.fill 0#6 }
    decoder := { motion := .stationary, commands := (Tab.fill {}).put 128 { value := 1 },
                 entries := (oneEntry .speed none).decoder.entries,
                 speed := { speed := some 0, since := some 4900000, fresh := true } } })

/-- That state after a frame with a speed of 3 km/h. -/
def moved : State :=
  { started with decoder := { started.decoder with
      speed := { speed := some 3, since := some 5000000, fresh := true }, motion := .moving, stopTimer := none } }

theorem entryOf_moved (g : Code) (hg : g ≠ 128) : entryOf moved 1 g = { delivered := some 0 } := by
  simp [entryOf, moved, started, busy, with2, modEntry, at2, Tab.get_upd, hg]

theorem resting_moved : moved.Resting := by
  refine resting_one (by decide) (atRest_but 128 (by decide) (fun _ _ => rfl) (by decide) (fun g hg => ?_) entryOf_moved
    (by decide) (by decide))
  simp [commandOf, moved, started, busy, with2, modEntry, Tab.get_put, Tab.get_fill, hg]

theorem undisturbed_moved : moved.Undisturbed := by
  refine ⟨rfl, by decide, (fun _ h => nomatch h), ?_⟩
  intro fl h p f v k i
  obtain rfl : fl = { offer := busyOffer, deadline := 5001000 } := (Option.some.inj h).symm
  simp [busyOffer]

theorem witness_FramesAreDecoded_moving :
    (started.notices = [] ∧ isRequest started (frame 0x2C4 [3]) = false ∧ started.decoder.motion = .stationary
        ∧ started.decoder.speed.fresh = true ∧ started.decoder.speed.since = some 4900000)
      ∧ ((entryOf moved 1 128).delivered ≠ none ∧ (entryOf moved 1 128).delivered ≠ some 0)
      ∧ moved.Bound 1 128 2 (entry 300) (row 12 .actuator).record
      ∧ ((∀ q, q ≠ 1 → inService moved q = false) ∧ permits moved 2 1 .tsm = false
        ∧ moved.line.flight.isSome = true ∧ (entryOf moved 1 128).override = none ∧ moved.delivery.owed.get 1 = []
        ∧ stopInFlight moved 1 128 = false) :=
  ⟨by decide, by decide, bound2 128 2 _ _ (by decide) (by decide) (by decide) (by decide) (by decide) (by decide), by decide⟩

theorem witness_StaleTimersRunOut_changed :
    let e : CommandEntry := { value := 255, kind := some .phase, since := some 4900000, fresh := true }
    let s := modCommand 16 (fun _ => e) still
    (s.notices = [] ∧ s.Commanded 16 ∧ (commandOf s 16).value ≠ 0 ∧ (∀ p, inService s p = false))
      ∧ (wiredOf s 0).code = some 16 ∧ (lineRec s 0).hold = none :=
  ⟨⟨rfl, ⟨by decide, rfl, by decide, by decide, by decide⟩, by decide⟩, by decide⟩

theorem witness_StaleTimersRunOut_stationary :
    let d : Decoder := { speed := { speed := some 0, since := some 4900000, fresh := true }, stopTimer := some 4000000 }
    let s := { still with decoder := d }
    s.notices = [] ∧ s.decoder.stopTimer = some 4000000 ∧ s.Undisturbed ∧ s.Resting ∧ s.check.queue = [] :=
  ⟨rfl, rfl, ⟨rfl, by decide, (fun _ h => nomatch h), (fun _ h => nomatch h)⟩, resting_none (by decide), rfl⟩

theorem witness_DecodeIsWritten_speed_removed :
    let s := asked 2 [175, 0, 0, 0, 0, 0] { staged with decoder := { staged.decoder with motion := .stationary } }
    let u := State.replied { s with decoder := { s.decoder with
      entries := s.decoder.entries.put 47 none, speed := {}, motion := .moving, stopTimer := none } }
      (req 2 [175, 0, 0, 0, 0, 0]) [] .ok []
    s.Serving 2 (req 2 [175, 0, 0, 0, 0, 0]) [] ∧ s.decoder.motion = .stationary
      ∧ isSpeedEntry (s.decoder.entries.get 47) = true ∧ u.Undisturbed ∧ u.Resting
      ∧ decodeKindOf 2 = some .level ∧ DecodeKind.level ≠ .speed :=
  ⟨serving (by decide) (by decide), rfl, by decide,
    ⟨rfl, by decide, (fun _ h => nomatch h), (fun _ h => nomatch h)⟩, resting_none (by decide), rfl, by decide⟩

/-! Coupling, contributors and removals. -/

theorem witness_CouplingIsDebounced_rise :
    let up := { still with consist := { cplLevel := true, cplTimer := some 4800000 } }
    let lost := modRec 0 (fun r => { r with state := .lost }) up
    let held := { up with consist := { up.consist with release := { active := true, lowest := some 0 } } }
    (up.consist.release.active = false ∧ up.consist.sweep = none ∧ up.check.queue = [] ∧ lowestVacant up = some 0
        ∧ up.consist.pass.active = false ∧ (∀ p, stateOf up p ≠ .lost) ∧ ∃ p, stateOf up p = .vacant)
      ∧ (∃ p, stateOf lost p = .lost) ∧ held.consist.release.active = true := by decide

theorem witness_CouplingIsDebounced_fall :
    let c : Contributor := { pos := 1, code := 0, nominal := 5, loadKind := .resistive }
    let s := checking 7 false (modCircuit 3 (fun x => { x with contributors := [c], reported := some { cls := .low } })
      { at12 .running with consist := { (at12 .running).consist with cplLevel := false, cplTimer := some 4800000 } })
    s.Quiet ∧ s.consist.cplTimer = some 4800000 ∧ s.consist.cplPresent = true ∧ (∀ p, stateOf s p ≠ .exercising)
      ∧ (∀ x, (circuitRec s x).rebuildPending = false ∧ (circuitRec s x).contributors.length ≤ 16
        ∧ ∀ c ∈ (circuitRec s x).contributors, stateOf s c.pos ≠ .vacant)
      ∧ s.check.slot.map (fun sl => (sl.entry.target, sl.window)) = some (.circuit 7, false)
      ∧ (∀ p, (streamRec s p).identNext = none) ∧ s.consist.release.active = false ∧ stateOf s 1 = .running
      ∧ ∀ p, 1 < p → stateOf s p = .vacant :=
  ⟨⟨rfl, fun _ => rfl⟩, by decide⟩

/-- As `finishing`, one WIRED-fed lamp captured for circuit 3, which lists a lamp of positions 1 and 4. -/
def adding (motion : Motion) (n : Nat) : State :=
  let c := fun (p : Pos) (f : Code) => ({ pos := p, code := f, nominal := 5, loadKind := .resistive } : Contributor)
  let s := modStream 2 (fun x => { x with wires := [{ circuit := 3, code := 33, nominal := 9, loadKind := .resistive }] })
    (finishing true false)
  modCircuit 3 (fun x => { x with contributors := List.replicate n (c 0 5) ++ [c 3 8] })
    (modRec 0 (fun r => { r with state := .running }) (modRec 3 (fun r => { r with state := .running })
      { s with decoder := { s.decoder with motion := motion } }))

theorem witness_BringUpCompletes_adds :
    (∀ n ∈ [1, 15], ((streamRec (adding .moving n) 2).wires.map fun i => i.circuit) = [3]
        ∧ (∀ z : Group, 4 ≤ z.val → (streamRec (adding .moving n) 2).directory.get z = none)
        ∧ (∀ q, stateOf (adding .moving n) q ≠ .exercising)
        ∧ (∀ c ∈ (circuitRec (adding .moving n) 3).contributors, stateOf (adding .moving n) c.pos ≠ .vacant ∧ c.pos ≠ 2)
        ∧ (circuitRec (adding .moving n) 3).contributors.length = n + 1)
      ∧ (adding .moving 1).decoder.motion = .moving ∧ (adding .moving 1).check.slot = none
      ∧ (let s := checking 5 true (adding .stationary 1)
         s.decoder.motion = .stationary ∧ s.consist.cplPresent = true ∧ s.check.queue = [] ∧ s.service.nextPoll = none
           ∧ s.check.slot.map (fun sl => sl.entry.target) = some (.circuit 5)) := by decide

/-- As `releasing`, the consist MOVING; circuit 2 lists a lamp of positions 1 and 2, and circuit 6 is OVERFULL. -/
def removing (overfull : Bool) : State :=
  let c := fun (p : Pos) (f : Code) => ({ pos := p, code := f, nominal := 5, loadKind := .resistive } : Contributor)
  let s := releasing 1 false false
  modRec 0 (fun r => { r with state := .running })
    (modCircuit 2 (fun x => { x with contributors := c 0 5 :: List.replicate 15 (c 1 8), overfull := overfull })
      { s with check := { s.check with queue := [{ target := .lamp 1 3 }, { target := .lamp 0 4 }] } })

theorem witness_PositionsAreReleased_contributors :
    (∀ overfull, (removing overfull).InFlight (releaseOffer 1) 5000300)
      ∧ (∀ k, (circuitRec (removing true) k).rebuildPending = false ∧ (circuitRec (removing true) k).contributors.length ≤ 16
        ∧ ∀ c ∈ (circuitRec (removing true) k).contributors, stateOf (removing true) c.pos ≠ .vacant)
      ∧ (∀ p, p ≠ 1 → stateOf (removing true) p ≠ .exercising ∧ stateOf (removing true) p ≠ .lost
        ∧ stateOf (removing true) p ≠ .describing ∧ ∀ g : Group, g.val < 4 → dirOf (removing true) p g = none)
      ∧ (removing true).decoder.motion = .moving ∧ (removing true).check.rebuild = none
      ∧ (∀ k, (circuitRec (removing true) k).owed = false) :=
  ⟨fun _ => ⟨rfl, rfl, rfl, early⟩, by decide⟩

/-- As `removing`, lamp group 1 of position 1 LOADED with one WIRED-fed row. -/
def rebuilding : State :=
  modRec 0 (fun r => { r with directory := (Tab.fill none).put 1 (some (entry 500)) })
    (modGroup 0 1 (fun g => { g with block := some 9 }) (modBlock 9 (fun _ =>
      { state := .loaded, owner := some (0, 1), rows := (Tab.fill none).put 0 (some (row 10 .lamp .wired)) })
      (removing true)))

theorem witness_PositionsAreReleased_rebuilt :
    let r := (row 10 .lamp .wired).record
    rebuilding.Bound 0 (codeOf 1 0) 9 (entry 500) r ∧ (r.feed = .wired ∧ circuitOf r = 2)
      ∧ (∀ p g, (p, g) ≠ ((0 : Pos), (1 : Group)) → p ≠ 1 → g.val < 4 → inService rebuilding p = true →
        dirOf rebuilding p g = none)
      ∧ (∀ m x, m ≠ 0 → (blockOf rebuilding 9).rows.get m ≠ some x)
      ∧ ((circuitRec rebuilding 2).contributors.filter fun c => decide (c.pos ≠ 1)).map (fun c => (c.pos, c.code)) = [(0, 5)]
      ∧ (5 : Code) < codeOf 1 0 := by
  refine ⟨⟨by decide, by decide, by decide, by decide, by decide, by decide, by decide, false, by decide⟩, by decide, by decide,
    ?_, by decide⟩
  intro m x hm
  simp [rebuilding, blockOf, modRec, modGroup, modBlock, Tab.get_put, hm]

/-- Position 1 WIRED, and the RELEASE of position 2 in flight. -/
def wiredWalk (cpl : Bool) : State := modRec 0 (fun _ => { state := .wired }) (releasing 0 cpl false)

/-- Position 1 WIRED and alone, coupling PRESENT or not, the debounce time of a fall running. -/
def wiredAlone (cpl : Bool) : State :=
  asked 23 [1] (modRec 0 (fun _ => { state := .wired })
    { still with consist := { cplPresent := cpl, cplTimer := if cpl then some 4999900 else none } })

theorem witness_PositionsAreReleased_wired :
    (∀ s ∈ [wiredWalk true, wiredWalk false, wiredAlone true, wiredAlone false],
      stateOf s 0 = .wired ∧ (∀ b g, (blockOf s b).owner ≠ some (0, g)) ∧ (∀ k, circuitRec s k = {}) ∧ s.check = {}
        ∧ s.delivery.pendingOverride = none ∧ s.delivery.pendingRead = none ∧ s.sequence = {} ∧ s.consist.sweep = none)
      ∧ (∀ cpl, (wiredWalk cpl).InFlight (releaseOffer 1) 5000300)
      ∧ (∀ cpl, (wiredAlone cpl).Quiet ∧ (wiredAlone cpl).line = {} ∧ (wiredAlone cpl).consist.release.active = false
        ∧ (wiredAlone cpl).consist.pass.active = false ∧ (wiredAlone cpl).Serving 23 (req 23 [1]) []
        ∧ ∀ x, x ≠ 0 → stateOf (wiredAlone cpl) x = .vacant)
      ∧ argByte (req 23 [1]).args 0 = 1
      ∧ ((wiredAlone true).consist.cplTimer = some 4999900 ∧ (wiredAlone true).consist.cplLevel = false) := by
  refine ⟨by decide, fun _ => ⟨rfl, rfl, rfl, early⟩, fun cpl =>
    ⟨⟨rfl, fun _ => rfl⟩, rfl, rfl, rfl, serving (by decide : 0 < 16) rfl, ?_⟩, by decide, by decide⟩
  cases cpl <;> decide

end Sys2Proof.Tests
end

section
/-!
Function codes and commanded state: what the decode kinds make of a raw value (R8 to R12). The equations of `convertField`
come first, one for each kind in the form the statement asks for, then what the LEVEL quotient of R10 satisfies.
-/
namespace Sys2Proof.Machine

/-- R8: SWITCH knows two raw values and leaves the others without a value. -/
theorem convertField_switch (w raw : Nat) :
    convertField .switch w raw = if raw = 0 then some 0 else if raw = 1 then some 255 else none := rfl

/-- R9: PHASE has a value for every raw value. -/
theorem convertField_phase (w raw : Nat) :
    convertField .phase w raw = some (if raw = 0 then 0 else 255) :=
  (apply_ite some _ _ _).symm

/-- R10: LEVEL scales the range of the field to 0 to 255. -/
theorem convertField_level (w raw : Nat) :
    convertField .level w raw = some (raw * 255 / (2 ^ w - 1)) := rfl

/-- R11: ACTUATOR takes all but its two drive values as stop, and does not look at the width. -/
theorem convertField_actuator (w raw : Nat) :
    convertField .actuator w raw = some (if raw = 1 then 1 else if raw = 2 then 2 else 0) := by
  by_cases hA : raw = 1
  · subst hA; rfl
  · by_cases hB : raw = 2
    · subst hB; rfl
    · simp [convertField, hA, hB]

/-- R12: SPEED takes the raw value as it is, all ones meaning that the speed is not available. -/
theorem convertField_speed (w raw : Nat) :
    convertField .speed w raw = if raw = 2 ^ w - 1 then none else some raw := rfl

/-- R10: the LEVEL value is the rounded-down quotient of the scaled raw value by the all-ones value, it stays within a byte,
and it reaches both ends of the range. The width being at least 1 keeps the divisor positive. -/
theorem convertField_level_spec {w raw : Nat} (hw : 1 ≤ w) (hraw : raw < 2 ^ w) :
    ∃ v, convertField .level w raw = some v ∧ v ≤ 255 ∧ v * (2 ^ w - 1) ≤ raw * 255
      ∧ raw * 255 < (v + 1) * (2 ^ w - 1) ∧ (raw = 0 → v = 0) ∧ (raw = 2 ^ w - 1 → v = 255) := by
  have hpos : 0 < 2 ^ w - 1 := Nat.sub_pos_of_lt (Nat.one_lt_two_pow (Nat.one_le_iff_ne_zero.mp hw))
  have hle : raw ≤ 2 ^ w - 1 := Nat.le_sub_one_of_lt hraw
  refine ⟨_, convertField_level w raw, ?byte, Nat.div_mul_le_self _ _, ?below, ?zero, ?ones⟩
  case byte => exact Nat.div_le_of_le_mul (Nat.mul_le_mul_right 255 hle)
  case below => exact Nat.lt_mul_of_div_lt (Nat.lt_succ_self _) hpos
  case zero => rintro rfl; simp
  case ones => rintro rfl; exact Nat.mul_div_cancel_left 255 hpos

/-- Settles O19, kind by kind: the equations of `convertField`, and for LEVEL the bounds of its quotient. -/
theorem fieldConversions : Obligations.FieldConversions := by
  unfold Obligations.FieldConversions
  refine ⟨convertField_actuator, fun w raw hw _ hraw => ⟨?switch, ?phase, ?level, ?speed⟩⟩
  case switch => exact convertField_switch w raw
  case phase => exact convertField_phase w raw
  case level => exact convertField_level_spec hw hraw
  case speed => exact convertField_speed w raw

end Sys2Proof.Machine
end

section
/-!
Direct lines: the on-count of a level (R122). The supply reading and the floor of 1 come first, in the form the statement
asks for, then `onCountOf` with and without compensation.
-/
namespace Sys2Proof.Machine

/-- A clamp to a range that is not empty is the larger of its lower bound and the value cut at its upper bound. -/
theorem clamp_eq_max_min {lo hi : Nat} (h : lo ≤ hi) (v : Nat) : clamp lo hi v = max lo (min v hi) := by
  unfold clamp
  split
  case isTrue below => omega
  case isFalse => split <;> omega

/-- R122: V_c lies between half and three halves of V_ref, and is V_ref without a reading. -/
theorem clampedSupply_eq (vref : Nat) (supply : Option Nat) :
    clampedSupply vref supply = (supply.map fun v => max (vref / 2) (min v (vref * 3 / 2))).getD vref := by
  cases supply with
  | none => rfl
  | some v => exact clamp_eq_max_min (by omega : vref / 2 ≤ vref * 3 / 2) v

/-- R122: raising a count of 0 to 1 where the uncompensated one is not 0 is taking the larger of the count and that floor. -/
theorem floor_eq_max (base d : Nat) :
    (if 0 < base ∧ d = 0 then 1 else d) = max d (if 0 < base then 1 else 0) := by
  by_cases hbase : 0 < base
  · rw [if_pos hbase]; split <;> omega
  · rw [if_neg (fun h => hbase h.left), if_neg hbase, Nat.max_zero]

/-- R122: without compensation, and at the end levels, the on-count is D_base. -/
theorem onCountOf_uncompensated {level : Nat} {comp : CompMode} (period vref : Nat) (supply : Option Nat)
    (h : ¬ (comp = .resistive ∧ 0 < level ∧ level < 255)) :
    onCountOf level period comp vref supply = level * (period + 1) / 255 :=
  if_neg h

/-- R122: in RESISTIVE mode a level between the end levels has D_base scaled by V_ref² / V_c², cut at P + 1, with a floor
of 1 where D_base is not 0. -/
theorem onCountOf_resistive {level : Nat} (period vref : Nat) (supply : Option Nat) (hlo : 0 < level) (hhi : level < 255) :
    onCountOf level period .resistive vref supply =
      max (min (level * (period + 1) / 255 * vref ^ 2 / clampedSupply vref supply ^ 2) (period + 1))
        (if 0 < level * (period + 1) / 255 then 1 else 0) := by
  rw [sq, sq, ← floor_eq_max]
  exact if_pos ⟨rfl, hlo, hhi⟩

/-- R122: compensation turns no lit lamp off. -/
theorem onCountOf_pos {level period : Nat} (comp : CompMode) (vref : Nat) (supply : Option Nat)
    (hbase : 0 < level * (period + 1) / 255) : 0 < onCountOf level period comp vref supply := by
  by_cases h : comp = .resistive ∧ 0 < level ∧ level < 255
  · obtain ⟨rfl, hlo, hhi⟩ := h
    rw [onCountOf_resistive period vref supply hlo hhi, if_pos hbase]
    exact Nat.lt_of_lt_of_le Nat.zero_lt_one (Nat.le_max_right _ _)
  · rwa [onCountOf_uncompensated period vref supply h]

/-- Settles O11, part by part: the bound is `onCountOf_le`, and the values are those with and without compensation. -/
theorem onCountOfALevel : Obligations.OnCountOfALevel := by
  unfold Obligations.OnCountOfALevel
  intro level period vref comp supply hlevel _
  refine ⟨onCountOf_le comp vref supply hlevel, onCountOf_pos comp vref supply, ?uncompensated, ?dark, ?full, ?resistive⟩
  case uncompensated =>
    intro h
    apply onCountOf_uncompensated
    rintro ⟨rfl, hlo, hhi⟩
    obtain hnone | hdark | hfull := h
    · cases hnone
    · omega
    · omega
  case dark => rintro rfl; simp
  case full => rintro rfl; exact Nat.mul_div_cancel_left (period + 1) (by decide)
  case resistive =>
    rintro rfl hlo hhi
    rw [onCountOf_resistive period vref supply hlo hhi, clampedSupply_eq]

end Sys2Proof.Machine
end

section
/-!
Direct lines: what the end of a period makes of each line record (R117, R120, R124). Each of the three loops of `nextPeriod`
is first said line by line, as a change of one line record.
-/
namespace Sys2Proof.Machine

/-- R122: the pending on-count that line k has under the period P, its record being `l`. -/
def pitched (s : State) (k : LineNo) (period : Nat) (l : Line) : Nat :=
  onCountOf (if l.exercise then 255 else codeLevel s (wiredOf s k).code) period (wiredOf s k).comp s.settings.vref
    s.direct.supply

/-- R117, R120: the record of line k with its pending on-count under the period P: computed anew, or in HOLD clamped. -/
def repitched (s : State) (k : LineNo) (period : Nat) (l : Line) : Line :=
  { l with pendingOn := if l.hold.isSome then min l.pendingOn (period + 1) else pitched s k period l }

/-- R120: the record of line k as the end of a period of timebase t leaves it: gone to the timebase its profile names. -/
def departed (t : TbName) (s : State) (k : LineNo) (l : Line) : Line :=
  if l.tb = t ∧ (wiredOf s k).timebase ≠ t then
    { l with
      tb := (wiredOf s k).timebase, onCount := 0, settle := 2, sampled := true, joining := true
      pendingOn := if l.hold.isSome then l.pendingOn else pitched s k (timebase s (wiredOf s k).timebase).period l }
  else l

/-- R120: the record of line k that has moved, put under the period P of its new timebase. -/
def joined (s : State) (k : LineNo) (period : Nat) (l : Line) : Line :=
  if l.joining then { repitched s k period l with joining := false } else l

/-- R124: the record of line k with its on-count taken at a period's start. -/
def taking (t : TbName) (s : State) (k : LineNo) (l : Line) : Line :=
  if l.tb = t then
    let j := joined s k (timebase s l.tb).period l
    let d := if l.trip || groupTripped s (lineGroup k) then 0 else j.pendingOn
    { j with onCount := d, settle := if d = 0 then 2 else j.settle, sampled := false }
  else l

theorem upd_put {α : Type} {n : Nat} (t : Tab α n) (i : Fin n) (f : α → α) : t.upd i f = t.put i (f (t.get i)) := rfl

/-- Two changes of one cell are one where they agree on the value it holds. -/
theorem Tab.upd_congr {α : Type} {n : Nat} (t : Tab α n) (i : Fin n) {f g : α → α} (h : f (t.get i) = g (t.get i)) :
    t.upd i f = t.upd i g := by
  rw [upd_put, upd_put, h]

theorem modLine_setLines_congr {l : Tab Line 8} {s : State} {k : LineNo} {f g : Line → Line} (h : f (l.get k) = g (l.get k)) :
    setLines (l.upd k f) s = setLines (l.upd k g) s := by rw [Tab.upd_congr _ _ h]

@[simp] theorem codeLevel_setLines (l : Tab Line 8) (s : State) (f : Option Code) :
    codeLevel (setLines l s) f = codeLevel s f := rfl

theorem computePending_setLines (l : Tab Line 8) (s : State) (k : LineNo) :
    computePending k (setLines l s) =
      setLines (l.upd k fun x => { x with pendingOn := pitched s k (timebase s x.tb).period x }) s := by
  unfold computePending
  rw [modLine_setLines, lineOnCount_setLines]
  exact modLine_setLines_congr rfl

theorem recompute_setLines (l : Tab Line 8) (s : State) (k : LineNo) :
    recompute k (setLines l s) =
      setLines (l.upd k fun x =>
        { x with pendingOn := if x.hold.isSome then x.pendingOn else pitched s k (timebase s x.tb).period x }) s := by
  unfold recompute
  rw [lineRec_setLines, computePending_setLines]
  split
  case isTrue h => rw [Tab.upd_eq_self]; simp [h]
  case isFalse h => apply modLine_setLines_congr; simp [h]

theorem repitchLine_setLines (l : Tab Line 8) (s : State) (k : LineNo) :
    repitchLine k (setLines l s) = setLines (l.upd k fun x => repitched s k (timebase s x.tb).period x) s := by
  unfold repitchLine
  rw [lineRec_setLines, computePending_setLines, modLine_setLines]
  split
  case isTrue h => apply modLine_setLines_congr; simp [repitched, h]
  case isFalse h => apply modLine_setLines_congr; simp [repitched, h]

theorem Tab.upd_upd {α : Type} {n : Nat} (t : Tab α n) (i : Fin n) (f g : α → α) :
    (t.upd i f).upd i g = t.upd i fun x => g (f x) := by
  apply Tab.ext_get
  intro j
  by_cases h : j = i <;> simp [Tab.get_upd, h]

theorem moveLine_setLines (t : TbName) (l : Tab Line 8) (s : State) (k : LineNo)
    (h : (l.get k).tb = t ∧ (wiredOf s k).timebase ≠ t) : moveLine k (setLines l s) = setLines (l.upd k (departed t s k)) s := by
  unfold moveLine
  rw [modLine_setLines, recompute_setLines, Tab.upd_upd]
  apply modLine_setLines_congr
  simp only [departed, if_pos h, wiredOf_setLines, pitched]

/-- R120: each line whose profile names the other timebase has left this one. -/
theorem moveLines_eq (t : TbName) (s : State) :
    ∃ m, moveLines t s = setLines m s ∧ ∀ k, m.get k = departed t s k (lineRec s k) := by
  apply foldl_allLines
  intro l k _
  by_cases h : (l.get k).tb = t ∧ (wiredOf s k).timebase ≠ t
  · exact (if_pos h).trans (moveLine_setLines t l s k h)
  · rw [Tab.upd_eq_self]
    · exact if_neg h
    · exact if_neg h

theorem timebase_modTimebase (s : State) (t x : TbName) (f : Timebase → Timebase) :
    timebase (modTimebase t f s) x = if x = t then f (timebase s t) else timebase s x := by
  cases t <;> cases x <;> rfl

/-- A timebase changed by a function that leaves it alone changes nothing. -/
theorem modTimebase_eq_self {s : State} {t : TbName} {f : Timebase → Timebase} (h : f (timebase s t) = timebase s t) :
    modTimebase t f s = s := by
  cases t
  · show { s with direct := { s.direct with tbA := f (timebase s .a) } } = s; rw [h]; rfl
  · show { s with direct := { s.direct with tbB := f (timebase s .b) } } = s; rw [h]; rfl

@[simp] theorem pitched_modTimebase (s : State) (t : TbName) (f : Timebase → Timebase) :
    pitched (modTimebase t f s) = pitched s := by cases t <;> rfl

@[simp] theorem repitched_modTimebase (s : State) (t : TbName) (f : Timebase → Timebase) :
    repitched (modTimebase t f s) = repitched s := by cases t <;> rfl

@[simp] theorem wiredOf_modTimebase (s : State) (t : TbName) (f : Timebase → Timebase) :
    wiredOf (modTimebase t f s) = wiredOf s := by cases t <;> rfl

@[simp] theorem lineRec_modTimebase (s : State) (t : TbName) (f : Timebase → Timebase) :
    lineRec (modTimebase t f s) = lineRec s := by cases t <;> rfl

@[simp] theorem groupTripped_modTimebase (s : State) (t : TbName) (f : Timebase → Timebase) :
    groupTripped (modTimebase t f s) = groupTripped s := by cases t <;> funext g <;> cases g <;> rfl

/-- R120: what leaving a timebase makes of a line does not depend on the timebase it leaves. -/
theorem departed_modTimebase (s : State) (t : TbName) (f : Timebase → Timebase) (k : LineNo) (l : Line) :
    departed t (modTimebase t f s) k l = departed t s k l := by
  unfold departed
  rw [wiredOf_modTimebase, pitched_modTimebase, timebase_modTimebase]
  by_cases h : l.tb = t ∧ (wiredOf s k).timebase ≠ t
  · rw [if_pos h, if_pos h, if_neg h.2]
  · rw [if_neg h, if_neg h]

@[simp] theorem taking_setLines (m : Tab Line 8) (t : TbName) (s : State) : taking t (setLines m s) = taking t s := by
  funext k l
  simp only [taking, groupTripped_setLines, timebase_setLines]
  rfl

@[simp] theorem repitched_setLines (m : Tab Line 8) (s : State) : repitched (setLines m s) = repitched s := rfl

/-- R117: a pending period is in force, and the lines of the timebase are put under it. -/
theorem applyPending_eq (t : TbName) (s : State) :
    ∃ m, applyPending t s = setLines m (modTimebase t (fun b => { b with period := b.pending.getD b.period, pending := none }) s)
      ∧ ∀ k, m.get k =
          match (timebase s t).pending with
          | none => lineRec s k
          | some p => if (lineRec s k).tb = t then repitched s k p (lineRec s k) else lineRec s k := by
  cases hp : (timebase s t).pending with
  | none =>
    refine ⟨s.direct.lines, ?_, fun k => rfl⟩
    unfold applyPending
    rw [hp, modTimebase_eq_self]
    · rfl
    · cases hb : timebase s t with
      | mk period pending start => rw [hb] at hp; simp only at hp; subst hp; rfl
  | some p =>
    have hm : modTimebase t (fun b => { b with period := b.pending.getD b.period, pending := none }) s =
        modTimebase t (fun b => { b with period := p, pending := none }) s := by
      cases t <;> simp only [timebase] at hp <;> simp [modTimebase, hp]
    unfold applyPending
    rw [hp, hm]
    have hl : ∀ k, lineRec (modTimebase t (fun b => { b with period := p, pending := none }) s) k = lineRec s k := by
      intro k; cases t <;> rfl
    obtain ⟨m, he, hg⟩ := foldl_allLines (modTimebase t (fun b => { b with period := p, pending := none }) s)
      (fun s k => if (lineRec s k).tb = t then repitchLine k s else s)
      (fun k l => if l.tb = t then repitched s k p l else l) (by
        intro l k hlk
        by_cases h : (l.get k).tb = t
        · refine (if_pos h).trans ((repitchLine_setLines l _ k).trans (modLine_setLines_congr ?_))
          rw [if_pos h, h, timebase_modTimebase, if_pos rfl, repitched_modTimebase]
        · rw [Tab.upd_eq_self]
          · exact if_neg h
          · exact if_neg h)
    exact ⟨m, he, fun k => by rw [hg k, hl k]⟩

theorem joined_eq (s : State) (k : LineNo) (p : Nat) (l : Line) :
    joined s k p l = { l with
      joining := false, pendingOn := if l.joining then (repitched s k p l).pendingOn else l.pendingOn } := by
  unfold joined
  split
  case isTrue h => rfl
  case isFalse h => cases l; simp_all

theorem takeOnCount_setLines (t : TbName) (l : Tab Line 8) (s : State) (k : LineNo) (h : (l.get k).tb = t) :
    takeOnCount k (setLines l s) = setLines (l.upd k (taking t s k)) s := by
  have hj : joinTimebase k (setLines l s) = setLines (l.upd k fun x => joined s k (timebase s x.tb).period x) s := by
    unfold joinTimebase
    rw [lineRec_setLines, repitchLine_setLines, modLine_setLines, Tab.upd_upd]
    split
    case isTrue h => apply modLine_setLines_congr; rw [joined, if_pos h]
    case isFalse h => rw [Tab.upd_eq_self]; exact if_neg h
  unfold takeOnCount
  simp only [hj, modLine_setLines, Tab.upd_upd]
  apply modLine_setLines_congr
  simp only [taking, if_pos h, tripped, lineRec_setLines, groupTripped_setLines, Tab.get_upd_same, joined_eq]

/-- R124: each line on the timebase has taken its on-count. -/
theorem takeOnCounts_eq (t : TbName) (s : State) :
    ∃ m, takeOnCounts t s = setLines m s ∧ ∀ k, m.get k = taking t s k (lineRec s k) := by
  apply foldl_allLines
  intro l k _
  by_cases h : (l.get k).tb = t
  · exact (if_pos h).trans (takeOnCount_setLines t l s k h)
  · rw [Tab.upd_eq_self]
    · exact if_neg h
    · exact if_neg h

/-- R116: the timebase t as the end of its period leaves it. -/
def nextTimebase (b : Timebase) : Timebase :=
  { period := b.pending.getD b.period, pending := none, start := b.start + b.period + 1 }

/-- R117, R120, R124: the record of line k as the end of a period of timebase t leaves it. -/
def nextLine (t : TbName) (s : State) (k : LineNo) (l : Line) : Line :=
  let d := departed t s k l
  let r := match (timebase s t).pending with
    | none => d
    | some p => if d.tb = t then repitched s k p d else d
  taking t (modTimebase t nextTimebase s) k r

/-- R116, R117, R120, R124: the end of a period changes its timebase and the line records alone, each line by itself. -/
theorem nextPeriod_eq (t : TbName) (s : State) :
    ∃ m, nextPeriod t s = setLines m (modTimebase t nextTimebase s) ∧ ∀ k, m.get k = nextLine t s k (lineRec s k) := by
  obtain ⟨m₁, e₁, g₁⟩ := moveLines_eq t (modTimebase t (fun b => { b with start := b.start + (timebase s t).period + 1 }) s)
  obtain ⟨m₂, e₂, g₂⟩ := applyPending_eq t (setLines m₁
    (modTimebase t (fun b => { b with start := b.start + (timebase s t).period + 1 }) s))
  have e₃ : modTimebase t (fun b => { b with period := b.pending.getD b.period, pending := none }) (setLines m₁
      (modTimebase t (fun b => { b with start := b.start + (timebase s t).period + 1 }) s)) =
      setLines m₁ (modTimebase t nextTimebase s) := by cases t <;> rfl
  rw [e₃, setLines_setLines] at e₂
  obtain ⟨m₃, e₄, g₃⟩ := takeOnCounts_eq t (setLines m₂ (modTimebase t nextTimebase s))
  refine ⟨m₃, ?_, fun k => ?_⟩
  · unfold nextPeriod
    simp only [e₁, e₂, e₄, setLines_setLines]
  · have hpend : (timebase (setLines m₁
        (modTimebase t (fun b => { b with start := b.start + (timebase s t).period + 1 }) s)) t).pending =
        (timebase s t).pending := by rw [timebase_setLines, timebase_modTimebase, if_pos rfl]
    have hd : m₁.get k = departed t s k (lineRec s k) := by rw [g₁ k, departed_modTimebase, lineRec_modTimebase]
    rw [g₃ k, taking_setLines, lineRec_setLines, g₂ k, hpend, lineRec_setLines, hd, repitched_setLines,
      repitched_modTimebase]
    rfl

/-- A line of the other timebase stays as it was. -/
theorem nextLine_other {t : TbName} {s : State} {k : LineNo} {l : Line} (h : l.tb ≠ t) : nextLine t s k l = l := by
  have hd : departed t s k l = l := if_neg fun e => h e.1
  unfold nextLine
  rw [hd]
  cases hp : (timebase s t).pending <;> simp [taking, h]

/-- R120: a line that leaves has moved, and takes no on-count. -/
theorem nextLine_leaving {t : TbName} {s : State} {k : LineNo} {l : Line} (h : l.tb = t) (hw : (wiredOf s k).timebase ≠ t) :
    nextLine t s k l = departed t s k l := by
  have hd : (departed t s k l).tb ≠ t := by rw [departed, if_pos ⟨h, hw⟩]; exact hw
  unfold nextLine
  cases hp : (timebase s t).pending <;> simp [taking, hd]

/-- R116: the period in force after the end of a period. -/
def freshPeriod (t : TbName) (s : State) : Nat := (timebase s t).pending.getD (timebase s t).period

/-- R117, R120: the pending on-count that a line its timebase goes on driving has at the start of the next period. -/
def takenOn (t : TbName) (s : State) (k : LineNo) (l : Line) : Nat :=
  if (timebase s t).pending = none ∧ l.joining = false then l.pendingOn else (repitched s k (freshPeriod t s) l).pendingOn

@[simp] theorem repitched_joining (s : State) (k : LineNo) (p : Nat) (l : Line) :
    (repitched s k p l).joining = l.joining := rfl

/-- R117, R120: putting a line under the same period twice is putting it there once. -/
@[simp] theorem repitched_repitched (s : State) (k : LineNo) (p : Nat) (l : Line) :
    repitched s k p (repitched s k p l) = repitched s k p l := by
  unfold repitched pitched
  by_cases hh : l.hold.isSome = true <;> simp [hh]

/-- R117, R120, R124: a line its timebase goes on driving takes its pending on-count, or 0 while tripped. -/
theorem nextLine_staying {t : TbName} {s : State} {k : LineNo} {l : Line} (h : l.tb = t) (hw : (wiredOf s k).timebase = t) :
    nextLine t s k l =
      let d := if l.trip || groupTripped s (lineGroup k) then 0 else takenOn t s k l
      { l with onCount := d, pendingOn := takenOn t s k l, sampled := false, joining := false,
               settle := if d = 0 then 2 else l.settle } := by
  have hd : departed t s k l = l := if_neg fun e => e.2 hw
  have hper : (timebase (modTimebase t nextTimebase s) t).period = freshPeriod t s := by
    rw [timebase_modTimebase, if_pos rfl]; rfl
  have htake : ∀ r : Line, r.tb = t → r.trip = l.trip → taking t (modTimebase t nextTimebase s) k r =
      let n := if r.joining then (repitched s k (freshPeriod t s) r).pendingOn else r.pendingOn
      let d := if l.trip || groupTripped s (lineGroup k) then 0 else n
      { r with onCount := d, pendingOn := n, sampled := false, joining := false, settle := if d = 0 then 2 else r.settle } := by
    rintro r rfl htrip
    rw [taking, if_pos rfl, joined_eq, hper, repitched_modTimebase, groupTripped_modTimebase, htrip]
  unfold nextLine takenOn
  rw [hd]
  cases hp : (timebase s t).pending with
  | none =>
    refine (htake l h rfl).trans ?_
    by_cases hj : l.joining = true <;> simp [hj]
  | some p =>
    have hf : freshPeriod t s = p := by simp [freshPeriod, hp]
    dsimp only
    rw [if_pos h]
    refine (htake (repitched s k p l) h rfl).trans ?_
    simp only [repitched_joining, hf, repitched_repitched, ite_self, reduceCtorEq, false_and, if_false]
    rfl

theorem execPeriodBoundary_eq (t : TbName) (s : State) :
    ∃ m, exec (.periodBoundary t) s = .next (setLines m (modTimebase t nextTimebase (advanceTo (boundaryOf s t) s)))
      ∧ ∀ k, m.get k = nextLine t s k (lineRec s k) := by
  obtain ⟨m, he, hg⟩ := nextPeriod_eq t (advanceTo (boundaryOf s t) s)
  exact ⟨m, congrArg Host.Outcome.next he, fun k => by rw [hg k]; cases t <;> rfl⟩

/-- Settles O12: the end of a period changes its timebase and the line records alone (`nextPeriod_eq`), and a line is one of
the other timebase, one that leaves, or one that takes its on-count. -/
theorem periodBegins : Obligations.PeriodBegins := by
  unfold Obligations.PeriodBegins
  intro tb s
  obtain ⟨m, he, hm⟩ := execPeriodBoundary_eq tb s
  refine ⟨_, he, ?rest, ?timebases, fun k => ?line⟩
  case rest => cases tb <;> rfl
  case timebases => intro x; rw [timebase_setLines, timebase_modTimebase]; rfl
  case line =>
    rw [lineRec_setLines, hm k]
    by_cases h : (lineRec s k).tb = tb
    · rw [if_neg (not_not.mpr h)]
      by_cases hw : (wiredOf s k).timebase = tb
      · rw [if_pos hw, nextLine_staying h hw]; rfl
      · rw [if_neg hw, nextLine_leaving h hw, departed, if_pos ⟨h, hw⟩]
        by_cases hh : (lineRec s k).hold.isSome = true <;> simp only [hh] <;> rfl
    · rw [if_pos h, nextLine_other h]

end Sys2Proof.Machine
end

section
/-!
What every command keeps. `Keeps a b` says that the state `a`, reached from `b`, meets each of the bounds that `b` meets:
capacities, tables, settings and lines, and that no offer stands at a free line. `Steady a b` says besides that the
transaction in flight is left alone. Every operation between the blocks is steady (`Calm.steady`), and so is acting on the
notices (`settle_steady`); what remains are the few changes that a command makes by itself.
-/
namespace Sys2Proof.Machine

/-- The state `a`, reached from `b`, meets each bound that `b` meets. -/
structure Keeps (a b : State) : Prop where
  capacity : b.WithinCapacity → a.WithinCapacity
  sequence : b.SequenceBounded → a.SequenceBounded
  idle : b.IdleLine → a.IdleLine
  tables : b.DecodeSound → b.CommandsSound → a.DecodeSound ∧ a.CommandsSound
  config : b.ConfigInRange → a.ConfigInRange
  onCounts : b.DecodeSound → b.CommandsSound → b.OnCountsBounded → a.OnCountsBounded
  off : b.TrippedOff → b.SettleBounded → a.TrippedOff ∧ a.SettleBounded

/-- The state `a`, reached from `b`, meets each bound that `b` meets, and the transaction in flight is left alone where no
notice of `b` frees the line. -/
structure Steady (a b : State) : Prop extends Keeps a b where
  flight : Notice.lineFree ∉ b.notices → FlightKept a b ∧ Notice.lineFree ∉ a.notices

theorem Keeps.refl (s : State) : Keeps s s := ⟨id, id, id, And.intro, id, fun _ _ => id, And.intro⟩

theorem Keeps.trans {a b c : State} (h : Keeps a b) (h' : Keeps b c) : Keeps a c where
  capacity := h.capacity ∘ h'.capacity
  sequence := h.sequence ∘ h'.sequence
  idle := h.idle ∘ h'.idle
  tables hd hc := (h'.tables hd hc).elim h.tables
  config := h.config ∘ h'.config
  onCounts hd hc ho := (h'.tables hd hc).elim fun hd' hc' => h.onCounts hd' hc' (h'.onCounts hd hc ho)
  off ht hs := (h'.off ht hs).elim h.off

theorem Steady.refl (s : State) : Steady s s := ⟨Keeps.refl s, fun hn => ⟨FlightKept.refl s, hn⟩⟩

theorem Steady.trans {a b c : State} (h : Steady a b) (h' : Steady b c) : Steady a c where
  toKeeps := h.toKeeps.trans h'.toKeeps
  flight hn := (h'.flight hn).elim fun hf hn' => (h.flight hn').imp_left fun hf' => hf'.trans hf

/-! ## What notices keep -/

theorem lineCore_ext {a b : State} (h : Untouched a b) (k : LineNo) :
    (lineRec a k).onCount = (lineRec b k).onCount ∧ (lineRec a k).trip = (lineRec b k).trip
      ∧ (lineRec a k).settle = (lineRec b k).settle ∧ (lineRec a k).tb = (lineRec b k).tb
      ∧ (lineRec a k).joining = (lineRec b k).joining := by
  simpa [Line.core, and_assoc] using And.intro (congrArg LineCore.onCount (h.lines k))
    (And.intro (congrArg LineCore.trip (h.lines k)) (And.intro (congrArg LineCore.settle (h.lines k))
      (And.intro (congrArg LineCore.tb (h.lines k)) (congrArg LineCore.joining (h.lines k)))))

theorem timebase_of_untouched {a b : State} (h : Untouched a b) (t : TbName) : timebase a t = timebase b t := by
  cases t
  · exact h.tbA
  · exact h.tbB

theorem tripped_of_untouched {a b : State} (h : Untouched a b) (k : LineNo) : tripped a k = tripped b k := by
  have hg : ∀ g, groupTripped a g = groupTripped b g := by
    intro g; cases g
    · exact h.tripA
    · exact h.tripB
  obtain ⟨-, ht, -⟩ := lineCore_ext h k
  rw [tripped, tripped, ht, hg]

theorem Gentle.keeps {a b : State} (h : Gentle a b) : Keeps a b where
  capacity := h.capacity
  sequence := h.sequence
  idle := h.idle
  tables hd hc := ⟨⟨by simpa [h.untouched.decoder] using hd.entries, by simpa [h.untouched.decoder] using hd.oneSpeed⟩,
    commandsSound_of_untouched h.untouched hc⟩
  config hc := ⟨by rw [h.untouched.settings]; exact hc.settings,
    fun k => by rw [wiredOf, h.untouched.wired]; exact hc.wired k,
    fun t => by rw [timebase_of_untouched h.untouched]; exact hc.timebases t⟩
  onCounts hd hc ho k := by
    obtain ⟨hon, -, -, htb, -⟩ := lineCore_ext h.untouched k
    refine ⟨?_, h.pendingOn hc (fun j => (ho j).2) k⟩
    rw [hon, htb, timebase_of_untouched h.untouched]
    exact (ho k).1
  off ht hs := by
    refine ⟨fun k htr => ?_, fun k => ?_⟩
    · rw [tripped_of_untouched h.untouched] at htr
      rw [(lineCore_ext h.untouched k).1]
      exact ht k htr
    · obtain ⟨-, -, hse, -⟩ := lineCore_ext h.untouched k
      rw [hse]
      exact hs k

theorem Calm.steady {a b : State} (h : Calm a b) : Steady a b := ⟨h.gentle.keeps, fun hn => ⟨h.flight, h.free hn⟩⟩

theorem settle_keeps (s : State) : Keeps (settle s) s := (settle_gentle s).keeps

theorem settle_steady (s : State) : Steady (settle s) s :=
  ⟨settle_keeps s, fun hn => by
    obtain ⟨hf, hn'⟩ := drain_flight Config.noticeBound s.notices { s with notices := [] } hn (by simp)
    exact ⟨hf.trans (flightKept_of_eq rfl), hn'⟩⟩

/-! ## What a command changes by itself -/

/-- A change that leaves the capacities, the line and the notices alone. -/
theorem Steady.of_tables {a b : State}
    (hview : (a.policy.faults, a.port.queue, a.management.requests, a.check, a.sequence, a.line, a.notices) =
      (b.policy.faults, b.port.queue, b.management.requests, b.check, b.sequence, b.line, b.notices))
    (htables : b.DecodeSound → b.CommandsSound → a.DecodeSound ∧ a.CommandsSound)
    (hconfig : b.ConfigInRange → a.ConfigInRange)
    (honCounts : b.DecodeSound → b.CommandsSound → b.OnCountsBounded → a.OnCountsBounded)
    (hoff : b.TrippedOff → b.SettleBounded → a.TrippedOff ∧ a.SettleBounded) : Steady a b := by
  simp only [Prod.mk.injEq] at hview
  obtain ⟨hf, hq, hr, hc, hs, hl, hn⟩ := hview
  refine ⟨⟨fun w => ⟨hf ▸ w.faults, hq ▸ w.frames, hr ▸ w.requests, hc ▸ w.exercise, ?_, ?_, hc ▸ w.opportunistic, ?_⟩,
    fun w => ⟨hs ▸ w.buffer, hs ▸ w.running⟩, fun w => ?_, htables, hconfig, honCounts, hoff⟩,
    fun h => ⟨flightKept_of_eq (by rw [hl]), hn ▸ h⟩⟩
  · intro k; rw [circuitRec, hc]; exact w.contributors k
  · intro k; rw [circuitRec, hc]; exact w.samples k
  · intro p; rw [unheardOf, hl]; exact w.unheard p
  · unfold State.IdleLine; rw [hl]; exact w

/-- A change that leaves the Command Decoder, the settings and the Direct Line Unit alone, and the line and the notices. -/
theorem Steady.of_lists {a b : State}
    (hview : (a.decoder, a.settings, a.direct, a.line, a.notices) = (b.decoder, b.settings, b.direct, b.line, b.notices))
    (hcapacity : b.WithinCapacity → a.WithinCapacity) (hsequence : b.SequenceBounded → a.SequenceBounded) : Steady a b := by
  simp only [Prod.mk.injEq] at hview
  obtain ⟨hd, hs, hl, hi, hn⟩ := hview
  have hline : lineRec a = lineRec b := by funext k; rw [lineRec, hl]; rfl
  have htb : timebase a = timebase b := by funext t; cases t <;> simp only [timebase, hl]
  have htr : tripped a = tripped b := by
    funext k
    have : groupTripped a = groupTripped b := by funext g; cases g <;> simp only [groupTripped, hl]
    rw [tripped, tripped, hline, this]
  refine ⟨⟨hcapacity, hsequence, fun w => ?_, fun w c => ⟨⟨?_, ?_⟩, fun f => ?_⟩, fun w => ⟨hs ▸ w.settings, fun k => ?_, ?_⟩,
    fun _ _ w => ?_, fun w c => ⟨?_, ?_⟩⟩, fun h => ⟨flightKept_of_eq (by rw [hi]), hn ▸ h⟩⟩
  · unfold State.IdleLine; rw [hi]; exact w
  · rw [hd]; exact w.entries
  · rw [hd]; exact w.oneSpeed
  · rw [commandOf, hd]; exact c f
  · rw [wiredOf, hl]; exact w.wired k
  · rw [htb]; exact w.timebases
  · unfold State.OnCountsBounded; rw [hline, htb]; exact w
  · unfold State.TrippedOff; rw [htr, hline]; exact w
  · unfold State.SettleBounded; rw [hline]; exact c

/-- A change that none of the bounds speaks of. -/
theorem Steady.of_rest {a b : State}
    (hlists : (a.policy.faults, a.port.queue, a.management.requests, a.check, a.sequence, a.line, a.notices) =
      (b.policy.faults, b.port.queue, b.management.requests, b.check, b.sequence, b.line, b.notices))
    (htables : (a.decoder, a.settings, a.direct) = (b.decoder, b.settings, b.direct)) : Steady a b := by
  simp only [Prod.mk.injEq] at hlists htables
  obtain ⟨hf, hq, hr, hc, hs, hl, hn⟩ := hlists
  obtain ⟨hd, hse, hdi⟩ := htables
  refine Steady.of_lists (by rw [hd, hse, hdi, hl, hn])
    (fun w => ⟨hf ▸ w.faults, hq ▸ w.frames, hr ▸ w.requests, hc ▸ w.exercise, fun k => ?_, fun k => ?_,
      hc ▸ w.opportunistic, fun p => ?_⟩) (fun w => ⟨hs ▸ w.buffer, hs ▸ w.running⟩)
  · rw [circuitRec, hc]; exact w.contributors k
  · rw [circuitRec, hc]; exact w.samples k
  · rw [unheardOf, hl]; exact w.unheard p

theorem advance_steady (d : Nat) (s : State) : Steady (advance d s) s := Steady.of_rest rfl rfl

theorem modConsist_steady (f : Consist → Consist) (s : State) : Steady (modConsist f s) s := Steady.of_rest rfl rfl

theorem modMemory_steady (f : Memory → Memory) (s : State) : Steady (modMemory f s) s := Steady.of_rest rfl rfl

theorem setStaging_steady (x : Option Staging) (s : State) : Steady (setStaging x s) s := Steady.of_rest rfl rfl

theorem nextConsist_steady (s : State) : Steady (nextConsist s) s := Steady.of_rest rfl rfl

theorem setFaultInput_steady (g : FaultGroup) (v : Bool) (s : State) : Steady (setFaultInput g v s) s := by
  cases g <;> exact Steady.of_tables rfl (fun hd hc => ⟨⟨hd.entries, hd.oneSpeed⟩, hc⟩) (fun w => ⟨w.settings, w.wired, w.timebases⟩) (fun _ _ w => w) And.intro

/-- What the running out of a timer brings about, the clock having gone on to its moment. -/
theorem atMoment_steady {body : State → State} (h : ∀ x, Steady (body x) x) (t : Option Time) (s : State) :
    Steady (atMoment t body s) s := by
  cases t with
  | none => exact Steady.refl s
  | some t => exact (h _).trans (advance_steady _ s)

/-- What a command brings about and the notices it hands on. -/
theorem settled_steady {body : State → State} (h : ∀ x, Steady (body x) x) (x : State) : Steady (settle (body x)) x :=
  (settle_steady _).trans (h x)

theorem timer_steady {body : State → State} (h : ∀ x, Steady (body x) x) (t : Option Time) (s : State) :
    Steady (atMoment t (fun s => settle (body s)) s) s := atMoment_steady (settled_steady h) t s

theorem answer_steady (r : ResultCode) (bs : List Byte) (s : State) : Steady (answer r bs s) s :=
  (answer_calm r bs (Calm.refl s)).steady

/-- The serving of the request at the head of the list. -/
theorem serve_steady (code need : Nat) {body : List Byte → State → State} (h : ∀ args x, Steady (body args x) x) (s : State) :
    Steady (serve code need body s) s := by
  unfold serve
  split
  · split
    · split
      · exact answer_steady _ _ s
      · exact h _ s
    · exact Steady.refl s
  · exact Steady.refl s

/-! ## The Command Decoder -/

/-- A change of the Command Decoder. -/
theorem modDecoder_steady (f : Decoder → Decoder) (s : State)
    (h : s.DecodeSound → s.CommandsSound → (modDecoder f s).DecodeSound ∧ (modDecoder f s).CommandsSound) :
    Steady (modDecoder f s) s :=
  Steady.of_tables rfl h (fun w => ⟨w.settings, w.wired, w.timebases⟩) (fun _ _ w => w) And.intro

/-- A change of the speed record, the motion state and the stop timer. -/
theorem modMotion_steady (f : Decoder → Decoder) (s : State) (he : (f s.decoder).entries = s.decoder.entries)
    (hc : (f s.decoder).commands = s.decoder.commands) : Steady (modDecoder f s) s :=
  modDecoder_steady f s fun hd hs =>
    ⟨⟨fun n e h => hd.entries n e (he ▸ h), fun n m e e' h h' => hd.oneSpeed n m e e' (he ▸ h) (he ▸ h')⟩,
      fun g => by rw [commandOf, modDecoder, hc]; exact hs g⟩

theorem motionNotices_steady (s : State) : Steady (emitAll motionNotices s) s :=
  (emitAll_calm motionNotices (by simp [motionNotices]) (Calm.refl s)).steady

theorem goMoving_steady (s : State) : Steady (goMoving s) s := by
  unfold goMoving
  split
  · exact modMotion_steady _ s rfl rfl
  · exact (motionNotices_steady _).trans (modMotion_steady _ s rfl rfl)

theorem goStationary_steady (s : State) : Steady (goStationary s) s :=
  (motionNotices_steady _).trans (modMotion_steady _ s rfl rfl)

theorem judgeSpeed_steady (v : Nat) (s : State) : Steady (judgeSpeed v s) s := by
  unfold judgeSpeed
  split
  · exact goMoving_steady s
  · split
    · exact Steady.refl s
    · split <;> exact modMotion_steady _ s rfl rfl

theorem updateSpeed_steady (v : Nat) (s : State) : Steady (updateSpeed v s) s :=
  (judgeSpeed_steady v _).trans (modMotion_steady _ s rfl rfl)

theorem speedGoesStale_steady (s : State) : Steady (speedGoesStale s) s :=
  (goMoving_steady _).trans (modMotion_steady _ s rfl rfl)

theorem resetSpeed_steady (s : State) : Steady (resetSpeed s) s :=
  (goMoving_steady _).trans (modMotion_steady _ s rfl rfl)

/-- A change of one Command Table entry. -/
theorem modCommand_steady (f : Code) (g : CommandEntry → CommandEntry) (s : State)
    (h : s.DecodeSound → commandSound f (commandOf s f) = true → commandSound f (g (commandOf s f)) = true) :
    Steady (modCommand f g s) s :=
  modDecoder_steady (fun d => { d with commands := d.commands.upd f g }) s fun hd hs => ⟨⟨hd.entries, hd.oneSpeed⟩, fun j => by
    by_cases hj : j = f
    · subst hj; simpa [commandOf, modDecoder] using h hd (hs j)
    · simpa [commandOf, modDecoder, Tab.get_upd_ne _ _ hj] using hs j⟩

/-- R8 to R11: a value that a sound entry's field yields is one of its function code's kind. -/
theorem commandSound_of_convertField {e : DecodeEntry} {f : Code} {raw v : Nat} {t : Time} (he : e.sound = true)
    (hf : e.code = some f) (hraw : raw < 2 ^ e.width) (hv : convertField e.kind e.width raw = some v) :
    commandSound f { value := v, kind := some e.kind, since := some t, fresh := true, neverUpdated := false } = true := by
  have hlevel : raw * 255 / (2 ^ e.width - 1) ≤ 255 := by
    apply Nat.div_le_of_le_mul
    exact Nat.mul_le_mul_right 255 (Nat.le_sub_one_of_lt hraw)
  unfold DecodeEntry.sound at he
  rw [hf] at he
  cases hk : e.kind <;> rw [hk] at hv he <;> simp only [convertField] at hv <;> simp at he <;>
    simp only [commandSound, he]
  case switch => split at hv <;> [skip; split at hv] <;> simp_all <;> omega
  case phase => split at hv <;> simp_all <;> omega
  case level => simp_all
  case actuator => split at hv <;> [skip; split at hv] <;> simp_all <;> omega

theorem pickField_lt {e : DecodeEntry} {frame : CanFrame} {raw : Nat} (h : pickField e frame = some raw) : raw < 2 ^ e.width := by
  unfold pickField at h
  dsimp only at h
  split at h
  · cases h; exact Nat.mod_lt _ (Nat.two_pow_pos _)
  · cases h

theorem updateCommand_steady (e : DecodeEntry) (f : Code) (raw v : Nat) (s : State)
    (he : s.DecodeSound → e.sound = true) (hf : e.code = some f) (hraw : raw < 2 ^ e.width)
    (hv : convertField e.kind e.width raw = some v) : Steady (updateCommand f v e.kind s) s :=
  modCommand_steady f _ s fun hd _ => commandSound_of_convertField (he hd) hf hraw hv

/-- R7: one entry of the Decode Table applied to a frame. -/
theorem applyEntry_steady (frame : CanFrame) (e : DecodeEntry) (acc : State × Touched)
    (he : acc.1.DecodeSound → e.sound = true) : Steady (applyEntry frame e acc).1 acc.1 := by
  obtain ⟨s, touched⟩ := acc
  unfold applyEntry
  dsimp only
  split
  · split
    · exact Steady.refl s
    · rename_i v hv
      obtain ⟨raw, hraw, hconv⟩ := Option.bind_eq_some_iff.mp hv
      split
      · exact updateSpeed_steady v s
      · rename_i f hf
        exact updateCommand_steady e f raw v s he hf (pickField_lt hraw) hconv
  · exact Steady.refl s

@[simp] theorem goMoving_entries (s : State) : (goMoving s).decoder.entries = s.decoder.entries := by
  unfold goMoving; split <;> rfl

@[simp] theorem judgeSpeed_entries (v : Nat) (s : State) : (judgeSpeed v s).decoder.entries = s.decoder.entries := by
  unfold judgeSpeed
  split
  · exact goMoving_entries s
  · split
    · rfl
    · split <;> rfl

/-- R7: a frame leaves the Decode Table alone. -/
theorem applyEntry_entries (frame : CanFrame) (e : DecodeEntry) (acc : State × Touched) :
    (applyEntry frame e acc).1.decoder.entries = acc.1.decoder.entries := by
  obtain ⟨s, touched⟩ := acc
  unfold applyEntry
  dsimp only
  split
  · split
    · rfl
    · split
      · exact judgeSpeed_entries _ _
      · rfl
  · rfl

theorem Tab.mem_toList {α : Type} {n : Nat} {t : Tab α n} {a : α} : a ∈ t.toList ↔ ∃ i, t.get i = a := by
  obtain ⟨⟨xs, hx⟩⟩ := t
  subst hx
  simp only [Tab.toList, Tab.get, Vector.get, Array.mem_toList_iff, Array.mem_iff_getElem]
  exact ⟨fun ⟨i, hi, h⟩ => ⟨⟨i, hi⟩, h⟩, fun ⟨i, h⟩ => ⟨i.1, i.2, h⟩⟩

/-- R7: the entries of the Decode Table applied to a frame one after the other. -/
theorem applySlots_steady (frame : CanFrame) (es : List (Option DecodeEntry)) (acc : State × Touched)
    (he : ∀ e, some e ∈ es → ∃ n, acc.1.decoder.entries.get n = some e) : Steady (es.foldl (applySlot frame) acc).1 acc.1 := by
  induction es generalizing acc with
  | nil => exact Steady.refl _
  | cons x es ih =>
    cases x with
    | none => exact ih acc fun e h => he e (by simp [h])
    | some e =>
      obtain ⟨n, hn⟩ := he e (by simp)
      refine (ih (applyEntry frame e acc) fun e' h => ?_).trans (applyEntry_steady frame e acc fun hd => hd.entries n e hn)
      rw [applyEntry_entries]
      exact he e' (by simp [h])

theorem updateNotices_not_free (s : State) (f : Code) (old : Nat) : Notice.lineFree ∉ updateNotices s f old := by
  unfold updateNotices changeNotices
  split <;> simp

theorem applyFrame_steady (frame : CanFrame) (s : State) : Steady (applyFrame frame s) s := by
  unfold applyFrame
  refine (Calm.steady (emitAll_calm _ ?_ (Calm.refl _))).trans
    (applySlots_steady frame s.decoder.entries.toList (s, []) fun e h => Tab.mem_toList.mp h)
  simp only [List.mem_flatMap, not_exists, not_and]
  exact fun x _ => updateNotices_not_free _ _ _

/-- R15: a value an entry falls to is one of its function code's kind. -/
theorem staleValue_sound {f : Code} {e : CommandEntry} (h : commandSound f e = true) :
    commandSound f { e with value := staleValue e.kind e.value, fresh := false } = true := by
  have hv : staleValue e.kind e.value = 0 ∨ staleValue e.kind e.value = e.value := by
    unfold staleValue; split <;> simp
  unfold commandSound at h ⊢
  split at h <;> rcases hv with hv | hv <;> simp_all

theorem entryGoesStale_steady (f : Code) (s : State) : Steady (entryGoesStale f s) s := by
  have hm := modCommand_steady f (fun e => { e with value := staleValue (commandOf s f).kind (commandOf s f).value, fresh := false })
    s fun _ h => staleValue_sound h
  unfold entryGoesStale
  dsimp only
  split
  · exact hm
  · exact (emitAll_calm _ (by simp [changeNotices]) (Calm.refl _)).steady.trans hm

/-- R4: an entry that passes the conditions of a write is sound. -/
theorem sound_of_decodeEntryOk {s : State} {n : Fin 48} {e : DecodeEntry} (h : decodeEntryOk s n e = true) : e.sound = true := by
  unfold decodeEntryOk at h
  unfold DecodeEntry.sound
  cases hf : e.format <;> cases hk : e.kind <;> rw [hf, hk] at h <;>
    simp [idInRange, idReserved] at h ⊢ <;> simp [h] <;> omega

/-- R4: a write of a SPEED entry passes only where no other entry is one. -/
theorem other_not_speed {s : State} {n m : Fin 48} {e o : DecodeEntry} (h : decodeEntryOk s n e = true) (hk : e.kind = .speed)
    (hm : m ≠ n) (ho : s.decoder.entries.get m = some o) : o.kind ≠ .speed := by
  unfold decodeEntryOk at h
  rw [hk] at h
  simp only [Bool.and_eq_true, List.all_eq_true] at h
  have := h.2.2 m (List.mem_finRange m)
  simpa [hm, ho] using this

theorem putDecodeEntry_steady (n : Fin 48) (e : Option DecodeEntry) (s : State)
    (h : ∀ x, e = some x → decodeEntryOk s n x = true) : Steady (putDecodeEntry n e s) s := by
  have hm : Steady (modDecoder (fun d => { d with entries := d.entries.put n e }) s) s := by
    refine modDecoder_steady _ s fun hd hc => ⟨⟨fun m x hx => ?_, fun m m' x x' hx hx' hk hk' => ?_⟩, hc⟩
    · simp only [modDecoder, Tab.get_put] at hx
      split at hx
      · exact sound_of_decodeEntryOk (h x hx)
      · exact hd.entries m x hx
    · simp only [modDecoder, Tab.get_put] at hx hx'
      split at hx <;> split at hx'
      case isTrue.isTrue => simp_all
      case isTrue.isFalse hn hn' => exact absurd hk' (other_not_speed (h x hx) hk hn' hx')
      case isFalse.isTrue hn hn' => exact absurd hk (other_not_speed (h x' hx') hk' hn hx)
      case isFalse.isFalse => exact hd.oneSpeed m m' x x' hx hx' hk hk'
  unfold putDecodeEntry
  dsimp only
  split
  · exact (resetSpeed_steady _).trans hm
  · exact hm

end Sys2Proof.Machine
end

section
/-!
The Direct Line Unit's own changes, the requests, the store writes and the resets keep the bounds of `Keeps`.
-/
namespace Sys2Proof.Machine

/-! ## The direct lines -/

/-- A change of one line record that leaves its timebase and pending on-count alone, and either takes its on-count in force
to 0 or leaves it with no trip that was not there. -/
theorem modLine_steady (k : LineNo) (f : Line → Line) (s : State)
    (hkeep : ∀ l, (f l).tb = l.tb ∧ (f l).joining = l.joining ∧ (f l).pendingOn = l.pendingOn)
    (hon : ∀ l, (f l).onCount = 0 ∨ ((f l).onCount = l.onCount ∧ ((f l).trip = true → l.trip = true)))
    (hsettle : ∀ l, l.settle ≤ 2 → (f l).settle ≤ 2) : Steady (modLine k f s) s := by
  have htb : ∀ t, timebase (modLine k f s) t = timebase s t := by intro t; cases t <;> rfl
  have hgr : ∀ g, groupTripped (modLine k f s) g = groupTripped s g := by intro g; cases g <;> rfl
  refine Steady.of_tables rfl (fun hd hc => ⟨⟨hd.entries, hd.oneSpeed⟩, hc⟩) (fun w => ⟨w.settings, w.wired, fun t => ?_⟩)
    (fun _ _ w j => ?_) (fun w c => ⟨fun j hj => ?_, fun j => ?_⟩)
  · rw [htb]; exact w.timebases t
  · rw [htb, lineRec_modLine]
    split
    case isFalse => exact w j
    case isTrue e =>
      subst e
      obtain ⟨ht, hjn, hp⟩ := hkeep (lineRec s j)
      rw [ht, hjn, hp]
      refine ⟨?_, (w j).2⟩
      rcases hon (lineRec s j) with h | ⟨h, -⟩ <;> rw [h]
      · exact Nat.zero_le _
      · exact (w j).1
  · rw [tripped, hgr, lineRec_modLine] at hj
    rw [lineRec_modLine]
    split at hj
    case isFalse e => rw [if_neg e]; exact w j hj
    case isTrue e =>
      subst e
      rw [if_pos rfl]
      rcases hon (lineRec s j) with h | ⟨h, htr⟩
      · exact h
      · rw [h]
        apply w j
        rw [tripped]
        cases hg : groupTripped s (lineGroup j) <;> simp_all
  · rw [lineRec_modLine]
    split
    case isTrue e => subst e; exact hsettle _ (c j)
    case isFalse => exact c j

theorem dropHold_steady (k : LineNo) (s : State) : Steady (dropHold k s) s := (dropHold_calm k (Calm.refl s)).steady

/-- R127, R128: the line is off at once and its hold ended. -/
def lineOff (s : State) (k : LineNo) : State := dropHold k (modLine k (fun l => { l with onCount := 0, settle := 2 }) s)

theorem lineOff_steady (s : State) (k : LineNo) : Steady (lineOff s k) s :=
  (dropHold_steady k _).trans (modLine_steady k _ s (fun _ => ⟨rfl, rfl, rfl⟩) (fun _ => Or.inl rfl) (fun _ _ => le_refl 2))

theorem foldl_steady {α : Type} {f : State → α → State} (hf : ∀ s x, Steady (f s x) s) (xs : List α) (s : State) :
    Steady (xs.foldl f s) s := by
  induction xs generalizing s with
  | nil => exact Steady.refl s
  | cons x xs ih => exact (ih _).trans (hf s x)

/-- R128: the core of a line record once the line is off. -/
def LineCore.off (c : LineCore) : LineCore := { c with onCount := 0, settle := 2 }

theorem lineOff_core (s : State) (k j : LineNo) :
    (lineRec (lineOff s k) j).core = if j = k then (lineRec s j).core.off else (lineRec s j).core := by
  have h := (dropHold_calm k (Calm.refl (modLine k (fun l => { l with onCount := 0, settle := 2 }) s))).untouched.lines j
  refine h.trans ?_
  rw [lineRec_modLine]
  split
  case isTrue e => subst e; rfl
  case isFalse => rfl

/-- R128: the cores of the line records once several lines are off. -/
theorem linesOff_core (ks : List LineNo) (s : State) (j : LineNo) :
    (lineRec (ks.foldl lineOff s) j).core = if j ∈ ks then (lineRec s j).core.off else (lineRec s j).core := by
  induction ks generalizing s with
  | nil => rfl
  | cons k ks ih =>
    rw [List.foldl_cons, ih, lineOff_core]
    by_cases hjk : j = k <;> by_cases hjs : j ∈ ks <;> simp [hjk, hjs, LineCore.off] <;> simp_all

theorem lineOff_group (s : State) (k : LineNo) (g : FaultGroup) : groupTripped (lineOff s k) g = groupTripped s g := by
  have h := (dropHold_calm k (Calm.refl (modLine k (fun l => { l with onCount := 0, settle := 2 }) s))).untouched
  cases g
  · exact h.tripA
  · exact h.tripB

theorem linesOff_group (ks : List LineNo) (s : State) (g : FaultGroup) :
    groupTripped (ks.foldl lineOff s) g = groupTripped s g := by
  induction ks generalizing s with
  | nil => rfl
  | cons k ks ih => rw [List.foldl_cons, ih, lineOff_group]

theorem mem_groupLines (k : LineNo) (g : FaultGroup) : k ∈ groupLines g ↔ lineGroup k = g := by
  revert k; cases g <;> decide

theorem groupTripped_setGroupTrip (g x : FaultGroup) (v : Bool) (s : State) :
    groupTripped (setGroupTrip g v s) x = if x = g then v else groupTripped s x := by
  cases g <;> cases x <;> rfl

theorem lineRec_setGroupTrip (g : FaultGroup) (v : Bool) (s : State) : lineRec (setGroupTrip g v s) = lineRec s := by
  cases g <;> rfl

/-- What a change of a group trip flag, with all that follows it at once, keeps: the lines it holds off are the only bound
that the flag itself may break. -/
theorem setGroupTrip_then (g : FaultGroup) (v : Bool) {s t : State} (h : Steady t (setGroupTrip g v s))
    (hoff : s.TrippedOff → s.SettleBounded → t.TrippedOff ∧ t.SettleBounded) : Steady t s := by
  cases g <;>
    exact ⟨⟨fun w => h.capacity ⟨w.1, w.2, w.3, w.4, w.5, w.6, w.7, w.8⟩, fun w => h.sequence ⟨w.1, w.2⟩, h.idle,
      fun hd hc => h.tables ⟨hd.1, hd.2⟩ hc, fun w => h.config ⟨w.1, w.2, w.3⟩, fun hd hc w => h.onCounts ⟨hd.1, hd.2⟩ hc w,
      hoff⟩, h.flight⟩

/-- R129: clearing a group trip flag. -/
theorem clearGroupTrip_steady (g : FaultGroup) (s : State) : Steady (setGroupTrip g false s) s := by
  refine setGroupTrip_then g false (Steady.refl _) fun w c => ⟨fun k hk => ?_, fun k => ?_⟩
  · rw [lineRec_setGroupTrip]
    refine w k ?_
    rw [tripped, lineRec_setGroupTrip, groupTripped_setGroupTrip] at hk
    rw [tripped]
    split at hk <;> simp_all
  · rw [lineRec_setGroupTrip]; exact c k

/-- R128: the group trips: its flag is set and its four lines are off. -/
theorem groupOff_steady (g : FaultGroup) (s : State) : Steady ((groupLines g).foldl lineOff (setGroupTrip g true s)) s := by
  have hfold := foldl_steady lineOff_steady (groupLines g) (setGroupTrip g true s)
  have hcore : ∀ k, (lineRec ((groupLines g).foldl lineOff (setGroupTrip g true s)) k).core =
      if k ∈ groupLines g then (lineRec s k).core.off else (lineRec s k).core := by
    intro k; rw [linesOff_core, lineRec_setGroupTrip]
  have hoff : s.TrippedOff → s.SettleBounded → ((groupLines g).foldl lineOff (setGroupTrip g true s)).TrippedOff
      ∧ ((groupLines g).foldl lineOff (setGroupTrip g true s)).SettleBounded := by
    intro w c
    refine ⟨fun k hk => ?_, fun k => ?_⟩
    · have h := hcore k
      rw [tripped, linesOff_group, groupTripped_setGroupTrip] at hk
      by_cases hm : k ∈ groupLines g
      · rw [if_pos hm] at h; exact congrArg LineCore.onCount h
      · rw [if_neg hm] at h
        have ht := congrArg LineCore.trip h
        have ho := congrArg LineCore.onCount h
        rw [if_neg (fun e => hm ((mem_groupLines k g).mpr e))] at hk
        simp only [Line.core] at ht ho
        rw [ho]
        exact w k (by rw [tripped, ← ht]; exact hk)
    · have h := congrArg LineCore.settle (hcore k)
      split at h
      · exact le_of_eq h
      · exact le_of_eq_of_le h (c k)
  exact setGroupTrip_then g true hfold hoff

theorem tripGroup_steady (g : FaultGroup) (s : State) : Steady (tripGroup g s) s :=
  (emitAll_calm _ (by simp) (Calm.refl _)).steady.trans (groupOff_steady g s)

theorem assertFault_steady (g : FaultGroup) (s : State) : Steady (assertFault g s) s := by
  unfold assertFault
  dsimp only
  split
  · exact setFaultInput_steady g true s
  · exact (tripGroup_steady g _).trans (setFaultInput_steady g true s)

theorem tripLine_steady (k : LineNo) (s : State) : Steady (tripLine k s) s :=
  ((emitAll_calm _ (by simp) (Calm.refl _)).steady.trans (dropHold_steady k _)).trans
    (modLine_steady k _ s (fun _ => ⟨rfl, rfl, rfl⟩) (fun _ => Or.inl rfl) (fun _ _ => le_refl 2))

theorem sampleLine_steady (k : LineNo) (code : Nat) (s : State) : Steady (sampleLine k code s) s := by
  have hm := modLine_steady k (fun l => { l with lastSense := some code }) s (fun _ => ⟨rfl, rfl, rfl⟩)
    (fun _ => Or.inr ⟨rfl, id⟩) (fun _ => id)
  unfold sampleLine
  dsimp only
  split
  · exact (tripLine_steady k _).trans hm
  · exact (takeSample_calm k code (Calm.refl _)).steady.trans hm

theorem sampleTickReached_steady (k : LineNo) (code : Nat) (s : State) : Steady (sampleTickReached k code s) s := by
  have hm := modLine_steady k (fun l => { l with sampled := true }) s (fun _ => ⟨rfl, rfl, rfl⟩)
    (fun _ => Or.inr ⟨rfl, id⟩) (fun _ => id)
  unfold sampleTickReached
  dsimp only
  split
  · exact hm
  · split
    · exact (modLine_steady k (fun l => { l with settle := l.settle - 1 }) _ (fun _ => ⟨rfl, rfl, rfl⟩)
        (fun _ => Or.inr ⟨rfl, id⟩) (fun l h => le_trans (Nat.sub_le _ _) h)).trans hm
    · exact ((settle_steady _).trans (sampleLine_steady k code _)).trans hm

theorem rearmGroup_steady (named : List LineNo) (g : FaultGroup) (s : State) : Steady (rearmGroup named g s) s := by
  unfold rearmGroup
  dsimp only
  split
  · exact Steady.refl s
  · exact (foldl_steady (fun s k => modLine_steady k (fun l => { l with trip := false }) s (fun _ => ⟨rfl, rfl, rfl⟩)
      (fun _ => Or.inr ⟨rfl, by simp⟩) (fun _ => id)) _ _).trans (clearGroupTrip_steady g s)

theorem takeSupply_steady (mv : Nat) (s : State) : Steady (takeSupply mv s) s :=
  (recomputeWhere_calm _ (Calm.refl _)).steady.trans
    (Steady.of_tables rfl (fun hd hc => ⟨⟨hd.entries, hd.oneSpeed⟩, hc⟩) (fun w => ⟨w.settings, w.wired, w.timebases⟩)
      (fun _ _ w => w) And.intro)

/-! ## The end of a period -/

/-- R124: the bounds of one line record under the period P of the timebase that drives it. -/
structure Line.Fits (l : Line) (period : Nat) : Prop where
  inForce : l.onCount ≤ period + 1
  pending : l.joining = false → l.pendingOn ≤ period + 1

theorem pitched_le {s : State} (h : s.CommandsSound) (k : LineNo) (p : Nat) (l : Line) : pitched s k p l ≤ p + 1 := by
  apply onCountOf_le
  split
  · exact le_refl _
  · unfold codeLevel; split
    · exact commandOf_le h _
    · exact Nat.zero_le _

theorem repitched_le {s : State} (h : s.CommandsSound) (k : LineNo) (p : Nat) (l : Line) :
    (repitched s k p l).pendingOn ≤ p + 1 := by
  unfold repitched
  dsimp only
  split
  · exact Nat.min_le_right _ _
  · exact pitched_le h k p l

/-- R117, R120: what a line takes at the start of a period lies within it. -/
theorem takenOn_le {s : State} (h : s.CommandsSound) (t : TbName) (k : LineNo) (l : Line) (hl : l.Fits (timebase s t).period) :
    takenOn t s k l ≤ freshPeriod t s + 1 := by
  unfold takenOn
  split
  case isTrue e => rw [freshPeriod, e.1]; exact hl.pending e.2
  case isFalse => exact repitched_le h k _ l

theorem nextLine_tb (t : TbName) (s : State) (k : LineNo) (l : Line) :
    (nextLine t s k l).tb = if l.tb = t then (wiredOf s k).timebase else l.tb := by
  by_cases h : l.tb = t
  · rw [if_pos h]
    by_cases hw : (wiredOf s k).timebase = t
    · rw [nextLine_staying h hw]; exact h.trans hw.symm
    · rw [nextLine_leaving h hw, departed, if_pos ⟨h, hw⟩]
  · rw [nextLine_other h, if_neg h]

/-- R120, R124: a line record lies within the period of its timebase after the end of a period as it did before. -/
theorem nextLine_fits {s : State} (h : s.CommandsSound) (t : TbName) (k : LineNo) (l : Line)
    (hl : l.Fits (timebase s l.tb).period) :
    (nextLine t s k l).Fits (timebase (modTimebase t nextTimebase s) (nextLine t s k l).tb).period := by
  rw [nextLine_tb, timebase_modTimebase]
  by_cases htb : l.tb = t
  · subst htb
    rw [if_pos rfl]
    by_cases hw : (wiredOf s k).timebase = l.tb
    · rw [hw, if_pos rfl, nextLine_staying rfl hw]
      have ht := takenOn_le h l.tb k l hl
      refine ⟨?_, fun _ => ht⟩
      dsimp only
      split
      · exact Nat.zero_le _
      · exact ht
    · rw [if_neg hw, nextLine_leaving rfl hw, departed, if_pos ⟨rfl, hw⟩]
      exact ⟨Nat.zero_le _, fun e => by simp at e⟩
  · rw [if_neg htb, if_neg htb, nextLine_other htb]
    exact hl

/-- R124: a line that is held off has on-count 0 after the end of a period, and its settle count stays in range. -/
theorem nextLine_off (t : TbName) (s : State) (k : LineNo) (l : Line)
    (hoff : l.trip = true ∨ groupTripped s (lineGroup k) = true → l.onCount = 0) (hse : l.settle ≤ 2) :
    (nextLine t s k l).trip = l.trip
      ∧ (l.trip = true ∨ groupTripped s (lineGroup k) = true → (nextLine t s k l).onCount = 0)
      ∧ (nextLine t s k l).settle ≤ 2 := by
  by_cases h : l.tb = t
  · by_cases hw : (wiredOf s k).timebase = t
    · rw [nextLine_staying h hw]
      have hif : ∀ d : Nat, (if d = 0 then 2 else l.settle) ≤ 2 := by intro d; split <;> omega
      exact ⟨rfl, fun ht => if_pos (by simpa using ht), hif _⟩
    · rw [nextLine_leaving h hw, departed, if_pos ⟨h, hw⟩]
      exact ⟨rfl, fun _ => rfl, le_refl 2⟩
  · rw [nextLine_other h]
    exact ⟨rfl, hoff, hse⟩

/-- R116: the next period of a timebase lies in the range of periods. -/
theorem nextTimebase_inRange {b : Timebase} (h : b.inRange = true) : (nextTimebase b).inRange = true := by
  unfold Timebase.inRange nextTimebase at *
  cases hp : b.pending <;> simp_all

theorem nextPeriod_steady (t : TbName) (s : State) : Steady (nextPeriod t s) s := by
  obtain ⟨m, he, hm⟩ := nextPeriod_eq t s
  rw [he]
  have hline : ∀ k, lineRec (setLines m (modTimebase t nextTimebase s)) k = nextLine t s k (lineRec s k) := hm
  have htrip : ∀ k, tripped (setLines m (modTimebase t nextTimebase s)) k =
      ((nextLine t s k (lineRec s k)).trip || groupTripped s (lineGroup k)) := by
    intro k; rw [tripped, hline, groupTripped_setLines, groupTripped_modTimebase]
  have hoff : s.TrippedOff → ∀ k, (lineRec s k).trip = true ∨ groupTripped s (lineGroup k) = true → (lineRec s k).onCount = 0 :=
    fun w k h => w k (by simpa [tripped] using h)
  refine Steady.of_tables (by cases t <;> rfl) (fun hd hc => ?_) (fun w => ?_) (fun _ hc w k => ?_) (fun w c => ⟨fun k hk => ?_, fun k => ?_⟩)
  · cases t <;> exact ⟨⟨hd.entries, hd.oneSpeed⟩, hc⟩
  · refine ⟨by cases t <;> exact w.settings, fun k => ?_, fun x => ?_⟩
    · rw [wiredOf_setLines, wiredOf_modTimebase]; exact w.wired k
    · rw [timebase_setLines, timebase_modTimebase]
      split
      · exact nextTimebase_inRange (w.timebases t)
      · exact w.timebases x
  · rw [timebase_setLines, hline]
    have hf := nextLine_fits hc t k (lineRec s k) ⟨(w k).1, (w k).2⟩
    exact ⟨hf.inForce, hf.pending⟩
  · obtain ⟨htr, hz, -⟩ := nextLine_off t s k (lineRec s k) (hoff w k) (c k)
    rw [htrip, htr] at hk
    rw [hline]
    exact hz (by simpa using hk)
  · rw [hline]
    exact (nextLine_off t s k (lineRec s k) (hoff w k) (c k)).2.2

end Sys2Proof.Machine
end

section
/-!
Every command keeps the bounds of `Keeps`, and all but the resets and the ends of transactions leave the transaction in flight
alone. The invariants of a step about capacities, tables, lines and the line's grant are the fields of these two facts.
-/
namespace Sys2Proof.Machine

/-! ## The reading and writing requests -/

theorem answerPart_steady (r : ResultCode) (bs : List Byte) (n : Nat) (s : State) : Steady (answerPart r bs n s) s :=
  (answerPart_calm r bs n (Calm.refl s)).steady

/-- R119: a change of a Wired Profile entry that keeps its ranges. -/
theorem modWired_steady (k : LineNo) (f : WiredEntry → WiredEntry) (s : State)
    (h : (wiredOf s k).inRange = true → (f (wiredOf s k)).inRange = true) : Steady (modWired k f s) s := by
  refine Steady.of_tables rfl (fun hd hc => ⟨⟨hd.entries, hd.oneSpeed⟩, hc⟩) (fun w => ⟨w.settings, fun j => ?_, w.timebases⟩)
    (fun _ _ w => w) And.intro
  by_cases hj : j = k
  · subst hj; simpa [wiredOf, modWired] using h (w.wired j)
  · simpa [wiredOf, modWired, Tab.get_upd_ne _ _ hj] using w.wired j

theorem clamp_mem {lo hi : Nat} (h : lo ≤ hi) (v : Nat) : lo ≤ clamp lo hi v ∧ clamp lo hi v ≤ hi := by
  unfold clamp
  split
  · omega
  · split <;> omega

/-- R119, R120: a written function code is a LAMP code, or none. -/
theorem writeWiredCode_steady (k : LineNo) (f : Option Code) (s : State) (hf : ∀ x, f = some x → kindOf x = .lamp) :
    Steady (writeWiredCode k f s) s := by
  refine ((emitAll_calm _ (by simp) (endHold_calm k (Calm.refl _))).steady).trans (modWired_steady k _ s fun h => ?_)
  unfold WiredEntry.inRange at *
  cases f with
  | none => simp_all
  | some x => simp_all [hf x rfl]

theorem writeWiredField_steady {k : LineNo} {x : WiredField} {v : Nat} {s t : State} (h : writeWiredField k x v s = some t) :
    Steady t s := by
  unfold writeWiredField at h
  cases x <;> dsimp only at h
  case code =>
    split at h
    · cases h; exact writeWiredCode_steady k none s (by simp)
    · split at h
      · split at h
        case isTrue hl => cases h; exact writeWiredCode_steady k _ s (by rintro x ⟨⟩; exact hl)
        case isFalse => cases h
      · cases h
  case timebase =>
    obtain ⟨y, -, rfl⟩ := Option.map_eq_some_iff.mp h
    exact modWired_steady k _ s id
  case comp =>
    obtain ⟨y, -, rfl⟩ := Option.map_eq_some_iff.mp h
    exact (recompute_calm k (Calm.refl _)).steady.trans (modWired_steady k _ s id)
  case trip =>
    cases h
    have hc := clamp_mem (by decide : 500 ≤ 20000) v
    exact modWired_steady k _ s (by unfold WiredEntry.inRange; simp_all)
  case tLo =>
    cases h
    have hc := clamp_mem (by decide : 0 ≤ 50) v
    exact modWired_steady k _ s (by unfold WiredEntry.inRange; simp_all)
  case tHi =>
    cases h
    have hc := clamp_mem (by decide : 0 ≤ 50) v
    exact modWired_steady k _ s (by unfold WiredEntry.inRange; simp_all)
  case openMin =>
    cases h
    have hc := clamp_mem (by decide : 0 ≤ 1000) v
    exact modWired_steady k _ s (by unfold WiredEntry.inRange; simp_all)

/-- R117: a written period waits as the pending one. -/
theorem pendPeriod_steady (t : TbName) (v : Nat) (s : State) :
    Steady (modTimebase t (fun b => { b with pending := some (clamp Config.periodMin Config.periodMax v) }) s) s := by
  have hc := clamp_mem (by decide : 999 ≤ 19999) v
  have htb : ∀ x, (timebase (modTimebase t (fun b => { b with pending := some (clamp Config.periodMin Config.periodMax v) }) s) x).period
      = (timebase s x).period := by
    intro x; rw [timebase_modTimebase]; split <;> simp_all
  refine Steady.of_tables (by cases t <;> rfl) (fun hd hc => by cases t <;> exact ⟨⟨hd.entries, hd.oneSpeed⟩, hc⟩)
    (fun w => ⟨by cases t <;> exact w.settings, by rw [wiredOf_modTimebase]; exact w.wired, fun x => ?_⟩) (fun _ _ w k => ?_)
    (by cases t <;> exact And.intro)
  · rw [timebase_modTimebase]
    have hx := w.timebases t
    split
    · unfold Timebase.inRange at *; simp_all [Config.periodMin, Config.periodMax]
    · exact w.timebases x
  · rw [lineRec_modTimebase, htb]; exact w k

/-- R195: a change of the settings that keeps their ranges. -/
theorem modSettings_steady (f : Settings → Settings) (s : State)
    (h : s.settings.inRange = true → (f s.settings).inRange = true) : Steady (modSettings f s) s :=
  Steady.of_tables rfl (fun hd hc => ⟨⟨hd.entries, hd.oneSpeed⟩, hc⟩) (fun w => ⟨h w.settings, w.wired, w.timebases⟩)
    (fun _ _ w => w) And.intro

theorem staleIfDue_steady (f : Code) (s : State) : Steady (staleIfDue f s) s := by
  unfold staleIfDue
  split
  · exact entryGoesStale_steady f s
  · exact Steady.refl s

theorem speedStaleIfDue_steady (s : State) : Steady (speedStaleIfDue s) s := by
  unfold speedStaleIfDue
  split
  · exact speedGoesStale_steady s
  · exact Steady.refl s

theorem expireHold_steady (k : LineNo) (s : State) : Steady (expireHold k s) s := (expireHold_calm k (Calm.refl s)).steady

theorem staleTimeoutActs_steady (s : State) : Steady (staleTimeoutActs s) s := by
  have hlines : ∀ (x : State) (k : LineNo), Steady (if holdExpired x k then expireHold k x else x) x := by
    intro x k
    split
    · exact expireHold_steady k x
    · exact Steady.refl x
  exact ((foldl_steady hlines _ _).trans (speedStaleIfDue_steady _)).trans
    (foldl_steady (fun x f => staleIfDue_steady f x) _ s)

/-- R195: a value as taken lies in its setting's range. -/
theorem writeSetting_steady {x : Setting} {n v : Nat} (h : valueTaken x n = some v) (s : State) :
    Steady (writeSetting x v s) s := by
  unfold valueTaken at h
  cases x <;> dsimp only at h
  case vref =>
    split at h
    · cases h
      refine (recomputeWhere_calm _ (Calm.refl _)).steady.trans (modSettings_steady _ s fun hs => ?_)
      unfold Settings.inRange at *; simp_all
    · cases h
  case stale =>
    cases h
    have hc := clamp_mem (by decide : 100 ≤ 2000) n
    refine (staleTimeoutActs_steady _).trans (modSettings_steady _ s fun hs => ?_)
    unfold Settings.inRange at *; simp_all [Config.staleMin, Config.staleMax]
  case window =>
    cases h
    have hc := clamp_mem (by decide : 200 ≤ 2000) n
    refine modSettings_steady (fun q => { q with window := _ }) s fun hs => ?_
    unfold Settings.inRange at *; simp_all [Config.windowMin, Config.windowMax]
  case tolerance =>
    cases h
    have hc := clamp_mem (by decide : 0 ≤ 50) n
    refine modSettings_steady (fun q => { q with tolerance := _ }) s fun hs => ?_
    unfold Settings.inRange at *; simp_all [Config.toleranceMax]
  case threshold =>
    cases h
    have hc := clamp_mem (by decide : 0 ≤ 1000) n
    refine modSettings_steady (fun q => { q with threshold := _ }) s fun hs => ?_
    unfold Settings.inRange at *; simp_all [Config.thresholdMax]

/-- R193, R4: a write that a second part asks for has passed the conditions. -/
theorem decodeEntryOk_of_joinedWrite {s : State} {n : Nat} {args : List Byte} {i : Fin 48} {e : DecodeEntry}
    (h : joinedWrite s n args = some (i, e)) : decodeEntryOk s i e = true := by
  unfold joinedWrite at h
  split at h
  · split at h
    · obtain ⟨e', -, he⟩ := Option.bind_eq_some_iff.mp h
      split at he
      case isTrue hok => cases he; exact hok
      case isFalse => cases he
    · cases h
  · cases h

theorem secondPart_steady (args : List Byte) (s : State) : Steady (secondPart args s) s := by
  unfold secondPart
  split
  · unfold decodeSecondPart
    dsimp only
    split
    · split
      · exact (answer_steady _ _ _).trans (putDecodeEntry_steady _ none s (by simp))
      · exact answer_steady _ _ s
    · split
      · rename_i hj
        refine ((answer_steady _ _ _).trans (putDecodeEntry_steady _ _ _ ?_)).trans (setStaging_steady none s)
        rintro x ⟨⟩
        exact (show decodeEntryOk s _ _ = true from decodeEntryOk_of_joinedWrite hj)
      · exact (answer_steady _ _ _).trans (setStaging_steady none s)
    · exact answer_steady _ _ s
  · refine (answer_steady _ _ _).trans ?_
    split
    · exact setStaging_steady none s
    · exact Steady.refl s

theorem putPolicy_steady (c d : Fin 8) (set : BitVec 6) (s : State) : Steady (putPolicy c d set s) s := Steady.of_rest rfl rfl

/-- R115: the oldest record of the Fault List is removed. -/
theorem dropFault_steady (s : State) : Steady { s with policy := { s.policy with faults := s.policy.faults.tail } } s :=
  Steady.of_lists rfl
    (fun w => ⟨le_trans (by simp) w.faults, w.2, w.3, w.4, w.5, w.6, w.7, w.8⟩) fun w => ⟨w.1, w.2⟩

/-! ## The acting requests -/

theorem awaitOverride_calm (p : Pos) (f : Code) (v : Nat) {s z : State} (h : Calm s z) : Calm (awaitOverride p f v s) z := by
  unfold awaitOverride
  split
  · exact answer_calm _ _ h
  · exact holdHead_calm (setPendingOverride_calm _ h)

theorem setFunction_calm (p : Pos) (f : Code) (v : Nat) {s z : State} (h : Calm s z) : Calm (setFunction p f v s) z := by
  unfold setFunction
  split
  · exact answer_calm _ _ h
  · split
    · exact answer_calm _ _ h
    · split
      · exact answer_calm _ _ h
      · exact rescan_calm p (awaitOverride_calm p f v (emit_calm _ (by simp) (writeOverride_calm p f v h)))

theorem recheckCircuit_calm (args : List Byte) {s z : State} (h : Calm s z) : Calm (recheckCircuit args s) z := by
  unfold recheckCircuit
  split
  · exact answer_calm _ _ (recheck_calm _ none h)
  · exact answer_calm _ _ h

theorem recheckFunction_calm (args : List Byte) {s z : State} (h : Calm s z) : Calm (recheckFunction args s) z := by
  unfold recheckFunction
  split
  · split
    · exact answer_calm _ _ h
    · split
      · exact answer_calm _ _ h
      · exact answer_calm _ _ (recheck_calm _ _ h)
  · exact answer_calm _ _ h

theorem beginSequence_calm (r : SeqRequest) (hr : seqInRange r = true) {s z : State} (h : Calm s z) :
    Calm (beginSequence r s) z := by
  refine offerItem_calm (modSeq_calm _ (fun w => ⟨?_, fun _ => ?_⟩) h)
  · simp [modSeq]
  · unfold seqInRange at hr
    simp only [Bool.and_eq_true, decide_eq_true_eq] at hr
    obtain ⟨⟨⟨⟨hlo, hhi⟩, -⟩, -⟩, -⟩ := hr
    exact ⟨hlo, hhi⟩

theorem startSequence_calm (args : List Byte) {s z : State} (h : Calm s z) :
    Calm (match seqRequest args with
      | none => answer .badArg [] s
      | some r =>
        if seqInRange r = false then answer .badArg [] s
        else if seqRunning s then answer .busy [] s
        else if inService s r.pos = false then answer .notReady [] s
        else beginSequence r (answer .ok [] s)) z := by
  split
  · exact answer_calm _ _ h
  · split
    · exact answer_calm _ _ h
    · rename_i hr
      split
      · exact answer_calm _ _ h
      · split
        · exact answer_calm _ _ h
        · exact beginSequence_calm _ (by simpa using hr) (answer_calm _ _ h)

/-! ## The Consist Memory and the Tractor Port -/

theorem startWrite_steady (w : Writing) (s : State) : Steady (startWrite w s) s := modMemory_steady _ s

theorem nextWrite_steady (s : State) : Steady (nextWrite s) s := by
  unfold nextWrite
  split
  · exact startWrite_steady _ s
  · split
    · exact startWrite_steady _ s
    · exact (takePending_calm (Calm.refl s)).steady

/-- R192, R197: a frame that finds a place. -/
theorem placeFrame_steady (f : TxFrame) (s : State) (h : (txQueue s).length < Config.txCapacity) :
    Steady (setQueue (txQueue s ++ [f]) s) s :=
  (setQueue_calm _ (fun _ => by simpa [txQueue, Config.txCapacity] using h) (Calm.refl s)).steady

theorem answerReset_steady (s : State) : Steady (answerReset s) s := by
  unfold answerReset
  split
  · exact Steady.refl s
  · rename_i r rs hr
    split
    · rename_i hl
      refine Steady.trans (b := setQueue (txQueue s ++ [{ replyFrame s r.code r.tag .ok [] with resetReply := true }]) s)
        (Steady.of_rest ?_ rfl) (placeFrame_steady _ s hl)
      simp only [setRequests, setQueue, hr]
    · exact (setRequests_calm _ _ (by simp [hr]) (Calm.refl s)).steady

theorem noteResetSent_steady (f : TxFrame) (s : State) : Steady (noteResetSent f s) s := by
  unfold noteResetSent
  split
  · exact Steady.of_rest rfl rfl
  · exact Steady.refl s

theorem placeWaitingReply_steady (s : State) : Steady (placeWaitingReply s) s := by
  unfold placeWaitingReply
  split
  · split
    · exact answerReset_steady s
    · exact answer_steady _ _ s
  · exact Steady.refl s

theorem finishSending_steady (s : State) : Steady (finishSending s) s := by
  unfold finishSending
  split
  · rename_i f fs hq
    refine ((placeWaitingReply_steady _).trans (noteResetSent_steady f _)).trans
      (setQueue_calm fs (fun h => ?_) (Calm.refl s)).steady
    unfold txQueue at hq
    rw [hq] at h
    exact le_trans (Nat.le_succ _) h
  · exact Steady.refl s

theorem startSending_steady (s : State) : Steady (startSending s) s := by
  unfold startSending
  split
  · rename_i f fs hq
    refine (setQueue_calm _ (fun h => ?_) (Calm.refl s)).steady
    unfold txQueue at hq
    rw [hq] at h
    exact h
  · exact Steady.refl s

theorem recordDone_steady (s : State) : Steady (recordDone s) s := by
  unfold recordDone
  split
  · exact (nextWrite_steady _).trans (modMemory_steady _ s)
  · exact Steady.refl s

theorem rebuildDone_steady (s : State) : Steady (rebuildDone s) s := by
  unfold rebuildDone
  split
  · exact (nextWrite_steady _).trans (modMemory_steady _ s)
  · exact Steady.refl s

theorem forgetDone_steady (s : State) : Steady (forgetDone s) s := by
  unfold forgetDone
  split
  · exact ((nextWrite_steady _).trans (answer_steady _ _ _)).trans (modMemory_steady _ s)
  · exact (answerReset_steady _).trans (modMemory_steady _ s)
  · exact Steady.refl s

theorem headerDone_steady (s : State) : Steady (headerDone s) s := by
  unfold headerDone
  split
  · exact (answerReset_steady _).trans (modMemory_steady _ s)
  · exact (nextWrite_steady _).trans (modMemory_steady _ s)
  · exact (answerReset_steady _).trans (modMemory_steady _ s)
  · exact Steady.refl s

theorem forget_steady (s : State) : Steady (forget s) s := by
  have hh : Steady (holdHead (modMemory (fun m => { m with pendingWrites := Tab.fill none }) s)) s :=
    (holdHead_calm (Calm.refl _)).steady.trans (modMemory_steady _ s)
  unfold forget
  dsimp only
  split
  · exact (startWrite_steady _ _).trans hh
  · exact hh

theorem askReset_steady (s : State) : Steady (askReset s) s := by
  unfold askReset
  split
  · exact (startWrite_steady _ _).trans (holdHead_calm (Calm.refl s)).steady
  · exact (holdHead_calm (Calm.refl s)).steady

/-- R192: a request joins a list that has room for it. -/
theorem joinRequests_steady (r : Request) (s : State) (h : s.management.requests.length < Config.requestCapacity) :
    Steady (joinRequests r s) s := by
  have hj : Steady (clearCause { s with management := { s.management with requests := s.management.requests ++ [r] } }) s := by
    refine (modMemory_steady _ _).trans (Steady.of_lists rfl (fun w => ⟨w.1, w.2, ?_, w.4, w.5, w.6, w.7, w.8⟩) fun w => ⟨w.1, w.2⟩)
    simp only [List.length_append, List.length_singleton]
    exact h
  unfold joinRequests
  dsimp only
  split
  · exact (serveUnknown_calm _ (Calm.refl _)).steady.trans hj
  · exact hj

theorem takeRequest_steady (bytes : List Byte) (s : State) : Steady (takeRequest bytes s) s := by
  unfold takeRequest
  split
  · split
    · rename_i h
      exact joinRequests_steady _ s h
    · unfold answerBusy
      split
      · rename_i h
        exact placeFrame_steady _ s h
      · exact (setOverrun_calm true (Calm.refl s)).steady
  · exact Steady.refl s

/-! ## The ends of transactions -/

/-- R35: marking the transaction in flight as ended, or counting it. -/
theorem setFlight_keeps (fl : Flight) (s : State) : Keeps { s with line := { s.line with flight := some fl } } s :=
  ⟨fun w => ⟨w.1, w.2, w.3, w.4, w.5, w.6, w.7, w.8⟩, fun w => ⟨w.1, w.2⟩, fun _ h => by simp at h,
    fun hd hc => ⟨⟨hd.entries, hd.oneSpeed⟩, hc⟩, fun w => ⟨w.settings, w.wired, w.timebases⟩, fun _ _ w => w, And.intro⟩

theorem emitAll_keeps (ns : List Notice) (s : State) : Keeps (emitAll ns s) s :=
  ⟨fun w => ⟨w.1, w.2, w.3, w.4, w.5, w.6, w.7, w.8⟩, fun w => ⟨w.1, w.2⟩, id,
    fun hd hc => ⟨⟨hd.entries, hd.oneSpeed⟩, hc⟩, fun w => ⟨w.settings, w.wired, w.timebases⟩, fun _ _ w => w, And.intro⟩

theorem countEnd_keeps (o : Offer) (out : LineOutcome) (s : State) : Keeps (countEnd o out s) s := by
  have hset : ∀ p n, n ≤ 3 → Keeps (setUnheard p n s) s := fun p n hn => (setUnheard_calm p n hn (Calm.refl s)).steady.toKeeps
  unfold countEnd
  split
  · split
    · exact hset _ _ (Nat.zero_le 3)
    · exact Keeps.refl s
  · split
    · exact Keeps.refl s
    · split
      · split
        · exact hset _ _ (Nat.min_le_left _ _)
        · exact Keeps.refl s
      · exact hset _ _ (Nat.zero_le 3)

theorem endTransaction_keeps (out : LineOutcome) (data : Option Word) (service : Bool) (s : State) :
    Keeps (endTransaction out data service s) s := by
  unfold endTransaction
  split
  · exact Keeps.refl s
  · dsimp only
    split
    · exact (emitAll_keeps _ _).trans (setFlight_keeps _ s)
    · exact ((emitAll_keeps _ _).trans (countEnd_keeps _ _ _)).trans (setFlight_keeps _ s)

/-- A free value is taken. -/
theorem takeFree_steady (s : State) : Steady { s with freeCount := s.freeCount + 1 } s := Steady.of_rest rfl rfl

/-- A command leaves the queue. -/
theorem popCommand_steady (rest : List Instr) (s : State) : Steady { s with pending := rest } s := Steady.of_rest rfl rfl

theorem takeReply_keeps (fl : Flight) (r : Reply) (s : State) : Keeps (takeReply fl r s) s := by
  have hdata : ∀ op out data, Keeps (replyData op out data s).2 s := by
    intro op out data
    unfold replyData
    split
    · exact (takeFree_steady s).toKeeps
    · exact Keeps.refl s
  exact ((settle_keeps _).trans (endTransaction_keeps _ _ _ _)).trans (hdata _ _ _)

theorem endPoll_keeps (slots : Tab Bool 4) (s : State) : Keeps (endPoll slots s) s := by
  unfold endPoll
  split
  · exact (emitAll_keeps _ _).trans (setFlight_keeps _ s)
  · exact Keeps.refl s

theorem atMoment_keeps {body : State → State} (h : ∀ x, Keeps (body x) x) (t : Option Time) (s : State) :
    Keeps (atMoment t body s) s := by
  cases t with
  | none => exact Keeps.refl s
  | some t => exact (h _).trans (advance_steady _ s).toKeeps

/-! ## The resets -/

/-- Each bound, met by the state itself. -/
structure State.Bounded (s : State) : Prop where
  capacity : s.WithinCapacity
  sequence : s.SequenceBounded
  idle : s.IdleLine
  decode : s.DecodeSound
  commands : s.CommandsSound

theorem Keeps.of_bounded {a b : State} (h : a.Bounded) (hconfig : b.ConfigInRange → a.ConfigInRange)
    (hon : b.OnCountsBounded → a.OnCountsBounded) (hoff : b.TrippedOff → b.SettleBounded → a.TrippedOff ∧ a.SettleBounded) :
    Keeps a b :=
  ⟨fun _ => h.capacity, fun _ => h.sequence, fun _ => h.idle, fun _ _ => ⟨h.decode, h.commands⟩, hconfig, fun _ _ => hon, hoff⟩

/-- The bounds hold where the lists are empty, the tables as after reset, and no offer stands. -/
theorem State.Bounded.of_empty {s : State} (hf : s.policy.faults = []) (hq : s.port.queue = []) (hr : s.management.requests = [])
    (hc : s.check = {}) (hs : s.sequence = {}) (hl : s.line.offers = []) (hu : s.line.unheard = Tab.fill 0)
    (hd : s.decoder = {}) : s.Bounded where
  capacity := by
    constructor <;> simp [hf, hq, hr, hc, circuitRec, unheardOf, hu]
  sequence := by constructor <;> simp [hs]
  idle := fun _ => hl
  decode := by constructor <;> simp [hd]
  commands := fun f => by
    rw [commandOf, hd]
    unfold commandSound
    split <;> simp

/-- R119, R116, R118: the Direct Line Unit as after reset. -/
theorem directDefault_bounded {s : State} (hd : s.direct = {}) : s.OnCountsBounded ∧ s.TrippedOff ∧ s.SettleBounded := by
  have hl : ∀ k, lineRec s k = {} := fun k => by rw [lineRec, hd]; exact Tab.get_fill _ _
  refine ⟨fun k => ?_, fun k _ => ?_, fun k => ?_⟩
  · rw [hl]; exact ⟨Nat.zero_le _, fun _ => Nat.zero_le _⟩
  · rw [hl]
  · rw [hl]

theorem configDefault_inRange {s : State} (hd : s.direct = {}) (hs : s.settings = {}) : s.ConfigInRange := by
  refine ⟨by rw [hs]; decide, fun k => ?_, fun t => ?_⟩
  · rw [wiredOf, hd]; revert k; decide
  · cases t <;> rw [timebase, hd] <;> decide

theorem poweredOn_keeps (pins : Pins) (cut : Bool) (s : State) : Keeps (poweredOn pins cut s) s := by
  obtain ⟨hon, hoff, hse⟩ := directDefault_bounded (s := poweredOn pins cut s) rfl
  exact Keeps.of_bounded (State.Bounded.of_empty rfl rfl rfl rfl rfl rfl rfl rfl) (fun _ => configDefault_inRange rfl rfl)
    (fun _ => hon) (fun _ _ => ⟨hoff, hse⟩)

/-- R130: the record of a line after a device reset. -/
theorem lineRec_deviceReset (straps : Fin 4) (s : State) (k : LineNo) :
    lineRec (deviceReset straps s) k = holdAtReset s.now (groupTripped s (lineGroup k)) (lineRec s k) := by
  have hg : groupTripped s (lineGroup k) = if k.val < 4 then s.direct.tripA else s.direct.tripB := by
    unfold lineGroup; split <;> rfl
  rw [hg]
  exact Tab.get_mapIdx _ _ _

theorem deviceReset_keeps (straps : Fin 4) (s : State) : Keeps (deviceReset straps s) s := by
  have htb : timebase (deviceReset straps s) = timebase s := by funext t; cases t <;> rfl
  have hcore : ∀ (now : Time) (g : Bool) (l : Line), (holdAtReset now g l).core = l.core := by
    intro now g l; unfold holdAtReset; split <;> rfl
  have hline : ∀ k, (lineRec (deviceReset straps s) k).core = (lineRec s k).core := by
    intro k; rw [lineRec_deviceReset, hcore]
  refine Keeps.of_bounded (State.Bounded.of_empty rfl rfl rfl rfl rfl rfl rfl rfl)
    (fun w => ⟨(by decide : ({} : Settings).inRange = true), w.wired, by rw [htb]; exact w.timebases⟩) (fun w k => ?_) (fun w c => ⟨fun k hk => ?_, fun k => ?_⟩)
  · rw [lineRec_deviceReset, htb]
    unfold holdAtReset
    split
    · exact w k
    · exact ⟨(w k).1, fun _ => (w k).1⟩
  · have ho := congrArg LineCore.onCount (hline k)
    have ht := congrArg LineCore.trip (hline k)
    simp only [Line.core] at ho ht
    rw [ho]
    apply w k
    rw [tripped, ← ht]
    rw [tripped] at hk
    have hg : groupTripped (deviceReset straps s) (lineGroup k) = groupTripped s (lineGroup k) := by
      cases lineGroup k <;> rfl
    rw [← hg]; exact hk
  · exact le_of_eq_of_le (congrArg LineCore.settle (hline k)) (c k)

theorem assertIf_keeps (x : Bool) (g : FaultGroup) (s : State) : Keeps (assertIf x g s) s := by
  unfold assertIf
  split
  · exact (assertFault_steady g s).toKeeps
  · exact Keeps.refl s

theorem resetNow_keeps (straps : Fin 4) (s : State) : Keeps (resetNow straps s) s :=
  ((makeOffer_calm _ (recomputeWhere_calm _ (Calm.refl _))).steady.toKeeps).trans (deviceReset_keeps straps s)

/-! ## Every command -/

/-- The commands that end a transaction or reset the part (R35, R36). -/
def endsOrResets (c : Instr) : Bool :=
  match c with
  | .powerOnReset _ _ | .deviceReset _ | .transactionEnd _ | .replyDeadline | .pollWindowEnd _ => true
  | _ => false

theorem exec_ends_keeps {c : Instr} {s t : State} (hc : endsOrResets c = true) (h : exec c s = .next t) : Keeps t s := by
  cases c
  case powerOnReset pins cut =>
    cases h
    exact (((settle_keeps _).trans (assertIf_keeps _ _ _)).trans (assertIf_keeps _ _ _)).trans (poweredOn_keeps pins cut s)
  case deviceReset straps => cases h; exact atMoment_keeps (fun x => (settle_keeps _).trans (resetNow_keeps straps x)) _ s
  case transactionEnd r =>
    cases h
    split
    · split
      · exact takeReply_keeps _ r s
      · exact Keeps.refl s
    · exact Keeps.refl s
  case replyDeadline => cases h; exact atMoment_keeps (fun x => (settle_keeps _).trans (endTransaction_keeps _ _ _ x)) _ s
  case pollWindowEnd slots => cases h; exact atMoment_keeps (fun x => (settle_keeps _).trans (endPoll_keeps slots x)) _ s
  all_goals cases hc

theorem advanceTo_steady (t : Time) (s : State) : Steady (advanceTo t s) s := advance_steady _ s

/-- What is said of a command's effect is said of the state it answers. -/
theorem Steady.of_next {a s t : State} (ha : Steady a s) (h : (Host.Outcome.next a : Host.Outcome State Fault Refusal) = .next t) :
    Steady t s := Host.Outcome.next.inj h ▸ ha

/-- A timer whose body the blocks' notices may do is steady. -/
theorem calmTimer_steady {body : State → State} (h : ∀ x, Calm (body x) x) (t : Option Time) (s : State) :
    Steady (atMoment t (fun s => settle (body s)) s) s := timer_steady (fun x => (h x).steady) t s

/-- The requests that read and write the part's tables. -/
def tableRequest (c : Instr) : Bool :=
  match c with
  | .readState | .writeDecodeFirstPart | .writeDecodeSecondPart | .readDecode | .writePolicy | .readPolicy | .writeWired
  | .readWired | .writeTimebase | .setSystem | .readFault | .clearFault | .rearmLines => true
  | _ => false

/-- The requests that act on positions, functions and the part itself. -/
def actRequest (c : Instr) : Bool :=
  match c with
  | .setFunction | .clearOverride | .getFunction | .clearActivity | .pinGroup | .unpinGroup | .recheck | .startSequence
  | .abortSequence | .readSequenceItem | .releasePosition | .forgetConsist | .resetDevice => true
  | _ => false

/-- The events at the part's paths and the timers that neither end a transaction nor reset the part. -/
def plainEvent (c : Instr) : Bool := !(endsOrResets c || tableRequest c || actRequest c)

theorem exec_tableRequest_steady {c : Instr} {s t : State} (hc : tableRequest c = true) (h : exec c s = .next t) : Steady t s := by
  cases c
  case readState =>
    cases h
    refine serve_steady _ _ (fun args x => ?_) s
    split
    · exact answerPart_steady _ _ _ x
    · exact answer_steady _ _ x
  case writeDecodeFirstPart =>
    cases h
    split
    · exact Steady.refl s
    · refine serve_steady _ _ (fun args x => ?_) s
      split
      · exact (answer_steady _ _ _).trans (setStaging_steady _ x)
      · exact answer_steady _ _ x
  case writeDecodeSecondPart =>
    cases h
    split
    · exact settled_steady (serve_steady _ _ secondPart_steady) s
    · exact Steady.refl s
  case readDecode =>
    cases h
    refine serve_steady _ _ (fun args x => ?_) s
    split
    · exact answerPart_steady _ _ _ x
    · exact answer_steady _ _ x
  case writePolicy =>
    cases h
    refine settled_steady (serve_steady _ _ fun args x => ?_) s
    split
    · exact (takePolicyWrite_calm (answer_calm _ _ (Calm.refl _))).steady.trans (putPolicy_steady _ _ _ x)
    · exact answer_steady _ _ x
  case readPolicy =>
    cases h
    refine serve_steady _ _ (fun args x => ?_) s
    split <;> exact answer_steady _ _ x
  case writeWired =>
    cases h
    refine settled_steady (serve_steady _ _ fun args x => ?_) s
    split
    · rename_i hw
      obtain ⟨k, -, hk⟩ := Option.bind_eq_some_iff.mp hw
      obtain ⟨f, -, hf⟩ := Option.bind_eq_some_iff.mp hk
      exact (answer_steady _ _ _).trans (writeWiredField_steady hf)
    · exact answer_steady _ _ x
  case readWired =>
    cases h
    refine serve_steady _ _ (fun args x => ?_) s
    split <;> exact answer_steady _ _ x
  case writeTimebase =>
    cases h
    refine serve_steady _ _ (fun args x => ?_) s
    split
    · exact (answer_steady _ _ _).trans (pendPeriod_steady _ _ x)
    · exact answer_steady _ _ x
  case setSystem =>
    cases h
    refine settled_steady (serve_steady _ _ fun args x => ?_) s
    split
    · split
      · rename_i hv
        exact (writeSetting_steady hv _).trans (answer_steady _ _ x)
      · exact answer_steady _ _ x
    · exact answer_steady _ _ x
  case readFault => cases h; exact serve_steady _ _ (fun args x => answerPart_steady _ _ _ x) s
  case clearFault =>
    cases h
    exact serve_steady _ _ (fun _ x => (answer_steady _ _ _).trans (dropFault_steady x)) s
  case rearmLines =>
    cases h
    refine serve_steady _ _ (fun args x => ?_) s
    dsimp only
    split
    · exact answer_steady _ _ x
    · exact ((answer_steady _ _ _).trans (rearmGroup_steady _ _ _)).trans (rearmGroup_steady _ _ x)
  all_goals cases hc

theorem exec_actRequest_steady {c : Instr} {s t : State} (hc : actRequest c = true) (h : exec c s = .next t) : Steady t s := by
  cases c
  case setFunction =>
    cases h
    refine settled_steady (serve_steady _ _ fun args x => ?_) s
    split
    · exact (setFunction_calm _ _ _ (Calm.refl x)).steady
    · exact answer_steady _ _ x
  case clearOverride =>
    cases h
    refine settled_steady (serve_steady _ _ fun args x => ?_) s
    split
    · exact (answer_calm _ _ (clearOverrideAt_calm _ _ (Calm.refl x))).steady
    · exact answer_steady _ _ x
  case getFunction =>
    cases h
    refine settled_steady (serve_steady _ _ fun args x => ?_) s
    split
    · exact (tryRead_calm _ _ (Calm.refl x)).steady
    · exact answer_steady _ _ x
  case clearActivity =>
    cases h
    refine serve_steady _ _ (fun args x => ?_) s
    split
    · exact (answer_calm _ _ (foldl_calm (fun y p => clearActivityOf_calm p (Calm.refl y)) _ (Calm.refl x))).steady
    · exact answer_steady _ _ x
  case pinGroup =>
    cases h
    refine settled_steady (serve_steady _ _ fun args x => ?_) s
    split
    · exact (answer_calm _ _ (pinGroup_calm _ _ (Calm.refl x))).steady
    · exact answer_steady _ _ x
  case unpinGroup =>
    cases h
    refine settled_steady (serve_steady _ _ fun args x => ?_) s
    split
    · exact (answer_calm _ _ (unpinGroup_calm _ _ (Calm.refl x))).steady
    · exact answer_steady _ _ x
  case recheck =>
    cases h
    refine settled_steady (serve_steady _ _ fun args x => ?_) s
    split
    · exact (recheckCircuit_calm args (Calm.refl x)).steady
    · exact (recheckFunction_calm args (Calm.refl x)).steady
    · exact answer_steady _ _ x
  case startSequence =>
    cases h
    exact settled_steady (serve_steady _ _ fun args x => (startSequence_calm args (Calm.refl x)).steady) s
  case abortSequence =>
    cases h
    refine serve_steady _ _ (fun args x => ?_) s
    split
    · exact (answer_calm _ _ (endSequence_calm _ (Calm.refl x))).steady
    · exact answer_steady _ _ x
  case readSequenceItem =>
    cases h
    refine serve_steady _ _ (fun args x => ?_) s
    split
    · exact answer_steady _ _ x
    · split <;> exact answerPart_steady _ _ _ x
  case releasePosition =>
    cases h
    refine settled_steady (serve_steady _ _ fun args x => ?_) s
    split
    · exact (askRelease_calm _ (Calm.refl x)).steady
    · exact answer_steady _ _ x
  case forgetConsist => cases h; exact serve_steady _ _ (fun _ x => forget_steady x) s
  case resetDevice => cases h; exact serve_steady _ _ (fun _ x => askReset_steady x) s
  all_goals cases hc

theorem exec_event_steady {c : Instr} {s t : State} (hc : plainEvent c = true) (h : exec c s = .next t) : Steady t s := by
  cases c
  case canFrameReceived frame =>
    cases h
    split
    · exact Steady.refl s
    · split
      · exact takeRequest_steady _ s
      · exact settled_steady (applyFrame_steady frame) s
  case commandStale f => exact Steady.of_next (timer_steady (entryGoesStale_steady f) _ s) h
  case speedStale => exact Steady.of_next (timer_steady speedGoesStale_steady _ s) h
  case stopTimerExpiry => exact Steady.of_next (timer_steady goStationary_steady _ s) h
  case cplChange present =>
    cases h
    unfold coupleLevel
    split
    · exact Steady.refl s
    · exact modConsist_steady _ s
  case couplingRise =>
    exact Steady.of_next (timer_steady (fun x => (emitAll_calm _ (by simp) (Calm.refl _)).steady.trans (modConsist_steady _ x)) _ s) h
  case couplingFall =>
    exact Steady.of_next (timer_steady (fun x => (emit_calm _ (by simp) (suspendChecks_calm (endPass_calm (Calm.refl _)))).steady.trans
      (modConsist_steady _ x)) _ s) h
  case chainProbe =>
    exact Steady.of_next (timer_steady (fun x => (emit_calm _ (by simp) (Calm.refl _)).steady.trans (modConsist_steady _ x)) _ s) h
  case enumerationSpacingEnd => exact Steady.of_next (calmTimer_steady (fun x => spacingEnds_calm (Calm.refl x)) _ s) h
  case enumerationSettleEnd => exact Steady.of_next (calmTimer_steady (fun x => settleEnds_calm (Calm.refl x)) _ s) h
  case exerciseReadRepeat p f =>
    exact Steady.of_next (calmTimer_steady (fun x => consistOffer_calm p (modFirstRead_calm p f _ (Calm.refl x))) _ s) h
  case exerciseDeadline p => exact Steady.of_next (calmTimer_steady (fun x => deadlinePasses_calm p (Calm.refl x)) _ s) h
  case unavailableRetry p f => exact Steady.of_next (calmTimer_steady (fun x => rescan_calm p (Calm.refl x)) _ s) h
  case stopRepeat p f => exact Steady.of_next (calmTimer_steady (fun x => rescan_calm p (modOwed_calm p _ (Calm.refl x))) _ s) h
  case periodicReadDue p f => exact Steady.of_next (calmTimer_steady (fun x => classSix_calm p (Calm.refl x)) _ s) h
  case watchReadDue p f => exact Steady.of_next (calmTimer_steady (fun x => classSix_calm p (Calm.refl x)) _ s) h
  case actuatorWatchTimeout p f => exact Steady.of_next (calmTimer_steady (fun x => watchTimesOut_calm p f (Calm.refl x)) _ s) h
  case nodeLampReadingDue p src => exact Steady.of_next (calmTimer_steady (fun x => startReading_calm p src (Calm.refl x)) _ s) h
  case nodeLampCheckExpiry p src => exact Steady.of_next (calmTimer_steady (fun x => expireCheck_calm p src (Calm.refl x)) _ s) h
  case exerciseSlotExpiry => exact Steady.of_next (calmTimer_steady (fun x => expireSlot_calm (Calm.refl x)) _ s) h
  case pollTime => exact Steady.of_next (calmTimer_steady (fun x => askPoll_calm (Calm.refl x)) _ s) h
  case sequenceRepeat =>
    exact Steady.of_next (calmTimer_steady (fun x => offerItem_calm (modSeq_calm _ (fun w => ⟨w.1, w.2⟩) (Calm.refl x))) _ s) h
  case sequenceItemTimeout => exact Steady.of_next (atMoment_steady (fun x => (endSequence_calm .timeout (Calm.refl x)).steady) _ s) h
  case recoveryAttempt p => exact Steady.of_next (calmTimer_steady (fun x => attemptExpires_calm p (Calm.refl x)) _ s) h
  case lostTimeout p =>
    cases h
    split
    · exact ((settle_steady _).trans (releaseRequest_calm p (Calm.refl _)).steady).trans (advance_steady _ s)
    · exact Steady.refl s
  case periodBoundary tb => exact Steady.of_next ((nextPeriod_steady tb _).trans (advanceTo_steady _ s)) h
  case senseSample k code => exact Steady.of_next (atMoment_steady (sampleTickReached_steady k code) _ s) h
  case groupTrip g =>
    cases h
    split
    · exact Steady.refl s
    · exact settled_steady (assertFault_steady g) s
  case faultInputDeasserted g => exact Steady.of_next (setFaultInput_steady g false s) h
  case supplyReading mv => exact Steady.of_next ((takeSupply_steady mv _).trans (advanceTo_steady _ s)) h
  case holdTimeout k => exact Steady.of_next (atMoment_steady (expireHold_steady k) _ s) h
  case consistTimer =>
    exact Steady.of_next (((nextConsist_steady _).trans (placeConsist_calm (Calm.refl _)).steady).trans (advanceTo_steady _ s)) h
  case resultRefresh =>
    cases h
    split
    · exact atMoment_steady (fun x => (placeRefresh_calm (Calm.refl x)).steady) _ s
    · exact Steady.refl s
  case frameSent => exact Steady.of_next (finishSending_steady s) h
  case frameTransmissionStart => exact Steady.of_next (startSending_steady s) h
  case recordWriteComplete => exact Steady.of_next (recordDone_steady s) h
  case rebuildComplete => exact Steady.of_next (rebuildDone_steady s) h
  case forgetWriteComplete => exact Steady.of_next (forgetDone_steady s) h
  case headerWriteComplete => exact Steady.of_next (headerDone_steady s) h
  all_goals cases hc

/-- A command that neither ends a transaction nor resets the part is steady. -/
theorem exec_steady {c : Instr} {s t : State} (hc : endsOrResets c = false) (h : exec c s = .next t) : Steady t s := by
  cases ht : tableRequest c with
  | true => exact exec_tableRequest_steady ht h
  | false =>
    cases ha : actRequest c with
    | true => exact exec_actRequest_steady ha h
    | false => exact exec_event_steady (by simp [plainEvent, hc, ht, ha]) h

theorem exec_keeps {c : Instr} {s t : State} (h : exec c s = .next t) : Keeps t s := by
  cases hc : endsOrResets c with
  | true => exact exec_ends_keeps hc h
  | false => exact (exec_steady hc h).toKeeps

/-- What one step keeps. -/
theorem step_keeps {s t : State} (h : step s = .next t) : Keeps t s := by
  unfold step at h
  split at h
  · cases h; exact (advance_steady 1 s).toKeeps
  · exact (exec_keeps h).trans (popCommand_steady _ s).toKeeps

/-! ## The statements -/

/-- Settles O4: the capacities are among what every step keeps. -/
theorem everyStepKeepsCapacities : Obligations.EveryStepKeepsCapacities := by
  unfold Obligations.EveryStepKeepsCapacities
  exact fun s t hc hs h => ⟨(step_keeps h).capacity hc, (step_keeps h).sequence hs⟩

/-- Settles O8: the Decode Table, the Command Table and the configuration are among what every step keeps. -/
theorem everyStepKeepsTables : Obligations.EveryStepKeepsTables := by
  unfold Obligations.EveryStepKeepsTables
  exact ⟨fun s t hd hc h => (step_keeps h).tables hd hc, fun s t hc h => (step_keeps h).config hc⟩

/-- Settles O9: the bounds of the direct lines are among what every step keeps. -/
theorem everyStepKeepsLines : Obligations.EveryStepKeepsLines := by
  unfold Obligations.EveryStepKeepsLines
  exact ⟨fun s t hd hc ho h => (step_keeps h).onCounts hd hc ho, fun s t ht hs h => (step_keeps h).off ht hs⟩

/-- Settles O10: a free line has no offer after any step, and a command that neither ends a transaction nor resets the part
is steady. -/
theorem everyStepKeepsTheLine : Obligations.EveryStepKeepsTheLine := by
  unfold Obligations.EveryStepKeepsTheLine
  refine ⟨fun s t hi h => (step_keeps h).idle hi, fun c s t hn hc h => ?_⟩
  have hends : endsOrResets c = false := by
    cases c
    case powerOnReset => exact hc.elim
    case deviceReset => exact hc.elim
    case transactionEnd => exact hc.elim
    case replyDeadline => exact hc.elim
    case pollWindowEnd => exact hc.elim
    all_goals rfl
  exact ((exec_steady hends h).flight (by simp [hn])).1

end Sys2Proof.Machine
end

section
/-!
One step and the state after reset: what they say of themselves, and that the state after reset meets every invariant.
-/
namespace Sys2Proof.Machine

/-- Settles O1: a step with a command waiting is that command's arm. -/
theorem stepRunsFrontCommand : Obligations.StepRunsFrontCommand := by
  unfold Obligations.StepRunsFrontCommand
  intro c rest s h
  unfold step
  rw [h]

/-- Every command has an effect in every state. -/
theorem exec_next (c : Instr) (s : State) : ∃ t, exec c s = .next t := by
  cases c <;> exact ⟨_, rfl⟩

/-- Settles O2: each arm answers `next`, and an idle step is a tick. -/
theorem everyStepAnswersNext : Obligations.EveryStepAnswersNext := by
  unfold Obligations.EveryStepAnswersNext
  refine ⟨fun s => ?_, fun s h => ⟨advance 1 s, ?_, rfl, rfl, fun p => ?_⟩⟩
  · unfold step
    split
    · exact ⟨_, rfl⟩
    · exact exec_next _ _
  · unfold step; rw [h]
  · rw [posRec_advance]; rfl

theorem policyIndex_div (c d : Fin 8) : (policyIndex c d).val % 8 = d.val := by
  simp only [policyIndex]; omega

/-- R105: the Policy Table after a reset bars function class 0 alone. -/
theorem policyDefault_get (c d : Fin 8) : policyDefault.get (policyIndex c d) = if d = 0 then 0#6 else 63#6 := by
  rw [policyDefault, Tab.get_mapIdx, policyIndex_div]
  exact if_congr Fin.val_eq_zero_iff rfl rfl

/-- R119: the Wired Profile after power-on reset. -/
theorem wiredDefault_get (k : LineNo) : wiredDefault.get k =
    { code := some (([16, 17, 2, 0, 1, 4, 5, 36] : List Code).getD k.val 0), timebase := .a, comp := .resistive,
      trip := 15000, tLo := 20, tHi := 20, openMin := 40 } := by
  revert k; decide

theorem posRec_reset (p : Pos) : posRec State.reset p = {} := Tab.get_fill _ _
theorem blockOf_reset (b : BlockNo) : blockOf State.reset b = {} := Tab.get_fill _ _
theorem groupRec_reset (p : Pos) (g : Group) : groupRec State.reset p g = {} := by
  rw [groupRec]
  show ((Tab.fill (Tab.fill {}) : Tab (Tab GroupRecord 12) 4).get p).get g = {}
  rw [Tab.get_fill, Tab.get_fill]
theorem entryOf_reset (p : Pos) (f : Code) : entryOf State.reset p f = {} := by
  rw [entryOf]
  show ((Tab.fill (Tab.fill {}) : Tab (Tab StatusEntry 192) 4).get p).get f = {}
  rw [Tab.get_fill, Tab.get_fill]
theorem circuitRec_reset (k : LineNo) : circuitRec State.reset k = {} := Tab.get_fill _ _
theorem stateOf_reset (p : Pos) : stateOf State.reset p = .vacant := by rw [stateOf, posRec_reset]

theorem reset_bounded : State.reset.Bounded :=
  State.Bounded.of_empty rfl rfl rfl rfl rfl rfl rfl rfl

theorem reset_listsBounded : State.reset.ListsBounded where
  pinned := by simp [blockOf_reset]
  owed p := by
    have : State.reset.delivery.owed.get p = [] := Tab.get_fill _ _
    simp [this]
  captures p := by
    have : streamRec State.reset p = {} := Tab.get_fill _ _
    simp [this]
  required p := by simp [posRec_reset]
  plans p := by rw [posRec_reset]; constructor <;> simp
  once k := by simp [circuitRec_reset]
  rounds p := by
    have : roundOf State.reset p = {} := Tab.get_fill _ _
    simp [this]

theorem reset_blocksOwned : State.reset.BlocksOwned where
  free b _ := by rw [blockOf_reset]; exact ⟨rfl, fun m => Tab.get_fill _ _⟩
  owned b h := absurd (by rw [blockOf_reset]) h
  named p g b h := by rw [groupRec_reset] at h; cases h

/-- Settles O3: the contents are read off the reset state, which has every list empty and every table as after reset. -/
theorem resetContents : Obligations.ResetContents := by
  unfold Obligations.ResetContents
  obtain ⟨hon, hoff, hse⟩ := directDefault_bounded (s := State.reset) rfl
  refine ⟨policyDefault_get, wiredDefault_get, fun t => by cases t <;> exact ⟨rfl, rfl⟩, fun k => Tab.get_fill _ _, rfl,
    fun f => Tab.get_fill _ _, rfl, stateOf_reset, rfl, reset_bounded.capacity, reset_bounded.sequence, reset_bounded.decode,
    reset_bounded.commands, configDefault_inRange rfl rfl, hon, hoff, hse, reset_bounded.idle, fun p f h => ?_,
    reset_listsBounded, reset_blocksOwned, ?_, rfl⟩
  · rw [entryOf_reset] at h; exact absurd rfl h
  · exact ⟨fun p q _ h => absurd (stateOf_reset q) h, fun h => absurd h (by decide), fun h => absurd h (by decide)⟩

end Sys2Proof.Machine
end

section
/-!
The Request List and the Tractor Port: a request that is too short, the reading requests, a request frame that is taken, and
the frames of the transmit queue (R190 to R199).
-/
namespace Sys2Proof.Machine

variable {s : State}

/-! ## Requests -/

theorem settle_replied (r : Request) (rest : List Request) (x : ResultCode) (bs : List Byte) (h : s.notices = []) :
    settle (s.replied r rest x bs) = s.replied r rest x bs := settle_eq h

/-- R191: a request too short for its arguments is answered BAD-ARG. -/
theorem settle_serve_short {code need : Nat} {r : Request} {rest : List Request} (h : s.Serving code r rest)
    (hl : r.args.length < need) (hn : s.notices = []) (body : List Byte → State → State) :
    settle (serve code need body s) = s.replied r rest .badArg [] := by
  rw [serve_short h hl, h.answer, settle_replied _ _ _ _ hn]

theorem headIsSecondPart_eq {code : Nat} {r : Request} {rest : List Request} (h : s.Serving code r rest) :
    headIsSecondPart s = decide (128 ≤ argByte r.args 0) := by simp [headIsSecondPart, h.requests]

/-- Settles O46: each request's own command finds it too short; a second part of WRITE-DECODE besides empties the staging
record. -/
theorem shortRequestsAreRefused : Obligations.ShortRequestsAreRefused := by
  unfold Obligations.ShortRequestsAreRefused
  refine ⟨fun c code need s r rest hm hn hs hl hfirst => ?_, fun s r rest hn hs hl hsecond => ?_⟩
  · have hquiet : ∀ body, serve code need body s = s.replied r rest .badArg [] :=
      fun body => (serve_short hs hl body).trans (hs.answer _ _)
    have hsettle : ∀ body, settle (serve code need body s) = s.replied r rest .badArg [] :=
      fun body => settle_serve_short hs hl hn body
    simp only [List.mem_cons, Prod.mk.injEq, List.not_mem_nil, or_false] at hm
    rcases hm with ⟨rfl, rfl, rfl⟩ | ⟨rfl, rfl, rfl⟩ | ⟨rfl, rfl, rfl⟩ | ⟨rfl, rfl, rfl⟩ | ⟨rfl, rfl, rfl⟩ | ⟨rfl, rfl, rfl⟩ |
      ⟨rfl, rfl, rfl⟩ | ⟨rfl, rfl, rfl⟩ | ⟨rfl, rfl, rfl⟩ | ⟨rfl, rfl, rfl⟩ | ⟨rfl, rfl, rfl⟩ | ⟨rfl, rfl, rfl⟩ |
      ⟨rfl, rfl, rfl⟩ | ⟨rfl, rfl, rfl⟩ | ⟨rfl, rfl, rfl⟩ | ⟨rfl, rfl, rfl⟩ | ⟨rfl, rfl, rfl⟩ | ⟨rfl, rfl, rfl⟩ |
      ⟨rfl, rfl, rfl⟩ | ⟨rfl, rfl, rfl⟩ | ⟨rfl, rfl, rfl⟩
    case inr.inl =>
      have hnot : headIsSecondPart s = false := by rw [headIsSecondPart_eq hs]; simp [hfirst rfl]
      exact congrArg Host.Outcome.next ((if_neg (by simp [hnot])).trans (hquiet _))
    all_goals first
      | exact congrArg Host.Outcome.next (hquiet _)
      | exact congrArg Host.Outcome.next (hsettle _)
  · have hhead : headIsSecondPart s = true := by rw [headIsSecondPart_eq hs]; simp [hsecond]
    have hpart : secondPart r.args s =
        answer .badArg [] (if 2 ≤ r.args.length ∧ argByte r.args 1 = 1 then setStaging none s else s) :=
      if_neg (by omega)
    show Host.Outcome.next (if headIsSecondPart s then settle (serve 2 0 secondPart s) else s) = _
    rw [if_pos hhead, serve_eq hs (Nat.zero_le _), hpart]
    split
    · rw [hs.answer_in (x := setStaging none s), settle_replied]; exact hn
    · rw [hs.answer, settle_replied _ _ _ _ hn]

theorem argClass_eq {args : List Byte} {i : Nat} {c : Fin 8} (h : argByte args i = c.val) : argClass args i = some c := by
  simp [argClass, h]

theorem argLine_eq {args : List Byte} {i : Nat} {k : LineNo} (h : argByte args i = k.val) : argLine args i = some k := by
  simp [argLine, h]

theorem argClass_none {args : List Byte} {i : Nat} (h : 8 ≤ argByte args i) : argClass args i = none := by
  simp [argClass, h]

theorem argLine_none {args : List Byte} {i : Nat} (h : 8 ≤ argByte args i) : argLine args i = none := by
  simp [argLine, h]

theorem wiredFieldOf_none {n : Nat} (h : 7 ≤ n) : wiredFieldOf n = none := by
  unfold wiredFieldOf
  split
  case h_8 => rfl
  all_goals omega

/-- Settles O47: each reading request finds what it names, or not. -/
theorem tablesAreRead : Obligations.TablesAreRead := by
  unfold Obligations.TablesAreRead
  intro s r rest
  dsimp only
  refine ⟨fun hs hl => ⟨fun bytes hb => ?_, fun hb => ?_⟩, fun hs hl => ⟨fun n hn => ?_, fun hn => ?_⟩,
    fun hs hl => ⟨fun c d hc hd => ?_, fun hcd => ?_⟩, fun hs hl => ⟨fun k x hk hx => ?_, fun hkx => ?_⟩, fun hs hl => ?_,
    fun hs hl => ⟨fun i hi hb => ?_, fun hi hb => ?_, fun hi => ?_⟩⟩
  · refine congrArg Host.Outcome.next ((serve_eq hs hl _).trans ?_)
    rw [argWord, hb]; exact hs.part _ _ _
  · refine congrArg Host.Outcome.next ((serve_eq hs hl _).trans ?_)
    rw [argWord, hb]; exact hs.answer _ _
  · refine congrArg Host.Outcome.next ((serve_eq hs hl _).trans ?_)
    have : indexFin 48 (argByte r.args 0) = some n := by simp [indexFin, hn]
    rw [this]; exact hs.part _ _ _
  · refine congrArg Host.Outcome.next ((serve_eq hs hl _).trans ?_)
    have : indexFin 48 (argByte r.args 0) = none := by simp [indexFin, hn]
    rw [this]; exact hs.answer _ _
  · refine congrArg Host.Outcome.next ((serve_eq hs hl _).trans ?_)
    rw [argClass_eq hc, argClass_eq hd]; exact hs.answer _ _
  · refine congrArg Host.Outcome.next ((serve_eq hs hl _).trans ?_)
    rcases hcd with h | h <;> rw [argClass_none h]
    · exact hs.answer _ _
    · cases argClass r.args 0 <;> exact hs.answer _ _
  · refine congrArg Host.Outcome.next ((serve_eq hs hl _).trans ?_)
    rw [argLine_eq hk, hx]; exact hs.answer _ _
  · refine congrArg Host.Outcome.next ((serve_eq hs hl _).trans ?_)
    rcases hkx with h | h
    · rw [argLine_none h]; exact hs.answer _ _
    · rw [wiredFieldOf_none h]; cases argLine r.args 0 <;> exact hs.answer _ _
  · exact congrArg Host.Outcome.next ((serve_eq hs hl _).trans (hs.part _ _ _))
  · refine congrArg Host.Outcome.next ((serve_eq hs hl _).trans ((if_neg (by omega)).trans ?_))
    rw [hb]; exact hs.part _ _ _
  · refine congrArg Host.Outcome.next ((serve_eq hs hl _).trans ((if_neg (by omega)).trans ?_))
    rw [List.getElem?_eq_none hb]; exact hs.part _ _ _
  · exact congrArg Host.Outcome.next ((serve_eq hs hl _).trans ((if_pos hi).trans (hs.answer _ _)))

/-! ## A request frame -/

theorem isRequest_eq {f : CanFrame} (hf : f.format = .standard) (hi : f.id = 0x6A0 + s.port.node.val) : isRequest s f = true := by
  simp [isRequest, hf, hi, Config.requestId]

/-- R191: a request frame goes to the Request List. -/
theorem exec_requestFrame {f : CanFrame} (hr : f.remote = false) (hq : isRequest s f = true) :
    exec (.canFrameReceived f) s = .next (takeRequest (frameBytes f) s) := by
  show Host.Outcome.next (if f.remote then s else if isRequest s f then takeRequest (frameBytes f) s else settle (applyFrame f s))
    = _
  rw [hr, if_neg Bool.false_ne_true, if_pos hq]

theorem frameBytes_length (f : CanFrame) : (frameBytes f).length ≤ dataLength f := List.length_take_le _ _

/-- R192: a request of a known code joins the list and waits its turn. -/
theorem joinRequests_known (r : Request) (h : knownCode r.code = true) :
    joinRequests r s = { s with
      management := { s.management with requests := s.management.requests ++ [r] }
      memory := { s.memory with cause := none } } := by
  unfold joinRequests
  dsimp only
  split
  · rename_i he
    refine serveUnknown_known _ (rest := [r]) ?_ ?_
    · show s.management.requests ++ [r] = [r]
      rw [List.isEmpty_iff.mp he]; rfl
    · rintro x ⟨⟩; exact h
  · rfl

/-- Settles O20: what `takeRequest` makes of a frame, by its length and the room in the list and the queue. -/
theorem requestIsTaken : Obligations.RequestIsTaken := by
  unfold Obligations.RequestIsTaken
  intro f s hremote hformat hid
  have hexec := exec_requestFrame hremote (isRequest_eq (s := s) hformat hid)
  refine ⟨fun hlen => ?_, fun code tag args hbytes => ?_⟩
  · rw [hexec]
    have hb := frameBytes_length f
    cases hf : frameBytes f with
    | nil => rfl
    | cons a rest =>
      cases rest with
      | nil => rfl
      | cons b rest => rw [hf] at hb; simp at hb; omega
  · rw [hexec, hbytes]
    refine ⟨fun hroom hk => ?_, fun hfull => ⟨fun hq => ?_, fun hq => ?_⟩⟩
    · exact congrArg Host.Outcome.next ((if_pos hroom).trans (joinRequests_known _ hk))
    · exact congrArg Host.Outcome.next ((if_neg (Nat.not_lt.mpr hfull)).trans (if_pos hq))
    · exact congrArg Host.Outcome.next ((if_neg (Nat.not_lt.mpr hfull)).trans (if_neg (Nat.not_lt.mpr hq)))

/-! ## The transmit queue -/

/-- R197: the first frame of the key that waits has its contents replaced. -/
theorem replaceFrame_some (k : FrameKey) (data : List Byte) (pre post : List TxFrame) (f : TxFrame)
    (hf : f.key = some k ∧ f.sending = false) (hpre : ∀ x ∈ pre, ¬ (x.key = some k ∧ x.sending = false)) :
    replaceFrame k data (pre ++ f :: post) = some (pre ++ { f with data := data } :: post) := by
  induction pre with
  | nil => exact if_pos hf
  | cons x pre ih =>
    rw [List.cons_append, replaceFrame, if_neg (hpre x (by simp)), ih fun y hy => hpre y (by simp [hy])]
    rfl

/-- R197: with no frame of the key waiting there is none to replace. -/
theorem replaceFrame_none (k : FrameKey) (data : List Byte) (q : List TxFrame)
    (h : ∀ x ∈ q, ¬ (x.key = some k ∧ x.sending = false)) : replaceFrame k data q = none := by
  induction q with
  | nil => rfl
  | cons x q ih => rw [replaceFrame, if_neg (h x (by simp)), ih fun y hy => h y (by simp [hy])]; rfl

theorem wouldPlace_waiting {k : FrameKey} {pre post : List TxFrame} {f : TxFrame} (hq : s.port.queue = pre ++ f :: post)
    (hf : f.key = some k ∧ f.sending = false) (hpre : ∀ x ∈ pre, ¬ (x.key = some k ∧ x.sending = false)) :
    wouldPlace k s = true := by
  rw [wouldPlace, txQueue, hq, replaceFrame_some k [] pre post f hf hpre]; rfl

theorem wouldPlace_room {k : FrameKey} (hq : s.port.queue.length < 16) : wouldPlace k s = true := by
  have : (txQueue s).length < Config.txCapacity := hq
  simp [wouldPlace, this]

/-- R197: a status frame takes the place of the one of its key that waits. -/
theorem placeStatus_waiting {k : FrameKey} {pre post : List TxFrame} {f : TxFrame} (id : Nat) (data : List Byte)
    (hq : s.port.queue = pre ++ f :: post) (hf : f.key = some k ∧ f.sending = false)
    (hpre : ∀ x ∈ pre, ¬ (x.key = some k ∧ x.sending = false)) :
    placeStatus k id data s = setQueue (pre ++ { f with data := data } :: post) s := by
  unfold placeStatus
  rw [txQueue, hq, replaceFrame_some k data pre post f hf hpre]

/-- R197: a status frame whose key does not wait stands at the tail. -/
theorem placeStatus_tail {k : FrameKey} (id : Nat) (data : List Byte)
    (hnone : ∀ x ∈ s.port.queue, ¬ (x.key = some k ∧ x.sending = false)) (hq : s.port.queue.length < 16) :
    placeStatus k id data s = setQueue (s.port.queue ++ [{ key := some k, id := id, data := data }]) s := by
  have hq' : (txQueue s).length < Config.txCapacity := hq
  unfold placeStatus
  rw [txQueue, replaceFrame_none k data _ hnone]
  exact if_pos hq'

theorem consistData_advanceTo (t : Time) (s : State) (o : Bool) : consistData (advanceTo t s) o = consistData s o := by
  simp [consistData]
  rfl

/-- R197: with the frame f alone waiting, its tx-overrun bit is the one found. -/
theorem waitingOverrun_eq {pre post : List TxFrame} {f : TxFrame} (hq : s.port.queue = pre ++ f :: post)
    (hf : f.key = some .consist ∧ f.sending = false) (hpre : ∀ x ∈ pre ++ post, ¬ (x.key = some .consist ∧ x.sending = false)) :
    waitingOverrun s = (f.data.getD 2 0).getLsbD 2 := by
  have hnone : ∀ xs : List TxFrame, (∀ x ∈ xs, x ∈ pre ++ post) → xs.any (fun f =>
      decide (f.key = some .consist) && !f.sending && (f.data.getD 2 0).getLsbD 2) = false := by
    intro xs hx
    rw [List.any_eq_false]
    intro x hm hc
    have := hpre x (hx x hm)
    simp only [Bool.and_eq_true, decide_eq_true_eq, Bool.not_eq_eq_eq_not, Bool.not_true] at hc
    exact this hc.1
  unfold waitingOverrun txQueue
  rw [hq, List.any_append, List.any_cons, hnone pre (fun x hx => by simp [hx]), hnone post (fun x hx => by simp [hx])]
  simp [hf.1, hf.2]

theorem waitingOverrun_none (h : ∀ x ∈ s.port.queue, ¬ (x.key = some .consist ∧ x.sending = false)) :
    waitingOverrun s = false := by
  unfold waitingOverrun txQueue
  rw [List.any_eq_false]
  intro x hm hc
  simp only [Bool.and_eq_true, decide_eq_true_eq, Bool.not_eq_eq_eq_not, Bool.not_true] at hc
  exact h x hm hc.1

/-- R198: CONSIST_TIMER, in its three cases. -/
theorem consistTimer_cases (s : State) :
    let waits := fun (k : FrameKey) (f : TxFrame) => f.key = some k ∧ f.sending = false
    let s1 := advanceTo s.port.consistAt s
    let sent := fun (queue : List TxFrame) =>
      ({ s1 with port := { s.port with consistAt := s.port.consistAt + ms 100, overrun := false, queue := queue } } : State)
    (∀ (pre post : List TxFrame) (f : TxFrame), s.port.queue = pre ++ f :: post → waits .consist f →
        (∀ x ∈ pre ++ post, ¬ waits .consist x) → exec .consistTimer s = .next (sent
          (pre ++ { f with data := consistData s (s.port.overrun || (f.data.getD 2 0).getLsbD 2) } :: post)))
      ∧ ((∀ f ∈ s.port.queue, ¬ waits .consist f) →
        (s.port.queue.length < 16 → exec .consistTimer s = .next (sent (s.port.queue ++
            [{ key := some .consist, id := 0x6C0 + 4 * s.port.node.val, data := consistData s s.port.overrun }])))
          ∧ (16 ≤ s.port.queue.length → exec .consistTimer s = .next { s1 with port := { s.port with
            consistAt := s.port.consistAt + ms 100, overrun := true } })) := by
  intro waits s1 sent
  have hexec : exec .consistTimer s = .next (nextConsist (placeConsist s1)) := rfl
  have hdata : ∀ o, consistData s1 o = consistData s o := consistData_advanceTo _ s
  refine ⟨fun pre post f hq hf hpre => ?_, fun hnone => ⟨fun hroom => ?_, fun hfull => ?_⟩⟩
  · have hpre' : ∀ x ∈ pre, ¬ (x.key = some .consist ∧ x.sending = false) := fun x hx => hpre x (by simp [hx])
    rw [hexec, placeConsist, if_pos (wouldPlace_waiting (s := s1) hq hf hpre'), placeStatus_waiting (s := s1) _ _ hq hf hpre',
      waitingOverrun_eq (s := s1) hq hf hpre, hdata]
    rfl
  · rw [hexec, placeConsist, if_pos (wouldPlace_room (s := s1) hroom), placeStatus_tail (s := s1) _ _ hnone hroom,
      waitingOverrun_none (s := s1) hnone, hdata, Bool.or_false]
    rfl
  · have hfull' : ¬ (txQueue s1).length < Config.txCapacity := Nat.not_lt.mpr hfull
    have hnot : ¬ wouldPlace .consist s1 = true := by
      have hr : replaceFrame .consist [] (txQueue s1) = none := replaceFrame_none _ _ _ hnone
      simp [wouldPlace, hfull', hr]
    rw [hexec, placeConsist, if_neg hnot]
    rfl

/-- R199: RESULT_REFRESH: one frame is placed while fewer than 8 are queued. -/
theorem resultRefresh_cases (s : State) :
    let waits := fun (k : FrameKey) (f : TxFrame) => f.key = some k ∧ f.sending = false
    (8 ≤ s.port.queue.length → exec .resultRefresh s = .next s)
      ∧ ∀ (m : Time) (p : Pos) (g : Group) (half : Bool), s.port.queue.length < 8 → refreshMoment s = some m →
          let s1 := advanceTo m s
          firstRefresh s1 = some (p, g, half) → qualifies s1 p g half = true →
          let sent := fun (queue : List TxFrame) =>
            setRefresh p g half (some (s1.now + ms 1000)) { s1 with port := { s.port with queue := queue } }
          (∀ (pre post : List TxFrame) (f : TxFrame), s.port.queue = pre ++ f :: post → waits (.result p g half) f →
              (∀ x ∈ pre, ¬ waits (.result p g half) x) → exec .resultRefresh s =
                .next (sent (pre ++ { f with data := resultData s1 p g half } :: post)))
            ∧ ((∀ f ∈ s.port.queue, ¬ waits (.result p g half) f) → exec .resultRefresh s = .next (sent (s.port.queue ++
                [{ key := some (.result p g half), id := 0x6C0 + 4 * s.port.node.val + 1,
                   data := resultData s1 p g half }]))) := by
  intro waits
  refine ⟨fun hfull => congrArg Host.Outcome.next (if_neg (Nat.not_lt.mpr hfull)), fun m p g half hroom hm => ?_⟩
  intro s1 hfirst hqual sent
  have hexec : exec .resultRefresh s = .next (placeResultFrame p g half s1) := by
    refine congrArg Host.Outcome.next ((if_pos hroom).trans ?_)
    rw [hm]
    show placeRefresh s1 = _
    rw [placeRefresh, if_pos (show (txQueue s1).length < Config.refreshRoom from hroom), hfirst]
  have hplaced : ∀ q, noteRefresh p g half (setQueue q s1) = sent q := fun q => if_pos hqual
  have hroom16 : s1.port.queue.length < 16 := Nat.lt_of_lt_of_le hroom (by decide)
  refine ⟨fun pre post f hq hf hpre => ?_, fun hnone => ?_⟩
  · rw [hexec, placeResultFrame, if_pos (wouldPlace_room hroom16), placeStatus_waiting (s := s1) _ _ hq hf hpre, hplaced]
  · rw [hexec, placeResultFrame, if_pos (wouldPlace_room hroom16), placeStatus_tail (s := s1) _ _ hnone hroom16, hplaced]
    rfl

/-- R197: FRAME_TRANSMISSION_START and FRAME_SENT. -/
theorem frameSent_cases (s : State) :
    (s.port.queue = [] → exec .frameTransmissionStart s = .next s ∧ exec .frameSent s = .next s)
      ∧ ∀ (f : TxFrame) (fs : List TxFrame), s.port.queue = f :: fs →
          exec .frameTransmissionStart s = .next { s with port := { s.port with queue := { f with sending := true } :: fs } }
            ∧ ((∀ r bs, s.management.head ≠ .answered r bs) →
                exec .frameSent s = .next { s with
                  port := { s.port with queue := fs }
                  management := { s.management with resetSent := s.management.resetSent || f.resetReply } }) := by
  have hstart : exec .frameTransmissionStart s = .next (startSending s) := rfl
  have hsent : exec .frameSent s = .next (finishSending s) := rfl
  refine ⟨fun hq => ?_, fun f fs hq => ?_⟩
  · rw [hstart, hsent, startSending, finishSending, txQueue, hq]
    exact ⟨rfl, rfl⟩
  · rw [hstart, hsent, startSending, finishSending, txQueue, hq]
    refine ⟨rfl, fun hhead => congrArg Host.Outcome.next ?_⟩
    have hwait : ∀ x : State, x.management.head = s.management.head → placeWaitingReply x = x := by
      intro x hx
      unfold placeWaitingReply
      split
      · rename_i r bs hr
        exact absurd (hx.symm.trans hr) (hhead r bs)
      · rfl
    refine (hwait (noteResetSent f (setQueue fs s)) (by unfold noteResetSent; split <;> rfl)).trans ?_
    unfold noteResetSent
    cases hr : f.resetReply
    · simp [setQueue]
    · simp [setQueue]

/-- Settles O17: the timer's frame, the refreshed frame and the frame sent, each by itself. -/
theorem framesArePlacedAndSent : Obligations.FramesArePlacedAndSent := by
  unfold Obligations.FramesArePlacedAndSent
  exact ⟨⟨consistTimer_cases, resultRefresh_cases⟩, frameSent_cases⟩

end Sys2Proof.Machine
end

section
/-!
The Consist Memory's writes and what follows them (R185 to R189).
-/
namespace Sys2Proof.Machine

variable {s : State}

/-! ## The store -/

theorem contentSum_sealStore (x : Store) : contentSum (sealStore x) = contentSum x := rfl

/-- R186: a sealed store's checksum holds. -/
theorem checksumHolds_sealStore (x : Store) : checksumHolds (sealStore x) = true := by
  have hsum : contentSum x + (0 - contentSum x) = 0 := by
    bv_omega
  unfold checksumHolds
  rw [contentSum_sealStore]
  simp only [sealStore, hsum]
  decide

/-! ## What a write is followed by -/

theorem takeWrite_none (p : Pos) (h : s.memory.pendingWrites.get p = none) : takeWrite s p = s := by
  unfold takeWrite
  rw [h]
  split
  · rename_i hc; cases hc
  · rfl

/-- R186: with no write pending none is taken. -/
theorem takePending_none (h : ∀ p, s.memory.pendingWrites.get p = none) : takePending s = s := by
  have hfold : ∀ ps : List Pos, ps.foldl takeWrite s = s := by
    intro ps
    induction ps with
    | nil => rfl
    | cons p ps ih => rw [List.foldl_cons, takeWrite_none p (h p)]; exact ih
  unfold takePending
  split
  · rfl
  · exact hfold _

theorem takeWrite_busy {w : Writing} (p : Pos) (h : s.memory.writing = some w) : takeWrite s p = s := by
  unfold takeWrite
  rw [h]

/-- R186: no pending write, no FORGET-CONSIST and no RESET-DEVICE: nothing follows. -/
theorem nextWrite_none (h : ∀ p, s.memory.pendingWrites.get p = none) (hc : handedCode s ≠ some 24) (hr : resetting s = false) :
    nextWrite s = s := by
  unfold nextWrite
  rw [hr, if_neg hc]
  exact takePending_none h

theorem handedCode_waiting (h : s.management.head = .waiting) : handedCode s = none := by
  unfold handedCode
  rw [h]
  split
  · rename_i hc; cases hc
  · rfl

theorem resetting_waiting (h : s.management.head = .waiting) : resetting s = false := by
  unfold resetting
  rw [h]
  cases s.management.requests <;> rfl

/-! ## Completions -/

theorem recordDone_record {p : Pos} {c : Remembered} (h : s.memory.writing = some (.record p c)) :
    recordDone s = nextWrite { s with memory := { s.memory with
      store := storeRecord p c s.memory.store, mismatch := s.memory.mismatch.put p false, writing := none } } := by
  unfold recordDone
  rw [h]; rfl

theorem rebuildDone_rebuild {p : Pos} {c : Remembered} (h : s.memory.writing = some (.rebuild p c)) :
    rebuildDone s = nextWrite { s with memory := { s.memory with
      store := storeRebuilt p c s.memory.store, invalid := false, mismatch := s.memory.mismatch.put p false,
      writing := none } } := by
  unfold rebuildDone
  rw [h]; rfl

theorem headerDone_none (h : s.memory.writing = some (.header .none)) :
    headerDone s = nextWrite { s with memory := { s.memory with
      store := storeHeader .none s.memory.store, writing := none } } := by
  unfold headerDone
  rw [h]; rfl

theorem headerDone_deviceReset (h : s.memory.writing = some (.header .deviceReset)) :
    headerDone s = answerReset { s with memory := { s.memory with
      store := storeHeader .deviceReset s.memory.store, writing := none } } := by
  unfold headerDone
  rw [h]; rfl

theorem forgetDone_request {code : RestartCode} (h : s.memory.writing = some (.forget code false)) :
    forgetDone s = nextWrite (answer .ok [] { s with memory := { s.memory with
      store := storeForgotten code s.memory.store, invalid := false, mismatch := Tab.fill false, writing := none } }) := by
  unfold forgetDone
  rw [h]; rfl

/-- R196: the reply OK of RESET-DEVICE placed at the tail of the queue. -/
theorem answerReset_room {r : Request} {rest : List Request} (hr : s.management.requests = r :: rest)
    (hq : s.port.queue.length < 16) :
    answerReset s = { s with
      port := { s.port with queue := s.port.queue ++
        [{ key := none, id := 0x6B0 + s.port.node.val, data := [r.code, r.tag, 0], resetReply := true }] }
      management := { s.management with head := .handed, resetPlaced := some s.now } } := by
  have hq' : (txQueue s).length < Config.txCapacity := hq
  have hm : s.management = { s.management with requests := r :: rest } := by rw [← hr]
  unfold answerReset
  rw [hr]
  refine (if_pos hq').trans ?_
  simp only [setRequests, setQueue, ← hr]
  rfl

/-! ## The commands -/

/-- R186, R187: a record write and a rebuild complete. -/
theorem recordWrites_complete (s : State) (p : Pos) (c : Remembered) (hp : ∀ q, s.memory.pendingWrites.get q = none)
    (hc : handedCode s ≠ some 24) (hr : resetting s = false) :
    (s.memory.writing = some (.record p c) → ∃ t, exec .recordWriteComplete s = .next t
        ∧ t = { s with memory := { s.memory with
              store := t.memory.store, mismatch := s.memory.mismatch.put p false, writing := none } }
        ∧ t.memory.store.records = s.memory.store.records.put p (some c) ∧ t.memory.store.code = s.memory.store.code
        ∧ checksumHolds t.memory.store = true)
      ∧ (s.memory.writing = some (.rebuild p c) → ∃ t, exec .rebuildComplete s = .next t
        ∧ t = { s with memory := { s.memory with
              store := t.memory.store, invalid := false, mismatch := s.memory.mismatch.put p false, writing := none } }
        ∧ t.memory.store.records = (Tab.fill none).put p (some c) ∧ t.memory.store.code = .none
        ∧ checksumHolds t.memory.store = true) := by
  refine ⟨fun hw => ⟨_, congrArg Host.Outcome.next ((recordDone_record hw).trans (nextWrite_none hp hc hr)), rfl, rfl, rfl,
    checksumHolds_sealStore _⟩, fun hw => ⟨_, congrArg Host.Outcome.next ((rebuildDone_rebuild hw).trans
      (nextWrite_none hp hc hr)), rfl, rfl, rfl, checksumHolds_sealStore _⟩⟩

/-- R189: a header write completes. -/
theorem headerWrites_complete (s : State) :
    (s.memory.writing = some (.header .none) → (∀ q, s.memory.pendingWrites.get q = none) → handedCode s ≠ some 24 →
        resetting s = false →
        ∃ t, exec .headerWriteComplete s = .next t
          ∧ t = { s with memory := { s.memory with store := t.memory.store, writing := none } }
          ∧ t.memory.store.code = .none ∧ t.memory.store.records = s.memory.store.records
          ∧ checksumHolds t.memory.store = true)
      ∧ ∀ (r : Request) (rest : List Request), s.memory.writing = some (.header .deviceReset) →
        s.management.requests = r :: rest → s.port.queue.length < 16 →
        ∃ t, exec .headerWriteComplete s = .next t
          ∧ t = { s with
              memory := { s.memory with store := t.memory.store, writing := none }
              port := { s.port with queue := s.port.queue ++
                [{ key := none, id := 0x6B0 + s.port.node.val, data := [r.code, r.tag, 0], resetReply := true }] }
              management := { s.management with head := .handed, resetPlaced := some s.now } }
          ∧ t.memory.store.code = .deviceReset ∧ t.memory.store.records = s.memory.store.records
          ∧ checksumHolds t.memory.store = true := by
  refine ⟨fun hw hp hc hr => ⟨_, congrArg Host.Outcome.next ((headerDone_none hw).trans (nextWrite_none hp hc hr)), rfl, rfl,
    rfl, checksumHolds_sealStore _⟩, fun r rest hw hr hq => ⟨_, congrArg Host.Outcome.next ((headerDone_deviceReset hw).trans
      (answerReset_room (r := r) (rest := rest) hr hq)), rfl, rfl, rfl, checksumHolds_sealStore _⟩⟩

/-- R188, R189: FORGET-CONSIST and RESET-DEVICE are taken and held until their write is done. -/
theorem memoryRequests_taken (s : State) (r : Request) (rest : List Request) :
    (s.Serving 24 r rest → exec .forgetConsist s = .next (State.held { s with memory := { s.memory with
        pendingWrites := Tab.fill none
        writing := if s.memory.writing = none then some (.forget s.memory.store.code false) else s.memory.writing } }))
      ∧ (s.Serving 25 r rest → exec .resetDevice s = .next (State.held { s with memory := { s.memory with
        writing :=
          if s.memory.writing = none then
            some (if s.memory.invalid then .forget .deviceReset true else .header .deviceReset)
          else s.memory.writing } })) := by
  refine ⟨fun hs => congrArg Host.Outcome.next ((serve_eq hs (Nat.zero_le _) _).trans ?_),
    fun hs => congrArg Host.Outcome.next ((serve_eq hs (Nat.zero_le _) _).trans ?_)⟩
  · cases hw : s.memory.writing <;> simp [forget, modMemory, holdHead, setRequests, startForget, startWrite, State.held, hw]
  · cases hw : s.memory.writing with
    | none =>
      simp only [askReset, modMemory, holdHead, setRequests, startResetWrite, startWrite, State.held, hw, Option.isNone_none,
        if_true]
      rfl
    | some w =>
      simp only [askReset, holdHead, setRequests, State.held, hw, Option.isNone_some, Bool.false_eq_true, if_false,
        reduceCtorEq]
      rw [← hw]

/-- R188: the forget write of FORGET-CONSIST completes. -/
theorem forgetWrite_completes (s : State) (r : Request) (rest : List Request) (code : RestartCode)
    (hw : s.memory.writing = some (.forget code false)) (hr : s.management.requests = r :: rest)
    (hq : s.port.queue.length < 16) (hk : ∀ x, rest.head? = some x → knownCode x.code = true)
    (hp : ∀ q, s.memory.pendingWrites.get q = none) :
    ∃ t, exec .forgetWriteComplete s = .next t
      ∧ t = State.replied { s with memory := { s.memory with
            store := t.memory.store, invalid := false, mismatch := Tab.fill false, writing := none } } r rest .ok []
      ∧ t.memory.store.records = Tab.fill none ∧ t.memory.store.code = code ∧ checksumHolds t.memory.store = true := by
  let emptied : State := { s with memory := { s.memory with
    store := storeForgotten code s.memory.store, invalid := false, mismatch := Tab.fill false, writing := none } }
  have hans : answer .ok [] emptied = emptied.replied r rest .ok [] := answer_eq (s := emptied) hr hq hk .ok []
  have hnext : nextWrite (emptied.replied r rest .ok []) = emptied.replied r rest .ok [] :=
    nextWrite_none (s := emptied.replied r rest .ok []) hp (by rw [handedCode_waiting rfl]; decide) (resetting_waiting rfl)
  exact ⟨emptied.replied r rest .ok [], congrArg Host.Outcome.next ((forgetDone_request hw).trans
    ((congrArg nextWrite hans).trans hnext)), rfl, rfl, rfl, checksumHolds_sealStore _⟩

/-- Settles O18: each completion seals the store, and with nothing waiting nothing follows it. -/
theorem storeWritesComplete : Obligations.StoreWritesComplete := by
  unfold Obligations.StoreWritesComplete
  exact ⟨recordWrites_complete, headerWrites_complete, memoryRequests_taken,
    fun s r rest code hw hr _ _ hq hk hp => forgetWrite_completes s r rest code hw hr hq hk hp⟩

end Sys2Proof.Machine
end

section
/-!
The supply reading, the end of a hold, and the timers that only put one offer: the POLL time, the timers of the running
sequence, a recovery attempt, the chain probe and the waits of an enumeration pass.
-/
namespace Sys2Proof.Machine

variable {s : State}

/-! ## The supply reading and the end of a hold -/

theorem levelOf_setLines {l : Tab Line 8} {k : LineNo} (h : l.get k = lineRec s k) : levelOf (setLines l s) k = levelOf s k := by
  have hrec : lineRec (setLines l s) k = lineRec s k := h
  unfold levelOf
  rw [hrec]
  rfl

theorem pitched_eq (s : State) (k : LineNo) (p : Nat) :
    pitched s k p (lineRec s k) = onCountOf (levelOf s k) p (wiredOf s k).comp s.settings.vref s.direct.supply := rfl

/-- R123: a recomputation event reaches each line picked that is not in HOLD. -/
theorem recomputeWhere_eq (f : State → LineNo → Bool)
    (hf : ∀ l k, l.get k = lineRec s k → f (setLines l s) k = f s k) :
    ∃ m, recomputeWhere f s = setLines m s ∧ ∀ k, m.get k =
      if f s k = true ∧ (lineRec s k).hold = none then { lineRec s k with pendingOn := lineOnCount s k } else lineRec s k := by
  obtain ⟨m, hm, hg⟩ := foldl_allLines s (fun t k => if f t k then recompute k t else t)
    (fun k x => if f s k then
      { x with pendingOn := if x.hold.isSome then x.pendingOn else pitched s k (timebase s x.tb).period x } else x)
    (fun l k h => by
      rw [hf l k h]
      split
      · exact recompute_setLines l s k
      · rw [Tab.upd_eq_self]; rfl)
  refine ⟨m, hm, fun k => (hg k).trans ?_⟩
  cases hold : (lineRec s k).hold with
  | none =>
    by_cases hp : f s k = true
    · simp only [hp, hold, and_true, if_true, Option.isSome_none, Bool.false_eq_true, if_false]; rfl
    · simp only [hp, hold, and_true, if_false, Bool.false_eq_true]
  | some x =>
    by_cases hp : f s k = true
    · simp only [hp, hold, and_false, if_false, if_true, reduceCtorEq, Option.isSome_some]
      rw [← hold]
    · simp only [hp, false_and, if_false, Bool.false_eq_true]

/-- R125: the lines a supply reading reaches. -/
theorem takeSupply_eq (mv : Nat) (s : State) :
    ∃ m, takeSupply mv s = { s with direct := { s.direct with
        supply := some mv, nextSupply := s.direct.nextSupply + ms 10, lines := m } }
      ∧ ∀ k, m.get k =
        if (wiredOf s k).comp = .resistive ∧ 0 < levelOf s k ∧ levelOf s k < 255 ∧ (lineRec s k).hold = none then
          { lineRec s k with
            pendingOn := onCountOf (levelOf s k) (timebase s (lineRec s k).tb).period .resistive s.settings.vref (some mv) }
        else lineRec s k := by
  obtain ⟨m, hm, hg⟩ := recomputeWhere_eq
    (s := { s with direct := { s.direct with supply := some mv, nextSupply := s.direct.nextSupply + Config.supplySpacing } })
    (fun s k => decide ((wiredOf s k).comp = .resistive) && decide (0 < levelOf s k) && decide (levelOf s k < 255))
    (fun l k h => by dsimp only; rw [levelOf_setLines h]; rfl)
  refine ⟨m, hm, fun k => (hg k).trans ?_⟩
  by_cases h : (wiredOf s k).comp = .resistive ∧ 0 < levelOf s k ∧ levelOf s k < 255 ∧ (lineRec s k).hold = none
  · obtain ⟨hc, hlo, hhi, hh⟩ := h
    refine (if_pos ⟨?_, hh⟩).trans ((congrArg (fun d => { lineRec s k with pendingOn := d }) ?_).trans
      (if_pos ⟨hc, hlo, hhi, hh⟩).symm)
    · exact congrArg (fun c => onCountOf (levelOf s k) (timebase s (lineRec s k).tb).period c s.settings.vref (some mv)) hc
    · exact Bool.and_eq_true_iff.mpr ⟨Bool.and_eq_true_iff.mpr ⟨decide_eq_true hc, decide_eq_true hlo⟩, decide_eq_true hhi⟩
  · refine (if_neg fun hp => h ?_).trans (if_neg h).symm
    obtain ⟨hp, hh⟩ := hp
    obtain ⟨hp, hhi⟩ := Bool.and_eq_true_iff.mp hp
    obtain ⟨hc, hlo⟩ := Bool.and_eq_true_iff.mp hp
    exact ⟨of_decide_eq_true hc, of_decide_eq_true hlo, of_decide_eq_true hhi, hh⟩

/-- R122: the on-count of level 255 is the whole period. -/
theorem onCountOf_full (period : Nat) (comp : CompMode) (vref : Nat) (supply : Option Nat) :
    onCountOf 255 period comp vref supply = period + 1 := by
  rw [onCountOf_uncompensated period vref supply (by rintro ⟨-, -, h⟩; omega)]
  exact Nat.mul_div_cancel_left _ (by decide)

/-- R121: a line that is not in HOLD has its exercise flag set with the whole period pending. -/
theorem openLineWindow_free {k : LineNo} (h : (lineRec s k).hold = none) :
    openLineWindow k s = modLine k (fun l => { l with exercise := true, pendingOn := (timebase s l.tb).period + 1 }) s := by
  unfold openLineWindow
  rw [h]
  refine (if_neg (by decide)).trans ?_
  show computePending k (setLines (s.direct.lines.upd k fun l => { l with exercise := true }) s) = _
  rw [computePending_setLines, Tab.upd_upd]
  refine congrArg (fun l => setLines l s) (Tab.upd_congr _ _ ?_)
  exact congrArg (fun d => { s.direct.lines.get k with exercise := true, pendingOn := d }) (onCountOf_full _ _ _ _)

theorem windowOn_modLine (k j : LineNo) (f : Line → Line) (s : State) : windowOn (modLine k f s) j = windowOn s j := rfl

/-- R131, R146: a hold that expires. -/
theorem expireHold_eq (k : LineNo) (s : State) :
    (windowOn s k = false → expireHold k s = modLine k (fun l => { l with hold := none, pendingOn := 0 }) s)
      ∧ (windowOn s k = true → expireHold k s =
          modLine k (fun l => { l with hold := none, exercise := true, pendingOn := (timebase s l.tb).period + 1 }) s) := by
  have hclear : modLine k (fun l => { l with pendingOn := 0 }) (clearHold k s) =
      modLine k (fun l => { l with hold := none, pendingOn := 0 }) s := modLine_modLine k _ _ s
  unfold expireHold
  rw [hclear]
  unfold windowAfterHold
  rw [windowOn_modLine]
  refine ⟨fun hw => if_neg (by rw [hw]; decide), fun hw => (if_pos hw).trans ?_⟩
  rw [openLineWindow_free (by rw [lineRec_modLine, if_pos rfl]), modLine_modLine]
  refine congrArg (fun l => setLines l s) (Tab.upd_congr _ _ ?_)
  rw [modLine_eq, timebase_setLines]

/-- Settles O16: the supply reading reaches the compensated lines, and a hold ends as its expiry says. -/
theorem supplyAndHoldsAct : Obligations.SupplyAndHoldsAct := by
  unfold Obligations.SupplyAndHoldsAct
  refine ⟨fun mv s => ?_, fun k s h hh => ?_⟩
  · obtain ⟨m, hm, hg⟩ := takeSupply_eq mv (advanceTo s.direct.nextSupply s)
    exact ⟨_, congrArg Host.Outcome.next hm, rfl, hg⟩
  · dsimp only
    have hexec : exec (.holdTimeout k) s = .next (expireHold k (advanceTo (h + ms s.settings.stale) s)) := by
      show Host.Outcome.next (atMoment (holdMoment s k) (expireHold k) s) = _
      rw [holdMoment, hh]; rfl
    rw [hexec]
    exact ⟨fun hw => congrArg _ ((expireHold_eq k _).1 hw), fun hw => congrArg _ ((expireHold_eq k _).2 hw)⟩

/-! ## Commands that put one offer -/

/-- R33, R34: an offer made by a command in a quiet state, whose grant tells nobody anything, is all that happens. -/
theorem settle_makeOffer {o : Offer} (hv : offerValid o = true) (hg : grantNotices o = []) (hi : s.IdleLine)
    (hn : s.notices = []) : settle (makeOffer o s) = makeOffer o s :=
  settle_eq ((makeOffer_notices hv hg hi).trans hn)

theorem assignOffer_valid (n : Pos) : offerValid (assignOffer n) = true := by revert n; decide

theorem recoveryOffer_valid (p : Pos) : offerValid (recoveryOffer p) = true := by revert p; decide

/-- R25, R169: the item of a sequence, its address in the range of its operation. -/
theorem sequenceOffer_valid {o : SeqOp} {a : Nat} (h : a ≤ seqLast o) (p : Pos) (why : Purpose) :
    offerValid
      { requester := .sequenceUnit, cls := 6, pos := linePos p, op := seqLineOp o, addr := some a, data := none,
        why := why } = true := by
  have hp : decide (linePos p ≠ 0) = true := by revert p; decide
  cases o
  · exact (congrArg₂ (fun x y => x && true && y) hp (decide_eq_true h))
  · exact (congrArg₂ (fun x y => x && true && y) hp (decide_eq_true h))

theorem anyInService_advanceTo (m : Time) (s : State) : anyInService (advanceTo m s) = anyInService s := by
  unfold anyInService; simp only [inService_advanceTo]

/-- R164: the POLL time. -/
theorem pollTime_cases {m : Time} (hq : s.Quiet) (h : pollMoment s = some m) :
    exec .pollTime s = .next (makeOffer pollOffer (advanceTo m s)) := by
  have hserve : anyInService s = true ∧ pollStands s = false := by
    unfold pollMoment at h
    split at h
    · rename_i hc; simp only [Bool.and_eq_true, Bool.not_eq_eq_eq_not, Bool.not_true] at hc; exact ⟨hc.1.1, hc.1.2⟩
    · cases h
  show Host.Outcome.next (atMoment (pollMoment s) (fun s => settle (askPoll s)) s) = _
  rw [h]
  have hstands : pollStands (advanceTo m s) = false := hserve.2
  have hask : askPoll (advanceTo m s) = makeOffer pollOffer (advanceTo m s) := by
    unfold askPoll
    rw [hstands, anyInService_advanceTo, hserve.1]
    rfl
  refine congrArg Host.Outcome.next ((congrArg settle hask).trans ?_)
  exact settle_makeOffer rfl rfl hq.idle hq.notices

/-- R170: a repeat of the running sequence is offered. -/
theorem sequenceRepeat_cases {m : Time} {p : Pos} {a : Nat} {o : SeqOp} (hq : s.Quiet) (hrun : s.sequence.state = .running)
    (hm : s.sequence.repeatAt = some m) (hp : s.sequence.pos = some p) (ha : s.sequence.addr = some a)
    (ho : s.sequence.op = some o) (hle : a ≤ seqLast o) :
    exec .sequenceRepeat s = .next (makeOffer
      { requester := .sequenceUnit, cls := 6, pos := linePos p, op := seqLineOp o, addr := some a, data := none,
        why := .sequenceItem p a s.sequence.run }
      { advanceTo m s with sequence := { s.sequence with repeatAt := none } }) := by
  show Host.Outcome.next (atMoment (repeatMoment s) _ s) = _
  rw [repeatMoment, seqRunning, hrun, hm]
  refine congrArg Host.Outcome.next ?_
  show settle (offerItem { advanceTo m s with sequence := { s.sequence with repeatAt := none } }) = _
  have hoffer : offerItem { advanceTo m s with sequence := { s.sequence with repeatAt := none } } = makeOffer
      { requester := .sequenceUnit, cls := 6, pos := linePos p, op := seqLineOp o, addr := some a, data := none,
        why := .sequenceItem p a s.sequence.run }
      { advanceTo m s with sequence := { s.sequence with repeatAt := none } } := by
    unfold offerItem
    simp only [hp, ha, ho]
  rw [hoffer]
  exact settle_makeOffer (sequenceOffer_valid hle p _) rfl hq.idle hq.notices

/-- R170: an item of the running sequence runs out of time. -/
theorem sequenceItemTimeout_cases {t n : Nat} (hrun : s.sequence.state = .running)
    (hmode : s.sequence.mode = some .repeatUntilReady) (ht : s.sequence.itemStart = some t) (hn : s.sequence.timeout = some n) :
    exec .sequenceItemTimeout s = .next { advanceTo (t + ms n) s with
      sequence := { s.sequence with state := .ended, endCode := some .timeout, repeatAt := none }
      line := { s.line with offers := s.line.offers.filter fun o => decide (o.requester ≠ .sequenceUnit) } } := by
  have hm : itemDeadline s = some (t + ms n) := by simp [itemDeadline, seqRunning, hrun, hmode, ht, hn]
  show Host.Outcome.next (atMoment (itemDeadline s) (endSequence .timeout) s) = _
  rw [hm]
  refine congrArg Host.Outcome.next ?_
  show ({ advanceTo (t + ms n) s with
      sequence := { s.sequence with state := .ended, endCode := some .timeout, repeatAt := none }
      line := { s.line with offers := s.line.offers.filter fun o => !decide (o.requester = .sequenceUnit) } } : State) = _
  simp only [decide_not]

theorem modRec_modRec (p : Pos) (f g : ConsistRecord → ConsistRecord) (s : State) :
    modRec p g (modRec p f s) = modRec p (fun r => g (f r)) s := by
  show { s with consist := { s.consist with table := (s.consist.table.upd p f).upd p g } } = _
  rw [Tab.upd_upd]; rfl

theorem modRec_congr {p : Pos} {f g : ConsistRecord → ConsistRecord} (h : f (posRec s p) = g (posRec s p)) :
    modRec p f s = modRec p g s := by
  unfold modRec
  rw [Tab.upd_congr _ _ h]

/-- The clock leaves every field of a record but the LOST timer. -/
theorem attemptTimer_advanceTo (m : Time) (s : State) (p : Pos) :
    (posRec (advanceTo m s) p).attemptTimer = (posRec s p).attemptTimer
      ∧ (posRec (advanceTo m s) p).attemptUnderWay = (posRec s p).attemptUnderWay := by
  rw [posRec_advanceTo]; unfold lostAfter; split <;> exact ⟨rfl, rfl⟩

theorem underRelease_advanceTo (m : Time) (s : State) (p : Pos) : underRelease (advanceTo m s) p = underRelease s p := rfl

theorem frontmostLost_advanceTo (m : Time) (s : State) (p : Pos) : frontmostLost (advanceTo m s) p = frontmostLost s p := by
  unfold frontmostLost; simp only [stateOf_advanceTo, underRelease_advanceTo]

/-- R181: an attempt timer that has run out restarts, and an attempt is made where one may be. -/
theorem attemptExpires_cases {m : Time} {p : Pos} (ht : (posRec s p).attemptTimer = some m) :
    (frontmostLost s p = true → s.consist.cplPresent = true → (posRec s p).attemptUnderWay = false →
        attemptExpires p s = makeOffer (recoveryOffer p) (modRec p (fun r =>
          { r with attemptTimer := some (m + ms 1000), attempts := min 255 (r.attempts + 1), attemptUnderWay := true }) s))
      ∧ (frontmostLost s p = false ∨ s.consist.cplPresent = false ∨ (posRec s p).attemptUnderWay = true →
        attemptExpires p s = modRec p (fun r => { r with attemptTimer := some (m + ms 1000) }) s) := by
  unfold attemptExpires
  refine ⟨fun hf hc hu => ?_, fun h => ?_⟩
  · refine (if_pos (by rw [hf, hc, hu]; rfl)).trans (congrArg _ ((modRec_modRec _ _ _ _).trans (modRec_congr ?_)))
    rw [ht]; rfl
  · refine (if_neg ?_).trans (modRec_congr ?_)
    · rcases h with h | h | h <;> simp [h]
    · rw [ht]; rfl

theorem recoveryAttempt_cases {m : Time} {p : Pos} (hq : s.Quiet) (hl : stateOf s p = .lost)
    (ht : (posRec s p).attemptTimer = some m) :
    (frontmostLost s p = true → s.consist.cplPresent = true → (posRec s p).attemptUnderWay = false →
        exec (.recoveryAttempt p) s = .next (makeOffer (recoveryOffer p) (modRec p (fun r =>
          { r with attemptTimer := some (m + ms 1000), attempts := min 255 (r.attempts + 1),
                   attemptUnderWay := true }) (advanceTo m s))))
      ∧ (frontmostLost s p = false ∨ s.consist.cplPresent = false ∨ (posRec s p).attemptUnderWay = true →
        exec (.recoveryAttempt p) s =
          .next (modRec p (fun r => { r with attemptTimer := some (m + ms 1000) }) (advanceTo m s))) := by
  have hexec : exec (.recoveryAttempt p) s = .next (settle (attemptExpires p (advanceTo m s))) := by
    show Host.Outcome.next (atMoment (attemptMoment s p) _ s) = _
    rw [attemptMoment, if_pos hl, ht]; rfl
  obtain ⟨htimer, hway⟩ := attemptTimer_advanceTo m s p
  obtain ⟨hmade, hnot⟩ := attemptExpires_cases (s := advanceTo m s) (htimer.trans ht)
  rw [frontmostLost_advanceTo, hway] at hmade hnot
  rw [hexec]
  refine ⟨fun hf hc hu => congrArg Host.Outcome.next ((congrArg settle (hmade hf hc hu)).trans ?_),
    fun h => congrArg Host.Outcome.next ((congrArg settle (hnot h)).trans ?_)⟩
  · exact settle_makeOffer (recoveryOffer_valid p) rfl hq.idle hq.notices
  · exact settle_eq hq.notices

/-- Settles O44: each timer puts its offer, or ends its sequence. -/
theorem lineTimersRunOut : Obligations.LineTimersRunOut := by
  unfold Obligations.LineTimersRunOut
  intro s m hq
  refine ⟨pollTime_cases hq, fun p a o hrun hm hp ha ho hle => sequenceRepeat_cases hq hrun hm hp ha ho hle,
    fun t n hrun hmode ht hn hm => ?_, fun p hl ht => recoveryAttempt_cases hq hl ht⟩
  subst hm
  exact sequenceItemTimeout_cases hrun hmode ht hn

/-! ## The timers of an enumeration pass -/

theorem lowestVacant_advanceTo (m : Time) (s : State) : lowestVacant (advanceTo m s) = lowestVacant s := by
  unfold lowestVacant isVacant; simp only [stateOf_advanceTo]

/-- R38: the lowest VACANT position. -/
theorem lowestVacant_eq {n : Pos} (h : stateOf s n = .vacant) (hlow : ∀ p, p < n → stateOf s p ≠ .vacant) :
    lowestVacant s = some n := by
  unfold lowestVacant
  rw [List.find?_eq_some_iff_append]
  have hsplit : ∀ n : Pos, allPos = allPos.take n.val ++ n :: allPos.drop (n.val + 1) := by decide
  have hbefore : ∀ n : Pos, ∀ a ∈ allPos.take n.val, a < n := by decide
  exact ⟨decide_eq_true h, _, _, hsplit n, fun a ha => by simpa [isVacant] using hlow a (hbefore n a ha)⟩

theorem lowestVacant_none (h : ∀ p, stateOf s p ≠ .vacant) : lowestVacant s = none := by
  unfold lowestVacant
  rw [List.find?_eq_none]
  intro p _
  simpa [isVacant] using h p

theorem anyLost_eq_false (h : ∀ p, stateOf s p ≠ .lost) : anyLost s = false := by
  unfold anyLost
  rw [List.any_eq_false]
  intro p _
  simpa using h p

/-- R38: an enumeration trigger that finds no pass, release, sweep or LOST position starts a pass. -/
theorem enumTrigger_starts {n : Pos} (hrel : s.consist.release.active = false) (hsweep : s.consist.sweep = none)
    (hpass : s.consist.pass.active = false) (hcpl : s.consist.cplPresent = true) (hlost : ∀ p, stateOf s p ≠ .lost)
    (hlow : lowestVacant s = some n) :
    enumTrigger s = makeOffer (assignOffer n) (modPass (fun _ => { active := true, n := some n }) s) := by
  have hmay : passMayStart s = true := by
    unfold passMayStart
    rw [hpass, hsweep, anyLost_eq_false hlost, hrel, hcpl, hlow]; rfl
  unfold enumTrigger
  rw [hrel, hsweep]
  refine (if_neg (by decide)).trans ((if_neg (by decide)).trans ((if_pos hmay).trans ?_))
  unfold startPass
  rw [hlow]

/-- R59: CHAIN_PROBE starts a pass. -/
theorem chainProbe_starts {m : Time} {n : Pos} (hq : s.Quiet) (hm : s.consist.probeAt = some m)
    (hpass : s.consist.pass.active = false) (hrel : s.consist.release.active = false) (hsweep : s.consist.sweep = none)
    (hcpl : s.consist.cplPresent = true) (hlost : ∀ p, stateOf s p ≠ .lost) (hlow : lowestVacant s = some n) :
    exec .chainProbe s = .next (makeOffer (assignOffer n) { advanceTo m s with consist := { (advanceTo m s).consist with
      probeAt := some (m + ms 1000)
      pass := { active := true, n := some n, attempts := 0, phase := .offered } } }) := by
  let probed : State := { advanceTo m s with consist := { (advanceTo m s).consist with probeAt := some (m + ms 1000) } }
  have hprobe : probeExpires (advanceTo m s) = emitAll [.enumTrigger] probed := by
    show emitAll [.enumTrigger] (modConsist (fun c => { c with probeAt := c.probeAt.map fun t => t + ms 1000 })
      (advanceTo m s)) = _
    have hat : (advanceTo m s).consist.probeAt = some m := hm
    simp only [modConsist, hat]
    rfl
  have htrigger : enumTrigger probed =
      makeOffer (assignOffer n) (modPass (fun _ => { active := true, n := some n }) probed) :=
    enumTrigger_starts (s := probed) hrel hsweep hpass hcpl (fun p => by
      have : stateOf probed p = stateOf s p := stateOf_advanceTo m s p
      rw [this]; exact hlost p) ((lowestVacant_advanceTo m s).trans hlow)
  have hquiet : (makeOffer (assignOffer n) (modPass (fun _ => { active := true, n := some n }) probed)).notices = [] :=
    (makeOffer_notices (s := modPass (fun _ => { active := true, n := some n }) probed) (assignOffer_valid n) rfl
      hq.idle).trans hq.notices
  show Host.Outcome.next (atMoment s.consist.probeAt _ s) = _
  rw [hm]
  refine congrArg Host.Outcome.next ?_
  show settle (probeExpires (advanceTo m s)) = _
  rw [hprobe, settle_emitAll _ (show probed.notices = [] from hq.notices)]
  exact drain_silent 99999 _ _ hq.notices htrigger hquiet

theorem passWait_eq {ph : EnumPhase} (ha : s.consist.pass.active = true) (hp : s.consist.pass.phase = ph) :
    passWait s ph = some s.consist.pass.wait := by
  simp [passWait, ha, hp]

/-- R38: the ASSIGN of the pass is offered again after its spacing. -/
theorem spacingEnd_cases {n : Pos} (hq : s.Quiet) (ha : s.consist.pass.active = true) (hn : s.consist.pass.n = some n)
    (hp : s.consist.pass.phase = .spacing) :
    exec .enumerationSpacingEnd s = .next (makeOffer (assignOffer n)
      (modPass (fun e => { e with phase := .offered }) (advanceTo s.consist.pass.wait s))) := by
  show Host.Outcome.next (atMoment (passWait s .spacing) _ s) = _
  rw [passWait_eq ha hp]
  refine congrArg Host.Outcome.next ?_
  show settle (spacingEnds (advanceTo s.consist.pass.wait s)) = _
  have hn' : (advanceTo s.consist.pass.wait s).consist.pass.n = some n := hn
  unfold spacingEnds
  rw [hn']
  exact settle_makeOffer (assignOffer_valid n) rfl hq.idle hq.notices

/-- R39: after its settle time the pass goes on at the lowest VACANT position, or is over. -/
theorem settleEnd_cases {n : Pos} (hq : s.Quiet) (ha : s.consist.pass.active = true) (hn : s.consist.pass.n = some n)
    (hp : s.consist.pass.phase = .settling) :
    (∀ q, n ≠ 3 → lowestVacant s = some q → exec .enumerationSettleEnd s =
        .next (makeOffer (assignOffer q)
          (modPass (fun e => { e with phase := .offered, n := some q }) (advanceTo s.consist.pass.wait s))))
      ∧ (n = 3 ∨ (∀ p, stateOf s p ≠ .vacant) → exec .enumerationSettleEnd s =
        .next (modPass (fun _ => {}) (advanceTo s.consist.pass.wait s))) := by
  have hexec : exec .enumerationSettleEnd s = .next (settle (settleEnds (advanceTo s.consist.pass.wait s))) := by
    show Host.Outcome.next (atMoment (passWait s .settling) _ s) = _
    rw [passWait_eq ha hp]; rfl
  have hn' : (advanceTo s.consist.pass.wait s).consist.pass.n = some n := hn
  rw [hexec]
  unfold settleEnds
  rw [hn', lowestVacant_advanceTo]
  refine ⟨fun q h3 hq' => ?_, fun h => ?_⟩
  · have hafter : ∀ n : Pos, n ≠ 3 → ∃ x, (some n).bind posAfter = some x := by decide
    obtain ⟨x, hx⟩ := hafter n h3
    rw [hx, hq']
    exact congrArg Host.Outcome.next (settle_makeOffer (assignOffer_valid q) rfl hq.idle hq.notices)
  · refine congrArg Host.Outcome.next ?_
    rcases h with rfl | h
    · exact settle_eq hq.notices
    · rw [lowestVacant_none h]
      cases (some n).bind posAfter <;> exact settle_eq hq.notices

/-- Settles O24: the probe starts a pass, its spacing over the ASSIGN is offered again, its settle over it goes on or ends. -/
theorem enumerationTimersRunOut : Obligations.EnumerationTimersRunOut := by
  unfold Obligations.EnumerationTimersRunOut
  refine ⟨fun s m n hq hm hpass hrel hsweep hcpl hlost hv hlow =>
      chainProbe_starts hq hm hpass hrel hsweep hcpl hlost (lowestVacant_eq hv hlow),
    fun s n hq ha hn => ⟨spacingEnd_cases hq ha hn, fun hp => (settleEnd_cases hq ha hn hp).1,
      fun hp => (settleEnd_cases hq ha hn hp).2⟩⟩

end Sys2Proof.Machine
end

section
/-!
The arbiter's choice (R34) and the block a claim takes (R88).
-/
namespace Sys2Proof.Machine

variable {s : State}

/-! ## The arbiter -/

theorem pickRequester_mem {last : Option Requester} {os : List Offer} {o : Offer} (h : pickRequester last os = some o) :
    o ∈ os := by
  unfold pickRequester at h
  split at h
  all_goals
    rcases Option.or_eq_some_iff.mp h with h | ⟨_, h⟩
    · exact List.mem_of_find?_eq_some h
    · exact List.mem_of_head? h

theorem pickRequester_none {last : Option Requester} {os : List Offer} (h : pickRequester last os = none) : os = [] := by
  unfold pickRequester at h
  split at h
  all_goals exact List.head?_eq_none_iff.mp (Option.or_eq_none_iff.mp h).2

/-- R34: the requester not granted last is preferred. -/
theorem pickRequester_turn {r : Requester} {os : List Offer} {o x : Offer} (h : pickRequester (some r) os = some o)
    (hx : x ∈ os) (hr : x.requester ≠ r) : o.requester ≠ r := by
  rcases Option.or_eq_some_iff.mp h with h | ⟨h, _⟩
  · simpa using List.find?_some h
  · exact absurd (decide_eq_true hr) (List.find?_eq_none.mp h x hx)

/-- R34: with none granted yet, the Load Check Unit comes second. -/
theorem pickRequester_first {os : List Offer} {o x : Offer} (h : pickRequester none os = some o) (hx : x ∈ os)
    (hr : x.requester ≠ .loadCheckUnit) : o.requester ≠ .loadCheckUnit := by
  rcases Option.or_eq_some_iff.mp h with h | ⟨h, _⟩
  · simpa using List.find?_some h
  · exact absurd (decide_eq_true hr) (List.find?_eq_none.mp h x hx)

/-- R34: the rotating order lists the positions by their distance from the one after the last served. -/
theorem rotation_before {last a q : LinePos} {xs ys : List LinePos} (h : rotation last = xs ++ a :: ys)
    (hq : (q.val + 4 - last.val) % 5 < (a.val + 4 - last.val) % 5) : q ∈ xs := by
  have hdist : ∀ (last : LinePos) (i : Fin 5), ((rotation last).getD i.val 0).val = (last.val + 1 + i.val) % 5 := by decide
  have hlen : xs.length + ys.length + 1 = 5 := by
    have : (rotation last).length = (xs ++ a :: ys).length := by rw [h]
    simp only [List.length_append, List.length_cons] at this
    have h5 : (rotation last).length = 5 := rfl
    omega
  have ha : a.val = (last.val + 1 + xs.length) % 5 := by
    rw [← hdist last ⟨xs.length, by omega⟩, h]; simp
  have hlt : (q.val + 4 - last.val) % 5 < xs.length := by omega
  have hget : (rotation last).getD ((q.val + 4 - last.val) % 5) 0 = q := by
    apply Fin.ext
    rw [hdist last ⟨(q.val + 4 - last.val) % 5, by omega⟩]
    show (last.val + 1 + (q.val + 4 - last.val) % 5) % 5 = q.val
    omega
  rw [← hget, h, List.getD_append _ _ _ _ hlt]
  rw [List.getD_eq_getElem _ _ hlt]
  exact List.getElem_mem hlt

theorem mem_classes (c : ArbClass) : c ∈ ([0, 1, 2, 3, 4, 5, 6] : List ArbClass) := by revert c; decide

/-- R34, step 1: the best class has an offer, and no offer is of a lower one. -/
theorem bestClass_spec {os : List Offer} {c : ArbClass} (h : bestClass os = some c) :
    (∃ o ∈ os, o.cls = c) ∧ ∀ x ∈ os, c ≤ x.cls := by
  unfold bestClass at h
  refine ⟨by simpa using List.find?_some h, fun x hx => Nat.not_lt.mp fun hlt => ?_⟩
  obtain ⟨-, xs, ys, hsplit, hnone⟩ := List.find?_eq_some_iff_append.mp h
  have hmem : x.cls ∈ xs := by
    have hsorted : (xs ++ c :: ys).Pairwise (· < ·) := by rw [← hsplit]; decide
    have hin : x.cls ∈ xs ++ c :: ys := by rw [← hsplit]; exact mem_classes _
    rcases List.mem_append.mp hin with hin | hin
    · exact hin
    · rcases List.mem_cons.mp hin with rfl | hin
      · exact absurd hlt (Nat.lt_irrefl _)
      · have := (List.pairwise_append.mp hsorted).2.1
        exact absurd hlt (Nat.lt_asymm ((List.pairwise_cons.mp this).1 _ hin))
  have := hnone _ hmem
  simp only [Bool.not_eq_eq_eq_not, Bool.not_true, List.any_eq_false] at this
  exact this x hx (decide_eq_true rfl)

/-- R34: with an offer standing one is chosen. -/
theorem chooseOffer_some {l : LineCtl} (h : l.offers ≠ []) : ∃ o, chooseOffer l = some o := by
  have hnone := mt chooseOffer_eq_none h
  exact Option.ne_none_iff_exists'.mp hnone

/-- R34: what the chosen offer is among those standing. -/
theorem chooseOffer_spec {l : LineCtl} {o : Offer} (h : chooseOffer l = some o) :
    o ∈ l.offers ∧ (∀ x ∈ l.offers, o.cls ≤ x.cls)
      ∧ ∃ xs ys, rotation (l.lastServed.get o.cls) = xs ++ o.pos :: ys
        ∧ (∀ p ∈ xs, ∀ x ∈ l.offers, x.cls = o.cls → x.pos ≠ p)
        ∧ pickRequester ((l.lastGranted.get o.cls).get o.pos)
            (l.offers.filter fun x => decide (x.cls = o.cls) && decide (x.pos = o.pos)) = some o := by
  unfold chooseOffer at h
  split at h
  case h_1 => cases h
  case h_2 c hc =>
    obtain ⟨-, hlow⟩ := bestClass_spec hc
    obtain ⟨xs, p, ys, hsplit, hpick, hbefore⟩ := List.findSome?_eq_some_iff.mp h
    have hmem := List.mem_filter.mp (pickRequester_mem hpick)
    obtain ⟨hoff, hwhere⟩ := hmem
    obtain ⟨rfl, rfl⟩ : o.cls = c ∧ o.pos = p := by simpa using hwhere
    refine ⟨hoff, hlow, xs, ys, hsplit, fun q hq x hx hcls hpos => ?_, hpick⟩
    have hnil := pickRequester_none (hbefore q hq)
    have : x ∈ l.offers.filter fun y => decide (y.cls = o.cls) && decide (y.pos = q) :=
      List.mem_filter.mpr ⟨hx, by simp [hcls, hpos]⟩
    rw [hnil] at this
    cases this

/-- Settles O26: class, rotating position and requester of the chosen offer, from `chooseOffer_spec`. -/
theorem arbiterChooses : Obligations.ArbiterChooses := by
  unfold Obligations.ArbiterChooses
  refine fun l => ⟨chooseOffer_some, fun o h => ?_⟩
  obtain ⟨hmem, hlow, xs, ys, hsplit, hbefore, hpick⟩ := chooseOffer_spec h
  refine ⟨hmem, hlow, fun x hx hcls => ⟨Nat.not_lt.mp fun hlt => ?_, fun hpos => ?_⟩⟩
  · exact hbefore x.pos (rotation_before hsplit hlt) x hx hcls rfl
  · have hin : x ∈ l.offers.filter fun y => decide (y.cls = o.cls) && decide (y.pos = o.pos) :=
      List.mem_filter.mpr ⟨hx, by simp [hcls, hpos]⟩
    refine ⟨fun r hr hne => ?_, fun hnone hne => ?_⟩
    · rw [hr] at hpick
      exact pickRequester_turn hpick hin hne
    · rw [hnone] at hpick
      exact pickRequester_first hpick hin hne

/-! ## The block a claim takes -/

/-- The state with the referenced flag of the blocks in `cs` that are neither pinned nor FETCHING cleared. -/
def clearedIn (cs : List BlockNo) (s : State) : State :=
  { s with binding := { s.binding with
    blocks := s.binding.blocks.mapIdx fun c x => if c ∈ cs ∧ reclaimable (blockOf s c) = true then
      { x with referenced := false } else x } }

theorem blockOf_clearedIn (cs : List BlockNo) (c : BlockNo) :
    blockOf (clearedIn cs s) c =
      if c ∈ cs ∧ reclaimable (blockOf s c) = true then { blockOf s c with referenced := false } else blockOf s c := by
  simp [blockOf, clearedIn, Tab.get_mapIdx]

theorem reclaimable_clearedIn (cs : List BlockNo) (c : BlockNo) :
    reclaimable (blockOf (clearedIn cs s) c) = reclaimable (blockOf s c) := by
  rw [blockOf_clearedIn]; split <;> rfl

theorem clearedIn_nil (s : State) : clearedIn [] s = s := by
  have : (s.binding.blocks.mapIdx fun c x => if c ∈ ([] : List BlockNo) ∧ reclaimable (blockOf s c) = true then
      { x with referenced := false } else x) = s.binding.blocks := by
    apply Tab.ext_get; intro i; simp [Tab.get_mapIdx]
  unfold clearedIn
  rw [this]

/-- With nothing to clear nothing is. -/
theorem clearedIn_idle {cs : List BlockNo} (h : ∀ c, reclaimable (blockOf s c) = false) : clearedIn cs s = s := by
  have : (s.binding.blocks.mapIdx fun c x => if c ∈ cs ∧ reclaimable (blockOf s c) = true then
      { x with referenced := false } else x) = s.binding.blocks := by
    apply Tab.ext_get; intro i; simp [Tab.get_mapIdx, h]
  unfold clearedIn
  rw [this]

theorem clearedIn_snoc (cs : List BlockNo) (b : BlockNo) (hb : reclaimable (blockOf s b) = true) :
    modBlock b (fun x => { x with referenced := false }) (clearedIn cs s) = clearedIn (cs ++ [b]) s := by
  have : ((s.binding.blocks.mapIdx fun c x => if c ∈ cs ∧ reclaimable (blockOf s c) = true then
        { x with referenced := false } else x).upd b fun x => { x with referenced := false }) =
      s.binding.blocks.mapIdx fun c x => if c ∈ cs ++ [b] ∧ reclaimable (blockOf s c) = true then
        { x with referenced := false } else x := by
    apply Tab.ext_get
    intro c
    rw [Tab.get_upd, Tab.get_mapIdx, Tab.get_mapIdx]
    by_cases hc : c = b
    · subst hc
      by_cases hm : c ∈ cs <;> simp [hm, hb, Tab.get_mapIdx]
    · simp [hc]
  unfold modBlock
  exact congrArg (fun t => { s with binding := { s.binding with blocks := t } }) this

theorem clearedIn_skip (cs : List BlockNo) (b : BlockNo) (hb : reclaimable (blockOf s b) = false) :
    clearedIn (cs ++ [b]) s = clearedIn cs s := by
  have : (s.binding.blocks.mapIdx fun c x => if c ∈ cs ++ [b] ∧ reclaimable (blockOf s c) = true then
        { x with referenced := false } else x) =
      s.binding.blocks.mapIdx fun c x => if c ∈ cs ∧ reclaimable (blockOf s c) = true then
        { x with referenced := false } else x := by
    apply Tab.ext_get
    intro c
    rw [Tab.get_mapIdx, Tab.get_mapIdx]
    by_cases hc : c = b
    · subst hc; simp [hb]
    · simp [hc]
  exact congrArg (fun t => { s with binding := { s.binding with blocks := t } }) this

/-- R88: the first circle passes over the blocks whose flags are set, clearing them. -/
theorem firstCircle_passes {bs : List BlockNo} (done rest : List BlockNo) (hn : (done ++ bs).Nodup)
    (h : ∀ b ∈ bs, reclaimable (blockOf s b) = true → (blockOf s b).referenced = true) :
    firstCircle (bs ++ rest) (clearedIn done s) = firstCircle rest (clearedIn (done ++ bs) s) := by
  induction bs generalizing done with
  | nil => rw [List.append_nil]; rfl
  | cons b bs ih =>
    have hnd : ((done ++ [b]) ++ bs).Nodup := by simpa using hn
    have ih := ih (done ++ [b]) hnd fun c hc => h c (List.mem_cons_of_mem _ hc)
    have hassoc : done ++ [b] ++ bs = done ++ b :: bs := by simp
    rw [hassoc] at ih
    rw [List.cons_append, firstCircle, reclaimable_clearedIn]
    by_cases hb : reclaimable (blockOf s b) = true
    · have hnot : b ∉ done := fun hd => List.disjoint_of_nodup_append hn hd (List.mem_cons_self ..)
      have href : (blockOf (clearedIn done s) b).referenced = true := by
        rw [blockOf_clearedIn, if_neg fun hc => hnot hc.1]; exact h b (List.mem_cons_self ..) hb
      rw [if_pos hb, if_pos href, clearedIn_snoc done b hb]
      exact ih
    · rw [if_neg hb]
      rw [clearedIn_skip done b (Bool.eq_false_iff.mpr hb)] at ih
      exact ih

/-- R88: going round begins with the block after the reclaim pointer. -/
theorem reclaimOrder_eq : ∀ p : BlockNo, reclaimOrder p = allBlocks.map fun i => p + 1 + i := by decide

theorem reclaimOrder_nodup (p : BlockNo) : (reclaimOrder p).Nodup := by
  rw [reclaimOrder_eq]
  exact List.Nodup.map (fun _ _ h => add_left_cancel h) (by decide)

theorem reclaimOrder_split (p b : BlockNo) :
    reclaimOrder p = (reclaimOrder p).take ((b.val + 15 - p.val) % 16) ++ b ::
      (reclaimOrder p).drop ((b.val + 15 - p.val) % 16 + 1) := by
  have hlen : (reclaimOrder p).length = 16 := by rw [reclaimOrder_eq]; rfl
  have hget : ∀ i : Fin 16, allBlocks[i.val]? = some i := by decide
  have hi : (b.val + 15 - p.val) % 16 < (reclaimOrder p).length := by omega
  have hb : (reclaimOrder p)[(b.val + 15 - p.val) % 16] = b := by
    apply Option.some.inj
    rw [← List.getElem?_eq_getElem hi, reclaimOrder_eq, List.getElem?_map,
      hget ⟨(b.val + 15 - p.val) % 16, by omega⟩]
    simp only [Option.map_some, Option.some.injEq]
    apply Fin.ext
    simp only [Fin.val_add]
    show ((p.val + 1) % 16 + (b.val + 15 - p.val) % 16) % 16 = b.val
    omega
  conv_lhs => rw [← List.take_append_drop ((b.val + 15 - p.val) % 16) (reclaimOrder p), List.drop_eq_getElem_cons hi, hb]

/-- The blocks before b in the round are those nearer to the pointer. -/
theorem mem_take_reclaimOrder (p c : BlockNo) {n : Nat} (hn : n ≤ 16) :
    c ∈ (reclaimOrder p).take n ↔ (c.val + 15 - p.val) % 16 < n := by
  have htake : ∀ (n : Fin 17) (i : Fin 16), i ∈ allBlocks.take n.val ↔ i.val < n.val := by decide
  rw [reclaimOrder_eq, ← List.map_take, List.mem_map]
  constructor
  · rintro ⟨i, hi, rfl⟩
    have hlt := (htake ⟨n, by omega⟩ i).mp hi
    simp only [Fin.val_add] at hlt ⊢
    show ((((p.val + 1) % 16 + i.val) % 16) + 15 - p.val) % 16 < n
    have : i.val < n := hlt
    omega
  · intro hlt
    refine ⟨⟨(c.val + 15 - p.val) % 16, by omega⟩, (htake ⟨n, by omega⟩ _).mpr hlt, ?_⟩
    apply Fin.ext
    simp only [Fin.val_add]
    show ((p.val + 1) % 16 + (c.val + 15 - p.val) % 16) % 16 = c.val
    omega

theorem reclaimable_iff (x : Block) : reclaimable x = true ↔ x.pinned = false ∧ x.state ≠ .fetching := by
  simp [reclaimable]

/-- R88: the state a claim leaves that takes block b after clearing the flags of the first n blocks of the round. -/
theorem setPointer_clearedIn (b : BlockNo) (s : State) {n : Nat} (hn : n ≤ 16) :
    setPointer b (clearedIn ((reclaimOrder s.binding.pointer).take n) s) = { s with binding := { s.binding with
      pointer := b
      blocks := s.binding.blocks.mapIdx fun c x =>
        if ((blockOf s c).pinned = false ∧ (blockOf s c).state ≠ .fetching)
            ∧ (c.val + 15 - s.binding.pointer.val) % 16 < n then { x with referenced := false } else x } } := by
  have : (s.binding.blocks.mapIdx fun c x =>
        if c ∈ (reclaimOrder s.binding.pointer).take n ∧ reclaimable (blockOf s c) = true then
          { x with referenced := false } else x) = s.binding.blocks.mapIdx fun c x =>
        if ((blockOf s c).pinned = false ∧ (blockOf s c).state ≠ .fetching)
            ∧ (c.val + 15 - s.binding.pointer.val) % 16 < n then { x with referenced := false } else x := by
    apply Tab.ext_get
    intro c
    rw [Tab.get_mapIdx, Tab.get_mapIdx]
    simp only [mem_take_reclaimOrder _ _ hn, reclaimable_iff, and_comm]
  exact congrArg (fun t => { s with binding := { s.binding with pointer := b, blocks := t } }) this

theorem find_free_none (h : ∀ b, (blockOf s b).state ≠ .free) :
    (allBlocks.find? fun b => decide ((blockOf s b).state = .free)) = none :=
  List.find?_eq_none.mpr fun b _ => by simpa using h b

/-- R88: with no FREE block the first circle decides. -/
theorem takeBlock_first {b : BlockNo} {t : State} (hfree : ∀ b, (blockOf s b).state ≠ .free)
    (h : firstCircle (reclaimOrder s.binding.pointer) s = (some b, t)) : takeBlock s = (some b, setPointer b t) := by
  simp only [takeBlock, find_free_none hfree, h]

/-- R88: where the first circle takes none, the second takes the first block that may be taken. -/
theorem takeBlock_second {t : State} (hfree : ∀ b, (blockOf s b).state ≠ .free)
    (h : firstCircle (reclaimOrder s.binding.pointer) s = (none, t)) :
    (∀ b, ((reclaimOrder s.binding.pointer).find? fun b => reclaimable (blockOf t b)) = some b →
        takeBlock s = (some b, setPointer b t))
      ∧ (((reclaimOrder s.binding.pointer).find? fun b => reclaimable (blockOf t b)) = none → takeBlock s = (none, t)) := by
  refine ⟨fun b hb => ?_, fun hb => ?_⟩
  · simp only [takeBlock, find_free_none hfree, h, hb]
  · simp only [takeBlock, find_free_none hfree, h, hb]

theorem takeBlock_unreferenced {b : BlockNo} (hfree : ∀ b, (blockOf s b).state ≠ .free)
    (hcan : reclaimable (blockOf s b) = true) (href : (blockOf s b).referenced = false)
    (hbefore : ∀ c, (c.val + 15 - s.binding.pointer.val) % 16 < (b.val + 15 - s.binding.pointer.val) % 16 →
      reclaimable (blockOf s c) = true → (blockOf s c).referenced = true) :
    takeBlock s = (some b, setPointer b (clearedIn
      ((reclaimOrder s.binding.pointer).take ((b.val + 15 - s.binding.pointer.val) % 16)) s)) := by
  have hsplit := reclaimOrder_split s.binding.pointer b
  have hle : (b.val + 15 - s.binding.pointer.val) % 16 ≤ 16 := by omega
  have hnd : (reclaimOrder s.binding.pointer).Nodup := reclaimOrder_nodup _
  have hpass := firstCircle_passes (s := s) (bs := (reclaimOrder s.binding.pointer).take ((b.val + 15 - s.binding.pointer.val) % 16))
    [] (b :: (reclaimOrder s.binding.pointer).drop ((b.val + 15 - s.binding.pointer.val) % 16 + 1))
    (hnd.sublist (List.take_sublist _ _)) (fun c hc => hbefore c ((mem_take_reclaimOrder _ _ hle).mp hc))
  rw [clearedIn_nil, ← hsplit, List.nil_append] at hpass
  have hnot : b ∉ (reclaimOrder s.binding.pointer).take ((b.val + 15 - s.binding.pointer.val) % 16) := by
    rw [mem_take_reclaimOrder _ _ hle]; exact Nat.lt_irrefl _
  have hblock : blockOf (clearedIn ((reclaimOrder s.binding.pointer).take ((b.val + 15 - s.binding.pointer.val) % 16)) s) b =
      blockOf s b := by rw [blockOf_clearedIn, if_neg fun hc => hnot hc.1]
  apply takeBlock_first hfree
  rw [hpass, firstCircle, hblock, if_pos hcan, href]
  rfl

theorem firstCircle_referenced (hall : ∀ c, reclaimable (blockOf s c) = true → (blockOf s c).referenced = true) :
    firstCircle (reclaimOrder s.binding.pointer) s = (none, clearedIn ((reclaimOrder s.binding.pointer).take 16) s) := by
  have hlen : (reclaimOrder s.binding.pointer).length = 16 := by rw [reclaimOrder_eq]; rfl
  have hpass := firstCircle_passes (s := s) (bs := reclaimOrder s.binding.pointer) [] [] (reclaimOrder_nodup _)
    (fun c _ => hall c)
  rw [clearedIn_nil, List.append_nil, List.nil_append] at hpass
  rw [hpass, List.take_of_length_le (by omega)]
  rfl

/-- R88: a FREE block is taken before any other is looked at. -/
theorem takeBlock_free {b : BlockNo} (h : (blockOf s b).state = .free) (hlow : ∀ c, c < b → (blockOf s c).state ≠ .free) :
    takeBlock s = (some b, s) := by
  have hsplit : ∀ b : BlockNo, allBlocks = allBlocks.take b.val ++ b :: allBlocks.drop (b.val + 1) := by decide
  have hbefore : ∀ b : BlockNo, ∀ c ∈ allBlocks.take b.val, c < b := by decide
  have hfind : (allBlocks.find? fun b => decide ((blockOf s b).state = .free)) = some b :=
    List.find?_eq_some_iff_append.mpr ⟨decide_eq_true h, _, _, hsplit b, fun c hc => by simpa using hlow c (hbefore b c hc)⟩
  unfold takeBlock
  rw [hfind]

/-- Settles O59: FREE blocks first, then the circle that clears flags, then the circle over cleared flags. -/
theorem claimTakesABlock : Obligations.ClaimTakesABlock := by
  unfold Obligations.ClaimTakesABlock
  intro s
  dsimp only
  refine ⟨fun b => takeBlock_free, fun hfree => ⟨fun b hcan href hbefore => ?_, fun b hcan hall hfirst => ?_, fun hno => ?_⟩⟩
  · rw [takeBlock_unreferenced hfree ((reclaimable_iff _).mpr hcan) href
      fun c hc hr => hbefore c hc ((reclaimable_iff _).mp hr), setPointer_clearedIn _ _ (by omega)]
  · have hcircle := firstCircle_referenced (s := s) fun c hr => hall c ((reclaimable_iff _).mp hr)
    refine ((takeBlock_second hfree hcircle).1 b ?_).trans (congrArg (some b, ·) (setPointer_clearedIn b s (Nat.le_refl 16)))
    simp only [reclaimable_clearedIn]
    refine List.find?_eq_some_iff_append.mpr ⟨(reclaimable_iff _).mpr hcan, _, _,
      reclaimOrder_split s.binding.pointer b, fun c hc => ?_⟩
    have := mt (reclaimable_iff _).mp (hfirst c ((mem_take_reclaimOrder _ _ (by omega)).mp hc))
    simpa using this
  · have hr : ∀ c, reclaimable (blockOf s c) = false := fun c =>
      Bool.eq_false_iff.mpr (mt (reclaimable_iff _).mp (hno c))
    have hcircle := firstCircle_referenced (s := s) fun c h => absurd h (by simp [hr c])
    rw [clearedIn_idle hr] at hcircle
    exact (takeBlock_second hfree hcircle).2 (List.find?_eq_none.mpr fun c _ => by simp [hr c])

end Sys2Proof.Machine
end

section
/-!
The requests that write the tables and the requests of the Sequence Unit.
-/
namespace Sys2Proof.Machine

variable {s : State}

/-! ## Policy, timebases, faults and activity flags -/

theorem rescanAll_idle (h : ∀ p, inService s p = false) : rescanAll s = s := by
  have hfold : ∀ ps : List Pos, ps.foldl (fun s p => rescan p s) s = s := by
    intro ps
    induction ps with
    | nil => rfl
    | cons p ps ih =>
      have : rescan p s = s := if_neg (by rw [h p]; decide)
      rw [List.foldl_cons, this]; exact ih
  exact hfold allPos

theorem reformWhere_noOffers (f : Offer → Bool) (h : s.line.offers = []) : reformWhere f s = s := by
  unfold reformWhere
  rw [h]; rfl

/-- R99, R103: a write of the Policy Table with no position in service and no offer standing clears the latches alone. -/
theorem takePolicyWrite_idle (hs : ∀ p, inService s p = false) (ho : s.line.offers = []) :
    takePolicyWrite s = modDelivery (fun d => { d with status := d.status.map fun t => t.map fun e =>
      { e with refusalLatch := false, readLatch := false } }) s := by
  unfold takePolicyWrite
  rw [reformWhere_noOffers (s := modDelivery _ s) _ ho]
  exact rescanAll_idle (s := modDelivery _ s) hs

theorem entryOf_modDelivery_map (g : StatusEntry → StatusEntry) (s : State) (p : Pos) (f : Code) :
    entryOf (modDelivery (fun d => { d with status := d.status.map fun t => t.map g }) s) p f = g (entryOf s p f) := by
  simp [entryOf, modDelivery, Tab.get_map]

theorem argPosition_none {n : Nat} (h : 4 < n) : activityPositions n = none := by
  have h0 : ¬ n = 0 := by omega
  unfold activityPositions indexPos
  rw [if_neg h0, dif_neg (by omega)]
  rfl

theorem tbOf_none {n : Nat} (h : 2 ≤ n) : tbOf n = none := by
  unfold tbOf
  split
  case h_3 => rfl
  all_goals omega

theorem writePolicy_ok {r : Request} {rest : List Request} {c d : Fin 8} (hn : s.notices = []) (hs : s.Serving 4 r rest)
    (hl : 3 ≤ r.args.length) (hc : argByte r.args 0 = c.val) (hd : argByte r.args 1 = d.val)
    (hidle : ∀ p, inService s p = false) (ho : s.line.offers = []) :
    exec .writePolicy s = .next (modDelivery (fun d => { d with status := d.status.map fun t => t.map fun e =>
        { e with refusalLatch := false, readLatch := false } })
      (State.replied (putPolicy c d (BitVec.ofNat 6 (argByte r.args 2)) s) r rest .ok [])) := by
  refine congrArg Host.Outcome.next ((congrArg settle (serve_eq hs hl _)).trans ?_)
  rw [argClass_eq hc, argClass_eq hd]
  have hans : answer .ok [] (putPolicy c d (BitVec.ofNat 6 (argByte r.args 2)) s) =
      State.replied (putPolicy c d (BitVec.ofNat 6 (argByte r.args 2)) s) r rest .ok [] := hs.answer_in .ok []
  show settle (takePolicyWrite (answer .ok [] (putPolicy c d (BitVec.ofNat 6 (argByte r.args 2)) s))) = _
  rw [hans, takePolicyWrite_idle (s := State.replied (putPolicy c d (BitVec.ofNat 6 (argByte r.args 2)) s) r rest .ok [])
    hidle ho]
  exact settle_eq hn

/-- R92: the activity flags of some positions cleared. -/
theorem clearActivity_entry (ps : List Pos) (s : State) :
    ∃ st, ps.foldl (fun s p => clearActivityOf p s) s = { s with delivery := { s.delivery with status := st } }
      ∧ ∀ p f, (st.get p).get f =
        if p ∈ ps then { entryOf s p f with driven := false, read := false, changed := false } else entryOf s p f := by
  induction ps generalizing s with
  | nil => exact ⟨s.delivery.status, rfl, fun p f => (if_neg (by simp)).symm⟩
  | cons q qs ih =>
    obtain ⟨st, hst, hget⟩ := ih (clearActivityOf q s)
    refine ⟨st, by rw [List.foldl_cons, hst]; rfl, fun p f => ?_⟩
    have hent : entryOf (clearActivityOf q s) p f =
        if p = q then { entryOf s p f with driven := false, read := false, changed := false } else entryOf s p f := by
      unfold clearActivityOf entryOf modDelivery
      simp only [Tab.get_upd]
      by_cases h : p = q
      · subst h; simp [Tab.get_map]
      · simp [h]
    rw [hget, hent]
    by_cases h : p = q <;> by_cases hm : p ∈ qs <;> simp [h, hm]

theorem clearActivity_cases {r : Request} {rest : List Request} (hs : s.Serving 13 r rest) (hl : 1 ≤ r.args.length) :
    (argByte r.args 0 ≤ 4 → ∃ t, exec .clearActivity s = .next t
        ∧ t = State.replied { s with delivery := { s.delivery with status := t.delivery.status } } r rest .ok []
        ∧ ∀ p f, entryOf t p f =
          if argByte r.args 0 = 0 ∨ argByte r.args 0 = p.val + 1 then
            { entryOf s p f with driven := false, read := false, changed := false }
          else entryOf s p f)
      ∧ (4 < argByte r.args 0 → exec .clearActivity s = .next (s.replied r rest .badArg [])) := by
  have hexec : ∀ ps, activityPositions (argByte r.args 0) = some ps → exec .clearActivity s =
      .next (State.replied (ps.foldl (fun s p => clearActivityOf p s) s) r rest .ok []) := by
    intro ps hps
    obtain ⟨st, hst, -⟩ := clearActivity_entry ps s
    refine congrArg Host.Outcome.next ((serve_eq hs hl _).trans ?_)
    rw [hps]
    show answer .ok [] (ps.foldl (fun s p => clearActivityOf p s) s) = _
    rw [hst]
    exact hs.answer_in .ok []
  refine ⟨fun h4 => ?_, fun h4 => ?_⟩
  · have hps : ∃ ps, activityPositions (argByte r.args 0) = some ps ∧
        ∀ p : Pos, p ∈ ps ↔ argByte r.args 0 = 0 ∨ argByte r.args 0 = p.val + 1 := by
      generalize argByte r.args 0 = n at h4
      interval_cases n
      · exact ⟨_, rfl, by decide⟩
      · exact ⟨[0], rfl, by decide⟩
      · exact ⟨[1], rfl, by decide⟩
      · exact ⟨[2], rfl, by decide⟩
      · exact ⟨[3], rfl, by decide⟩
    obtain ⟨ps, hps, hmem⟩ := hps
    obtain ⟨st, hst, hget⟩ := clearActivity_entry ps s
    refine ⟨_, (hexec ps hps).trans (congrArg (fun x => Host.Outcome.next (State.replied x r rest .ok [])) hst), rfl,
      fun p f => (hget p f).trans ?_⟩
    simp only [hmem p]
  · refine congrArg Host.Outcome.next ((serve_eq hs hl _).trans ?_)
    rw [argPosition_none h4]
    exact hs.answer .badArg []

/-- Settles O49: each write replaces what it names, or is answered BAD-ARG. -/
theorem tablesAreWritten : Obligations.TablesAreWritten := by
  unfold Obligations.TablesAreWritten
  intro s r rest hn
  dsimp only
  refine ⟨fun hs hl => ⟨fun c d hc hd hidle ho => ?_, fun hcd => ?_⟩, fun hs hl => ⟨fun x hx => ?_, fun hx => ?_⟩,
    fun hs => ?_, fun hs hl => clearActivity_cases hs hl⟩
  · exact ⟨_, writePolicy_ok hn hs hl hc hd hidle ho, rfl, fun p f => entryOf_modDelivery_map _ _ p f⟩
  · refine congrArg Host.Outcome.next ((congrArg settle (serve_eq hs hl _)).trans ?_)
    have hans : settle (answer .badArg [] s) = s.replied r rest .badArg [] := by
      rw [hs.answer]; exact settle_eq hn
    rcases hcd with h | h
    · rw [argClass_none h]; exact hans
    · rw [argClass_none h]
      cases argClass r.args 0 <;> exact hans
  · refine congrArg Host.Outcome.next ((serve_eq hs hl _).trans ?_)
    rw [hx]
    have hclamp : ∀ n, clamp Config.periodMin Config.periodMax n = max 999 (min 19999 n) := fun n => by
      have hlo : Config.periodMin = 999 := rfl
      have hhi : Config.periodMax = 19999 := rfl
      unfold clamp
      split_ifs <;> omega
    show answer .ok [] (modTimebase x (fun b =>
      { b with pending := some (clamp Config.periodMin Config.periodMax (argWord r.args 1)) }) s) = _
    rw [hclamp]
    cases x <;> exact hs.answer_in .ok []
  · refine congrArg Host.Outcome.next ((serve_eq hs hl _).trans ?_)
    rw [tbOf_none hx]
    exact hs.answer .badArg []
  · refine congrArg Host.Outcome.next ((serve_eq hs (Nat.zero_le _) _).trans ?_)
    rw [← List.drop_one]
    exact hs.answer_in .ok []

/-! ## Sequences -/

/-- R169: what a START-SEQUENCE asks for lies in range. -/
theorem seqInRange_iff (q : SeqRequest) : seqInRange q = true ↔
    1 ≤ q.count ∧ q.count ≤ 64 ∧ q.addr ≤ seqLast q.op ∧ (q.mode ≠ .walk → q.addr + q.count - 1 ≤ seqLast q.op)
      ∧ (q.mode = .repeatUntilReady → 10 ≤ q.timeout ∧ q.timeout ≤ 60000) := by
  simp only [seqInRange, Bool.and_eq_true, Bool.or_eq_true, decide_eq_true_eq, ne_eq]
  constructor
  · rintro ⟨⟨⟨⟨h1, h2⟩, h3⟩, h4⟩, h5⟩
    exact ⟨h1, h2, h3, fun hw => h4.resolve_left hw, fun hr => h5.resolve_left fun hn => hn hr⟩
  · rintro ⟨h1, h2, h3, h4, h5⟩
    exact ⟨⟨⟨⟨h1, h2⟩, h3⟩, Decidable.or_iff_not_imp_left.mpr h4⟩,
      Decidable.or_iff_not_imp_left.mpr fun hr => h5 (Decidable.not_not.mp hr)⟩

theorem seqRunning_iff : seqRunning s = true ↔ s.sequence.state = .running := decide_eq_true_iff

theorem startSequence_exec {r : Request} {rest : List Request} (hs : s.Serving 17 r rest) (hl : 6 ≤ r.args.length) :
    (seqRequest r.args = none → exec .startSequence s = .next (settle (answer .badArg [] s)))
      ∧ ∀ q, seqRequest r.args = some q → exec .startSequence s = .next (settle
        (if seqInRange q = false then answer .badArg [] s
          else if seqRunning s then answer .busy [] s
          else if inService s q.pos = false then answer .notReady [] s
          else beginSequence q (answer .ok [] s))) := by
  refine ⟨fun hq => ?_, fun q hq => ?_⟩
  all_goals
    refine congrArg (fun x => Host.Outcome.next (settle x)) ((serve_eq hs hl _).trans ?_)
    rw [hq]

/-- R169: a sequence begins with its first item offered. -/
theorem beginSequence_eq (q : SeqRequest) (s : State) :
    beginSequence q s = makeOffer
      { requester := .sequenceUnit, cls := 6, pos := linePos q.pos, op := seqLineOp q.op, addr := some q.addr,
        data := none, why := .sequenceItem q.pos q.addr (s.sequence.run + 1) }
      { s with sequence :=
        { state := .running, endCode := none, op := some q.op, mode := some q.mode, count := some q.count,
          timeout := if q.mode = .repeatUntilReady then some q.timeout else none, pos := some q.pos,
          addr := some q.addr, itemStart := some s.now, repeatAt := none, buffer := [], run := s.sequence.run + 1 } } := rfl

theorem settle_answer {code : Nat} {r : Request} {rest : List Request} (hn : s.notices = []) (hs : s.Serving code r rest)
    (x : ResultCode) : settle (answer x [] s) = s.replied r rest x [] := by
  rw [hs.answer]; exact settle_eq hn

/-- R172: an ended sequence has no offer standing. -/
theorem endSequence_eq (c : SeqEnd) (s : State) : endSequence c s = { s with
    sequence := { s.sequence with state := .ended, endCode := some c, repeatAt := none }
    line := { s.line with offers := s.line.offers.filter fun o => decide (o.requester ≠ .sequenceUnit) } } := by
  unfold endSequence withdrawWhere setOffers modSeq
  simp only [decide_not]

/-- Settles O56: the rows of START-SEQUENCE in their order, and ABORT-SEQUENCE. -/
theorem sequencesStartAndAbort : Obligations.SequencesStartAndAbort := by
  unfold Obligations.SequencesStartAndAbort
  intro s r rest hq
  refine ⟨fun hs hl => ?_, fun hs => ⟨fun hrun => ?_, fun hrun => ?_⟩⟩
  · obtain ⟨hnone, hsome⟩ := startSequence_exec hs hl
    refine ⟨fun h => (hnone h).trans (congrArg _ (settle_answer hq.notices hs _)), fun q hqr => ?_⟩
    have hexec := hsome q hqr
    dsimp only
    rw [← seqInRange_iff]
    refine ⟨fun hf => hexec.trans (congrArg _ ?_), fun hf hrun => hexec.trans (congrArg _ ?_),
      fun hf hrun hsv => hexec.trans (congrArg _ ?_), fun hf hrun hsv => hexec.trans (congrArg _ ?_)⟩
    · rw [if_pos (Bool.eq_false_iff.mpr hf)]; exact settle_answer hq.notices hs _
    · rw [if_neg (by rw [hf]; decide), if_pos (seqRunning_iff.mpr hrun)]; exact settle_answer hq.notices hs _
    · rw [if_neg (by rw [hf]; decide), if_neg (mt seqRunning_iff.mp hrun), if_pos hsv]
      exact settle_answer hq.notices hs _
    · rw [if_neg (by rw [hf]; decide), if_neg (mt seqRunning_iff.mp hrun), if_neg (by rw [hsv]; decide),
        hs.answer, beginSequence_eq]
      obtain ⟨-, -, haddr, -, -⟩ := (seqInRange_iff q).mp hf
      exact settle_makeOffer (sequenceOffer_valid haddr q.pos _) rfl hq.idle hq.notices
  · refine congrArg Host.Outcome.next ((serve_eq hs (Nat.zero_le _) _).trans ?_)
    rw [if_neg (mt seqRunning_iff.mp hrun)]
    exact hs.answer .ok []
  · refine congrArg Host.Outcome.next ((serve_eq hs (Nat.zero_le _) _).trans ?_)
    rw [if_pos (seqRunning_iff.mpr hrun), endSequence_eq]
    exact hs.answer_in .ok []

end Sys2Proof.Machine
end

section
/-!
What acting on a list of notices leaves, and three lists of notices that many commands hand on: results to be written, the
looks for something to offer where nothing is due, and the end of a circuit's check in the exercise slot.
-/
namespace Sys2Proof.Machine

variable {s t u : State}

/-! ## Acting on notices -/

/-- Acting on the notices `ns` in state `s`, and on what they hand on, takes at most `k` notices and leaves `t`. -/
def Acts (k : Nat) (ns : List Notice) (s t : State) : Prop :=
  ∀ (n : Nat) (rest : List Notice), ∃ m, n ≤ m ∧ drain (n + k) (ns ++ rest) s = drain m rest t

theorem emitAll_nil (s : State) : emitAll [] s = s := by
  unfold emitAll; rw [List.append_nil]

theorem emitAll_emitAll (xs ys : List Notice) (s : State) : emitAll ys (emitAll xs s) = emitAll (xs ++ ys) s := by
  unfold emitAll; rw [← List.append_assoc]

theorem emit_eq (x : Notice) (s : State) : emit x s = emitAll [x] s := rfl

theorem Acts.nil (s : State) : Acts 0 [] s s := fun n _ => ⟨n, Nat.le_refl n, rfl⟩

theorem Acts.append {k l : Nat} {ns ms : List Notice} (h : Acts k ns s t) (h' : Acts l ms t u) :
    Acts (k + l) (ns ++ ms) s u := by
  intro n rest
  obtain ⟨m, hm, he⟩ := h (n + l) (ms ++ rest)
  obtain ⟨m', hm', he'⟩ := h' (m - l) rest
  have hk : n + (k + l) = n + l + k := by omega
  have hl : m - l + l = m := by omega
  refine ⟨m', by omega, ?_⟩
  rw [hk, List.append_assoc, he, ← hl, he']

theorem Acts.mono {k l : Nat} {ns : List Notice} (h : Acts k ns s t) (hk : k ≤ l) : Acts l ns s t := by
  intro n rest
  obtain ⟨m, hm, he⟩ := h (n + (l - k)) rest
  refine ⟨m, by omega, ?_⟩
  rw [← he]
  congr 1
  omega

/-- A notice that hands on others. -/
theorem Acts.run {k : Nat} {x : Notice} {ns : List Notice} (hs : s.notices = []) (hx : runNotice x s = emitAll ns t)
    (ht : t.notices = []) (h : Acts k ns t u) : Acts (k + 1) [x] s u := by
  have e : { s with notices := [] } = s := by cases s; simp_all
  have e' : { emitAll ns t with notices := [] } = t := by cases t; simp_all [emitAll]
  have e'' : (emitAll ns t).notices = ns := by simp [emitAll, ht]
  intro n rest
  obtain ⟨m, hm, he⟩ := h n rest
  refine ⟨m, hm, ?_⟩
  rw [← he]
  show drain (n + k + 1) (x :: rest) s = _
  rw [drain_cons, e, hx, e', e'']

/-- A notice that hands on nothing. -/
theorem Acts.silent {x : Notice} (hs : s.notices = []) (hx : runNotice x s = t) (ht : t.notices = []) : Acts 1 [x] s t :=
  Acts.run hs (hx.trans (emitAll_nil t).symm) ht (Acts.nil t)

theorem Acts.cons {k l : Nat} {x : Notice} {ns : List Notice} (h : Acts k [x] s t) (h' : Acts l ns t u) :
    Acts (k + l) (x :: ns) s u := h.append h'

theorem drain_empty (n : Nat) (s : State) : drain n [] s = s := by
  cases n with
  | zero => show { s with notices := s.notices ++ [] } = s; rw [List.append_nil]
  | succ n => rfl

/-- A command that hands on the notices `ns` leaves what acting on them leaves. -/
theorem Acts.settle {k : Nat} {ns : List Notice} (h : Acts k ns s t) (hs : s.notices = []) (hk : k ≤ 100000) :
    Machine.settle (emitAll ns s) = t := by
  rw [settle_emitAll ns hs]
  obtain ⟨n, hn⟩ := Nat.exists_eq_add_of_le' hk
  obtain ⟨m, -, he⟩ := h n []
  rw [List.append_nil, drain_empty] at he
  rw [← he, ← hn]
  rfl

/-- Notices that each do their own work, one after the other, in states that keep to `P`. -/
theorem Acts.foldl {α : Type} {k : Nat} (P : State → Prop) (N : α → List Notice) (F : State → α → State) (xs : List α)
    (h : ∀ x ∈ xs, ∀ s, P s → Acts k (N x) s (F s x) ∧ P (F s x)) (hs : P s) :
    Acts (k * xs.length) (xs.flatMap N) s (xs.foldl F s) ∧ P (xs.foldl F s) := by
  induction xs generalizing s with
  | nil => exact ⟨Acts.nil s, hs⟩
  | cons x xs ih =>
    obtain ⟨hx, hp⟩ := h x (List.mem_cons_self ..) s hs
    obtain ⟨hxs, hp'⟩ := ih (fun y hy => h y (List.mem_cons_of_mem _ hy)) hp
    refine ⟨(hx.append hxs).mono ?_, hp'⟩
    rw [List.length_cons, Nat.mul_succ, Nat.add_comm]

/-! ## Results written -/

/-- The state differs from the other in Position Status entries and in the Tractor Port alone. -/
def Marked (a b : State) : Prop := ∃ st pt, a = { b with delivery := { b.delivery with status := st }, port := pt }

theorem Marked.refl (s : State) : Marked s s := ⟨s.delivery.status, s.port, rfl⟩

theorem Marked.trans (h : Marked s t) (h' : Marked t u) : Marked s u := by
  obtain ⟨st, pt, rfl⟩ := h
  obtain ⟨st', pt', rfl⟩ := h'
  exact ⟨st, pt, rfl⟩

theorem Marked.notices (h : Marked s t) : s.notices = t.notices := by obtain ⟨st, pt, rfl⟩ := h; rfl
theorem Marked.stateOf (h : Marked s t) (p : Pos) : Machine.stateOf s p = Machine.stateOf t p := by
  obtain ⟨st, pt, rfl⟩ := h; rfl
theorem Marked.check (h : Marked s t) : s.check = t.check := by obtain ⟨st, pt, rfl⟩ := h; rfl
theorem Marked.policy (h : Marked s t) : s.policy = t.policy := by obtain ⟨st, pt, rfl⟩ := h; rfl

theorem placeStatus_port (k : FrameKey) (id : Nat) (data : List Byte) (s : State) :
    ∃ pt, placeStatus k id data s = { s with port := pt } := by
  unfold placeStatus
  split
  · exact ⟨_, rfl⟩
  · split
    · exact ⟨_, rfl⟩
    · exact ⟨_, rfl⟩

/-- R199: placing a RESULT frame shows in the Tractor Port alone. -/
theorem placeResultFrame_port (p : Pos) (g : Group) (half : Bool) (s : State) :
    ∃ pt, placeResultFrame p g half s = { s with port := pt } := by
  unfold placeResultFrame
  split
  · obtain ⟨pt, hpt⟩ := placeStatus_port (.result p g half) (statusFrameId s 1) (resultData s p g half) s
    rw [hpt]
    unfold noteRefresh
    split
    · exact ⟨_, rfl⟩
    · exact ⟨pt, rfl⟩
  · exact ⟨_, rfl⟩

theorem resulting_marked (p : Pos) (f : Code) (r : CheckResult) (s : State) : Marked (State.resulting p f r s) s := by
  unfold State.resulting
  split
  · exact Marked.refl s
  · obtain ⟨pt, hpt⟩ := placeResultFrame_port p (groupOf f) (halfOf f) (modEntry p f (fun x => { x with result := r }) s)
    rw [hpt]
    exact ⟨_, pt, rfl⟩

theorem writeResult_eq (p : Pos) (f : Code) (r : CheckResult) (hv : stateOf s p ≠ .vacant) :
    writeResult p f r s = if (entryOf s p f).result = r then s
      else emitAll [.exitTest p, .placeResult p f] (modEntry p f (fun x => { x with result := r }) s) := by
  have hd : resultDiffers s p f r = decide ((entryOf s p f).result ≠ r) := by simp [resultDiffers, isVacant, hv]
  unfold writeResult
  rw [hd]
  by_cases h : (entryOf s p f).result = r
  · rw [if_pos h]; exact if_neg (by simpa using h)
  · rw [if_neg h]; exact if_pos (by simpa using h)

theorem exitTest_calm_state {p : Pos} (h : stateOf s p ≠ .exercising) : exitTest p s = s := by
  unfold exitTest exercising
  rw [decide_eq_false h]; rfl

/-- R92, R199: a result written to a position that is neither VACANT nor EXERCISING. -/
theorem acts_writeResult {p : Pos} (f : Code) (r : CheckResult) (hn : s.notices = []) (hv : stateOf s p ≠ .vacant)
    (he : stateOf s p ≠ .exercising) : Acts 3 [.writeResult p f r] s (State.resulting p f r s) := by
  by_cases h : (entryOf s p f).result = r
  · refine Acts.mono (Acts.silent hn ?_ ?_) (by decide)
    · show writeResult p f r s = _
      rw [writeResult_eq p f r hv, if_pos h, State.resulting, if_pos h]
    · rw [State.resulting, if_pos h]; exact hn
  · have hres : State.resulting p f r s =
        placeResultFrame p (groupOf f) (halfOf f) (modEntry p f (fun x => { x with result := r }) s) := by
      rw [State.resulting, if_neg h]
    refine Acts.run (ns := [.exitTest p, .placeResult p f]) (t := modEntry p f (fun x => { x with result := r }) s) hn ?_ hn ?_
    · show writeResult p f r s = _
      rw [writeResult_eq p f r hv, if_neg h]
    · refine Acts.cons (k := 1) (l := 1)
        (Acts.silent hn (exitTest_calm_state (s := modEntry p f (fun x => { x with result := r }) s) he) hn)
        (Acts.silent hn hres.symm ((resulting_marked p f r s).notices.trans hn))

/-- The results in `ws`, by position, function and result, written in order. -/
abbrev writing (ws : List (Pos × Code × CheckResult)) (s : State) : State :=
  ws.foldl (fun t w => State.resulting w.1 w.2.1 w.2.2 t) s

theorem writing_marked (ws : List (Pos × Code × CheckResult)) (s : State) : Marked (writing ws s) s := by
  induction ws generalizing s with
  | nil => exact Marked.refl s
  | cons w ws ih => exact (ih _).trans (resulting_marked _ _ _ _)

theorem acts_writing {ws : List (Pos × Code × CheckResult)} (hn : s.notices = [])
    (h : ∀ w ∈ ws, stateOf s w.1 ≠ .vacant ∧ stateOf s w.1 ≠ .exercising) :
    Acts (3 * ws.length) (ws.map fun w => .writeResult w.1 w.2.1 w.2.2) s (writing ws s) := by
  have hfold := (Acts.foldl (k := 3) (s := s) (fun t => Marked t s) (fun w => [Notice.writeResult w.1 w.2.1 w.2.2])
    (fun t w => State.resulting w.1 w.2.1 w.2.2 t) ws (fun w hw t ht => ⟨?_, (resulting_marked _ _ _ _).trans ht⟩)
    (Marked.refl s)).1
  · rwa [← List.map_eq_flatMap] at hfold
  · obtain ⟨hv, he⟩ := h w hw
    exact acts_writeResult _ _ (ht.notices.trans hn) (by rw [ht.stateOf]; exact hv) (by rw [ht.stateOf]; exact he)

/-- R139, R140: the results that the outcome o of circuit k gives. -/
def outcomeResults (s : State) (k : LineNo) (o : CheckOutcome) : List (Pos × Code × CheckResult) :=
  ((circuitRec s k).contributors.map fun c => (c.pos, c.code, classResult o.cls (decide (o.named = some (c.pos, c.code)))))
    ++ (if stateOf s 0 = .wired ∧ (circuitRec s k).contributors = [] then
          ((wiredOf s k).code.map fun f => ((0 : Pos), f, classResult o.cls false)).toList else [])

theorem reporting_eq (k : LineNo) (o : CheckOutcome) (s : State) : s.reporting k o = writing (outcomeResults s k o) s := rfl

theorem outcomeWrites_eq (s : State) (k : LineNo) (o : CheckOutcome) :
    outcomeWrites s k o = (outcomeResults s k o).map fun w => .writeResult w.1 w.2.1 w.2.2 := by
  have hp : presenceOnly s k = decide (stateOf s 0 = .wired ∧ (circuitRec s k).contributors = []) := by
    unfold presenceOnly
    cases h : (circuitRec s k).contributors <;> simp
  unfold outcomeWrites outcomeResults
  rw [hp, List.map_append, List.map_map]
  by_cases h : stateOf s 0 = .wired ∧ (circuitRec s k).contributors = []
  · rw [if_pos h, if_pos (decide_eq_true h)]
    cases (wiredOf s k).code <;> rfl
  · rw [if_neg h, if_neg (by simpa using h)]
    rfl

/-- R139: what a result of circuit k shows in is its Position Status entry and its RESULT frame. -/
theorem acts_outcome {k : LineNo} (o : CheckOutcome) (hn : s.notices = []) (hcalm : ∀ p, stateOf s p ≠ .exercising)
    (hlen : (circuitRec s k).contributors.length ≤ 16)
    (hocc : ∀ c ∈ (circuitRec s k).contributors, stateOf s c.pos ≠ .vacant) :
    Acts 51 (outcomeWrites s k o) s (s.reporting k o) := by
  have hall : ∀ w ∈ outcomeResults s k o, stateOf s w.1 ≠ .vacant ∧ stateOf s w.1 ≠ .exercising := by
    intro w hw
    refine ⟨?_, hcalm _⟩
    rcases List.mem_append.mp hw with hw | hw
    · obtain ⟨c, hc, rfl⟩ := List.mem_map.mp hw
      exact hocc c hc
    · by_cases hp : stateOf s 0 = .wired ∧ (circuitRec s k).contributors = []
      · rw [if_pos hp] at hw
        obtain ⟨f, -, rfl⟩ := Option.map_eq_some_iff.mp (Option.mem_toList.mp hw)
        show stateOf s 0 ≠ .vacant
        rw [hp.1]; decide
      · rw [if_neg hp] at hw; cases hw
  have hlength : (outcomeResults s k o).length ≤ 17 := by
    unfold outcomeResults
    rw [List.length_append, List.length_map]
    have : (if stateOf s 0 = .wired ∧ (circuitRec s k).contributors = [] then
        ((wiredOf s k).code.map fun f => ((0 : Pos), f, classResult o.cls false)).toList else []).length ≤ 1 := by
      split
      · cases (wiredOf s k).code <;> simp
      · simp
    omega
  rw [outcomeWrites_eq, reporting_eq]
  exact (acts_writing hn hall).mono (by omega)

theorem reporting_marked (k : LineNo) (o : CheckOutcome) (s : State) : Marked (s.reporting k o) s := writing_marked _ _

/-! ## Looking again where nothing is due -/

/-- The notices that tell the Delivery Unit to look again for every position in service. -/
def restNotices (s : State) : List Notice := allPos.flatMap fun p => if inService s p then holdNotices p else []

theorem rescan_emitAll (p : Pos) (ns : List Notice) (s : State) :
    rescan p (emitAll ns s) = emitAll (ns ++ if inService s p then holdNotices p else []) s := by
  have hin : inService (emitAll ns s) p = inService s p := rfl
  unfold rescan
  rw [hin]
  split
  · exact emitAll_emitAll _ _ _
  · rw [List.append_nil]

theorem rescanAll_eq (s : State) : rescanAll s = emitAll (restNotices s) s := by
  have hfold : ∀ (ps : List Pos) (ns : List Notice), ps.foldl (fun s p => rescan p s) (emitAll ns s) =
      emitAll (ns ++ ps.flatMap fun p => if inService s p then holdNotices p else []) s := by
    intro ps
    induction ps with
    | nil => intro ns; simp
    | cons p ps ih =>
      intro ns
      rw [List.foldl_cons, rescan_emitAll, ih, List.flatMap_cons, List.append_assoc]
  have := hfold allPos []
  rwa [emitAll_nil] at this

/-- R96, R151: with nothing due at p, being told to look again changes nothing. -/
theorem acts_holdNotices {p : Pos} (hn : s.notices = []) (hs : inService s p = true) (h : s.AtRest p) :
    Acts 3 (holdNotices p) s s :=
  Acts.cons (k := 1) (l := 2) (Acts.silent hn (scan_atRest h hs false) hn)
    (Acts.cons (k := 1) (l := 1) (Acts.silent hn (scan_atRest h hs true) hn)
      (Acts.silent hn (classSix_noReads h.reads hs) hn))

theorem acts_restNotices (hn : s.notices = []) (h : s.Resting) : Acts 12 (restNotices s) s s := by
  have hfold := (Acts.foldl (k := 3) (s := s) (fun t => t = s) (fun p => if inService s p then holdNotices p else [])
    (fun t _ => t) allPos (fun p _ t ht => ⟨?_, ht⟩) rfl).1
  · have hconst : allPos.foldl (fun t (_ : Pos) => t) s = s := rfl
    rw [hconst] at hfold
    exact hfold
  · subst ht
    split
    · rename_i hs; exact acts_holdNotices hn hs (h p hs)
    · exact (Acts.nil t).mono (by decide)

/-- R147: a closing window that covers nothing has the Delivery Unit look again. -/
theorem takeWindow_nil (opening : Bool) (s : State) : takeWindow opening [] s = emitAll (restNotices s) s := by
  have hno : s.line.offers.filter (deliversOneOf []) = [] := by
    rw [List.filter_eq_nil_iff]
    intro o _
    unfold deliversOneOf
    split <;> simp
  have hreform : reformWhere (deliversOneOf []) s = s := by
    unfold reformWhere
    rw [hno]; rfl
  show rescanAll (reformWhere (deliversOneOf []) s) = _
  rw [hreform, rescanAll_eq]

/-! ## The end of a circuit's check in the slot -/

theorem codeLevel_eq (s : State) (f : Option Code) : codeLevel s f = (f.map fun f => (commandOf s f).value).getD 0 := by
  cases f <;> rfl

theorem closedLine_eq (k : LineNo) (s : State) (x : Line) :
    ({ x with
        exercise := false
        pendingOn := if x.hold.isSome then x.pendingOn
          else pitched (setSlot none s) k (timebase (setSlot none s) x.tb).period { x with exercise := false } } : Line) =
      if x.hold.isSome then { x with exercise := false }
      else { x with
        exercise := false
        pendingOn := onCountOf (((wiredOf s k).code.map fun f => (commandOf s f).value).getD 0) (timebase s x.tb).period
          (wiredOf s k).comp s.settings.vref s.direct.supply } := by
  have hlevel : pitched (setSlot none s) k (timebase (setSlot none s) x.tb).period { x with exercise := false } =
      onCountOf (((wiredOf s k).code.map fun f => (commandOf s f).value).getD 0) (timebase s x.tb).period (wiredOf s k).comp
        s.settings.vref s.direct.supply := by
    rw [← codeLevel_eq]
    cases x.tb <;> rfl
  rw [hlevel]
  by_cases h : x.hold.isSome = true
  · rw [if_pos h, if_pos h]
  · rw [if_neg h, if_neg h]

/-- R121, R147: the exercise flag cleared, and but in HOLD the pending on-count that of the level beneath. -/
theorem closeLineWindow_eq (k : LineNo) (s : State) :
    closeLineWindow k (setSlot none s) = State.slotFreed k true s := by
  unfold closeLineWindow
  rw [modLine_eq, recompute_setLines, Tab.upd_upd]
  refine congrArg (fun l => setLines l (setSlot none s)) (Tab.upd_congr _ _ ((closedLine_eq k s _).trans ?_))
  exact (if_neg (by decide)).symm

theorem slotFreed_driven (k : LineNo) (s : State) : State.slotFreed k false s = setSlot none s := by
  have : (setSlot none s).direct.lines.upd k (fun l => l) = (setSlot none s).direct.lines := Tab.upd_eq_self _ _ rfl
  exact congrArg (fun l => setLines l (setSlot none s)) this

theorem slotFreed_notices (k : LineNo) (w : Bool) (s : State) : (State.slotFreed k w s).notices = s.notices := rfl

/-- R147: with no check of its target in the slot the end of one changes nothing. -/
theorem slotEnded_none {k : Target} (h : s.check.slot = none) : slotEnded k s = s := by
  unfold slotEnded; rw [h]

theorem slotTest_noQueue (h : s.check.queue = []) : slotTest s = s := by
  unfold slotTest
  split
  · rw [h]
  · rfl

/-- R147: the check of a circuit in the slot ends, no entry waiting behind it. -/
theorem acts_slotEnded {k : LineNo} {sl : Slot} (hn : s.notices = []) (hsl : s.check.slot = some sl)
    (ht : sl.entry.target = .circuit k) (hq : s.check.queue = [])
    (hw : sl.window = true → (circuitRec s k).contributors = [] ∧ (State.slotFreed k sl.window s).Resting) :
    Acts 15 [.slotEnded (.circuit k)] s (State.slotFreed k sl.window s) := by
  have hend : slotEnded (.circuit k) s = endSlot s := by
    unfold slotEnded
    rw [hsl]
    exact if_pos ht
  have hfree : endSlot s = emit .slotTest
      (if sl.window then closeWindow (.circuit k) (setSlot none s) else setSlot none s) := by
    unfold endSlot
    rw [hsl]
    simp only [ht]
  have htest : slotTest (State.slotFreed k sl.window s) = State.slotFreed k sl.window s := slotTest_noQueue hq
  cases hwin : sl.window with
  | false =>
    rw [hwin] at hfree htest
    have hrun : runNotice (.slotEnded (.circuit k)) s = emitAll [.slotTest] (State.slotFreed k false s) :=
      hend.trans (hfree.trans (by rw [slotFreed_driven]; rfl))
    exact (Acts.run hn hrun hn (Acts.silent hn htest hn)).mono (by decide)
  | true =>
    obtain ⟨hcs, hrest⟩ := hw hwin
    rw [hwin] at hfree htest hrest
    have hcov : coveredBy (setSlot none s) (.circuit k) = [] := by
      show (circuitRec s k).contributors.map _ = []
      rw [hcs]; rfl
    have hclose : closeWindow (.circuit k) (setSlot none s) =
        emit (.windowNotice false []) (State.slotFreed k true s) := by
      unfold closeWindow
      rw [hcov]
      exact congrArg _ (closeLineWindow_eq k s)
    have hrun : runNotice (.slotEnded (.circuit k)) s =
        emitAll [.windowNotice false [], .slotTest] (State.slotFreed k true s) := by
      refine hend.trans (hfree.trans ?_)
      rw [if_pos rfl, hclose, emit_eq, emit_eq, emitAll_emitAll]; rfl
    exact Acts.run (k := 14) hn hrun hn (Acts.cons (k := 13) (l := 1)
      (Acts.run (k := 12) hn (takeWindow_nil false _) hn (acts_restNotices hn hrest)) (Acts.silent hn htest hn))

end Sys2Proof.Machine
end

section
/-!
Samples, trips and the group fault inputs of the direct lines (R126 to R128, R136 to R140, R147).
-/
namespace Sys2Proof.Machine

variable {s t u : State}

/-! ## What a reported result does not look at -/

/-- The state with other line records and another Policy Check. -/
def onFrame (l : Tab Line 8) (po : Policy) (s : State) : State := setLines l { s with policy := po }

theorem placeStatus_onFrame (l : Tab Line 8) (po : Policy) (k : FrameKey) (id : Nat) (data : List Byte) (s : State) :
    placeStatus k id data (onFrame l po s) = onFrame l po (placeStatus k id data s) := by
  have hq : txQueue (onFrame l po s) = txQueue s := rfl
  unfold placeStatus
  rw [hq]
  cases replaceFrame k data (txQueue s) with
  | some q => rfl
  | none => dsimp only; split <;> rfl

theorem noteRefresh_onFrame (l : Tab Line 8) (po : Policy) (p : Pos) (g : Group) (half : Bool) (s : State) :
    noteRefresh p g half (onFrame l po s) = onFrame l po (noteRefresh p g half s) := by
  have hq : qualifies (onFrame l po s) p g half = qualifies s p g half := rfl
  unfold noteRefresh
  rw [hq]
  split <;> rfl

theorem placeResultFrame_onFrame (l : Tab Line 8) (po : Policy) (p : Pos) (g : Group) (half : Bool) (s : State) :
    placeResultFrame p g half (onFrame l po s) = onFrame l po (placeResultFrame p g half s) := by
  have hw : wouldPlace (.result p g half) (onFrame l po s) = wouldPlace (.result p g half) s := rfl
  have hd : resultData (onFrame l po s) p g half = resultData s p g half := rfl
  unfold placeResultFrame
  rw [hw, hd, placeStatus_onFrame, noteRefresh_onFrame]
  split <;> rfl

theorem resulting_onFrame (l : Tab Line 8) (po : Policy) (p : Pos) (f : Code) (r : CheckResult) (s : State) :
    State.resulting p f r (onFrame l po s) = onFrame l po (State.resulting p f r s) := by
  have he : entryOf (onFrame l po s) p f = entryOf s p f := rfl
  unfold State.resulting
  rw [he]
  split
  · rfl
  · exact placeResultFrame_onFrame l po p (groupOf f) (halfOf f) (modEntry p f (fun x => { x with result := r }) s)

/-- R139: an outcome is reported in the same way whatever the line records and the Fault List hold. -/
theorem reporting_onFrame (l : Tab Line 8) (po : Policy) (k : LineNo) (o : CheckOutcome) (s : State) :
    (onFrame l po s).reporting k o = onFrame l po (s.reporting k o) := by
  have hws : ∀ (ws : List (Pos × Code × CheckResult)) (s : State), writing ws (onFrame l po s) = onFrame l po (writing ws s) := by
    intro ws
    induction ws with
    | nil => intro s; rfl
    | cons w ws ih =>
      intro s
      show writing ws (State.resulting w.1 w.2.1 w.2.2 (onFrame l po s)) = _
      rw [resulting_onFrame, ih]
      rfl
  exact hws (outcomeResults s k o) s

/-! ## Samples and established outcomes -/

theorem modCircuit_modCircuit (k : LineNo) (f g : Circuit → Circuit) (s : State) :
    modCircuit k g (modCircuit k f s) = modCircuit k (fun c => g (f c)) s := by
  show { s with check := { s.check with circuits := (s.check.circuits.upd k f).upd k g } } = _
  rw [Tab.upd_upd]; rfl

theorem circuitRec_modCircuit (k : LineNo) (f : Circuit → Circuit) (s : State) :
    circuitRec (modCircuit k f s) k = f (circuitRec s k) := by
  simp [circuitRec, modCircuit, Tab.get_upd]

/-- R137: an evaluation looks at no line record and not at the clock. -/
theorem evaluate_eq (k : LineNo) (l : Tab Line 8) (m : Time) (s : State) (codes : List Nat) :
    evaluate (setLines l (advanceTo m s)) k codes = evaluate s k codes := by
  have hp : presenceOnly (setLines l (advanceTo m s)) k = presenceOnly s k :=
    congrArg (fun x => decide (x = PosState.wired) && (circuitRec s k).contributors.isEmpty) (stateOf_advanceTo m s 0)
  unfold evaluate
  rw [hp]
  rfl

/-- R139: what an established outcome o of circuit k leaves in place of state s. -/
def State.established (k : LineNo) (o : CheckOutcome) (s : State) : State :=
  if (circuitRec s k).reported = some o then s
  else (modCircuit k (fun c => { c with reported := some o }) s).reporting k o

theorem established_marked (k : LineNo) (o : CheckOutcome) (s : State) :
    (s.established k o).notices = s.notices ∧ (s.established k o).check.slot = s.check.slot
      ∧ (s.established k o).check.queue = s.check.queue
      ∧ (circuitRec (s.established k o) k).contributors = (circuitRec s k).contributors := by
  unfold State.established
  split
  · exact ⟨rfl, rfl, rfl, rfl⟩
  · have h := reporting_marked k o (modCircuit k (fun c => { c with reported := some o }) s)
    refine ⟨h.notices, by rw [h.check]; rfl, by rw [h.check]; rfl, ?_⟩
    have hc : circuitRec ((modCircuit k (fun c => { c with reported := some o }) s).reporting k o) k =
        circuitRec (modCircuit k (fun c => { c with reported := some o }) s) k := by
      unfold circuitRec; rw [h.check]
    rw [hc, circuitRec_modCircuit]

/-- R139, R147: an established outcome is reported, and then the end of the check of its circuit acted on. -/
theorem settle_established {k : LineNo} {o : CheckOutcome} (hn : s.notices = []) (hcalm : ∀ p, stateOf s p ≠ .exercising)
    (hlen : (circuitRec s k).contributors.length ≤ 16)
    (hocc : ∀ c ∈ (circuitRec s k).contributors, stateOf s c.pos ≠ .vacant)
    (hend : Acts 16 [.slotEnded (.circuit k)] (s.established k o) u) :
    settle (emit (.slotEnded (.circuit k)) (reportOutcome k o s)) = u := by
  unfold State.established at hend
  unfold reportOutcome
  by_cases h : (circuitRec s k).reported = some o
  · rw [if_pos h] at hend
    rw [if_pos h]
    exact hend.settle hn (by decide)
  · rw [if_neg h] at hend
    rw [if_neg h]
    let marked := modCircuit k (fun c => { c with reported := some o }) s
    have hcs : (circuitRec marked k).contributors = (circuitRec s k).contributors := by
      rw [circuitRec_modCircuit]
    have hws : outcomeWrites s k o = outcomeWrites marked k o := by
      rw [outcomeWrites_eq, outcomeWrites_eq]
      unfold outcomeResults
      rw [hcs]
      rfl
    have hact : Acts 51 (outcomeWrites marked k o) marked (marked.reporting k o) :=
      acts_outcome o hn hcalm (by rw [hcs]; exact hlen) (by rw [hcs]; exact hocc)
    rw [hws, emit_eq, emitAll_emitAll]
    exact (hact.append hend).settle hn (by decide)

/-- R147: no check in the slot: its end is not looked at. -/
theorem acts_slotEnded_none (t : Target) (hn : s.notices = []) (h : s.check.slot = none) : Acts 15 [.slotEnded t] s s :=
  (Acts.silent (x := .slotEnded t) hn (slotEnded_none h) hn).mono (by decide)

theorem senseSample_eq {k : LineNo} {code : Nat} {m : Time} (hm : sampleMoment s k = some m) :
    exec (.senseSample k code) s = .next (sampleTickReached k code (advanceTo m s)) := by
  show Host.Outcome.next (atMoment (sampleMoment s k) (sampleTickReached k code) s) = _
  rw [hm]; rfl

/-- R126, R136: a tick at which no sample is taken. -/
theorem sampleTick_unsampled {k : LineNo} {code : Nat} :
    ((lineRec s k).onCount < 50 → sampleTickReached k code s = modLine k (fun l => { l with sampled := true }) s)
      ∧ (50 ≤ (lineRec s k).onCount → 0 < (lineRec s k).settle → sampleTickReached k code s =
          modLine k (fun l => { l with settle := l.settle - 1 }) (modLine k (fun l => { l with sampled := true }) s)) := by
  refine ⟨fun h => if_pos h, fun h hs => (if_neg (Nat.not_lt.mpr h)).trans (if_pos hs)⟩

/-- R126, R127: a tick at which a sample is taken, below the trip current or not. -/
theorem sampleTick_sampled {k : LineNo} {code : Nat} (h : 50 ≤ (lineRec s k).onCount) (hs : (lineRec s k).settle = 0) :
    (code * 5 < (wiredOf s k).trip → sampleTickReached k code s = settle (takeSample k code
        (modLine k (fun l => { l with lastSense := some code }) (modLine k (fun l => { l with sampled := true }) s))))
      ∧ ((wiredOf s k).trip ≤ code * 5 → sampleTickReached k code s = settle (tripLine k
        (modLine k (fun l => { l with lastSense := some code }) (modLine k (fun l => { l with sampled := true }) s)))) := by
  have htaken : sampleTickReached k code s = settle (sampleLine k code (modLine k (fun l => { l with sampled := true }) s)) :=
    (if_neg (Nat.not_lt.mpr h)).trans (if_neg (by rw [hs]; decide))
  refine ⟨fun hc => htaken.trans (congrArg settle (if_neg (Nat.not_le.mpr hc))), fun hc =>
    htaken.trans (congrArg settle (if_pos hc))⟩

/-- R136: a code that is discarded, or joins the sample set. -/
theorem takeSample_early {k : LineNo} {code : Nat} :
    (s.consist.cplPresent = false ∨ (circuitRec s k).overfull = true → takeSample k code s = s)
      ∧ (s.consist.cplPresent = true → (circuitRec s k).overfull = false → (circuitRec s k).samples.length < 3 →
          takeSample k code s = modCircuit k (fun c => { c with samples := c.samples ++ [code] }) s) := by
  unfold takeSample
  refine ⟨fun h => if_pos (by rcases h with h | h <;> simp [h]), fun hc ho hl => ?_⟩
  have hlen : ((circuitRec s k).samples ++ [code]).length < 4 := by rw [List.length_append]; simp; omega
  refine (if_neg (by simp [hc, ho])).trans ((if_pos hlen).trans ?_)
  exact congrArg (fun x => { s with check := { s.check with circuits := x } }) (Tab.upd_congr _ _ rfl)

/-- R136, R139: the fourth code of a set. -/
theorem takeSample_fourth {k : LineNo} {code : Nat} (hc : s.consist.cplPresent = true) (ho : (circuitRec s k).overfull = false)
    (hl : (circuitRec s k).samples.length = 3) (o : CheckOutcome) (heval : evaluate s k ((circuitRec s k).samples ++ [code]) = o) :
    ((circuitRec s k).last ≠ some o →
        takeSample k code s = modCircuit k (fun c => { c with samples := [], last := some o }) s)
      ∧ ((circuitRec s k).last = some o → takeSample k code s = emit (.slotEnded (.circuit k))
          (reportOutcome k o (modCircuit k (fun c => { c with samples := [], last := some o }) s))) := by
  have htake : takeSample k code s = takeEvaluation k o (modCircuit k (fun c => { c with samples := [] }) s) := by
    unfold takeSample
    refine (if_neg (by simp [hc, ho])).trans ((if_neg ?_).trans (by rw [heval]))
    rw [List.length_append]; simp [hl]
  have hlast : (circuitRec (modCircuit k (fun c => { c with samples := [] }) s) k).last = (circuitRec s k).last := by
    rw [circuitRec_modCircuit]
  have heq : modCircuit k (fun c => { c with last := some o }) (modCircuit k (fun c => { c with samples := [] }) s) =
      modCircuit k (fun c => { c with samples := [], last := some o }) s := modCircuit_modCircuit k _ _ s
  rw [htake]
  unfold takeEvaluation
  dsimp only
  rw [hlast, heq]
  exact ⟨fun h => if_neg h, fun h => if_pos h⟩

/-- Settles O13: the tick counts, settles or samples; a sample joins its set, or the set is evaluated and its outcome
established. -/
theorem sampleTick_settles : Obligations.SampleTick := by
  unfold Obligations.SampleTick
  intro k code s m hn hm
  dsimp only
  have hexec := senseSample_eq (code := code) hm
  obtain ⟨hlow, hsettling⟩ := sampleTick_unsampled (s := advanceTo m s) (k := k) (code := code)
  refine ⟨fun h => hexec.trans (congrArg _ (hlow h)), fun h hs => hexec.trans (congrArg _ (hsettling h hs)),
    fun h hs hcode => ?_⟩
  have htick := hexec.trans (congrArg _ ((sampleTick_sampled (s := advanceTo m s) h hs).1 hcode))
  let s2 : State := modLine k (fun l => { l with lastSense := some code })
    (modLine k (fun l => { l with sampled := true }) (advanceTo m s))
  obtain ⟨hdiscard, hjoin⟩ := takeSample_early (s := s2) (k := k) (code := code)
  refine ⟨fun hc => htick.trans (congrArg _ ((congrArg settle (hdiscard hc)).trans (settle_eq hn))),
    fun hc ho hl => htick.trans (congrArg _ ((congrArg settle (hjoin hc ho hl)).trans (settle_eq hn))),
    fun hc ho hl => ?_⟩
  have heval : evaluate s2 k ((circuitRec s2 k).samples ++ [code]) = evaluate s k ((circuitRec s k).samples ++ [code]) :=
    evaluate_eq k s2.direct.lines m s _
  obtain ⟨hnew, hsame⟩ := takeSample_fourth (s := s2) (code := code) hc ho hl _ heval
  refine ⟨fun hlast => htick.trans (congrArg _ ((congrArg settle (hnew hlast)).trans (settle_eq hn))), fun hlast => ?_⟩
  generalize ho' : evaluate s k ((circuitRec s k).samples ++ [code]) = o at hsame hlast ⊢
  let s3 : State := modCircuit k (fun c => { c with samples := [], last := some o }) s2
  have hcs : (circuitRec s3 k).contributors = (circuitRec s k).contributors := by
    show (circuitRec (modCircuit k (fun c => { c with samples := [], last := some o }) s2) k).contributors = _
    rw [circuitRec_modCircuit]; rfl
  have hreported : (circuitRec s3 k).reported = (circuitRec s k).reported := by
    show (circuitRec (modCircuit k (fun c => { c with samples := [], last := some o }) s2) k).reported = _
    rw [circuitRec_modCircuit]; rfl
  have hstate : ∀ p, stateOf s3 p = stateOf s p := stateOf_advanceTo m s
  have hwritten : s3.established k o = if (circuitRec s k).reported = some o then s3
      else (modCircuit k (fun c => { c with reported := some o }) s3).reporting k o := by
    unfold State.established
    rw [hreported]
  have hestablish : ∀ u, (∀ p, stateOf s p ≠ .exercising) → (circuitRec s k).contributors.length ≤ 16 →
      (∀ c ∈ (circuitRec s k).contributors, stateOf s c.pos ≠ .vacant) →
      Acts 15 [.slotEnded (.circuit k)] (s3.established k o) u → exec (.senseSample k code) s = .next u := by
    intro u hcalm hlen hocc hend
    refine htick.trans (congrArg _ ((congrArg settle (hsame hlast)).trans (settle_established (s := s3) hn ?_ ?_ ?_ (hend.mono (by decide)))))
    · intro p; rw [hstate]; exact hcalm p
    · rw [hcs]; exact hlen
    · rw [hcs]; intro c hmem; rw [hstate]; exact hocc c hmem
  obtain ⟨hn3, hslot3, hqueue3, hcs3⟩ := established_marked k o s3
  refine ⟨fun hr => ?_, fun sl hsl ht hq hr hw => ?_⟩
  · rw [← hwritten]
    exact hestablish _ hr.calm hr.listed hr.occupied (acts_slotEnded_none _ (hn3.trans hn) (hslot3.trans hr.slot))
  · rw [← hwritten] at hw ⊢
    refine hestablish _ hr.calm hr.listed hr.occupied (acts_slotEnded (hn3.trans hn) (hslot3.trans hsl) ht
      (hqueue3.trans hq) fun hwin => ⟨hcs3.trans (hcs.trans (hw hwin).1), (hw hwin).2⟩)

end Sys2Proof.Machine
end

section
/-!
Trips of a line and of a fault group (R127, R128, R140, R147).
-/
namespace Sys2Proof.Machine

variable {s t u : State}

/-! ## Holds and faults -/

theorem clearHold_none {k : LineNo} (h : (lineRec s k).hold = none) : clearHold k s = s := by
  have hl : s.direct.lines.upd k (fun l => { l with hold := none }) = s.direct.lines := Tab.upd_eq_self _ _ (by
    show ({ lineRec s k with hold := none } : Line) = lineRec s k
    rw [← h])
  exact congrArg (fun l => setLines l s) hl

/-- R127, R131: a trip ends the hold of the line, with no window open on its circuit. -/
theorem dropHold_noWindow {k : LineNo} (h : windowOn s k = false) : dropHold k s = clearHold k s := by
  unfold dropHold
  cases hh : (lineRec s k).hold with
  | none => exact (clearHold_none hh).symm
  | some x =>
    have hw : windowOn (clearHold k s) k = false := h
    have hafter : windowAfterHold k (clearHold k s) = clearHold k s := if_neg (by rw [hw]; decide)
    exact (if_pos rfl).trans hafter

/-- R131, R146: a hold that a trip ends under a window sets the exercise flag. -/
theorem dropHold_window {k : LineNo} (h : windowOn s k = true) : dropHold k s = modLine k (fun l =>
    if l.hold.isSome then { l with hold := none, exercise := true, pendingOn := (timebase s l.tb).period + 1 } else l) s := by
  unfold dropHold
  cases hh : (lineRec s k).hold with
  | none =>
    have hl : s.direct.lines.upd k (fun l => if l.hold.isSome then
        { l with hold := none, exercise := true, pendingOn := (timebase s l.tb).period + 1 } else l) = s.direct.lines :=
      Tab.upd_eq_self _ _ (if_neg (by
        show ¬ (lineRec s k).hold.isSome = true
        rw [hh]; decide))
    exact (congrArg (fun l => setLines l s) hl).symm
  | some x =>
    have hopen : windowAfterHold k (clearHold k s) = openLineWindow k (clearHold k s) := if_pos h
    have hfree : (lineRec (clearHold k s) k).hold = none := by
      show (lineRec (modLine k _ s) k).hold = none
      rw [lineRec_modLine, if_pos rfl]
    refine (if_pos rfl).trans (hopen.trans ((openLineWindow_free hfree).trans ((modLine_modLine k _ _ s).trans ?_)))
    refine congrArg (fun l => setLines l s) (Tab.upd_congr _ _ ?_)
    have hsome : (s.direct.lines.get k).hold.isSome = true := by rw [show (s.direct.lines.get k).hold = some x from hh]; rfl
    have htb : ∀ t, timebase (clearHold k s) t = timebase s t := by intro t; cases t <;> rfl
    rw [if_pos hsome, htb]

/-- R114: a fault taken in a state whose Policy Check is that of another. -/
theorem takeFault_of_policy (r : FaultRecord) {po : Policy} (h : s.policy = po) :
    takeFault r s = { s with policy := { po with faults := addFault r po.faults } } := by
  subst h; rfl

/-- A look of the Delivery Unit at its offers does not see the Fault List. -/
theorem State.Resting.of_faults {fs : List FaultRecord}
    (h : State.Resting { s with policy := { s.policy with faults := fs } }) : s.Resting :=
  fun p hs => ⟨⟨(h p hs).stops, (h p hs).deliveries, (h p hs).management, (h p hs).first, (h p hs).second⟩, (h p hs).reads⟩

theorem acts_fault (r : FaultRecord) (hn : s.notices = []) : Acts 1 [.faultRequest r] s (takeFault r s) :=
  Acts.silent hn rfl hn

/-! ## A trip notice -/

/-- R140: the circuit as a trip leaves it before its outcome is written. -/
def shorted (k : LineNo) (s : State) : State :=
  modCircuit k (fun c => { c with samples := [], last := none, reported := some { cls := .short } }) s

theorem contributors_shorted (k : LineNo) (s : State) :
    (circuitRec (shorted k s) k).contributors = (circuitRec s k).contributors := by
  rw [shorted, circuitRec_modCircuit]

theorem outcomeWrites_shorted (k : LineNo) (o : CheckOutcome) (s : State) :
    outcomeWrites (shorted k s) k o = outcomeWrites s k o := by
  rw [outcomeWrites_eq, outcomeWrites_eq]
  unfold outcomeResults
  rw [contributors_shorted]
  rfl

/-- R140: a trip notice while the coupling state is ABSENT. -/
theorem acts_trip_absent {k : LineNo} (hn : s.notices = []) (h : s.consist.cplPresent = false) :
    Acts 1 [.tripNotice k] s s :=
  Acts.silent hn (if_pos h : takeTrip k s = s) hn

/-- R140: a trip notice while the coupling state is PRESENT. -/
theorem acts_trip {k : LineNo} (hn : s.notices = []) (h : s.consist.cplPresent = true)
    (hcalm : ∀ p, stateOf s p ≠ .exercising) (hlen : (circuitRec s k).contributors.length ≤ 16)
    (hocc : ∀ c ∈ (circuitRec s k).contributors, stateOf s c.pos ≠ .vacant)
    (hend : Acts 15 [.slotEnded (.circuit k)] ((shorted k s).reporting k { cls := .short }) u) :
    Acts 67 [.tripNotice k] s u := by
  have hrun : runNotice (.tripNotice k) s =
      emitAll (outcomeWrites (shorted k s) k { cls := .short } ++ [.slotEnded (.circuit k)]) (shorted k s) := by
    rw [outcomeWrites_shorted]
    exact if_neg (by rw [h]; decide)
  have hwrite : Acts 51 (outcomeWrites (shorted k s) k { cls := .short }) (shorted k s)
      ((shorted k s).reporting k { cls := .short }) :=
    acts_outcome _ hn hcalm (by rw [contributors_shorted]; exact hlen) (by rw [contributors_shorted]; exact hocc)
  exact Acts.run (k := 66) hn hrun hn (hwrite.append hend)

/-! ## A line trip -/

/-- R127: the tripped line before its hold is looked at. -/
def lineTripped (k : LineNo) (code : Nat) (s : State) : State :=
  modLine k (fun l => { l with sampled := true, lastSense := some code, trip := true, onCount := 0, settle := 2 }) s

theorem tripLine_eq (k : LineNo) (code : Nat) (s : State) :
    tripLine k (modLine k (fun l => { l with lastSense := some code }) (modLine k (fun l => { l with sampled := true }) s)) =
      emitAll [.tripNotice k, .faultRequest (faultOf .lineTrip none (wiredOf s k).code none k.val)]
        (dropHold k (lineTripped k code s)) := by
  have hstate : modLine k (fun l => { l with trip := true, onCount := 0, settle := 2 })
      (modLine k (fun l => { l with lastSense := some code }) (modLine k (fun l => { l with sampled := true }) s)) =
      lineTripped k code s := by
    rw [modLine_modLine, modLine_modLine]; rfl
  unfold tripLine
  rw [hstate]
  rfl

theorem senseSample_trips {k : LineNo} {code : Nat} {m : Time} (hm : sampleMoment s k = some m)
    (h : 50 ≤ (lineRec s k).onCount) (hs : (lineRec s k).settle = 0) (hcode : (wiredOf s k).trip ≤ code * 5) :
    exec (.senseSample k code) s = .next (settle (emitAll
      [.tripNotice k, .faultRequest (faultOf .lineTrip none (wiredOf s k).code none k.val)]
      (dropHold k (lineTripped k code (advanceTo m s))))) := by
  refine (senseSample_eq hm).trans (congrArg _ (((sampleTick_sampled (s := advanceTo m s) h hs).2 hcode).trans ?_))
  rw [tripLine_eq]
  rfl

/-- R121, R147: what a window leaves of its line does not depend on the exercise flag and pending on-count it found. -/
theorem slotFreed_window_congr {k : LineNo} {l l' : Tab Line 8} (hne : ∀ j, j ≠ k → l.get j = l'.get j)
    (hk : { l.get k with exercise := false, pendingOn := 0 } = { l'.get k with exercise := false, pendingOn := 0 })
    (hfree : (l.get k).hold = none) (s : State) :
    State.slotFreed k true (setLines l s) = State.slotFreed k true (setLines l' s) := by
  let level := ((wiredOf s k).code.map fun f => (commandOf s f).value).getD 0
  let g := fun (x : Line) => if true = false then x else if x.hold.isSome then { x with exercise := false } else { x with
      exercise := false
      pendingOn := onCountOf level (timebase s x.tb).period (wiredOf s k).comp s.settings.vref s.direct.supply }
  have hform : ∀ m, State.slotFreed k true (setLines m s) = setLines (m.upd k g) (setSlot none s) := by
    intro m
    refine congrArg (fun x => setLines x (setSlot none s)) (Tab.upd_congr _ _ ?_)
    show (if true = false then m.get k else if (m.get k).hold.isSome then { m.get k with exercise := false } else
      { m.get k with
        exercise := false
        pendingOn := onCountOf level (timebase (setLines m s) (m.get k).tb).period (wiredOf s k).comp s.settings.vref
          s.direct.supply }) = g (m.get k)
    rw [timebase_setLines]
  rw [hform, hform]
  congr 1
  apply Tab.ext_get
  intro j
  rw [Tab.get_upd, Tab.get_upd]
  by_cases hj : j = k
  · subst hj
    rw [if_pos rfl, if_pos rfl]
    generalize l.get j = x at hk hfree ⊢
    generalize l'.get j = y at hk ⊢
    obtain ⟨a1, a2, a3, a4, a5, a6, a7, a8, a9, a10⟩ := x
    obtain ⟨b1, b2, b3, b4, b5, b6, b7, b8, b9, b10⟩ := y
    obtain ⟨rfl, -, -, rfl, rfl, rfl, rfl, rfl, rfl, rfl⟩ := Line.mk.injEq .. ▸ hk
    cases hfree
    rfl
  · rw [if_neg hj, if_neg hj, hne j hj]

theorem reporting_setLines (l : Tab Line 8) (k : LineNo) (o : CheckOutcome) (s : State) :
    (setLines l s).reporting k o = setLines l (s.reporting k o) := by
  have h : (onFrame l s.policy s).reporting k o = onFrame l s.policy (s.reporting k o) := reporting_onFrame l s.policy k o s
  have hp : onFrame l s.policy (s.reporting k o) = setLines l (s.reporting k o) := by
    unfold onFrame
    rw [← (reporting_marked k o s).policy]
  exact h.trans hp

theorem windowOn_slot {k : LineNo} {sl : Slot} (hsl : s.check.slot = some sl) (ht : sl.entry.target = .circuit k) :
    windowOn s k = sl.window := by
  unfold windowOn
  rw [hsl]
  simp [ht]

/-- R127, R147: the check of the tripped line's circuit ends in the same way whatever its hold left of the exercise flag. -/
theorem slotFreed_dropHold {k : LineNo} {sl : Slot} {o : CheckOutcome} (hsl : s.check.slot = some sl)
    (ht : sl.entry.target = .circuit k) :
    State.slotFreed k sl.window ((shorted k (dropHold k s)).reporting k o) =
      State.slotFreed k sl.window ((shorted k (clearHold k s)).reporting k o) := by
  have hwin := windowOn_slot hsl ht
  cases hw : sl.window with
  | false => rw [dropHold_noWindow (hwin.trans hw)]
  | true =>
    have hcomm : ∀ l, (shorted k (setLines l s)).reporting k o = setLines l ((shorted k s).reporting k o) :=
      fun l => reporting_setLines l k o (shorted k s)
    rw [dropHold_window (hwin.trans hw)]
    show State.slotFreed k true ((shorted k (setLines (s.direct.lines.upd k _) s)).reporting k o) =
      State.slotFreed k true ((shorted k (setLines (s.direct.lines.upd k _) s)).reporting k o)
    rw [hcomm, hcomm]
    refine slotFreed_window_congr (fun j hj => ?_) ?_ ?_ _
    · rw [Tab.get_upd_ne _ _ hj, Tab.get_upd_ne _ _ hj]
    · rw [Tab.get_upd, if_pos rfl, Tab.get_upd, if_pos rfl]
      cases hh : (s.direct.lines.get k).hold with
      | none =>
        rw [if_neg (by decide), ← hh]
      | some x => rfl
    · rw [Tab.get_upd, if_pos rfl]
      cases hh : (s.direct.lines.get k).hold with
      | none => exact (congrArg Line.hold (if_neg (by decide))).trans hh
      | some x => rfl

/-- Settles O14: the trip acts on the line at once, its notice on the circuit and the slot, and then the fault is recorded. -/
theorem lineTrips : Obligations.LineTrips := by
  unfold Obligations.LineTrips
  intro k code s m hn hm h hs hcode
  dsimp only
  have hexec := senseSample_trips hm h hs hcode
  let s1 := lineTripped k code (advanceTo m s)
  let fault := faultOf .lineTrip none (wiredOf s k).code none k.val
  let written := (shorted k (clearHold k s1)).reporting k { cls := .short }
  have hstate : ∀ p, stateOf s1 p = stateOf s p := stateOf_advanceTo m s
  have hmarked : Marked written (shorted k (clearHold k s1)) := reporting_marked _ _ _
  have hfault : takeFault fault written = { written with policy := { s.policy with faults := addFault fault s.policy.faults } } :=
    takeFault_of_policy fault hmarked.policy
  refine ⟨⟨_, hexec, (settle_untouched _).trans (emitAll_calm _ (by simp) (dropHold_calm k (Calm.refl s1))).untouched⟩,
    fun hc hslot => ?_, fun hc hr => ?_, fun sl hsl ht hq hc hr hw => ?_⟩
  · refine hexec.trans (congrArg _ ?_)
    have hdrop : dropHold k s1 = clearHold k s1 := dropHold_noWindow (by unfold windowOn; rw [show s1.check.slot = none from hslot])
    rw [hdrop]
    exact (Acts.cons (k := 1) (l := 1) (acts_trip_absent (s := clearHold k s1) hn hc) (acts_fault fault hn)).settle hn (by decide)
  · refine hexec.trans (congrArg _ ?_)
    have hdrop : dropHold k s1 = clearHold k s1 :=
      dropHold_noWindow (by unfold windowOn; rw [show s1.check.slot = none from hr.slot])
    have htrip : Acts 67 [.tripNotice k] (clearHold k s1) written :=
      acts_trip (s := clearHold k s1) hn hc (fun p => by rw [show stateOf (clearHold k s1) p = stateOf s p from hstate p]; exact hr.calm p)
        hr.listed (fun c hmem => by rw [show stateOf (clearHold k s1) c.pos = stateOf s c.pos from hstate c.pos]; exact hr.occupied c hmem)
        (acts_slotEnded_none _ (hmarked.notices.trans hn) ((congrArg LoadCheck.slot hmarked.check).trans hr.slot))
    refine Eq.trans ?_ hfault
    rw [← hdrop] at htrip
    exact (Acts.cons (l := 1) htrip (acts_fault fault (hmarked.notices.trans hn))).settle (by rw [hdrop]; exact hn) (by decide)
  · refine hexec.trans (congrArg _ ?_)
    have hdropped : Marked ((shorted k (dropHold k s1)).reporting k { cls := .short }) (shorted k (dropHold k s1)) :=
      reporting_marked _ _ _
    have hfreed : State.slotFreed k sl.window ((shorted k (dropHold k s1)).reporting k { cls := .short }) =
        State.slotFreed k sl.window written := slotFreed_dropHold (s := s1) hsl ht
    obtain ⟨l, hl⟩ : ∃ l, dropHold k s1 = setLines l s1 := by
      cases hwin : windowOn s1 k with
      | false => exact ⟨_, dropHold_noWindow hwin⟩
      | true => exact ⟨_, dropHold_window hwin⟩
    rw [hl] at hfreed hdropped
    have hcs : (circuitRec ((shorted k (setLines l s1)).reporting k { cls := .short }) k).contributors =
        (circuitRec s k).contributors := by
      rw [circuitRec, hdropped.check]
      exact contributors_shorted k (setLines l s1)
    have hrest : sl.window = true → (State.slotFreed k sl.window written).Resting := fun hwin => by
      have hr' : (State.slotFreed k sl.window (takeFault fault written)).Resting := by rw [hfault]; exact (hw hwin).2
      exact State.Resting.of_faults (fs := addFault fault written.policy.faults) hr'
    have htrip : Acts 67 [.tripNotice k] (setLines l s1)
        (State.slotFreed k sl.window ((shorted k (setLines l s1)).reporting k { cls := .short })) := by
      refine acts_trip (s := setLines l s1) hn hc (fun p => ?_) hr.listed (fun c hmem => ?_)
        (acts_slotEnded (hdropped.notices.trans hn) ((congrArg LoadCheck.slot hdropped.check).trans hsl) ht
          ((congrArg LoadCheck.queue hdropped.check).trans hq) fun hwin => ⟨hcs.trans (hw hwin).1, ?_⟩)
      · rw [show stateOf (setLines l s1) p = stateOf s p from hstate p]; exact hr.calm p
      · rw [show stateOf (setLines l s1) c.pos = stateOf s c.pos from hstate c.pos]; exact hr.occupied c hmem
      · rw [hfreed]; exact hrest hwin
    rw [hfreed] at htrip
    refine Eq.trans ?_ (congrArg (State.slotFreed k sl.window) hfault)
    rw [← hl] at htrip
    exact (Acts.cons (l := 1) htrip (acts_fault fault (hmarked.notices.trans hn))).settle (by rw [hl]; exact hn) (by decide)

end Sys2Proof.Machine
end

section
/-!
The group fault inputs (R128, R140).
-/
namespace Sys2Proof.Machine

variable {s t u : State}

/-! ## The lines of a group turned off -/

theorem dropHold_lines (k : LineNo) (s : State) : ∃ l, dropHold k s = setLines l s := by
  cases hwin : windowOn s k with
  | false => exact ⟨_, dropHold_noWindow hwin⟩
  | true => exact ⟨_, dropHold_window hwin⟩

theorem linesOff_lines (ks : List LineNo) (s : State) : ∃ l, ks.foldl lineOff s = setLines l s := by
  induction ks generalizing s with
  | nil => exact ⟨s.direct.lines, rfl⟩
  | cons k ks ih =>
    obtain ⟨l, hl⟩ := dropHold_lines k (modLine k (fun l => { l with onCount := 0, settle := 2 }) s)
    obtain ⟨m, hm⟩ := ih (lineOff s k)
    refine ⟨m, hm.trans ?_⟩
    rw [lineOff, hl]
    rfl

/-- R128, R131: with no check in the slot, each line of the group is off and its hold ended. -/
theorem linesOff_noSlot (g : FaultGroup) (hslot : s.check.slot = none) :
    ∃ m, (groupLines g).foldl lineOff s = setLines m s
      ∧ ∀ k, m.get k = if k ∈ groupLines g then { lineRec s k with onCount := 0, settle := 2, hold := none } else lineRec s k := by
  have hstep : ∀ l k, l.get k = lineRec s k → lineOff (setLines l s) k =
      setLines (l.upd k fun x => { x with onCount := 0, settle := 2, hold := none }) s := by
    intro l k _
    have hwin : windowOn (modLine k (fun x => { x with onCount := 0, settle := 2 }) (setLines l s)) k = false := by
      unfold windowOn
      rw [show (modLine k (fun x => { x with onCount := 0, settle := 2 }) (setLines l s)).check.slot = none from hslot]
    exact (dropHold_noWindow hwin).trans (modLine_modLine k _ _ _)
  have hnd : (groupLines g).Nodup := by cases g <;> decide
  obtain ⟨m, hm, hg⟩ := foldl_lines s lineOff (fun _ x => { x with onCount := 0, settle := 2, hold := none }) hstep
    (groupLines g) hnd s.direct.lines (fun _ _ => rfl)
  exact ⟨m, hm, hg⟩

/-! ## The trip notices of a group -/

/-- The state differs from the other in no notice, no policy, no line, no position and no circuit's list, and no check holds
the slot. -/
structure Reported (a b : State) : Prop where
  notices : a.notices = []
  slot : a.check.slot = none
  policy : a.policy = b.policy
  direct : a.direct = b.direct
  consist : a.consist = b.consist
  contributors : ∀ k, (circuitRec a k).contributors = (circuitRec b k).contributors

theorem Reported.stateOf {a b : State} (h : Reported a b) (p : Pos) : Machine.stateOf a p = Machine.stateOf b p := by
  unfold Machine.stateOf posRec
  rw [h.consist]

/-- R140: SHORT reported for circuit k. -/
def shortReported (s : State) (k : LineNo) : State := (shorted k s).reporting k { cls := .short }

theorem shortReported_reported {a b : State} (h : Reported a b) (k : LineNo) : Reported (shortReported a k) b := by
  have hm : Marked (shortReported a k) (shorted k a) := reporting_marked _ _ _
  obtain ⟨st, pt, he⟩ := hm
  rw [he]
  refine ⟨h.notices, h.slot, h.policy, h.direct, h.consist, fun j => Eq.trans ?_ (h.contributors j)⟩
  show (circuitRec (shorted k a) j).contributors = _
  simp only [circuitRec, shorted, modCircuit, Tab.get_upd]
  split
  · rename_i hj; subst hj; rfl
  · rfl

theorem shortReported_setPolicy (po : Policy) (s : State) (k : LineNo) :
    shortReported { s with policy := po } k = { shortReported s k with policy := po } := by
  have h := reporting_onFrame s.direct.lines po k { cls := .short } (shorted k s)
  obtain ⟨st, pt, he⟩ := reporting_marked k { cls := .short } (shorted k s)
  unfold shortReported
  rw [he] at h ⊢
  exact h

theorem shortsReported_setPolicy (po : Policy) (ks : List LineNo) (s : State) :
    ks.foldl shortReported { s with policy := po } = { ks.foldl shortReported s with policy := po } := by
  induction ks generalizing s with
  | nil => rfl
  | cons k ks ih =>
    show ks.foldl shortReported (shortReported { s with policy := po } k) = _
    rw [shortReported_setPolicy, ih]
    rfl

theorem shortsReported_reported (ks : List LineNo) {a b : State} (h : Reported a b) : Reported (ks.foldl shortReported a) b := by
  induction ks generalizing a with
  | nil => exact h
  | cons k ks ih => exact ih (shortReported_reported h k)

/-- R140: the trip notices of the lit lines, while the coupling state is PRESENT. -/
theorem acts_trips {ks : List LineNo} (hr : Reported s s) (hc : s.consist.cplPresent = true)
    (hcalm : ∀ k ∈ ks, ∀ p, stateOf s p ≠ .exercising) (hlen : ∀ k ∈ ks, (circuitRec s k).contributors.length ≤ 16)
    (hocc : ∀ k ∈ ks, ∀ c ∈ (circuitRec s k).contributors, stateOf s c.pos ≠ .vacant) :
    Acts (67 * ks.length) (ks.map Notice.tripNotice) s (ks.foldl shortReported s)
      ∧ Reported (ks.foldl shortReported s) s := by
  rw [List.map_eq_flatMap]
  refine Acts.foldl (k := 67) (fun t => Reported t s) (fun k => [Notice.tripNotice k]) shortReported ks
    (fun k hk t ht => ⟨?_, shortReported_reported ht k⟩) hr
  have hmarked : Marked (shortReported t k) (shorted k t) := reporting_marked _ _ _
  refine acts_trip ht.notices (by rw [ht.consist]; exact hc) (fun p => by rw [ht.stateOf]; exact hcalm k hk p)
    (by rw [ht.contributors]; exact hlen k hk) (fun c hmem => ?_)
    (acts_slotEnded_none _ (hmarked.notices.trans ht.notices) ((congrArg LoadCheck.slot hmarked.check).trans ht.slot))
  rw [ht.contributors] at hmem
  rw [ht.stateOf]
  exact hocc k hk c hmem

/-- R140: trip notices while the coupling state is ABSENT. -/
theorem acts_trips_absent (ks : List LineNo) (hn : s.notices = []) (hc : s.consist.cplPresent = false) :
    Acts ks.length (ks.map Notice.tripNotice) s s := by
  induction ks with
  | nil => exact Acts.nil s
  | cons k ks ih =>
    rw [List.length_cons, Nat.add_comm]
    exact Acts.cons (acts_trip_absent hn hc) ih

/-! ## The commands -/

theorem faultInput_setFaultInput (g x : FaultGroup) (v : Bool) (s : State) :
    faultInput (setFaultInput g v s) x = if x = g then v else faultInput s x := by
  cases g <;> cases x <;> rfl

theorem groupTripped_setFaultInput (g x : FaultGroup) (v : Bool) (s : State) :
    groupTripped (setFaultInput g v s) x = groupTripped s x := by
  cases g <;> cases x <;> rfl

theorem faultInput_setGroupTrip (g x : FaultGroup) (v : Bool) (s : State) :
    faultInput (setGroupTrip g v s) x = faultInput s x := by
  cases g <;> cases x <;> rfl

theorem groupTrip_exec {g : FaultGroup} (h : faultInput s g = false) :
    (groupTripped s g = true → exec (.groupTrip g) s = .next (settle (setFaultInput g true s)))
      ∧ (groupTripped s g = false → exec (.groupTrip g) s = .next (settle (tripGroup g (setFaultInput g true s)))) := by
  have hexec : exec (.groupTrip g) s = .next (settle (assertFault g s)) := congrArg _ (if_neg (by rw [h]; decide))
  exact ⟨fun ht => hexec.trans (congrArg _ (congrArg settle (if_pos ht))),
    fun ht => hexec.trans (congrArg _ (congrArg settle (if_neg (by rw [ht]; decide))))⟩

/-- R128: the flags of the group and the records of its lines, whatever its trip brings besides. -/
theorem tripGroup_flags (g : FaultGroup) (s : State) :
    (∀ k, (lineRec (settle (tripGroup g (setFaultInput g true s))) k).core =
        if k ∈ groupLines g then (lineRec s k).core.off else (lineRec s k).core)
      ∧ (∀ x, groupTripped (settle (tripGroup g (setFaultInput g true s))) x = (groupTripped s x || decide (x = g)))
      ∧ (∀ x, faultInput (settle (tripGroup g (setFaultInput g true s))) x = (faultInput s x || decide (x = g))) := by
  let before := setGroupTrip g true (setFaultInput g true s)
  let after := (groupLines g).foldl lineOff before
  have hu : Untouched (settle (tripGroup g (setFaultInput g true s))) after :=
    (settle_untouched _).trans (emitAll_calm _ (by simp) (Calm.refl after)).untouched
  have hlines : ∀ k, lineRec before k = lineRec s k := by intro k; cases g <;> rfl
  obtain ⟨l, hl⟩ := linesOff_lines (groupLines g) before
  refine ⟨fun k => ?_, fun x => ?_, fun x => ?_⟩
  · rw [hu.lines, linesOff_core, hlines]
  · have h1 : groupTripped (settle (tripGroup g (setFaultInput g true s))) x = groupTripped after x := by
      cases x
      · exact hu.tripA
      · exact hu.tripB
    rw [h1, linesOff_group, groupTripped_setGroupTrip, groupTripped_setFaultInput]
    by_cases hx : x = g <;> simp [hx]
  · have h1 : faultInput (settle (tripGroup g (setFaultInput g true s))) x = faultInput after x := by
      cases x
      · exact hu.faultA
      · exact hu.faultB
    have h2 : faultInput after x = faultInput before x := by
      show faultInput ((groupLines g).foldl lineOff before) x = _
      rw [hl]; cases x <;> rfl
    rw [h1, h2, faultInput_setGroupTrip, faultInput_setFaultInput]
    by_cases hx : x = g <;> simp [hx]

/-- R128, R140: the whole effect of a group trip with no check in the slot. -/
theorem tripGroup_noSlot {g : FaultGroup} (hn : s.notices = []) (hslot : s.check.slot = none)
    (hr : ∀ k ∈ (groupLines g).filter (fun k => s.consist.cplPresent && decide ((lineRec s k).onCount ≠ 0)), s.Reportable k) :
    ∃ m, settle (tripGroup g (setFaultInput g true s)) = takeFault (faultOf .groupTrip none none none (groupDetail g))
          (((groupLines g).filter fun k => s.consist.cplPresent && decide ((lineRec s k).onCount ≠ 0)).foldl shortReported
            (setLines m (setGroupTrip g true (setFaultInput g true s))))
      ∧ (∀ k, m.get k = if k ∈ groupLines g then { lineRec s k with onCount := 0, settle := 2, hold := none } else lineRec s k)
      ∧ Reported (((groupLines g).filter fun k => s.consist.cplPresent && decide ((lineRec s k).onCount ≠ 0)).foldl shortReported
            (setLines m (setGroupTrip g true (setFaultInput g true s)))) (setLines m (setGroupTrip g true (setFaultInput g true s))) := by
  let before := setGroupTrip g true (setFaultInput g true s)
  let fault := faultOf .groupTrip none none none (groupDetail g)
  have hlines : ∀ k, lineRec before k = lineRec s k := by intro k; cases g <;> rfl
  have hcpl : before.consist = s.consist := by cases g <;> rfl
  have hchk : before.check = s.check := by cases g <;> rfl
  have hnb : before.notices = [] := by rw [← hn]; cases g <;> rfl
  have hlit : ((groupLines g).filter fun k => decide ((lineRec (setFaultInput g true s) k).onCount ≠ 0)) =
      (groupLines g).filter fun k => decide ((lineRec s k).onCount ≠ 0) := by
    cases g <;> rfl
  obtain ⟨m, hm, hg⟩ := linesOff_noSlot (s := before) g (by rw [hchk]; exact hslot)
  have htrip : tripGroup g (setFaultInput g true s) =
      emitAll (((groupLines g).filter fun k => decide ((lineRec s k).onCount ≠ 0)).map Notice.tripNotice ++ [.faultRequest fault])
        (setLines m before) := by
    rw [← hlit, ← hm]
    rfl
  have hstate : ∀ p, stateOf (setLines m before) p = stateOf s p := fun p => by
    show (before.consist.table.get p).state = (s.consist.table.get p).state
    rw [hcpl]
  have hcs : ∀ k, (circuitRec (setLines m before) k).contributors = (circuitRec s k).contributors := fun k => by
    show (before.check.circuits.get k).contributors = (s.check.circuits.get k).contributors
    rw [hchk]
  have hself : Reported (setLines m before) (setLines m before) :=
    ⟨hnb, by rw [show (setLines m before).check = s.check from hchk]; exact hslot, rfl, rfl, rfl, fun _ => rfl⟩
  refine ⟨m, ?_, fun k => by rw [hg k, hlines], ?_⟩
  · cases hc : s.consist.cplPresent with
    | false =>
      have hnil : ((groupLines g).filter fun k => false && decide ((lineRec s k).onCount ≠ 0)) = [] :=
        List.filter_eq_nil_iff.mpr fun k _ => by simp
      rw [hnil, htrip]
      have hlen : ((groupLines g).filter fun k => decide ((lineRec s k).onCount ≠ 0)).length ≤ 4 :=
        (List.length_filter_le _ _).trans (by cases g <;> decide)
      have hact := (acts_trips_absent (s := setLines m before)
        ((groupLines g).filter fun k => decide ((lineRec s k).onCount ≠ 0)) hnb
        (by rw [show (setLines m before).consist = s.consist from hcpl]; exact hc)).append
          (acts_fault fault (s := setLines m before) hnb)
      exact hact.settle hnb (by omega)
    | true =>
      rw [hc] at hr
      have hlen : ((groupLines g).filter fun k => true && decide ((lineRec s k).onCount ≠ 0)).length ≤ 4 :=
        (List.length_filter_le _ _).trans (by cases g <;> decide)
      obtain ⟨hact, hkept⟩ := acts_trips (ks := (groupLines g).filter fun k => true && decide ((lineRec s k).onCount ≠ 0)) hself
        (by rw [show (setLines m before).consist = s.consist from hcpl]; exact hc)
        (fun k hk p => by rw [hstate]; exact (hr k hk).calm p) (fun k hk => by rw [hcs]; exact (hr k hk).listed)
        (fun k hk c hmem => by rw [hstate]; rw [hcs] at hmem; exact (hr k hk).occupied c hmem)
      rw [htrip]
      exact (hact.append (acts_fault fault hkept.notices)).settle hnb (by omega)
  · exact shortsReported_reported _ hself

/-- Settles O15: an assertion acts on the group's lines at once, and its trip notices on the circuits that were lit. -/
theorem faultInputsAct : Obligations.FaultInputsAct := by
  unfold Obligations.FaultInputsAct
  refine ⟨fun g s hn hf => ?_, fun g s => ⟨setFaultInput g false s, rfl, by cases g <;> rfl, fun x => ?_⟩⟩
  · obtain ⟨hset, htrip⟩ := groupTrip_exec hf
    refine ⟨fun ht => (hset ht).trans (congrArg _ (settle_eq ?_)), fun ht => ?_⟩
    · rw [← hn]; cases g <;> rfl
    obtain ⟨hcore, hflags, hinputs⟩ := tripGroup_flags g s
    refine ⟨_, htrip ht, fun k => ?_, hflags, hinputs, fun hslot hr => ?_⟩
    · rw [hcore k]
      by_cases hk : k ∈ groupLines g
      · rw [if_pos hk, if_pos (decide_eq_true hk)]; rfl
      · rw [if_neg hk, if_neg (by simpa using hk)]
    · obtain ⟨m, heq, hg, hkept⟩ := tripGroup_noSlot hn hslot hr
      have hdirect : (settle (tripGroup g (setFaultInput g true s))).direct =
          (setLines m (setGroupTrip g true (setFaultInput g true s))).direct := by rw [heq]; exact hkept.direct
      have hpolicy : (setLines m (setGroupTrip g true (setFaultInput g true s))).policy = s.policy := by cases g <;> rfl
      refine ⟨?_, fun k => ?_⟩
      · rw [hdirect]
        refine heq.trans ((takeFault_of_policy _ (hkept.policy.trans hpolicy)).trans ?_)
        rw [← shortsReported_setPolicy]
        cases g <;> rfl
      · rw [lineRec, hdirect]
        refine (hg k).trans ?_
        by_cases hk : k ∈ groupLines g
        · rw [if_pos hk, if_pos (decide_eq_true hk)]
        · rw [if_neg hk, if_neg (by simpa using hk)]
  · rw [faultInput_setFaultInput]
    by_cases hx : x = g <;> simp [hx]

end Sys2Proof.Machine
end

section
/-!
WRITE-WIRED and REARM-LINES (R119, R120, R123, R129, R131, R147).
-/
namespace Sys2Proof.Machine

variable {s t u : State}

/-! ## The Wired Profile -/

theorem clamp_eq {lo hi : Nat} (h : lo ≤ hi) (v : Nat) : clamp lo hi v = max lo (min hi v) := by
  unfold clamp
  split_ifs <;> omega

/-- R199: looking at every place again changes refresh times alone. -/
theorem syncRefresh_port (s : State) : ∃ rf, syncRefresh s = { s with port := { s.port with refresh := rf } } := by
  have hone : ∀ p g half (s : State), ∃ rf, syncOne p g half s = { s with port := { s.port with refresh := rf } } := by
    intro p g half s
    unfold syncOne
    split
    · split
      · exact ⟨_, rfl⟩
      · exact ⟨_, rfl⟩
    · exact ⟨_, rfl⟩
  have hgroups : ∀ p (gs : List Group) (s : State), ∃ rf,
      gs.foldl (fun s g => syncOne p g true (syncOne p g false s)) s = { s with port := { s.port with refresh := rf } } := by
    intro p gs
    induction gs with
    | nil => exact fun s => ⟨_, rfl⟩
    | cons g gs ih =>
      intro s
      obtain ⟨r1, h1⟩ := hone p g false s
      obtain ⟨r2, h2⟩ := hone p g true (syncOne p g false s)
      obtain ⟨r3, h3⟩ := ih (syncOne p g true (syncOne p g false s))
      exact ⟨r3, by rw [List.foldl_cons, h3, h2, h1]⟩
  have hall : ∀ (ps : List Pos) (s : State), ∃ rf,
      ps.foldl (fun s p => allGroups.foldl (fun s g => syncOne p g true (syncOne p g false s)) s) s =
        { s with port := { s.port with refresh := rf } } := by
    intro ps
    induction ps with
    | nil => exact fun s => ⟨_, rfl⟩
    | cons p ps ih =>
      intro s
      obtain ⟨r1, h1⟩ := hgroups p allGroups s
      obtain ⟨r2, h2⟩ := ih (allGroups.foldl (fun s g => syncOne p g true (syncOne p g false s)) s)
      exact ⟨r2, by rw [List.foldl_cons, h2, h1]⟩
  exact hall allPos s

theorem acts_syncRefresh (hn : s.notices = []) :
    ∃ rf, Acts 1 [.syncRefresh] s { s with port := { s.port with refresh := rf } } := by
  obtain ⟨rf, h⟩ := syncRefresh_port s
  exact ⟨rf, Acts.silent hn h hn⟩

theorem writeWired_exec {r : Request} {rest : List Request} {k : LineNo} {x : WiredField} {s' : State} (hs : s.Serving 6 r rest)
    (hl : 4 ≤ r.args.length) (hk : argByte r.args 0 = k.val) (hx : wiredFieldOf (argByte r.args 1) = some x)
    (hw : writeWiredField k x (argWord r.args 2) s = some s')
    (hr : s'.management.requests = s.management.requests) (hq : s'.port.queue = s.port.queue) :
    exec .writeWired s = .next (settle (s'.replied r rest .ok [])) := by
  refine congrArg (fun x => Host.Outcome.next (settle x)) ((serve_eq hs hl _).trans ?_)
  have hfield : (argLine r.args 0).bind (fun k => (wiredFieldOf (argByte r.args 1)).bind fun x =>
      writeWiredField k x (argWord r.args 2) s) = some s' := by
    rw [argLine_eq hk, hx]; exact hw
  rw [hfield]
  exact hs.answer_in .ok [] hr hq

/-- R119: a field whose write takes effect with no notice. -/
theorem writeWired_plain {r : Request} {rest : List Request} {k : LineNo} {x : WiredField} {s' : State} (hn : s.notices = [])
    (hs : s.Serving 6 r rest) (hl : 4 ≤ r.args.length) (hk : argByte r.args 0 = k.val)
    (hx : wiredFieldOf (argByte r.args 1) = some x) (hw : writeWiredField k x (argWord r.args 2) s = some s')
    (hs' : ∃ d, s' = { s with direct := d }) : exec .writeWired s = .next (s'.replied r rest .ok []) := by
  obtain ⟨d, rfl⟩ := hs'
  exact (writeWired_exec hs hl hk hx hw rfl rfl).trans (congrArg _ (settle_eq hn))

theorem argWord_low {args : List Byte} {i : Nat} (h : argByte args (i + 1) = 0) : lowByte (argWord args i) = some (argByte args i) := by
  have hlt : argByte args i < 256 := (args.getD i 0).isLt
  have hw : argWord args i = argByte args i := by unfold argWord; rw [h]; omega
  rw [hw]
  exact if_pos hlt

/-- R119: the fields kept as clamped, the timebase and the compensation mode. -/
theorem writeWired_fields {r : Request} {rest : List Request} {k : LineNo} (hn : s.notices = []) (hs : s.Serving 6 r rest)
    (hl : 4 ≤ r.args.length) (hk : argByte r.args 0 = k.val) :
    (argByte r.args 1 = 3 → exec .writeWired s = .next
        ((modWired k (fun w => { w with trip := max 500 (min 20000 (argWord r.args 2)) }) s).replied r rest .ok []))
      ∧ (argByte r.args 1 = 4 → exec .writeWired s = .next
        ((modWired k (fun w => { w with tLo := min 50 (argWord r.args 2) }) s).replied r rest .ok []))
      ∧ (argByte r.args 1 = 5 → exec .writeWired s = .next
        ((modWired k (fun w => { w with tHi := min 50 (argWord r.args 2) }) s).replied r rest .ok []))
      ∧ (argByte r.args 1 = 6 → exec .writeWired s = .next
        ((modWired k (fun w => { w with openMin := min 1000 (argWord r.args 2) }) s).replied r rest .ok []))
      ∧ (∀ x, argByte r.args 1 = 1 → argByte r.args 3 = 0 → tbOf (argByte r.args 2) = some x → exec .writeWired s = .next
        ((modWired k (fun w => { w with timebase := x }) s).replied r rest .ok []))
      ∧ (∀ x, argByte r.args 1 = 2 → argByte r.args 3 = 0 → compOf (argByte r.args 2) = some x → exec .writeWired s = .next
        ((if (lineRec s k).hold.isSome then modWired k (fun w => { w with comp := x }) s
          else modLine k (fun l => { l with pendingOn := lineOnCount (modWired k (fun w => { w with comp := x }) s) k })
            (modWired k (fun w => { w with comp := x }) s)).replied r rest .ok [])) := by
  have hz : ∀ hi v : Nat, clamp 0 hi v = min hi v := fun hi v => by rw [clamp_eq (Nat.zero_le _), Nat.zero_max]
  refine ⟨fun h => ?_, fun h => ?_, fun h => ?_, fun h => ?_, fun x h h3 hx => ?_, fun x h h3 hx => ?_⟩
  · refine writeWired_plain hn hs hl hk (x := .trip) (by rw [h]; rfl) ?_ ⟨_, rfl⟩
    rw [← clamp_eq (by decide)]; rfl
  · refine writeWired_plain hn hs hl hk (x := .tLo) (by rw [h]; rfl) ?_ ⟨_, rfl⟩
    rw [← hz]; rfl
  · refine writeWired_plain hn hs hl hk (x := .tHi) (by rw [h]; rfl) ?_ ⟨_, rfl⟩
    rw [← hz]; rfl
  · refine writeWired_plain hn hs hl hk (x := .openMin) (by rw [h]; rfl) ?_ ⟨_, rfl⟩
    rw [← hz]; rfl
  · refine writeWired_plain hn hs hl hk (x := .timebase) (by rw [h]; rfl) ?_ ⟨_, rfl⟩
    show ((lowByte (argWord r.args 2)).bind tbOf).map _ = _
    rw [argWord_low h3, Option.bind_some, hx]; rfl
  · refine writeWired_plain hn hs hl hk (x := .comp) (by rw [h]; rfl) (s' := recompute k (modWired k (fun w => { w with comp := x }) s))
      ?_ ?_
    · show ((lowByte (argWord r.args 2)).bind compOf).map _ = _
      rw [argWord_low h3, Option.bind_some, hx]; rfl
    · unfold recompute
      split <;> exact ⟨_, rfl⟩

/-- R119, R190: what WRITE-WIRED refuses. -/
theorem writeWired_refused {r : Request} {rest : List Request} (hn : s.notices = []) (hs : s.Serving 6 r rest)
    (hl : 4 ≤ r.args.length)
    (h : 8 ≤ argByte r.args 0 ∨ 7 ≤ argByte r.args 1
      ∨ (argByte r.args 1 = 0 ∧ argWord r.args 2 ≠ 255 ∧ 64 ≤ argWord r.args 2)
      ∨ ((argByte r.args 1 = 1 ∨ argByte r.args 1 = 2) ∧ (2 ≤ argByte r.args 2 ∨ argByte r.args 3 ≠ 0))) :
    exec .writeWired s = .next (s.replied r rest .badArg []) := by
  refine congrArg (fun x => Host.Outcome.next x) ((congrArg settle ((serve_eq hs hl _).trans ?_)).trans (settle_eq hn))
  have hfield : (argLine r.args 0).bind (fun k => (wiredFieldOf (argByte r.args 1)).bind fun x =>
      writeWiredField k x (argWord r.args 2) s) = none := by
    rcases h with h | h | ⟨h, hne, hge⟩ | ⟨h, hv⟩
    · rw [argLine_none h]; rfl
    · rw [wiredFieldOf_none h]; cases argLine r.args 0 <;> rfl
    · rw [h]
      cases argLine r.args 0 with
      | none => rfl
      | some k =>
        show writeWiredField k .code (argWord r.args 2) s = none
        refine (if_neg hne).trans ?_
        by_cases hlt : argWord r.args 2 < 192
        · have hkind : kindOf ⟨argWord r.args 2, hlt⟩ ≠ .lamp := by
            have hnot : ¬ argWord r.args 2 / 16 < 4 := by omega
            have hkind : kindOf ⟨argWord r.args 2, hlt⟩ = if argWord r.args 2 / 16 < 8 then .sensor else .actuator :=
              if_neg hnot
            rw [hkind]
            split <;> decide
          exact (dif_pos hlt).trans (if_neg hkind)
        · exact dif_neg hlt
    · have hlow : ∀ {α : Type} (g : Nat → Option α), (∀ n, 2 ≤ n → g n = none) → (lowByte (argWord r.args 2)).bind g = none := by
        intro α g hg
        by_cases h3 : argByte r.args 3 = 0
        · rw [argWord_low h3]
          exact hg _ (hv.resolve_right fun hc => hc h3)
        · have hge : ¬ argWord r.args 2 < 256 := by
            have h3' : argByte r.args (2 + 1) ≠ 0 := h3
            unfold argWord
            omega
          rw [show lowByte (argWord r.args 2) = none from if_neg hge]; rfl
      have hcomp : ∀ n, 2 ≤ n → compOf n = none := by
        intro n hn
        unfold compOf
        split
        case h_3 => rfl
        all_goals omega
      cases argLine r.args 0 with
      | none => rfl
      | some k =>
        rcases h with h | h
        · rw [h]
          show ((lowByte (argWord r.args 2)).bind tbOf).map _ = none
          rw [hlow tbOf fun n hn => tbOf_none hn]; rfl
        · rw [h]
          show ((lowByte (argWord r.args 2)).bind compOf).map _ = none
          rw [hlow compOf hcomp]; rfl
  rw [hfield]
  exact hs.answer .badArg []

/-- R131, R146: a hold ended, by whether a window stands open on the circuit. -/
theorem endHold_eq (k : LineNo) (s : State) :
    (windowOn s k = false → endHold k s = modLine k (fun l => { l with
        hold := none
        pendingOn := onCountOf (if l.exercise then 255 else codeLevel s (wiredOf s k).code) (timebase s l.tb).period
          (wiredOf s k).comp s.settings.vref s.direct.supply }) s)
      ∧ (windowOn s k = true → endHold k s = modLine k (fun l => { l with
        hold := none
        exercise := true
        pendingOn := (timebase s l.tb).period + 1 }) s) := by
  have hended : computePending k (clearHold k s) = modLine k (fun l => { l with
      hold := none
      pendingOn := onCountOf (if l.exercise then 255 else codeLevel s (wiredOf s k).code) (timebase s l.tb).period
        (wiredOf s k).comp s.settings.vref s.direct.supply }) s := by
    show computePending k (setLines (s.direct.lines.upd k fun l => { l with hold := none }) s) = _
    rw [computePending_setLines, Tab.upd_upd]
    rfl
  have hwin : windowOn (computePending k (clearHold k s)) k = windowOn s k := rfl
  unfold endHold windowAfterHold
  rw [hwin]
  refine ⟨fun h => (if_neg (by rw [h]; decide)).trans hended, fun h => (if_pos h).trans ?_⟩
  rw [hended, openLineWindow_free (by rw [lineRec_modLine, if_pos rfl]), modLine_modLine]
  refine congrArg (fun l => setLines l s) (Tab.upd_congr _ _ ?_)
  rw [modLine_eq, timebase_setLines]

/-! ## The function code of a line -/

theorem writeCode_exec {r : Request} {rest : List Request} {k : LineNo} {c : Option Code} (hn : s.notices = [])
    (hs : s.Serving 6 r rest) (hl : 4 ≤ r.args.length) (hk : argByte r.args 0 = k.val) (h1 : argByte r.args 1 = 0)
    (hc : argWord r.args 2 = 255 ∧ c = none ∨ ∃ f, c = some f ∧ argWord r.args 2 = f.val ∧ kindOf f = .lamp) :
    exec .writeWired s = .next (settle (emitAll [.levelBeneath (.profile k), .syncRefresh]
      ((endHold k (modWired k (fun w => { w with code := c }) s)).replied r rest .ok []))) := by
  have hw : writeWiredField k .code (argWord r.args 2) s = some (writeWiredCode k c s) := by
    rcases hc with ⟨hv, rfl⟩ | ⟨f, rfl, hv, hf⟩
    · exact if_pos hv
    · have hlt : argWord r.args 2 < 192 := by rw [hv]; exact f.isLt
      have hcode : (⟨argWord r.args 2, hlt⟩ : Code) = f := Fin.ext hv
      have hne : argWord r.args 2 ≠ 255 := by omega
      refine (if_neg hne).trans ((dif_pos hlt).trans ?_)
      rw [hcode]
      exact if_pos hf
  have hendHold : ∃ d, endHold k (modWired k (fun w => { w with code := c }) s) = { s with direct := d } := by
    cases hwin : windowOn (modWired k (fun w => { w with code := c }) s) k with
    | false => exact ⟨_, (endHold_eq k _).1 hwin⟩
    | true => exact ⟨_, (endHold_eq k _).2 hwin⟩
  obtain ⟨d, hd⟩ := hendHold
  have hs' : writeWiredCode k c s = emitAll [.levelBeneath (.profile k), .syncRefresh] { s with direct := d } := by
    unfold writeWiredCode; rw [hd]
  rw [writeWired_exec hs hl hk (x := .code) (by rw [h1]; rfl) hw (by rw [hs']; rfl) (by rw [hs']; rfl), hs', hd]
  rfl

/-- R147: a profile write that leaves the slot's check as it is leaves only refresh times to be looked at again. -/
theorem settle_profile {k : LineNo} (hn : t.notices = []) (h : windowToDriven t = t) :
    ∃ rf, settle (emitAll [.levelBeneath (.profile k), .syncRefresh] t) = { t with port := { t.port with refresh := rf } } := by
  obtain ⟨rf, hrf⟩ := acts_syncRefresh hn
  exact ⟨rf, (Acts.cons (k := 1) (l := 1) (Acts.silent (x := .levelBeneath (.profile k)) hn h hn) hrf).settle hn (by decide)⟩

theorem windowToDriven_still (h : ∀ sl, s.check.slot = some sl → sl.window = false ∨ levelBeneath s sl.entry.target = 0) :
    windowToDriven s = s := by
  unfold windowToDriven
  split
  · rename_i sl hsl
    refine if_neg fun hc => ?_
    rcases h sl hsl with hw | hz
    · exact absurd hc.1 (by rw [hw]; decide)
    · exact hc.2 hz
  · rfl

/-- R147: the window of a circuit with no contributors becomes DRIVEN, its level beneath not 0. -/
theorem acts_windowToDriven {k : LineNo} {sl : Slot} (hn : s.notices = []) (hsl : s.check.slot = some sl)
    (hw : sl.window = true) (ht : sl.entry.target = .circuit k) (hlevel : codeLevel s (wiredOf s k).code ≠ 0)
    (hcs : (circuitRec s k).contributors = []) (hidle : ∀ p, inService s p = false) (cause : LevelChange) :
    Acts 2 [.levelBeneath cause] s (closeLineWindow k (setSlot (some { sl with window := false }) s)) := by
  let t := closeLineWindow k (setSlot (some { sl with window := false }) s)
  have hdirect : ∃ d, t = { setSlot (some { sl with window := false }) s with direct := d } := by
    show ∃ d, recompute k (modLine k _ (setSlot (some { sl with window := false }) s)) = _
    unfold recompute
    split <;> exact ⟨_, rfl⟩
  obtain ⟨d, hd⟩ := hdirect
  have hcov : coveredBy (setSlot (some { sl with window := false }) s) (.circuit k) = [] := by
    show (circuitRec s k).contributors.map _ = []
    rw [hcs]; rfl
  have hrun : windowToDriven s = emitAll [.windowNotice false []] t := by
    have hlb : levelBeneath s (.circuit k) ≠ 0 := hlevel
    unfold windowToDriven
    rw [hsl]
    dsimp only
    rw [ht, if_pos ⟨hw, hlb⟩]
    unfold closeWindow
    rw [hcov]
    rfl
  have htn : t.notices = [] := by rw [hd]; exact hn
  have hrest : restNotices t = [] := by
    unfold restNotices
    refine List.flatMap_eq_nil_iff.mpr fun p _ => if_neg ?_
    have hin : inService t p = inService s p := by rw [hd]; rfl
    rw [hin, hidle]
    decide
  have hwin : Acts 1 [.windowNotice false []] t t := by
    refine Acts.silent htn ?_ htn
    show takeWindow false [] t = t
    rw [takeWindow_nil, hrest, emitAll_nil]
  exact Acts.run (k := 1) hn hrun htn hwin

theorem wiredOf_modWired (k : LineNo) (f : WiredEntry → WiredEntry) (s : State) (j : LineNo) :
    wiredOf (modWired k f s) j = if j = k then f (wiredOf s k) else wiredOf s j := by
  simp [wiredOf, modWired, Tab.get_upd]

/-- R119, R120: the line as the write of its function code leaves it. -/
theorem endHold_modWired (k : LineNo) (c : Option Code) (s : State) :
    (windowOn s k = false → endHold k (modWired k (fun w => { w with code := c }) s) = modLine k (fun l => { l with
        hold := none
        pendingOn := onCountOf (if l.exercise then 255 else (c.map fun f => (commandOf s f).value).getD 0)
          (timebase s (lineRec s k).tb).period (wiredOf s k).comp s.settings.vref s.direct.supply })
          (modWired k (fun w => { w with code := c }) s))
      ∧ (windowOn s k = true → endHold k (modWired k (fun w => { w with code := c }) s) = modLine k (fun l => { l with
        hold := none
        exercise := true
        pendingOn := onCountOf 255 (timebase s (lineRec s k).tb).period (wiredOf s k).comp s.settings.vref s.direct.supply })
          (modWired k (fun w => { w with code := c }) s)) := by
  have htb : ∀ t, timebase (modWired k (fun w => { w with code := c }) s) t = timebase s t := by intro t; cases t <;> rfl
  have hwired : wiredOf (modWired k (fun w => { w with code := c }) s) k = { wiredOf s k with code := c } := by
    rw [wiredOf_modWired, if_pos rfl]
  obtain ⟨hno, hwin⟩ := endHold_eq k (modWired k (fun w => { w with code := c }) s)
  refine ⟨fun h => (hno h).trans ?_, fun h => (hwin h).trans ?_⟩
  · refine congrArg (fun l => setLines l (modWired k (fun w => { w with code := c }) s)) (Tab.upd_congr _ _ ?_)
    rw [hwired, htb, ← codeLevel_eq]
    rfl
  · refine congrArg (fun l => setLines l (modWired k (fun w => { w with code := c }) s)) (Tab.upd_congr _ _ ?_)
    rw [htb, onCountOf_full]
    rfl

/-- The level beneath a window on another circuit, or at a lamp, does not see the written profile. -/
theorem levelBeneath_modWired {k : LineNo} {c : Option Code} {d : Target} (h : d ≠ .circuit k) :
    levelBeneath (modWired k (fun w => { w with code := c }) s) d = levelBeneath s d := by
  cases d with
  | circuit j =>
    have hj : j ≠ k := fun e => h (by rw [e])
    show codeLevel s (wiredOf (modWired k (fun w => { w with code := c }) s) j).code = codeLevel s (wiredOf s j).code
    rw [wiredOf_modWired, if_neg hj]
  | lamp p f => rfl

theorem windowOn_of_slot {k : LineNo} (h : ∀ sl, s.check.slot = some sl → sl.window = false ∨ sl.entry.target ≠ .circuit k) :
    windowOn s k = false := by
  unfold windowOn
  split
  · rename_i sl hsl
    rcases h sl hsl with hw | ht
    · rw [hw]; rfl
    · rw [decide_eq_false ht, Bool.and_false]
  · rfl

section
variable {r : Request} {rest : List Request} {k : LineNo} {c : Option Code} (hn : s.notices = []) (hs : s.Serving 6 r rest)
  (hl : 4 ≤ r.args.length) (hk : argByte r.args 0 = k.val) (h1 : argByte r.args 1 = 0)
  (hc : argWord r.args 2 = 255 ∧ c = none ∨ ∃ f, c = some f ∧ argWord r.args 2 = f.val ∧ kindOf f = .lamp)
include hn hs hl hk h1 hc

/-- R120: the write of a function code with no window open on the circuit that could turn DRIVEN. -/
theorem writeCode_noWindow
    (hslot : ∀ sl, s.check.slot = some sl → sl.window = false ∨ (sl.entry.target ≠ .circuit k ∧ levelBeneath s sl.entry.target = 0)) :
    ∃ rf, exec .writeWired s = .next (
      let s4 := (modLine k (fun l => { l with
        hold := none
        pendingOn := onCountOf (if l.exercise then 255 else (c.map fun f => (commandOf s f).value).getD 0)
          (timebase s (lineRec s k).tb).period (wiredOf s k).comp s.settings.vref s.direct.supply })
          (modWired k (fun w => { w with code := c }) s)).replied r rest .ok []
      { s4 with port := { s4.port with refresh := rf } }) := by
  have hwin : windowOn s k = false := windowOn_of_slot fun sl hsl => (hslot sl hsl).imp id And.left
  have hexec := writeCode_exec hn hs hl hk h1 hc
  rw [(endHold_modWired k c s).1 hwin] at hexec
  obtain ⟨rf, hrf⟩ := settle_profile (k := k) (t := (modLine k (fun l => { l with
        hold := none
        pendingOn := onCountOf (if l.exercise then 255 else (c.map fun f => (commandOf s f).value).getD 0)
          (timebase s (lineRec s k).tb).period (wiredOf s k).comp s.settings.vref s.direct.supply })
          (modWired k (fun w => { w with code := c }) s)).replied r rest .ok []) hn
    (windowToDriven_still fun sl hsl => (hslot sl hsl).imp id fun h => (levelBeneath_modWired (c := c) h.1).trans h.2)
  exact ⟨rf, hexec.trans (congrArg _ hrf)⟩

/-- R147: the write of a function code under a window of its own circuit, the level beneath staying 0. -/
theorem writeCode_window {sl : Slot} (hsl : s.check.slot = some sl) (hw : sl.window = true) (ht : sl.entry.target = .circuit k)
    (hlevel : (c.map fun f => (commandOf s f).value).getD 0 = 0) :
    ∃ rf, exec .writeWired s = .next (
      let s4 := (modLine k (fun l => { l with
        hold := none
        exercise := true
        pendingOn := onCountOf 255 (timebase s (lineRec s k).tb).period (wiredOf s k).comp s.settings.vref s.direct.supply })
          (modWired k (fun w => { w with code := c }) s)).replied r rest .ok []
      { s4 with port := { s4.port with refresh := rf } }) := by
  have hwin : windowOn s k = true := (windowOn_slot hsl ht).trans hw
  have hexec := writeCode_exec hn hs hl hk h1 hc
  rw [(endHold_modWired k c s).2 hwin] at hexec
  have hzero : levelBeneath (modWired k (fun w => { w with code := c }) s) (.circuit k) = 0 := by
    show codeLevel s (wiredOf (modWired k (fun w => { w with code := c }) s) k).code = 0
    rw [wiredOf_modWired, if_pos rfl, codeLevel_eq]
    exact hlevel
  obtain ⟨rf, hrf⟩ := settle_profile (k := k) (t := (modLine k (fun l => { l with
        hold := none
        exercise := true
        pendingOn := onCountOf 255 (timebase s (lineRec s k).tb).period (wiredOf s k).comp s.settings.vref s.direct.supply })
          (modWired k (fun w => { w with code := c }) s)).replied r rest .ok []) hn
    (windowToDriven_still fun sl' hsl' => by
      have he : sl' = sl := Option.some.inj (hsl'.symm.trans hsl)
      rw [he, ht]
      exact Or.inr hzero)
  exact ⟨rf, hexec.trans (congrArg _ hrf)⟩

/-- R147: the write of a function code whose level turns the window of its circuit into a DRIVEN check. -/
theorem writeCode_driven {sl : Slot} (hsl : s.check.slot = some sl) (hw : sl.window = true) (ht : sl.entry.target = .circuit k)
    (hlevel : (c.map fun f => (commandOf s f).value).getD 0 ≠ 0) (hcs : (circuitRec s k).contributors = [])
    (hidle : ∀ p, inService s p = false) :
    ∃ rf, exec .writeWired s = .next (
      let s3 := modLine k (fun l => { l with
        hold := none
        exercise := false
        pendingOn := onCountOf ((c.map fun f => (commandOf s f).value).getD 0) (timebase s (lineRec s k).tb).period
          (wiredOf s k).comp s.settings.vref s.direct.supply }) (modWired k (fun w => { w with code := c }) s)
      let s4 := State.replied { s3 with check := { s.check with slot := some { sl with window := false } } } r rest .ok []
      { s4 with port := { s4.port with refresh := rf } }) := by
  have hwin : windowOn s k = true := (windowOn_slot hsl ht).trans hw
  have hexec := writeCode_exec hn hs hl hk h1 hc
  rw [(endHold_modWired k c s).2 hwin] at hexec
  let s2 := modWired k (fun w => { w with code := c }) s
  let t := (modLine k (fun l => { l with
        hold := none
        exercise := true
        pendingOn := onCountOf 255 (timebase s (lineRec s k).tb).period (wiredOf s k).comp s.settings.vref s.direct.supply })
          s2).replied r rest .ok []
  have hcode : (wiredOf t k) = { wiredOf s k with code := c } := by
    show wiredOf s2 k = _
    rw [wiredOf_modWired, if_pos rfl]
  have hnot0 : codeLevel t (wiredOf t k).code ≠ 0 := by
    rw [hcode, codeLevel_eq]; exact hlevel
  have hdriven := acts_windowToDriven (s := t) hn hsl hw ht hnot0 hcs hidle (.profile k)
  have hclosed : closeLineWindow k (setSlot (some { sl with window := false }) t) =
      State.replied { modLine k (fun l => { l with
        hold := none
        exercise := false
        pendingOn := onCountOf ((c.map fun f => (commandOf s f).value).getD 0) (timebase s (lineRec s k).tb).period
          (wiredOf s k).comp s.settings.vref s.direct.supply }) s2 with
        check := { s.check with slot := some { sl with window := false } } } r rest .ok [] := by
    have htb : ∀ x, timebase (setSlot (some { sl with window := false }) t) x = timebase s x := by intro x; cases x <;> rfl
    unfold closeLineWindow
    rw [modLine_eq, recompute_setLines]
    refine congrArg (fun l => setLines l (setSlot (some { sl with window := false }) t)) ?_
    rw [Tab.upd_upd]
    have hbefore : (setSlot (some { sl with window := false }) t).direct.lines = s.direct.lines.upd k (fun l => { l with
        hold := none
        exercise := true
        pendingOn := onCountOf 255 (timebase s (lineRec s k).tb).period (wiredOf s k).comp s.settings.vref
          s.direct.supply }) := rfl
    rw [hbefore, Tab.upd_upd]
    refine Tab.upd_congr s.direct.lines k ?_
    unfold pitched
    have hw' : wiredOf (setSlot (some { sl with window := false }) t) k = { wiredOf s k with code := c } := hcode
    have hlev : codeLevel (setSlot (some { sl with window := false }) t) c = codeLevel s c := by cases c <;> rfl
    rw [hw', htb, ← codeLevel_eq]
    simp only [Option.isSome_none, Bool.false_eq_true, if_false, hlev]
    rfl
  rw [hclosed] at hdriven
  obtain ⟨rf, hrf⟩ := acts_syncRefresh (s := State.replied { modLine k (fun l => { l with
        hold := none
        exercise := false
        pendingOn := onCountOf ((c.map fun f => (commandOf s f).value).getD 0) (timebase s (lineRec s k).tb).period
          (wiredOf s k).comp s.settings.vref s.direct.supply }) s2 with
        check := { s.check with slot := some { sl with window := false } } } r rest .ok []) hn
  exact ⟨rf, hexec.trans (congrArg _ ((Acts.cons hdriven hrf).settle hn (by decide)))⟩

end

end Sys2Proof.Machine
end

section
/-!
Re-arming the lines (R129), and the requests that configure them.
-/
namespace Sys2Proof.Machine

variable {s t u : State}

/-! ## Re-arming -/

/-- R129: what re-arming a group does to a line: it is named, of that group, and the group does not stay tripped. -/
theorem rearmGroup_spec {named : List LineNo} (hnd : named.Nodup) (g : FaultGroup) (s : State) :
    (∃ a b m, rearmGroup named g s = { s with direct := { s.direct with tripA := a, tripB := b, lines := m } })
      ∧ (∀ x, groupTripped (rearmGroup named g s) x =
          if x = g ∧ (∃ k ∈ named, lineGroup k = g) ∧ groupStaysTripped s g = false then false else groupTripped s x)
      ∧ ∀ k, lineRec (rearmGroup named g s) k =
          if k ∈ named ∧ lineGroup k = g ∧ groupStaysTripped s g = false then { lineRec s k with trip := false }
          else lineRec s k := by
  have hmine : (named.filter fun k => decide (lineGroup k = g)).isEmpty = true ↔ ¬ ∃ k ∈ named, lineGroup k = g := by
    rw [List.isEmpty_iff, List.filter_eq_nil_iff]
    simp
  unfold rearmGroup
  dsimp only
  by_cases h : ((named.filter fun k => decide (lineGroup k = g)).isEmpty || groupStaysTripped s g) = true
  · rw [if_pos h]
    have hno : ¬ ((∃ k ∈ named, lineGroup k = g) ∧ groupStaysTripped s g = false) := by
      rintro ⟨hex, hst⟩
      rcases Bool.or_eq_true_iff.mp h with he | hs
      · exact hmine.mp he hex
      · rw [hst] at hs; cases hs
    refine ⟨⟨_, _, _, rfl⟩, fun x => (if_neg fun hc => hno hc.2).symm, fun k => (if_neg fun hc => hno ?_).symm⟩
    exact ⟨⟨k, hc.1, hc.2.1⟩, hc.2.2⟩
  · rw [if_neg h]
    have hst : groupStaysTripped s g = false := Bool.eq_false_iff.mpr fun hc => h (by rw [hc, Bool.or_true])
    have hex : ∃ k ∈ named, lineGroup k = g := by
      by_contra hc
      exact h (by rw [hmine.mpr hc, Bool.true_or])
    have hlines : ∀ k, lineRec (setGroupTrip g false s) k = lineRec s k := by intro k; cases g <;> rfl
    obtain ⟨m, hm, hg⟩ := foldl_lines (setGroupTrip g false s)
      (fun s k => modLine k (fun l => { l with trip := false }) s) (fun _ l => { l with trip := false }) (fun _ _ _ => rfl)
      (named.filter fun k => decide (lineGroup k = g)) (hnd.filter _) (setGroupTrip g false s).direct.lines (fun _ _ => rfl)
    rw [setLines_self] at hm
    rw [hm]
    refine ⟨by cases g <;> exact ⟨_, _, _, rfl⟩, fun x => ?_, fun k => ?_⟩
    · rw [groupTripped_setLines, groupTripped_setGroupTrip]
      by_cases hx : x = g
      · rw [if_pos hx, if_pos ⟨hx, hex, hst⟩]
      · rw [if_neg hx, if_neg fun hc => hx hc.1]
    · rw [lineRec_setLines, hg k, hlines]
      simp only [List.mem_filter, decide_eq_true_eq, hst, and_true]
      by_cases hk : k ∈ named ∧ lineGroup k = g
      · rw [if_pos hk, if_pos hk]
      · rw [if_neg hk, if_neg hk]
        exact hlines k

theorem mem_lineSet (n : Nat) (k : LineNo) : k ∈ lineSet n ↔ n.testBit k.val = true := by
  unfold lineSet
  rw [List.mem_filter]
  exact and_iff_right (mem_allLines k)

/-- R190: a line set of one byte names no line just where it is 0. -/
theorem lineSet_isEmpty {n : Nat} (h : n < 256) : (lineSet n).isEmpty = true ↔ n = 0 := by
  rw [List.isEmpty_iff]
  constructor
  · intro he
    apply Nat.eq_of_testBit_eq
    intro i
    rw [Nat.zero_testBit]
    by_cases hi : i < 8
    · by_contra hb
      have : (⟨i, hi⟩ : LineNo) ∈ lineSet n := (mem_lineSet n _).mpr (by simpa using hb)
      rw [he] at this; cases this
    · exact Nat.testBit_lt_two_pow (Nat.lt_of_lt_of_le h (Nat.pow_le_pow_right (by decide) (Nat.not_lt.mp hi) : 2 ^ 8 ≤ 2 ^ i))
  · rintro rfl
    exact List.filter_eq_nil_iff.mpr fun k _ => by simp

theorem rearmLines_cases {r : Request} {rest : List Request} (hs : s.Serving 22 r rest) (hl : 1 ≤ r.args.length) :
    (argByte r.args 0 = 0 → exec .rearmLines s = .next (s.replied r rest .badArg []))
      ∧ (argByte r.args 0 ≠ 0 → ∃ t, exec .rearmLines s = .next t
        ∧ t = State.replied { s with direct := { s.direct with
            tripA := t.direct.tripA, tripB := t.direct.tripB, lines := t.direct.lines } } r rest
            (if ∃ k : LineNo, (argByte r.args 0).testBit k.val = true ∧ groupStaysTripped s (lineGroup k) = true
              then .notReady else .ok) []
        ∧ (∀ g, groupTripped t g =
            if (∃ k : LineNo, (argByte r.args 0).testBit k.val = true ∧ lineGroup k = g) ∧ groupStaysTripped s g = false then false
            else groupTripped s g)
        ∧ ∀ k : LineNo, lineRec t k =
            if (argByte r.args 0).testBit k.val = true ∧ groupStaysTripped s (lineGroup k) = false then
              { lineRec s k with trip := false } else lineRec s k) := by
  have hlt : argByte r.args 0 < 256 := (r.args.getD 0 0).isLt
  refine ⟨fun h => congrArg Host.Outcome.next ((serve_eq hs hl _).trans ((if_pos ?_).trans (hs.answer _ _))), fun h => ?_⟩
  · exact (lineSet_isEmpty hlt).mpr h
  let named := lineSet (argByte r.args 0)
  have hnd : named.Nodup := allLines_nodup.filter _
  obtain ⟨⟨a1, b1, m1, h1⟩, hgr1, hline1⟩ := rearmGroup_spec hnd .fa s
  obtain ⟨⟨a2, b2, m2, h2⟩, hgr2, hline2⟩ := rearmGroup_spec hnd .fb (rearmGroup named .fa s)
  have hblocked : (if rearmBlocked named s then ResultCode.notReady else .ok) =
      if ∃ k : LineNo, (argByte r.args 0).testBit k.val = true ∧ groupStaysTripped s (lineGroup k) = true then .notReady else .ok := by
    have hiff : rearmBlocked named s = true ↔
        ∃ k : LineNo, (argByte r.args 0).testBit k.val = true ∧ groupStaysTripped s (lineGroup k) = true := by
      unfold rearmBlocked
      rw [List.any_eq_true]
      simp only [named, mem_lineSet]
    by_cases hb : rearmBlocked named s = true
    · rw [if_pos hb, if_pos (hiff.mp hb)]
    · rw [if_neg hb, if_neg (mt hiff.mpr hb)]
  have hstays : groupStaysTripped (rearmGroup named .fa s) .fb = groupStaysTripped s .fb := by
    unfold groupStaysTripped
    rw [hgr1, if_neg (fun hc => by cases hc.1)]
    have : faultInput (rearmGroup named .fa s) .fb = faultInput s .fb := by rw [h1]; rfl
    rw [this]
  have hnone : ∀ k : LineNo, lineGroup k = .fa ∨ lineGroup k = .fb := by intro k; cases lineGroup k <;> simp
  refine ⟨State.replied (rearmGroup named .fb (rearmGroup named .fa s)) r rest
      (if ∃ k : LineNo, (argByte r.args 0).testBit k.val = true ∧ groupStaysTripped s (lineGroup k) = true then .notReady else .ok) [],
    congrArg Host.Outcome.next ((serve_eq hs hl _).trans ((if_neg (mt (lineSet_isEmpty hlt).mp h)).trans ?_)), ?_, fun g => ?_,
    fun k => ?_⟩
  · rw [← hblocked]
    exact hs.answer_in _ [] (by rw [h2, h1]) (by rw [h2, h1])
  · have hform : rearmGroup named .fb (rearmGroup named .fa s) =
        { s with direct := { s.direct with tripA := a2, tripB := b2, lines := m2 } } := by rw [h2, h1]
    rw [hform]
    rfl
  · show groupTripped (rearmGroup named .fb (rearmGroup named .fa s)) g = _
    rw [hgr2, hgr1, hstays]
    have hex : ∀ x, (∃ k ∈ named, lineGroup k = x) ↔ ∃ k : LineNo, (argByte r.args 0).testBit k.val = true ∧ lineGroup k = x :=
      fun x => exists_congr fun k => and_congr_left' (mem_lineSet _ k)
    simp only [hex]
    cases g <;> simp
  · show lineRec (rearmGroup named .fb (rearmGroup named .fa s)) k = _
    rw [hline2, hline1, hstays]
    simp only [named, mem_lineSet]
    rcases hnone k with hk | hk
    · simp [hk]
    · simp [hk]

/-- Settles O50: the fields of the Wired Profile one by one, and the re-arming of the named lines. -/
theorem linesAreConfigured : Obligations.LinesAreConfigured := by
  unfold Obligations.LinesAreConfigured
  intro s r rest hn
  dsimp only
  refine ⟨fun k hs hl hk => ?_, fun hs hl h => writeWired_refused hn hs hl h, fun hs hl => rearmLines_cases hs hl⟩
  obtain ⟨htrip, hlo, hhi, hopen, htb, hcomp⟩ := writeWired_fields hn hs hl hk
  refine ⟨htrip, hlo, hhi, hopen, htb, hcomp, fun c h1 hc => ⟨fun hslot => ?_, fun sl hsl hw ht => ⟨fun h0 => ?_, fun h0 hcs hidle _ => ?_⟩⟩⟩
  · obtain ⟨rf, h⟩ := writeCode_noWindow hn hs hl hk h1 hc hslot
    exact ⟨_, h, rfl⟩
  · obtain ⟨rf, h⟩ := writeCode_window hn hs hl hk h1 hc hsl hw ht h0
    exact ⟨_, h, rfl⟩
  · obtain ⟨rf, h⟩ := writeCode_driven hn hs hl hk h1 hc hsl hw ht h0 hcs hidle
    exact ⟨_, h, rfl⟩

end Sys2Proof.Machine
end

section
/-!
What the Delivery Unit makes of a look at every position where one delivery is due, or one stop owed (R96, R110).
-/
namespace Sys2Proof.Machine

variable {s t u : State}

/-! ## What marking a block as used leaves -/

theorem state_reference (b c : BlockNo) (s : State) : (blockOf (reference b s) c).state = (blockOf s c).state := by
  simp only [blockOf, reference, modBlock, Tab.get_upd]
  split
  · rename_i h; subst h; rfl
  · rfl

theorem groupHeld_reference (b : BlockNo) (s : State) (p : Pos) (g : Group) :
    groupHeld (reference b s) p g = groupHeld s p g := by
  have hfetch : groupFetching (reference b s) p g = groupFetching s p g := by
    have hrec : groupRec (reference b s) p g = groupRec s p g := rfl
    unfold groupFetching
    rw [hrec]
    cases (groupRec s p g).block with
    | none => rfl
    | some c => dsimp only; rw [state_reference]
  unfold groupHeld
  rw [hfetch]
  rfl

theorem isHeld_reference (b : BlockNo) (s : State) (p : Pos) (f : Code) (v : Nat) :
    isHeld (reference b s) p f v = isHeld s p f v := by
  unfold isHeld
  rw [groupHeld_reference]
  rfl

theorem offerable_reference (b : BlockNo) (s : State) (p : Pos) (second : Bool) (f : Code) :
    offerable (reference b s) p second f = offerable s p second f := by
  have ht : targetOf (reference b s) p f = targetOf s p f := rfl
  have hd : isDue (reference b s) p f = isDue s p f := rfl
  unfold offerable
  rw [ht, hd]
  simp only [isHeld_reference]

theorem stopHeld_reference (b : BlockNo) (s : State) (p : Pos) (o : OwedStop) :
    stopHeld (reference b s) p o = stopHeld s p o := by
  unfold stopHeld
  rw [groupHeld_reference]
  rfl

theorem dueRead_reference (b : BlockNo) (s : State) (p : Pos) (f : Code) : dueRead (reference b s) p f = dueRead s p f := by
  have he : entryOf (reference b s) p f = entryOf s p f := rfl
  have hn : (reference b s).now = s.now := rfl
  have hi : inService (reference b s) p = inService s p := rfl
  have hs : stateOf (reference b s) p = stateOf s p := rfl
  unfold dueRead
  simp only [groupHeld_reference, he, hn, hi, hs]

theorem dueReads_reference (b : BlockNo) (s : State) (p : Pos) : dueReads (reference b s) p = dueReads s p := by
  unfold dueReads
  simp only [dueRead_reference]

/-- R96, R110, R151: a position with nothing to offer has none with a block marked as used. -/
theorem State.AtRest.reference {p : Pos} (h : s.AtRest p) (b : BlockNo) : (Machine.reference b s).AtRest p where
  stops o ho := (stopHeld_reference b s p o).trans (h.stops o ho)
  deliveries second f := (offerable_reference b s p second f).trans (h.deliveries second f)
  management := h.management
  first := h.first
  second := h.second
  reads := (dueReads_reference b s p).trans h.reads

/-! ## Offers behind others -/

theorem standing_append (os : List Offer) (r : Requester) (c : ArbClass) (q : LinePos) {o : Offer}
    (h : standing s r c q = none) (hs : s.line.offers = os) (hne : ¬ (o.requester = r ∧ o.cls = c ∧ o.pos = q)) :
    standing (setOffers (fun os => os ++ [o]) s) r c q = none := by
  unfold standing at h ⊢
  show (s.line.offers ++ [o]).find? _ = none
  rw [List.find?_append, h]
  have : (decide (o.requester = r) && decide (o.cls = c) && decide (o.pos = q)) = false := by
    rw [Bool.eq_false_iff]
    intro hc
    simp only [Bool.and_eq_true, decide_eq_true_eq] at hc
    exact hne ⟨hc.1.1, hc.1.2, hc.2⟩
  simp [this]

theorem linePos_injective {p q : Pos} (h : linePos p = linePos q) : p = q := Fin.succ_injective _ h

/-- R33: an offer for one position leaves another as it was. -/
theorem State.AtRest.offers {p : Pos} (h : s.AtRest p) {o : Offer} (ho : o.pos ≠ linePos p) :
    (setOffers (fun os => os ++ [o]) s).AtRest p where
  stops := h.stops
  deliveries := h.deliveries
  management := h.management
  first := standing_append _ _ _ _ h.first rfl fun hc => ho hc.2.2
  second := standing_append _ _ _ _ h.second rfl fun hc => ho hc.2.2
  reads := h.reads

theorem State.AtRest.noteOffered {p : Pos} (h : s.AtRest p) (q : Pos) (c : Bool) (f : Code) :
    (Machine.noteOffered q c f s).AtRest p :=
  ⟨⟨h.stops, h.deliveries, h.management, h.first, h.second⟩, h.reads⟩

/-! ## One delivery due -/

theorem mem_codesAfter (last f : Code) : f ∈ codesAfter last := by
  have hall : f ∈ allCodes := List.mem_finRange f
  unfold codesAfter
  rw [List.mem_append, or_comm, ← List.mem_append, List.take_append_drop]
  exact hall

/-- R96: a scan of the codes finds the one delivery that is due and unheld. -/
theorem scanCodes_one {p : Pos} {second : Bool} {f : Code} {v : Nat} {fs : List Code} (hf : f ∈ fs)
    (h : ∀ g, offerable s p second g = if g = f then some v else none) (hd : deliverOne p f v s = (true, t)) :
    scanCodes p second fs s = t := by
  obtain ⟨xs, ys, rfl, hx⟩ := List.eq_append_cons_of_mem hf
  rw [scanCodes_skip second xs (f :: ys) fun g hg => by rw [h, if_neg]; rintro rfl; exact hx hg]
  have hoff : offerable s p second f = some v := by rw [h, if_pos rfl]
  unfold scanCodes
  rw [hoff]
  dsimp only
  rw [hd]

theorem setOffer_valid {r : FnRecord} (h : r.point ≤ 63) (p : Pos) (f : Code) (v : Nat) (k : AccessKind) :
    offerValid (setOffer p f v k r) = true := by
  have hp : decide (linePos p ≠ 0) = true := by revert p; decide
  exact congrArg₂ (fun x y => x && true && y) hp (decide_eq_true h)

theorem stopOffer_valid {point : Nat} (h : point ≤ 63) (p : Pos) (f : Code) : offerValid (stopOffer p f point) = true := by
  have hp : decide (linePos p ≠ 0) = true := by revert p; decide
  exact congrArg₂ (fun x y => x && true && y) hp (decide_eq_true h)

/-- R96, R97: the state with the delivery of value v to (p, f) on offer. -/
def delivering (p : Pos) (f : Code) (v : Nat) (b : BlockNo) (r : FnRecord) (s : State) : State :=
  setOffers (fun os => os ++ [setOffer p f v (deliveryKind s p f) r]) (noteOffered p (secondClass f v) f (reference b s))

/-- What the Delivery Unit finds that makes an offer of the one delivery due at p, of value v to f: its function is bound
to a NODE-fed row whose access is admitted, and the line is busy. -/
structure State.Deliverable (s : State) (p : Pos) (f : Code) (v : Nat) (b : BlockNo) (e : DirEntry) (r : FnRecord) : Prop where
  busy : ∃ fl, s.line.flight = some fl
  bound : s.Bound p f b e r
  node : r.feed = .node
  point : r.point ≤ 63
  admitted : v = 0 ∨ permits s e.policyClass r.fnClass (deliveryKind s p f) = true
  due : s.OneDue p f v

theorem State.Deliverable.standing {p : Pos} {f : Code} {v : Nat} {b : BlockNo} {e : DirEntry} {r : FnRecord}
    (h : s.Deliverable p f v b e r) (second : Bool) :
    Machine.standing s .deliveryUnit (if second then 1 else 0) (linePos p) = none := by
  cases second
  · exact h.due.first
  · exact h.due.second

theorem deliverOne_due {p : Pos} {f : Code} {v : Nat} {b : BlockNo} {e : DirEntry} {r : FnRecord}
    (h : s.Deliverable p f v b e r) : deliverOne p f v s = (true, delivering p f v b r s) := by
  obtain ⟨fl, hfl⟩ := h.busy
  have htr : translate p f (deliveryKind s p f) (decide (v = 0)) (.delivery p f (deliveryKind s p f)) s =
      (.hit r, reference b s) := translate_hit h.bound _ _ _ (h.admitted.imp (fun hv => decide_eq_true hv) id)
  have hmake : makeOffer (setOffer p f v (deliveryKind s p f) r) (noteOffered p (secondClass f v) f (reference b s)) =
      delivering p f v b r s :=
    makeOffer_new (s := noteOffered p (secondClass f v) f (reference b s)) (setOffer_valid h.point p f v _) hfl
      (h.standing (secondClass f v))
  unfold deliverOne
  dsimp only
  rw [htr]
  dsimp only
  rw [h.node]
  exact congrArg (Prod.mk true) hmake

theorem State.OneDue.noneOf {p : Pos} {f : Code} {v : Nat} (h : s.OneDue p f v) {second : Bool} (hs : second ≠ secondClass f v)
    (g : Code) : offerable s p second g = none := by
  rw [h.deliveries, if_neg fun hc => hs hc.2]

/-- R96: the class of the delivery that is due gets it as its offer. -/
theorem scan_due {p : Pos} {f : Code} {v : Nat} {b : BlockNo} {e : DirEntry} {r : FnRecord} (h : s.Deliverable p f v b e r) :
    scan p (secondClass f v) s = delivering p f v b r s := by
  have hone : ∀ g, offerable s p (secondClass f v) g = if g = f then some v else none := by
    intro g; rw [h.due.deliveries]; simp
  have hscan : ∀ last, scanCodes p (secondClass f v) (codesAfter last) s = delivering p f v b r s :=
    fun last => scanCodes_one (mem_codesAfter _ _) hone (deliverOne_due h)
  have hform : formOffer p (secondClass f v) s = delivering p f v b r s := by
    have hstops : tryStops p (stopOrder s p) s = (false, s) :=
      tryStops_held _ (by rw [h.due.stops]; intro o ho; cases ho)
    unfold formOffer
    cases hc : secondClass f v with
    | false =>
      rw [hc] at hscan
      rw [if_neg Bool.false_ne_true, hstops]
      exact hscan _
    | true =>
      rw [hc] at hscan
      rw [if_pos rfl, h.due.management]
      exact hscan _
  unfold scan
  dsimp only
  rw [if_neg (by rw [h.bound.service]; decide), h.standing]
  exact hform

/-- R96: the other class finds nothing due. -/
theorem scan_other {p : Pos} {f : Code} {v : Nat} {second : Bool} (h : s.OneDue p f v) (hs : inService s p = true)
    (hne : second ≠ secondClass f v) : scan p second s = s := by
  have hform : formOffer p second s = s := by
    have hstops : tryStops p (stopOrder s p) s = (false, s) := tryStops_held _ (by rw [h.stops]; intro o ho; cases ho)
    unfold formOffer
    cases hc : second with
    | false =>
      rw [if_neg Bool.false_ne_true, hstops]
      exact scanCodes_none false _ fun g _ => h.noneOf (hc ▸ hne) g
    | true =>
      rw [if_pos rfl, h.management]
      exact scanCodes_none true _ fun g _ => h.noneOf (hc ▸ hne) g
  have hstand : Machine.standing s .deliveryUnit (if second then 1 else 0) (linePos p) = none := by
    cases second
    · exact h.first
    · exact h.second
  unfold scan
  dsimp only
  rw [if_neg (by rw [hs]; decide), hstand]
  exact hform

/-- R96: with its offer made, the other class has nothing to offer. -/
theorem formOffer_other_delivering {p : Pos} {f : Code} {v : Nat} {b : BlockNo} {e : DirEntry} {r : FnRecord} {second : Bool}
    (h : s.Deliverable p f v b e r) (hne : second ≠ secondClass f v) :
    formOffer p second (delivering p f v b r s) = delivering p f v b r s := by
  have hstops : ∀ fs, tryStops p fs (delivering p f v b r s) = (false, delivering p f v b r s) :=
    fun fs => tryStops_held fs (by
      show ∀ o ∈ s.delivery.owed.get p, _
      rw [h.due.stops]; intro o ho; cases ho)
  have hnone : ∀ g, offerable (delivering p f v b r s) p second g = none :=
    fun g => (offerable_reference b s p second g).trans (h.due.noneOf hne g)
  unfold formOffer
  cases hc : second with
  | false =>
    rw [hc] at hnone
    rw [if_neg Bool.false_ne_true, hstops]
    exact scanCodes_none false _ fun g _ => hnone g
  | true =>
    rw [hc] at hnone
    have hread : readOffer (delivering p f v b r s) p = none := h.due.management
    rw [if_pos rfl, hread]
    exact scanCodes_none true _ fun g _ => hnone g

theorem standing_other_delivering {p : Pos} {f : Code} {v : Nat} {b : BlockNo} {e : DirEntry} {r : FnRecord} {second : Bool}
    (h : s.Deliverable p f v b e r) (hne : second ≠ secondClass f v) :
    Machine.standing (delivering p f v b r s) .deliveryUnit (if second then 1 else 0) (linePos p) = none := by
  refine standing_append (s := noteOffered p (secondClass f v) f (reference b s)) _ _ _ _ (h.standing second) rfl fun hc => hne ?_
  have hcls := hc.2.1
  revert hcls
  unfold setOffer
  cases second <;> cases secondClass f v <;> simp

/-- R96: with its offer made, the scan of the other class finds nothing either. -/
theorem scan_other_delivering {p : Pos} {f : Code} {v : Nat} {b : BlockNo} {e : DirEntry} {r : FnRecord} {second : Bool}
    (h : s.Deliverable p f v b e r) (hne : second ≠ secondClass f v) :
    scan p second (delivering p f v b r s) = delivering p f v b r s := by
  unfold scan
  dsimp only
  rw [if_neg (by rw [show inService (delivering p f v b r s) p = inService s p from rfl, h.bound.service]; decide),
    standing_other_delivering h hne]
  exact formOffer_other_delivering h hne

theorem classSix_delivering {p : Pos} {f : Code} {v : Nat} {b : BlockNo} {e : DirEntry} {r : FnRecord}
    (h : s.Deliverable p f v b e r) : classSix p (delivering p f v b r s) = delivering p f v b r s :=
  classSix_noReads ((dueReads_reference b s p).trans h.due.reads) h.bound.service

/-- R96: being told to look again at p puts its one due delivery on offer. -/
theorem acts_holdNotices_due {p : Pos} {f : Code} {v : Nat} {b : BlockNo} {e : DirEntry} {r : FnRecord} (hn : s.notices = [])
    (h : s.Deliverable p f v b e r) : Acts 3 (holdNotices p) s (delivering p f v b r s) := by
  have hsix : Acts 1 [.classSix p] (delivering p f v b r s) (delivering p f v b r s) :=
    Acts.silent hn (classSix_delivering h) hn
  cases hc : secondClass f v with
  | false =>
    have hfirst := scan_due h
    have hsecond := scan_other_delivering h (second := true) (by rw [hc]; decide)
    rw [hc] at hfirst
    exact Acts.cons (k := 1) (l := 2) (Acts.silent (x := .scan p false) hn hfirst hn)
      (Acts.cons (k := 1) (l := 1) (Acts.silent (x := .scan p true) hn hsecond hn) hsix)
  | true =>
    have hfirst := scan_other (second := false) h.due h.bound.service (by rw [hc]; decide)
    have hsecond := scan_due h
    rw [hc] at hsecond
    exact Acts.cons (k := 1) (l := 2) (Acts.silent (x := .scan p false) hn hfirst hn)
      (Acts.cons (k := 1) (l := 1) (Acts.silent (x := .scan p true) hn hsecond hn) hsix)

/-! ## Every position looked at -/

theorem allPos_split (p : Pos) : ∃ xs ys, allPos = xs ++ p :: ys ∧ p ∉ xs ∧ p ∉ ys := by
  have : ∀ p : Pos, allPos = allPos.take p.val ++ p :: allPos.drop (p.val + 1) ∧ p ∉ allPos.take p.val
      ∧ p ∉ allPos.drop (p.val + 1) := by decide
  exact ⟨_, _, this p⟩

/-- Looking again at positions that have nothing to offer changes nothing. -/
theorem acts_restOf {ps : List Pos} (hn : s.notices = []) (h : ∀ p ∈ ps, inService s p = true → s.AtRest p) :
    Acts (3 * ps.length) (ps.flatMap fun p => if inService s p then holdNotices p else []) s s := by
  have hfold := (Acts.foldl (k := 3) (s := s) (fun t => t = s) (fun p => if inService s p then holdNotices p else [])
    (fun t _ => t) ps (fun p hp t ht => ⟨?_, ht⟩) rfl).1
  · have hconst : ps.foldl (fun t (_ : Pos) => t) s = s := by
      clear h hfold
      induction ps with
      | nil => rfl
      | cons p ps ih => exact ih
    rw [hconst] at hfold
    exact hfold
  · subst ht
    split
    · rename_i hs; exact acts_holdNotices hn hs (h p hp hs)
    · exact (Acts.nil t).mono (by decide)

/-- Looking again at every position, one of which has something to offer. -/
theorem acts_restNotices_one {p : Pos} {k : Nat} (hn : s.notices = []) (ht : t.notices = []) (hp : inService s p = true)
    (hact : Acts k (holdNotices p) s t) (hin : ∀ q, inService t q = inService s q)
    (hrest : ∀ q, q ≠ p → inService s q = true → s.AtRest q) (hrest' : ∀ q, q ≠ p → inService s q = true → t.AtRest q) :
    Acts (k + 9) (restNotices s) s t := by
  obtain ⟨xs, ys, hsplit, hx, hy⟩ := allPos_split p
  have hlen : xs.length + ys.length + 1 = 4 := by
    have : allPos.length = (xs ++ p :: ys).length := by rw [hsplit]
    rw [List.length_append, List.length_cons] at this
    have h4 : allPos.length = 4 := rfl
    omega
  have hbefore := acts_restOf (ps := xs) hn fun q hq hs => hrest q (fun e => hx (e ▸ hq)) hs
  have hafter := acts_restOf (ps := ys) ht fun q hq hs => hrest' q (fun e => hy (e ▸ hq)) ((hin q).symm.trans hs)
  simp only [hin] at hafter
  have hall := (hbefore.append (hact.append hafter)).mono (l := k + 9) (by omega)
  unfold restNotices
  rw [hsplit, List.flatMap_append, List.flatMap_cons, if_pos hp]
  exact hall

/-- R96: of every position looked at, only the one with a delivery due makes an offer. -/
theorem acts_restNotices_due {p : Pos} {f : Code} {v : Nat} {b : BlockNo} {e : DirEntry} {r : FnRecord} (hn : s.notices = [])
    (h : s.Deliverable p f v b e r) (hrest : ∀ q, q ≠ p → inService s q = true → s.AtRest q) :
    Acts 12 (restNotices s) s (delivering p f v b r s) :=
  acts_restNotices_one hn hn h.bound.service (acts_holdNotices_due hn h) (fun _ => rfl) hrest fun q hq hs =>
    State.AtRest.offers (((hrest q hq hs).reference b).noteOffered p _ f) fun hc => hq (linePos_injective hc).symm

end Sys2Proof.Machine
end

section
/-!
What follows a change of a command value (R14, R93 to R99, R123, R131): the lines it feeds and the deliveries it makes due.
-/
namespace Sys2Proof.Machine

variable {s t u : State}

/-! ## The records of the direct lines are of no account to the Delivery Unit -/

theorem State.AtRest.setLines {p : Pos} (h : s.AtRest p) (l : Tab Line 8) : (Machine.setLines l s).AtRest p :=
  ⟨⟨h.stops, h.deliveries, h.management, h.first, h.second⟩, h.reads⟩

theorem State.OneDue.setLines {p : Pos} {f : Code} {v : Nat} (h : s.OneDue p f v) (l : Tab Line 8) :
    (Machine.setLines l s).OneDue p f v := ⟨h.stops, h.deliveries, h.management, h.reads, h.first, h.second⟩

theorem State.Bound.setLines {p : Pos} {f : Code} {b : BlockNo} {e : DirEntry} {r : FnRecord} (h : s.Bound p f b e r)
    (l : Tab Line 8) : (Machine.setLines l s).Bound p f b e r :=
  ⟨h.service, h.present, h.fetched, h.space, h.block, h.loaded, h.member, h.row⟩

theorem State.Resting.setLines (h : s.Resting) (l : Tab Line 8) : (Machine.setLines l s).Resting :=
  fun p hs => (h p hs).setLines l

theorem State.Deliverable.setLines {p : Pos} {f : Code} {v : Nat} {b : BlockNo} {e : DirEntry} {r : FnRecord}
    (h : s.Deliverable p f v b e r) (l : Tab Line 8) : (Machine.setLines l s).Deliverable p f v b e r :=
  ⟨h.busy, h.bound.setLines l, h.node, h.point, h.admitted, h.due.setLines l⟩

/-! ## The lines a code feeds -/

/-- A line as a change or an update of code f leaves it. -/
def relinedLine (f : Code) (changed : Bool) (s : State) (k : LineNo) (l : Line) : Line :=
  if (wiredOf s k).code = some f ∧ (changed = true ∨ l.hold.isSome = true) then
    { l with
      hold := none
      pendingOn := onCountOf (levelOf s k) (timebase s l.tb).period (wiredOf s k).comp s.settings.vref s.direct.supply }
  else l

theorem relined_eq (f : Code) (changed : Bool) (s : State) :
    s.relined f changed = setLines (s.direct.lines.mapIdx (relinedLine f changed s)) s := rfl

theorem relined_of_lines {f : Code} {changed : Bool} {m : Tab Line 8}
    (h : ∀ k, m.get k = relinedLine f changed s k (lineRec s k)) : setLines m s = s.relined f changed := by
  rw [relined_eq]
  refine congrArg (fun l => setLines l s) (Tab.ext_get fun k => ?_)
  rw [Tab.get_mapIdx]
  exact h k

/-- R131: an update ends the hold of each line the code feeds. -/
theorem lineUpdate_eq (f : Code) (hslot : s.check.slot = none) : lineUpdate f s = s.relined f false := by
  obtain ⟨m, hm, hg⟩ := foldl_allLines s (lineUpdateOne f) (relinedLine f false s) (fun l k h => by
    have hrec : lineRec (setLines l s) k = l.get k := rfl
    have hwin : windowOn (setLines l s) k = false := by
      have : (setLines l s).check.slot = none := hslot
      unfold windowOn
      rw [this]
    have hended := (endHold_eq k (setLines l s)).1 hwin
    unfold lineUpdateOne
    rw [hrec]
    by_cases hc : (wiredOf s k).code = some f ∧ (l.get k).hold.isSome = true
    · refine (if_pos (c := (wiredOf s k).code = some f ∧ (l.get k).hold.isSome = true) hc).trans (hended.trans ?_)
      refine congrArg (fun l => setLines l s) (Tab.upd_congr _ _ ?_)
      have hx : relinedLine f false s k (l.get k) = { l.get k with
          hold := none
          pendingOn := onCountOf (levelOf s k) (timebase s (l.get k).tb).period (wiredOf s k).comp s.settings.vref
            s.direct.supply } := if_pos ⟨hc.1, Or.inr hc.2⟩
      have hcell : (setLines l s).direct.lines.get k = lineRec s k := h
      rw [h] at hx
      rw [hcell, hx]
      rfl
    · refine (if_neg (c := (wiredOf s k).code = some f ∧ (l.get k).hold.isSome = true) hc).trans ?_
      refine congrArg (fun l => setLines l s) (Tab.upd_eq_self _ _ ?_).symm
      exact if_neg fun hx => hc ⟨hx.1, hx.2.resolve_left (by decide)⟩)
  exact hm.trans (relined_of_lines hg)

/-- R123: a change has the pending on-count of each line the code feeds computed anew. -/
theorem lineChange_eq {f : Code} (hh : ∀ k, (wiredOf s k).code = some f → (lineRec s k).hold = none) :
    lineChange f s = s.relined f true := by
  obtain ⟨m, hm, hg⟩ := recomputeWhere_eq (s := s) (fun s k => decide ((wiredOf s k).code = some f)) (fun _ _ _ => rfl)
  have hfold : lineChange f s = recomputeWhere (fun s k => decide ((wiredOf s k).code = some f)) s := by
    unfold lineChange recomputeWhere lineChangeOne
    simp only [decide_eq_true_eq]
  refine (hfold.trans hm).trans (relined_of_lines fun k => (hg k).trans ?_)
  by_cases hc : (wiredOf s k).code = some f
  · refine (if_pos ⟨decide_eq_true hc, hh k hc⟩).trans (Eq.symm ((if_pos ⟨hc, Or.inl rfl⟩).trans ?_))
    rw [← hh k hc]
    rfl
  · exact (if_neg fun h => hc (of_decide_eq_true h.1)).trans (if_neg fun h => hc h.1).symm

theorem relined_relined (f : Code) (s : State) : (s.relined f false).relined f true = s.relined f true := by
  refine (congrArg (fun l => Machine.setLines l s) ?_ :
    Machine.setLines ((s.relined f false).relined f true).direct.lines s = Machine.setLines (s.relined f true).direct.lines s)
  have hcell : ∀ k, (s.relined f false).direct.lines.get k = relinedLine f false s k (lineRec s k) :=
    fun k => Tab.get_mapIdx _ _ k
  refine Tab.ext_get fun k => ((Tab.get_mapIdx _ _ k).trans ?_).trans (Tab.get_mapIdx _ _ k).symm
  have hlevel : levelOf (s.relined f false) k = levelOf s k := by
    have hex : (lineRec (s.relined f false) k).exercise = (lineRec s k).exercise := by
      show ((s.relined f false).direct.lines.get k).exercise = _
      rw [hcell]
      unfold relinedLine
      split <;> rfl
    unfold levelOf
    rw [hex]
    rfl
  rw [hcell]
  show relinedLine f true (s.relined f false) k _ = relinedLine f true s k (lineRec s k)
  have hwired : wiredOf (s.relined f false) k = wiredOf s k := rfl
  unfold relinedLine
  rw [hlevel, hwired]
  by_cases hc : (wiredOf s k).code = some f
  · by_cases hh : (lineRec s k).hold.isSome = true
    · simp only [hc, hh, true_and, true_or, or_true, if_true]
      rfl
    · simp only [hc, hh, true_and, true_or, or_false, if_true, Bool.false_eq_true, if_false]
      rfl
  · exact (if_neg fun h => hc h.1).trans ((if_neg fun h => hc h.1).trans (if_neg fun h => hc h.1).symm)

theorem hold_relined {f : Code} (changed : Bool) (k : LineNo) (hk : (wiredOf s k).code = some f) :
    (lineRec (s.relined f changed) k).hold = none := by
  show ((s.relined f changed).direct.lines.get k).hold = none
  rw [show (s.relined f changed).direct.lines.get k = relinedLine f changed s k (lineRec s k) from Tab.get_mapIdx _ _ k]
  unfold relinedLine
  split
  · rfl
  · rename_i h
    cases hh : (lineRec s k).hold with
    | none => rfl
    | some x => exact absurd ⟨hk, Or.inr (by rw [hh]; rfl)⟩ h

/-! ## The targets of a code -/

/-- R99: the entry of (p, f) as a changed target leaves it. -/
def retargetedEntry (f : Code) (e : StatusEntry) : StatusEntry :=
  { e with refusalLatch := false, readLatch := if kindOf f = .actuator then false else e.readLatch }

theorem targetOf_commanded {f : Code} (h : s.Commanded f) (p : Pos) : targetOf s p f = some (commandOf s f).value := by
  have hw : windowCovers s p f = false := by unfold windowCovers; rw [h.slot]
  have hb : targetBeneath s p f = (commandOf s f).value := by unfold targetBeneath; rw [h.override p]; rfl
  have hk := h.kind
  unfold targetOf
  split
  · rename_i hs; exact absurd hs hk
  · rw [hw, hb]; rfl

/-- R93, R99: at a position whose target rests on the command value, a change of the value clears the latches. -/
theorem changeAt_eq {f : Code} {old : Nat} (h : s.Commanded f) (hv : (commandOf s f).value ≠ old) (p : Pos) :
    changeAt f old s p = rescan p (modEntry p f (retargetedEntry f) s) := by
  have hw : windowCovers s p f = false := by unfold windowCovers; rw [h.slot]
  have hdrop : dropOverride p f s = s := by unfold dropOverride; rw [h.override p]; rfl
  have hchanged : targetChanged p f s = modEntry p f (retargetedEntry f) s := by
    unfold targetChanged endWatch
    by_cases hk : kindOf f = .actuator
    · have hwatch : (entryOf (modEntry p f (fun e => { e with refusalLatch := false, readLatch := false }) s) p f).watchDeadline
          = none := by
        show ((s.delivery.status.upd p _).get p |>.get f).watchDeadline = none
        rw [Tab.get_upd_same, Tab.get_upd_same]
        exact h.watch p
      rw [if_pos hk, hwatch]
      unfold retargetedEntry
      simp only [if_pos hk]
      rfl
    · rw [if_neg hk]
      unfold retargetedEntry
      simp only [if_neg hk]
  have hret : retarget p f (some old) s = modEntry p f (retargetedEntry f) s := by
    unfold retarget
    rw [targetOf_commanded h p, if_neg fun e => hv (Option.some.inj e)]
    exact hchanged
  have hhold : endTimeoutHold p f (modEntry p f (retargetedEntry f) s) = modEntry p f (retargetedEntry f) s := by
    have : (entryOf (modEntry p f (retargetedEntry f) s) p f).timeoutHold = false := by
      show ((s.delivery.status.upd p _).get p |>.get f).timeoutHold = false
      rw [Tab.get_upd_same, Tab.get_upd_same]
      exact h.hold p
    unfold endTimeoutHold
    rw [this]
    rfl
  have hbefore : (if kindOf f = .sensor then none else
      if windowCovers s p f then some 255 else some (((entryOf s p f).override).getD old)) = some old := by
    rw [if_neg h.kind, hw, h.override p]
    rfl
  unfold changeAt
  dsimp only
  rw [hbefore, hdrop, hret, hhold]

/-- The entries of f at some positions, as a change leaves them. -/
def retargetedAt (f : Code) (ps : List Pos) (s : State) : State :=
  ps.foldl (fun s p => modEntry p f (retargetedEntry f) s) s

theorem commanded_modEntry {f : Code} (h : s.Commanded f) (p : Pos) :
    (modEntry p f (retargetedEntry f) s).Commanded f := by
  have hent : ∀ q, entryOf (modEntry p f (retargetedEntry f) s) q f = entryOf s q f
      ∨ entryOf (modEntry p f (retargetedEntry f) s) q f = retargetedEntry f (entryOf s q f) := by
    intro q
    show (((s.delivery.status.upd p _).get q).get f) = _ ∨ (((s.delivery.status.upd p _).get q).get f) = _
    rw [Tab.get_upd]
    split
    · rename_i hq; subst hq; exact Or.inr (Tab.get_upd_same _ _ _)
    · exact Or.inl rfl
  refine ⟨h.kind, h.slot, fun q => ?_, fun q => ?_, fun q => ?_⟩
  · rcases hent q with hq | hq <;> rw [hq] <;> exact h.override q
  · rcases hent q with hq | hq <;> rw [hq] <;> exact h.hold q
  · rcases hent q with hq | hq <;> rw [hq] <;> exact h.watch q

theorem changeAts_eq {f : Code} {old : Nat} (ps : List Pos) {ns : List Notice} (h : s.Commanded f)
    (hv : (commandOf s f).value ≠ old) : ps.foldl (changeAt f old) (emitAll ns s) =
      emitAll (ns ++ ps.flatMap fun p => if inService s p then holdNotices p else []) (retargetedAt f ps s) := by
  induction ps generalizing s ns with
  | nil => rw [List.foldl_nil, List.flatMap_nil, List.append_nil]; rfl
  | cons p ps ih =>
    have hone : changeAt f old (emitAll ns s) p =
        emitAll (ns ++ if inService s p then holdNotices p else []) (modEntry p f (retargetedEntry f) s) := by
      rw [changeAt_eq (s := emitAll ns s) ⟨h.kind, h.slot, h.override, h.hold, h.watch⟩ hv p]
      exact rescan_emitAll p ns (modEntry p f (retargetedEntry f) s)
    rw [List.foldl_cons, hone, ih (commanded_modEntry h p) hv, List.flatMap_cons, List.append_assoc]
    rfl

theorem retargetedAt_all (f : Code) (s : State) : retargetedAt f allPos s = State.retargeted f s := by
  have hcells : ∀ g : Tab StatusEntry 192 → Tab StatusEntry 192,
      (((s.delivery.status.upd 0 g).upd 1 g).upd 2 g).upd 3 g = s.delivery.status.map g := by
    refine fun g => Tab.ext_get fun p => ?_
    rw [Tab.get_map]
    revert p
    simp [Fin.forall_fin_succ, Tab.get_upd]
  exact congrArg (fun st => { s with delivery := { s.delivery with status := st } }) (hcells fun t => t.upd f (retargetedEntry f))

/-- R93, R99: with the targets of f resting on its command value, a change of the value clears their latches, and each
position is looked at again. -/
theorem commandChanged_eq {f : Code} {old : Nat} (h : s.Commanded f) (hv : (commandOf s f).value ≠ old) :
    commandChanged f old s = emitAll (restNotices s) (State.retargeted f s) := by
  have := changeAts_eq (old := old) allPos (ns := []) h hv
  rw [emitAll_nil, List.nil_append, retargetedAt_all] at this
  exact this

/-! ## What the change brings about -/

/-- What a change of the command value of f, of lines as in `a`, leaves of the lines in the end. -/
theorem acts_changed {f : Code} {cause : ChangeCause} {old : Nat} (hn : s.notices = []) (h : s.Commanded f)
    (hv : (commandOf s f).value ≠ old) (hh : ∀ k, (wiredOf s k).code = some f → (lineRec s k).hold = none)
    (hw : Acts 12 (restNotices s) (State.retargeted f s) t) (ht : t.notices = []) (hts : t.check.slot = none)
    (hu : lineChange f t = u) (hun : u.notices = []) (hus : u.check.slot = none) :
    Acts 15 (changeNotices f cause old) s u := by
  have hchange : Acts 13 [.commandChanged f cause old] s t := Acts.run hn (commandChanged_eq h hv) hn hw
  have hline : Acts 1 [.lineChange f cause] t u := Acts.silent ht hu hun
  have hlevel : Acts 1 [.levelBeneath (.command f cause)] u u :=
    Acts.silent hun (windowToDriven_still fun sl hsl => by rw [hus] at hsl; cases hsl) hun
  exact Acts.cons (k := 13) (l := 2) hchange (Acts.cons (k := 1) (l := 1) hline hlevel)

end Sys2Proof.Machine
end

section
/-!
The frames that carry a command value and the silence that lets one fall (R7, R14, R15), and what they make due.
-/
namespace Sys2Proof.Machine

variable {s t u : State}

/-- A change of the command value of f that makes no delivery due. -/
theorem acts_changed_resting {f : Code} {cause : ChangeCause} {old : Nat} (hn : s.notices = []) (h : s.Commanded f)
    (hv : (commandOf s f).value ≠ old) (hh : ∀ k, (wiredOf s k).code = some f → (lineRec s k).hold = none)
    (hr : (State.retargeted f (s.relined f true)).Resting) :
    Acts 15 (changeNotices f cause old) s (State.retargeted f (s.relined f true)) := by
  have hrest : (State.retargeted f s).Resting := hr.setLines s.direct.lines
  exact acts_changed hn h hv hh (acts_restNotices (s := State.retargeted f s) hn hrest) hn h.slot
    (lineChange_eq (s := State.retargeted f s) hh) hn h.slot

/-- A change of the command value of f that makes one delivery due. -/
theorem acts_changed_due {f : Code} {cause : ChangeCause} {old v : Nat} {p : Pos} {b : BlockNo} {e : DirEntry} {r : FnRecord}
    (hn : s.notices = []) (h : s.Commanded f) (hv : (commandOf s f).value ≠ old)
    (hh : ∀ k, (wiredOf s k).code = some f → (lineRec s k).hold = none)
    (hd : (State.retargeted f (s.relined f true)).Deliverable p f v b e r)
    (hr : ∀ q, q ≠ p → inService (State.retargeted f (s.relined f true)) q = true →
      (State.retargeted f (s.relined f true)).AtRest q) :
    Acts 15 (changeNotices f cause old) s (delivering p f v b r (State.retargeted f (s.relined f true))) := by
  have hdue : (State.retargeted f s).Deliverable p f v b e r := hd.setLines s.direct.lines
  have hrest : ∀ q, q ≠ p → inService (State.retargeted f s) q = true → (State.retargeted f s).AtRest q :=
    fun q hq hs => (hr q hq hs).setLines s.direct.lines
  exact acts_changed hn h hv hh (acts_restNotices_due (s := State.retargeted f s) hn hdue hrest) hn h.slot
    (lineChange_eq (s := delivering p f v b r (State.retargeted f s)) hh) hn h.slot

/-- A change that is handed on at once. -/
theorem delivers_changed {f : Code} {cause : ChangeCause} {old v : Nat} (hn : s.notices = []) (h : s.Commanded f)
    (hv : (commandOf s f).value ≠ old) (hh : ∀ k, (wiredOf s k).code = some f → (lineRec s k).hold = none) :
    Delivers (.next (settle (emitAll (changeNotices f cause old) s))) f v (State.retargeted f (s.relined f true)) :=
  ⟨fun hr => congrArg Host.Outcome.next ((acts_changed_resting hn h hv hh hr).settle hn (by decide)),
    fun _ _ _ _ fl hfl hb hnode hpt hadm hdue hrest => congrArg Host.Outcome.next
      ((acts_changed_due hn h hv hh ⟨⟨fl, hfl⟩, hb, hnode, hpt, hadm, hdue⟩ hrest).settle hn (by decide))⟩

theorem acts_lineUpdate {f : Code} (hn : s.notices = []) (hslot : s.check.slot = none) :
    Acts 1 [.lineUpdate f] s (s.relined f false) := Acts.silent (x := .lineUpdate f) hn (lineUpdate_eq f hslot) hn

/-- An update of the command value of f that changes it. -/
theorem delivers_updated {f : Code} {cause : ChangeCause} {old v : Nat} (hn : s.notices = []) (h : s.Commanded f)
    (hv : (commandOf s f).value ≠ old) :
    Delivers (.next (settle (emitAll (.lineUpdate f :: changeNotices f cause old) s))) f v
      (State.retargeted f (s.relined f true)) := by
  have hc : (s.relined f false).Commanded f := ⟨h.kind, h.slot, h.override, h.hold, h.watch⟩
  have hh : ∀ k, (wiredOf (s.relined f false) k).code = some f → (lineRec (s.relined f false) k).hold = none :=
    fun k hk => hold_relined false k hk
  have hlines := relined_relined f s
  refine ⟨fun hr => congrArg Host.Outcome.next ?_, fun p b e r fl hfl hb hnode hpt hadm hdue hrest =>
    congrArg Host.Outcome.next ?_⟩
  · rw [← hlines] at hr ⊢
    exact ((acts_lineUpdate hn h.slot).cons (acts_changed_resting (s := s.relined f false) hn hc hv hh hr)).settle hn (by decide)
  · rw [← hlines] at hfl hb hadm hdue hrest ⊢
    exact ((acts_lineUpdate hn h.slot).cons (acts_changed_due (s := s.relined f false) hn hc hv hh
      ⟨⟨fl, hfl⟩, hb, hnode, hpt, hadm, hdue⟩ hrest)).settle hn (by decide)

/-! ## The entry of the Decode Table that a frame matches -/

theorem foldl_applySlot_skip (frame : CanFrame) (acc : State × Touched) (es : List (Option DecodeEntry))
    (h : ∀ e, some e ∈ es → entryMatches e frame = false) : es.foldl (applySlot frame) acc = acc := by
  induction es with
  | nil => rfl
  | cons e es ih =>
    have hone : applySlot frame acc e = acc := by
      cases e with
      | none => rfl
      | some e =>
        show applyEntry frame e acc = acc
        unfold applyEntry
        rw [h e (List.mem_cons_self ..)]
        rfl
    rw [List.foldl_cons, hone]
    exact ih fun x hx => h x (List.mem_cons_of_mem _ hx)

/-- R7: a frame that one valid entry alone matches is applied by that entry. -/
theorem foldl_applySlot_one {frame : CanFrame} {s : State} {n : Fin 48} {e : DecodeEntry}
    (he : s.decoder.entries.get n = some e)
    (hone : ∀ m x, s.decoder.entries.get m = some x → entryMatches x frame = true → m = n) :
    s.decoder.entries.toList.foldl (applySlot frame) ((s, []) : State × Touched) = applyEntry frame e (s, []) := by
  have hlen : s.decoder.entries.toList.length = 48 := by
    show s.decoder.entries.cells.toArray.toList.length = 48
    simp
  have hcell : ∀ (i : Nat) (hi : i < 48), s.decoder.entries.toList[i]'(by rw [hlen]; exact hi) = s.decoder.entries.get ⟨i, hi⟩ :=
    fun i hi => rfl
  have hskip : ∀ (es : List (Option DecodeEntry)), (∀ x ∈ es, ∃ i, ∃ hi : i < 48, i ≠ n.val ∧ x = s.decoder.entries.get ⟨i, hi⟩) →
      ∀ acc, es.foldl (applySlot frame) acc = acc := by
    refine fun es hes acc => foldl_applySlot_skip frame acc es fun x hx => ?_
    obtain ⟨i, hi, hne, hx⟩ := hes _ hx
    cases hm : entryMatches x frame with
    | false => rfl
    | true => exact absurd (congrArg Fin.val (hone ⟨i, hi⟩ x hx.symm hm)) hne
  have hsplit : s.decoder.entries.toList = s.decoder.entries.toList.take n.val ++
      some e :: s.decoder.entries.toList.drop (n.val + 1) := by
    rw [← he, ← hcell n.val n.isLt, List.getElem_cons_drop, List.take_append_drop]
  rw [hsplit, List.foldl_append, List.foldl_cons]
  rw [hskip (List.take n.val _), hskip (List.drop (n.val + 1) _)]
  · rfl
  · intro x hx
    obtain ⟨i, hi, rfl⟩ := List.getElem_of_mem hx
    rw [List.length_drop, hlen] at hi
    exact ⟨n.val + 1 + i, by omega, by omega, by rw [List.getElem_drop]; exact hcell _ _⟩
  · intro x hx
    obtain ⟨i, hi, rfl⟩ := List.getElem_of_mem hx
    rw [List.length_take, hlen] at hi
    exact ⟨i, by omega, by omega, by rw [List.getElem_take]; exact hcell _ _⟩

/-- R7: what the fold leaves has its notices handed on. -/
theorem applyFrame_of {frame : CanFrame} {touched : Touched}
    (h : s.decoder.entries.toList.foldl (applySlot frame) ((s, []) : State × Touched) = (t, touched)) :
    applyFrame frame s = emitAll (touched.flatMap fun x => updateNotices t x.1 x.2) t := by
  unfold applyFrame
  rw [h]

theorem frame_exec {frame : CanFrame} (hr : frame.remote = false) (hq : isRequest s frame = false) :
    exec (.canFrameReceived frame) s = .next (settle (applyFrame frame s)) := by
  show Host.Outcome.next (if frame.remote then s else if isRequest s frame then takeRequest (frameBytes frame) s
    else settle (applyFrame frame s)) = _
  rw [hr, hq]
  rfl

end Sys2Proof.Machine
end

section
/-!
What a change of the motion state brings about (R19, R109, R110): the stops that come to be owed and are offered.
-/
namespace Sys2Proof.Machine

variable {s t u : State}

/-! ## Which stops are selected -/

theorem mem_actuatorCodes {f : Code} : f ∈ actuatorCodes ↔ kindOf f = .actuator := by
  have hmem : f ∈ actuatorCodes ↔ 128 ≤ f.val := by
    unfold actuatorCodes allCodes
    rw [List.mem_drop_iff_getElem]
    constructor
    · rintro ⟨i, hi, rfl⟩
      simp
    · intro h
      refine ⟨f.val - 128, by simp; omega, ?_⟩
      apply Fin.ext
      simp
      omega
  rw [hmem]
  unfold kindOf kindOfGroup groupOf
  dsimp only
  split
  · simp; omega
  · split
    · simp; omega
    · simp; omega

theorem nodup_actuatorCodes : actuatorCodes.Nodup :=
  (List.nodup_finRange 192).sublist (List.drop_sublist _ _)

/-- R109: an actuator that cannot be in motion. -/
def Still (s : State) (p : Pos) (f : Code) : Prop :=
  ((entryOf s p f).delivered = none ∨ (entryOf s p f).delivered = some 0) ∧ (entryOf s p f).watchDeadline = none

theorem flightIs_false {g : Offer → Bool} (h : ∀ fl, s.line.flight = some fl → g fl.offer = false) : flightIs s g = false := by
  unfold flightIs openFlight
  split
  · rename_i fl ho
    split at ho
    · rename_i fl' hfl
      split at ho
      · cases ho
      · cases ho; exact h _ hfl
    · cases ho
  · rfl

/-- R109: with no delivery SET in flight, what may be in motion is what is not still. -/
theorem mayMove_undisturbed (h : s.Undisturbed) (p : Pos) (f : Code) : mayMove s p f = false ↔ Still s p f := by
  unfold mayMove Still
  dsimp only
  rw [flightIs_false]
  · cases (entryOf s p f).delivered <;> cases (entryOf s p f).watchDeadline <;> simp
  · intro fl hfl
    split
    · rename_i q g v k i hw
      exact absurd hw (h.flight fl hfl q g v k i)
    · rfl

theorem selectedStops_none {p : Pos} (h : s.Undisturbed)
    (hstill : ∀ f, kindOf f = .actuator → inService s p = true → Still s p f) : selectedStops s p = [] := by
  unfold selectedStops
  split
  · rename_i hs
    rw [List.map_eq_nil_iff, List.filter_eq_nil_iff]
    intro f hf
    rw [(mayMove_undisturbed h p f).mpr (hstill f (mem_actuatorCodes.mp hf) hs)]
    simp
  · rfl

theorem lacksTsm_bound {p : Pos} {f : Code} {b : BlockNo} {e : DirEntry} {r : FnRecord} (hb : s.Bound p f b e r)
    (ht : permits s e.policyClass r.fnClass .tsm = false) : lacksTsm s p f = true := by
  obtain ⟨rep, hrow⟩ := hb.row
  have hl : groupLoaded s p (groupOf f) = true := by
    unfold groupLoaded
    rw [hb.block]
    exact decide_eq_true hb.loaded
  have hr : loadedRow s p f = some { unusable := false, reported := rep, record := r } := by
    unfold loadedRow
    rw [hb.block]
    exact (if_pos hb.loaded).trans hrow
  unfold lacksTsm
  rw [if_pos hl, hr, hb.present]
  dsimp only
  rw [ht]
  rfl

/-- A list without repetitions has at most one element that one test picks. -/
theorem filter_single {α : Type} {xs : List α} {q : α → Bool} {x : α} (hn : xs.Nodup) (hx : x ∈ xs)
    (h : ∀ y ∈ xs, q y = true ↔ y = x) : xs.filter q = [x] := by
  induction xs with
  | nil => cases hx
  | cons y ys ih =>
    obtain ⟨hy, hn⟩ := List.nodup_cons.mp hn
    by_cases hyx : y = x
    · subst hyx
      rw [List.filter_cons_of_pos ((h y (List.mem_cons_self ..)).mpr rfl)]
      refine congrArg (y :: ·) (List.filter_eq_nil_iff.mpr fun z hz hq => hy ?_)
      rw [← (h z (List.mem_cons_of_mem _ hz)).mp hq]
      exact hz
    · rw [List.filter_cons_of_neg fun hq => hyx ((h y (List.mem_cons_self ..)).mp hq)]
      exact ih hn ((List.mem_cons.mp hx).resolve_left (Ne.symm hyx)) fun z hz => h z (List.mem_cons_of_mem _ hz)

theorem selectedStops_one {p : Pos} {f : Code} {b : BlockNo} {e : DirEntry} {r : FnRecord} (h : s.Undisturbed)
    (hk : kindOf f = .actuator) (hmove : ¬ Still s p f) (hb : s.Bound p f b e r)
    (ht : permits s e.policyClass r.fnClass .tsm = false)
    (hstill : ∀ g, g ≠ f → kindOf g = .actuator → Still s p g) : selectedStops s p = [(p, f)] := by
  have hone : (actuatorCodes.filter fun f => mayMove s p f && lacksTsm s p f) = [f] := by
    refine filter_single nodup_actuatorCodes (mem_actuatorCodes.mpr hk) fun g hg => ⟨fun hq => ?_, ?_⟩
    · by_contra hne
      rw [(mayMove_undisturbed h p g).mpr (hstill g hne (mem_actuatorCodes.mp hg))] at hq
      cases hq
    · rintro rfl
      have hm : mayMove s p g = true := by
        rw [← Bool.not_eq_false]
        exact fun hm => hmove ((mayMove_undisturbed h p g).mp hm)
      rw [hm, lacksTsm_bound hb ht]
      rfl
  unfold selectedStops
  rw [if_pos hb.service, hone]
  rfl

/-! ## The stop on offer -/

/-- R109: the stop of (p, f) owed, where none was. -/
def stopOwing (p : Pos) (f : Code) (s : State) : State := modOwed p (fun _ => [{ code := f, notBefore := none }]) s

/-- R110: the stop of (p, f) owed and on offer. -/
def stopping (p : Pos) (f : Code) (b : BlockNo) (point : Nat) (s : State) : State :=
  setOffers (fun os => os ++ [stopOffer p f point]) (reference b (stopOwing p f s))

theorem owed_stopOwing (p : Pos) (f : Code) (s : State) (q : Pos) :
    (stopOwing p f s).delivery.owed.get q = if q = p then [{ code := f, notBefore := none }] else s.delivery.owed.get q :=
  Tab.get_upd _ _ _ _

/-- R98: what cannot be offered still cannot with a stop owed. -/
theorem offerable_stopOwing {p q : Pos} {f g : Code} {second : Bool} (howed : s.delivery.owed.get p = [])
    (h : offerable s q second g = none) : offerable (stopOwing p f s) q second g = none := by
  have hstop : stopOwed s q g = true → stopOwed (stopOwing p f s) q g = true := by
    unfold stopOwed
    rw [owed_stopOwing]
    split
    · rename_i hq; subst hq; rw [howed]; intro hc; cases hc
    · exact id
  have hheld : ∀ v, isHeld s q g v = true → isHeld (stopOwing p f s) q g v = true := by
    intro v hv
    unfold isHeld at hv ⊢
    rw [Bool.or_eq_true] at hv ⊢
    refine hv.imp id fun hc => ?_
    rw [Bool.and_eq_true] at hc ⊢
    exact ⟨hc.1, hstop hc.2⟩
  have ht : targetOf (stopOwing p f s) q g = targetOf s q g := rfl
  have hd : isDue (stopOwing p f s) q g = isDue s q g := rfl
  unfold offerable at h ⊢
  rw [ht, hd]
  cases hv : targetOf s q g with
  | none => rfl
  | some v =>
    rw [hv] at h
    dsimp only at h ⊢
    rw [if_neg]
    intro hc
    rw [if_pos] at h
    · cases h
    · rw [Bool.and_eq_true, Bool.and_eq_true] at hc ⊢
      refine ⟨⟨hc.1.1, ?_⟩, hc.2⟩
      cases hh : isHeld s q g v with
      | false => rfl
      | true => have := hc.1.2; rw [hheld v hh] at this; cases this

/-- R109: a stop owed at one position leaves another as it was. -/
theorem State.AtRest.stopOwing {p q : Pos} {f : Code} (h : s.AtRest q) (howed : s.delivery.owed.get p = []) (hq : q ≠ p) :
    (Machine.stopOwing p f s).AtRest q where
  stops o ho := by
    rw [owed_stopOwing, if_neg hq] at ho
    exact h.stops o ho
  deliveries second g := offerable_stopOwing howed (h.deliveries second g)
  management := h.management
  first := h.first
  second := h.second
  reads := h.reads

theorem tryStops_hit {p : Pos} {f : Code} {o : OwedStop} {fs : List Code} {r : FnRecord} (ho : findOwed s p f = some o)
    (hh : stopHeld s p o = false) (ht : translate p f .tss true (.stop p f) s = (.hit r, t)) :
    tryStops p (f :: fs) s = (true, makeOffer (stopOffer p f r.point) t) := by
  unfold tryStops
  rw [ho]
  dsimp only
  rw [if_neg (by rw [hh]; decide), ht]

/-- R110: what the Delivery Unit needs to find to offer the one stop that has come to be owed. -/
structure State.Stoppable (s : State) (p : Pos) (f : Code) (b : BlockNo) (e : DirEntry) (r : FnRecord) : Prop where
  busy : ∃ fl, s.line.flight = some fl
  bound : s.Bound p f b e r
  point : r.point ≤ 63
  owed : s.delivery.owed.get p = []
  inFlight : stopInFlight s p f = false
  rest : s.AtRest p

theorem groupHeld_bound {p : Pos} {f : Code} {b : BlockNo} {e : DirEntry} {r : FnRecord} (h : s.Bound p f b e r) :
    groupHeld s p (groupOf f) = false := by
  unfold groupHeld groupFetching
  rw [h.space, h.block]
  dsimp only
  rw [h.loaded]
  rfl

theorem stopOrder_stopOwing {p : Pos} {f : Code} : ∃ fs, stopOrder (stopOwing p f s) p = f :: fs := by
  have hfound : ∀ g, (findOwed (stopOwing p f s) p g).isSome = decide (f = g) := by
    intro g
    unfold findOwed
    rw [owed_stopOwing, if_pos rfl]
    by_cases hg : f = g
    · simp [hg]
    · simp [hg]
  have hmem : f ∈ stopOrder (stopOwing p f s) p :=
    List.mem_filter.mpr ⟨mem_codesAfter _ f, by rw [hfound]; exact decide_eq_true rfl⟩
  cases hs : stopOrder (stopOwing p f s) p with
  | nil => rw [hs] at hmem; cases hmem
  | cons g gs =>
    have hg : g ∈ stopOrder (stopOwing p f s) p := by rw [hs]; exact List.mem_cons_self ..
    have : f = g := of_decide_eq_true ((hfound g).symm.trans (List.mem_filter.mp hg).2)
    exact ⟨gs, by rw [this]⟩

/-- R110: the stop that is owed stands on offer. -/
theorem scan_stop {p : Pos} {f : Code} {b : BlockNo} {e : DirEntry} {r : FnRecord} (h : s.Stoppable p f b e r) :
    scan p false (stopOwing p f s) = stopping p f b r.point s := by
  obtain ⟨fl, hfl⟩ := h.busy
  obtain ⟨fs, hfs⟩ := stopOrder_stopOwing (s := s) (p := p) (f := f)
  have hb : (stopOwing p f s).Bound p f b e r := ⟨h.bound.service, h.bound.present, h.bound.fetched, h.bound.space,
    h.bound.block, h.bound.loaded, h.bound.member, h.bound.row⟩
  have hfound : findOwed (stopOwing p f s) p f = some { code := f, notBefore := none } := by
    unfold findOwed
    rw [owed_stopOwing, if_pos rfl]
    simp
  have hheld : stopHeld (stopOwing p f s) p { code := f, notBefore := none } = false := by
    have hg := groupHeld_bound hb
    have hf : stopInFlight (stopOwing p f s) p f = false := h.inFlight
    unfold stopHeld
    rw [hg, hf]
    rfl
  have hmake : makeOffer (stopOffer p f r.point) (reference b (stopOwing p f s)) = stopping p f b r.point s :=
    makeOffer_new (s := reference b (stopOwing p f s)) (stopOffer_valid h.point p f) hfl h.rest.first
  have htry := tryStops_hit (fs := fs) hfound hheld (translate_hit hb .tss true (.stop p f) (Or.inl rfl))
  have hstand : Machine.standing (stopOwing p f s) .deliveryUnit 0 (linePos p) = none := h.rest.first
  have hserv : inService (stopOwing p f s) p = true := h.bound.service
  unfold scan
  dsimp only
  rw [if_neg (by rw [hserv]; decide), if_neg Bool.false_ne_true, hstand]
  unfold formOffer
  dsimp only
  rw [if_neg Bool.false_ne_true, hfs, htry]
  exact hmake

theorem scan_second_stopping {p : Pos} {f : Code} {b : BlockNo} {e : DirEntry} {r : FnRecord} (h : s.Stoppable p f b e r) :
    scan p true (stopping p f b r.point s) = stopping p f b r.point s := by
  have hnone : ∀ g, offerable (stopping p f b r.point s) p true g = none := fun g =>
    (offerable_reference b (stopOwing p f s) p true g).trans (offerable_stopOwing h.owed (h.rest.deliveries true g))
  have hstand : Machine.standing (stopping p f b r.point s) .deliveryUnit 1 (linePos p) = none :=
    standing_append (s := reference b (stopOwing p f s)) _ _ _ _ h.rest.second rfl fun hc =>
      absurd hc.2.1 (show ¬ (0 : ArbClass) = 1 by decide)
  have hserv : inService (stopping p f b r.point s) p = true := h.bound.service
  have hread : readOffer (stopping p f b r.point s) p = none := h.rest.management
  unfold scan
  dsimp only
  rw [if_neg (by rw [hserv]; decide), if_pos rfl, hstand]
  unfold formOffer
  dsimp only
  rw [if_pos rfl, hread]
  exact scanCodes_none true _ fun g _ => hnone g

/-- R110: being told to look again at p puts its owed stop on offer. -/
theorem acts_holdNotices_stop {p : Pos} {f : Code} {b : BlockNo} {e : DirEntry} {r : FnRecord} (hn : s.notices = [])
    (h : s.Stoppable p f b e r) : Acts 3 (holdNotices p) (stopOwing p f s) (stopping p f b r.point s) := by
  have hsix : classSix p (stopping p f b r.point s) = stopping p f b r.point s :=
    classSix_noReads ((dueReads_reference b (stopOwing p f s) p).trans h.rest.reads) h.bound.service
  exact Acts.cons (k := 1) (l := 2) (Acts.silent (x := .scan p false) hn (scan_stop h) hn)
    (Acts.cons (k := 1) (l := 1) (Acts.silent (x := .scan p true) hn (scan_second_stopping h) hn)
      (Acts.silent (x := .classSix p) hn hsix hn))

/-- R110: of every position looked at, only the one with a stop owed makes an offer. -/
theorem acts_restNotices_stop {p : Pos} {f : Code} {b : BlockNo} {e : DirEntry} {r : FnRecord} (hn : s.notices = [])
    (h : s.Stoppable p f b e r) (hr : s.Resting) :
    Acts 12 (restNotices (stopOwing p f s)) (stopOwing p f s) (stopping p f b r.point s) := by
  have hrest : ∀ q, q ≠ p → inService s q = true → (stopOwing p f s).AtRest q :=
    fun q hq hs => (hr q hs).stopOwing h.owed hq
  exact acts_restNotices_one (s := stopOwing p f s) hn hn h.bound.service (acts_holdNotices_stop hn h) (fun _ => rfl) hrest
    fun q hq hs => ((hrest q hq hs).reference b).offers fun hc => hq (linePos_injective hc).symm

end Sys2Proof.Machine
end

section
/-!
COMMAND_STALE, SPEED_STALE, STOP_TIMER_EXPIRY, and the frames that feed a function code or the speed record.
-/
namespace Sys2Proof.Machine

variable {s t u : State}

/-! ## A change of the motion state -/

theorem motionToDelivery_eq (h : s.Undisturbed) : motionToDelivery s = emitAll (restNotices s) s := by
  have hno : s.line.offers.filter isTractorDelivery = [] := by
    rw [List.filter_eq_nil_iff]
    intro o ho
    unfold isTractorDelivery
    split
    · rename_i p f v i hw; exact absurd hw (h.offers o ho p f v .tss i)
    · rename_i p f v i hw; exact absurd hw (h.offers o ho p f v .tsm i)
    · decide
  unfold motionToDelivery reformWhere
  rw [hno]
  exact rescanAll_eq s

theorem acts_motionDelivery (hn : s.notices = []) (h : s.Undisturbed) (hr : s.Resting) :
    Acts 13 [.motionDelivery] s s := Acts.run hn (motionToDelivery_eq h) hn (acts_restNotices hn hr)

theorem deferNone (h : ∀ p, stateOf s p ≠ .exercising) (ps : List Pos) :
    ps.foldl (fun s p => if exercising s p then deferLamps p s else s) s = s := by
  induction ps with
  | nil => rfl
  | cons p ps ih =>
    have he : exercising s p = false := decide_eq_false (h p)
    rw [List.foldl_cons, if_neg (by rw [he]; decide)]
    exact ih

theorem motionToConsist_idle (h : ∀ p, stateOf s p ≠ .exercising) : motionToConsist s = s := by
  unfold motionToConsist
  split
  · rfl
  · exact deferNone h allPos

theorem motionToSlot_moving (hm : s.decoder.motion = .moving) (h : s.check.slot = none) : motionToSlot s = s := by
  have : isStationary s = false := decide_eq_false (by rw [hm]; decide)
  unfold motionToSlot
  rw [this, h]
  rfl

/-- R19: what a change to MOVING brings about, the Access Policy's part apart. -/
theorem acts_moving {k : Nat} (hn : s.notices = []) (h : s.Undisturbed) (hr : s.Resting) (hp : Acts k [.motionPolicy] s t)
    (ht : t.notices = []) (hm : t.decoder.motion = .moving) (hslot : t.check.slot = none)
    (hcalm : ∀ p, stateOf t p ≠ .exercising) : Acts (15 + k) motionNotices s t := by
  have htail : Acts 2 [.motionLoadCheck, .motionConsist] t t :=
    Acts.cons (k := 1) (l := 1) (Acts.silent (x := .motionLoadCheck) ht (motionToSlot_moving hm hslot) ht)
      (Acts.silent (x := .motionConsist) ht (motionToConsist_idle hcalm) ht)
  exact ((acts_motionDelivery hn h hr).cons (hp.cons htail)).mono (by omega)

theorem motionToPolicy_moving (hm : s.decoder.motion = .moving) : motionToPolicy s =
    rescanAll ((allPos.flatMap (selectedStops s)).foldl (fun s x => removeOverride x.1 x.2 (addOwed x.1 x.2 s)) s) := by
  have : isStationary s = false := decide_eq_false (by rw [hm]; decide)
  unfold motionToPolicy
  rw [this]
  rfl

/-- R109: with every actuator still nothing comes to be owed. -/
theorem acts_motionPolicy_still (hn : s.notices = []) (hm : s.decoder.motion = .moving) (h : s.Undisturbed) (hr : s.Resting)
    (hstill : ∀ p f, kindOf f = .actuator → inService s p = true → Still s p f) : Acts 13 [.motionPolicy] s s := by
  have hnone : allPos.flatMap (selectedStops s) = [] :=
    List.flatMap_eq_nil_iff.mpr fun p _ => selectedStops_none h (hstill p)
  have hrun : motionToPolicy s = emitAll (restNotices s) s := by
    rw [motionToPolicy_moving hm, hnone]
    exact rescanAll_eq s
  exact Acts.run hn hrun hn (acts_restNotices hn hr)

theorem addOwed_none {p : Pos} {f : Code} (h : s.delivery.owed.get p = []) : addOwed p f s = stopOwing p f s := by
  refine congrArg (fun o => { s with delivery := { s.delivery with owed := o } }) (Tab.upd_congr _ _ ?_)
  rw [h]
  rfl

theorem removeOverride_none {p : Pos} {f : Code} (h : (entryOf s p f).override = none) : removeOverride p f s = s := by
  have hdrop : dropOverride p f s = s := by unfold dropOverride; rw [h]; rfl
  unfold removeOverride
  rw [hdrop]
  exact if_pos rfl

/-- R109: the one actuator that may be in motion, and whose permission is lacking, is owed its stop. -/
theorem acts_motionPolicy_stop {p : Pos} {f : Code} {b : BlockNo} {e : DirEntry} {r : FnRecord} (hn : s.notices = [])
    (hm : s.decoder.motion = .moving) (h : s.Undisturbed) (hr : s.Resting) (hd : s.Stoppable p f b e r)
    (hk : kindOf f = .actuator) (hmove : ¬ Still s p f) (ht : permits s e.policyClass r.fnClass .tsm = false)
    (hover : (entryOf s p f).override = none)
    (hstill : ∀ q g, (q, g) ≠ (p, f) → kindOf g = .actuator → inService s q = true → Still s q g) :
    Acts 13 [.motionPolicy] s (stopping p f b r.point s) := by
  have hone : allPos.flatMap (selectedStops s) = [(p, f)] := by
    obtain ⟨xs, ys, hsplit, hx, hy⟩ := allPos_split p
    have hothers : ∀ qs : List Pos, p ∉ qs → qs.flatMap (selectedStops s) = [] := fun qs hq =>
      List.flatMap_eq_nil_iff.mpr fun q hqs => selectedStops_none h fun g hg hs =>
        hstill q g (fun e => hq (by rw [show p = q from (congrArg Prod.fst e).symm]; exact hqs)) hg hs
    rw [hsplit, List.flatMap_append, List.flatMap_cons, hothers xs hx, hothers ys hy]
    rw [selectedStops_one h hk hmove hd.bound ht fun g hg hk' =>
      hstill p g (fun e => hg (congrArg Prod.snd e)) hk' hd.bound.service]
    rfl
  have hrun : motionToPolicy s = emitAll (restNotices (stopOwing p f s)) (stopOwing p f s) := by
    rw [motionToPolicy_moving hm, hone, List.foldl_cons, List.foldl_nil]
    dsimp only
    rw [addOwed_none hd.owed, removeOverride_none (s := stopOwing p f s) hover]
    exact rescanAll_eq _
  exact Acts.run hn hrun hn (acts_restNotices_stop hn hd hr)

/-- R109, R110: a change to MOVING. -/
theorem stopsOwed_moving (hn : u.notices = []) (hm : u.decoder.motion = .moving) :
    StopsOwed (.next (settle (emitAll motionNotices u))) u := by
  intro h hr
  refine ⟨fun hstill => congrArg Host.Outcome.next ?_, fun p f b e r fl hnot hothers hfl hb hpt ht hover howed hin =>
    congrArg Host.Outcome.next ?_⟩
  · exact (acts_moving hn h hr (acts_motionPolicy_still hn hm h hr hstill) hn hm h.slot h.calm).settle hn (by decide)
  · have hk : kindOf f = .actuator := by by_contra hk; exact hnot fun h => absurd h hk
    have hmove : ¬ Still u p f := fun hs => hnot fun _ _ => hs
    have hd : u.Stoppable p f b e r := ⟨⟨fl, hfl⟩, hb, hpt, howed, hin, hr p hb.service⟩
    exact (acts_moving hn h hr (acts_motionPolicy_stop hn hm h hr hd hk hmove ht hover hothers) hn hm h.slot h.calm).settle
      hn (by decide)

/-- R19: a change to STATIONARY, with no entry of the Exercise Queue to be taken. -/
theorem settle_stationary (hn : s.notices = []) (hm : s.decoder.motion = .stationary) (h : s.Undisturbed) (hr : s.Resting)
    (hq : s.consist.cplPresent = false ∨ s.check.queue = []) : settle (emitAll motionNotices s) = s := by
  have hst : isStationary s = true := decide_eq_true hm
  have hpolicy : motionToPolicy s = s := if_pos hst
  have hslot : motionToSlot s = s := by
    unfold motionToSlot
    rw [if_pos hst]
    rcases hq with hq | hq
    · unfold slotTest
      rw [hq, Bool.and_false]
      rfl
    · exact slotTest_noQueue hq
  have hconsist : motionToConsist s = s := if_pos hst
  exact ((acts_motionDelivery hn h hr).cons (Acts.cons (k := 1) (l := 2) (Acts.silent (x := .motionPolicy) hn hpolicy hn)
    (Acts.cons (k := 1) (l := 1) (Acts.silent (x := .motionLoadCheck) hn hslot hn)
      (Acts.silent (x := .motionConsist) hn hconsist hn)))).settle hn (by decide)

theorem untouched_emitAll (ns : List Notice) (s : State) : Untouched (emitAll ns s) s := by
  constructor <;> intros <;> rfl

/-! ## COMMAND_STALE -/

theorem staleValue_eq (e : CommandEntry) : staleValue e.kind e.value =
    if e.kind = some .phase ∨ e.kind = some .actuator then 0 else e.value := by
  unfold staleValue
  split <;> simp_all

/-- R15: a FRESH entry whose age reaches the stale timeout. -/
theorem commandStale_cases {f : Code} {m : Time} (hn : s.notices = []) (hf : (commandOf s f).fresh = true)
    (hm : (commandOf s f).since = some m) (v : Nat)
    (hv : v = if (commandOf s f).kind = some .phase ∨ (commandOf s f).kind = some .actuator then 0 else (commandOf s f).value)
    (s1 : State)
    (hs1 : s1 = { advanceTo (m + ms s.settings.stale) s with decoder := { s.decoder with
      commands := s.decoder.commands.put f { commandOf s f with value := v, fresh := false } } }) :
    (∃ t, exec (.commandStale f) s = .next t ∧ Untouched t s1)
      ∧ ((commandOf s f).value = v → exec (.commandStale f) s = .next s1)
      ∧ ((commandOf s f).value ≠ v → s.Commanded f → (∀ k, (wiredOf s k).code = some f → (lineRec s k).hold = none) →
        Delivers (exec (.commandStale f) s) f v (State.retargeted f (s1.relined f true))) := by
  have hmoment : staleMoment s (commandOf s f).fresh (commandOf s f).since = some (m + ms s.settings.stale) := by
    unfold staleMoment
    rw [hf, hm]
    rfl
  have hexec : exec (.commandStale f) s = .next (settle (entryGoesStale f (advanceTo (m + ms s.settings.stale) s))) := by
    show Host.Outcome.next (atMoment (staleMoment s (commandOf s f).fresh (commandOf s f).since) _ s) = _
    rw [hmoment]
    rfl
  have hfall : modCommand f (fun e => { e with value := v, fresh := false }) (advanceTo (m + ms s.settings.stale) s) = s1 := by
    rw [hs1]; rfl
  have hstale : entryGoesStale f (advanceTo (m + ms s.settings.stale) s) =
      if v = (commandOf s f).value then s1 else emitAll (changeNotices f .stale (commandOf s f).value) s1 := by
    rw [← staleValue_eq] at hv
    subst hv
    rw [← hfall]
    rfl
  have hn1 : s1.notices = [] := by rw [hs1]; exact hn
  rw [hexec, hstale]
  refine ⟨⟨_, rfl, (settle_untouched _).trans ?_⟩, fun he => ?_, fun hne hc hh => ?_⟩
  · split
    · exact Untouched.refl _
    · exact untouched_emitAll _ _
  · rw [if_pos he.symm, settle_eq hn1]
  · rw [if_neg (Ne.symm hne)]
    have hval : commandOf s1 f = { commandOf s f with value := v, fresh := false } := by
      rw [hs1]; exact Tab.get_put_same _ _ _
    refine delivers_changed hn1 ?_ ?_ ?_
    · rw [hs1]; exact ⟨hc.kind, hc.slot, hc.override, hc.hold, hc.watch⟩
    · rw [hval]; exact Ne.symm hne
    · rw [hs1]; exact hh

/-! ## The motion state taken to MOVING -/

/-- R17: what `goMoving` leaves of the motion state and the stop timer. -/
def movingNow (s : State) : State := { s with decoder := { s.decoder with motion := .moving, stopTimer := none } }

theorem goMoving_moving (h : s.decoder.motion = .moving) : goMoving s = movingNow s := by
  unfold goMoving
  rw [h]
  exact congrArg (fun m => { s with decoder := { s.decoder with motion := m, stopTimer := none } }) h

theorem goMoving_stationary (h : s.decoder.motion = .stationary) : goMoving s = emitAll motionNotices (movingNow s) := by
  unfold goMoving
  rw [h]
  rfl

/-- R17, R109, R110: the motion state goes to MOVING. -/
theorem goMoving_cases (hn : s.notices = []) :
    Untouched (settle (goMoving s)) (movingNow s)
      ∧ (s.decoder.motion = .moving → settle (goMoving s) = movingNow s)
      ∧ (s.decoder.motion = .stationary → StopsOwed (.next (settle (goMoving s))) (movingNow s)) := by
  refine ⟨(settle_untouched _).trans ?_, fun h => ?_, fun h => ?_⟩
  · cases h : s.decoder.motion with
    | moving => rw [goMoving_moving h]; exact Untouched.refl _
    | stationary => rw [goMoving_stationary h]; exact untouched_emitAll _ _
  · rw [goMoving_moving h]
    exact settle_eq (s := movingNow s) hn
  · rw [goMoving_stationary h]
    exact stopsOwed_moving (u := movingNow s) hn rfl

/-! ## SPEED_STALE and STOP_TIMER_EXPIRY -/

theorem speedStale_cases {m : Time} (hn : s.notices = []) (hf : s.decoder.speed.fresh = true)
    (hm : s.decoder.speed.since = some m) (u : State)
    (hu : u = { advanceTo (m + ms s.settings.stale) s with decoder := { s.decoder with
      speed := { s.decoder.speed with fresh := false }, motion := .moving, stopTimer := none } }) :
    (∃ t, exec .speedStale s = .next t ∧ Untouched t u)
      ∧ (s.decoder.motion = .moving → exec .speedStale s = .next u)
      ∧ (s.decoder.motion = .stationary → StopsOwed (exec .speedStale s) u) := by
  let w : State := { advanceTo (m + ms s.settings.stale) s with
    decoder := { s.decoder with speed := { s.decoder.speed with fresh := false } } }
  have hexec : exec .speedStale s = .next (settle (goMoving w)) := by
    show Host.Outcome.next (atMoment (staleMoment s s.decoder.speed.fresh s.decoder.speed.since) _ s) = _
    have : staleMoment s s.decoder.speed.fresh s.decoder.speed.since = some (m + ms s.settings.stale) := by
      unfold staleMoment
      rw [hf, hm]
      rfl
    rw [this]
    rfl
  have hu' : u = movingNow w := hu
  obtain ⟨huntouched, hmoving, hstops⟩ := goMoving_cases (s := w) hn
  rw [hexec, hu']
  exact ⟨⟨_, rfl, huntouched⟩, fun h => congrArg Host.Outcome.next (hmoving h), hstops⟩

theorem stopTimerExpiry_cases {m x : Time} (hn : s.notices = []) (hf : s.decoder.speed.fresh = true)
    (hm : s.decoder.stopTimer = some m) (hx : x = m + ms 2000) (u : State)
    (hu : u = { advanceTo x s with decoder := { (advanceTo x s).decoder with motion := .stationary, stopTimer := none } }) :
    (∃ t, exec .stopTimerExpiry s = .next t ∧ Untouched t u)
      ∧ (u.Undisturbed → u.Resting → s.consist.cplPresent = false ∨ s.check.queue = [] →
        exec .stopTimerExpiry s = .next u) := by
  have hmoment : stopMoment s = some x := by
    unfold stopMoment
    rw [hf, hm, hx]
    rfl
  have hexec : exec .stopTimerExpiry s = .next (settle (emitAll motionNotices u)) := by
    show Host.Outcome.next (atMoment (stopMoment s) _ s) = _
    rw [hmoment, hu]
    rfl
  have hnu : u.notices = [] := by rw [hu]; exact hn
  rw [hexec]
  refine ⟨⟨_, rfl, (settle_untouched _).trans (untouched_emitAll _ _)⟩, fun h hr hq => congrArg Host.Outcome.next ?_⟩
  exact settle_stationary hnu (by rw [hu]) h hr (by rw [hu]; exact hq)

/-- Settles O22: each fall or change is handed on in notices, and a look at every position offers the one delivery or stop
that has come due. -/
theorem staleTimersRunOut : Obligations.StaleTimersRunOut := by
  unfold Obligations.StaleTimersRunOut
  refine ⟨fun f s m hn hf hm => ?_, fun s m hn hf => ⟨fun hm => ?_, fun hm => ?_⟩⟩
  · exact commandStale_cases hn hf hm _ rfl _ rfl
  · exact speedStale_cases hn hf hm _ rfl
  · exact stopTimerExpiry_cases hn hf hm rfl _ rfl

/-! ## CAN_FRAME_RECEIVED -/

/-- R7, R14: a frame that updates one function code. -/
theorem commandFrame_cases {frame : CanFrame} {n : Fin 48} {e : DecodeEntry} {c : Code} {v : Nat} (hn : s.notices = [])
    (hr : frame.remote = false) (hq : isRequest s frame = false) (he : s.decoder.entries.get n = some e)
    (hmatch : entryMatches e frame = true)
    (hone : ∀ m x, s.decoder.entries.get m = some x → entryMatches x frame = true → m = n) (hc : e.code = some c)
    (hv : (pickField e frame).bind (convertField e.kind e.width) = some v) (s1 : State)
    (hs1 : s1 = { s with decoder := { s.decoder with
      commands := s.decoder.commands.put c
        { value := v, kind := some e.kind, since := some s.now, fresh := true, neverUpdated := false } } }) :
    (∃ t, exec (.canFrameReceived frame) s = .next t ∧ Untouched t s1)
      ∧ (s.Commanded c →
        ((commandOf s c).value = v → exec (.canFrameReceived frame) s = .next (s1.relined c false))
          ∧ ((commandOf s c).value ≠ v →
            Delivers (exec (.canFrameReceived frame) s) c v (State.retargeted c (s1.relined c true)))) := by
  have happlied : s.decoder.entries.toList.foldl (applySlot frame) ((s, []) : State × Touched) =
      (s1, [(c, (commandOf s c).value)]) := by
    rw [foldl_applySlot_one he hone]
    unfold applyEntry
    dsimp only
    rw [if_pos hmatch, hv]
    dsimp only
    rw [hc, hs1]
    rfl
  have hval : (commandOf s1 c).value = v := by
    rw [hs1]
    exact congrArg CommandEntry.value (Tab.get_put_same _ _ _)
  have hn1 : s1.notices = [] := by rw [hs1]; exact hn
  have hframe : applyFrame frame s = emitAll (updateNotices s1 c (commandOf s c).value) s1 := by
    rw [applyFrame_of happlied, List.flatMap_cons, List.flatMap_nil, List.append_nil]
  rw [frame_exec hr hq, hframe]
  refine ⟨⟨_, rfl, (settle_untouched _).trans (untouched_emitAll _ _)⟩, fun h => ?_⟩
  have h1 : s1.Commanded c := by rw [hs1]; exact ⟨h.kind, h.slot, h.override, h.hold, h.watch⟩
  unfold updateNotices
  rw [hval]
  refine ⟨fun heq => ?_, fun hne => ?_⟩
  · rw [if_pos heq.symm]
    exact congrArg Host.Outcome.next ((acts_lineUpdate hn1 h1.slot).settle hn1 (by decide))
  · rw [if_neg (Ne.symm hne)]
    exact delivers_updated hn1 h1 (by rw [hval]; exact Ne.symm hne)

/-- R7: a frame whose entry yields no value changes nothing. -/
theorem frame_noValue {frame : CanFrame} {n : Fin 48} {e : DecodeEntry} (hn : s.notices = [])
    (hr : frame.remote = false) (hq : isRequest s frame = false) (he : s.decoder.entries.get n = some e)
    (hmatch : entryMatches e frame = true)
    (hone : ∀ m x, s.decoder.entries.get m = some x → entryMatches x frame = true → m = n)
    (hv : (pickField e frame).bind (convertField e.kind e.width) = none) :
    exec (.canFrameReceived frame) s = .next s := by
  have happlied : s.decoder.entries.toList.foldl (applySlot frame) ((s, []) : State × Touched) = (s, []) := by
    rw [foldl_applySlot_one he hone]
    unfold applyEntry
    dsimp only
    rw [if_pos hmatch, hv]
  rw [frame_exec hr hq, applyFrame_of happlied]
  exact congrArg Host.Outcome.next (((Acts.nil s).settle hn (by decide)))

/-- R12: a frame that updates the speed record. -/
theorem speedFrame_exec {frame : CanFrame} {n : Fin 48} {e : DecodeEntry} {v : Nat}
    (hr : frame.remote = false) (hq : isRequest s frame = false) (he : s.decoder.entries.get n = some e)
    (hmatch : entryMatches e frame = true)
    (hone : ∀ m x, s.decoder.entries.get m = some x → entryMatches x frame = true → m = n) (hc : e.code = none)
    (hv : (pickField e frame).bind (convertField e.kind e.width) = some v) :
    exec (.canFrameReceived frame) s = .next (settle (updateSpeed v s)) := by
  have happlied : s.decoder.entries.toList.foldl (applySlot frame) ((s, []) : State × Touched) = (updateSpeed v s, []) := by
    rw [foldl_applySlot_one he hone]
    unfold applyEntry
    dsimp only
    rw [if_pos hmatch, hv]
    dsimp only
    rw [hc]
  rw [frame_exec hr hq, applyFrame_of happlied, List.flatMap_nil, emitAll_nil]

/-- R17, R18: what an update of the speed record leaves. -/
theorem updateSpeed_cases {v : Nat} (hn : s.notices = []) (u : State)
    (hu : u = { s with decoder := { s.decoder with
      speed := { speed := some v, since := some s.now, fresh := true }
      motion := if 3 ≤ v then .moving else s.decoder.motion
      stopTimer :=
        if 3 ≤ v then none
        else if s.decoder.motion = .stationary then s.decoder.stopTimer
        else if 1 ≤ v then none
        else some (s.decoder.stopTimer.getD s.now) } }) :
    Untouched (settle (updateSpeed v s)) u
      ∧ (v < 3 ∨ s.decoder.motion = .moving → settle (updateSpeed v s) = u)
      ∧ (3 ≤ v → s.decoder.motion = .stationary → StopsOwed (.next (settle (updateSpeed v s))) u) := by
  let w : State := { s with decoder := { s.decoder with speed := { speed := some v, since := some s.now, fresh := true } } }
  by_cases hfast : 3 ≤ v
  · have hupd : updateSpeed v s = goMoving w := if_pos hfast
    have hu' : u = movingNow w := by rw [hu, if_pos hfast, if_pos hfast]; rfl
    obtain ⟨huntouched, hmoving, hstops⟩ := goMoving_cases (s := w) hn
    rw [hupd, hu']
    exact ⟨huntouched, fun h => hmoving (h.resolve_left (by omega)), fun _ => hstops⟩
  · have hupd : updateSpeed v s = u := by
      rw [hu, if_neg hfast, if_neg hfast]
      unfold updateSpeed judgeSpeed
      rw [if_neg hfast]
      dsimp only [modDecoder]
      cases hm : s.decoder.motion with
      | stationary =>
        rw [if_pos rfl]
      | moving =>
        dsimp only
        rw [if_neg (show ¬ Motion.moving = Motion.stationary by decide)]
        by_cases hslow : 1 ≤ v
        · rw [if_pos hslow, if_pos hslow]
        · rw [if_neg hslow, if_neg hslow]
          cases s.decoder.stopTimer <;> rfl
    have hnu : u.notices = [] := by rw [hu]; exact hn
    rw [hupd, settle_eq hnu]
    exact ⟨Untouched.refl _, fun _ => rfl, fun h => absurd h hfast⟩

/-- Settles O21: the one entry that matches is applied, and what it updates is handed on as COMMAND_STALE and SPEED_STALE
do. -/
theorem framesAreDecoded : Obligations.FramesAreDecoded := by
  unfold Obligations.FramesAreDecoded
  refine ⟨fun frame s n e c hn hr hq he hmatch hone hc => ⟨fun v hv => ?_, fun hv => ?_⟩,
    fun frame s n e v hn hr hq he hmatch hone hc hv => ?_⟩
  · exact commandFrame_cases hn hr hq he hmatch hone hc hv _ rfl
  · exact frame_noValue hn hr hq he hmatch hone hv
  · obtain ⟨huntouched, hplain, hstops⟩ := updateSpeed_cases (v := v) hn _ rfl
    dsimp only
    rw [speedFrame_exec hr hq he hmatch hone hc hv]
    exact ⟨⟨_, rfl, huntouched⟩, fun h => congrArg Host.Outcome.next (hplain h), hstops⟩

end Sys2Proof.Machine
end

section
/-!
WRITE-DECODE (R4, R5, R193): the staging record, the entry that is put in its place, and the loss of the SPEED entry.
-/
namespace Sys2Proof.Machine

variable {s t u : State}

/-! ## The first part -/

theorem stagingOf_some {args : List Byte} {n : Fin 48} {f : FrameFormat} (ha : argByte args 0 = n.val)
    (hf : formatOf (argByte args 1) = some f) (hid : idInRange f (argId args 2) = true) :
    stagingOf args = some { entry := argByte args 0, format := f, id := argId args 2 } := by
  unfold stagingOf
  rw [hf]
  exact if_pos ⟨by rw [ha]; exact n.isLt, hid⟩

theorem formatOf_none {n : Nat} (h : 2 ≤ n) : formatOf n = none := by
  unfold formatOf
  split
  · omega
  · omega
  · rfl

theorem stagingOf_none {args : List Byte} (h : 48 ≤ argByte args 0 ∨ 2 ≤ argByte args 1 ∨
    ∃ f, formatOf (argByte args 1) = some f ∧ idInRange f (argId args 2) = false) : stagingOf args = none := by
  unfold stagingOf
  rcases h with h | h | ⟨f, hf, hid⟩
  · split
    · exact if_neg fun hc => by omega
    · rfl
  · rw [formatOf_none h]
  · rw [hf]
    exact if_neg fun hc => by rw [hid] at hc; cases hc.2

theorem firstPart_exec {r : Request} {rest : List Request} (hs : s.Serving 2 r rest) (hl : 6 ≤ r.args.length)
    (ha : argByte r.args 0 < 128) : exec .writeDecodeFirstPart s = .next
      (match stagingOf r.args with
        | some x => answer .ok [] (setStaging (some x) s)
        | none => answer .badArg [] s) := by
  have hnot : headIsSecondPart s = false := by rw [headIsSecondPart_eq hs]; exact decide_eq_false (by omega)
  exact congrArg Host.Outcome.next ((if_neg (by rw [hnot]; decide)).trans ((serve_eq hs hl _).trans rfl))

theorem firstPart_taken {r : Request} {rest : List Request} {n : Fin 48} {f : FrameFormat} (hs : s.Serving 2 r rest)
    (hl : 6 ≤ r.args.length) (ha : argByte r.args 0 = n.val) (hf : formatOf (argByte r.args 1) = some f)
    (hid : idInRange f (argId r.args 2) = true) : exec .writeDecodeFirstPart s = .next
      ((setStaging (some { entry := argByte r.args 0, format := f, id := argId r.args 2 }) s).replied r rest .ok []) := by
  rw [firstPart_exec hs hl (by omega), stagingOf_some ha hf hid]
  exact congrArg Host.Outcome.next (hs.answer_in .ok [])

theorem firstPart_refused {r : Request} {rest : List Request} (hs : s.Serving 2 r rest) (hl : 6 ≤ r.args.length)
    (h : 48 ≤ argByte r.args 0 ∨ 2 ≤ argByte r.args 1 ∨
      ∃ f, formatOf (argByte r.args 1) = some f ∧ idInRange f (argId r.args 2) = false) (ha : argByte r.args 0 < 128) :
    exec .writeDecodeFirstPart s = .next (s.replied r rest .badArg []) := by
  rw [firstPart_exec hs hl ha, stagingOf_none h]
  exact congrArg Host.Outcome.next (hs.answer .badArg [])

/-! ## The second part -/

theorem secondPart_exec {r : Request} {rest : List Request} (hs : s.Serving 2 r rest) (hl : 6 ≤ r.args.length)
    (ha : 128 ≤ argByte r.args 0) : exec .writeDecodeSecondPart s = .next (settle (decodeSecondPart r.args s)) := by
  have hhead : headIsSecondPart s = true := by rw [headIsSecondPart_eq hs]; exact decide_eq_true ha
  refine congrArg Host.Outcome.next ((if_pos hhead).trans (congrArg settle ?_))
  exact (serve_eq hs (Nat.zero_le _) secondPart).trans (if_pos hl)

/-- R5: an entry put in place of one that is not the SPEED entry, or by another SPEED entry. -/
theorem putDecodeEntry_plain {n : Fin 48} {e : Option DecodeEntry}
    (h : isSpeedEntry (s.decoder.entries.get n) = false ∨ isSpeedEntry e = true) :
    putDecodeEntry n e s = { s with decoder := { s.decoder with entries := s.decoder.entries.put n e } } := by
  refine if_neg fun hc => ?_
  rw [Bool.and_eq_true] at hc
  rcases h with h | h
  · rw [h] at hc; cases hc.1
  · rw [h] at hc; cases hc.2

/-- R5, R17: an entry put in place of the SPEED entry by none or one of another kind resets the speed record. -/
theorem putDecodeEntry_drops {n : Fin 48} {e : Option DecodeEntry} (h : isSpeedEntry (s.decoder.entries.get n) = true)
    (he : isSpeedEntry e = false) : putDecodeEntry n e s =
      goMoving { s with decoder := { s.decoder with entries := s.decoder.entries.put n e, speed := {} } } :=
  if_pos (by rw [h, he]; rfl)

/-- A reply placed after the motion state has gone to MOVING stands before what that brings. -/
theorem goMoving_replied {r : Request} {rest : List Request} {x : ResultCode} {bs : List Byte} :
    (goMoving s).replied r rest x bs = goMoving (s.replied r rest x bs) := by
  cases h : s.decoder.motion with
  | moving => rw [goMoving_moving h, goMoving_moving (s := s.replied r rest x bs) h]; rfl
  | stationary => rw [goMoving_stationary h, goMoving_stationary (s := s.replied r rest x bs) h]; rfl

/-- R5, R17, R109: the request that drops the SPEED entry, by what it leaves. -/
theorem dropsSpeed {r : Request} {rest : List Request} {n : Fin 48} {e : Option DecodeEntry}
    {a : Host.Outcome State Fault Refusal} (hn : s.notices = []) (hs : s.Serving 2 r rest)
    (ha : a = .next (settle (answer .ok [] (putDecodeEntry n e s))))
    (h : isSpeedEntry (s.decoder.entries.get n) = true) (he : isSpeedEntry e = false) (u : State)
    (hu : u = State.replied { s with decoder := { s.decoder with
      entries := s.decoder.entries.put n e, speed := {}, motion := .moving, stopTimer := none } } r rest .ok []) :
    (∃ t, a = .next t ∧ Untouched t u)
      ∧ (s.decoder.motion = .moving → a = .next u)
      ∧ (s.decoder.motion = .stationary → StopsOwed a u) := by
  let w : State := { s with decoder := { s.decoder with entries := s.decoder.entries.put n e, speed := {} } }
  have hans : answer .ok [] (putDecodeEntry n e s) = goMoving (w.replied r rest .ok []) := by
    rw [putDecodeEntry_drops h he, ← goMoving_replied]
    have hreq : (goMoving w).management = w.management ∧ (goMoving w).port = w.port := by
      unfold goMoving
      split <;> exact ⟨rfl, rfl⟩
    refine hs.answer_in (x := goMoving w) .ok [] (congrArg Management.requests hreq.1) (congrArg Port.queue hreq.2)
  obtain ⟨huntouched, hmoving, hstops⟩ := goMoving_cases (s := w.replied r rest .ok []) hn
  have hu' : u = movingNow (w.replied r rest .ok []) := hu
  rw [ha, hans, hu']
  exact ⟨⟨_, rfl, huntouched⟩, fun h => congrArg Host.Outcome.next (hmoving h), hstops⟩

theorem indexFin_eq {k n : Nat} {i : Fin k} (h : n = i.val) : indexFin k n = some i := by
  subst h
  exact dif_pos i.isLt

/-- R5: a second part with valid clear. -/
theorem secondPart_clears {r : Request} {rest : List Request} {n : Fin 48} (hn : s.notices = []) (hs : s.Serving 2 r rest)
    (hl : 6 ≤ r.args.length) (ha : argByte r.args 0 = 128 + n.val) (hv : argByte r.args 1 = 0) :
    exec .writeDecodeSecondPart s = .next (settle (answer .ok [] (putDecodeEntry n none s))) := by
  rw [secondPart_exec hs hl (by omega)]
  unfold decodeSecondPart
  dsimp only
  rw [hv, indexFin_eq (i := n) (by omega)]
  rfl

/-- R193: a second part with valid set, by the write it makes of the staging record. -/
theorem secondPart_sets {r : Request} {rest : List Request} (hs : s.Serving 2 r rest)
    (hl : 6 ≤ r.args.length) (ha : 128 ≤ argByte r.args 0) (hv : argByte r.args 1 = 1) :
    exec .writeDecodeSecondPart s = .next (settle
      (match joinedWrite s (argByte r.args 0 - 128) r.args with
        | some (i, e) => answer .ok [] (putDecodeEntry i (some e) (setStaging none s))
        | none => answer .badArg [] (setStaging none s))) := by
  rw [secondPart_exec hs hl ha]
  unfold decodeSecondPart
  dsimp only
  rw [hv]
  rfl

theorem joinedWrite_eq {args : List Byte} {n : Fin 48} {x : Staging} {k : DecodeKind} {f : Option Code}
    (hx : s.management.staging = some x) (he : x.entry = n.val) (hk : decodeKindOf (argByte args 4) = some k)
    (hf : argOptCode args 5 = some f) (e : DecodeEntry)
    (hent : e = { format := x.format, id := x.id, byte := argByte args 2 / 8, bit := argByte args 2 % 8,
                  width := argByte args 3, kind := k, code := f }) :
    joinedWrite s n.val args = if decodeEntryOk s n e then some (n, e) else none := by
  have hjoin : joinedEntry x args = some e := by
    unfold joinedEntry
    rw [hk, hf, hent]
  unfold joinedWrite
  rw [hx, indexFin_eq (i := n) rfl]
  dsimp only
  rw [if_pos he, hjoin]
  rfl

theorem secondPart_refused {r : Request} {rest : List Request} (hn : s.notices = []) (hs : s.Serving 2 r rest)
    (hl : 6 ≤ r.args.length) (ha : 128 ≤ argByte r.args 0) (hv : argByte r.args 1 = 1)
    (hj : joinedWrite s (argByte r.args 0 - 128) r.args = none) :
    exec .writeDecodeSecondPart s = .next ((setStaging none s).replied r rest .badArg []) := by
  rw [secondPart_sets hs hl ha hv, hj]
  exact congrArg Host.Outcome.next ((congrArg settle (hs.answer_in .badArg [])).trans (settle_eq hn))

theorem joinedWrite_unstaged {args : List Byte} {n : Nat} (h : ∀ x, s.management.staging = some x → x.entry ≠ n) :
    joinedWrite s n args = none := by
  unfold joinedWrite
  split
  · rename_i x i hx hi
    exact if_neg (h x hx)
  · rfl

theorem secondPart_badArg {r : Request} {rest : List Request} (hn : s.notices = []) (hs : s.Serving 2 r rest)
    (hl : 6 ≤ r.args.length) (ha : 128 ≤ argByte r.args 0)
    (hv : 1 < argByte r.args 1 ∨ (argByte r.args 1 = 0 ∧ 176 ≤ argByte r.args 0)) :
    exec .writeDecodeSecondPart s = .next (s.replied r rest .badArg []) := by
  have hpart : decodeSecondPart r.args s = answer .badArg [] s := by
    unfold decodeSecondPart
    dsimp only
    rcases hv with hv | ⟨hv, hbig⟩
    · split
      · omega
      · omega
      · rfl
    · rw [hv]
      have hnone : indexFin 48 (argByte r.args 0 - 128) = none := dif_neg (by omega)
      rw [hnone]
      rfl
  rw [secondPart_exec hs hl ha, hpart]
  exact congrArg Host.Outcome.next (settle_answer hn hs .badArg)

theorem secondPart_put {r : Request} {rest : List Request} {n : Fin 48} {e : Option DecodeEntry} (hn : s.notices = [])
    (hs : s.Serving 2 r rest) (h : isSpeedEntry (s.decoder.entries.get n) = false ∨ isSpeedEntry e = true) :
    settle (answer .ok [] (putDecodeEntry n e s)) = State.replied { s with
      decoder := { s.decoder with entries := s.decoder.entries.put n e } } r rest .ok [] := by
  rw [putDecodeEntry_plain h, hs.answer_in .ok []]
  exact settle_eq hn

/-- Settles O48: each part by what it makes of the staging record; the loss of the SPEED entry goes on as SPEED_STALE
does. -/
theorem decodeIsWritten : Obligations.DecodeIsWritten := by
  unfold Obligations.DecodeIsWritten
  intro s r rest hn hs hl
  have hs' : (setStaging none s).Serving 2 r rest := ⟨hs.requests, hs.turn, hs.code, hs.room, hs.behind⟩
  refine ⟨fun n f ha hf hid => firstPart_taken hs hl ha hf hid, fun h ha => firstPart_refused hs hl h ha,
    fun n ha hv => ⟨fun hsp => ?_, fun hsp => ?_⟩, fun n x k f ha hv hx hxe hk hf => ?_, fun ha hv hx => ?_,
    fun ha hv => secondPart_badArg hn hs hl ha hv⟩
  · rw [secondPart_clears hn hs hl ha hv, secondPart_put hn hs (Or.inl hsp)]
  · exact dropsSpeed hn hs (secondPart_clears hn hs hl ha hv) hsp rfl _ rfl
  · have hindex : argByte r.args 0 - 128 = n.val := by omega
    have hjoin := joinedWrite_eq hx hxe hk hf _ rfl
    have hsets := secondPart_sets hs hl (by omega) hv
    rw [hindex] at hsets
    dsimp only
    refine ⟨fun hok => secondPart_refused hn hs hl (by omega) hv ?_, fun hok hsp => ?_, fun hok hsp hne => ?_⟩
    · rw [hindex, hjoin, if_neg (by rw [hok]; decide)]
    · rw [hsets, hjoin, if_pos hok]
      exact congrArg Host.Outcome.next (secondPart_put (s := setStaging none s) hn hs'
        (hsp.imp id fun h => decide_eq_true h))
    · rw [hjoin, if_pos hok] at hsets
      exact dropsSpeed (s := setStaging none s) hn hs' hsets hsp (decide_eq_false hne) _ rfl
  · exact secondPart_refused hn hs hl ha hv (joinedWrite_unstaged hx)

end Sys2Proof.Machine
end

section
/-!
SET-SYSTEM (R16, R123, R125, R148, R195): the settings, and what a new stale timeout reaches at once.
-/
namespace Sys2Proof.Machine

variable {s t u : State}

/-! ## The stale timeout acting at once -/

/-- R15, R16: a Command Table entry as the stale timeout in force leaves it. -/
def staleEntry (s : State) (e : CommandEntry) : CommandEntry :=
  if e.fresh = true ∧ reachedStale s e.since = true then { e with value := staleValue e.kind e.value, fresh := false } else e

/-- Set the entries of the Command Table. -/
def setCommands (cs : Tab CommandEntry 192) (s : State) : State := { s with decoder := { s.decoder with commands := cs } }

theorem staleIfDue_eq {f : Code} {cs : Tab CommandEntry 192} {ns : List Notice} (h : cs.get f = commandOf s f) :
    ∃ ms, staleIfDue f (emitAll ns (setCommands cs s)) =
        emitAll (ns ++ ms) (setCommands (cs.upd f (staleEntry s)) s)
      ∧ ((staleEntry s (commandOf s f)).value = (commandOf s f).value → ms = []) := by
  have hcell : commandOf (emitAll ns (setCommands cs s)) f = commandOf s f := h
  have hreach : ∀ x, reachedStale (emitAll ns (setCommands cs s)) x = reachedStale s x := fun _ => rfl
  unfold staleIfDue
  rw [hcell, hreach]
  by_cases hdue : (commandOf s f).fresh = true ∧ reachedStale s (commandOf s f).since = true
  · have hentry : staleEntry s (commandOf s f) =
        { commandOf s f with value := staleValue (commandOf s f).kind (commandOf s f).value, fresh := false } := if_pos hdue
    have hput : modCommand f (fun e => { e with value := staleValue (commandOf s f).kind (commandOf s f).value, fresh := false })
        (emitAll ns (setCommands cs s)) = emitAll ns (setCommands (cs.upd f (staleEntry s)) s) := by
      refine congrArg (fun cs => emitAll ns (setCommands cs s)) (Tab.upd_congr _ _ ?_)
      rw [show (emitAll ns (setCommands cs s)).decoder.commands.get f = commandOf s f from h, hentry]
    rw [if_pos (Bool.and_eq_true_iff.mpr hdue)]
    unfold entryGoesStale
    dsimp only
    rw [hcell, hput, hentry]
    by_cases hv : staleValue (commandOf s f).kind (commandOf s f).value = (commandOf s f).value
    · exact ⟨[], by rw [if_pos hv, List.append_nil], fun _ => rfl⟩
    · exact ⟨_, (if_neg hv).trans (emitAll_emitAll _ _ _), fun he => absurd he hv⟩
  · have hentry : staleEntry s (cs.get f) = cs.get f := by rw [h]; exact if_neg hdue
    rw [if_neg fun hc => hdue (Bool.and_eq_true_iff.mp hc), Tab.upd_eq_self _ _ hentry]
    exact ⟨[], by rw [List.append_nil], fun _ => rfl⟩

/-- R16: every FRESH entry whose age has reached the stale timeout goes stale. -/
theorem foldl_staleIfDue (fs : List Code) (hnd : fs.Nodup) {cs : Tab CommandEntry 192} {ns : List Notice}
    (h : ∀ f ∈ fs, cs.get f = commandOf s f) :
    ∃ cs' ms, fs.foldl (fun s f => staleIfDue f s) (emitAll ns (setCommands cs s)) = emitAll (ns ++ ms) (setCommands cs' s)
      ∧ (∀ f, cs'.get f = if f ∈ fs then staleEntry s (commandOf s f) else cs.get f)
      ∧ ((∀ f ∈ fs, (staleEntry s (commandOf s f)).value = (commandOf s f).value) → ms = []) := by
  induction fs generalizing cs ns with
  | nil => exact ⟨cs, [], by rw [List.append_nil]; rfl, fun f => (if_neg (by simp)).symm, fun _ => rfl⟩
  | cons f fs ih =>
    obtain ⟨hf, hnd⟩ := List.nodup_cons.mp hnd
    obtain ⟨ms, hstep, hms⟩ := staleIfDue_eq (ns := ns) (h f (List.mem_cons_self ..))
    obtain ⟨cs', ms', hfold, hget, hms'⟩ := ih hnd (cs := cs.upd f (staleEntry s)) (ns := ns ++ ms) fun g hg => by
      have hne : g ≠ f := by rintro rfl; exact hf hg
      rw [Tab.get_upd_ne _ _ hne]
      exact h g (List.mem_cons_of_mem _ hg)
    refine ⟨cs', ms ++ ms', ?_, fun g => ?_, fun hall => ?_⟩
    · rw [List.foldl_cons, hstep, hfold, List.append_assoc]
    · rw [hget]
      by_cases hg : g = f
      · subst hg
        rw [if_neg hf, if_pos (List.mem_cons_self ..), Tab.get_upd_same, h g (List.mem_cons_self ..)]
      · rw [Tab.get_upd_ne _ _ hg]
        by_cases hm : g ∈ fs
        · rw [if_pos hm, if_pos (List.mem_cons_of_mem _ hm)]
        · rw [if_neg hm, if_neg fun hc => (List.mem_cons.mp hc).elim hg hm]
    · rw [hms (hall f (List.mem_cons_self ..)), hms' fun g hg => hall g (List.mem_cons_of_mem _ hg)]
      rfl

theorem goMoving_emitAll (ns : List Notice) (s : State) :
    ∃ ms, goMoving (emitAll ns s) = emitAll (ns ++ ms) (movingNow s) ∧ (s.decoder.motion = .moving → ms = []) := by
  cases h : s.decoder.motion with
  | moving =>
    refine ⟨[], ?_, fun _ => rfl⟩
    rw [goMoving_moving (s := emitAll ns s) h, List.append_nil]
    rfl
  | stationary =>
    refine ⟨motionNotices, ?_, fun hc => by cases hc⟩
    rw [goMoving_stationary (s := emitAll ns s) h]
    exact emitAll_emitAll ns motionNotices (movingNow s)

/-- R17: the speed record is late. -/
def speedLate (s : State) : Bool := s.decoder.speed.fresh && reachedStale s s.decoder.speed.since

/-- R16, R17: the state as a stale speed record leaves it. -/
def speedJudged (s : State) : State :=
  if speedLate s then movingNow { s with decoder := { s.decoder with speed := { s.decoder.speed with fresh := false } } } else s

theorem speedStaleIfDue_eq (ns : List Notice) (s : State) :
    ∃ ms, speedStaleIfDue (emitAll ns s) = emitAll (ns ++ ms) (speedJudged s)
      ∧ (speedLate s = false ∨ s.decoder.motion = .moving → ms = []) := by
  unfold speedJudged
  cases hlate : speedLate s with
  | true =>
    obtain ⟨ms, hms, hnil⟩ := goMoving_emitAll ns
      { s with decoder := { s.decoder with speed := { s.decoder.speed with fresh := false } } }
    refine ⟨ms, ?_, fun h => hnil (h.resolve_left (by decide))⟩
    rw [if_pos rfl, ← hms]
    exact if_pos hlate
  | false =>
    refine ⟨[], ?_, fun _ => rfl⟩
    rw [if_neg (by decide), List.append_nil]
    exact if_neg fun hc => Bool.false_ne_true (hlate.symm.trans hc)

theorem holdsExpire_calm (s : State) :
    Calm (allLines.foldl (fun s k => if holdExpired s k then expireHold k s else s) s) s := by
  have hfold : ∀ (ks : List LineNo) (t : State), Calm t s →
      Calm (ks.foldl (fun s k => if holdExpired s k then expireHold k s else s) t) s := by
    intro ks
    induction ks with
    | nil => exact fun t h => h
    | cons k ks ih =>
      intro t h
      refine ih _ ?_
      dsimp only
      split
      · exact expireHold_calm k h
      · exact h
  exact hfold allLines s (Calm.refl s)

/-- R131: with the slot free, each hold that has reached the stale timeout ends with pending on-count 0. -/
theorem holdsExpire_eq (h : s.check.slot = none) :
    ∃ m, allLines.foldl (fun s k => if holdExpired s k then expireHold k s else s) s = setLines m s
      ∧ ∀ k, m.get k = if holdExpired s k then { lineRec s k with hold := none, pendingOn := 0 } else lineRec s k := by
  obtain ⟨m, hm, hg⟩ := foldl_allLines s (fun s k => if holdExpired s k then expireHold k s else s)
    (fun k x => if holdExpired s k then { x with hold := none, pendingOn := 0 } else x) (fun l k hl => by
      have hrec : lineRec (setLines l s) k = lineRec s k := hl
      have hexp : holdExpired (setLines l s) k = holdExpired s k := by
        unfold holdExpired
        rw [hrec]
        rfl
      have hwin : windowOn (setLines l s) k = false := by
        unfold windowOn
        rw [show (setLines l s).check.slot = none from h]
      rw [hexp]
      split
      · exact (expireHold_eq k (setLines l s)).1 hwin
      · rw [Tab.upd_eq_self]; rfl)
  exact ⟨m, hm, hg⟩

/-! ## SET-SYSTEM -/

theorem setSystem_exec {r : Request} {rest : List Request} {x : Setting} {v : Nat} (hs : s.Serving 9 r rest)
    (hl : 3 ≤ r.args.length) (hx : settingOf (argByte r.args 0) = some x) (hv : valueTaken x (argWord r.args 1) = some v) :
    exec .setSystem s = .next (settle (writeSetting x v (s.replied r rest .ok (word v)))) := by
  refine congrArg (fun x => Host.Outcome.next (settle x)) ((serve_eq hs hl _).trans ?_)
  rw [hx]
  dsimp only
  rw [hv]
  dsimp only
  rw [hs.answer]

theorem setSystem_refused {r : Request} {rest : List Request} (hn : s.notices = []) (hs : s.Serving 9 r rest)
    (hl : 3 ≤ r.args.length) (h : ∀ x, settingOf (argByte r.args 0) = some x → valueTaken x (argWord r.args 1) = none) :
    exec .setSystem s = .next (s.replied r rest .badArg []) := by
  refine congrArg Host.Outcome.next ((congrArg settle ((serve_eq hs hl _).trans ?_)).trans (settle_answer hn hs .badArg))
  cases hx : settingOf (argByte r.args 0) with
  | none => rfl
  | some x =>
    dsimp only
    rw [h x hx]

theorem settingOf_none {n : Nat} (h : 4 < n) : settingOf n = none := by
  unfold settingOf
  split <;> first | omega | rfl

theorem clamp_zero (hi v : Nat) : clamp 0 hi v = min hi v := by rw [clamp_eq (Nat.zero_le hi), Nat.zero_max]

/-- R148: the settings that are only kept. -/
theorem setSystem_kept {r : Request} {rest : List Request} (hn : s.notices = []) (hs : s.Serving 9 r rest)
    (hl : 3 ≤ r.args.length) :
    (argByte r.args 0 = 2 → exec .setSystem s = .next (State.replied
        { s with settings := { s.settings with window := max 200 (min 2000 (argWord r.args 1)) } } r rest .ok
          (word (max 200 (min 2000 (argWord r.args 1))))))
      ∧ (argByte r.args 0 = 3 → exec .setSystem s = .next (State.replied
        { s with settings := { s.settings with tolerance := min 50 (argWord r.args 1) } } r rest .ok
          (word (min 50 (argWord r.args 1)))))
      ∧ (argByte r.args 0 = 4 → exec .setSystem s = .next (State.replied
        { s with settings := { s.settings with threshold := min 1000 (argWord r.args 1) } } r rest .ok
          (word (min 1000 (argWord r.args 1))))) := by
  refine ⟨fun h => ?_, fun h => ?_, fun h => ?_⟩
  · rw [setSystem_exec hs hl (x := .window) (by rw [h]; rfl) (congrArg some (clamp_eq (by decide) _))]
    exact congrArg Host.Outcome.next (settle_eq hn)
  · rw [setSystem_exec hs hl (x := .tolerance) (by rw [h]; rfl) (congrArg some (clamp_zero _ _))]
    exact congrArg Host.Outcome.next (settle_eq hn)
  · rw [setSystem_exec hs hl (x := .threshold) (by rw [h]; rfl) (congrArg some (clamp_zero _ _))]
    exact congrArg Host.Outcome.next (settle_eq hn)

/-- R125, R123: V_ref. -/
theorem setSystem_vref {r : Request} {rest : List Request} (hn : s.notices = []) (hs : s.Serving 9 r rest)
    (hl : 3 ≤ r.args.length) (h0 : argByte r.args 0 = 0) (v : Nat) (hv : v = argWord r.args 1)
    (hok : v = 12000 ∨ v = 24000) : ∃ t, exec .setSystem s = .next t
      ∧ t = State.replied { s with settings := { s.settings with vref := v }
                                   direct := { s.direct with lines := t.direct.lines } } r rest .ok (word v)
      ∧ ∀ k, lineRec t k =
          if (lineRec s k).hold.isSome then lineRec s k
          else { lineRec s k with
            pendingOn := onCountOf (levelOf s k) (timebase s (lineRec s k).tb).period (wiredOf s k).comp v s.direct.supply } := by
  have htaken : valueTaken .vref (argWord r.args 1) = some v := by rw [← hv]; exact if_pos hok
  let w : State := State.replied { s with settings := { s.settings with vref := v } } r rest .ok (word v)
  obtain ⟨m, hm, hg⟩ := recomputeWhere_eq (s := w) (fun _ _ => true) (fun _ _ _ => rfl)
  have hwrite : writeSetting .vref v (s.replied r rest .ok (word v)) = setLines m w := hm
  refine ⟨setLines m w, ?_, rfl, fun k => (hg k).trans ?_⟩
  · rw [setSystem_exec hs hl (x := .vref) (by rw [h0]; rfl) htaken, hwrite]
    exact congrArg Host.Outcome.next (settle_eq (s := setLines m w) hn)
  · cases hh : (lineRec s k).hold with
    | none => exact if_pos ⟨rfl, hh⟩
    | some x => exact if_neg fun hc => by rw [show (lineRec w k).hold = _ from hh] at hc; cases hc.2

/-- R16: a new stale timeout, with what it reaches. -/
theorem setSystem_stale {r : Request} {rest : List Request} (hs : s.Serving 9 r rest)
    (hl : 3 ≤ r.args.length) (h1 : argByte r.args 0 = 1) (v : Nat) (hv : v = max 100 (min 2000 (argWord r.args 1)))
    (w : State) (hw : w = State.replied { s with settings := { s.settings with stale := v } } r rest .ok (word v)) :
    ∃ cs ns, exec .setSystem s = .next (settle (allLines.foldl (fun s k => if holdExpired s k then expireHold k s else s)
        (emitAll ns (speedJudged (setCommands cs w)))))
      ∧ (∀ f, cs.get f = staleEntry w (commandOf s f))
      ∧ ((∀ f, (staleEntry w (commandOf s f)).value = (commandOf s f).value) →
        speedLate w = false ∨ s.decoder.motion = .moving → ns = []) := by
  have htaken : valueTaken .stale (argWord r.args 1) = some v := by rw [hv]; exact congrArg some (clamp_eq (by decide) _)
  obtain ⟨cs, ms, hfold, hcs, hms⟩ := foldl_staleIfDue (s := w) allCodes (List.nodup_finRange 192)
    (cs := w.decoder.commands) (ns := []) (fun _ _ => rfl)
  obtain ⟨ns, hspeed, hns⟩ := speedStaleIfDue_eq ([] ++ ms) (setCommands cs w)
  refine ⟨cs, [] ++ ms ++ ns, ?_, fun f => ?_, fun hall hlate => ?_⟩
  · rw [setSystem_exec hs hl (x := .stale) (by rw [h1]; rfl) htaken]
    refine congrArg (fun x => Host.Outcome.next (settle x)) ?_
    show staleTimeoutActs _ = _
    unfold staleTimeoutActs
    rw [← hspeed, ← hfold, hw, emitAll_nil]
    rfl
  · rw [hcs, if_pos (show f ∈ allCodes from List.mem_finRange f), hw]
    rfl
  · have hcmd : ∀ f, commandOf w f = commandOf s f := by rw [hw]; exact fun _ => rfl
    have hmot : (setCommands cs w).decoder.motion = s.decoder.motion := by rw [hw]; rfl
    rw [hms fun f _ => by rw [hcmd]; exact hall f, hns (hlate.imp id hmot.trans)]
    rfl

theorem reachedStale_iff {x : Option Time} :
    reachedStale s x = true ↔ ∃ m, x = some m ∧ m + ms s.settings.stale ≤ s.now := by
  cases x with
  | none => exact ⟨fun h => (Bool.false_ne_true h).elim, fun ⟨m, h, _⟩ => by cases h⟩
  | some m => exact ⟨fun h => ⟨m, rfl, of_decide_eq_true h⟩, fun ⟨n, h, hn⟩ => by cases h; exact decide_eq_true hn⟩

theorem speedLate_iff : speedLate s = true ↔
    s.decoder.speed.fresh = true ∧ ∃ m, s.decoder.speed.since = some m ∧ m + ms s.settings.stale ≤ s.now := by
  unfold speedLate
  rw [Bool.and_eq_true, reachedStale_iff]

theorem speedJudged_late (h : speedLate s = true) : speedJudged s = { s with decoder := { s.decoder with
    speed := { s.decoder.speed with fresh := false }, motion := .moving, stopTimer := none } } := if_pos h

theorem speedJudged_onTime (h : speedLate s = false) : speedJudged s = s := if_neg (by rw [h]; decide)

/-- R16: a Command Table entry that a new stale timeout reaches. -/
theorem staleEntry_cases (e : CommandEntry) :
    (e.fresh = true ∧ (∃ m, e.since = some m ∧ m + ms s.settings.stale ≤ s.now) →
        ((e.kind = some .phase ∨ e.kind = some .actuator) → staleEntry s e = { e with value := 0, fresh := false })
          ∧ (¬ (e.kind = some .phase ∨ e.kind = some .actuator) → staleEntry s e = { e with fresh := false }))
      ∧ (¬ (e.fresh = true ∧ ∃ m, e.since = some m ∧ m + ms s.settings.stale ≤ s.now) → staleEntry s e = e) := by
  unfold staleEntry
  refine ⟨fun h => ?_, fun h => if_neg fun hc => h ⟨hc.1, reachedStale_iff.mp hc.2⟩⟩
  rw [if_pos ⟨h.1, reachedStale_iff.mpr h.2⟩, staleValue_eq]
  exact ⟨fun hf => by rw [if_pos hf], fun hf => by rw [if_neg hf]⟩

/-- R16: what a new stale timeout leaves of the Command Decoder, and that the rest is what no notice reaches. -/
theorem staleWrite_decoder (cs : Tab CommandEntry 192) (ns : List Notice) (w : State)
    (t : State) (ht : t = settle (allLines.foldl (fun s k => if holdExpired s k then expireHold k s else s)
      (emitAll ns (speedJudged (setCommands cs w))))) :
    t.decoder = (speedJudged (setCommands cs w)).decoder ∧ Untouched t (speedJudged (setCommands cs w)) := by
  have huntouched : Untouched t (speedJudged (setCommands cs w)) := by
    rw [ht]
    exact ((settle_untouched _).trans (holdsExpire_calm _).untouched).trans (untouched_emitAll ns _)
  exact ⟨huntouched.decoder, huntouched⟩

theorem speedJudged_only (s : State) : speedJudged s = { s with decoder := (speedJudged s).decoder } := by
  cases h : speedLate s with
  | true => rw [speedJudged_late h]
  | false => rw [speedJudged_onTime h]

/-- R16, R131: a new stale timeout that lets no value fall: only the lines' holds end. -/
theorem staleWrite_lines {cs : Tab CommandEntry 192} {w : State} (hn : w.notices = []) (hslot : w.check.slot = none) :
    ∃ m, settle (allLines.foldl (fun s k => if holdExpired s k then expireHold k s else s)
        (emitAll [] (speedJudged (setCommands cs w)))) = setLines m (speedJudged (setCommands cs w))
      ∧ ∀ k, m.get k = if reachedStale w (lineRec w k).hold then { lineRec w k with hold := none, pendingOn := 0 }
        else lineRec w k := by
  have honly := speedJudged_only (setCommands cs w)
  obtain ⟨m, hm, hg⟩ := holdsExpire_eq (s := speedJudged (setCommands cs w)) (by rw [honly]; exact hslot)
  refine ⟨m, ?_, fun k => (hg k).trans ?_⟩
  · rw [emitAll_nil, hm]
    exact settle_eq (by rw [honly]; exact hn)
  · unfold holdExpired
    rw [honly]
    rfl

/-- R16, R131: SET-SYSTEM of the stale timeout. -/
theorem setSystem_staleTaken {r : Request} {rest : List Request} (hn : s.notices = []) (hs : s.Serving 9 r rest)
    (hl : 3 ≤ r.args.length) (h1 : argByte r.args 0 = 1) (v : Nat) (hv : v = max 100 (min 2000 (argWord r.args 1)))
    (reached : Option Time → Prop) (hreached : ∀ x, reached x ↔ ∃ m, x = some m ∧ m + ms v ≤ s.now)
    (falls : CommandEntry → Prop) (hfalls : ∀ e, falls e ↔ (e.kind = some .phase ∨ e.kind = some .actuator)) (late : Prop)
    (hlate : late ↔ s.decoder.speed.fresh = true ∧ reached s.decoder.speed.since) :
    ∃ t, exec .setSystem s = .next t
      ∧ t.decoder = { s.decoder with
          commands := t.decoder.commands, speed := t.decoder.speed, motion := t.decoder.motion
          stopTimer := t.decoder.stopTimer }
      ∧ (late → t.decoder.speed = { s.decoder.speed with fresh := false } ∧ t.decoder.motion = .moving
        ∧ t.decoder.stopTimer = none)
      ∧ (¬ late → t.decoder.speed = s.decoder.speed ∧ t.decoder.motion = s.decoder.motion
        ∧ t.decoder.stopTimer = s.decoder.stopTimer)
      ∧ (∀ f, (commandOf s f).fresh = true ∧ reached (commandOf s f).since →
          (falls (commandOf s f) → commandOf t f = { commandOf s f with value := 0, fresh := false })
            ∧ (¬ falls (commandOf s f) → commandOf t f = { commandOf s f with fresh := false }))
      ∧ (∀ f, ¬ ((commandOf s f).fresh = true ∧ reached (commandOf s f).since) → commandOf t f = commandOf s f)
      ∧ Untouched t { s with settings := { s.settings with stale := v }, decoder := t.decoder }
      ∧ (s.check.slot = none → ¬ late ∨ s.decoder.motion = .moving →
        (∀ f, (commandOf s f).fresh = true → reached (commandOf s f).since → falls (commandOf s f) →
          (commandOf s f).value = 0) →
        t = State.replied { s with
              settings := { s.settings with stale := v }
              decoder := t.decoder
              direct := { s.direct with lines := t.direct.lines } } r rest .ok (word v)
          ∧ (∀ k, reached (lineRec s k).hold → lineRec t k = { lineRec s k with hold := none, pendingOn := 0 })
          ∧ ∀ k, ¬ reached (lineRec s k).hold → lineRec t k = lineRec s k) := by
  let w : State := State.replied { s with settings := { s.settings with stale := v } } r rest .ok (word v)
  obtain ⟨cs, ns, hexec, hcs, hns⟩ := setSystem_stale hs hl h1 v hv w rfl
  obtain ⟨hdec, huntouched⟩ := staleWrite_decoder cs ns w _ rfl
  have honly := speedJudged_only (setCommands cs w)
  have hlate' : speedLate w = true ↔ late := by rw [speedLate_iff, hlate, hreached]; exact Iff.rfl
  have hcommands : (speedJudged (setCommands cs w)).decoder.commands = cs := by
    cases h : speedLate (setCommands cs w) with
    | true => rw [speedJudged_late h]; rfl
    | false => rw [speedJudged_onTime h]; rfl
  have hcommand : ∀ f, commandOf (settle (allLines.foldl (fun s k => if holdExpired s k then expireHold k s else s)
      (emitAll ns (speedJudged (setCommands cs w))))) f = staleEntry w (commandOf s f) := by
    intro f
    unfold commandOf
    rw [hdec, hcommands]
    exact hcs f
  refine ⟨_, hexec, ?_, fun h => ?_, fun h => ?_, fun f hf => ?_, fun f hf => ?_, ?_, fun hslot hmot hall => ?_⟩
  · rw [hdec]
    cases h : speedLate (setCommands cs w) with
    | true => rw [speedJudged_late h]; rfl
    | false => rw [speedJudged_onTime h]; rfl
  · rw [hdec, speedJudged_late (s := setCommands cs w) (hlate'.mpr h)]
    exact ⟨rfl, rfl, rfl⟩
  · have hon : speedLate (setCommands cs w) = false := Bool.eq_false_iff.mpr fun hc => h (hlate'.mp hc)
    rw [hdec, speedJudged_onTime hon]
    exact ⟨rfl, rfl, rfl⟩
  · rw [hcommand, hfalls]
    exact (staleEntry_cases (s := w) (commandOf s f)).1 ⟨hf.1, (hreached _).mp hf.2⟩
  · rw [hcommand]
    exact (staleEntry_cases (s := w) (commandOf s f)).2 fun hc => hf ⟨hc.1, (hreached _).mpr hc.2⟩
  · rw [hdec]
    refine huntouched.trans ?_
    rw [honly]
    constructor <;> intros <;> rfl
  · have hval : ∀ f, (staleEntry w (commandOf s f)).value = (commandOf s f).value := by
      intro f
      by_cases hdue : (commandOf s f).fresh = true ∧ reached (commandOf s f).since
      · obtain ⟨hfall, hkeep⟩ := (staleEntry_cases (s := w) (commandOf s f)).1 ⟨hdue.1, (hreached _).mp hdue.2⟩
        by_cases hf : falls (commandOf s f)
        · rw [hfall ((hfalls _).mp hf), hall f hdue.1 hdue.2 hf]
        · rw [hkeep fun hc => hf ((hfalls _).mpr hc)]
      · rw [(staleEntry_cases (s := w) (commandOf s f)).2 fun hc => hdue ⟨hc.1, (hreached _).mpr hc.2⟩]
    have hnil : ns = [] := hns hval (hmot.imp (fun h => Bool.eq_false_iff.mpr fun hc => h (hlate'.mp hc)) id)
    subst hnil
    obtain ⟨m, hm, hg⟩ := staleWrite_lines (cs := cs) (w := w) hn hslot
    have hget : ∀ k, m.get k = if reachedStale w (lineRec s k).hold then { lineRec s k with hold := none, pendingOn := 0 }
        else lineRec s k := hg
    rw [hm]
    refine ⟨?_, fun k hk => ?_, fun k hk => ?_⟩
    · rw [honly]; rfl
    · have hk' : reachedStale w (lineRec s k).hold = true := (reachedStale_iff (s := w)).mpr ((hreached _).mp hk)
      exact (hget k).trans (if_pos hk')
    · have hk' : ¬ reachedStale w (lineRec s k).hold = true :=
        fun hc => hk ((hreached _).mpr ((reachedStale_iff (s := w)).mp hc))
      exact (hget k).trans (if_neg hk')

/-- Settles O51: each setting by what it takes and what it reaches. -/
theorem settingsAreWritten : Obligations.SettingsAreWritten := by
  unfold Obligations.SettingsAreWritten
  intro s r rest hn hs hl
  obtain ⟨hwindow, htolerance, hthreshold⟩ := setSystem_kept hn hs hl
  refine ⟨hwindow, htolerance, hthreshold, fun h => ?_, fun h h1 h2 => ?_, fun h hv => ?_, fun h => ?_⟩
  · exact setSystem_refused hn hs hl fun x hx => by rw [settingOf_none h] at hx; cases hx
  · refine setSystem_refused hn hs hl fun x hx => ?_
    rw [h] at hx
    cases hx
    exact if_neg fun hc => hc.elim h1 h2
  · exact setSystem_vref hn hs hl h _ rfl hv
  · exact setSystem_staleTaken hn hs hl h _ rfl _ (fun _ => Iff.rfl) _ (fun _ => Iff.rfl) _ Iff.rfl

end Sys2Proof.Machine
end

section
/-!
The beginning of a release (R174, R175, R178, R183).
-/
namespace Sys2Proof.Machine

variable {s t u : State}

theorem argPos_eq {args : List Byte} {i : Nat} {p : Pos} (h : argByte args i = p.val + 1) : argPos args i = some p := by
  unfold argPos
  dsimp only
  rw [dif_pos ⟨by omega, by omega⟩]
  exact congrArg some (Fin.ext (by show argByte args i - 1 = p.val; omega))

theorem argPos_none {args : List Byte} {i : Nat} (h : argByte args i = 0 ∨ 4 < argByte args i) : argPos args i = none :=
  dif_neg fun hc => by omega

/-- A notice whose work ends in an offer that nobody is told of. -/
theorem Acts.offers {x : Notice} {o : Offer} (hn : s.notices = []) (hx : runNotice x s = makeOffer o t)
    (ht : t.notices = []) (hi : t.IdleLine) (hv : offerValid o = true) (hg : grantNotices o = []) :
    Acts 1 [x] s (makeOffer o t) := Acts.silent hn hx ((makeOffer_notices hv hg hi).trans ht)

theorem releaseOffer_valid (q : Pos) : offerValid (releaseOffer q) = true := by revert q; decide

theorem abandonRecovery_none (h : ∀ x, (streamRec s x).identNext = none) : abandonRecovery s = s := by
  have hfold : ∀ ps : List Pos, ps.foldl (fun s q =>
      if decide (stateOf s q = .lost) && underRelease s q && (streamRec s q).identNext.isSome then
        modRec q (fun r => { r with attemptUnderWay := false }) (abandonReads q s)
      else s) s = s := by
    intro ps
    induction ps with
    | nil => rfl
    | cons q qs ih =>
      rw [List.foldl_cons, if_neg]
      · exact ih
      · rw [h q]; simp
  exact hfold allPos

theorem mem_allPos (p : Pos) : p ∈ allPos := by revert p; decide

theorem rangeOccupied_of {p q : Pos} (hp : p ≤ q) (hq : stateOf s q ≠ .vacant) : rangeOccupied s p = true := by
  refine List.any_eq_true.mpr ⟨q, mem_allPos q, ?_⟩
  exact Bool.and_eq_true_iff.mpr ⟨decide_eq_true hp, congrArg not (decide_eq_false hq)⟩

theorem highestOccupied_of {q : Pos} (hq : stateOf s q ≠ .vacant) (hhigh : ∀ x, q < x → stateOf s x = .vacant) :
    highestOccupied s = some q := by
  have hocc : ∀ x, isVacant s x = false ↔ stateOf s x ≠ .vacant := fun x => decide_eq_false_iff_not
  have hin : isVacant s q = false := (hocc q).mpr hq
  have hout : ∀ x, q < x → isVacant s x = true := fun x hx => decide_eq_true (hhigh x hx)
  unfold highestOccupied
  revert q
  simp only [Fin.forall_fin_succ]
  simp +contextual [List.find?]

/-- R175: the walk of a release begins with the RELEASE of the highest position in use. -/
theorem releaseWalk_offers {p q : Pos} (ha : s.consist.release.active = true) (hph : s.consist.release.phase = none)
    (hc : s.consist.release.current = some q) (hl : s.consist.release.lowest = some p) (hpq : p ≤ q)
    (hq : stateOf s q ≠ .vacant) (hw : stateOf s q ≠ .wired) :
    releaseWalk s = makeOffer (releaseOffer q) (modRelease (fun r => { r with phase := some .offered }) s) := by
  unfold releaseWalk
  dsimp only
  rw [ha, hph, hc, hl]
  refine (if_pos rfl).trans ?_
  dsimp only
  rw [if_neg (not_lt.mpr hpq)]
  split
  · rename_i h; exact absurd h hq
  · rename_i h; exact absurd h hw
  · rfl

/-- The release of p begun at q, the highest position in use. -/
def releaseBegun (p q : Pos) (s : State) : State :=
  makeOffer (releaseOffer q) (modRelease (fun r =>
    { r with active := true, lowest := some p, current := some q, phase := some .offered }) s)

/-- R174: a release asked for begins at the highest position in use. -/
theorem releaseRequest_begins {p q : Pos} (hact : s.consist.release.active = false)
    (hident : ∀ x, (streamRec s x).identNext = none) (hpq : p ≤ q) (hq : stateOf s q ≠ .vacant)
    (hhigh : ∀ x, q < x → stateOf s x = .vacant) : releaseRequest p s =
      emitAll [.releaseWalk] (modRelease (fun r =>
        { r with active := true, lowest := some p, current := some q, phase := none }) s) := by
  have hab : abandonRecovery (modRelease (fun r =>
      { r with active := true, lowest := some p, current := highestOccupied s, phase := none }) s) =
      modRelease (fun r => { r with active := true, lowest := some p, current := highestOccupied s, phase := none }) s :=
    abandonRecovery_none hident
  unfold releaseRequest
  rw [hact]
  dsimp only
  rw [if_pos (rangeOccupied_of hpq hq), hab, highestOccupied_of hq hhigh]
  rfl

theorem acts_releaseWalk {p q : Pos} (hn : s.notices = []) (hi : s.IdleLine) (hpq : p ≤ q) (hq : stateOf s q ≠ .vacant)
    (hw : stateOf s q ≠ .wired) : Acts 1 [.releaseWalk] (modRelease (fun r =>
      { r with active := true, lowest := some p, current := some q, phase := none }) s) (releaseBegun p q s) :=
  Acts.offers (x := .releaseWalk) hn (releaseWalk_offers (s := modRelease (fun r =>
    { r with active := true, lowest := some p, current := some q, phase := none }) s) rfl rfl rfl rfl hpq hq hw) hn hi
    (releaseOffer_valid q) rfl

/-- R183: the LOST timer reaches its limit. -/
theorem lostTimeout_begins {p q : Pos} {n : Nat} (hs : s.Quiet) (hact : s.consist.release.active = false)
    (hident : ∀ x, (streamRec s x).identNext = none) (hpq : p ≤ q) (hq : stateOf s q ≠ .vacant) (hw : stateOf s q ≠ .wired)
    (hhigh : ∀ x, q < x → stateOf s x = .vacant) (hl : stateOf s p = .lost) (ht : (posRec s p).lostTimer = some n) :
    exec (.lostTimeout p) s = .next (releaseBegun p q (advance (ms 30000 - n) s)) := by
  have hunder : underRelease s p = false := by unfold underRelease; rw [hact]; rfl
  have hrem : lostRemaining s p = some (ms 30000 - n) := by
    unfold lostRemaining
    rw [if_pos ⟨hl, hunder⟩, ht]
    rfl
  have hstate : ∀ x, stateOf (advance (ms 30000 - n) s) x = stateOf s x := by
    intro x
    show ((s.consist.table.mapIdx (lostAfter s (ms 30000 - n))).get x).state = _
    rw [Tab.get_mapIdx]
    unfold lostAfter
    split <;> rfl
  have hbegin := releaseRequest_begins (s := advance (ms 30000 - n) s) hact hident hpq (by rw [hstate]; exact hq)
    (fun x hx => by rw [hstate]; exact hhigh x hx)
  show Host.Outcome.next (match lostRemaining s p with
    | some d => settle (releaseRequest p (advance d s))
    | none => s) = _
  rw [hrem]
  dsimp only
  rw [hbegin]
  exact congrArg Host.Outcome.next ((acts_releaseWalk (s := advance (ms 30000 - n) s) hs.notices hs.idle hpq
    (by rw [hstate]; exact hq) (by rw [hstate]; exact hw)).settle hs.notices (by decide))

theorem releasePosition_exec {r : Request} {rest : List Request} (hs : s.Serving 23 r rest) (hl : r.args ≠ []) :
    exec .releasePosition s = .next (settle (match argPos r.args 0 with
      | some p => askRelease p s
      | none => answer .badArg [] s)) :=
  congrArg (fun x => Host.Outcome.next (settle x)) (serve_eq hs (List.length_pos_of_ne_nil hl) _)

/-- R178: RELEASE-POSITION of a position in use. -/
theorem releasePosition_begins {r : Request} {rest : List Request} {p q : Pos} (hq : s.Quiet)
    (hact : s.consist.release.active = false) (hident : ∀ x, (streamRec s x).identNext = none) (hpq : p ≤ q)
    (hqv : stateOf s q ≠ .vacant) (hw : stateOf s q ≠ .wired) (hhigh : ∀ x, q < x → stateOf s x = .vacant)
    (hs : s.Serving 23 r rest) (hl : r.args ≠ []) (ha : argByte r.args 0 = p.val + 1) (hp : stateOf s p ≠ .vacant) :
    exec .releasePosition s =
      .next (releaseBegun p q (State.held (modRelease (fun r => { r with replyOwed := true }) s))) := by
  have hvac : isVacant s p = false := decide_eq_false hp
  have hask : askRelease p s = emitAll [.releaseRequest p] (State.held (modRelease (fun r => { r with replyOwed := true }) s)) := by
    unfold askRelease
    rw [hvac]
    rfl
  have hbegin := releaseRequest_begins (s := State.held (modRelease (fun r => { r with replyOwed := true }) s)) hact hident
    hpq hqv hhigh
  have hacts : Acts 2 [.releaseRequest p] (State.held (modRelease (fun r => { r with replyOwed := true }) s))
      (releaseBegun p q (State.held (modRelease (fun r => { r with replyOwed := true }) s))) :=
    Acts.run (x := .releaseRequest p) hq.notices hbegin hq.notices
      (acts_releaseWalk (s := State.held (modRelease (fun r => { r with replyOwed := true }) s)) hq.notices hq.idle hpq hqv hw)
  rw [releasePosition_exec hs hl, argPos_eq ha]
  dsimp only
  rw [hask]
  exact congrArg Host.Outcome.next (hacts.settle hq.notices (by decide))

/-- Settles O33: the walk begins at the highest position in use, where nothing is to be abandoned. -/
theorem releaseBegins : Obligations.ReleaseBegins := by
  unfold Obligations.ReleaseBegins
  intro s p q hs hact hident hpq hqv hw hhigh
  refine ⟨fun n hl ht => lostTimeout_begins hs hact hident hpq hqv hw hhigh hl ht, fun r rest hserve hl => ⟨fun ha hp => ?_,
    fun x hx hv => ?_, fun h => ?_⟩⟩
  · exact releasePosition_begins hs hact hident hpq hqv hw hhigh hserve hl ha hp
  · have hvac : isVacant s x = true := decide_eq_true hv
    have hask : askRelease x s = answer .ok [] s := by
      unfold askRelease
      rw [hvac, hact]
      rfl
    rw [releasePosition_exec hserve hl, argPos_eq hx]
    dsimp only
    rw [hask]
    exact congrArg Host.Outcome.next (settle_answer hs.notices hserve .ok)
  · rw [releasePosition_exec hserve hl, argPos_none h]
    exact congrArg Host.Outcome.next (settle_answer hs.notices hserve .badArg)

end Sys2Proof.Machine
end

section
/-!
The held accesses whose time has come, and a watch that runs out (R98, R111, R151, R156, R157).
-/
namespace Sys2Proof.Machine

variable {s t u : State}

/-! ## What a look at a position depends on -/

/-- What the Delivery Unit cannot offer for the entry `e` it cannot offer for `e'` either. -/
structure EntryRests (e e' : StatusEntry) : Prop where
  delivered : e'.delivered = e.delivered
  override : e'.override = e.override
  latch : e'.refusalLatch = e.refusalLatch
  notFitted : e'.notFitted = e.notFitted
  unavailable : e'.unavailable = e.unavailable
  retryAt : e'.retryAt = e.retryAt
  hold : e.timeoutHold = true → e'.timeoutHold = true
  reads : e'.nextRead = none ∨
    (e'.nextRead = e.nextRead ∧ e'.readLatch = e.readLatch ∧ e'.watchDeadline = e.watchDeadline)

theorem EntryRests.refl (e : StatusEntry) : EntryRests e e := ⟨rfl, rfl, rfl, rfl, rfl, rfl, id, Or.inr ⟨rfl, rfl, rfl⟩⟩

/-- The state with other Position Status entries, another Tractor Port and another Access Policy record. -/
def withEntries (st : Tab (Tab StatusEntry 192) 4) (pt : Port) (fs : List FaultRecord) (s : State) : State :=
  { s with delivery := { s.delivery with status := st }, port := pt, policy := { s.policy with faults := fs } }

theorem offerable_withEntries {st : Tab (Tab StatusEntry 192) 4} {pt : Port} {fs : List FaultRecord} {p : Pos} {f : Code}
    {second : Bool} (he : EntryRests (entryOf s p f) ((st.get p).get f)) (h : offerable s p second f = none) :
    offerable (withEntries st pt fs s) p second f = none := by
  have hent : entryOf (withEntries st pt fs s) p f = (st.get p).get f := rfl
  have htarget : targetOf (withEntries st pt fs s) p f = targetOf s p f := by
    unfold targetOf targetBeneath
    rw [hent, he.override]
    rfl
  have hdue : isDue (withEntries st pt fs s) p f = isDue s p f := by
    unfold isDue
    rw [htarget, hent, he.delivered, he.latch]
    rfl
  have hheld : ∀ v, isHeld s p f v = true → isHeld (withEntries st pt fs s) p f v = true := by
    intro v hv
    unfold isHeld onOverride at hv ⊢
    dsimp only at hv ⊢
    rw [hent, he.notFitted, he.unavailable, he.retryAt, he.override]
    simp only [Bool.or_eq_true, Bool.and_eq_true] at hv ⊢
    rcases hv with ((h | ⟨h, hz⟩) | h)
    · exact Or.inl (Or.inl h)
    · exact Or.inl (Or.inr ⟨he.hold h, hz⟩)
    · exact Or.inr h
  unfold offerable at h ⊢
  rw [htarget, hdue]
  cases hv : targetOf s p f with
  | none => rfl
  | some v =>
    rw [hv] at h
    dsimp only at h ⊢
    refine if_neg fun hc => ?_
    rw [if_pos] at h
    · cases h
    · rw [Bool.and_eq_true, Bool.and_eq_true] at hc ⊢
      refine ⟨⟨hc.1.1, ?_⟩, hc.2⟩
      cases hh : isHeld s p f v with
      | false => rfl
      | true => have := hc.1.2; rw [hheld v hh] at this; cases this

theorem dueRead_withEntries {st : Tab (Tab StatusEntry 192) 4} {pt : Port} {fs : List FaultRecord} {p : Pos} {f : Code}
    (he : EntryRests (entryOf s p f) ((st.get p).get f)) (h : dueRead s p f = none) :
    dueRead (withEntries st pt fs s) p f = none := by
  have hent : entryOf (withEntries st pt fs s) p f = (st.get p).get f := rfl
  unfold dueRead at h ⊢
  dsimp only at h ⊢
  rw [hent, he.notFitted]
  rcases he.reads with hn | ⟨hn, hl, hw⟩
  · rw [hn]
  · rw [hn, hl, hw]
    exact h

/-! ## The reads that are due -/

theorem mem_insertRead {a x : Code × (Bool × Time)} {l : List (Code × (Bool × Time))} :
    x ∈ insertRead a l ↔ x = a ∨ x ∈ l := by
  induction l with
  | nil => simp [insertRead]
  | cons b bs ih =>
    unfold insertRead
    split
    · simp
    · rw [List.mem_cons, ih, List.mem_cons]
      tauto

theorem mem_insertReads (as l : List (Code × (Bool × Time))) (x : Code × (Bool × Time)) :
    x ∈ as.foldl (fun l x => insertRead x l) l ↔ x ∈ as ∨ x ∈ l := by
  induction as generalizing l with
  | nil => simp
  | cons a as ih => rw [List.foldl_cons, ih, mem_insertRead, List.mem_cons]; tauto

/-- R151, R156: the reads that are due at p. -/
theorem mem_dueReads {p : Pos} {x : Code × (Bool × Time)} :
    x ∈ dueReads s p ↔ x.1 ∈ allCodes.drop 64 ∧ dueRead s p x.1 = some x.2 := by
  unfold dueReads
  rw [mem_insertReads, List.mem_filterMap]
  constructor
  · rintro (⟨f, hf, hx⟩ | hx)
    · obtain ⟨y, hy, rfl⟩ := Option.map_eq_some_iff.mp hx
      exact ⟨hf, hy⟩
    · cases hx
  · rintro ⟨hf, hx⟩
    exact Or.inl ⟨x.1, hf, by rw [hx]; rfl⟩

theorem dueReads_nil {p : Pos} : dueReads s p = [] ↔ ∀ f ∈ allCodes.drop 64, dueRead s p f = none := by
  rw [List.eq_nil_iff_forall_not_mem]
  constructor
  · intro h f hf
    by_contra hne
    obtain ⟨y, hy⟩ := Option.ne_none_iff_exists'.mp hne
    exact h (f, y) (mem_dueReads.mpr ⟨hf, hy⟩)
  · intro h x hx
    obtain ⟨hf, hd⟩ := mem_dueReads.mp hx
    rw [h x.1 hf] at hd
    cases hd

/-- A position with nothing to offer has none where its entries let nothing more be offered. -/
theorem State.AtRest.withEntries {st : Tab (Tab StatusEntry 192) 4} {pt : Port} {fs : List FaultRecord} {p : Pos}
    (h : s.AtRest p) (he : ∀ f, EntryRests (entryOf s p f) ((st.get p).get f)) : (Machine.withEntries st pt fs s).AtRest p where
  stops := h.stops
  deliveries second f := offerable_withEntries (he f) (h.deliveries second f)
  management := h.management
  first := h.first
  second := h.second
  reads := dueReads_nil.mpr fun f hf => dueRead_withEntries (he f) (dueReads_nil.mp h.reads f hf)

/-! ## The retry of a delivery and the repeat of a stop -/

theorem State.Bound.advanceTo {p : Pos} {f : Code} {b : BlockNo} {e : DirEntry} {r : FnRecord} (h : s.Bound p f b e r)
    (m : Time) : (Machine.advanceTo m s).Bound p f b e r :=
  ⟨(inService_advanceTo m s p).trans h.service, (dirOf_advanceTo m s p _).trans h.present, h.fetched, h.space, h.block,
    h.loaded, h.member, h.row⟩

/-- R98: UNAVAILABLE_RETRY. -/
theorem unavailableRetry_offers {p : Pos} {f : Code} {m : Time} {b : BlockNo} {e : DirEntry} {r : FnRecord} {fl : Flight}
    {v : Nat} (hn : s.notices = []) (hfl : s.line.flight = some fl) (hb : s.Bound p f b e r) (hpt : r.point ≤ 63)
    (hu : (entryOf s p f).unavailable = true) (hm : (entryOf s p f).retryAt = some m) (hd : (advanceTo m s).OneDue p f v)
    (hnode : r.feed = .node) (hadm : v = 0 ∨ permits s e.policyClass r.fnClass (deliveryKind s p f) = true) :
    exec (.unavailableRetry p f) s = .next (delivering p f v b r (advanceTo m s)) := by
  have hmoment : retryMoment s p f = some m := by
    unfold retryMoment
    rw [hb.service, hu, hm]
    rfl
  have hdue : (advanceTo m s).Deliverable p f v b e r := ⟨⟨fl, hfl⟩, hb.advanceTo m, hnode, hpt, hadm, hd⟩
  have hrescan : rescan p (advanceTo m s) = emitAll (holdNotices p) (advanceTo m s) :=
    if_pos ((inService_advanceTo m s p).trans hb.service)
  show Host.Outcome.next (atMoment (retryMoment s p f) (fun s => settle (rescan p s)) s) = _
  rw [hmoment]
  refine congrArg Host.Outcome.next ((congrArg settle hrescan).trans ?_)
  exact (acts_holdNotices_due (s := advanceTo m s) hn hdue).settle hn (by decide)

theorem modOwed_modOwed (p : Pos) (g h : List OwedStop → List OwedStop) (s : State) :
    modOwed p h (modOwed p g s) = modOwed p (fun os => h (g os)) s :=
  congrArg (fun o => { s with delivery := { s.delivery with owed := o } }) (Tab.upd_upd s.delivery.owed p g h)

theorem modOwed_congr {p : Pos} {g h : List OwedStop → List OwedStop} (he : g (s.delivery.owed.get p) = h (s.delivery.owed.get p)) :
    modOwed p g s = modOwed p h s :=
  congrArg (fun o => { s with delivery := { s.delivery with owed := o } }) (Tab.upd_congr _ _ he)

/-- R111: STOP_REPEAT. -/
theorem stopRepeat_offers {p : Pos} {f : Code} {m : Time} {b : BlockNo} {e : DirEntry} {r : FnRecord} {fl : Flight}
    (hn : s.notices = []) (hfl : s.line.flight = some fl) (hb : s.Bound p f b e r) (hpt : r.point ≤ 63)
    (howed : s.delivery.owed.get p = [{ code := f, notBefore := some m }])
    (hrest : State.AtRest (modOwed p (fun _ => []) (advanceTo m s)) p) (hin : stopInFlight s p f = false) :
    exec (.stopRepeat p f) s = .next (setOffers (fun os => os ++ [stopOffer p f r.point])
      (reference b (modOwed p (fun _ => [{ code := f, notBefore := none }]) (advanceTo m s)))) := by
  let w : State := modOwed p (fun _ => []) (advanceTo m s)
  have hmoment : stopHeldTo s p f = some m := by
    unfold stopHeldTo findOwed
    rw [howed]
    simp
  have howing : stopOwing p f w = modOwed p (fun _ => [{ code := f, notBefore := none }]) (advanceTo m s) :=
    modOwed_modOwed p _ _ _
  have hunhold : unholdStop p f (advanceTo m s) = stopOwing p f w := by
    rw [howing]
    refine modOwed_congr ?_
    show (s.delivery.owed.get p).map _ = _
    rw [howed]
    simp
  have hbw := hb.advanceTo m
  have hd : w.Stoppable p f b e r := ⟨⟨fl, hfl⟩,
    ⟨hbw.service, hbw.present, hbw.fetched, hbw.space, hbw.block, hbw.loaded, hbw.member, hbw.row⟩, hpt,
    Tab.get_upd_same _ _ _, hin, hrest⟩
  have hrescan : rescan p (stopOwing p f w) = emitAll (holdNotices p) (stopOwing p f w) := if_pos hd.bound.service
  show Host.Outcome.next (atMoment (stopHeldTo s p f) (fun s => settle (rescan p (unholdStop p f s))) s) = _
  rw [hmoment]
  refine congrArg Host.Outcome.next ?_
  show settle (rescan p (unholdStop p f (advanceTo m s))) = _
  rw [hunhold, hrescan, ← howing]
  exact (acts_holdNotices_stop (s := w) hn hd).settle hn (by decide)

/-! ## The scheduled reads -/

theorem scheduledOffer_valid {r : FnRecord} (h : r.point ≤ 63) (p : Pos) (f : Code) (watch : Bool) :
    offerValid (scheduledOffer p f watch r) = true := by
  have hp : decide (linePos p ≠ 0) = true := by revert p; decide
  exact congrArg₂ (fun x y => x && true && y) hp (decide_eq_true h)

/-- R151, R156: the read that is the first due of its position is offered. -/
theorem classSix_offers {p : Pos} {f : Code} {watch : Bool} {m : Time} {b : BlockNo} {e : DirEntry} {r : FnRecord}
    {rest : List (Code × Bool × Time)} (hb : s.Bound p f b e r) (hadm : permits s e.policyClass r.fnClass .rdp = true)
    (hstand : standing s .deliveryUnit 5 (linePos p) = none) (hin : readInFlight s p = false)
    (hd : dueReads s p = (f, watch, m) :: rest) :
    classSix p s = makeOffer (scheduledOffer p f watch r) (reference b s) := by
  have hdue : dueRead s p f = some (watch, m) := (mem_dueReads.mp (by rw [hd]; exact List.mem_cons_self ..)).2
  unfold classSix
  rw [if_neg (by rw [hb.service]; decide), hstand, hin, if_neg (by decide), hd]
  unfold tryReads
  rw [hdue, if_neg (by simp), translate_hit hb .rdp false _ (Or.inr hadm)]

theorem scheduledRead_offers {c : Instr} {p : Pos} {f : Code} {watch : Bool} {m : Time} {b : BlockNo} {e : DirEntry}
    {r : FnRecord} {rest : List (Code × Bool × Time)} (hq : s.Quiet) (hb : s.Bound p f b e r) (hpt : r.point ≤ 63)
    (hadm : permits s e.policyClass r.fnClass .rdp = true) (hstand : standing s .deliveryUnit 5 (linePos p) = none)
    (hin : readInFlight s p = false) (hd : dueReads (advanceTo m s) p = (f, watch, m) :: rest)
    (hc : exec c s = .next (settle (classSix p (advanceTo m s)))) :
    exec c s = .next (makeOffer (scheduledOffer p f watch r) (reference b (advanceTo m s))) := by
  rw [hc, classSix_offers (s := advanceTo m s) (hb.advanceTo m) hadm hstand hin hd]
  refine congrArg Host.Outcome.next ?_
  have hg : grantNotices (scheduledOffer p f watch r) = [] := by cases watch <;> rfl
  exact settle_makeOffer (s := reference b (advanceTo m s)) (scheduledOffer_valid hpt p f watch) hg hq.idle hq.notices

/-- Settles O41: each timer has the Delivery Unit look again at its position, which finds the one access due. -/
theorem heldAccessesAreOffered : Obligations.HeldAccessesAreOffered := by
  unfold Obligations.HeldAccessesAreOffered
  refine ⟨fun s p f m b e r fl hn hfl hb hpt => ⟨fun v hu hm hd hnode hadm => ?_, fun howed hrest hin => ?_⟩,
    fun s p f m b e r rest hq hb hpt hadm hstand hin => ⟨fun hm hd => ?_, fun hm hd => ?_⟩⟩
  · exact unavailableRetry_offers hn hfl hb hpt hu hm hd hnode hadm
  · exact stopRepeat_offers hn hfl hb hpt howed hrest hin
  · refine scheduledRead_offers hq hb hpt hadm hstand hin hd ?_
    show Host.Outcome.next (atMoment (periodicMoment s p f) (fun s => settle (classSix p s)) s) = _
    rw [hm]
    rfl
  · refine scheduledRead_offers hq hb hpt hadm hstand hin hd ?_
    show Host.Outcome.next (atMoment (watchMoment s p f) (fun s => settle (classSix p s)) s) = _
    rw [hm]
    rfl

/-! ## The watch that runs out -/

theorem modEntry_modEntry (p : Pos) (f : Code) (g h : StatusEntry → StatusEntry) (s : State) :
    modEntry p f h (modEntry p f g s) = modEntry p f (fun e => h (g e)) s := by
  refine congrArg (fun st => { s with delivery := { s.delivery with status := st } }) ?_
  exact (Tab.upd_upd s.delivery.status p (fun t => t.upd f g) (fun t => t.upd f h)).trans
    (Tab.upd_congr _ _ (Tab.upd_upd (s.delivery.status.get p) f g h))

theorem entryOf_modEntry (p : Pos) (f : Code) (g : StatusEntry → StatusEntry) (s : State) (q : Pos) (c : Code) :
    entryOf (modEntry p f g s) q c = if q = p ∧ c = f then g (entryOf s p f) else entryOf s q c := by
  show ((s.delivery.status.upd p _).get q).get c = _
  by_cases hq : q = p
  · subst hq
    rw [Tab.get_upd_same]
    by_cases hc : c = f
    · subst hc; rw [Tab.get_upd_same, if_pos ⟨rfl, rfl⟩]; rfl
    · rw [Tab.get_upd_ne _ _ hc, if_neg fun h => hc h.2]; rfl
  · rw [Tab.get_upd_ne _ _ hq, if_neg fun h => hq h.1]; rfl

theorem withdrawWhere_none {g : Offer → Bool} (h : ∀ o ∈ s.line.offers, g o = false) : withdrawWhere g s = s := by
  refine congrArg (fun os => { s with line := { s.line with offers := os } }) (List.filter_eq_self.mpr fun o ho => ?_)
  rw [h o ho]
  rfl

/-- R157: the entry of a watch that has run out. -/
def timedOut (e : StatusEntry) : StatusEntry := { e with watchDeadline := none, nextRead := none, result := .actTimeout }

theorem resulting_timedOut {p : Pos} {f : Code} (h : (entryOf s p f).result ≠ .actTimeout) :
    State.resulting p f .actTimeout (modEntry p f (fun e => { e with watchDeadline := none, nextRead := none }) s) =
      placeResultFrame p (groupOf f) (halfOf f) (modEntry p f timedOut s) := by
  have hr : (entryOf (modEntry p f (fun e => { e with watchDeadline := none, nextRead := none }) s) p f).result ≠ .actTimeout := by
    rw [entryOf_modEntry, if_pos ⟨rfl, rfl⟩]
    exact h
  unfold State.resulting
  rw [if_neg hr, modEntry_modEntry]
  rfl

/-- R157: ACTUATOR_WATCH_TIMEOUT. -/
theorem watchTimeout_acts {p : Pos} {f : Code} {b : BlockNo} {e : DirEntry} {r : FnRecord} {fl : Flight} (hn : s.notices = [])
    (hfl : s.line.flight = some fl) (hrun : stateOf s p = .running) (hw : (entryOf s p f).watchDeadline.isSome = true)
    (hres : (entryOf s p f).result ≠ .actTimeout) (hb : s.Bound p f b e r) (hpt : r.point ≤ 63)
    (hin : stopInFlight s p f = false) (hoff : ∀ o ∈ s.line.offers, o.why ≠ .watchRead p f)
    (howed : s.delivery.owed.get p = []) (hrest : s.AtRest p) (po : Policy)
    (hpo : po = { s.policy with
      faults := addFault (faultOf .actTimeout (some p) (some f) none (entryOf s p f).watchUnits) s.policy.faults })
    (w : State) (hwd : w = placeResultFrame p (groupOf f) (halfOf f) (modEntry p f timedOut s)) :
    settle (watchTimesOut p f s) =
      stopping p f b r.point (modEntry p f (fun x => { x with timeoutHold := true }) { w with policy := po }) := by
  subst hwd
  have hend : endWatch p f s = modEntry p f (fun e => { e with watchDeadline := none, nextRead := none }) s := by
    unfold endWatch
    rw [if_pos hw]
    exact withdrawWhere_none (s := modEntry p f (fun e => { e with watchDeadline := none, nextRead := none }) s)
      fun o ho => decide_eq_false (hoff o ho)
  let s1 : State := modEntry p f (fun e => { e with watchDeadline := none, nextRead := none }) s
  let s2 : State := placeResultFrame p (groupOf f) (halfOf f) (modEntry p f timedOut s)
  obtain ⟨pt, hpt2⟩ := placeResultFrame_port p (groupOf f) (halfOf f) (modEntry p f timedOut s)
  have hs2 : s2 = { modEntry p f timedOut s with port := pt } := hpt2
  let s3 : State := { s2 with policy := po }
  let s4 : State := modEntry p f (fun x => { x with timeoutHold := true }) s3
  have hresult : Acts 3 [.writeResult p f .actTimeout] s1 s2 := by
    have := acts_writeResult (s := s1) f .actTimeout hn (show stateOf s1 p ≠ .vacant by
      rw [show stateOf s1 p = _ from hrun]; decide) (show stateOf s1 p ≠ .exercising by
      rw [show stateOf s1 p = _ from hrun]; decide)
    rwa [resulting_timedOut hres] at this
  have hn2 : s2.notices = [] := by rw [hs2]; exact hn
  have hfault : Acts 1 [.faultRequest (faultOf .actTimeout (some p) (some f) none (entryOf s p f).watchUnits)] s2 s3 := by
    have := acts_fault (s := s2) (faultOf .actTimeout (some p) (some f) none (entryOf s p f).watchUnits) hn2
    rwa [takeFault_of_policy (s := s2) (po := s.policy) _ (by rw [hs2]; rfl), ← hpo] at this
  have hs4 : s4 = withEntries (s.delivery.status.upd p fun t => t.upd f fun e => { timedOut e with timeoutHold := true }) pt
      po.faults s := by
    have hst : ((s.delivery.status.upd p fun t => t.upd f timedOut).upd p fun t => t.upd f fun e => { e with timeoutHold := true })
        = s.delivery.status.upd p fun t => t.upd f fun e => { timedOut e with timeoutHold := true } :=
      (Tab.upd_upd s.delivery.status p _ _).trans (Tab.upd_congr _ _ (Tab.upd_upd (s.delivery.status.get p) f _ _))
    show modEntry p f (fun e => { e with timeoutHold := true }) { s2 with policy := po } = _
    rw [hs2, hpo]
    exact congrArg (fun st => withEntries st pt _ s) hst
  have hbound : s4.Bound p f b e r := by
    rw [hs4]
    exact ⟨hb.service, hb.present, hb.fetched, hb.space, hb.block, hb.loaded, hb.member, hb.row⟩
  have hrest4 : s4.AtRest p := by
    rw [hs4]
    refine hrest.withEntries fun c => ?_
    rw [Tab.get_upd_same]
    by_cases hc : c = f
    · subst hc
      rw [Tab.get_upd_same]
      exact ⟨rfl, rfl, rfl, rfl, rfl, rfl, fun _ => rfl, Or.inl rfl⟩
    · rw [Tab.get_upd_ne _ _ hc]
      exact EntryRests.refl _
  have hd : s4.Stoppable p f b e r := by
    refine ⟨⟨fl, ?_⟩, hbound, hpt, ?_, ?_, hrest4⟩
    · rw [hs4]; exact hfl
    · rw [hs4]; exact howed
    · rw [hs4]; exact hin
  have howed3 : s3.delivery.owed.get p = [] := by
    show s2.delivery.owed.get p = []
    rw [hs2]; exact howed
  have hstop : timeoutStop p f s3 = emitAll (holdNotices p) (stopOwing p f s4) := by
    unfold timeoutStop
    rw [addOwed_none howed3]
    rfl
  have hn4 : s4.notices = [] := hn2
  have hlast : Acts 4 [.timeoutStop p f] s3 (stopping p f b r.point s4) :=
    Acts.run (x := .timeoutStop p f) hn2 hstop hn4 (acts_holdNotices_stop hn4 hd)
  unfold watchTimesOut
  rw [hend]
  exact (hresult.cons (hfault.cons hlast)).settle (s := s1) hn (by decide)

/-- Settles O42: the watch's end, the result, the fault and the stop, each by its notice. -/
theorem watchTimesOut_offers : Obligations.WatchTimesOut := by
  unfold Obligations.WatchTimesOut
  intro s p f m b e r fl hn hfl hrun hw hres hb hpt hin hoff howed s1 hrest s2 fault s3
  have hserv : inService s p = true := hb.service
  have hacts := watchTimeout_acts (s := s1) hn hfl ((stateOf_advanceTo m s p).trans hrun)
    (show (entryOf s p f).watchDeadline.isSome = true by rw [hw]; rfl) hres (hb.advanceTo m) hpt hin hoff howed hrest _ rfl _ rfl
  show Host.Outcome.next (atMoment (watchLimit s p f) (fun s => settle (watchTimesOut p f s)) s) = _
  have hmoment : watchLimit s p f = some m := by
    unfold watchLimit
    rw [hserv, hw]
    rfl
  rw [hmoment]
  exact congrArg Host.Outcome.next hacts

end Sys2Proof.Machine
end

section
/-!
EXERCISE_DEADLINE (R77) withdraws every offer of a first read of its position, whichever unit it stands for, where the
statement has those of the Consist Controller alone withdrawn.
-/
namespace Sys2Proof.Machine

/-- An offer of a first read of position 2 that stands for the Sequence Unit. -/
def strayRead : Offer :=
  { requester := .sequenceUnit, cls := 6, pos := linePos 1, op := .get, addr := some 12, data := none, why := .firstRead 1 64 }

/-- Position 2 alone in use and EXERCISING, warm, with a deadline and no group, and the stray offer behind the transaction in
flight. -/
def strayState : State := { State.reset with
  line := { State.reset.line with offers := [strayRead] }
  consist :=
    { table := (Tab.fill {}).put 1
        { state := .exercising, warm := true, deadline := some 100, directory := Tab.fill none } } }

/-- The stray offer stands in the state an answer gives. -/
def strayStands (x : Host.Outcome State Fault Refusal) : Bool :=
  match x with
  | .next t => t.line.offers.contains strayRead
  | _ => true

theorem strayStands_exec : strayStands (exec (.exerciseDeadline 1) strayState) = false := by decide

theorem strayState_nextRead (f : Code) : (entryOf strayState 1 f).nextRead = none := by
  rw [show entryOf strayState 1 f = entryOf State.reset 1 f from rfl, entryOf_reset]

/-- Refutes O40: the deadline withdraws the stray offer, which the statement keeps. -/
theorem not_firstReadTimersRunOut : ¬ Obligations.FirstReadTimersRunOut := by
  intro h
  have hdeadline := (h strayState 1 100 ⟨rfl, nofun⟩ (by decide) (by decide)).2 (by decide) (by decide) (by decide)
    strayState_nextRead (by decide) (by decide) (by decide)
  have hkept := congrArg strayStands hdeadline
  rw [strayStands_exec] at hkept
  exact absurd hkept (by decide)

end Sys2Proof.Machine
end

section
/-!
How a transaction on the trailer line ends (R23, R24, R29, R31, R32, R34, R35, R36): what its end hands on, and the line freed
or given to the one offer that stands.
-/
namespace Sys2Proof.Machine

variable {s t u : State}

/-! ## The line freed -/

/-- R33: the one offer made while a transaction is in flight. -/
theorem makeOffer_only {o : Offer} {fl : Flight} (hv : offerValid o = true) (hf : s.line.flight = some fl)
    (ho : s.line.offers = []) : makeOffer o s = setOffers (fun _ => [o]) s := by
  rw [makeOffer_busy hv hf]
  refine congrArg (fun os => { s with line := { s.line with offers := os } }) ?_
  rw [ho]
  rfl

theorem freeLine_none (ho : s.line.offers = []) : freeLine s = s.free := by
  have hc : chooseOffer s.free.line = none := by
    cases hc : chooseOffer s.free.line with
    | none => rfl
    | some o => have := (chooseOffer_spec hc).1; rw [show s.free.line.offers = [] from ho] at this; cases this
  show grantLine s.free = s.free
  unfold grantLine
  rw [hc]
  rfl

/-- R34, R35: the line freed goes to the one offer that stands. -/
theorem freeLine_one (o : Offer) (ho : s.line.offers = []) :
    freeLine (setOffers (fun _ => [o]) s) = emitAll (grantNotices o) (notePhase o (s.granted o)) := by
  have hc : chooseOffer (setOffers (fun _ => [o]) s).free.line = some o := chooseOffer_single _ o rfl
  have hfilter : ([o].filter fun x =>
      !(decide (x.requester = o.requester) && decide (x.cls = o.cls) && decide (x.pos = o.pos))) = s.line.offers := by
    rw [ho]; simp
  show grantLine (setOffers (fun _ => [o]) s).free = _
  unfold grantLine
  rw [hc]
  show grant o (setOffers (fun _ => [o]) s).free = _
  unfold grant
  rw [show (setOffers (fun _ => [o]) s).free.line.offers = [o] from rfl, hfilter]
  rfl

theorem acts_lineFree (hn : s.notices = []) (ho : s.line.offers = []) : Acts 1 [.lineFree] s s.free :=
  Acts.silent (x := .lineFree) hn (freeLine_none ho) hn

theorem notePhase_quiet {o : Offer} (h : ∀ n, o.why ≠ .enumAssign n) (h' : ∀ p, o.why ≠ .positionRelease p)
    (h'' : ∀ p f, o.why ≠ .firstRead p f) (s : State) : notePhase o s = s := by
  unfold notePhase
  split
  · rename_i n hw; exact absurd hw (h n)
  · rename_i p hw; exact absurd hw (h' p)
  · rename_i p f hw; exact absurd hw (h'' p f)
  · rfl

/-- R34: an offer whose grant tells nobody anything. -/
theorem acts_lineGrant {o : Offer} (hn : s.notices = []) (ho : s.line.offers = []) (hg : grantNotices o = [])
    (hp : notePhase o (s.granted o) = s.granted o) : Acts 1 [.lineFree] (setOffers (fun _ => [o]) s) (s.granted o) := by
  refine Acts.silent (x := .lineFree) hn ((freeLine_one o ho).trans ?_) hn
  rw [hg, hp, emitAll_nil]

/-! ## The end of a transaction -/

/-- R35: what the end of the transaction in flight hands on, in its order. -/
def endNotices (o : Offer) (out : LineOutcome) (data : Option Word) (service : Bool) (s : State) : List Notice :=
  [.lineEnd o out data]
    ++ (if service then ((servicePos o).map fun p => Notice.serviceNotice p).toList else [])
    ++ ((raisesSilence o out s).map fun p => Notice.silenceNotice p).toList
    ++ [.lineFree]

theorem endTransaction_eq {fl : Flight} {out : LineOutcome} {data : Option Word} {service : Bool}
    (hf : s.line.flight = some fl) (he : fl.ended = false) (hd : fl.discard = false) :
    endTransaction out data service s =
      emitAll (endNotices fl.offer out data service s) (countEnd fl.offer out s.over) := by
  have ho : openFlight s = some fl := by unfold openFlight; rw [hf]; dsimp only; rw [he]; rfl
  have hover : s.over = { s with line := { s.line with flight := some { fl with ended := true } } } := by
    unfold State.over; rw [hf]; rfl
  unfold endTransaction
  rw [ho, hover]
  exact if_neg (by rw [hd]; decide)

theorem endTransaction_discard {fl : Flight} {out : LineOutcome} {data : Option Word} {service : Bool}
    (hf : s.line.flight = some fl) (he : fl.ended = false) (hd : fl.discard = true) :
    endTransaction out data service s = emitAll [.lineFree] s.over := by
  have ho : openFlight s = some fl := by unfold openFlight; rw [hf]; dsimp only; rw [he]; rfl
  have hover : s.over = { s with line := { s.line with flight := some { fl with ended := true } } } := by
    unfold State.over; rw [hf]; rfl
  unfold endTransaction
  rw [ho, hover]
  exact if_pos hd

theorem namedFlight_eq {fl : Flight} (hf : s.line.flight = some fl) (he : fl.ended = false) (hop : fl.offer.op ≠ .poll) :
    namedFlight s = some fl := by
  unfold namedFlight openFlight
  rw [hf]
  dsimp only
  rw [he]
  exact Option.filter_some_pos (decide_eq_true hop)

theorem pollFlight_eq {fl : Flight} (hf : s.line.flight = some fl) (he : fl.ended = false) (hop : fl.offer.op = .poll) :
    pollFlight s = some fl := by
  unfold pollFlight openFlight
  rw [hf]
  dsimp only
  rw [he]
  exact Option.filter_some_pos (decide_eq_true hop)

/-- R23, R24: TRANSACTION_END in time takes the reply. -/
theorem transactionEnd_takes {fl : Flight} {r : Reply} (hf : s.line.flight = some fl) (he : fl.ended = false)
    (hop : fl.offer.op ≠ .poll) (hd : s.now < fl.deadline) : exec (.transactionEnd r) s = .next (takeReply fl r s) := by
  show Host.Outcome.next (match namedFlight s with
    | some fl => if s.now < fl.deadline then takeReply fl r s else s
    | none => s) = _
  rw [namedFlight_eq hf he hop]
  exact congrArg Host.Outcome.next (if_pos hd)

/-- R24: REPLY_DEADLINE. -/
theorem replyDeadline_ends {fl : Flight} (hf : s.line.flight = some fl) (he : fl.ended = false) (hop : fl.offer.op ≠ .poll) :
    exec .replyDeadline s = .next (settle (endTransaction .unheard none false (advanceTo fl.deadline s))) := by
  show Host.Outcome.next (atMoment ((namedFlight s).map fun fl => fl.deadline)
    (fun s => settle (endTransaction .unheard none false s)) s) = _
  rw [namedFlight_eq hf he hop]
  rfl

/-- R23: what a reply is taken as. -/
theorem takeReply_eq {fl : Flight} {r : Reply} {out : LineOutcome} {data : Option Word} (hc : classify r = (out, data))
    (hm : dataMissing fl.offer.op out data = false) : takeReply fl r s = settle (endTransaction out data r.service s) := by
  unfold takeReply
  rw [hc]
  dsimp only
  unfold replyData
  rw [hm]
  rfl

theorem over_free (s : State) : s.over.free = s.free := rfl

theorem settle_discard (hn : s.notices = []) (ho : s.line.offers = []) : settle (emitAll [.lineFree] s.over) = s.free :=
  (acts_lineFree (s := s.over) hn ho).settle hn (by decide)

/-! ## The unheard counters -/

theorem classify_eq (r : Reply) : classify r =
    if r.heard then if r.ready then (.ready, r.data) else (.notReady, none) else (.notHeard, none) := rfl

theorem trailerPos_linePos {o : LinePos} {q : Pos} : trailerPos o = some q ↔ o = linePos q := by
  unfold trailerPos linePos
  constructor
  · intro h
    split at h
    · cases h
    · cases h
      apply Fin.ext
      simp only [Fin.val_succ]
      omega
  · rintro rfl
    exact dif_neg (by simp)

theorem unheardOf_setUnheard (p : Pos) (n : Nat) (s : State) (q : Pos) :
    unheardOf (setUnheard p n s) q = if q = p then n else unheardOf s q := Tab.get_put _ _ _ _

theorem countsSilence_eq (s : State) (p : Pos) :
    countsSilence s p = true ↔ ¬ (stateOf s p = .vacant ∨ stateOf s p = .wired) := by
  unfold countsSilence
  cases stateOf s p <;> simp

/-- R32: what an end makes of the unheard counters. -/
theorem unheardOf_countEnd {o : Offer} {out : LineOutcome} {q : Pos} :
    unheardOf (countEnd o out s) q =
      if o.op = .assign then if out = .ready ∧ assignPos o.data = some q then 0 else unheardOf s q
      else if o.pos ≠ linePos q then unheardOf s q
      else if out ≠ .unheard then 0
      else if stateOf s q = .vacant ∨ stateOf s q = .wired then unheardOf s q
      else min 3 (unheardOf s q + 1) := by
  unfold countEnd
  by_cases ha : o.op = .assign
  · rw [if_pos ha, if_pos ha]
    split
    · rename_i out p hp
      rw [unheardOf_setUnheard, hp]
      by_cases hq : q = p
      · rw [if_pos hq, if_pos ⟨rfl, by rw [hq]⟩]
      · rw [if_neg hq, if_neg fun h => hq (Option.some.inj h.2).symm]
    · rename_i hno
      rw [if_neg]
      rintro ⟨rfl, hp⟩
      exact hno q rfl hp
  · rw [if_neg ha, if_neg ha]
    cases hp : trailerPos o.pos with
    | none =>
      have hne : o.pos ≠ linePos q := fun h => by rw [trailerPos_linePos.mpr h] at hp; cases hp
      exact (if_pos hne).symm
    | some p =>
      have hop : o.pos = linePos p := trailerPos_linePos.mp hp
      by_cases hq : q = p
      · subst hq
        rw [if_neg (not_not_intro hop)]
        dsimp only
        by_cases hu : out = .unheard
        · rw [if_pos hu, if_neg (not_not_intro hu)]
          by_cases hc : stateOf s q = .vacant ∨ stateOf s q = .wired
          · rw [if_pos hc, if_neg fun h => (countsSilence_eq s q).mp h hc]
          · rw [if_neg hc, if_pos ((countsSilence_eq s q).mpr hc), unheardOf_setUnheard, if_pos rfl]
            rfl
        · rw [if_neg hu, if_pos hu, unheardOf_setUnheard, if_pos rfl]
      · have hne : o.pos ≠ linePos q := fun h => hq (linePos_injective (h.symm.trans hop))
        rw [if_pos hne]
        dsimp only
        split
        · split
          · rw [unheardOf_setUnheard, if_neg hq]
          · rfl
        · rw [unheardOf_setUnheard, if_neg hq]

end Sys2Proof.Machine
end

section
/-!
TRANSACTION_END, REPLY_DEADLINE and POLL_WINDOW_END, as far as they do the same for every operation.
-/
namespace Sys2Proof.Machine

variable {s t u : State}

/-! ## TRANSACTION_END and REPLY_DEADLINE -/

/-- R23: a Heard and Ready reply without the data its operation reads. -/
def Missing (fl : Flight) (r : Reply) : Prop :=
  (fl.offer.op = .get ∨ fl.offer.op = .readWord) ∧ r.heard = true ∧ r.ready = true ∧ r.data = none

theorem missing_iff {fl : Flight} {r : Reply} :
    Missing fl r ↔ dataMissing fl.offer.op (classify r).1 (classify r).2 = true := by
  unfold Missing dataMissing
  rw [classify_eq]
  cases r.heard <;> cases r.ready <;> cases r.data <;> simp

theorem takeReply_missing {fl : Flight} {r : Reply} (h : Missing fl r) :
    takeReply fl r s = settle (endTransaction .ready (some (Config.freeWord s.freeCount)) r.service
      { s with freeCount := s.freeCount + 1 }) := by
  obtain ⟨hop, hh, hr, hd⟩ := h
  have hc : classify r = (.ready, none) := by rw [classify_eq, hh, hr, hd]; rfl
  have hm : dataMissing fl.offer.op .ready none = true := by
    rcases hop with hop | hop <;> rw [hop] <;> rfl
  unfold takeReply
  rw [hc]
  dsimp only
  unfold replyData
  rw [if_pos hm]

theorem takeReply_given {fl : Flight} {r : Reply} (h : ¬ Missing fl r) :
    takeReply fl r s = settle (endTransaction (classify r).1 (classify r).2 r.service s) :=
  takeReply_eq rfl (Bool.eq_false_iff.mpr fun hm => h (missing_iff.mpr hm))

theorem transactionEnd_none {r : Reply} (h : s.line.flight = none) : exec (.transactionEnd r) s = .next s := by
  show Host.Outcome.next (match namedFlight s with
    | some fl => if s.now < fl.deadline then takeReply fl r s else s
    | none => s) = _
  have : namedFlight s = none := by unfold namedFlight openFlight; rw [h]; rfl
  rw [this]

/-- R24: a reply at or after the deadline is not taken. -/
theorem transactionEnd_late {fl : Flight} {r : Reply} (hf : s.line.flight = some fl) (he : fl.ended = false)
    (hd : fl.deadline ≤ s.now) : exec (.transactionEnd r) s = .next s := by
  show Host.Outcome.next (match namedFlight s with
    | some fl => if s.now < fl.deadline then takeReply fl r s else s
    | none => s) = _
  by_cases hop : fl.offer.op = .poll
  · have : namedFlight s = none := by
      unfold namedFlight openFlight
      rw [hf]
      dsimp only
      rw [he]
      exact Option.filter_some_neg (by rw [hop]; decide)
    rw [this]
  · rw [namedFlight_eq hf he hop]
    exact congrArg Host.Outcome.next (if_neg (not_lt.mpr hd))

/-- R23: a reading reply without data is taken with a free value as its data. -/
theorem transactionEnd_missing {fl : Flight} {r : Reply} (hf : s.line.flight = some fl) (he : fl.ended = false)
    (h : Missing fl r) (hd : s.now < fl.deadline) : exec (.transactionEnd r) s =
      exec (.transactionEnd { r with data := some (Config.freeWord s.freeCount) }) { s with freeCount := s.freeCount + 1 } := by
  have hop : fl.offer.op ≠ .poll := by
    intro hp
    rcases h.1 with hg | hg <;> rw [hp] at hg <;> cases hg
  have hgiven : ¬ Missing fl { r with data := some (Config.freeWord s.freeCount) } := fun hm => by cases hm.2.2.2
  rw [transactionEnd_takes hf he hop hd, takeReply_missing h,
    transactionEnd_takes (s := { s with freeCount := s.freeCount + 1 }) hf he hop hd, takeReply_given hgiven, classify_eq,
    h.2.1, h.2.2.1]
  rfl

/-- R36: the end of a transaction that carries the discard mark frees the line and does nothing else. -/
theorem transactionEnd_discard {fl : Flight} {r : Reply} (hn : s.notices = []) (ho : s.line.offers = [])
    (hf : s.line.flight = some fl) (he : fl.ended = false) (hdis : fl.discard = true) :
    (fl.offer.op ≠ .poll → s.now < fl.deadline →
        (Missing fl r → exec (.transactionEnd r) s = .next { s with freeCount := s.freeCount + 1 }.free)
          ∧ (¬ Missing fl r → exec (.transactionEnd r) s = .next s.free))
      ∧ (fl.offer.op ≠ .poll → exec .replyDeadline s = .next (advanceTo fl.deadline s).free)
      ∧ (∀ slots, fl.offer.op = .poll → exec (.pollWindowEnd slots) s = .next (advanceTo fl.deadline s).free) := by
  refine ⟨fun hop hd => ⟨fun hm => ?_, fun hm => ?_⟩, fun hop => ?_, fun slots hop => ?_⟩
  · rw [transactionEnd_takes hf he hop hd, takeReply_missing hm,
      endTransaction_discard (s := { s with freeCount := s.freeCount + 1 }) hf he hdis]
    exact congrArg Host.Outcome.next (settle_discard (s := { s with freeCount := s.freeCount + 1 }) hn ho)
  · rw [transactionEnd_takes hf he hop hd, takeReply_given hm, endTransaction_discard hf he hdis]
    exact congrArg Host.Outcome.next (settle_discard hn ho)
  · rw [replyDeadline_ends hf he hop, endTransaction_discard (s := advanceTo fl.deadline s) hf he hdis]
    exact congrArg Host.Outcome.next (settle_discard (s := advanceTo fl.deadline s) hn ho)
  · have hpoll : pollFlight s = some fl := pollFlight_eq hf he hop
    have hpoll' : pollFlight (advanceTo fl.deadline s) = some fl := pollFlight_eq (s := advanceTo fl.deadline s) hf he hop
    have hover : (advanceTo fl.deadline s).over =
        { advanceTo fl.deadline s with line := { s.line with flight := some { fl with ended := true } } } := by
      unfold State.over
      rw [show (advanceTo fl.deadline s).line.flight = some fl from hf]
      rfl
    have hend : endPoll slots (advanceTo fl.deadline s) = emitAll [.lineFree] (advanceTo fl.deadline s).over := by
      unfold endPoll
      rw [hpoll', hover]
      dsimp only
      rw [hdis]
      rfl
    show Host.Outcome.next (atMoment ((pollFlight s).map fun fl => fl.deadline) (fun s => settle (endPoll slots s)) s) = _
    rw [hpoll]
    exact congrArg Host.Outcome.next ((congrArg settle hend).trans (settle_discard (s := advanceTo fl.deadline s) hn ho))

/-! ## An item of a sequence that is over -/

/-- R23, R35: a Heard and Ready reply to the transaction in flight, by what its end hands on. -/
theorem ready_exec {o : Offer} {d : Time} {w : Option Word} {service : Bool} (h : s.InFlight o d) (hop : o.op ≠ .poll)
    (hw : w = none → o.op ≠ .get ∧ o.op ≠ .readWord) :
    exec (.transactionEnd { heard := true, ready := true, service := service, data := w }) s =
      .next (settle (emitAll (endNotices o .ready w service s) (countEnd o .ready s.over))) := by
  have hgiven : ¬ Missing { offer := o, deadline := d } { heard := true, ready := true, service := service, data := w } := by
    rintro ⟨hop, -, -, hd⟩
    exact hop.elim (hw hd).1 (hw hd).2
  rw [transactionEnd_takes h.flight rfl hop h.early, takeReply_given hgiven, endTransaction_eq h.flight rfl rfl]
  rfl

theorem countEnd_heard {o : Offer} {out : LineOutcome} {p : Pos} (hop : o.op ≠ .assign) (hp : o.pos = linePos p)
    (hout : out ≠ .unheard) : countEnd o out s = setUnheard p 0 s := by
  unfold countEnd
  rw [if_neg hop, trailerPos_linePos.mpr hp]
  exact if_neg hout

theorem raisesSilence_heard {o : Offer} {out : LineOutcome} (hout : out ≠ .unheard) : raisesSilence o out s = none := by
  unfold raisesSilence
  split
  · rfl
  · split
    · exact if_neg fun h => hout h.1
    · rfl

theorem sequenceEnd_over {run : Nat} {out : LineOutcome} {data : Option Word} (h : s.sequence.state ≠ .running) :
    sequenceEnd run out data s = s := by
  have hrun : seqRunning s = false := decide_eq_false h
  unfold sequenceEnd
  rw [hrun]
  rfl

theorem anyInService_of {p : Pos} (h : inService s p = true) : anyInService s = true :=
  List.any_eq_true.mpr ⟨p, mem_allPos p, h⟩

/-- R164: a POLL asked for with nothing on offer and a transaction not yet over. -/
theorem askPoll_only {p : Pos} {fl : Flight} (ho : s.line.offers = []) (hf : s.line.flight = some fl)
    (hs : inService s p = true) : askPoll s = setOffers (fun _ => [pollOffer]) s := by
  have hstands : pollStands s = false := by unfold pollStands standing; rw [ho]; rfl
  unfold askPoll
  rw [hstands, anyInService_of hs]
  exact makeOffer_only (o := pollOffer) (by decide) hf ho

/-- R172, R31: the end of an item of a sequence that is over. -/
theorem strayItem_ends {o : Offer} {p : Pos} {a run : Nat} {d : Time} {w : Word} (h : s.InFlight o d)
    (hop : o.op = .readWord) (hpos : o.pos = linePos p) (hwhy : o.why = .sequenceItem p a run)
    (hseq : s.sequence.state ≠ .running) (hs : inService s p = true) :
    exec (.transactionEnd { heard := true, ready := true, service := false, data := some w }) s =
        .next (setUnheard p 0 s.free)
      ∧ exec (.transactionEnd { heard := true, ready := true, service := true, data := some w }) s =
        .next (setUnheard p 0 (s.granted pollOffer)) := by
  let c : State := setUnheard p 0 s.over
  have hover : c.line.flight = some { offer := o, deadline := d, ended := true } := by
    show s.line.flight.map _ = _
    rw [h.flight]
    rfl
  have hassign : o.op ≠ .assign := by rw [hop]; decide
  have hpoll : o.op ≠ .poll := by rw [hop]; decide
  have hstray : takeLineEnd o .ready (some w) c = c := by
    unfold takeLineEnd
    rw [hwhy]
    exact sequenceEnd_over (s := c) hseq
  have hend : Acts 1 [.lineEnd o .ready (some w)] c c := Acts.silent h.notices hstray h.notices
  have hcount : countEnd o .ready s.over = c := countEnd_heard hassign hpos (by decide)
  refine ⟨?_, ?_⟩
  · rw [ready_exec h hpoll (fun hc => by cases hc), hcount]
    unfold endNotices
    rw [raisesSilence_heard (by decide)]
    exact congrArg Host.Outcome.next ((hend.cons (acts_lineFree (s := c) h.notices h.offers)).settle h.notices (by decide))
  · have hservice : servicePos o = some p := (if_neg hassign).trans (trailerPos_linePos.mpr hpos)
    have hask : Acts 1 [.serviceNotice p] c (setOffers (fun _ => [pollOffer]) c) :=
      Acts.silent (x := .serviceNotice p) h.notices (askPoll_only (s := c) h.offers hover hs) h.notices
    have hgrant := acts_lineGrant (s := c) (o := pollOffer) h.notices h.offers rfl rfl
    rw [ready_exec h hpoll (fun hc => by cases hc), hcount]
    unfold endNotices
    rw [raisesSilence_heard (by decide), hservice]
    exact congrArg Host.Outcome.next ((hend.cons (hask.cons hgrant)).settle h.notices (by decide))

/-- Settles O27: by the outcome of the reply, the mark and the time. -/
theorem transactionsEnd : Obligations.TransactionsEnd := by
  unfold Obligations.TransactionsEnd
  refine ⟨classify_eq, fun o out s q _ => unheardOf_countEnd, fun s r h => transactionEnd_none h,
    fun s fl r hf he => ⟨transactionEnd_late hf he, transactionEnd_missing hf he, fun hn ho hdis => ?_⟩,
    fun s p a run d w h hseq hs => strayItem_ends h rfl rfl rfl hseq hs⟩
  obtain ⟨hreply, hdeadline, hpoll⟩ := transactionEnd_discard (r := r) hn ho hf he hdis
  refine ⟨fun hop hd => ?_, hdeadline, hpoll⟩
  split
  · rename_i hm; exact (hreply hop hd).1 hm
  · rename_i hm; exact (hreply hop hd).2 hm

/-! ## POLL_WINDOW_END -/

theorem pollWindowEnd_exec {fl : Flight} {slots : Tab Bool 4} (hf : s.line.flight = some fl) (he : fl.ended = false)
    (hd : fl.discard = false) (ho : fl.offer = pollOffer) :
    exec (.pollWindowEnd slots) s =
      .next (settle (emitAll [.pollEnd slots, .lineFree] (advanceTo fl.deadline s).over)) := by
  have hop : fl.offer.op = .poll := by rw [ho]; rfl
  have hover : (advanceTo fl.deadline s).over =
      { advanceTo fl.deadline s with line := { s.line with flight := some { fl with ended := true } } } := by
    unfold State.over
    rw [show (advanceTo fl.deadline s).line.flight = some fl from hf]
    rfl
  have hend : endPoll slots (advanceTo fl.deadline s) = emitAll [.pollEnd slots, .lineFree] (advanceTo fl.deadline s).over := by
    unfold endPoll
    rw [pollFlight_eq (s := advanceTo fl.deadline s) hf he hop, hover]
    dsimp only
    rw [hd]
    rfl
  show Host.Outcome.next (atMoment ((pollFlight s).map fun fl => fl.deadline) (fun s => settle (endPoll slots s)) s) = _
  rw [pollFlight_eq hf he hop]
  exact congrArg (fun t => Host.Outcome.next (settle t)) hend

/-- R164: the Service Poller's record with the next poll time set. -/
def polled (s : State) : State := modService (fun v => { v with nextPoll := some (s.now + ms 20) }) s

theorem pollEnd_none {slots : Tab Bool 4} (h : ∀ p, slots.get p = true → inService s p = false) :
    pollEnd slots s = polled s := by
  have hfold : ∀ ps : List Pos, (∀ p ∈ ps, inService s p = false) → ps.foldl joinPending (polled s) = polled s := by
    intro ps
    induction ps with
    | nil => exact fun _ => rfl
    | cons p ps ih =>
      intro hps
      have hone : joinPending (polled s) p = polled s := by
        have : inService (polled s) p = false := hps p (List.mem_cons_self ..)
        unfold joinPending
        rw [this]
        rfl
      rw [List.foldl_cons, hone]
      exact ih fun q hq => hps q (List.mem_cons_of_mem _ hq)
  exact hfold _ fun p hp => h p (List.mem_filter.mp hp).2

theorem slots_one (p : Pos) : (allPos.filter fun q => ((Tab.fill false).put p true : Tab Bool 4).get q) = [p] := by
  revert p; decide

theorem wordOffer_valid (p : Pos) : offerValid (wordOffer p) = true := by revert p; decide

/-- R165: one position that answered joins the pending set. -/
theorem pollEnd_one {p : Pos} {fl : Flight} (ho : s.line.offers = []) (hf : s.line.flight = some fl)
    (hs : inService s p = true) (hpend : servicePending s p = false) (hpause : s.service.pauses.get p = none) :
    pollEnd ((Tab.fill false).put p true) s = setOffers (fun _ => [wordOffer p]) (modService (fun v => { v with
      pendingSet := v.pendingSet.put p true, rounds := v.rounds.put p {}, pauses := v.pauses.put p none }) (polled s)) := by
  have hin : inService (polled s) p = true := hs
  have hpend' : servicePending (polled s) p = false := hpend
  have hpause' : pauseOf (polled s) p = none := by
    unfold pauseOf
    rw [show (polled s).service.pauses.get p = none from hpause]
    rfl
  unfold pollEnd
  rw [slots_one]
  show joinPending (polled s) p = _
  unfold joinPending
  rw [hin, hpend', hpause']
  exact makeOffer_only (s := modService (fun v => { v with
    pendingSet := v.pendingSet.put p true, rounds := v.rounds.put p {}, pauses := v.pauses.put p none }) (polled s)) (wordOffer_valid p) hf ho

/-- Settles O28: the positions that answered join, and the line goes to the one GET they make. -/
theorem pollEnds : Obligations.PollEnds := by
  unfold Obligations.PollEnds
  intro s fl hn ho hf he hd hpo
  let s1 : State := advanceTo fl.deadline s
  have hover : s1.over.line.flight = some { fl with ended := true } := by
    show s.line.flight.map _ = _
    rw [hf]
    rfl
  refine ⟨fun slots hslots => ?_, fun p hs hpend hpause => ?_⟩
  · have hpoll : Acts 1 [.pollEnd slots] s1.over (polled s1.over) :=
      Acts.silent (x := .pollEnd slots) hn (pollEnd_none (s := s1.over) fun p hp => by
        rw [show inService s1.over p = inService s1 p from rfl, inService_advanceTo]; exact hslots p hp) hn
    rw [pollWindowEnd_exec hf he hd hpo]
    exact congrArg Host.Outcome.next ((hpoll.cons (acts_lineFree (s := polled s1.over) hn ho)).settle (s := s1.over) hn
      (by decide))
  · have hpoll : Acts 1 [.pollEnd ((Tab.fill false).put p true)] s1.over _ :=
      Acts.silent (x := .pollEnd ((Tab.fill false).put p true)) hn (pollEnd_one (s := s1.over) ho hover (by
        rw [show inService s1.over p = inService s1 p from rfl, inService_advanceTo]; exact hs) hpend hpause) hn
    have hgrant := acts_lineGrant (s := modService (fun v => { v with
      pendingSet := v.pendingSet.put p true, rounds := v.rounds.put p {}, pauses := v.pauses.put p none }) (polled s1.over))
      (o := wordOffer p) hn ho rfl rfl
    rw [pollWindowEnd_exec hf he hd hpo]
    exact congrArg Host.Outcome.next ((hpoll.cons hgrant).settle (s := s1.over) hn (by decide))

end Sys2Proof.Machine
end

section
/-!
The ends of the ASSIGN of an enumeration pass and of the RELEASEs of the start-up sweep (R37 to R40, R60, R61).
-/
namespace Sys2Proof.Machine

variable {s t u : State}

/-! ## What an end hands on -/

/-- R23, R35: a reply in time, by what its end hands on. -/
theorem reply_exec {o : Offer} {d : Time} {r : Reply} {out : LineOutcome} {data : Option Word} (h : s.InFlight o d)
    (hop : o.op ≠ .poll) (hc : classify r = (out, data)) (hm : dataMissing o.op out data = false) :
    exec (.transactionEnd r) s =
      .next (settle (emitAll (endNotices o out data r.service s) (countEnd o out s.over))) := by
  rw [transactionEnd_takes h.flight rfl hop h.early, takeReply_eq (fl := { offer := o, deadline := d }) hc hm,
    endTransaction_eq h.flight rfl rfl]

/-- R24, R35: the deadline, by what the end hands on. -/
theorem deadline_exec {o : Offer} {d : Time} (h : s.InFlight o d) (hop : o.op ≠ .poll) :
    exec .replyDeadline s = .next (settle (emitAll (endNotices o .unheard none false (advanceTo d s))
      (countEnd o .unheard (advanceTo d s).over))) := by
  rw [replyDeadline_ends h.flight rfl hop, endTransaction_eq (s := advanceTo d s) h.flight rfl rfl]

theorem dataMissing_plain {op : LineOp} {out : LineOutcome} {data : Option Word} (hg : op ≠ .get) (hr : op ≠ .readWord) :
    dataMissing op out data = false := by
  unfold dataMissing
  rw [decide_eq_false hg, decide_eq_false hr]
  simp

theorem dataMissing_notReady {op : LineOp} {out : LineOutcome} {data : Option Word} (h : out ≠ .ready) :
    dataMissing op out data = false := by
  unfold dataMissing
  rw [decide_eq_false h]
  simp

theorem endNotices_plain {o : Offer} {out : LineOutcome} {data : Option Word} (h : raisesSilence o out s = none) :
    endNotices o out data false s = [.lineEnd o out data, .lineFree] := by
  unfold endNotices
  rw [h]
  rfl

theorem endNotices_heard {o : Offer} {out : LineOutcome} {data : Option Word} (h : out ≠ .unheard) :
    endNotices o out data false s = [.lineEnd o out data, .lineFree] := endNotices_plain (raisesSilence_heard h)

theorem over_flight {o : Offer} {d : Time} (h : s.line.flight = some { offer := o, deadline := d }) :
    s.over.line.flight = some { offer := o, deadline := d, ended := true } := by
  show s.line.flight.map _ = _
  rw [h]
  rfl

/-! ## The ASSIGN of a pass -/

theorem assignPos_number (n : Pos) : assignPos (some (BitVec.ofNat 16 (posNumber n))) = some n := by revert n; decide

theorem assignOffer_op (n : Pos) :
    (assignOffer n).op ≠ .poll ∧ (assignOffer n).op ≠ .get ∧ (assignOffer n).op ≠ .readWord := ⟨nofun, nofun, nofun⟩

theorem countEnd_assign_ready (n : Pos) (s : State) : countEnd (assignOffer n) .ready s = setUnheard n 0 s := by
  unfold countEnd
  rw [if_pos (show (assignOffer n).op = .assign from rfl)]
  have hdata : assignPos (assignOffer n).data = some n := assignPos_number n
  rw [hdata]

theorem countEnd_assign_missed {n : Pos} {out : LineOutcome} (h : out ≠ .ready) (s : State) :
    countEnd (assignOffer n) out s = s := by
  unfold countEnd
  rw [if_pos (show (assignOffer n).op = .assign from rfl)]
  split
  · exact absurd rfl h
  · rfl

/-- R39: the pass has the ASSIGN of n in flight. -/
structure State.Assigning (s : State) (n : Pos) : Prop where
  active : s.consist.pass.active = true
  number : s.consist.pass.n = some n
  phase : s.consist.pass.phase = .inFlight

theorem assignEnd_cases {n : Pos} (h : s.Assigning n) :
    assignEnd n .ready s = assignTaken n s ∧ assignEnd n .notReady s = assignMissed n true s
      ∧ assignEnd n .notHeard s = assignMissed n false s ∧ assignEnd n .unheard s = assignMissed n false s := by
  have hpass : (s.consist.pass.active && decide (s.consist.pass.n = some n) && decide (s.consist.pass.phase = .inFlight))
      = true := by
    rw [h.active, h.number, h.phase]
    simp
  exact ⟨if_pos hpass, if_pos hpass, if_pos hpass, if_pos hpass⟩

theorem frontHolds_iff {n : Pos} (hrel : s.consist.release.active = false) :
    frontHolds s n = true ↔ s.consist.cplPresent = true ∧ ∀ m : Pos, m.val + 1 = n.val → stateOf s m ≠ .vacant := by
  have hbefore : ∀ n m : Pos, posBefore n = some m ↔ m.val + 1 = n.val := by decide
  unfold frontHolds
  rw [hrel]
  cases hb : posBefore n with
  | none =>
    have hno : ∀ m : Pos, m.val + 1 ≠ n.val := fun m hm => by rw [(hbefore n m).mpr hm] at hb; cases hb
    simp only [Bool.not_false, Bool.and_true]
    exact ⟨fun h => ⟨h, fun m hm => absurd hm (hno m)⟩, fun h => h.1⟩
  | some m =>
    have hm := (hbefore n m).mp hb
    have huniq : ∀ m' : Pos, m'.val + 1 = n.val → m' = m := fun m' h => Fin.ext (by omega)
    simp only [Bool.not_false, Bool.and_true, Bool.and_eq_true, isVacant, Bool.not_eq_true', decide_eq_false_iff_not]
    exact ⟨fun h => ⟨h.1, fun m' hm' => by rw [huniq m' hm']; exact h.2⟩, fun h => ⟨h.1, h.2 m hm⟩⟩

/-- The pass record as an ASSIGN that was taken leaves it. -/
def passTaken (s : State) : EnumPass :=
  if s.consist.pass.ending then {} else
    { s.consist.pass with phase := .settling, attempts := 0, heard := false, wait := s.now + ms 20 }

/-- R39, R60: n is handed to bring-up, its word 0 on offer. -/
def handedOver (n : Pos) (e : EnumPass) (s : State) : State :=
  modStream n (fun r => { r with identNext := some 0, identWords := [] })
    (modRec n (fun _ => { state := .identifying }) (modPass (fun _ => e) s))

theorem assignTaken_front {n : Pos} (hf : frontHolds s n = true) :
    assignTaken n s = emitAll [.handOver n] (modPass (fun _ => passTaken s) s) := by
  have hpass : (if s.consist.pass.ending then closePass s
      else modPass (fun e => { e with phase := .settling, attempts := 0, heard := false,
                                      wait := s.now + Config.enumSettle }) s) = modPass (fun _ => passTaken s) s := by
    unfold passTaken
    cases s.consist.pass.ending <;> rfl
  unfold assignTaken
  rw [if_pos hf, hpass]
  rfl

theorem identOffer_valid (n : Pos) :
    offerValid (consistOfferOf (linePos n) .readWord (some 0) none (.identWord n 0)) = true := by revert n; decide

theorem handOver_vacant {n : Pos} {fl : Flight} (hv : stateOf s n = .vacant) (hrel : s.consist.release.active = false)
    (hf : s.line.flight = some fl) (ho : s.line.offers = []) (e : EnumPass) :
    handOver n (modPass (fun _ => e) s) =
      setOffers (fun _ => [consistOfferOf (linePos n) .readWord (some 0) none (.identWord n 0)]) (handedOver n e s) := by
  have hvac : isVacant (modPass (fun _ => e) s) n = true := decide_eq_true hv
  have hrelease : releaseOffered (handedOver n e s) n = false := by
    unfold releaseOffered
    rw [show (handedOver n e s).consist.release.active = false from hrel]
    rfl
  unfold handOver
  rw [if_pos hvac]
  show ccOffer n _ (handedOver n e s) = _
  unfold ccOffer
  rw [hrelease]
  exact makeOffer_only (s := handedOver n e s) (identOffer_valid n) hf ho

theorem Acts.settleNext {k : Nat} {ns : List Notice} {a : Host.Outcome State Fault Refusal}
    (ha : a = .next (Machine.settle (emitAll ns s))) (h : Acts k ns s t) (hn : s.notices = []) (hk : k ≤ 100000) : a = .next t := by
  rw [ha, h.settle hn hk]

/-- R39, R60: a Heard and Ready ASSIGN with the chain in front of it. -/
theorem assign_taken {n : Pos} {d : Time} {x : Option Word} (h : s.InFlight (assignOffer n) d) (ha : s.Assigning n)
    (hrel : s.consist.release.active = false) (hf : frontHolds s n = true) (hv : stateOf s n = .vacant) :
    exec (.transactionEnd { heard := true, ready := true, service := false, data := x }) s = .next
      (State.granted (consistOfferOf (linePos n) .readWord (some 0) none (.identWord n 0))
        (setUnheard n 0 (handedOver n (passTaken s) s))) := by
  let c : State := setUnheard n 0 s.over
  have hover : c.line.flight = some { offer := assignOffer n, deadline := d, ended := true } := over_flight h.flight
  have hexec := reply_exec (r := { heard := true, ready := true, service := false, data := x }) h (assignOffer_op n).1 rfl
    (dataMissing_plain (assignOffer_op n).2.1 (assignOffer_op n).2.2)
  rw [countEnd_assign_ready] at hexec
  have htaken : takeLineEnd (assignOffer n) .ready x c = emitAll [.handOver n] (modPass (fun _ => passTaken s) c) :=
    ((assignEnd_cases (s := c) ⟨ha.active, ha.number, ha.phase⟩).1).trans (assignTaken_front (s := c) hf)
  have hhand := handOver_vacant (s := c) hv hrel hover h.offers (passTaken s)
  have hends : Acts 2 [.lineEnd (assignOffer n) .ready x] c _ :=
    Acts.run (x := .lineEnd (assignOffer n) .ready x) h.notices htaken h.notices
      (Acts.silent (x := .handOver n) h.notices hhand h.notices)
  have hgrant := acts_lineGrant (s := handedOver n (passTaken s) c)
    (o := consistOfferOf (linePos n) .readWord (some 0) none (.identWord n 0)) h.notices h.offers rfl rfl
  exact (hends.cons hgrant).settleNext (hexec.trans (by rw [endNotices_heard (by decide)])) h.notices (by decide)

theorem strayOffer_valid (n : Pos) : offerValid (strayOffer n) = true := by revert n; decide

/-- R39: a Heard and Ready ASSIGN with the chain in front of it broken. -/
theorem assign_stray {n : Pos} {d : Time} {x : Option Word} (h : s.InFlight (assignOffer n) d) (ha : s.Assigning n)
    (hf : frontHolds s n = false) :
    exec (.transactionEnd { heard := true, ready := true, service := false, data := x }) s = .next
      (State.granted (strayOffer n) (setUnheard n 0 (closePass s))) := by
  let c : State := setUnheard n 0 s.over
  have hover : c.line.flight = some { offer := assignOffer n, deadline := d, ended := true } := over_flight h.flight
  have hexec := reply_exec (r := { heard := true, ready := true, service := false, data := x }) h (assignOffer_op n).1 rfl
    (dataMissing_plain (assignOffer_op n).2.1 (assignOffer_op n).2.2)
  rw [countEnd_assign_ready] at hexec
  have hstray : assignTaken n c = setOffers (fun _ => [strayOffer n]) (closePass c) := by
    have hf' : frontHolds c n = false := hf
    unfold assignTaken
    rw [if_neg (by rw [hf']; decide)]
    exact makeOffer_only (s := closePass c) (strayOffer_valid n) hover h.offers
  have hends : Acts 1 [.lineEnd (assignOffer n) .ready x] c _ :=
    Acts.silent (x := .lineEnd (assignOffer n) .ready x) h.notices
      (((assignEnd_cases (s := c) ⟨ha.active, ha.number, ha.phase⟩).1).trans hstray) h.notices
  have hgrant := acts_lineGrant (s := closePass c) (o := strayOffer n) h.notices h.offers rfl rfl
  exact (hends.cons hgrant).settleNext (hexec.trans (by rw [endNotices_heard (by decide)])) h.notices (by decide)

/-! ## An ASSIGN that takes no number -/

/-- R39, R40, R61: what an ASSIGN that takes no number leaves. -/
structure MissedLeaves (n : Pos) (heard : Bool) (s : State) (answer : Host.Outcome State Fault Refusal) : Prop where
  ends : s.consist.pass.ending = true → answer = .next (closePass s).free
  waits : s.consist.pass.ending = false → s.consist.pass.attempts < 2 → answer = .next (State.free (modPass (fun _ =>
    { s.consist.pass with
      attempts := s.consist.pass.attempts + 1
      heard := s.consist.pass.heard || heard
      phase := .spacing
      wait := s.now + ms 50 }) s))
  closes : s.consist.pass.ending = false → 2 ≤ s.consist.pass.attempts →
    ¬ (n = 0 ∧ (s.consist.pass.heard || heard) = false ∧ s.consist.cplPresent = true ∧ stateOf s 0 = .vacant) →
    answer = .next (closePass s).free
  wires : s.consist.pass.ending = false → 2 ≤ s.consist.pass.attempts →
    n = 0 ∧ (s.consist.pass.heard || heard) = false ∧ s.consist.cplPresent = true ∧ stateOf s 0 = .vacant →
    ∃ rf, answer = .next
      (let u := State.free (modRec 0 (fun r => { r with state := .wired }) (closePass s))
       { u with port := { u.port with refresh := rf } })

theorem acts_missed {n : Pos} {heard : Bool} {c : State} (hn : c.notices = []) (ho : c.line.offers = []) {x : Notice}
    (hx : runNotice x c = assignMissed n heard c) :
    MissedLeaves n heard c (.next (settle (emitAll [x, .lineFree] c))) := by
  have hplain : ∀ t, assignMissed n heard c = t → t.notices = [] → t.line.offers = [] →
      settle (emitAll [x, .lineFree] c) = t.free := fun t ht hnt hot =>
    ((Acts.silent hn (hx.trans ht) hnt).cons (acts_lineFree hnt hot)).settle hn (by decide)
  refine ⟨fun he => ?_, fun he ha => ?_, fun he ha hw => ?_, fun he ha hw => ?_⟩
  · refine congrArg Host.Outcome.next (hplain (closePass c) ?_ hn ho)
    unfold assignMissed
    exact if_pos he
  · refine congrArg Host.Outcome.next (hplain _ ?_ hn ho)
    unfold assignMissed
    dsimp only
    rw [if_neg (by rw [he]; decide), if_pos (show c.consist.pass.attempts + 1 < Config.enumAttempts by show _ < 3; omega)]
    rfl
  all_goals
    have hmissed : assignMissed n heard c = emitAll [.chainEnd n (c.consist.pass.heard || heard)] (closePass c) := by
      unfold assignMissed
      dsimp only
      rw [if_neg (by rw [he]; decide), if_neg (show ¬ c.consist.pass.attempts + 1 < Config.enumAttempts by show ¬ _ < 3; omega)]
      rfl
  · have hchain : chainEnd n (c.consist.pass.heard || heard) (closePass c) = closePass c := by
      unfold chainEnd
      refine if_neg fun hc => hw ?_
      simp only [Bool.and_eq_true, Bool.not_eq_true', decide_eq_true_eq] at hc
      obtain ⟨⟨⟨hc0, hch⟩, hcp⟩, hcv⟩ := hc
      exact ⟨hc0, hch, hcp, of_decide_eq_true hcv⟩
    exact congrArg Host.Outcome.next (((Acts.run hn (hx.trans hmissed) hn
      (Acts.silent (x := .chainEnd n (c.consist.pass.heard || heard)) hn hchain hn)).cons
      (acts_lineFree (s := closePass c) hn ho)).settle hn (by decide))
  · obtain ⟨rfl, hh, hcp, hv⟩ := hw
    have hchain : chainEnd 0 (c.consist.pass.heard || heard) (closePass c) =
        emitAll [.syncRefresh] (modRec 0 (fun r => { r with state := .wired }) (closePass c)) := by
      unfold chainEnd
      refine if_pos ?_
      rw [hh, show (closePass c).consist.cplPresent = true from hcp,
        show isVacant (closePass c) 0 = true from decide_eq_true hv]
      decide
    obtain ⟨rf, hrf⟩ := acts_syncRefresh (s := modRec 0 (fun r => { r with state := .wired }) (closePass c)) hn
    refine ⟨rf, congrArg Host.Outcome.next ?_⟩
    exact ((Acts.run hn (hx.trans hmissed) hn
      (Acts.run (x := .chainEnd 0 (c.consist.pass.heard || heard)) hn hchain hn hrf)).cons (acts_lineFree hn ho)).settle hn
      (by decide)

/-- The flight that has ended is of no account once the line is free. -/
theorem MissedLeaves.of_over {n : Pos} {heard : Bool} {a : Host.Outcome State Fault Refusal}
    (h : MissedLeaves n heard s.over a) : MissedLeaves n heard s a := ⟨h.ends, h.waits, h.closes, h.wires⟩

theorem assign_missed {n : Pos} {d : Time} {r : Reply} {out : LineOutcome} {heard : Bool} (h : s.InFlight (assignOffer n) d)
    (hc : classify r = (out, none)) (hout : out ≠ .ready) (hun : out ≠ .unheard) (hs : r.service = false)
    (hend : assignEnd n out s.over = assignMissed n heard s.over) :
    MissedLeaves n heard s (exec (.transactionEnd r) s) := by
  have hexec := reply_exec h (assignOffer_op n).1 hc (dataMissing_notReady hout)
  rw [countEnd_assign_missed hout, hs, endNotices_heard hun] at hexec
  rw [hexec]
  exact (acts_missed (c := s.over) h.notices h.offers (x := .lineEnd (assignOffer n) out none) hend).of_over

theorem raisesSilence_assign {o : Offer} {out : LineOutcome} (h : o.op = .assign) : raisesSilence o out s = none := if_pos h

theorem assign_unheard {n : Pos} {d : Time} (h : s.InFlight (assignOffer n) d) (ha : s.Assigning n) :
    MissedLeaves n false (advanceTo d s) (exec .replyDeadline s) := by
  have hexec := deadline_exec h (assignOffer_op n).1
  rw [countEnd_assign_missed (by decide), endNotices_plain (raisesSilence_assign rfl)] at hexec
  rw [hexec]
  exact (acts_missed (c := (advanceTo d s).over) h.notices h.offers
    (x := .lineEnd (assignOffer n) .unheard none)
    (assignEnd_cases (s := (advanceTo d s).over) ⟨ha.active, ha.number, ha.phase⟩).2.2.2).of_over

end Sys2Proof.Machine
end

section
/-!
The ASSIGN that ends while a release is at work, the RELEASEs of the start-up sweep, and the settling of O25.
-/
namespace Sys2Proof.Machine

variable {s t u : State}

/-! ## An ASSIGN that ends while a release is at work -/

theorem frontHolds_releasing {n : Pos} (h : s.consist.release.active = true) : frontHolds s n = false := by
  unfold frontHolds
  rw [h]
  simp

/-- R33: an offer at its class and position beside one at another position. -/
theorem putOffer_beside {o x : Offer} (h : o.pos ≠ x.pos) : putOffer o [x] = [x, o] := by
  have hno : ([x].any fun y => decide (y.requester = o.requester) && decide (y.cls = o.cls) && decide (y.pos = o.pos)) = false := by
    simp [Ne.symm h]
  unfold putOffer
  rw [hno]
  rfl

theorem posBelow_ne {m n : Pos} (h : m.val + 1 = n.val) : linePos n ≠ linePos m := fun he => by
  rw [linePos_injective he] at h; omega

/-- R34: of the RELEASEs of two positions the arbiter takes that of the lower one, served after the tractor's. -/
theorem chooseOffer_lower {l : LineCtl} {m n : Pos} (h : m.val + 1 = n.val) (ho : l.offers = [releaseOffer m, strayOffer n])
    (hl : l.lastServed.get 4 = 0) : chooseOffer l = some (releaseOffer m) := by
  obtain ⟨o, hc⟩ := chooseOffer_some (l := l) (by rw [ho]; exact List.cons_ne_nil _ _)
  have hspec := arbiterChooses
  unfold Obligations.ArbiterChooses at hspec
  obtain ⟨hmem, -, hrank⟩ := (hspec l).2 o hc
  rw [ho] at hmem hrank
  rcases List.mem_cons.mp hmem with rfl | hmem
  · exact hc
  · have hstray : o = strayOffer n := by simpa using hmem
    subst hstray
    have hle := (hrank (releaseOffer m) (List.mem_cons_self ..) rfl).1
    have hlast : l.lastServed.get (strayOffer n).cls = 0 := hl
    rw [hlast] at hle
    have hn : ((strayOffer n).pos.val + 4 - (0 : LinePos).val) % 5 = n.val := by
      show (n.val + 1 + 4 - 0) % 5 = n.val
      omega
    have hm : ((releaseOffer m).pos.val + 4 - (0 : LinePos).val) % 5 = m.val := by
      show (m.val + 1 + 4 - 0) % 5 = m.val
      omega
    rw [hn, hm] at hle
    omega

/-- R34, R35: the line freed goes to the lower of the two. -/
theorem freeLine_lower {m n : Pos} (h : m.val + 1 = n.val) (hl : s.line.lastServed.get 4 = 0) :
    freeLine (setOffers (fun _ => [releaseOffer m, strayOffer n]) s) = setOffers (fun _ => [strayOffer n])
      (State.granted (releaseOffer m) (modRelease (fun r => { r with phase := some .inFlight }) s)) := by
  have hc : chooseOffer (setOffers (fun _ => [releaseOffer m, strayOffer n]) s).free.line = some (releaseOffer m) :=
    chooseOffer_lower h rfl hl
  have hfilter : ([releaseOffer m, strayOffer n].filter fun x => !(decide (x.requester = (releaseOffer m).requester)
      && decide (x.cls = (releaseOffer m).cls) && decide (x.pos = (releaseOffer m).pos))) = [strayOffer n] := by
    have hpos : (strayOffer n).pos ≠ (releaseOffer m).pos := posBelow_ne h
    simp [hpos]
  show grantLine (setOffers (fun _ => [releaseOffer m, strayOffer n]) s).free = _
  unfold grantLine
  rw [hc]
  show grant (releaseOffer m) (setOffers (fun _ => [releaseOffer m, strayOffer n]) s).free = _
  unfold grant
  rw [show (setOffers (fun _ => [releaseOffer m, strayOffer n]) s).free.line.offers = [releaseOffer m, strayOffer n] from rfl,
    hfilter]
  exact emitAll_nil _

theorem assign_releasing {m n : Pos} {d : Time} {x : Option Word} (hmn : m.val + 1 = n.val) (hn : s.notices = [])
    (ho : s.line.offers = [releaseOffer m]) (hf : s.line.flight = some { offer := assignOffer n, deadline := d })
    (hd : s.now < d) (hl : s.line.lastServed.get 4 = 0) (ha : s.Assigning n) (hrel : s.consist.release.active = true) :
    exec (.transactionEnd { heard := true, ready := true, service := false, data := x }) s = .next
      (setOffers (fun _ => [strayOffer n]) (State.granted (releaseOffer m)
        (modRelease (fun r => { r with phase := some .inFlight }) (setUnheard n 0 (closePass s))))) := by
  let c : State := setUnheard n 0 s.over
  have hover : c.line.flight = some { offer := assignOffer n, deadline := d, ended := true } := over_flight hf
  have hstray : takeLineEnd (assignOffer n) .ready x c = setOffers (fun _ => [releaseOffer m, strayOffer n]) (closePass c) := by
    refine ((assignEnd_cases (s := c) ⟨ha.active, ha.number, ha.phase⟩).1).trans ?_
    unfold assignTaken
    rw [if_neg (by rw [frontHolds_releasing (s := c) hrel]; decide), makeOffer_busy (s := closePass c) (strayOffer_valid n) hover]
    refine congrArg (fun os => { closePass c with line := { c.line with offers := os } }) ?_
    show putOffer (strayOffer n) s.line.offers = _
    rw [ho]
    exact putOffer_beside (posBelow_ne hmn)
  have hends : Acts 1 [.lineEnd (assignOffer n) .ready x] c _ :=
    Acts.silent (x := .lineEnd (assignOffer n) .ready x) hn hstray hn
  have hgrant : Acts 1 [.lineFree] (setOffers (fun _ => [releaseOffer m, strayOffer n]) (closePass c)) _ :=
    Acts.silent (x := .lineFree) hn (freeLine_lower (s := closePass c) hmn hl) hn
  have hexec : exec (.transactionEnd { heard := true, ready := true, service := false, data := x }) s =
      .next (settle (emitAll [.lineEnd (assignOffer n) .ready x, .lineFree] c)) := by
    rw [transactionEnd_takes hf rfl (assignOffer_op n).1 hd,
      takeReply_eq (fl := { offer := assignOffer n, deadline := d }) (out := .ready) (data := x) rfl
        (dataMissing_plain (assignOffer_op n).2.1 (assignOffer_op n).2.2),
      endTransaction_eq hf rfl rfl]
    dsimp only
    rw [countEnd_assign_ready, endNotices_heard (by decide)]
  exact (hends.cons hgrant).settleNext hexec hn (by decide)

/-! ## The start-up sweep -/

theorem sweepOffer_valid (p : Pos) : offerValid (sweepOffer p) = true := by revert p; decide

theorem sweepOffer_op (p : Pos) : (sweepOffer p).op ≠ .poll ∧ (sweepOffer p).op ≠ .assign
    ∧ (sweepOffer p).op ≠ .get ∧ (sweepOffer p).op ≠ .readWord := ⟨nofun, nofun, nofun, nofun⟩

/-- R32: the end of a RELEASE of a VACANT position. -/
theorem countEnd_sweep {p : Pos} {out : LineOutcome} (hv : stateOf s p = .vacant) :
    countEnd (sweepOffer p) out s = if out = .unheard then s else setUnheard p 0 s := by
  have hsilent : countsSilence s p = false := by
    rw [Bool.eq_false_iff]
    exact fun h => (countsSilence_eq s p).mp h (Or.inl hv)
  unfold countEnd
  rw [if_neg (sweepOffer_op p).2.1, trailerPos_linePos.mpr (show (sweepOffer p).pos = linePos p from rfl)]
  dsimp only
  rw [hsilent]
  rfl

theorem raisesSilence_sweep {p : Pos} {out : LineOutcome} (hv : stateOf s p = .vacant) :
    raisesSilence (sweepOffer p) out s = none := by
  have hsilent : countsSilence s p = false := by
    rw [Bool.eq_false_iff]
    exact fun h => (countsSilence_eq s p).mp h (Or.inl hv)
  unfold raisesSilence
  rw [if_neg (sweepOffer_op p).2.1, trailerPos_linePos.mpr (show (sweepOffer p).pos = linePos p from rfl)]
  dsimp only
  rw [hsilent]
  exact if_neg fun h => Bool.false_ne_true h.2.1

theorem askPoll_noService (h : ∀ p, inService s p = false) : askPoll s = s := by
  have hany : anyInService s = false := List.any_eq_false.mpr fun p _ => by rw [h p]; decide
  unfold askPoll
  rw [hany]
  simp

/-- R31: with no position in service a service notice brings nothing about. -/
theorem acts_serviceNotices (service : Bool) {o : Offer} (hn : s.notices = []) (h : ∀ p, inService s p = false) :
    Acts 1 (if service then ((servicePos o).map fun p => Notice.serviceNotice p).toList else []) s s := by
  cases service with
  | false => exact (Acts.nil s).mono (by decide)
  | true =>
    cases servicePos o with
    | none => exact (Acts.nil s).mono (by decide)
    | some p => exact Acts.silent (x := .serviceNotice p) hn (askPoll_noService h) hn

/-- The end of a RELEASE of the sweep, by what its line end and the free line leave. -/
theorem settle_sweepEnd {p : Pos} {out : LineOutcome} {data : Option Word} {service : Bool} {c : State} {k : Nat}
    (hn : c.notices = []) (hv : stateOf s p = .vacant) (htn : t.notices = []) (ht : ∀ x, inService t x = false)
    (hend : Acts k [.lineEnd (sweepOffer p) out data] c t) (hfree : Acts 1 [.lineFree] t u) (hk : k ≤ 10) :
    settle (emitAll (endNotices (sweepOffer p) out data service s) c) = u := by
  unfold endNotices
  rw [raisesSilence_sweep hv]
  show settle (emitAll (([.lineEnd (sweepOffer p) out data] ++ _) ++ [] ++ [.lineFree]) c) = u
  rw [List.append_nil]
  exact ((hend.append (acts_serviceNotices service htn ht)).append hfree).settle hn (by omega)

/-- R37: the RELEASE of the position below follows. -/
theorem sweep_next {p q : Pos} {d : Time} {c : State} (out : LineOutcome) (data : Option Word) (service : Bool)
    (hn : c.notices = []) (ho : c.line.offers = [])
    (hf : c.line.flight = some { offer := sweepOffer p, deadline := d, ended := true }) (hsw : c.consist.sweep = some p)
    (hq : q.val + 1 = p.val) (hs : ∀ x, inService c x = false) (hv : stateOf s p = .vacant) :
    settle (emitAll (endNotices (sweepOffer p) out data service s) c) =
      State.granted (sweepOffer q) { c with consist := { c.consist with sweep := some q } } := by
  have hbefore : ∀ p q : Pos, q.val + 1 = p.val → posBefore p = some q := by decide
  have hend : sweepEnd p c = setOffers (fun _ => [sweepOffer q]) (modConsist (fun x => { x with sweep := some q }) c) := by
    unfold sweepEnd
    rw [if_pos hsw, hbefore p q hq]
    exact makeOffer_only (s := modConsist (fun x => { x with sweep := some q }) c) (sweepOffer_valid q) hf ho
  exact settle_sweepEnd hn hv (t := setOffers (fun _ => [sweepOffer q]) (modConsist (fun x => { x with sweep := some q }) c)) hn hs
    (Acts.silent (x := .lineEnd (sweepOffer p) out data) hn hend hn)
    (acts_lineGrant (s := modConsist (fun x => { x with sweep := some q }) c) (o := sweepOffer q) hn ho rfl rfl) (by decide)

/-- The sweep is complete. -/
def swept (s : State) : State := { s with consist := { s.consist with sweep := none, sweepTrigger := false } }

theorem sweep_complete {c : State} (out : LineOutcome) (data : Option Word) (service : Bool)
    (hn : c.notices = []) (ho : c.line.offers = []) (hsw : c.consist.sweep = some 0)
    (hs : ∀ x, inService c x = false) (hv : stateOf s 0 = .vacant)
    (h : c.consist.sweepTrigger = false ∨ c.consist.cplPresent = false) :
    settle (emitAll (endNotices (sweepOffer 0) out data service s) c) = (swept c).free := by
  have hend : sweepEnd 0 c = swept c := by
    unfold sweepEnd
    rw [if_pos hsw]
    show sweepComplete c = _
    unfold sweepComplete
    refine if_neg fun hc => ?_
    rw [Bool.and_eq_true] at hc
    rcases h with h | h
    · rw [h] at hc; cases hc.1
    · rw [h] at hc; cases hc.2
  exact settle_sweepEnd hn hv (t := swept c) hn hs (Acts.silent (x := .lineEnd (sweepOffer 0) out data) hn hend hn)
    (acts_lineFree (s := swept c) hn ho) (by decide)

theorem sweep_triggers {d : Time} {c : State} (out : LineOutcome) (data : Option Word) (service : Bool)
    (hn : c.notices = []) (ho : c.line.offers = [])
    (hf : c.line.flight = some { offer := sweepOffer 0, deadline := d, ended := true }) (hsw : c.consist.sweep = some 0)
    (hs : ∀ x, inService c x = false) (hv : stateOf s 0 = .vacant) (hvc : stateOf c 0 = .vacant)
    (htr : c.consist.sweepTrigger = true) (hcpl : c.consist.cplPresent = true) (hpass : c.consist.pass.active = false)
    (hrel : c.consist.release.active = false) (hlost : ∀ x, stateOf c x ≠ .lost) :
    settle (emitAll (endNotices (sweepOffer 0) out data service s) c) =
      State.granted (assignOffer 0) (modPass (fun _ => { active := true, n := some 0, phase := .inFlight }) (swept c)) := by
  have hend : sweepEnd 0 c = emitAll [.enumTrigger] (swept c) := by
    unfold sweepEnd
    rw [if_pos hsw]
    show sweepComplete c = _
    unfold sweepComplete
    exact if_pos (by rw [htr, hcpl]; rfl)
  have hlow : lowestVacant (swept c) = some 0 := lowestVacant_eq (s := swept c) hvc fun p hp => absurd hp (Fin.not_lt_zero p)
  let w : State := modPass (fun _ => { active := true, n := some 0 }) (swept c)
  have htrigger : enumTrigger (swept c) = setOffers (fun _ => [assignOffer 0]) w :=
    (enumTrigger_starts (s := swept c) hrel rfl hpass hcpl hlost hlow).trans
      (makeOffer_only (s := w) (assignOffer_valid 0) hf ho)
  have hgrant : Acts 1 [.lineFree] (setOffers (fun _ => [assignOffer 0]) w)
      (State.granted (assignOffer 0) (modPass (fun _ => { active := true, n := some 0, phase := .inFlight }) (swept c))) := by
    refine Acts.silent (x := .lineFree) hn ((freeLine_one (s := w) (assignOffer 0) ho).trans ?_) hn
    exact emitAll_nil _
  exact settle_sweepEnd hn hv (t := setOffers (fun _ => [assignOffer 0]) w) hn hs
    (Acts.run (x := .lineEnd (sweepOffer 0) out data) hn hend hn (Acts.silent (x := .enumTrigger) hn htrigger hn)) hgrant
    (by decide)

/-- A reply to a RELEASE of the sweep, whatever it is, is an end that is not Unheard. -/
theorem sweep_reply {p : Pos} {d : Time} (h : s.InFlight (sweepOffer p) d) (hv : stateOf s p = .vacant) (r : Reply) :
    ∃ out data, exec (.transactionEnd r) s =
      .next (settle (emitAll (endNotices (sweepOffer p) out data r.service s) (setUnheard p 0 s.over))) := by
  obtain ⟨out, data, hc⟩ : ∃ out data, classify r = (out, data) := ⟨_, _, rfl⟩
  have hun : out ≠ .unheard := by
    rw [classify_eq] at hc
    rintro rfl
    cases hh : r.heard <;> cases hr : r.ready <;> simp [hh, hr] at hc
  have hcount : countEnd (sweepOffer p) out s.over = setUnheard p 0 s.over := (countEnd_sweep (s := s.over) hv).trans (if_neg hun)
  refine ⟨out, data, ?_⟩
  rw [reply_exec h (sweepOffer_op p).1 hc (dataMissing_plain (sweepOffer_op p).2.2.1 (sweepOffer_op p).2.2.2), hcount]

theorem sweep_deadline {p : Pos} {d : Time} (h : s.InFlight (sweepOffer p) d) (hv : stateOf s p = .vacant) :
    exec .replyDeadline s = .next (settle (emitAll (endNotices (sweepOffer p) .unheard none false (advanceTo d s))
      (advanceTo d s).over)) := by
  have hv' : stateOf (advanceTo d s).over p = .vacant := (stateOf_advanceTo d s p).trans hv
  rw [deadline_exec h (sweepOffer_op p).1, countEnd_sweep hv', if_pos rfl]

/-- Settles O25: the ASSIGN by whether a number is taken, the RELEASEs of the sweep by whether one is left. -/
theorem enumerationEnds : Obligations.EnumerationEnds := by
  unfold Obligations.EnumerationEnds
  refine ⟨fun s n d h hact hnum hph hrel => ?_, fun s m n d x hmn hn ho hf hd hl hact hnum hph hrel hv => ?_,
    fun s p q d h hsw hq hs hv => ?_, fun s d h hsw hs hv => ?_⟩
  · have ha : s.Assigning n := ⟨hact, hnum, hph⟩
    have hover : s.over.Assigning n := ⟨hact, hnum, hph⟩
    obtain ⟨-, hnr, hnh, -⟩ := assignEnd_cases hover
    have hmissed : ∀ {heard : Bool} {w : State} {a : Host.Outcome State Fault Refusal}, MissedLeaves n heard w a →
        w.consist.pass = s.consist.pass → w.consist.cplPresent = s.consist.cplPresent → 
        (let wires := n = 0 ∧ (s.consist.pass.heard || heard) = false ∧ s.consist.cplPresent = true ∧ stateOf w 0 = .vacant
        (s.consist.pass.ending = true → a = .next (modPass (fun _ => {}) w).free)
          ∧ (s.consist.pass.ending = false → s.consist.pass.attempts < 2 →
              a = .next (State.free (modPass (fun _ => { s.consist.pass with
                attempts := s.consist.pass.attempts + 1
                heard := s.consist.pass.heard || heard
                phase := .spacing
                wait := w.now + ms 50 }) w)))
          ∧ (s.consist.pass.ending = false → 2 ≤ s.consist.pass.attempts → ¬ wires → a = .next (modPass (fun _ => {}) w).free)
          ∧ (s.consist.pass.ending = false → 2 ≤ s.consist.pass.attempts → wires → ∃ t, a = .next t
              ∧ (let u := State.free (modRec 0 (fun r => { r with state := .wired }) (modPass (fun _ => {}) w))
                 t = { u with port := { u.port with refresh := t.port.refresh } }))) := by
      intro heard w a hm hp hc
      rw [← hp, ← hc]
      refine ⟨hm.ends, hm.waits, hm.closes, fun he h2 hw => ?_⟩
      obtain ⟨rf, hrf⟩ := hm.wires he h2 hw
      exact ⟨_, hrf, rfl⟩
    refine ⟨fun x hfront hv => assign_taken h ha hrel ((frontHolds_iff hrel).mpr hfront) hv,
      fun x hfront => assign_stray h ha (Bool.eq_false_iff.mpr fun hc => hfront ((frontHolds_iff hrel).mp hc)),
      fun x => hmissed (assign_missed h rfl (by decide) (by decide) rfl hnr) rfl rfl,
      fun any x => hmissed (assign_missed h rfl (by decide) (by decide) rfl hnh) rfl rfl,
      hmissed (assign_unheard h ha) rfl rfl⟩
  · exact ⟨hv, assign_releasing hmn hn ho hf hd hl ⟨hact, hnum, hph⟩ hrel⟩
  · have hover := over_flight h.flight
    refine ⟨fun r => ?_, ?_⟩
    · obtain ⟨out, data, hexec⟩ := sweep_reply h hv r
      rw [hexec]
      exact congrArg Host.Outcome.next (sweep_next (c := setUnheard p 0 s.over) out data r.service h.notices h.offers hover hsw
        hq hs hv)
    · rw [sweep_deadline h hv]
      exact congrArg Host.Outcome.next (sweep_next (c := (advanceTo d s).over) .unheard none false h.notices h.offers hover hsw
        hq (fun x => (inService_advanceTo d s x).trans (hs x)) ((stateOf_advanceTo d s p).trans hv))
  · have hover := over_flight h.flight
    refine ⟨fun r => ⟨fun htr => ?_, fun htr hcpl hpass hrel hlost => ?_⟩, fun htr => ?_, fun htr hcpl hpass hrel hlost => ?_⟩
    · obtain ⟨out, data, hexec⟩ := sweep_reply h hv r
      rw [hexec]
      exact congrArg Host.Outcome.next (sweep_complete (c := setUnheard 0 0 s.over) out data r.service h.notices h.offers hsw
        hs hv htr)
    · obtain ⟨out, data, hexec⟩ := sweep_reply h hv r
      rw [hexec]
      exact congrArg Host.Outcome.next (sweep_triggers (c := setUnheard 0 0 s.over) out data r.service h.notices h.offers hover
        hsw hs hv hv htr hcpl hpass hrel hlost)
    · rw [sweep_deadline h hv]
      exact congrArg Host.Outcome.next (sweep_complete (c := (advanceTo d s).over) .unheard none false h.notices h.offers hsw
        (fun x => (inService_advanceTo d s x).trans (hs x)) ((stateOf_advanceTo d s 0).trans hv) htr)
    · rw [sweep_deadline h hv]
      exact congrArg Host.Outcome.next (sweep_triggers (c := (advanceTo d s).over) .unheard none false h.notices h.offers hover
        hsw (fun x => (inService_advanceTo d s x).trans (hs x)) ((stateOf_advanceTo d s 0).trans hv)
        ((stateOf_advanceTo d s 0).trans hv) htr hcpl hpass hrel
        (fun x hx => hlost x ((stateOf_advanceTo d s x).symm.trans hx)))

end Sys2Proof.Machine
end

section
/-!
Claims, lookups and translations (R82, R84, R88, R89), and the requests that pin a group (R90).
-/
namespace Sys2Proof.Machine

variable {s t u : State}

/-! ## Making an offer leaves all but the line and the notices -/

/-- The state with another line and other notices. -/
def withLine (l : LineCtl) (ns : List Notice) (s : State) : State := { s with line := l, notices := ns }

theorem makeOffer_line {o : Offer} (hi : s.IdleLine) (hq : ∀ t, notePhase o t = t) :
    ∃ l ns, makeOffer o s = withLine l ns s := by
  by_cases hv : offerValid o = true
  · cases hf : s.line.flight with
    | some fl => exact ⟨_, _, makeOffer_busy hv hf⟩
    | none =>
      rw [makeOffer_idle hv hf (hi hf)]
      unfold grant
      rw [hq]
      exact ⟨_, _, rfl⟩
  · exact ⟨_, _, if_neg hv⟩

theorem notePhase_fetch {o : Offer} {p : Pos} {g : Group} {b : BlockNo} {a : Nat} (h : o.why = .fetchWord p g b a) (t : State) :
    notePhase o t = t :=
  notePhase_quiet (fun n => by rw [h]; nofun) (fun n => by rw [h]; nofun) (fun q f => by rw [h]; nofun) t

theorem fetchOffer_why {p : Pos} {b : BlockNo} {o : Offer} (h : fetchOffer s p b = some o) :
    ∃ g a, o.why = .fetchWord p g b a := by
  unfold fetchOffer at h
  split at h
  · cases h; exact ⟨_, _, rfl⟩
  · cases h

theorem offerFetch_line (p : Pos) (hi : s.IdleLine) : ∃ l ns, offerFetch p s = withLine l ns s := by
  unfold offerFetch
  cases h : (fetchingBlock s p).bind (fetchOffer s p) with
  | none => exact ⟨_, _, rfl⟩
  | some o =>
    obtain ⟨b, -, hb⟩ := Option.bind_eq_some_iff.mp h
    obtain ⟨g, a, hw⟩ := fetchOffer_why hb
    dsimp only
    split
    · exact ⟨s.line, s.notices, rfl⟩
    · exact makeOffer_line hi (notePhase_fetch hw)

/-! ## A claim -/

/-- R84: block b set up for group g of p. -/
def blockSet (b : BlockNo) (p : Pos) (g : Group) (pin : Bool) (s : State) : State :=
  modGroup p g (fun r => { r with block := some b })
    (modBlock b (fun _ => { state := .fetching, owner := some (p, g), pinned := pin, progress := some (0, 0) })
      (dropOwner b s))

theorem dropOwner_binding (b : BlockNo) (s : State) :
    ∃ gs, dropOwner b s = { s with binding := { s.binding with groups := gs } }
      ∧ ∀ q h, (gs.get q).get h =
        if (blockOf s b).owner = some (q, h) then { groupRec s q h with block := none } else groupRec s q h := by
  unfold dropOwner
  cases ho : (blockOf s b).owner with
  | none => exact ⟨s.binding.groups, rfl, fun q h => (if_neg nofun).symm⟩
  | some x =>
    obtain ⟨p, g⟩ := x
    refine ⟨_, rfl, fun q h => ?_⟩
    rw [Tab.get_upd]
    by_cases hq : q = p
    · subst hq
      rw [if_pos rfl, Tab.get_upd]
      by_cases hh : h = g
      · subst hh; rw [if_pos rfl, if_pos rfl]; rfl
      · rw [if_neg hh, if_neg fun he => hh (congrArg Prod.snd (Option.some.inj he)).symm]; rfl
    · rw [if_neg hq, if_neg fun he => hq (congrArg Prod.fst (Option.some.inj he)).symm]; rfl

theorem blockSet_binding (b : BlockNo) (p : Pos) (g : Group) (pin : Bool) (s : State) :
    ∃ gs, blockSet b p g pin s = { s with binding := { s.binding with
        groups := gs
        blocks := s.binding.blocks.put b
          { state := .fetching, owner := some (p, g), pinned := pin, progress := some (0, 0) } } }
      ∧ ∀ q h, (gs.get q).get h =
        if q = p ∧ h = g then { groupRec s p g with block := some b }
        else if (blockOf s b).owner = some (q, h) then { groupRec s q h with block := none } else groupRec s q h := by
  obtain ⟨gs, hdrop, hgs⟩ := dropOwner_binding b s
  unfold blockSet
  rw [hdrop]
  refine ⟨_, rfl, fun q h => ?_⟩
  show ((gs.upd p _).get q).get h = _
  rw [Tab.get_upd]
  by_cases hq : q = p
  · subst hq
    rw [if_pos rfl, Tab.get_upd]
    by_cases hh : h = g
    · subst hh
      rw [if_pos rfl, if_pos ⟨rfl, rfl⟩, hgs]
      split <;> rfl
    · rw [if_neg hh, if_neg fun he => hh he.2, hgs]
  · rw [if_neg hq, if_neg fun he => hq he.1, hgs]

theorem claim_takes {b : BlockNo} {p : Pos} {g : Group} {f : Option Code} {k : Option AccessKind} {pin : Bool}
    (h : takeBlock s = (some b, t)) :
    claim p g pin f k s = (true, emitAll (holdNotices p) (offerFetch p (blockSet b p g pin t))) := by
  unfold claim
  rw [h]
  rfl

/-- R89: a claim that takes no block. -/
theorem claim_fails {p : Pos} {g : Group} {f : Option Code} {k : Option AccessKind} {pin : Bool}
    (h : takeBlock s = (none, t)) (hn : (groupRec t p g).noSpace = false) : claim p g pin f k s = (false,
      emitAll (holdNotices p)
        (recordFault .noSpace (some p) f k g.val (modGroup p g (fun r => { r with noSpace := true }) t))) := by
  unfold claim
  rw [h]
  refine congrArg (Prod.mk false) ?_
  unfold claimFailed
  rw [hn]
  rfl

/-- What a claim looks at leaves all but the blocks and the pointer. -/
theorem takeBlock_binding {x : Option BlockNo} (h : takeBlock s = (x, t)) :
    ∃ bs pt, t = { s with binding := { s.binding with blocks := bs, pointer := pt } }
      ∧ ∀ c, (bs.get c).state = (blockOf s c).state ∧ (bs.get c).owner = (blockOf s c).owner
        ∧ (bs.get c).progress = (blockOf s c).progress := by
  have hcircle : ∀ (cs : List BlockNo) (u : State), ∃ bs, (firstCircle cs u).2 = { u with
      binding := { u.binding with blocks := bs } } ∧ ∀ c, (bs.get c).state = (blockOf u c).state
        ∧ (bs.get c).owner = (blockOf u c).owner ∧ (bs.get c).progress = (blockOf u c).progress := by
    intro cs
    induction cs with
    | nil => exact fun u => ⟨u.binding.blocks, rfl, fun c => ⟨rfl, rfl, rfl⟩⟩
    | cons b cs ih =>
      intro u
      unfold firstCircle
      split
      · split
        · obtain ⟨bs, hbs, hget⟩ := ih (modBlock b (fun x => { x with referenced := false }) u)
          refine ⟨bs, hbs, fun c => ?_⟩
          have hc : blockOf (modBlock b (fun x => { x with referenced := false }) u) c =
              if c = b then { blockOf u b with referenced := false } else blockOf u c := Tab.get_upd _ _ _ _
          obtain ⟨h1, h2, h3⟩ := hget c
          rw [h1, h2, h3, hc]
          split
          · rename_i he; subst he; exact ⟨rfl, rfl, rfl⟩
          · exact ⟨rfl, rfl, rfl⟩
        · exact ⟨u.binding.blocks, rfl, fun c => ⟨rfl, rfl, rfl⟩⟩
      · exact ih u
  obtain ⟨bs, hbs, hget⟩ := hcircle (reclaimOrder s.binding.pointer) s
  unfold takeBlock at h
  split at h
  · cases h; exact ⟨s.binding.blocks, s.binding.pointer, rfl, fun c => ⟨rfl, rfl, rfl⟩⟩
  · split at h
    · rename_i b s' hc
      cases h
      rw [show s' = (firstCircle (reclaimOrder s.binding.pointer) s).2 by rw [hc], hbs]
      exact ⟨bs, b, rfl, hget⟩
    · rename_i s' hc
      have hs' : s' = (firstCircle (reclaimOrder s.binding.pointer) s).2 := by rw [hc]
      split at h
      · rename_i b _
        cases h
        rw [hs', hbs]
        exact ⟨bs, b, rfl, hget⟩
      · cases h
        rw [hs', hbs]
        exact ⟨bs, s.binding.pointer, rfl, hget⟩

end Sys2Proof.Machine
end

section
/-!
What a translation answers (R82, R84, R89, R99, R106), and PIN_GROUP and UNPIN_GROUP (R90).
-/
namespace Sys2Proof.Machine

variable {s t u : State}

/-! ## Lookups -/

theorem lookup_outOfService {p : Pos} {g : Group} {f : Option Code} {k : Option AccessKind} {w : Waiter}
    (h : inService s p = false) : lookupGroup p g f k w s = (.notReady, s) := if_pos h

theorem lookup_absent {p : Pos} {g : Group} {f : Option Code} {k : Option AccessKind} {w : Waiter}
    (hs : inService s p = true) (hd : dirOf s p g = none) : lookupGroup p g f k w s = (.notFitted, s) := by
  unfold lookupGroup
  rw [if_neg (by rw [hs]; decide), hd]

/-- The part of a group lookup past the directory (R82). -/
theorem lookup_held {p : Pos} {g : Group} {f : Option Code} {k : Option AccessKind} {w : Waiter} {e : DirEntry}
    (hs : inService s p = true) (hd : dirOf s p g = some e) :
    ((groupRec s p g).fetchFailed = true → lookupGroup p g f k w s = (.notFitted, s))
      ∧ ((groupRec s p g).fetchFailed = false → (groupRec s p g).noSpace = true → lookupGroup p g f k w s = (.noSpace, s))
      ∧ ∀ b, (groupRec s p g).fetchFailed = false → (groupRec s p g).noSpace = false → (groupRec s p g).block = some b →
        ((blockOf s b).state = .fetching → lookupGroup p g f k w s = (.wait, joinWait b w s))
          ∧ ((blockOf s b).state ≠ .fetching → lookupGroup p g f k w s = (.loaded b e, reference b s)) := by
  unfold lookupGroup
  rw [if_neg (by rw [hs]; decide), hd]
  dsimp only
  refine ⟨fun h => if_pos h, fun h hn => by rw [if_neg (by rw [h]; decide), if_pos hn], fun b h hn hb => ⟨fun hf => ?_, fun hf => ?_⟩⟩
  · rw [if_neg (by rw [h]; decide), if_neg (by rw [hn]; decide), hb]; exact if_pos hf
  · rw [if_neg (by rw [h]; decide), if_neg (by rw [hn]; decide), hb]; exact if_neg hf

theorem lookup_claims {p : Pos} {g : Group} {f : Option Code} {k : Option AccessKind} {w : Waiter} {e : DirEntry} {b : BlockNo}
    (hs : inService s p = true) (hd : dirOf s p g = some e) (hf : (groupRec s p g).fetchFailed = false)
    (hn : (groupRec s p g).noSpace = false) (hb : (groupRec s p g).block = none)
    (hc : claim p g false f k s = (true, t)) (ht : (groupRec t p g).block = some b) :
    lookupGroup p g f k w s = (.wait, joinWait b w t) := by
  unfold lookupGroup
  rw [if_neg (by rw [hs]; decide), hd]
  dsimp only
  rw [if_neg (by rw [hf]; decide), if_neg (by rw [hn]; decide), hb]
  dsimp only
  rw [hc]
  dsimp only
  rw [ht]

theorem lookup_noSpace {p : Pos} {g : Group} {f : Option Code} {k : Option AccessKind} {w : Waiter} {e : DirEntry}
    (hs : inService s p = true) (hd : dirOf s p g = some e) (hf : (groupRec s p g).fetchFailed = false)
    (hn : (groupRec s p g).noSpace = false) (hb : (groupRec s p g).block = none)
    (hc : claim p g false f k s = (false, t)) : lookupGroup p g f k w s = (.noSpace, t) := by
  unfold lookupGroup
  rw [if_neg (by rw [hs]; decide), hd]
  dsimp only
  rw [if_neg (by rw [hf]; decide), if_neg (by rw [hn]; decide), hb]
  dsimp only
  rw [hc]

/-! ## The word of a block set up -/

theorem makeOffer_binding {o : Offer} (bb : Binding) (hi : s.IdleLine) (hq : ∀ t, notePhase o t = t) (hv : offerValid o = true) :
    makeOffer o { s with binding := bb } = { makeOffer o s with binding := bb } := by
  cases hf : s.line.flight with
  | some fl => rw [makeOffer_busy hv hf, makeOffer_busy (s := { s with binding := bb }) hv hf]; rfl
  | none =>
    rw [makeOffer_idle hv hf (hi hf), makeOffer_idle (s := { s with binding := bb }) hv hf (hi hf)]
    unfold grant
    rw [hq, hq]
    rfl

/-- R84: the offer of the first word of a group's records. -/
def firstWord (p : Pos) (g : Group) (b : BlockNo) (e : DirEntry) : Offer :=
  { requester := .bindingStore, cls := 2, pos := linePos p, op := .readWord, addr := some e.locator, data := none,
    why := .fetchWord p g b e.locator }

theorem firstWord_valid {p : Pos} {g : Group} {b : BlockNo} {e : DirEntry} (h : e.locator ≤ 1023) :
    offerValid (firstWord p g b e) = true := by
  have hp : linePos p ≠ 0 := by revert p; decide
  show (decide (linePos p ≠ 0) && true && decide (e.locator ≤ 1023)) = true
  rw [decide_eq_true hp, decide_eq_true h]; rfl

theorem blockOf_blockSet (b : BlockNo) (p : Pos) (g : Group) (pin : Bool) (s : State) (c : BlockNo) :
    blockOf (blockSet b p g pin s) c =
      if c = b then { state := .fetching, owner := some (p, g), pinned := pin, progress := some (0, 0) } else blockOf s c := by
  obtain ⟨gs, hset, -⟩ := blockSet_binding b p g pin s
  rw [hset]
  exact Tab.get_put _ _ _ _

theorem groupRec_blockSet (b : BlockNo) (p : Pos) (g : Group) (pin : Bool) (s : State) (q : Pos) (h : Group) :
    groupRec (blockSet b p g pin s) q h =
      if q = p ∧ h = g then { groupRec s p g with block := some b }
      else if (blockOf s b).owner = some (q, h) then { groupRec s q h with block := none } else groupRec s q h := by
  obtain ⟨gs, hset, hgs⟩ := blockSet_binding b p g pin s
  rw [hset]
  exact hgs q h

theorem blockSet_keeps (b : BlockNo) (p : Pos) (g : Group) (pin : Bool) (s : State) :
    blockSet b p g pin s = { s with binding := (blockSet b p g pin s).binding }
      ∧ (blockSet b p g pin s).binding.pointer = s.binding.pointer := by
  obtain ⟨gs, hset, -⟩ := blockSet_binding b p g pin s
  rw [hset]
  exact ⟨rfl, rfl⟩

/-- R84: where the block set up is the only one of p being fetched, its first word is offered. -/
theorem offerFetch_blockSet {p : Pos} {g : Group} {b : BlockNo} {e : DirEntry} {pin : Bool} (hd : dirOf s p g = some e)
    (honly : ∀ c, c ≠ b → ∀ h, (blockOf s c).owner = some (p, h) → (blockOf s c).state ≠ .fetching)
    (hfl : ∀ fl, s.line.flight = some fl → fl.offer.why ≠ (firstWord p g b e).why) :
    offerFetch p (blockSet b p g pin s) = makeOffer (firstWord p g b e) (blockSet b p g pin s) := by
  have hkeep := (blockSet_keeps b p g pin s).1
  have hblock := blockOf_blockSet b p g pin s
  generalize blockSet b p g pin s = u at hkeep hblock
  have hdir : dirOf u p g = some e := by rw [hkeep]; exact hd
  have hline : u.line = s.line := by rw [hkeep]
  have hfetch : fetchingBlock u p = some b := by
    have hmem : ∀ b : BlockNo, b ∈ allBlocks := by decide
    unfold fetchingBlock
    generalize hx : allBlocks.find? _ = x
    cases x with
    | none =>
      have := List.find?_eq_none.mp hx b (hmem b)
      rw [hblock, if_pos rfl] at this
      simp at this
    | some c =>
      have hc := List.find?_some hx
      by_cases hcb : c = b
      · rw [hcb]
      · rw [hblock, if_neg hcb] at hc
        cases ho : (blockOf s c).owner with
        | none => rw [ho] at hc; simp at hc
        | some y =>
          obtain ⟨q, h⟩ := y
          rw [ho] at hc
          simp only [Bool.and_eq_true, decide_eq_true_eq] at hc
          obtain ⟨hstate, rfl⟩ := hc
          exact absurd hstate (honly c hcb h ho)
  have hoffer : fetchOffer u p b = some (firstWord p g b e) := by
    unfold fetchOffer nextFetchAddr
    rw [hblock, if_pos rfl]
    dsimp only
    rw [hdir]
    rfl
  have hfree : flightIs u (fun x => decide (x.why = (firstWord p g b e).why)) = false :=
    flightIs_false fun fl h => decide_eq_false (hfl fl (by rw [← hline]; exact h))
  unfold offerFetch
  rw [hfetch, Option.bind_some, hoffer]
  dsimp only
  rw [hfree]
  rfl

end Sys2Proof.Machine
end

section
/-!
What a translation answers (R82, R84, R89, R99, R106), and PIN_GROUP and UNPIN_GROUP (R90).
-/
namespace Sys2Proof.Machine

variable {s t u : State}

/-! ## Translations -/

theorem translate_loaded {p : Pos} {f : Code} {k : AccessKind} {zero : Bool} {w : Waiter} {b : BlockNo} {e : DirEntry}
    (h : lookupGroup p (groupOf f) (some f) (some k) w s = (.loaded b e, t)) :
    (e.members ≤ (memberOf f).val → translate p f k zero w s = (.notFitted, t))
      ∧ ∀ x, (memberOf f).val < e.members → (blockOf t b).rows.get (memberOf f) = some x → x.unusable = true →
        translate p f k zero w s = (.notFitted, reportRow p f k b e t) := by
  unfold translate
  rw [h]
  dsimp only
  refine ⟨fun hm => if_pos hm, fun x hm hx hu => ?_⟩
  rw [if_neg (Nat.not_le.mpr hm), hx]
  exact if_pos hu

theorem translate_refused {p : Pos} {f : Code} {b : BlockNo} {e : DirEntry} {r : FnRecord} (h : s.Bound p f b e r)
    (k : AccessKind) (w : Waiter) (hk : permits s e.policyClass r.fnClass k = false) :
    translate p f k false w s = (.refused,
      recordFault .policyRefused (some p) (some f) (some k) (policyIndex e.policyClass r.fnClass).val (reference b s)) := by
  obtain ⟨rep, hrow⟩ := h.row
  have hrow' : (blockOf (reference b s) b).rows.get (memberOf f) =
      some { unusable := false, reported := rep, record := r } := by
    rw [show blockOf (reference b s) b = { blockOf s b with referenced := true } from Tab.get_upd_same _ _ _]
    exact hrow
  have hset : permits (reference b s) e.policyClass r.fnClass k = false := hk
  unfold translate
  rw [((lookup_held h.service h.present).2.2 b h.fetched h.space h.block).2 (by rw [h.loaded]; decide)]
  dsimp only
  rw [if_neg (Nat.not_le.mpr h.member), hrow']
  dsimp only
  rw [if_neg (by decide), if_neg (by decide)]
  unfold checkPolicy
  rw [hset]
  rfl

/-- R84, R88, R89: a translation whose group holds no block claims one. -/
theorem translate_claims {p : Pos} {f : Code} {k : AccessKind} {zero : Bool} {w : Waiter} {b : BlockNo} {e : DirEntry}
    {s1 : State} (hs : inService s p = true) (hd : dirOf s p (groupOf f) = some e)
    (hf : (groupRec s p (groupOf f)).fetchFailed = false) (hn : (groupRec s p (groupOf f)).noSpace = false)
    (hb : (groupRec s p (groupOf f)).block = none) (ht : takeBlock s = (some b, s1)) (hi : s1.IdleLine) :
    translate p f k zero w s =
      (.wait, joinWait b w (emitAll (holdNotices p) (offerFetch p (blockSet b p (groupOf f) false s1)))) := by
  obtain ⟨l, ns, hoffer⟩ := offerFetch_line p (s := blockSet b p (groupOf f) false s1)
    (by rw [(blockSet_keeps b p (groupOf f) false s1).1]; exact hi)
  have hc := claim_takes (f := some f) (k := some k) (pin := false) (p := p) (g := groupOf f) ht
  have hblock : (groupRec (emitAll (holdNotices p) (offerFetch p (blockSet b p (groupOf f) false s1))) p (groupOf f)).block
      = some b := by
    rw [hoffer]
    show (groupRec (blockSet b p (groupOf f) false s1) p (groupOf f)).block = some b
    rw [groupRec_blockSet, if_pos ⟨rfl, rfl⟩]
  unfold translate
  rw [lookup_claims hs hd hf hn hb hc hblock]

theorem blockOf_joinWait (b : BlockNo) (w : Waiter) (s : State) (c : BlockNo) : blockOf (joinWait b w s) c =
    if c = b then (if (blockOf s b).waiters.contains w then blockOf s b
      else { blockOf s b with waiters := (blockOf s b).waiters ++ [w] }) else blockOf s c := Tab.get_upd _ _ _ _

/-- Settles O57: the steps of R82 in their order. -/
theorem translationIsAnswered : Obligations.TranslationIsAnswered := by
  unfold Obligations.TranslationIsAnswered
  intro s p f k zero w g
  refine ⟨fun hs => ?_, fun hs hd => ?_, fun e hs hd => ⟨fun hf => ?_, fun hf hn => ?_, fun b hf hn hb hl => ?_,
    fun hf hn hb => ⟨fun b s1 hi ht => ?_, fun s1 ht => ?_⟩, fun b hf hn hb hl => ⟨fun hm => ?_, fun x hm hx hu => ⟨fun hr => ?_, fun hr => ?_⟩⟩,
    fun b r h => ⟨fun hk => ?_, fun hz hk => ?_⟩⟩⟩
  · unfold translate; rw [lookup_outOfService hs]
  · unfold translate; rw [lookup_absent hs hd]
  · unfold translate; rw [(lookup_held hs hd).1 hf]
  · unfold translate; rw [(lookup_held hs hd).2.1 hf hn]
  · unfold translate
    rw [((lookup_held hs hd).2.2 b hf hn hb).1 hl]
    refine congrArg (Prod.mk Answer.wait) ?_
    unfold joinWait
    refine congrArg (fun h => modBlock b h s) (funext fun x => ?_)
    by_cases hw : w ∈ x.waiters
    · rw [if_pos hw, if_pos (by simpa using hw)]
    · rw [if_neg hw, if_neg (by simpa using hw)]
  · obtain ⟨bs, pt, hs1, hblocks⟩ := takeBlock_binding ht
    have hi1 : s1.IdleLine := by rw [hs1]; exact hi
    have hd1 : dirOf s1 p g = some e := by rw [hs1]; exact hd
    have hrec : ∀ q h, groupRec s1 q h = groupRec s q h := by rw [hs1]; exact fun q h => rfl
    have hblk : ∀ c, (blockOf s1 c).state = (blockOf s c).state ∧ (blockOf s1 c).owner = (blockOf s c).owner :=
      fun c => by rw [hs1]; exact ⟨(hblocks c).1, (hblocks c).2.1⟩
    have hkeep := blockSet_keeps b p g false s1
    have hB : ∀ c, blockOf (offerFetch p (blockSet b p g false s1)) c = blockOf (blockSet b p g false s1) c
        ∧ (∀ q h, groupRec (offerFetch p (blockSet b p g false s1)) q h = groupRec (blockSet b p g false s1) q h)
        ∧ (offerFetch p (blockSet b p g false s1)).binding = (blockSet b p g false s1).binding
        ∧ ∃ l ns, offerFetch p (blockSet b p g false s1) = withLine l ns { s1 with binding := (blockSet b p g false s1).binding } := by
      intro c
      obtain ⟨l, ns, h⟩ := offerFetch_line p (s := blockSet b p g false s1) (by rw [hkeep.1]; exact hi1)
      rw [h]
      exact ⟨rfl, fun _ _ => rfl, rfl, l, ns, by rw [← hkeep.1]⟩
    refine ⟨_, translate_claims hs hd hf hn hb ht hi1, ?_, fun hloc hfl honly => ?_, ?_, fun c hc => ?_, ?_, fun q h => ?_⟩
    · obtain ⟨l, ns, h⟩ := (hB b).2.2.2
      rw [h]; rfl
    · have hfl1 : ∀ fl, s1.line.flight = some fl → fl.offer.why ≠ (firstWord p g b e).why := by rw [hs1]; exact hfl
      have hoffer := offerFetch_blockSet (pin := false) hd1
        (fun c _ h ho => by rw [(hblk c).1]; exact honly c h (by rw [← (hblk c).2]; exact ho)) hfl1
      have hword : makeOffer (firstWord p g b e) (blockSet b p g false s1) =
          { makeOffer (firstWord p g b e) s1 with binding := (blockSet b p g false s1).binding } := by
        rw [hkeep.1]
        exact makeOffer_binding _ hi1 (notePhase_fetch rfl) (firstWord_valid hloc)
      show (offerFetch p (blockSet b p g false s1)).line = _
        ∧ (offerFetch p (blockSet b p g false s1)).notices ++ holdNotices p = _
      rw [hoffer, hword]
      exact ⟨rfl, rfl⟩
    · rw [blockOf_joinWait, if_pos rfl]
      show (if (blockOf (offerFetch p (blockSet b p g false s1)) b).waiters.contains w then _ else _) = _
      rw [show blockOf (emitAll (holdNotices p) (offerFetch p (blockSet b p g false s1))) b =
        blockOf (offerFetch p (blockSet b p g false s1)) b from rfl, (hB b).1, blockOf_blockSet, if_pos rfl]
      rfl
    · rw [blockOf_joinWait, if_neg hc]
      show blockOf (offerFetch p (blockSet b p g false s1)) c = _
      rw [(hB c).1, blockOf_blockSet, if_neg hc]
    · show (offerFetch p (blockSet b p g false s1)).binding.pointer = _
      rw [(hB b).2.2.1, hkeep.2]
    · show groupRec (offerFetch p (blockSet b p g false s1)) q h = _
      rw [(hB b).2.1, groupRec_blockSet, hrec, hrec, (hblk b).2]
  · obtain ⟨bs, pt, hs1, -⟩ := takeBlock_binding ht
    have hc := claim_fails (p := p) (g := g) (f := some f) (k := some k) (pin := false) ht (by rw [hs1]; exact hn)
    unfold translate
    rw [lookup_noSpace hs hd hf hn hb hc]
    refine congrArg (Prod.mk Answer.noSpace) ?_
    rw [hs1]
    rfl
  · exact (translate_loaded (((lookup_held hs hd).2.2 b hf hn hb).2 (by rw [hl]; decide))).1 hm
  · have hx' : (blockOf (reference b s) b).rows.get (memberOf f) = some x := by
      rw [show blockOf (reference b s) b = { blockOf s b with referenced := true } from Tab.get_upd_same _ _ _]; exact hx
    rw [(translate_loaded (((lookup_held hs hd).2.2 b hf hn hb).2 (by rw [hl]; decide))).2 x hm hx' hu]
    refine congrArg (Prod.mk Answer.notFitted) ?_
    unfold reportRow
    rw [hx']
    exact if_pos hr
  · have hx' : (blockOf (reference b s) b).rows.get (memberOf f) = some x := by
      rw [show blockOf (reference b s) b = { blockOf s b with referenced := true } from Tab.get_upd_same _ _ _]; exact hx
    rw [(translate_loaded (((lookup_held hs hd).2.2 b hf hn hb).2 (by rw [hl]; decide))).2 x hm hx' hu]
    refine congrArg (Prod.mk Answer.notFitted) ?_
    unfold reportRow
    rw [hx']
    exact if_neg (by rw [hr]; decide)
  · exact translate_hit h k zero w hk
  · rw [hz]
    exact translate_refused h k w hk

end Sys2Proof.Machine
end

section
/-!
PIN_GROUP and UNPIN_GROUP (R90).
-/
namespace Sys2Proof.Machine

variable {s t u : State}

theorem argGroup_eq {args : List Byte} {i : Nat} {g : Group} (h : argByte args i = g.val) : argGroup args i = some g := by
  unfold argGroup
  dsimp only
  rw [dif_pos (by omega)]
  exact congrArg some (Fin.ext h)

theorem argPosGroup_eq {args : List Byte} {p : Pos} {g : Group} (hp : argByte args 0 = p.val + 1) (hg : argByte args 1 = g.val) :
    argPosGroup args = some (p, g) := by
  unfold argPosGroup
  rw [argPos_eq hp, argGroup_eq hg]

theorem pinGroup_exec {r : Request} {rest : List Request} {p : Pos} {g : Group} {x : ResultCode} (hs : s.Serving 14 r rest)
    (hl : 2 ≤ r.args.length) (ha : argPosGroup r.args = some (p, g)) (hx : pinGroup p g s = (x, t)) :
    exec .pinGroup s = .next (settle (answer x [] t)) := by
  refine congrArg (fun y => Host.Outcome.next (settle y)) ((serve_eq hs hl _).trans ?_)
  rw [ha]
  dsimp only
  rw [hx]

theorem unpinGroup_exec {r : Request} {rest : List Request} {p : Pos} {g : Group} (hs : s.Serving 15 r rest)
    (hl : 2 ≤ r.args.length) (ha : argPosGroup r.args = some (p, g)) :
    exec .unpinGroup s = .next (settle (answer .ok [] (unpinGroup p g s))) := by
  refine congrArg (fun y => Host.Outcome.next (settle y)) ((serve_eq hs hl _).trans ?_)
  rw [ha]

/-- R90: the rows of PIN-GROUP in their order. -/
theorem pinGroup_outOfService {p : Pos} {g : Group} (h : inService s p = false) : pinGroup p g s = (.notReady, s) := if_pos h

theorem pinGroup_notFitted {p : Pos} {g : Group} (hs : inService s p = true)
    (h : ¬ ((dirOf s p g).isSome = true ∧ (groupRec s p g).fetchFailed = false)) : pinGroup p g s = (.notFitted, s) := by
  unfold pinGroup
  rw [if_neg (by rw [hs]; decide), if_pos]
  cases hd : dirOf s p g <;> simp_all

theorem pinGroup_held {p : Pos} {g : Group} {b : BlockNo} (hs : inService s p = true) (hd : (dirOf s p g).isSome = true)
    (hf : (groupRec s p g).fetchFailed = false) (hb : (groupRec s p g).block = some b) :
    ((blockOf s b).pinned = true → pinGroup p g s = (.ok, s))
      ∧ ((blockOf s b).pinned = false → 12 ≤ pinnedCount s → pinGroup p g s = (.noSpace, s))
      ∧ ((blockOf s b).pinned = false → pinnedCount s < 12 →
        pinGroup p g s = (.ok, modBlock b (fun x => { x with pinned := true }) s)) := by
  unfold pinGroup
  rw [if_neg (by rw [hs]; decide), if_neg (by rw [hf, Option.isNone_eq_false_iff.mpr hd]; decide), hb]
  dsimp only
  exact ⟨fun h => if_pos h, fun h hp => by rw [if_neg (by rw [h]; decide)]; exact if_pos hp,
    fun h hp => by rw [if_neg (by rw [h]; decide)]; exact if_neg (Nat.not_le.mpr hp)⟩

theorem pinGroup_missing {p : Pos} {g : Group} (hs : inService s p = true) (hd : (dirOf s p g).isSome = true)
    (hf : (groupRec s p g).fetchFailed = false) (hb : (groupRec s p g).block = none) :
    (12 ≤ pinnedCount s → pinGroup p g s = (.noSpace, s))
      ∧ (pinnedCount s < 12 → claim p g true none none s = (true, t) → pinGroup p g s = (.ok, t)) := by
  unfold pinGroup
  rw [if_neg (by rw [hs]; decide), if_neg (by rw [hf, Option.isNone_eq_false_iff.mpr hd]; decide), hb]
  dsimp only
  refine ⟨fun h => if_pos h, fun h hc => ?_⟩
  rw [if_neg (show ¬ Config.pinLimit ≤ pinnedCount s from Nat.not_le.mpr h), hc]

theorem unpinGroup_held {p : Pos} {g : Group} {b : BlockNo} (hb : (groupRec s p g).block = some b) (hn : anyNoSpace s = false) :
    unpinGroup p g s = modBlock b (fun x => { x with pinned := false }) s := by
  unfold unpinGroup
  rw [hb]
  dsimp only
  split
  · unfold clearNoSpace
    exact if_neg (by rw [show anyNoSpace (modBlock b (fun x => { x with pinned := false }) s) = false from hn]; decide)
  · rename_i hp
    have hsame : s.binding.blocks.upd b (fun x => { x with pinned := false }) = s.binding.blocks := by
      refine Tab.upd_eq_self _ _ ?_
      have : (s.binding.blocks.get b).pinned = false := Bool.eq_false_iff.mpr hp
      rw [← this]
    show s = { s with binding := { s.binding with blocks := _ } }
    rw [hsame]

/-- R84, R90: the lowest FREE block claimed, pinned, and its first word on offer. -/
theorem pinGroup_claims {p : Pos} {g : Group} {b : BlockNo} {e : DirEntry} {fl : Flight} (hd : dirOf s p g = some e)
    (hloc : e.locator ≤ 1023) (hfree : (blockOf s b).state = .free) (howner : (blockOf s b).owner = none)
    (hlow : ∀ x, x < b → (blockOf s x).state = .loaded) (hhigh : ∀ x, b < x → (blockOf s x).state ≠ .fetching)
    (hfl : s.line.flight = some fl) (hst : standing s .bindingStore 2 (linePos p) = none)
    (hwhy : ∀ a, fl.offer.why ≠ .fetchWord p g b a) :
    claim p g true none none s = (true, emitAll (holdNotices p)
      (setOffers (fun os => os ++ [firstWord p g b e]) (modGroup p g (fun x => { x with block := some b })
        (modBlock b (fun _ => { state := .fetching, owner := some (p, g), pinned := true, progress := some (0, 0) }) s)))) := by
  have htake := takeBlock_free hfree fun c hc => by rw [hlow c hc]; decide
  have honly : ∀ c, c ≠ b → ∀ h, (blockOf s c).owner = some (p, h) → (blockOf s c).state ≠ .fetching := by
    intro c hc h _
    rcases Nat.lt_or_gt_of_ne fun hv => hc (Fin.ext hv) with hlt | hgt
    · rw [hlow c hlt]; decide
    · exact hhigh c hgt
  have hset : blockSet b p g true s = modGroup p g (fun x => { x with block := some b })
      (modBlock b (fun _ => { state := .fetching, owner := some (p, g), pinned := true, progress := some (0, 0) }) s) := by
    unfold blockSet dropOwner
    rw [howner]
  have hoffer := offerFetch_blockSet (pin := true) hd honly fun fl' h' => by
    rw [hfl] at h'; cases h'; exact hwhy _
  rw [claim_takes htake, hoffer, hset]
  exact congrArg (fun x => (true, emitAll (holdNotices p) x)) (makeOffer_new (firstWord_valid hloc) (fl := fl) hfl hst)

/-- Settles O54: the rows of R90 in their order. -/
theorem groupsArePinned : Obligations.GroupsArePinned := by
  unfold Obligations.GroupsArePinned
  intro s r rest p g hn hp hg hl pins fitted flag
  have ha := argPosGroup_eq hp hg
  refine ⟨fun hs => ⟨fun hv => ?_, fun hv hf => ?_, fun b hv hf hb => ⟨fun hpin => ?_, fun hpin hc => ?_, fun hpin hc => ?_⟩,
    fun hv hf hb hc => ?_, fun b e fl hv hf hd hloc hb hc hfree howner hlow hhigh hfl hst hwhy => ?_⟩,
    fun hs => ⟨fun b hb hns => ?_, fun hb => ?_⟩⟩
  · exact (pinGroup_exec hs hl ha (pinGroup_outOfService hv)).trans (congrArg _ (settle_answer hn hs _))
  · exact (pinGroup_exec hs hl ha (pinGroup_notFitted hv hf)).trans (congrArg _ (settle_answer hn hs _))
  · exact (pinGroup_exec hs hl ha ((pinGroup_held hv hf.1 hf.2 hb).1 hpin)).trans (congrArg _ (settle_answer hn hs _))
  · exact (pinGroup_exec hs hl ha ((pinGroup_held hv hf.1 hf.2 hb).2.1 hpin hc)).trans (congrArg _ (settle_answer hn hs _))
  · refine (pinGroup_exec hs hl ha ((pinGroup_held hv hf.1 hf.2 hb).2.2 hpin hc)).trans (congrArg _ ?_)
    rw [hs.answer_in]
    exact settle_eq hn
  · exact (pinGroup_exec hs hl ha ((pinGroup_missing (t := s) hv hf.1 hf.2 hb).1 hc)).trans (congrArg _ (settle_answer hn hs _))
  · intro word t hrest
    refine (pinGroup_exec hs hl ha ((pinGroup_missing hv hf.1 hf.2 hb).2 hc
      (pinGroup_claims hd hloc hfree howner hlow hhigh hfl hst hwhy))).trans (congrArg _ ?_)
    rw [hs.answer_in]
    exact (acts_holdNotices (s := t) hn hv hrest).settle hn (by decide)
  · refine (unpinGroup_exec hs hl ha).trans (congrArg _ ?_)
    rw [unpinGroup_held hb hns, hs.answer_in]
    exact settle_eq hn
  · refine (unpinGroup_exec hs hl ha).trans (congrArg _ ?_)
    rw [show unpinGroup p g s = s by unfold unpinGroup; rw [hb]]
    exact settle_answer hn hs _

end Sys2Proof.Machine
end

section
/-!
POWER_ON_RESET and DEVICE_RESET (R2, R35, R37, R57, R118, R128, R130, R187, R189, R196).
-/
namespace Sys2Proof.Machine

variable {s t u : State}

/-! ## POWER_ON_RESET -/

/-- R128: the trip of a group whose lines are off already, none in HOLD and no check in the slot. -/
theorem tripGroup_unlit {g : FaultGroup} (hslot : s.check.slot = none)
    (hoff : ∀ k, (lineRec s k).onCount = 0 ∧ (lineRec s k).settle = 2 ∧ (lineRec s k).hold = none) :
    tripGroup g s = emitAll [.faultRequest (faultOf .groupTrip none none none (groupDetail g))] (setGroupTrip g true s) := by
  have hrec : ∀ k, lineRec (setGroupTrip g true s) k = lineRec s k := by cases g <;> exact fun _ => rfl
  obtain ⟨m, hm, hget⟩ := linesOff_noSlot g (s := setGroupTrip g true s) (by cases g <;> exact hslot)
  have hlines : m = (setGroupTrip g true s).direct.lines := by
    refine Tab.ext_get fun k => ?_
    rw [hget, hrec]
    obtain ⟨h1, h2, h3⟩ := hoff k
    split
    · exact (show _ = lineRec s k by rw [← h1, ← h2, ← h3]).trans (hrec k).symm
    · exact (hrec k).symm
  have hlit : (groupLines g).filter (fun k => decide ((lineRec s k).onCount ≠ 0)) = [] :=
    List.filter_eq_nil_iff.mpr fun k _ => by rw [(hoff k).1]; decide
  unfold tripGroup
  dsimp only
  rw [hlit]
  refine congrArg (emitAll _) (hm.trans ?_)
  rw [hlines]
  rfl

/-- What a power-on reset leaves, the Direct Line Unit and the fault list as they are given. -/
def onAgain (pins : Pins) (cut : Bool) (d : Direct) (ns : List Notice) (s : State) : State :=
  { poweredOn pins cut s with direct := d, notices := ns }

theorem assertIf_onAgain {pins : Pins} {cut a ta b tb : Bool} {ns : List Notice} (x : Bool) :
    (ta = false → assertIf x .fa (onAgain pins cut { faultA := false, tripA := ta, faultB := b, tripB := tb } ns s) =
        onAgain pins cut { faultA := x, tripA := x, faultB := b, tripB := tb }
          (ns ++ if x then [.faultRequest (faultOf .groupTrip none none none 0)] else []) s)
      ∧ (tb = false → assertIf x .fb (onAgain pins cut { faultA := a, tripA := ta, faultB := false, tripB := tb } ns s) =
        onAgain pins cut { faultA := a, tripA := ta, faultB := x, tripB := x }
          (ns ++ if x then [.faultRequest (faultOf .groupTrip none none none 1)] else []) s) := by
  have hoff : ∀ d : Direct, d.lines = Tab.fill {} → ∀ k, (lineRec (onAgain pins cut d ns s) k).onCount = 0
      ∧ (lineRec (onAgain pins cut d ns s) k).settle = 2 ∧ (lineRec (onAgain pins cut d ns s) k).hold = none := by
    intro d hd k
    have : lineRec (onAgain pins cut d ns s) k = {} := (congrArg (fun l => Tab.get l k) hd).trans (Tab.get_fill _ _)
    rw [this]
    exact ⟨rfl, rfl, rfl⟩
  refine ⟨fun h => ?_, fun h => ?_⟩ <;> subst h <;> cases x
  · show onAgain _ _ _ ns s = onAgain _ _ _ (ns ++ []) s
    rw [List.append_nil]
  · exact (tripGroup_unlit (s := onAgain pins cut { faultA := true, tripA := false, faultB := b, tripB := tb } ns s) rfl
      (hoff _ rfl)).trans rfl
  · show onAgain _ _ _ ns s = onAgain _ _ _ (ns ++ []) s
    rw [List.append_nil]
  · exact (tripGroup_unlit (s := onAgain pins cut { faultA := a, tripA := ta, faultB := true, tripB := false } ns s) rfl
      (hoff _ rfl)).trans rfl

theorem powerOn_exec (pins : Pins) (cut : Bool) (s : State) : exec (.powerOnReset pins cut) s = .next { poweredOn pins cut s with
    direct := { faultA := pins.fa, tripA := pins.fa, faultB := pins.fb, tripB := pins.fb }
    policy := { faults := (if pins.fa then [faultOf .groupTrip none none none 0] else [])
      ++ (if pins.fb then [faultOf .groupTrip none none none 1] else []) } } := by
  have ha := (assertIf_onAgain (pins := pins) (cut := cut) (s := s) (a := false) (ta := false) (b := false) (tb := false)
    (ns := []) pins.fa).1 rfl
  have hb := (assertIf_onAgain (pins := pins) (cut := cut) (s := s) (a := pins.fa) (ta := pins.fa) (b := false) (tb := false)
    (ns := [] ++ if pins.fa then [.faultRequest (faultOf .groupTrip none none none 0)] else []) pins.fb).2 rfl
  refine congrArg Host.Outcome.next ?_
  show settle (assertIf pins.fb .fb (assertIf pins.fa .fa (onAgain pins cut {} [] s))) = _
  rw [ha, hb]
  have hone := fun (r : FaultRecord) (x : State) (hx : x.notices = []) => acts_fault (s := x) r hx
  cases pins.fa <;> cases pins.fb
  · exact (Acts.nil _).settle (s := onAgain pins cut {} [] s) rfl (by decide)
  · exact (hone _ _ rfl).settle (s := onAgain pins cut { faultB := true, tripB := true } [] s) rfl (by decide)
  · exact (hone _ _ rfl).settle (s := onAgain pins cut { faultA := true, tripA := true } [] s) rfl (by decide)
  · exact (Acts.cons (hone _ _ rfl) (hone _ _ rfl)).settle
      (s := onAgain pins cut { faultA := true, tripA := true, faultB := true, tripB := true } [] s) rfl (by decide)

/-! ## DEVICE_RESET -/

theorem lineRec_afterReset (straps : Fin 4) (s : State) (k : LineNo) :
    lineRec (deviceReset straps s) k =
      if tripped s k then { lineRec s k with exercise := false, hold := none }
      else { lineRec s k with exercise := false, hold := some s.now, pendingOn := (lineRec s k).onCount } :=
  lineRec_deviceReset straps s k

/-- R123: after a device reset the Command Table commands every line to level 0. -/
theorem lineOnCount_deviceReset (straps : Fin 4) (s : State) (k : LineNo) : lineOnCount (deviceReset straps s) k = 0 := by
  have hcode : codeLevel (deviceReset straps s) (wiredOf (deviceReset straps s) k).code = 0 := by
    unfold codeLevel
    split
    · rename_i f _; exact congrArg CommandEntry.value (Tab.get_fill ({} : CommandEntry) f)
    · rfl
  have hlevel : levelOf (deviceReset straps s) k = 0 := by
    unfold levelOf
    rw [if_neg, hcode]
    rw [lineRec_afterReset]
    split <;> exact Bool.false_ne_true
  unfold lineOnCount
  rw [hlevel]
  unfold onCountOf
  simp

theorem resetNow_eq (straps : Fin 4) (s : State) (hopen : ∀ fl, s.line.flight = some fl → fl.ended = false) :
    ∃ m : Tab Line 8, resetNow straps s = makeOffer (sweepOffer 3) (setLines m (deviceReset straps s))
      ∧ (deviceReset straps s).line = { flight := s.line.flight.map fun fl => { fl with discard := true } }
      ∧ ∀ k, m.get k =
        if tripped s k then { lineRec s k with exercise := false, hold := none, pendingOn := 0 }
        else { lineRec s k with exercise := false, hold := some s.now, pendingOn := (lineRec s k).onCount } := by
  obtain ⟨m, hm, hget⟩ := recomputeWhere_eq (s := deviceReset straps s) (fun s k => (lineRec s k).hold.isNone)
    fun l k h => by rw [show lineRec (setLines l (deviceReset straps s)) k = lineRec (deviceReset straps s) k from h]
  refine ⟨m, congrArg (makeOffer (sweepOffer 3)) hm, ?_, fun k => ?_⟩
  · show lineAtReset s.line = _
    unfold lineAtReset
    cases hf : s.line.flight with
    | none => rfl
    | some fl =>
      refine congrArg (fun x => ({ flight := x } : LineCtl)) ?_
      exact if_neg (by rw [hopen fl hf]; decide)
  · rw [hget, lineOnCount_deviceReset, lineRec_afterReset]
    by_cases h : tripped s k = true
    · rw [if_pos h, if_pos h, if_pos ⟨rfl, rfl⟩]
    · rw [if_neg h, if_neg h, if_neg fun hc => nomatch hc.2]

theorem deviceReset_exec {straps : Fin 4} {m : Time} (h : resetMoment s = some m) :
    exec (.deviceReset straps) s = .next (settle (resetNow straps (advanceTo m s))) := by
  show Host.Outcome.next (atMoment (resetMoment s) (fun s => settle (resetNow straps s)) s) = _
  rw [h, atMoment]

/-- Settles O45: what the two resets leave. -/
theorem partResets : Obligations.PartResets := by
  unfold Obligations.PartResets
  refine ⟨fun s pins cut => powerOn_exec pins cut s, fun s straps t hn ht hopen => ?_⟩
  intro s1
  have hmoment : resetMoment s = some (if s.management.resetSent then s.now else t + ms 100) := by
    unfold resetMoment; rw [ht]; rfl
  have hexec : exec (.deviceReset straps) s = .next (settle (resetNow straps s1)) := deviceReset_exec hmoment
  obtain ⟨m, hm, hline, hget⟩ := resetNow_eq straps s1 hopen
  refine ⟨setLines m (deviceReset straps s1), hexec.trans (congrArg _ ?_), ?_, hget⟩
  · rw [hm]
    exact settle_makeOffer (by decide) rfl (fun _ => by rw [show (setLines m (deviceReset straps s1)).line = _ from hline]) rfl
  · show setLines m (deviceReset straps s1) = _
    unfold setLines deviceReset
    rw [show lineAtReset s1.line = _ from hline]
    rfl

end Sys2Proof.Machine
end

section
/-!
Deliveries to WIRED-fed functions, which the Delivery Unit makes itself (R97), and the windows that bring them about (R147).
-/
namespace Sys2Proof.Machine

variable {s t u : State}

/-- R97: the state with the value v delivered to the WIRED-fed (p, f). -/
def wiring (p : Pos) (f : Code) (v : Nat) (b : BlockNo) (s : State) : State := becomeDelivered p f v (reference b s)

/-- What the Delivery Unit finds that delivers the one value due at p, v to the lamp f, itself: its function is bound to a
WIRED-fed row whose access is admitted, no reply and no check waits for it, and nothing is due afterwards. -/
structure State.WiredDue (s : State) (p : Pos) (f : Code) (v : Nat) (b : BlockNo) (e : DirEntry) (r : FnRecord) : Prop where
  bound : s.Bound p f b e r
  wired : r.feed = .wired
  lamp : kindOf f = .lamp
  admitted : v = 0 ∨ permits s e.policyClass r.fnClass (deliveryKind s p f) = true
  due : s.OneDue p f v
  noOverride : s.delivery.pendingOverride = none
  noChecks : ∀ src, nodeCheck s p src = none
  after : (wiring p f v b s).AtRest p

variable {p : Pos} {f : Code} {v : Nat} {b : BlockNo} {e : DirEntry} {r : FnRecord}

theorem deliverOne_wired (h : s.WiredDue p f v b e r) :
    deliverOne p f v s = (false, emit (.deliveredChanged p f) (wiring p f v b s)) := by
  have htr : translate p f (deliveryKind s p f) (decide (v = 0)) (.delivery p f (deliveryKind s p f)) s =
      (.hit r, reference b s) := translate_hit h.bound _ _ _ (h.admitted.imp (fun hv => decide_eq_true hv) id)
  have hreply : replyOverride (overrideIs p f v) .ok (wiring p f v b s) = wiring p f v b s := by
    unfold replyOverride
    rw [show (wiring p f v b s).delivery.pendingOverride = none from h.noOverride]
  unfold deliverOne
  dsimp only
  rw [htr]
  dsimp only
  rw [h.wired]
  exact congrArg (fun x => (false, emit (.deliveredChanged p f) x)) hreply

theorem secondClass_lamp (h : kindOf f = .lamp) (v : Nat) : secondClass f v = false := by
  unfold secondClass
  rw [h]
  rfl

/-- A look at the offers does not see the notices. -/
theorem State.AtRest.emitAll (h : s.AtRest p) (ns : List Notice) : (Machine.emitAll ns s).AtRest p :=
  ⟨⟨h.stops, h.deliveries, h.management, h.first, h.second⟩, h.reads⟩

/-- R97: a scan past a WIRED-fed function goes on. -/
theorem scanCodes_wired (h : s.WiredDue p f v b e r) {fs : List Code} (hf : f ∈ fs) :
    scanCodes p false fs s = emit (.deliveredChanged p f) (wiring p f v b s) := by
  have hone : ∀ g, offerable s p false g = if g = f then some v else none := by
    intro g; rw [h.due.deliveries, secondClass_lamp h.lamp]; simp
  obtain ⟨xs, ys, rfl, hx⟩ := List.eq_append_cons_of_mem hf
  rw [scanCodes_skip false xs (f :: ys) fun g hg => by rw [hone, if_neg]; rintro rfl; exact hx hg]
  have hoff : offerable s p false f = some v := by rw [hone, if_pos rfl]
  unfold scanCodes
  rw [hoff]
  dsimp only
  rw [deliverOne_wired h]
  exact scanCodes_none false ys fun g _ => h.after.deliveries false g

theorem formOffer_wired (h : s.WiredDue p f v b e r) :
    formOffer p false s = emit (.deliveredChanged p f) (wiring p f v b s) := by
  have hstops : tryStops p (stopOrder s p) s = (false, s) :=
    tryStops_held _ (by rw [h.due.stops]; intro o ho; cases ho)
  unfold formOffer
  rw [if_neg Bool.false_ne_true, hstops]
  exact scanCodes_wired h (mem_codesAfter _ _)

theorem scan_wired (h : s.WiredDue p f v b e r) : scan p false s = emit (.deliveredChanged p f) (wiring p f v b s) := by
  unfold scan
  dsimp only
  rw [if_neg (by rw [h.bound.service]; decide),
    show Machine.standing s .deliveryUnit (if false = true then 1 else 0) (linePos p) = none from h.due.first]
  exact formOffer_wired h

theorem deliveredChanged_none (h : ∀ src, nodeCheck s p src = none) :
    deliveredToCheck p f .opportunistic (deliveredToCheck p f .slot s) = s := by
  have hslot : deliveredToCheck p f .slot s = s := by unfold deliveredToCheck; rw [h]
  rw [hslot]
  unfold deliveredToCheck
  rw [h]

theorem acts_deliveredChanged (h : s.WiredDue p f v b e r) (hn : s.notices = []) :
    Acts 1 [.deliveredChanged p f] (wiring p f v b s) (wiring p f v b s) :=
  Acts.silent hn (deliveredChanged_none fun src => (by cases src <;> rfl : nodeCheck (wiring p f v b s) p src = nodeCheck s p src).trans
    (h.noChecks src)) hn

/-- R96, R97: being told to look again at p delivers its one value due. -/
theorem acts_holdNotices_wired (h : s.WiredDue p f v b e r) (hn : s.notices = []) :
    Acts 4 (holdNotices p) s (wiring p f v b s) :=
  Acts.cons (k := 2) (l := 2) (Acts.run (ns := [.deliveredChanged p f]) hn (scan_wired h) hn (acts_deliveredChanged h hn))
    (Acts.cons (k := 1) (l := 1) (Acts.silent hn (scan_atRest h.after h.bound.service true) hn)
      (Acts.silent hn (classSix_noReads h.after.reads h.bound.service) hn))

/-- R97: a delivery at one position leaves another with nothing to offer. -/
theorem State.AtRest.wiring {q : Pos} (h : s.AtRest q) (hq : q ≠ p) : (Machine.wiring p f v b s).AtRest q := by
  refine (h.reference b).withEntries (st := (Machine.wiring p f v b s).delivery.status) (pt := s.port) (fs := s.policy.faults) fun g => ?_
  have hget : ((Machine.wiring p f v b s).delivery.status.get q).get g = entryOf (Machine.reference b s) q g :=
    congrArg (fun x => Tab.get x g) (Tab.get_upd_ne _ _ hq)
  rw [hget]
  exact EntryRests.refl _

theorem acts_restNotices_wired (h : s.WiredDue p f v b e r) (hn : s.notices = [])
    (hrest : ∀ q, q ≠ p → inService s q = true → s.AtRest q) : Acts 13 (restNotices s) s (wiring p f v b s) :=
  acts_restNotices_one hn hn h.bound.service (acts_holdNotices_wired h hn) (fun _ => rfl) hrest
    fun q hq hs => (hrest q hq hs).wiring hq

/-! ## Offers formed anew -/

theorem withdraw_none {x : Requester} {c : ArbClass} {q : LinePos} (h : standing s x c q = none) : withdraw x c q s = s := by
  have hall := List.find?_eq_none.mp h
  have hoffers : s.line.offers.filter (fun o => !(decide (o.requester = x) && decide (o.cls = c) && decide (o.pos = q))) =
      s.line.offers :=
    List.filter_eq_self.mpr fun o ho => by rw [Bool.not_eq_true', Bool.eq_false_iff]; exact hall o ho
  exact congrArg (fun os => ({ s with line := { s.line with offers := os } } : State)) hoffers

theorem reform_atRest (h : s.AtRest p) (second : Bool) (g : Code) : reform p second g s = s := by
  have hw : withdraw .deliveryUnit (if second then 1 else 0) (linePos p) s = s := by
    cases second
    · exact withdraw_none h.first
    · exact withdraw_none h.second
  unfold reform
  dsimp only
  rw [hw, h.deliveries]
  exact formOffer_atRest h second

theorem reform_wired (h : s.WiredDue p f v b e r) (second : Bool) :
    reform p second f s = s ∨ reform p second f s = emit (.deliveredChanged p f) (wiring p f v b s) := by
  cases second with
  | false =>
    right
    have hoff : offerable s p false f = some v := by rw [h.due.deliveries, secondClass_lamp h.lamp]; simp
    unfold reform
    dsimp only
    rw [withdraw_none (c := if false = true then 1 else 0) h.due.first, hoff]
    dsimp only
    rw [deliverOne_wired h]
    exact formOffer_atRest (h.after.emitAll [.deliveredChanged p f]) false
  | true =>
    left
    have hnone : ∀ g, offerable s p true g = none := h.due.noneOf (by rw [secondClass_lamp h.lamp]; decide)
    unfold reform
    dsimp only
    rw [withdraw_none (c := if true = true then 1 else 0) h.due.second, hnone]
    dsimp only
    unfold formOffer
    rw [if_pos rfl, h.due.management]
    exact scanCodes_none true _ fun g _ => hnone g

/-- Forming the offers of one function anew delivers the value that is due, or leaves it to the look that follows. -/
theorem reformWhere_wired (h : s.WiredDue p f v b e r) :
    reformWhere (deliversOneOf [(p, f)]) s = s
      ∨ reformWhere (deliversOneOf [(p, f)]) s = emit (.deliveredChanged p f) (wiring p f v b s) := by
  unfold reformWhere
  refine List.foldlRecOn (motive := fun t => t = s ∨ t = emit (.deliveredChanged p f) (wiring p f v b s)) _ _ (Or.inl rfl)
    fun t ht o ho => ?_
  have hone := (List.mem_filter.mp ho).2
  unfold deliversOneOf at hone
  split at hone
  · rename_i q g v' k i hw
    simp only [List.any_cons, List.any_nil, Bool.or_false, Bool.and_eq_true, decide_eq_true_eq] at hone
    obtain ⟨rfl, rfl⟩ := hone
    rcases ht with rfl | rfl
    · exact reform_wired h _
    · exact Or.inr (reform_atRest (h.after.emitAll [.deliveredChanged p f]) _ f)
  · cases hone

/-- R147: a closing window that covers one WIRED-fed lamp has its target beneath delivered. -/
theorem acts_takeWindow_wired (h : s.WiredDue p f v b e r) (hn : s.notices = [])
    (hrest : ∀ q, q ≠ p → inService s q = true → s.AtRest q) {x : Notice} {t : State} (hnt : t.notices = [])
    (hx : runNotice x t = rescanAll (reformWhere (deliversOneOf [(p, f)]) s)) : Acts 14 [x] t (wiring p f v b s) := by
  have hrest' : (wiring p f v b s).Resting := fun q hs => by
    by_cases hq : q = p
    · subst hq; exact h.after
    · exact (hrest q hq hs).wiring hq
  rcases reformWhere_wired h with hr | hr
  · rw [hr, rescanAll_eq] at hx
    exact Acts.run hnt hx hn (acts_restNotices_wired h hn hrest)
  · rw [hr, rescanAll_eq, emit_eq, emitAll_emitAll] at hx
    exact Acts.run hnt hx hn (Acts.cons (k := 1) (l := 12) (acts_deliveredChanged h hn)
      (acts_restNotices (s := wiring p f v b s) hn hrest'))

end Sys2Proof.Machine
end

section
/-!
NODE_LAMP_READING_DUE, NODE_LAMP_CHECK_EXPIRY and EXERCISE_SLOT_EXPIRY (R142, R143, R144, R147).
-/
namespace Sys2Proof.Machine

variable {s t u : State}

/-! ## Node-lamp readings and checks -/

theorem nodeLampReadingDue_exec {p : Pos} {src : CheckSource} {c : NodeLampCheck} {m : Time} (hc : nodeCheck s p src = some c)
    (hm : c.nextReading = some m) :
    exec (.nodeLampReadingDue p src) s = .next (settle (startReading p src (advanceTo m s))) := by
  show Host.Outcome.next (atMoment ((nodeCheck s p src).bind fun c => c.nextReading) (fun s => settle (startReading p src s)) s) = _
  rw [hc, Option.bind_some, hm, atMoment]

theorem nodeCheck_advanceTo (m : Time) (s : State) (p : Pos) (src : CheckSource) :
    nodeCheck (advanceTo m s) p src = nodeCheck s p src := by cases src <;> rfl

theorem nodeCheck_setNodeCheck (p : Pos) (src : CheckSource) (c : Option NodeLampCheck) (s : State) (x : CheckSource) :
    nodeCheck (setNodeCheck p src c s) p x = if x = src then c else nodeCheck s p x := by
  cases src <;> cases x <;> simp [nodeCheck, setNodeCheck, Tab.get_put]

theorem startReading_due {p : Pos} {src : CheckSource} {c : NodeLampCheck} (hc : nodeCheck s p src = some c)
    (hp : passed s c.nextReading = true) : startReading p src s = emit (.nodeLampOffer p)
      (setNodeCheck p src (some { c with nextReading := none, step := some .supply, supply := none }) s) := by
  unfold startReading
  rw [hc]
  exact if_pos hp

/-- R143: the reading the one check of a position asks for. -/
theorem wantedReading_supply {p : Pos} {src : CheckSource} {c : NodeLampCheck} (hc : nodeCheck s p src = some c)
    (hstep : c.step = some .supply) (hother : ∀ x, x ≠ src → nodeCheck s p x = none) :
    wantedReading s p = some (src, c.code, .supply, 63) := by
  unfold wantedReading
  cases src with
  | slot => dsimp only; rw [hc]; dsimp only; rw [hstep]; rfl
  | opportunistic =>
    dsimp only
    rw [hother .slot (by decide), hc]
    dsimp only
    rw [hstep]
    rfl

theorem wantedReading_none {p : Pos} (h : ∀ x, nodeCheck s p x = none) : wantedReading s p = none := by
  unfold wantedReading
  dsimp only
  rw [h, h]
  rfl

theorem readingOffer_valid (q : Requester) (p : Pos) (src : CheckSource) (f : Code) (step : ReadingStep) {a : Nat} (h : a ≤ 63) :
    offerValid (readingOffer q p (src, f, step, a)) = true := by
  have hp : decide (linePos p ≠ 0) = true := by revert p; decide
  exact congrArg₂ (fun x y => x && true && y) hp (decide_eq_true h)

theorem nodeLampOffer_running {p : Pos} (hs : stateOf s p = .running) :
    (wantedReading s p = none → nodeLampOffer p s = s)
      ∧ ∀ x, wantedReading s p = some x → readingInFlight s p = false → standing s .loadCheckUnit 4 (linePos p) = none →
        nodeLampOffer p s = makeOffer (readingOffer .loadCheckUnit p x) s := by
  unfold nodeLampOffer
  rw [hs]
  dsimp only
  refine ⟨fun hw => ?_, fun x hw hf hst => ?_⟩
  · rw [hw]; exact ite_self _
  · rw [hf, hw, hst]
    rfl

theorem nodeLampCheckExpiry_exec {p : Pos} {src : CheckSource} {c : NodeLampCheck} {m : Time} (hc : nodeCheck s p src = some c)
    (hm : c.expiry = m) : exec (.nodeLampCheckExpiry p src) s = .next (settle (expireCheck p src (advanceTo m s))) := by
  show Host.Outcome.next (atMoment ((nodeCheck s p src).map fun c => c.expiry) (fun s => settle (expireCheck p src s)) s) = _
  rw [hc, Option.map_some, hm, atMoment]

theorem expireCheck_eq {p : Pos} {src : CheckSource} {c : NodeLampCheck} (hc : nodeCheck s p src = some c) :
    expireCheck p src s = emitAll
      [match c.lastClass with
        | some cls => .writeResult p c.code (classResult cls true)
        | none => .deferUnchecked p c.code, .nodeLampEnded p src, .nodeLampOffer p]
      (withdrawReading p src (setNodeCheck p src none s)) := by
  have hemit : ∀ x : Notice, finishCheck p src (emit x s) =
      emitAll [x, .nodeLampEnded p src, .nodeLampOffer p] (withdrawReading p src (setNodeCheck p src none s)) := by
    intro x
    have hin : withdrawReading p src (setNodeCheck p src none (emit x s)) =
        emit x (withdrawReading p src (setNodeCheck p src none s)) := by cases src <;> rfl
    unfold finishCheck
    rw [hin, emit_eq, emitAll_emitAll]
    rfl
  unfold expireCheck
  rw [hc]
  dsimp only
  cases c.lastClass with
  | none => exact hemit _
  | some cls => exact hemit _

/-- R144: an opportunistic check that is over, no code waiting behind it and no other check about. -/
theorem acts_checkOver {p : Pos} (hn : s.notices = []) (hs : stateOf s p = .running) (hnone : ∀ x, nodeCheck s p x = none)
    (hp : s.check.oppPending.get p = []) : Acts 2 [.nodeLampEnded p .opportunistic, .nodeLampOffer p] s s := by
  have hended : nodeLampEnded p .opportunistic s = s := by
    have hopp : (s.check.oppChecks.get p).isSome = false := by
      rw [show s.check.oppChecks.get p = none from hnone .opportunistic]; rfl
    have hin : inService s p = true := by unfold inService; rw [hs]
    have hpend : setPending p [] s = s := by
      unfold setPending
      rw [← hp, Tab.put_get_self]
    unfold nodeLampEnded
    dsimp only
    rw [if_neg (by rw [hopp, hin]; decide), hp]
    exact hpend
  exact Acts.cons (k := 1) (l := 1) (Acts.silent hn hended hn)
    (Acts.silent hn ((nodeLampOffer_running hs).1 (wantedReading_none hnone)) hn)

/-! ## A circuit's check that runs out of time -/

theorem exerciseSlotExpiry_exec {sl : Slot} {m : Time} (hsl : s.check.slot = some sl) (hm : sl.expiry = m) :
    exec .exerciseSlotExpiry s = .next (settle (expireSlot (advanceTo m s))) := by
  show Host.Outcome.next (atMoment (s.check.slot.map fun sl => sl.expiry) (fun s => settle (expireSlot s)) s) = _
  rw [hsl, Option.map_some, hm, atMoment]

theorem expireSlot_circuit {sl : Slot} {k : LineNo} (hsl : s.check.slot = some sl) (ht : sl.entry.target = .circuit k) :
    (∀ o, (circuitRec s k).last = some o → expireSlot s = emit (.slotEnded (.circuit k)) (reportOutcome k o s))
      ∧ ((circuitRec s k).last = none → expireSlot s =
        emitAll (((circuitRec s k).contributors.map fun c => Notice.deferUnchecked c.pos c.code) ++ [.slotEnded (.circuit k)]) s) := by
  unfold expireSlot
  rw [hsl]
  dsimp only
  rw [ht]
  dsimp only
  refine ⟨fun o ho => by rw [ho], fun ho => ?_⟩
  rw [ho]
  dsimp only
  rw [emit_eq, emitAll_emitAll]
  unfold coveredBy
  dsimp only
  rw [List.map_map]
  rfl

/-- R92: (p, f) is deferred where it is UNCHECKED. -/
def deferring (t : State) (c : Contributor) : State :=
  if (entryOf t c.pos c.code).result = .unchecked then State.resulting c.pos c.code .deferred t else t

theorem resulting_entry (p : Pos) (f : Code) (r : CheckResult) (s : State) (q : Pos) (g : Code) :
    entryOf (State.resulting p f r s) q g =
      if q = p ∧ g = f then { entryOf s p f with result := r } else entryOf s q g := by
  unfold State.resulting
  split
  · rename_i h
    split
    · rename_i hq; obtain ⟨rfl, rfl⟩ := hq; rw [← h]
    · rfl
  · obtain ⟨pt, hpt⟩ := placeResultFrame_port p (groupOf f) (halfOf f) (modEntry p f (fun x => { x with result := r }) s)
    rw [hpt]
    exact entryOf_modEntry _ _ _ _ _ _

end Sys2Proof.Machine
end
section
/-!
EXERCISE_SLOT_EXPIRY and the close of its window (R147).
-/
namespace Sys2Proof.Machine

variable {s t u : State}

/-! ## Contributors deferred -/

/-- The results of t are those of s, but that some UNCHECKED ones are deferred. -/
def DeferredFrom (s t : State) : Prop := Marked t s ∧ ∀ q g, (entryOf t q g).result = (entryOf s q g).result
  ∨ ((entryOf s q g).result = .unchecked ∧ (entryOf t q g).result = .deferred)

theorem DeferredFrom.refl (s : State) : DeferredFrom s s := ⟨Marked.refl s, fun _ _ => Or.inl rfl⟩

theorem DeferredFrom.step (h : DeferredFrom s t) (c : Contributor) : DeferredFrom s (deferring t c)
    ∧ deferring t c = if (entryOf s c.pos c.code).result = .unchecked then State.resulting c.pos c.code .deferred t else t := by
  obtain ⟨hm, hres⟩ := h
  unfold deferring
  by_cases ht : (entryOf t c.pos c.code).result = .unchecked
  · have hs : (entryOf s c.pos c.code).result = .unchecked := by
      rcases hres c.pos c.code with h | h
      · exact h.symm.trans ht
      · exact h.1
    rw [if_pos ht, if_pos hs]
    refine ⟨⟨(resulting_marked _ _ _ _).trans hm, fun q g => ?_⟩, rfl⟩
    rw [resulting_entry]
    split
    · rename_i hq; obtain ⟨rfl, rfl⟩ := hq; exact Or.inr ⟨hs, rfl⟩
    · exact hres q g
  · rw [if_neg ht]
    refine ⟨⟨hm, hres⟩, ?_⟩
    split
    · rename_i hs
      rcases hres c.pos c.code with h | h
      · exact absurd (h.trans hs) ht
      · unfold State.resulting; rw [if_pos h.2]
    · rfl

theorem foldl_deferring (cs : List Contributor) (h : DeferredFrom s t) : cs.foldl deferring t =
    (cs.filter fun c => decide ((entryOf s c.pos c.code).result = .unchecked)).foldl
      (fun t c => State.resulting c.pos c.code .deferred t) t := by
  induction cs generalizing t with
  | nil => rfl
  | cons c cs ih =>
    rw [List.foldl_cons, ih (h.step c).1, (h.step c).2]
    by_cases hs : (entryOf s c.pos c.code).result = .unchecked
    · rw [if_pos hs, List.filter_cons_of_pos (by simpa using hs), List.foldl_cons]
    · rw [if_neg hs, List.filter_cons_of_neg (by simpa using hs)]

theorem acts_deferUnchecked {p : Pos} {f : Code} (hn : s.notices = [])
    (h : (entryOf s p f).result = .unchecked → stateOf s p ≠ .vacant ∧ stateOf s p ≠ .exercising) :
    Acts 3 [.deferUnchecked p f] s (if (entryOf s p f).result = .unchecked then State.resulting p f .deferred s else s) := by
  by_cases hu : (entryOf s p f).result = .unchecked
  · obtain ⟨hv, he⟩ := h hu
    rw [if_pos hu]
    have hrun : ∀ (n : Nat) (rest : List Notice), drain (n + 1) ([.deferUnchecked p f] ++ rest) s =
        drain (n + 1) ([.writeResult p f .deferred] ++ rest) s := by
      intro n rest
      have : runNotice (.deferUnchecked p f) = fun t => if unchecked t p f then
          runNotice (.writeResult p f .deferred) t else t := rfl
      have hun : ∀ ns, unchecked { s with notices := ns } p f = true := fun _ => decide_eq_true hu
      simp only [drain, List.cons_append, List.nil_append, this, hun, if_true]
    have hact := acts_writeResult (s := s) (p := p) f .deferred hn hv he
    intro n rest
    obtain ⟨m, hm, heq⟩ := hact n rest
    exact ⟨m, hm, (hrun (n + 2) rest).trans heq⟩
  · rw [if_neg hu]
    refine (Acts.silent hn ?_ hn).mono (by decide)
    show deferUnchecked p f s = s
    exact if_neg (by simpa [unchecked] using hu)

theorem acts_deferring {cs : List Contributor} (hn : s.notices = [])
    (h : ∀ c ∈ cs, (entryOf s c.pos c.code).result = .unchecked → stateOf s c.pos ≠ .vacant ∧ stateOf s c.pos ≠ .exercising) :
    Acts (3 * cs.length) (cs.map fun c => .deferUnchecked c.pos c.code) s (cs.foldl deferring s)
      ∧ Marked (cs.foldl deferring s) s := by
  have hfold := Acts.foldl (k := 3) (s := s) (DeferredFrom s) (fun c => [Notice.deferUnchecked c.pos c.code])
    deferring cs (fun c hc t ht => ⟨?_, (ht.step c).1⟩) (DeferredFrom.refl s)
  · rw [List.map_eq_flatMap]
    exact ⟨hfold.1, hfold.2.1⟩
  · refine acts_deferUnchecked (ht.1.notices.trans hn) fun hu => ?_
    have hs : (entryOf s c.pos c.code).result = .unchecked := by
      rcases ht.2 c.pos c.code with h | h
      · exact h.symm.trans hu
      · exact h.1
    rw [ht.1.stateOf]
    exact h c hc hs

/-! ## The window of a circuit with one WIRED-fed contributor closes -/

/-- R139, R147: what a report of results keeps: all that deliveries look at but the results. -/
structure Untold (s t : State) : Prop where
  marked : Marked t s
  override : ∀ q g, (entryOf t q g).override = (entryOf s q g).override

theorem Untold.refl (s : State) : Untold s s := ⟨Marked.refl s, fun _ _ => rfl⟩

theorem Untold.resulting (h : Untold s t) (p : Pos) (f : Code) (r : CheckResult) : Untold s (State.resulting p f r t) := by
  refine ⟨(resulting_marked _ _ _ _).trans h.marked, fun q g => ?_⟩
  rw [resulting_entry]
  split
  · rename_i hq; obtain ⟨rfl, rfl⟩ := hq; exact h.override _ _
  · exact h.override q g

theorem Untold.writing (h : Untold s t) (ws : List (Pos × Code × CheckResult)) : Untold s (Machine.writing ws t) := by
  induction ws generalizing t with
  | nil => exact h
  | cons w ws ih => exact ih (h.resulting _ _ _)

theorem Untold.deferred (h : Untold s t) (cs : List Contributor) :
    Untold s (cs.foldl (fun t c => State.resulting c.pos c.code .deferred t) t) := by
  induction cs generalizing t with
  | nil => exact h
  | cons c cs ih => exact ih (h.resulting _ _ _)

/-- R147: the check of a circuit in the slot ends, its window having covered one WIRED-fed lamp. -/
theorem acts_slotEnded_wired {k : LineNo} {sl : Slot} {c : Contributor} {b : BlockNo} {e : DirEntry} {r : FnRecord}
    (hn : s.notices = []) (hsl : s.check.slot = some sl) (ht : sl.entry.target = .circuit k) (hq : s.check.queue = [])
    (hwin : sl.window = true) (hcs : (circuitRec s k).contributors = [c]) (htarget : targetBeneath s c.pos c.code = 0)
    (hv : State.WiredDue (modEntry c.pos c.code (fun y => { y with refusalLatch := false }) (State.slotFreed k true s))
      c.pos c.code 0 b e r)
    (hrest : ∀ q, q ≠ c.pos → inService s q = true →
      (modEntry c.pos c.code (fun y => { y with refusalLatch := false }) (State.slotFreed k true s)).AtRest q) :
    Acts 16 [.slotEnded (.circuit k)] s (wiring c.pos c.code 0 b
      (modEntry c.pos c.code (fun y => { y with refusalLatch := false }) (State.slotFreed k true s))) := by
  have hend : slotEnded (.circuit k) s = endSlot s := by
    unfold slotEnded
    rw [hsl]
    exact if_pos ht
  have hcov : coveredBy (setSlot none s) (.circuit k) = [(c.pos, c.code)] := by
    show (circuitRec s k).contributors.map _ = _
    rw [hcs]; rfl
  have hclose : closeWindow (.circuit k) (setSlot none s) =
      emit (.windowNotice false [(c.pos, c.code)]) (State.slotFreed k true s) := by
    unfold closeWindow
    rw [hcov]
    exact congrArg _ (closeLineWindow_eq k s)
  have hrun : runNotice (.slotEnded (.circuit k)) s =
      emitAll [.windowNotice false [(c.pos, c.code)], .slotTest] (State.slotFreed k true s) := by
    refine hend.trans ?_
    unfold endSlot
    rw [hsl]
    simp only [ht, hwin, if_true]
    rw [hclose, emit_eq, emit_eq, emitAll_emitAll]
    rfl
  have hbeneath : targetBeneath (State.slotFreed k true s) c.pos c.code ≠ 255 := by
    rw [show targetBeneath (State.slotFreed k true s) c.pos c.code = targetBeneath s c.pos c.code from rfl, htarget]
    decide
  have hchanged : targetChanged c.pos c.code (State.slotFreed k true s) =
      modEntry c.pos c.code (fun y => { y with refusalLatch := false }) (State.slotFreed k true s) :=
    if_neg (by rw [hv.lamp]; decide)
  have hx : runNotice (.windowNotice false [(c.pos, c.code)]) (State.slotFreed k true s) =
      rescanAll (reformWhere (deliversOneOf [(c.pos, c.code)])
        (modEntry c.pos c.code (fun y => { y with refusalLatch := false }) (State.slotFreed k true s))) := by
    rw [← hchanged]
    show takeWindow false [(c.pos, c.code)] (State.slotFreed k true s) = _
    unfold takeWindow
    simp only [List.foldl_cons, List.foldl_nil, hbeneath, if_false, Bool.false_eq_true]
  exact Acts.run (k := 15) hn hrun hn (Acts.cons (k := 14) (l := 1) (acts_takeWindow_wired hv hn hrest hn hx)
    (Acts.silent hn (slotTest_noQueue hq) hn))

end Sys2Proof.Machine
end

section
/-!
The timers of the Load Check Unit (R142, R143, R144, R147): what each brings.
-/
namespace Sys2Proof.Machine

variable {s t u : State}

/-- R139, R147: an outcome reported already, or one whose report finds no position EXERCISING. -/
theorem settle_reported {k : LineNo} {o : CheckOutcome} (hn : s.notices = [])
    (hr : (circuitRec s k).reported ≠ some o → (∀ p, stateOf s p ≠ .exercising) ∧ (circuitRec s k).contributors.length ≤ 16
      ∧ ∀ c ∈ (circuitRec s k).contributors, stateOf s c.pos ≠ .vacant)
    (hend : Acts 16 [.slotEnded (.circuit k)] (s.established k o) u) :
    settle (emit (.slotEnded (.circuit k)) (reportOutcome k o s)) = u := by
  by_cases h : (circuitRec s k).reported = some o
  · unfold State.established at hend
    unfold reportOutcome
    rw [if_pos h] at hend ⊢
    exact hend.settle hn (by decide)
  · obtain ⟨hcalm, hlen, hocc⟩ := hr h
    exact settle_established hn hcalm hlen hocc hend

/-- What the end of a check's slot looks at is in t as in s. -/
structure Told (k : LineNo) (s t : State) : Prop where
  notices : t.notices = s.notices
  slot : t.check.slot = s.check.slot
  queue : t.check.queue = s.check.queue
  contributors : (circuitRec t k).contributors = (circuitRec s k).contributors
  nodeChecks : ∀ p src, nodeCheck t p src = nodeCheck s p src
  beneath : ∀ p f, targetBeneath t p f = targetBeneath s p f
  pending : t.delivery.pendingOverride = s.delivery.pendingOverride
  service : ∀ p, inService t p = inService s p

theorem Untold.told (h : Untold s t) (k : LineNo) : Told k s t := by
  have hover := h.override
  obtain ⟨⟨st, pt, rfl⟩, -⟩ := h
  refine ⟨rfl, rfl, rfl, rfl, fun p src => by cases src <;> rfl, fun p f => ?_, rfl, fun p => rfl⟩
  unfold targetBeneath
  rw [hover]
  rfl

theorem Told.trans {k : LineNo} (h : Told k s t) (h' : Told k t u) : Told k s u :=
  ⟨h'.notices.trans h.notices, h'.slot.trans h.slot, h'.queue.trans h.queue, h'.contributors.trans h.contributors,
    fun p src => (h'.nodeChecks p src).trans (h.nodeChecks p src), fun p f => (h'.beneath p f).trans (h.beneath p f),
    h'.pending.trans h.pending, fun p => (h'.service p).trans (h.service p)⟩

theorem told_advanceTo (m : Time) (k : LineNo) : Told k s (advanceTo m s) :=
  ⟨rfl, rfl, rfl, rfl, fun p src => by cases src <;> rfl, fun _ _ => rfl, rfl, inService_advanceTo m s⟩

theorem established_told (k : LineNo) (o : CheckOutcome) (s : State) : Told k s (s.established k o) := by
  unfold State.established
  split
  · exact (Untold.refl s).told k
  · have hu := ((Untold.refl (modCircuit k (fun c => { c with reported := some o }) s)).writing
      (outcomeResults (modCircuit k (fun c => { c with reported := some o }) s) k o)).told k
    rw [← reporting_eq] at hu
    refine ⟨hu.notices, hu.slot, hu.queue, hu.contributors.trans (by rw [circuitRec_modCircuit]),
      fun p src => (hu.nodeChecks p src).trans (by cases src <;> rfl), fun p f => (hu.beneath p f).trans rfl, hu.pending,
      fun p => (hu.service p).trans rfl⟩

/-- R147: what the end of a check in the slot leaves, by its window and the contributors of its circuit. -/
theorem slotExpiry_ends {k : LineNo} {sl : Slot} {x : State} {a : Host.Outcome State Fault Refusal} (ht : Told k s t)
    (hn : s.notices = []) (hsl : s.check.slot = some sl) (htarget : sl.entry.target = .circuit k) (hq : s.check.queue = [])
    (ha : ∀ u, Acts 16 [.slotEnded (.circuit k)] t u → a = .next u) (hx : x = State.slotFreed k sl.window t) :
    (sl.window = false → a = .next x)
      ∧ (sl.window = true → (circuitRec s k).contributors = [] → x.Resting → a = .next x)
      ∧ ∀ (c : Contributor) (b : BlockNo) (e : DirEntry) (r : FnRecord), sl.window = true →
        (circuitRec s k).contributors = [c] → t.Bound c.pos c.code b e r → r.feed = .wired → kindOf c.code = .lamp →
        targetBeneath s c.pos c.code = 0 → s.delivery.pendingOverride = none → (∀ src, nodeCheck s c.pos src = none) →
        let v := modEntry c.pos c.code (fun y => { y with refusalLatch := false }) x
        let w := modEntry c.pos c.code (fun y => { y with delivered := some 0 }) (reference b v)
        v.OneDue c.pos c.code 0 → w.AtRest c.pos → (∀ q, q ≠ c.pos → inService s q = true → v.AtRest q) → a = .next w := by
  subst hx
  have hnt := ht.notices.trans hn
  have hslot := ht.slot.trans hsl
  have hqueue := ht.queue.trans hq
  refine ⟨fun hw => ?_, fun hw hcs hrest => ?_, fun c b e r hw hcs hb hfeed hlamp hbeneath hpend hchecks => ?_⟩
  · exact ha _ ((acts_slotEnded hnt hslot htarget hqueue fun h => by rw [hw] at h; cases h).mono (by decide))
  · exact ha _ ((acts_slotEnded hnt hslot htarget hqueue fun _ => ⟨ht.contributors.trans hcs, hrest⟩).mono (by decide))
  · intro v w hdue hafter hrest
    have hwiring : wiring c.pos c.code 0 b v = w := by
      show modEntry c.pos c.code _ (reference b v) = modEntry c.pos c.code _ (reference b v)
      refine congrArg (fun g => modEntry c.pos c.code g (reference b v)) (funext fun y => ?_)
      show { y with delivered := some 0, driven := y.driven || false } = _
      rw [Bool.or_false]
    have hv : v = modEntry c.pos c.code (fun y => { y with refusalLatch := false }) (State.slotFreed k true t) := by
      show modEntry _ _ _ (State.slotFreed k sl.window t) = _
      rw [hw]
    have hwired : v.WiredDue c.pos c.code 0 b e r :=
      { bound := ⟨hb.service, hb.present, hb.fetched, hb.space, hb.block, hb.loaded, hb.member, hb.row⟩
        wired := hfeed
        lamp := hlamp
        admitted := Or.inl rfl
        due := hdue
        noOverride := ht.pending.trans hpend
        noChecks := fun src => (by cases src <;> rfl : nodeCheck v c.pos src = nodeCheck t c.pos src).trans
          ((ht.nodeChecks c.pos src).trans (hchecks src))
        after := by rw [hwiring]; exact hafter }
    refine ha w ?_
    rw [← hwiring]
    rw [hv] at hwired hrest ⊢
    exact acts_slotEnded_wired hnt hslot htarget hqueue hw (ht.contributors.trans hcs) ((ht.beneath _ _).trans hbeneath) hwired
      fun q hq hs => hrest q hq ((ht.service q).symm.trans hs)

/-- Settles O43: a reading that is due, an opportunistic check that expires, and a circuit's check that does. -/
theorem loadCheckTimersRunOut : Obligations.LoadCheckTimersRunOut := by
  unfold Obligations.LoadCheckTimersRunOut
  intro s p m hquiet s1
  have hn : s1.notices = [] := hquiet.notices
  have hstate : ∀ q, stateOf s1 q = stateOf s q := stateOf_advanceTo m s
  refine ⟨fun src c hs hc hm hother hst hfl => ?_, fun c hs hc hm hslot hpend => ?_,
    fun sl k hsl htarget hm hq hlen => ?_⟩
  · refine (nodeLampReadingDue_exec hc hm).trans (congrArg _ ?_)
    have hc1 : nodeCheck s1 p src = some c := (nodeCheck_advanceTo m s p src).trans hc
    have hpast : passed s1 c.nextReading = true := by
      rw [hm]
      exact decide_eq_true (show m ≤ s.now + (m - s.now) from le_add_tsub)
    rw [startReading_due hc1 hpast]
    let t := setNodeCheck p src (some { c with nextReading := none, step := some .supply, supply := none }) s1
    have hwant : wantedReading t p = some (src, c.code, .supply, 63) := by
      refine wantedReading_supply (c := { c with nextReading := none, step := some .supply, supply := none }) ?_ rfl
        fun x hx => ?_
      · rw [nodeCheck_setNodeCheck, if_pos rfl]
      · rw [nodeCheck_setNodeCheck, if_neg hx, nodeCheck_advanceTo]; exact hother x hx
    have hline : t.line = s.line := by cases src <;> rfl
    have hnt : t.notices = [] := (by cases src <;> rfl : t.notices = s1.notices).trans hn
    have hrun : nodeLampOffer p t = makeOffer (readingOffer .loadCheckUnit p (src, c.code, .supply, 63)) t := by
      refine (nodeLampOffer_running ((by cases src <;> rfl : stateOf t p = stateOf s1 p).trans ((hstate p).trans hs))).2 _ hwant ?_ ?_
      · unfold readingInFlight flightIs openFlight at hfl ⊢; rw [hline]; exact hfl
      · unfold standing at hst ⊢; rw [hline]; exact hst
    exact (Acts.offers (x := .nodeLampOffer p) hnt hrun hnt (by unfold State.IdleLine; rw [hline]; exact hquiet.idle)
      (readingOffer_valid _ _ _ _ _ (by decide)) rfl).settle hnt (by decide)
  · intro s2
    have hc1 : nodeCheck s1 p .opportunistic = some c := hc
    have hs2 : stateOf s2 p = .running := (hstate p).trans hs
    have hexec := (nodeLampCheckExpiry_exec (src := .opportunistic) hc hm).trans
      (congrArg (fun x => Host.Outcome.next (settle x)) (expireCheck_eq (s := s1) hc1))
    have hnone : ∀ x, nodeCheck s2 p x = none := by
      intro x
      have : nodeCheck s2 p x = nodeCheck (setNodeCheck p .opportunistic none s1) p x := by cases x <;> rfl
      rw [this, nodeCheck_setNodeCheck]
      cases x with
      | slot => rw [if_neg (by decide)]; exact hslot
      | opportunistic => rfl
    refine ⟨fun hlast hres => hexec.trans (congrArg _ ?_), fun cls hlast hres => hexec.trans (congrArg _ ?_)⟩
    · rw [hlast]
      exact (Acts.cons (k := 1) (l := 2) (Acts.silent (x := .deferUnchecked p c.code) (s := s2) hn
        (if_neg (by rw [show unchecked s2 p c.code = decide ((entryOf s p c.code).result = .unchecked) from rfl]; simpa using hres)) hn)
        (acts_checkOver hn hs2 hnone hpend)).settle hn (by decide)
    · rw [hlast]
      have hwrite := acts_writeResult (s := s2) (p := p) c.code (classResult cls true) hn (by rw [hs2]; decide) (by rw [hs2]; decide)
      have hmark := resulting_marked p c.code (classResult cls true) s2
      have heq : State.resulting p c.code (classResult cls true) s2 = placeResultFrame p (groupOf c.code) (halfOf c.code)
          (modEntry p c.code (fun x => { x with result := classResult cls true }) s2) := if_neg hres
      rw [heq] at hwrite hmark
      refine (Acts.cons (k := 3) (l := 2) hwrite (acts_checkOver (hmark.notices.trans hn) ((hmark.stateOf p).trans hs2)
        (fun x => ?_) ?_)).settle hn (by decide)
      · refine Eq.trans ?_ (hnone x)
        unfold nodeCheck
        rw [hmark.check]
      · rw [hmark.check]; exact hpend
  · intro x open' ends
    have hexec := (exerciseSlotExpiry_exec hsl hm)
    obtain ⟨hsome, hnone⟩ := expireSlot_circuit (s := s1) (k := k) hsl htarget
    refine ⟨fun hlast hrep => ?_, fun o hlast hrep => ?_⟩
    · have hfold : x.contributors.foldl deferring s1 = open'.foldl (fun t c => State.resulting c.pos c.code .deferred t) s1 :=
        foldl_deferring (s := s1) x.contributors (DeferredFrom.refl s1)
      have hact := acts_deferring (s := s1) (cs := x.contributors) hn fun c hc hu => by
        have hne : open' ≠ [] := List.ne_nil_of_mem (a := c) (List.mem_filter.mpr ⟨hc, decide_eq_true hu⟩)
        rw [hstate]
        exact ⟨(hrep hne).occupied c hc, (hrep hne).calm c.pos⟩
      rw [hfold] at hact
      refine slotExpiry_ends ((told_advanceTo m k).trans (((Untold.refl s1).deferred open').told k)) hquiet.notices hsl htarget hq (fun u hu => ?_) rfl
      refine hexec.trans (congrArg _ ?_)
      rw [hnone hlast]
      exact (hact.1.append hu).settle hn (by show 3 * (circuitRec s k).contributors.length + 16 ≤ 100000; omega)
    · have hwritten : (if x.reported = some o then s1 else State.reporting k o (modCircuit k (fun c => { c with reported := some o }) s1)) =
          s1.established k o := rfl
      rw [hwritten]
      refine slotExpiry_ends ((told_advanceTo m k).trans (established_told k o s1)) hquiet.notices hsl htarget hq (fun u hu => ?_) rfl
      refine hexec.trans (congrArg _ ?_)
      rw [hsome o hlast]
      exact settle_reported hn (fun hne => ⟨fun q => by rw [hstate]; exact (hrep hne).calm q, hlen,
        fun c hc => by rw [hstate]; exact (hrep hne).occupied c hc⟩) hu

end Sys2Proof.Machine
end

section
/-!
SET-FUNCTION and CLEAR-OVERRIDE (R93, R99, R100, R159).
-/
namespace Sys2Proof.Machine

variable {s t u : State} {p : Pos} {f : Code}

theorem argFunction_eq {args : List Byte} (hp : argByte args 0 = p.val + 1) (hf : argByte args 1 = f.val) :
    argFunction args = some (p, f) := by
  have hcode : argCode args 1 = some f := by
    unfold argCode
    dsimp only
    rw [dif_pos (by rw [hf]; exact f.isLt)]
    exact congrArg some (Fin.ext hf)
  unfold argFunction
  rw [argPos_eq hp, hcode]

theorem setFunction_exec {r : Request} {rest : List Request} (hs : s.Serving 10 r rest) (hl : 4 ≤ r.args.length)
    (ha : argFunction r.args = some (p, f)) :
    exec .setFunction s = .next (settle (setFunction p f (argWord r.args 2) s)) := by
  refine congrArg (fun y => Host.Outcome.next (settle y)) ((serve_eq hs hl _).trans ?_)
  rw [ha]

theorem clearOverride_exec {r : Request} {rest : List Request} (hs : s.Serving 11 r rest) (hl : 2 ≤ r.args.length)
    (ha : argFunction r.args = some (p, f)) :
    exec .clearOverride s = .next (settle (answer .ok [] (clearOverrideAt p f s))) := by
  refine congrArg (fun y => Host.Outcome.next (settle y)) ((serve_eq hs hl _).trans ?_)
  rw [ha]

theorem windowCovers_noSlot (h : s.check.slot = none) (p : Pos) (f : Code) : windowCovers s p f = false := by
  unfold windowCovers; rw [h]

theorem targetOf_noSlot (h : s.check.slot = none) (hk : kindOf f ≠ .sensor) (p : Pos) :
    targetOf s p f = some (targetBeneath s p f) := by
  unfold targetOf
  split
  · rename_i hs; exact absurd hs hk
  · rw [windowCovers_noSlot h]; rfl

theorem endTimeoutHold_none (h : (entryOf s p f).timeoutHold = false) : endTimeoutHold p f s = s :=
  if_neg (by rw [h]; decide)

theorem modEntry_congr {g g' : StatusEntry → StatusEntry} (h : g (entryOf s p f) = g' (entryOf s p f)) :
    modEntry p f g s = modEntry p f g' s :=
  congrArg (fun st => ({ s with delivery := { s.delivery with status := st } } : State))
    (Tab.upd_congr _ _ (Tab.upd_congr _ _ h))

/-- R99: a target that changes, with no watch on the function. -/
theorem targetChanged_quiet (hw : (entryOf s p f).watchDeadline = none) : targetChanged p f s =
    modEntry p f (fun x => { x with refusalLatch := false, readLatch := if kindOf f = .actuator then false else x.readLatch }) s := by
  unfold targetChanged endWatch
  by_cases hk : kindOf f = .actuator
  · have hwatch : (entryOf (modEntry p f (fun e => { e with refusalLatch := false, readLatch := false }) s) p f).watchDeadline
        = none := by rw [entryOf_modEntry, if_pos ⟨rfl, rfl⟩]; exact hw
    rw [if_pos hk, hwatch]
    exact modEntry_congr (by rw [if_pos hk])
  · rw [if_neg hk]
    exact modEntry_congr (by rw [if_neg hk])

/-- R93, R99: what the write of an override, or its removal, leaves of the entry, with no watch and no timeout hold. -/
theorem overridden_eq {new : Option Nat} (hk : kindOf f ≠ .sensor) (hslot : s.check.slot = none)
    (hw : (entryOf s p f).watchDeadline = none) (hh : (entryOf s p f).timeoutHold = false) :
    endTimeoutHold p f (retarget p f (some ((entryOf s p f).override.getD (commandOf s f).value))
      (modEntry p f (fun e => { e with override := new, refusalLatch := false }) s)) =
    modEntry p f (fun x => { x with
      override := new
      refusalLatch := false
      readLatch := if kindOf f = .actuator ∧ (entryOf s p f).override.getD (commandOf s f).value ≠ new.getD (commandOf s f).value
        then false else x.readLatch }) s := by
  have hent : entryOf (modEntry p f (fun e => { e with override := new, refusalLatch := false }) s) p f =
      { entryOf s p f with override := new, refusalLatch := false } := by
    rw [entryOf_modEntry, if_pos ⟨rfl, rfl⟩]
  have htarget : targetOf (modEntry p f (fun e => { e with override := new, refusalLatch := false }) s) p f =
      some (new.getD (commandOf s f).value) := by
    refine (targetOf_noSlot (s := modEntry p f (fun e => { e with override := new, refusalLatch := false }) s) hslot hk p).trans ?_
    unfold targetBeneath
    rw [hent]
    rfl
  have hret : retarget p f (some ((entryOf s p f).override.getD (commandOf s f).value))
      (modEntry p f (fun e => { e with override := new, refusalLatch := false }) s) =
    modEntry p f (fun x => { x with
      override := new
      refusalLatch := false
      readLatch := if kindOf f = .actuator ∧ (entryOf s p f).override.getD (commandOf s f).value ≠ new.getD (commandOf s f).value
        then false else x.readLatch }) s := by
    unfold retarget
    rw [htarget]
    by_cases hv : (entryOf s p f).override.getD (commandOf s f).value = new.getD (commandOf s f).value
    · rw [if_pos (congrArg some hv.symm)]
      exact modEntry_congr (by rw [if_neg fun h => h.2 hv])
    · rw [if_neg fun h => hv (Option.some.inj h).symm, targetChanged_quiet (by rw [hent]; exact hw), modEntry_modEntry]
      refine modEntry_congr ?_
      by_cases hka : kindOf f = .actuator
      · rw [if_pos hka, if_pos ⟨hka, hv⟩]
      · rw [if_neg hka, if_neg fun h => hka h.1]
  rw [hret]
  refine endTimeoutHold_none ?_
  rw [entryOf_modEntry, if_pos ⟨rfl, rfl⟩]
  exact hh

theorem levelBeneath_noSlot (hn : s.notices = []) (h : s.check.slot = none) (c : LevelChange) :
    Acts 1 [.levelBeneath c] s s :=
  Acts.silent hn (windowToDriven_still fun sl hsl => by rw [h] at hsl; cases hsl) hn

/-- Settles O52: the override written or removed, and its reply. -/
theorem overridesAreWritten : Obligations.OverridesAreWritten := by
  unfold Obligations.OverridesAreWritten
  intro s r rest p f hn hp hf v ok latch x beneath set cleared
  have ha := argFunction_eq hp hf
  have hcases : ok ↔ overrideValueOk f v = true := by
    unfold overrideValueOk
    cases hk : kindOf f <;> simp [ok, hk]
  have hlook : ∀ (c : LevelChange) (u : State), u.notices = [] → u.check.slot = none → inService u p = true → u.AtRest p →
      settle (emitAll (.levelBeneath c :: holdNotices p) u) = u := fun c u hnu hslot hs hrest =>
    (Acts.cons (k := 1) (l := 3) (levelBeneath_noSlot hnu hslot c) (acts_holdNotices hnu hs hrest)).settle hnu (by decide)
  refine ⟨fun hs hl => ?_, fun hs hl => ⟨fun ho => ?_, fun ho hk hslot hw hh hpend hsv hrest => ?_⟩⟩
  · have hexec := setFunction_exec hs hl ha
    refine ⟨fun hno => hexec.trans (congrArg _ ?_), fun hok hsv => hexec.trans (congrArg _ ?_),
      fun hok hsv hnf => hexec.trans (congrArg _ ?_), fun hok hsv hnf hslot hw hh => ?_⟩
    · rw [show setFunction p f (argWord r.args 2) s = answer .badArg [] s from
        if_pos (Bool.eq_false_iff.mpr fun h => hno (hcases.mpr h))]
      exact settle_answer hn hs _
    · have hv : overrideValueOk f (argWord r.args 2) = true := hcases.mp hok
      unfold setFunction
      rw [if_neg (by rw [hv]; decide), if_pos hsv]
      exact settle_answer hn hs _
    · have hv : overrideValueOk f (argWord r.args 2) = true := hcases.mp hok
      unfold setFunction
      rw [if_neg (by rw [hv]; decide), if_neg (by rw [hsv]; decide), if_pos hnf]
      exact settle_answer hn hs _
    · have hv : overrideValueOk f (argWord r.args 2) = true := hcases.mp hok
      have hk : kindOf f ≠ .sensor := by
        rcases hok with ⟨h, -⟩ | ⟨h, -⟩ <;> rw [h] <;> decide
      have hwrite : writeOverride p f v s = set := by
        unfold writeOverride
        rw [targetOf_noSlot hslot hk]
        exact overridden_eq (new := some v) hk hslot hw hh
      have hent : entryOf set p f = { x with
          override := some v
          refusalLatch := false
          readLatch := latch x (x.override.getD beneath) v } := by
        rw [show set = modEntry p f _ s from rfl, entryOf_modEntry, if_pos ⟨rfl, rfl⟩]
      have htarget : targetOf set p f = some v := by
        refine (targetOf_noSlot (s := set) hslot hk p).trans ?_
        unfold targetBeneath
        rw [hent]
        rfl
      have hset : exec .setFunction s = .next (settle (rescan p (awaitOverride p f v (emit (.levelBeneath (.override p f)) set)))) := by
        rw [hexec]
        unfold setFunction
        rw [if_neg (by rw [hv]; decide), if_neg (by rw [hsv]; decide), if_neg (by rw [hnf]; decide)]
        rw [show writeOverride p f (argWord r.args 2) s = set from hwrite]
        rfl
      refine ⟨fun hstop second => ?_, fun hd hrest => hset.trans (congrArg _ ?_), fun hd => ?_⟩
      · have hheld : isHeld set p f v = true := by
          have howed : stopOwed set p f = true := List.any_eq_true.mpr (by
            obtain ⟨o, ho, hc⟩ := hstop
            exact ⟨o, ho, decide_eq_true hc⟩)
          have hover : onOverride set p f = true := by
            unfold onOverride
            rw [windowCovers_noSlot (s := set) hslot, hent]
            rfl
          unfold isHeld
          simp [howed, hover]
        unfold offerable
        rw [htarget]
        dsimp only
        rw [hheld]
        simp
      · have hans : awaitOverride p f v (emit (.levelBeneath (.override p f)) set) =
            emit (.levelBeneath (.override p f)) (set.replied r rest .ok []) := by
          unfold awaitOverride
          refine (if_pos ?_).trans (hs.answer_in .ok [])
          refine htarget.trans ?_
          show some v = (entryOf set p f).delivered
          rw [hent]
          exact hd.symm
        rw [hans, emit_eq, rescan_emitAll, if_pos (show inService (set.replied r rest .ok []) p = true from hsv)]
        exact hlook _ _ hn hslot hsv hrest
      · intro waits hrest
        refine hset.trans (congrArg _ ?_)
        have hans : awaitOverride p f v (emit (.levelBeneath (.override p f)) set) =
            emit (.levelBeneath (.override p f)) waits := by
          unfold awaitOverride
          refine if_neg fun he => hd ?_
          have : (entryOf set p f).delivered = some v := he.symm.trans htarget
          rw [hent] at this
          exact this
        rw [hans, emit_eq, rescan_emitAll, if_pos (show inService waits p = true from hsv)]
        exact hlook _ _ hn hslot hsv hrest
  · refine (clearOverride_exec hs hl ha).trans (congrArg _ ?_)
    rw [show clearOverrideAt p f s = s from if_neg (by rw [show (entryOf s p f).override = none from ho]; decide)]
    exact settle_answer hn hs _
  · refine (clearOverride_exec hs hl ha).trans (congrArg _ ?_)
    have hsome : (entryOf s p f).override.isSome = true := Option.isSome_iff_ne_none.mpr ho
    have hdrop : dropOverride p f s = emit (.levelBeneath (.override p f))
        (modEntry p f (fun e => { e with override := none, refusalLatch := false }) s) := by
      unfold dropOverride replyOverride
      rw [if_pos hsome, show (modEntry p f (fun e => { e with override := none, refusalLatch := false }) s).delivery.pendingOverride
        = none from hpend]
    have hclear : endTimeoutHold p f (removeOverride p f s) = emit (.levelBeneath (.override p f)) cleared := by
      unfold removeOverride
      rw [hdrop, targetOf_noSlot hslot hk]
      exact overridden_eq (s := emit (.levelBeneath (.override p f)) s) (new := none) hk hslot hw hh
    rw [show clearOverrideAt p f s = rescan p (emit (.levelBeneath (.override p f)) cleared) from (if_pos hsome).trans (by rw [hclear]),
      emit_eq, rescan_emitAll, if_pos (show inService cleared p = true from hsv), hs.answer_in]
    exact hlook _ (cleared.replied r rest .ok []) hn hslot hsv hrest

end Sys2Proof.Machine
end
section
/-!
GET-FUNCTION (R82, R96, R101, R106, R190).
-/
namespace Sys2Proof.Machine

variable {s t u : State} {p : Pos} {f : Code}

theorem getFunction_exec {r : Request} {rest : List Request} (hs : s.Serving 12 r rest) (hl : 2 ≤ r.args.length)
    (ha : argFunction r.args = some (p, f)) : exec .getFunction s = .next (settle (tryRead p f s)) := by
  refine congrArg (fun y => Host.Outcome.next (settle y)) ((serve_eq hs hl _).trans ?_)
  rw [ha]

theorem setPendingRead_none (h : s.delivery.pendingRead = none) : setPendingRead none s = s := by
  show { s with delivery := { s.delivery with pendingRead := none } } = s
  rw [← h]

/-- R101: what a management read becomes, by the answer of its translation. -/
theorem tryRead_answers (hp : t.delivery.pendingRead = none) :
    (translate p f .mgr false (.managementRead p f) s = (.notReady, t) → tryRead p f s = answer .notReady [] t)
      ∧ (translate p f .mgr false (.managementRead p f) s = (.notFitted, t) → tryRead p f s = answer .notFitted [] t)
      ∧ (translate p f .mgr false (.managementRead p f) s = (.refused, t) → tryRead p f s = answer .refused [] t)
      ∧ (∀ x, translate p f .mgr false (.managementRead p f) s = (.hit x, t) → x.feed = .wired →
        tryRead p f s = answer .ok (functionReply t p f none) t)
      ∧ (∀ x, translate p f .mgr false (.managementRead p f) s = (.hit x, t) → x.feed = .node → tryRead p f s =
        emit (.scan p true) (holdHead (setPendingRead (some { pos := p, code := f, point := some x.point }) t))) := by
  unfold tryRead
  refine ⟨fun h => ?_, fun h => ?_, fun h => ?_, fun x h hw => ?_, fun x h hw => ?_⟩
  · rw [h]; exact congrArg (answer .notReady []) (setPendingRead_none hp)
  · rw [h]; exact congrArg (answer .notFitted []) (setPendingRead_none hp)
  · rw [h]; exact congrArg (answer .refused []) (setPendingRead_none hp)
  · rw [h]
    dsimp only
    rw [hw]
    exact congrArg (answer .ok (functionReply t p f none)) (setPendingRead_none hp)
  · rw [h]
    dsimp only
    rw [hw]

/-- R101: the GET of a management read. -/
def managementGet (p : Pos) (f : Code) (point : Nat) : Offer :=
  { requester := .deliveryUnit, cls := 1, pos := linePos p, op := .get, addr := some point, data := none, why := .managementRead p f }

theorem managementGet_valid {point : Nat} (h : point ≤ 63) (p : Pos) (f : Code) : offerValid (managementGet p f point) = true := by
  have hp : decide (linePos p ≠ 0) = true := by revert p; decide
  exact congrArg₂ (fun x y => x && true && y) hp (decide_eq_true h)

/-- R96, R101: the pending management read goes ahead of the deliveries of its class. -/
theorem scan_managementRead {point : Nat} {fl : Flight} (hr : s.delivery.pendingRead = some { pos := p, code := f, point := some point })
    (hs : inService s p = true) (hpoint : point ≤ 63) (hfl : s.line.flight = some fl) (hwhy : fl.offer.why ≠ .managementRead p f)
    (hst : standing s .deliveryUnit 1 (linePos p) = none) :
    scan p true s = setOffers (fun os => os ++ [managementGet p f point]) s := by
  have hfree : flightIs s (fun o => decide (o.why = .managementRead p f)) = false :=
    flightIs_false fun fl' h => by rw [hfl] at h; cases h; exact decide_eq_false hwhy
  have hread : readOffer s p = some (managementGet p f point) := by
    unfold readOffer
    rw [hr]
    dsimp only
    rw [hfree]
    exact if_pos (by simp)
  unfold scan
  dsimp only
  rw [if_neg (by rw [hs]; decide), show standing s .deliveryUnit (if true = true then 1 else 0) (linePos p) = none from hst]
  dsimp only
  unfold formOffer
  rw [if_pos rfl, hread]
  exact makeOffer_new (managementGet_valid hpoint p f) hfl hst

/-- Settles O53: what GET-FUNCTION is answered, or has read. -/
theorem functionIsRead : Obligations.FunctionIsRead := by
  unfold Obligations.FunctionIsRead
  intro s r rest p f hn hs hl hp hf hnone
  have hexec := getFunction_exec hs hl (argFunction_eq hp hf)
  obtain ⟨hready, hfitted, -, -, -⟩ := tryRead_answers (p := p) (f := f) (s := s) hnone
  refine ⟨fun hsv => hexec.trans (congrArg _ ?_), fun hsv hd => hexec.trans (congrArg _ ?_), fun b e x hb => ?_⟩
  · rw [hready (by unfold translate; rw [lookup_outOfService hsv])]
    exact settle_answer hn hs _
  · rw [hfitted (by unfold translate; rw [lookup_absent hsv hd])]
    exact settle_answer hn hs _
  · intro s1
    refine ⟨fun hk => ?_, fun hk hw => ?_, fun fl hk hw hpoint hfl hwhy hst => ?_⟩
    · intro fault
      refine hexec.trans (congrArg _ ?_)
      rw [(tryRead_answers (t := recordFault .policyRefused (some p) (some f) (some .mgr)
        (policyIndex e.policyClass x.fnClass).val (reference b s)) hnone).2.2.1 (translate_refused hb .mgr _ hk), hs.answer_in]
      exact settle_eq hn
    · refine hexec.trans (congrArg _ ?_)
      rw [(tryRead_answers (t := reference b s) hnone).2.2.2.1 x (translate_hit hb .mgr false _ (Or.inr hk)) hw, hs.answer_in]
      exact settle_eq hn
    · intro get
      refine hexec.trans (congrArg _ ?_)
      rw [(tryRead_answers (t := reference b s) hnone).2.2.2.2 x (translate_hit hb .mgr false _ (Or.inr hk)) hw]
      let held : State := holdHead (setPendingRead (some { pos := p, code := f, point := some x.point }) (reference b s))
      exact (Acts.silent (x := .scan p true) (s := held) hn
        (scan_managementRead (s := held) rfl hb.service hpoint hfl hwhy hst) hn).settle hn (by decide)

end Sys2Proof.Machine
end

section
/-!
Offers formed anew where one delivery to a NODE-fed function is due (R96, R147).
-/
namespace Sys2Proof.Machine

variable {s t u : State} {p : Pos} {f : Code} {v : Nat} {b : BlockNo} {e : DirEntry} {r : FnRecord}

theorem reference_reference (b : BlockNo) (s : State) : reference b (reference b s) = reference b s :=
  congrArg (fun bs => ({ s with binding := { s.binding with blocks := bs } } : State))
    (Tab.upd_upd s.binding.blocks b (fun x => { x with referenced := true }) fun x => { x with referenced := true })

theorem noteOffered_noteOffered (p : Pos) (c : Bool) (f : Code) (s : State) :
    noteOffered p c f (noteOffered p c f s) = noteOffered p c f s := by
  refine congrArg (fun l => ({ s with delivery := { s.delivery with lastOffered := l } } : State)) ?_
  refine (Tab.upd_upd s.delivery.lastOffered p (fun x => if c then (x.1, f) else (f, x.2))
    fun x => if c then (x.1, f) else (f, x.2)).trans (Tab.upd_congr _ _ ?_)
  cases c <;> rfl

theorem State.Deliverable.again (h : s.Deliverable p f v b e r) :
    State.Deliverable (noteOffered p (secondClass f v) f (reference b s)) p f v b e r where
  busy := h.busy
  bound := by
    obtain ⟨rep, hrow⟩ := h.bound.row
    exact ⟨h.bound.service, h.bound.present, h.bound.fetched, h.bound.space, h.bound.block,
      (state_reference b b s).trans h.bound.loaded, h.bound.member, rep, by
        show ((s.binding.blocks.upd b _).get b).rows.get _ = _
        rw [Tab.get_upd_same]; exact hrow⟩
  node := h.node
  point := h.point
  admitted := h.admitted
  due :=
    { stops := h.due.stops
      deliveries := fun second g => (offerable_reference b s p second g).trans (h.due.deliveries second g)
      management := h.due.management
      reads := (dueReads_reference b s p).trans h.due.reads
      first := h.due.first
      second := h.due.second }

theorem delivering_again (p : Pos) (f : Code) (v : Nat) (b : BlockNo) (r : FnRecord) (s : State) :
    delivering p f v b r (noteOffered p (secondClass f v) f (reference b s)) = delivering p f v b r s := by
  have h : noteOffered p (secondClass f v) f (reference b (noteOffered p (secondClass f v) f (reference b s))) =
      noteOffered p (secondClass f v) f (reference b s) :=
    (congrArg (fun y => noteOffered p (secondClass f v) f (noteOffered p (secondClass f v) f y)) (reference_reference b s)).trans
      (noteOffered_noteOffered _ _ _ _)
  exact congrArg (setOffers fun os => os ++ [setOffer p f v (deliveryKind s p f) r]) h

/-- R96: a delivery on offer, withdrawn. -/
theorem withdraw_delivering (h : s.Deliverable p f v b e r) :
    withdraw .deliveryUnit (if secondClass f v then 1 else 0) (linePos p) (delivering p f v b r s) =
      noteOffered p (secondClass f v) f (reference b s) := by
  have hnone := List.find?_eq_none.mp (h.standing (secondClass f v))
  have hoffers : (s.line.offers ++ [setOffer p f v (deliveryKind s p f) r]).filter (fun o =>
      !(decide (o.requester = .deliveryUnit) && decide (o.cls = if secondClass f v then 1 else 0) && decide (o.pos = linePos p))) =
      s.line.offers := by
    rw [List.filter_append, List.filter_eq_self.mpr fun o ho => by rw [Bool.not_eq_true', Bool.eq_false_iff]; exact hnone o ho]
    simp [setOffer]
  exact congrArg (fun os => setOffers (fun _ => os) (noteOffered p (secondClass f v) f (reference b s))) hoffers

/-- R96: a delivery on offer, formed anew, stands as it stood. -/
theorem reform_delivering (h : s.Deliverable p f v b e r) (second : Bool) :
    reform p second f (delivering p f v b r s) = delivering p f v b r s := by
  unfold reform
  dsimp only
  by_cases hc : second = secondClass f v
  · subst hc
    have hoff : offerable (noteOffered p (secondClass f v) f (reference b s)) p (secondClass f v) f = some v := by
      rw [h.again.due.deliveries]; simp
    rw [withdraw_delivering h, hoff]
    dsimp only
    rw [deliverOne_due h.again]
    exact delivering_again p f v b r s
  · have hoff : offerable (delivering p f v b r s) p second f = none :=
      (offerable_reference b s p second f).trans (h.due.noneOf hc f)
    rw [withdraw_none (standing_other_delivering h hc), hoff]
    exact formOffer_other_delivering h hc

theorem reform_due (h : s.Deliverable p f v b e r) (second : Bool) :
    reform p second f s = s ∨ reform p second f s = delivering p f v b r s := by
  unfold reform
  dsimp only
  rw [withdraw_none (h.standing second)]
  by_cases hc : second = secondClass f v
  · right
    subst hc
    have hoff : offerable s p (secondClass f v) f = some v := by rw [h.due.deliveries]; simp
    rw [hoff]
    dsimp only
    rw [deliverOne_due h]
  · left
    rw [h.due.noneOf hc f]
    dsimp only
    have hstops : tryStops p (stopOrder s p) s = (false, s) :=
      tryStops_held _ (by rw [h.due.stops]; intro o ho; cases ho)
    unfold formOffer
    cases second with
    | false =>
      rw [if_neg Bool.false_ne_true, hstops]
      exact scanCodes_none false _ fun g _ => h.due.noneOf hc g
    | true =>
      rw [if_pos rfl, h.due.management]
      exact scanCodes_none true _ fun g _ => h.due.noneOf hc g

theorem reformWhere_due (h : s.Deliverable p f v b e r) : reformWhere (deliversOneOf [(p, f)]) s = s
    ∨ reformWhere (deliversOneOf [(p, f)]) s = delivering p f v b r s := by
  unfold reformWhere
  refine List.foldlRecOn (motive := fun t => t = s ∨ t = delivering p f v b r s) _ _ (Or.inl rfl) fun t ht o ho => ?_
  have hone := (List.mem_filter.mp ho).2
  unfold deliversOneOf at hone
  split at hone
  · simp only [List.any_cons, List.any_nil, Bool.or_false, Bool.and_eq_true, decide_eq_true_eq] at hone
    obtain ⟨rfl, rfl⟩ := hone
    rcases ht with rfl | rfl
    · exact reform_due h _
    · exact Or.inr (reform_delivering h _)
  · cases hone

/-- R96: a delivery on offer is still good while nothing about it has changed. -/
theorem scan_delivering (h : s.Deliverable p f v b e r) :
    scan p (secondClass f v) (delivering p f v b r s) = delivering p f v b r s := by
  have hstand : Machine.standing (delivering p f v b r s) .deliveryUnit (if secondClass f v then 1 else 0) (linePos p) =
      some (setOffer p f v (deliveryKind s p f) r) := by
    have hnone := h.standing (secondClass f v)
    unfold Machine.standing at hnone ⊢
    show (s.line.offers ++ [_]).find? _ = _
    rw [List.find?_append, hnone]
    simp [setOffer]
  have hstops : tryStops p (stopOrder (delivering p f v b r s) p) (delivering p f v b r s) = (false, delivering p f v b r s) :=
    tryStops_held _ (by
      show ∀ o ∈ s.delivery.owed.get p, _
      rw [h.due.stops]; intro o ho; cases ho)
  have hgood : stillGood (delivering p f v b r s) p (secondClass f v) f v (deliveryKind s p f) = true := by
    have hoff : offerable (delivering p f v b r s) p (secondClass f v) f = some v :=
      (offerable_reference b s p _ f).trans (by rw [h.due.deliveries]; simp)
    unfold stillGood
    rw [hoff, show deliveryKind (delivering p f v b r s) p f = deliveryKind s p f from rfl]
    simp
  unfold scan
  dsimp only
  rw [if_neg (by rw [show inService (delivering p f v b r s) p = inService s p from rfl, h.bound.service]; decide), hstand]
  dsimp only [setOffer]
  cases hc : secondClass f v with
  | false => rw [if_neg Bool.false_ne_true, hstops]; rw [hc] at hgood; exact if_pos hgood
  | true => rw [if_pos rfl]; rw [hc] at hgood; exact if_pos hgood

theorem acts_holdNotices_delivering (h : s.Deliverable p f v b e r) (hn : s.notices = []) :
    Acts 3 (holdNotices p) (delivering p f v b r s) (delivering p f v b r s) := by
  have hboth : ∀ second, scan p second (delivering p f v b r s) = delivering p f v b r s := fun second => by
    by_cases hc : second = secondClass f v
    · rw [hc]; exact scan_delivering h
    · exact scan_other_delivering h hc
  exact Acts.cons (k := 1) (l := 2) (Acts.silent hn (hboth false) hn)
    (Acts.cons (k := 1) (l := 1) (Acts.silent hn (hboth true) hn) (Acts.silent hn (classSix_delivering h) hn))

/-- R147: a window that covers one NODE-fed lamp has its delivery put on offer. -/
theorem acts_takeWindow_due (h : s.Deliverable p f v b e r) (hn : s.notices = [])
    (hrest : ∀ q, q ≠ p → inService s q = true → s.AtRest q) {x : Notice} {t : State} (hnt : t.notices = [])
    (hx : runNotice x t = rescanAll (reformWhere (deliversOneOf [(p, f)]) s)) : Acts 13 [x] t (delivering p f v b r s) := by
  have hafter : ∀ q, q ≠ p → inService s q = true → (delivering p f v b r s).AtRest q := fun q hq hs =>
    State.AtRest.offers (((hrest q hq hs).reference b).noteOffered p _ f) fun hc => hq (linePos_injective hc).symm
  rcases reformWhere_due h with hr | hr
  · rw [hr, rescanAll_eq] at hx
    exact Acts.run hnt hx hn (acts_restNotices_due hn h hrest)
  · rw [hr, rescanAll_eq] at hx
    exact Acts.run hnt hx hn (acts_restNotices_one (s := delivering p f v b r s) (k := 3) hn hn h.bound.service
      (acts_holdNotices_delivering h hn) (fun _ => rfl) hafter hafter)

end Sys2Proof.Machine
end

section
/-!
RECHECK (R121, R142, R145, R146, R148).
-/
namespace Sys2Proof.Machine

variable {s t u : State}

/-! ## A request to the Exercise Queue -/

/-- The entry that a request for a target adds. -/
def queueEntry (t : Target) (who : Option Pos) : QueueEntry := { target := t, requesters := joinSet who (Tab.fill false) }

/-- What a RECHECK handed to the queue leaves. -/
def rechecked (t : Target) (who : Option Pos) (s : State) : State :=
  settle (answer (recheck t who s).1 [] (recheck t who s).2)

theorem recheckCircuit_exec {r : Request} {rest : List Request} {k : LineNo} (hs : s.Serving 16 r rest) (hl : 3 ≤ r.args.length)
    (h0 : argByte r.args 0 = 0) (h1 : argByte r.args 1 = k.val) : exec .recheck s = .next (rechecked (.circuit k) none s) := by
  refine congrArg (fun y => Host.Outcome.next (settle y)) ((serve_eq hs hl _).trans ?_)
  rw [h0]
  show recheckCircuit r.args s = _
  unfold recheckCircuit
  rw [show argLine r.args 1 = some k from (dif_pos (by rw [h1]; exact k.isLt)).trans (congrArg some (Fin.ext h1))]

theorem recheckFunction_exec {r : Request} {rest : List Request} {p : Pos} {f : Code} (hs : s.Serving 16 r rest)
    (hl : 3 ≤ r.args.length) (h0 : argByte r.args 0 = 1) (h1 : argByte r.args 1 = p.val + 1) (h2 : argByte r.args 2 = f.val) :
    (kindOf f ≠ .lamp → exec .recheck s = .next (settle (answer .badArg [] s)))
      ∧ (kindOf f = .lamp → inService s p = false → exec .recheck s = .next (settle (answer .notReady [] s)))
      ∧ (kindOf f = .lamp → inService s p = true → exec .recheck s = .next (rechecked (recheckTarget s p f) (some p) s)) := by
  have hserve : exec .recheck s = .next (settle (recheckFunction r.args s)) := by
    refine congrArg (fun y => Host.Outcome.next (settle y)) ((serve_eq hs hl _).trans ?_)
    rw [h0]
    rfl
  have hcode : argCode r.args 2 = some f :=
    (dif_pos (by rw [h2]; exact f.isLt)).trans (congrArg some (Fin.ext h2))
  rw [hserve]
  unfold recheckFunction
  rw [argPos_eq h1, hcode]
  dsimp only
  refine ⟨fun hk => ?_, fun hk hv => ?_, fun hk hv => ?_⟩
  · rw [if_pos hk]
  · rw [if_neg (not_not_intro hk), if_pos hv]
  · rw [if_neg (not_not_intro hk), if_neg (by rw [hv]; decide)]
    rfl

/-- R145: the answers to a request, by what the queue holds. -/
theorem queueRequest_cases (t : Target) (who : Option Pos) (s : State) :
    ((∃ e ∈ s.check.queue, e.target = t) → queueRequest t who s = (.merged, setExQueue (s.check.queue.map fun e =>
        if e.target = t then { e with requesters := joinSet who e.requesters } else e) s))
      ∧ ((∀ e ∈ s.check.queue, e.target ≠ t) → s.check.queue.length < 16 → queueRequest t who s = (.taken,
        if s.check.queue = [] then emit .slotTest (setExQueue [queueEntry t who] s)
        else setExQueue (s.check.queue ++ [queueEntry t who]) s))
      ∧ ((∀ e ∈ s.check.queue, e.target ≠ t) → 16 ≤ s.check.queue.length → queueRequest t who s = (.full, s)) := by
  have hany : (∀ e ∈ s.check.queue, e.target ≠ t) → ¬ (s.check.queue.any fun e => decide (e.target = t)) = true := by
    intro h hc
    obtain ⟨e, he, hd⟩ := List.any_eq_true.mp hc
    exact h e he (of_decide_eq_true hd)
  unfold queueRequest
  dsimp only
  refine ⟨fun ⟨e, he, ht⟩ => if_pos (List.any_eq_true.mpr ⟨e, he, decide_eq_true ht⟩), fun hno hlen => ?_, fun hno hlen => ?_⟩
  · refine (if_neg (hany hno)).trans ((if_pos hlen).trans (congrArg (Prod.mk QueueAnswer.taken) ?_))
    cases hq : s.check.queue with
    | nil => rfl
    | cons x xs => rfl
  · exact (if_neg (hany hno)).trans (if_neg (Nat.not_lt.mpr hlen))

/-- R145: a request that does not have the slot tested. -/
theorem rechecked_waits {r : Request} {rest : List Request} {t : Target} {who : Option Pos} (hn : s.notices = [])
    (hs : s.Serving 16 r rest) :
    ((∃ e ∈ s.check.queue, e.target = t) → rechecked t who s = (setExQueue (s.check.queue.map fun e =>
        if e.target = t then { e with requesters := joinSet who e.requesters } else e) s).replied r rest .ok [])
      ∧ ((∀ e ∈ s.check.queue, e.target ≠ t) → s.check.queue.length < 16 →
        s.check.queue ≠ [] ∨ s.decoder.motion = .moving ∨ s.consist.cplPresent = false ∨ s.check.slot ≠ none →
        rechecked t who s = (setExQueue (s.check.queue ++ [queueEntry t who]) s).replied r rest .ok [])
      ∧ ((∀ e ∈ s.check.queue, e.target ≠ t) → 16 ≤ s.check.queue.length → rechecked t who s = s.replied r rest .noSpace []) := by
  obtain ⟨hmerged, htaken, hfull⟩ := queueRequest_cases t who s
  unfold rechecked recheck
  refine ⟨fun h => ?_, fun hno hlen hwait => ?_, fun hno hlen => ?_⟩
  · rw [hmerged h]
    dsimp only
    rw [hs.answer_in]
    exact settle_eq hn
  · rw [htaken hno hlen]
    dsimp only
    by_cases hq : s.check.queue = []
    · rw [if_pos hq, hs.answer_in, hq]
      let y : State := (setExQueue [queueEntry t who] s).replied r rest .ok []
      have htest : slotTest y = y := by
        refine if_neg fun hc => ?_
        simp only [Bool.and_eq_true] at hc
        obtain ⟨⟨hslot, hstat⟩, hcpl⟩ := hc
        rcases hwait with h | h | h | h
        · exact h hq
        · have hm : y.decoder.motion = .stationary := of_decide_eq_true hstat
          rw [show y.decoder.motion = .moving from h] at hm
          cases hm
        · rw [show y.consist.cplPresent = false from h] at hcpl; cases hcpl
        · exact h (Option.isNone_iff_eq_none.mp hslot)
      exact (Acts.silent (x := .slotTest) (s := y) hn htest hn).settle hn (by decide)
    · rw [if_neg hq, hs.answer_in]
      exact settle_eq hn
  · rw [hfull hno hlen]
    exact settle_answer hn hs _

/-! ## The slot takes the entry -/

/-- R145: nothing is owed and nothing is handed over when an entry leaves the queue. -/
theorem acts_queueLeft_idle (hn : s.notices = []) (howed : ∀ k, (circuitRec s k).owed = false)
    (hhand : ∀ p, handItems p s = s) : Acts 5 [.queueLeft] s s := by
  have hfold : ∀ ks : List LineNo, ks.foldl (fun s k =>
      if (circuitRec s k).owed && decide (s.check.queue.length < Config.queueCapacity) then
        (queueRequest (.circuit k) none (modCircuit k (fun c => { c with owed := false }) s)).2
      else s) s = s := by
    intro ks
    induction ks with
    | nil => rfl
    | cons k ks ih =>
      rw [List.foldl_cons, if_neg]
      · exact ih
      · rw [howed k]; simp
  have hrun : runNotice .queueLeft s = emitAll (allPos.map Notice.handItems) s := by
    show queueLeft s = _
    unfold queueLeft
    rw [hfold]
  have hitem : ∀ p, Acts 1 [.handItems p] s s := fun p => Acts.silent hn (hhand p) hn
  exact Acts.run (k := 4) hn hrun hn
    ((hitem 0).cons (k := 1) (l := 3) ((hitem 1).cons (k := 1) (l := 2) ((hitem 2).cons (k := 1) (l := 1) (hitem 3))))

theorem acts_queueLeft (hn : s.notices = []) (howed : ∀ k, (circuitRec s k).owed = false)
    (hitems : ∀ p, (posRec s p).lampItems = []) : Acts 5 [.queueLeft] s s :=
  acts_queueLeft_idle hn howed fun p => by unfold handItems; rw [hitems p]

/-- R145, R146: the slot free and nothing else in the queue, the entry is taken at once. -/
theorem rechecked_taken {r : Request} {rest : List Request} {t : Target} {who : Option Pos} {ns : List Notice} {z u : State} {k : Nat}
    (hn : s.notices = []) (hs : s.Serving 16 r rest) (hq : s.check.queue = []) (hm : s.decoder.motion = .stationary)
    (hc : s.consist.cplPresent = true) (hslot : s.check.slot = none)
    (htake : takeEntry (queueEntry t who) (s.replied r rest .ok []) = emitAll ns z) (hz : z.notices = [])
    (hact : Acts k (ns ++ [.queueLeft]) z u) (hk : k ≤ 1000) : rechecked t who s = u := by
  let y : State := (setExQueue [queueEntry t who] s).replied r rest .ok []
  have hempty : setExQueue [] y = s.replied r rest .ok [] := by
    have : { s.check with queue := [] } = s.check := by rw [← hq]
    exact congrArg (fun c => ({ s with check := c } : State).replied r rest .ok []) this
  have hstat : isStationary y = true := decide_eq_true hm
  have htest : slotTest y = emitAll (ns ++ [.queueLeft]) z := by
    unfold slotTest
    rw [if_pos (by rw [show y.check.slot = none from hslot, hstat, show y.consist.cplPresent = true from hc]; rfl)]
    show emit .queueLeft (takeEntry (queueEntry t who) (setExQueue [] y)) = _
    rw [hempty, htake, emit_eq, emitAll_emitAll]
  have hrecheck : rechecked t who s = settle (emitAll [.slotTest] y) := by
    have htaken := (queueRequest_cases t who s).2.1 (by rw [hq]; intro e he; cases he) (by rw [hq]; decide)
    unfold rechecked recheck
    rw [htaken]
    dsimp only
    rw [if_pos hq, hs.answer_in]
    rfl
  rw [hrecheck]
  exact (Acts.run (x := .slotTest) (s := y) hn htest hz hact).settle hn (by omega)

end Sys2Proof.Machine
end

section
/-!
What the slot takes of a RECHECK (R121, R142, R146).
-/
namespace Sys2Proof.Machine

variable {s t u : State}

/-- The state u, made of s, with the entry for a target in the slot and the RECHECK answered. -/
def slotTaken (t : Target) (who : Option Pos) (window : Bool) (s u : State) (r : Request) (rest : List Request) : State :=
  State.replied { u with check := { u.check with slot := some {
    entry := queueEntry t who, window := window, expiry := s.now + ms s.settings.window } } } r rest .ok []

/-- The slot free, nothing in the Exercise Queue, at a standstill with coupling PRESENT, and nothing owed that waits for a
place in the queue. -/
structure State.SlotOpen (s : State) : Prop where
  queue : s.check.queue = []
  still : s.decoder.motion = .stationary
  coupled : s.consist.cplPresent = true
  slot : s.check.slot = none
  owed : ∀ k, (circuitRec s k).owed = false
  items : ∀ p, (posRec s p).lampItems = []

theorem acts_queueLeft_of (h : s.SlotOpen) (hn : u.notices = []) (howed : ∀ k, (circuitRec u k).owed = (circuitRec s k).owed)
    (hitems : ∀ p, posRec u p = posRec s p) : Acts 5 [.queueLeft] u u :=
  acts_queueLeft hn (fun k => (howed k).trans (h.owed k)) fun p => by rw [hitems]; exact h.items p

theorem openLineWindow_eq (k : LineNo) (s : State) : openLineWindow k s = modLine k (fun l =>
    if l.hold.isSome then l else { l with exercise := true, pendingOn := (timebase s l.tb).period + 1 }) s := by
  cases hold : (lineRec s k).hold with
  | none =>
    rw [openLineWindow_free hold]
    exact congrArg (fun l => setLines l s) (Tab.upd_congr _ _ (by
      rw [show (s.direct.lines.get k).hold = none from hold]
      rfl))
  | some x =>
    have hsame : openLineWindow k s = s := if_pos (by rw [hold]; rfl)
    rw [hsame]
    exact congrArg (fun l => setLines l s) (Tab.upd_eq_self _ _ (by
      rw [show (s.direct.lines.get k).hold = some x from hold]
      rfl)).symm

/-- R147: the target of a lamp under a window that opens on it. -/
theorem takeWindow_opens {p : Pos} {f : Code} (hk : kindOf f = .lamp) (hb : targetBeneath s p f = 0)
    (ho : s.delivery.pendingOverride = none) : takeWindow true [(p, f)] s =
      rescanAll (reformWhere (deliversOneOf [(p, f)]) (modEntry p f (fun y => { y with refusalLatch := false }) s)) := by
  have hchanged : targetChanged p f s = modEntry p f (fun y => { y with refusalLatch := false }) s :=
    if_neg (by rw [hk]; decide)
  have hreply : replyOverride (overrideOf p f) .notReady (modEntry p f (fun y => { y with refusalLatch := false }) s) =
      modEntry p f (fun y => { y with refusalLatch := false }) s := by
    unfold replyOverride
    rw [show (modEntry p f (fun y => { y with refusalLatch := false }) s).delivery.pendingOverride = none from ho]
  unfold takeWindow
  simp only [List.foldl_cons, List.foldl_nil, if_true]
  rw [hb, if_neg (by decide), hchanged, hreply]

theorem wiring_keeps (p : Pos) (f : Code) (v : Nat) (b : BlockNo) (s : State) : (wiring p f v b s).notices = s.notices
    ∧ (wiring p f v b s).check = s.check ∧ (wiring p f v b s).consist = s.consist := ⟨rfl, rfl, rfl⟩

/-- R142: circuit k with no evaluation made. -/
def unjudged (k : LineNo) (s : State) : State := modCircuit k (fun c => { c with last := none }) s

theorem unjudged_owed (k : LineNo) (s : State) (j : LineNo) : (circuitRec (unjudged k s) j).owed = (circuitRec s j).owed := by
  show ((s.check.circuits.upd k _).get j).owed = _
  rw [Tab.get_upd]
  split
  · rename_i hj; subst hj; rfl
  · rfl

/-- R121, R142: circuit k with no evaluation made and its line's window open. -/
def windowed (k : LineNo) (s : State) : State := modLine k (fun l =>
  if l.hold.isSome then l else { l with exercise := true, pendingOn := (timebase s l.tb).period + 1 }) (unjudged k s)

/-- R142, R146: the entry of a circuit is taken. -/
theorem takeEntry_circuit {r : Request} {rest : List Request} {k : LineNo} {who : Option Pos} :
    (codeLevel s (wiredOf s k).code ≠ 0 → takeEntry (queueEntry (.circuit k) who) (s.replied r rest .ok []) =
        slotTaken (.circuit k) who false s (unjudged k s) r rest)
      ∧ (codeLevel s (wiredOf s k).code = 0 → takeEntry (queueEntry (.circuit k) who) (s.replied r rest .ok []) =
        emitAll [.windowNotice true (coveredBy s (.circuit k))] (slotTaken (.circuit k) who true s (windowed k s) r rest)) := by
  unfold takeEntry queueEntry
  dsimp only
  refine ⟨fun hl => ?_, fun hl => ?_⟩
  · exact (if_pos (show levelBeneath (s.replied r rest .ok []) (.circuit k) ≠ 0 from hl)).trans rfl
  · rw [if_neg (show ¬ levelBeneath (s.replied r rest .ok []) (.circuit k) ≠ 0 from not_not_intro hl), openLineWindow_eq]
    rfl

theorem slotTaken_keeps (t : Target) (who : Option Pos) (window : Bool) (s u : State) (r : Request) (rest : List Request) :
    (slotTaken t who window s u r rest).notices = u.notices
      ∧ (slotTaken t who window s u r rest).check.circuits = u.check.circuits
      ∧ (slotTaken t who window s u r rest).consist = u.consist := ⟨rfl, rfl, rfl⟩

theorem acts_queueLeft_slotTaken (h : s.SlotOpen) {k : LineNo} (hn : u.notices = [])
    (hcheck : u.check.circuits = (unjudged k s).check.circuits) (hconsist : u.consist = s.consist) :
    Acts 5 [.queueLeft] u u := by
  refine acts_queueLeft_of h hn (fun j => ?_) fun p => ?_
  · unfold circuitRec; rw [hcheck]; exact unjudged_owed k s j
  · unfold posRec; rw [hconsist]

theorem rechecked_circuit_driven {r : Request} {rest : List Request} {k : LineNo} {who : Option Pos} (hn : s.notices = [])
    (hs : s.Serving 16 r rest) (h : s.SlotOpen) (hl : codeLevel s (wiredOf s k).code ≠ 0) :
    rechecked (.circuit k) who s = slotTaken (.circuit k) who false s (unjudged k s) r rest :=
  rechecked_taken (ns := []) (z := slotTaken (.circuit k) who false s (unjudged k s) r rest) hn hs h.queue h.still h.coupled h.slot
    ((takeEntry_circuit.1 hl).trans (emitAll_nil _).symm) hn (acts_queueLeft_slotTaken (k := k) h hn rfl rfl) (by decide)

theorem rechecked_circuit_window {r : Request} {rest : List Request} {k : LineNo} {who : Option Pos} (hn : s.notices = [])
    (hs : s.Serving 16 r rest) (h : s.SlotOpen) (hl : codeLevel s (wiredOf s k).code = 0) {u : State} {j : Nat} (hj : j ≤ 900)
    (hun : u.notices = []) (hcheck : u.check.circuits = (unjudged k s).check.circuits) (hconsist : u.consist = s.consist)
    (hu : Acts j [.windowNotice true (coveredBy s (.circuit k))] (slotTaken (.circuit k) who true s (windowed k s) r rest) u) :
    rechecked (.circuit k) who s = u :=
  rechecked_taken hn hs h.queue h.still h.coupled h.slot (takeEntry_circuit.2 hl) hn
    (Acts.cons (k := j) (l := 5) hu (acts_queueLeft_slotTaken h hun hcheck hconsist)) (by omega)

theorem deliveryKind_window {p : Pos} {f : Code} (h : windowCovers s p f = true) : deliveryKind s p f = .exs := if_pos h

theorem rechecked_circuit_wired {r : Request} {rest : List Request} {k : LineNo} {who : Option Pos} (hn : s.notices = [])
    (hs : s.Serving 16 r rest) (h : s.SlotOpen) (hl : codeLevel s (wiredOf s k).code = 0) {c : Contributor} {b : BlockNo}
    {e : DirEntry} {x : FnRecord} {v : State} (hcs : (circuitRec s k).contributors = [c])
    (hv : v = modEntry c.pos c.code (fun y => { y with refusalLatch := false })
      (slotTaken (.circuit k) who true s (windowed k s) r rest)) (hwired : v.WiredDue c.pos c.code 255 b e x)
    (hbeneath : targetBeneath s c.pos c.code = 0) (hrest : ∀ q, q ≠ c.pos → inService s q = true → v.AtRest q) :
    rechecked (.circuit k) who s = wiring c.pos c.code 255 b v := by
  have hcov : coveredBy s (.circuit k) = [(c.pos, c.code)] := by
    show (circuitRec s k).contributors.map _ = _
    rw [hcs]; rfl
  obtain ⟨h1, h2, h3⟩ := wiring_keeps c.pos c.code 255 b v
  have hvn : v.notices = [] := by rw [hv]; exact hn
  refine rechecked_circuit_window hn hs h hl (j := 14) (by decide) (h1.trans hvn) (by rw [h2, hv]; rfl) (by rw [h3, hv]; rfl) ?_
  rw [hcov]
  refine acts_takeWindow_wired hwired hvn (fun q hq hsv => hrest q hq ?_)
    (show (slotTaken (.circuit k) who true s (windowed k s) r rest).notices = [] from hn) ?_
  · rw [hv] at hsv; exact hsv
  · rw [hv]
    refine takeWindow_opens hwired.lamp hbeneath ?_
    have := hwired.noOverride
    rw [hv] at this
    exact this

theorem wiring_driven (p : Pos) (f : Code) (b : BlockNo) (s : State) : wiring p f 255 b s =
    modEntry p f (fun y => { y with delivered := some 255, driven := true }) (reference b s) := by
  refine congrArg (fun g => modEntry p f g (reference b s)) (funext fun y => ?_)
  show { y with delivered := some 255, driven := y.driven || true } = _
  rw [Bool.or_true]

/-- A row is found alike in states with the same blocks and the same positions. -/
theorem State.Bound.congr {p : Pos} {f : Code} {b : BlockNo} {e : DirEntry} {x : FnRecord} (h : s.Bound p f b e x)
    (hb : t.binding = s.binding) (hc : t.consist = s.consist) : t.Bound p f b e x := by
  have hpos : posRec t p = posRec s p := by unfold posRec; rw [hc]
  have hgroup : groupRec t p (groupOf f) = groupRec s p (groupOf f) := by unfold groupRec; rw [hb]
  have hblock : blockOf t b = blockOf s b := by unfold blockOf; rw [hb]
  refine ⟨?_, ?_, ?_, ?_, ?_, ?_, h.member, ?_⟩
  · have := h.service; unfold inService stateOf at this ⊢; rw [hpos]; exact this
  · have := h.present; unfold dirOf at this ⊢; rw [hpos]; exact this
  · rw [hgroup]; exact h.fetched
  · rw [hgroup]; exact h.space
  · rw [hgroup]; exact h.block
  · rw [hblock]; exact h.loaded
  · rw [hblock]; exact h.row

theorem slotTaken_covers {r : Request} {rest : List Request} {k : LineNo} {who : Option Pos} {c : Contributor}
    (hcs : (circuitRec s k).contributors = [c]) :
    windowCovers (slotTaken (.circuit k) who true s (windowed k s) r rest) c.pos c.code = true := by
  have hcontr : (circuitRec (unjudged k s) k).contributors = [c] := by
    rw [unjudged, circuitRec_modCircuit]; exact hcs
  show ((circuitRec (unjudged k s) k).contributors.any fun x => decide (x.pos = c.pos) && decide (x.code = c.code)) = true
  rw [hcontr]
  simp

/-- R142, R146: the slot takes a circuit. -/
theorem rechecked_circuit {r : Request} {rest : List Request} {k : LineNo} {who : Option Pos} (hn : s.notices = [])
    (hs : s.Serving 16 r rest) (h : s.SlotOpen) (u : State) (hu : u = slotTaken (.circuit k) who true s (windowed k s) r rest) :
    (codeLevel s (wiredOf s k).code ≠ 0 →
        rechecked (.circuit k) who s = slotTaken (.circuit k) who false s (unjudged k s) r rest)
      ∧ (codeLevel s (wiredOf s k).code = 0 → (circuitRec s k).contributors = [] → u.Resting → rechecked (.circuit k) who s = u)
      ∧ ∀ (c : Contributor) (b : BlockNo) (e : DirEntry) (x : FnRecord), codeLevel s (wiredOf s k).code = 0 →
        (circuitRec s k).contributors = [c] → s.Bound c.pos c.code b e x → x.feed = .wired →
        permits s e.policyClass x.fnClass .exs = true → kindOf c.code = .lamp → targetBeneath s c.pos c.code = 0 →
        s.delivery.pendingOverride = none → (∀ src, nodeCheck s c.pos src = none) →
        let v := modEntry c.pos c.code (fun y => { y with refusalLatch := false }) u
        let w := modEntry c.pos c.code (fun y => { y with delivered := some 255, driven := true }) (reference b v)
        v.OneDue c.pos c.code 255 → w.AtRest c.pos → (∀ q, q ≠ c.pos → inService s q = true → v.AtRest q) →
        rechecked (.circuit k) who s = w := by
  refine ⟨rechecked_circuit_driven hn hs h, fun hl hcs hrest => ?_, fun c b e x hl hcs hb hw hperm hk hbeneath hpend hchecks => ?_⟩
  · subst hu
    have hcov : coveredBy s (.circuit k) = [] := by
      show (circuitRec s k).contributors.map _ = []
      rw [hcs]; rfl
    refine rechecked_circuit_window hn hs h hl (j := 13) (by decide) hn rfl rfl ?_
    rw [hcov]
    exact Acts.run (k := 12) hn (takeWindow_nil true _) hn (acts_restNotices hn hrest)
  · intro v w hdue hafter hrest
    have hv : v = modEntry c.pos c.code (fun y => { y with refusalLatch := false })
        (slotTaken (.circuit k) who true s (windowed k s) r rest) := by rw [← hu]
    have hcovers : windowCovers v c.pos c.code = true := by rw [hv]; exact slotTaken_covers (r := r) (rest := rest) hcs
    have hwired : v.WiredDue c.pos c.code 255 b e x :=
      { bound := hb.congr (by rw [hv]; rfl) (by rw [hv]; rfl)
        wired := hw
        lamp := hk
        admitted := Or.inr (by rw [deliveryKind_window hcovers, hv]; exact hperm)
        due := hdue
        noOverride := by rw [hv]; exact hpend
        noChecks := fun src => by
          rw [hv]
          exact (by cases src <;> rfl : _ = nodeCheck s c.pos src).trans (hchecks src)
        after := by rw [wiring_driven]; exact hafter }
    rw [show w = wiring c.pos c.code 255 b v from (wiring_driven _ _ _ _).symm]
    exact rechecked_circuit_wired hn hs h hl hcs (by rw [← hu]) hwired hbeneath hrest

end Sys2Proof.Machine
end

section
/-!
What the slot takes of a RECHECK of a lamp (R142, R146, R148).
-/
namespace Sys2Proof.Machine

variable {s t u : State} {p : Pos} {f : Code} {b : BlockNo} {e : DirEntry} {x : FnRecord}

/-! ## A lamp that is not checked -/

theorem rechecked_lamp_off {r : Request} {rest : List Request} (hn : s.notices = []) (hs : s.Serving 16 r rest) (h : s.SlotOpen)
    (ho : (entryOf s p f).override = some 0) (hrun : stateOf s p = .running) : rechecked (.lamp p f) (some p) s =
      if (entryOf s p f).result = .unchecked then State.resulting p f .deferred (s.replied r rest .ok []) else s.replied r rest .ok [] := by
  let y : State := s.replied r rest .ok []
  show rechecked (.lamp p f) (some p) s =
    if (entryOf y p f).result = .unchecked then State.resulting p f .deferred y else y
  have htake : takeEntry (queueEntry (.lamp p f) (some p)) y = emitAll [.deferUnchecked p f, .slotTest] y := if_pos (Or.inr ho)
  have hstate : stateOf y p = .running := hrun
  have hdefer := acts_deferUnchecked (s := y) (p := p) (f := f) hn fun _ => by rw [hstate]; exact ⟨by decide, by decide⟩
  have hmark : Marked (if (entryOf y p f).result = .unchecked then State.resulting p f .deferred y else y) y := by
    split
    · exact resulting_marked _ _ _ _
    · exact Marked.refl y
  refine rechecked_taken hn hs h.queue h.still h.coupled h.slot htake hn (Acts.cons (k := 3) (l := 6) hdefer ?_) (by decide)
  generalize (if (entryOf y p f).result = .unchecked then State.resulting p f .deferred y else y) = z at hmark
  have hz : z.notices = [] := hmark.notices.trans hn
  refine Acts.cons (k := 1) (l := 5) (Acts.silent hz (slotTest_noQueue (by rw [hmark.check]; exact h.queue)) hz) ?_
  refine acts_queueLeft_of h hz (fun k => ?_) fun q => ?_
  · unfold circuitRec; rw [hmark.check]; rfl
  · obtain ⟨st, pt, rfl⟩ := hmark; rfl

/-! ## A node-lamp check -/

theorem put_put {α : Type} {n : Nat} (t : Tab α n) (i : Fin n) (a c : α) : (t.put i a).put i c = t.put i c := by
  refine Tab.ext_get fun j => ?_
  simp only [Tab.get_put]
  split <;> rfl

theorem setNodeCheck_setNodeCheck (p : Pos) (src : CheckSource) (c d : Option NodeLampCheck) (s : State) :
    setNodeCheck p src d (setNodeCheck p src c s) = setNodeCheck p src d s := by
  cases src
  · exact congrArg (fun x => ({ s with check := { s.check with slotChecks := x } } : State)) (put_put _ _ _ _)
  · exact congrArg (fun x => ({ s with check := { s.check with oppChecks := x } } : State)) (put_put _ _ _ _)

theorem blockRow_reference (b : BlockNo) (s : State) (m : Fin 16) :
    (blockOf (reference b s) b).rows.get m = (blockOf s b).rows.get m := by
  rw [show blockOf (reference b s) b = { blockOf s b with referenced := true } from Tab.get_upd_same _ _ _]

/-- R142: the row of a lamp is found, and its first reading falls due where it is lit. -/
theorem nodeLampLookup_found {src : CheckSource} {c : NodeLampCheck} (hc : nodeCheck s p src = some c) (hrow : c.row = none)
    (hb : s.Bound p c.code b e x) (hnode : x.feed = .node) (hkind : x.pointKind = .lamp) :
    nodeLampLookup p src s = setNodeCheck p src (some { c with
      row := some (x.point, x.nominal, x.loadKind)
      nextReading := if (entryOf s p c.code).delivered.getD 0 ≠ 0 then some (s.now + ms 50) else none }) (reference b s) := by
  obtain ⟨rep, hget⟩ := hb.row
  have hlook := ((lookup_held (f := none) (k := none) (w := .nodeLamp p src) hb.service hb.present).2.2 b hb.fetched hb.space hb.block).2
    (by rw [hb.loaded]; decide)
  have hcheck : checkableRow (blockOf (reference b s) b) e c.code = some (x.point, x.nominal, x.loadKind) := by
    unfold checkableRow
    rw [if_neg (Nat.not_le.mpr hb.member), blockRow_reference, hget]
    exact if_pos (by rw [hnode, hkind]; rfl)
  have hlit : (if litAt (reference b s) p c.code then some ((reference b s).now + Config.nodeLampWait) else none) =
      if (entryOf s p c.code).delivered.getD 0 ≠ 0 then some (s.now + ms 50) else none := by
    have : litAt (reference b s) p c.code = decide ((entryOf s p c.code).delivered.getD 0 ≠ 0) := by
      show litAt s p c.code = _
      unfold litAt
      cases (entryOf s p c.code).delivered <;> rfl
    rw [this]
    by_cases h : (entryOf s p c.code).delivered.getD 0 ≠ 0
    · rw [if_pos h, if_pos (decide_eq_true h)]; rfl
    · rw [if_neg h, if_neg (by simpa using h)]
  unfold nodeLampLookup
  rw [hc]
  dsimp only
  rw [if_neg (by rw [hrow]; decide), hlook]
  dsimp only
  rw [hcheck]
  dsimp only
  rw [hlit]

/-- R142: a check of (p, f) that has not found its row. -/
def newCheck (f : Code) (s : State) : NodeLampCheck :=
  { code := f, expiry := s.now + ms s.settings.window, tolerance := s.settings.tolerance, threshold := s.settings.threshold }

/-- R142: a check of (p, f) with its row found. -/
def foundCheck (p : Pos) (f : Code) (x : FnRecord) (s : State) : NodeLampCheck :=
  { newCheck f s with
    row := some (x.point, x.nominal, x.loadKind)
    nextReading := if (entryOf s p f).delivered.getD 0 ≠ 0 then some (s.now + ms 50) else none }

/-- The state with the check of (p, f) in the slot, not yet looked up. -/
def lampTaken (p : Pos) (f : Code) (window : Bool) (s : State) (r : Request) (rest : List Request) : State :=
  slotTaken (.lamp p f) (some p) window s (setNodeCheck p .slot (some (newCheck f s)) s) r rest

theorem takeEntry_lamp {r : Request} {rest : List Request} (hv : inService s p = true) (ho : (entryOf s p f).override ≠ some 0) :
    (targetBeneath s p f ≠ 0 → takeEntry (queueEntry (.lamp p f) (some p)) (s.replied r rest .ok []) =
        emitAll [.nodeLampLookup p .slot] (lampTaken p f false s r rest))
      ∧ (targetBeneath s p f = 0 → takeEntry (queueEntry (.lamp p f) (some p)) (s.replied r rest .ok []) =
        emitAll [.windowNotice true [(p, f)], .nodeLampLookup p .slot] (lampTaken p f true s r rest)) := by
  have hcheck : ¬ (inService (s.replied r rest .ok []) p = false ∨ (entryOf (s.replied r rest .ok []) p f).override = some 0) := by
    rintro (h | h)
    · rw [show inService (s.replied r rest .ok []) p = true from hv] at h; cases h
    · exact ho h
  unfold takeEntry queueEntry
  dsimp only
  rw [if_neg hcheck]
  refine ⟨fun hl => ?_, fun hl => ?_⟩
  · exact (if_pos (show levelBeneath (s.replied r rest .ok []) (.lamp p f) ≠ 0 from hl)).trans rfl
  · refine (if_neg (show ¬ levelBeneath (s.replied r rest .ok []) (.lamp p f) ≠ 0 from not_not_intro hl)).trans ?_
    show emit (.nodeLampLookup p .slot) (emit (.windowNotice true [(p, f)]) (lampTaken p f true s r rest)) = _
    rw [emit_eq, emit_eq, emitAll_emitAll]
    rfl

end Sys2Proof.Machine
end

section
/-!
RECHECK as a whole (R121, R142, R145, R146, R148).
-/
namespace Sys2Proof.Machine

variable {s t u : State} {p : Pos} {f : Code} {b : BlockNo} {e : DirEntry} {x : FnRecord}

/-- The state with the check of (p, f) in the slot and its row found. -/
def lampChecked (p : Pos) (f : Code) (x : FnRecord) (b : BlockNo) (window : Bool) (s : State) (r : Request) (rest : List Request) :
    State :=
  slotTaken (.lamp p f) (some p) window s (setNodeCheck p .slot (some (foundCheck p f x s)) (reference b s)) r rest

theorem setNodeCheck_lampTaken (p : Pos) (f : Code) (x : FnRecord) (b : BlockNo) (window : Bool) (s : State) (r : Request)
    (rest : List Request) : setNodeCheck p .slot (some (foundCheck p f x s)) (reference b (lampTaken p f window s r rest)) =
      lampChecked p f x b window s r rest := by
  have h := setNodeCheck_setNodeCheck p .slot (some (newCheck f s)) (some (foundCheck p f x s)) (reference b s)
  exact congrArg (fun u => slotTaken (.lamp p f) (some p) window s u r rest) h

theorem nodeCheck_lampTaken (p : Pos) (f : Code) (window : Bool) (s : State) (r : Request) (rest : List Request) :
    nodeCheck (lampTaken p f window s r rest) p .slot = some (newCheck f s) := Tab.get_put_same _ _ _

theorem acts_queueLeft_lampChecked (h : s.SlotOpen) (hn : u.notices = []) (hc : u.check.circuits = s.check.circuits)
    (hp : u.consist = s.consist) : Acts 5 [.queueLeft] u u :=
  acts_queueLeft_of h hn (fun k => by unfold circuitRec; rw [hc]) fun q => by unfold posRec; rw [hp]

theorem rechecked_lamp_driven {r : Request} {rest : List Request} (hn : s.notices = []) (hs : s.Serving 16 r rest) (h : s.SlotOpen)
    (hb : s.Bound p f b e x) (hnode : x.feed = .node) (hkind : x.pointKind = .lamp) (ho : (entryOf s p f).override ≠ some 0)
    (hl : targetBeneath s p f ≠ 0) : rechecked (.lamp p f) (some p) s = lampChecked p f x b false s r rest := by
  let z : State := lampTaken p f false s r rest
  have hbz : z.Bound p (newCheck f s).code b e x := hb.congr rfl rfl
  have hlook : nodeLampLookup p .slot z = lampChecked p f x b false s r rest :=
    (nodeLampLookup_found (s := z) (nodeCheck_lampTaken p f false s r rest) rfl hbz hnode hkind).trans
      (setNodeCheck_lampTaken p f x b false s r rest)
  exact rechecked_taken hn hs h.queue h.still h.coupled h.slot ((takeEntry_lamp hb.service ho).1 hl) hn
    (Acts.cons (k := 1) (l := 5) (Acts.silent (s := z) hn hlook hn) (acts_queueLeft_lampChecked h hn rfl rfl)) (by decide)

/-! ## A lamp under a window -/

/-- What the Delivery Unit finds does not change with the node-lamp checks. -/
theorem State.OneDue.of_found {src : CheckSource} {c : Option NodeLampCheck} {v : Nat}
    (h : (setNodeCheck p src c (reference b s)).OneDue p f v) : s.OneDue p f v := by
  have hsame : (reference b s).OneDue p f v := by
    cases src <;> exact ⟨h.stops, h.deliveries, h.management, h.reads, h.first, h.second⟩
  exact ⟨hsame.stops, fun second g => (offerable_reference b s p second g).symm.trans (hsame.deliveries second g),
    hsame.management, (dueReads_reference b s p).symm.trans hsame.reads, hsame.first, hsame.second⟩

theorem State.AtRest.of_found {src : CheckSource} {c : Option NodeLampCheck} {q : Pos}
    (h : (setNodeCheck p src c (Machine.reference b s)).AtRest q) : s.AtRest q := by
  have hsame : (Machine.reference b s).AtRest q := by
    cases src <;> exact ⟨⟨h.stops, h.deliveries, h.management, h.first, h.second⟩, h.reads⟩
  exact ⟨⟨fun o ho => (stopHeld_reference b s q o).symm.trans (hsame.stops o ho),
    fun second g => (offerable_reference b s q second g).symm.trans (hsame.deliveries second g),
    hsame.management, hsame.first, hsame.second⟩, (dueReads_reference b s q).symm.trans hsame.reads⟩

/-- The entry of (p, f) free to be delivered again. -/
def unlatched (p : Pos) (f : Code) (s : State) : State := modEntry p f (fun y => { y with refusalLatch := false }) s

/-- R142: the row of a lamp whose delivery stands on offer is found. -/
theorem nodeLampLookup_delivering {v : Nat} {c : NodeLampCheck} (h : s.Deliverable p f v b e x) (hc : nodeCheck s p .slot = some c)
    (hcode : c.code = f) (hrow : c.row = none) (hkind : x.pointKind = .lamp) :
    nodeLampLookup p .slot (delivering p f v b x s) = setOffers (fun os => os ++ [setOffer p f v (deliveryKind s p f) x])
      (noteOffered p (secondClass f v) f (setNodeCheck p .slot (some { c with
        row := some (x.point, x.nominal, x.loadKind)
        nextReading := if (entryOf s p f).delivered.getD 0 ≠ 0 then some (s.now + ms 50) else none }) (reference b s))) := by
  subst hcode
  have hcd : nodeCheck (delivering p c.code v b x s) p .slot = some c := hc
  refine (nodeLampLookup_found hcd hrow (h.again.bound.congr rfl rfl) h.node hkind).trans ?_
  exact congrArg (fun y => setOffers (fun os => os ++ [setOffer p c.code v (deliveryKind s p c.code) x])
    (noteOffered p (secondClass c.code v) c.code (setNodeCheck p .slot (some { c with
        row := some (x.point, x.nominal, x.loadKind)
        nextReading := if (entryOf s p c.code).delivered.getD 0 ≠ 0 then some (s.now + ms 50) else none }) y)))
    (reference_reference b s)

/-- A lamp just taken under a window, its entry free to be delivered again. -/
def lampOpened (p : Pos) (f : Code) (s : State) (r : Request) (rest : List Request) : State :=
  unlatched p f (lampTaken p f true s r rest)

theorem lampOpened_found (p : Pos) (f : Code) (x : FnRecord) (b : BlockNo) (s : State) (r : Request) (rest : List Request) :
    setNodeCheck p .slot (some (foundCheck p f x s)) (reference b (lampOpened p f s r rest)) =
      unlatched p f (lampChecked p f x b true s r rest) := by
  rw [← setNodeCheck_lampTaken]; rfl

theorem lampOpened_keeps (p : Pos) (f : Code) (s : State) (r : Request) (rest : List Request) :
    (lampOpened p f s r rest).notices = s.notices ∧ (lampOpened p f s r rest).consist = s.consist
      ∧ (lampOpened p f s r rest).check.circuits = s.check.circuits ∧ deliveryKind (lampOpened p f s r rest) p f = .exs
      ∧ (entryOf (lampOpened p f s r rest) p f).delivered = (entryOf s p f).delivered
      ∧ nodeCheck (lampOpened p f s r rest) p .slot = some (newCheck f s) := by
  refine ⟨rfl, rfl, rfl, deliveryKind_window ?_, ?_, nodeCheck_lampTaken p f true s r rest⟩
  · show (true && (decide (p = p) && decide (f = f))) = true
    simp
  · unfold lampOpened unlatched
    rw [entryOf_modEntry, if_pos ⟨rfl, rfl⟩]
    rfl

theorem lampChecked_keeps (p : Pos) (f : Code) (x : FnRecord) (b : BlockNo) (window : Bool) (s : State) (r : Request)
    (rest : List Request) : (unlatched p f (lampChecked p f x b window s r rest)).notices = s.notices
      ∧ (unlatched p f (lampChecked p f x b window s r rest)).check.circuits = s.check.circuits
      ∧ (unlatched p f (lampChecked p f x b window s r rest)).consist = s.consist := ⟨rfl, rfl, rfl⟩

theorem offered_keeps (F : List Offer → List Offer) (p : Pos) (c : Bool) (f : Code) (s : State) :
    (setOffers F (noteOffered p c f s)).notices = s.notices ∧ (setOffers F (noteOffered p c f s)).check.circuits = s.check.circuits
      ∧ (setOffers F (noteOffered p c f s)).consist = s.consist := ⟨rfl, rfl, rfl⟩

theorem lampOpened_ready {r : Request} {rest : List Request} {fl : Flight} (hb : s.Bound p f b e x) (hnode : x.feed = .node)
    (hfl : s.line.flight = some fl) (hpoint : x.point ≤ 63) (hperm : permits s e.policyClass x.fnClass .exs = true)
    (hdue : (unlatched p f (lampChecked p f x b true s r rest)).OneDue p f 255) :
    (lampOpened p f s r rest).Deliverable p f 255 b e x where
  busy := ⟨fl, hfl⟩
  bound := hb.congr rfl rfl
  node := hnode
  point := hpoint
  admitted := Or.inr (by rw [(lampOpened_keeps p f s r rest).2.2.2.1]; exact hperm)
  due := by rw [← lampOpened_found] at hdue; exact hdue.of_found

theorem rechecked_lamp_window {r : Request} {rest : List Request} {fl : Flight} (hn : s.notices = []) (hs : s.Serving 16 r rest)
    (h : s.SlotOpen) (hlamp : kindOf f = .lamp) (hb : s.Bound p f b e x) (hnode : x.feed = .node) (hkind : x.pointKind = .lamp)
    (ho : (entryOf s p f).override ≠ some 0) (hl : targetBeneath s p f = 0) (hfl : s.line.flight = some fl) (hpoint : x.point ≤ 63)
    (hperm : permits s e.policyClass x.fnClass .exs = true) (hpend : s.delivery.pendingOverride = none)
    (hdue : (unlatched p f (lampChecked p f x b true s r rest)).OneDue p f 255)
    (hrest : ∀ q, q ≠ p → inService s q = true → (unlatched p f (lampChecked p f x b true s r rest)).AtRest q) :
    rechecked (.lamp p f) (some p) s = setOffers (fun os => os ++ [setOffer p f 255 .exs x])
      (noteOffered p false f (unlatched p f (lampChecked p f x b true s r rest))) := by
  have hready := lampOpened_ready (r := r) (rest := rest) hb hnode hfl hpoint hperm hdue
  obtain ⟨hnz, hcz, hkz, hexs, hent, hcheck⟩ := lampOpened_keeps p f s r rest
  have hnz' := hnz.trans hn
  have hopen := acts_takeWindow_due (x := .windowNotice true [(p, f)]) (t := lampTaken p f true s r rest) hready hnz'
    (fun q hq hsv => by have := hrest q hq hsv; rw [← lampOpened_found] at this; exact this.of_found) hn
    (takeWindow_opens (s := lampTaken p f true s r rest) hlamp hl hpend)
  have hlook := nodeLampLookup_delivering hready hcheck rfl rfl hkind
  rw [hexs, hent, secondClass_lamp hlamp] at hlook
  have hfinal : nodeLampLookup p .slot (delivering p f 255 b x (lampOpened p f s r rest)) =
      setOffers (fun os => os ++ [setOffer p f 255 .exs x])
        (noteOffered p false f (unlatched p f (lampChecked p f x b true s r rest))) := by
    rw [← lampOpened_found]
    exact hlook
  obtain ⟨hn1, hk1, hc1⟩ := lampChecked_keeps p f x b true s r rest
  generalize unlatched p f (lampChecked p f x b true s r rest) = v at hfinal hn1 hk1 hc1
  obtain ⟨hn2, hk2, hc2⟩ := offered_keeps (fun os => os ++ [setOffer p f 255 .exs x]) p false f v
  generalize setOffers (fun os => os ++ [setOffer p f 255 .exs x]) (noteOffered p false f v) = w at hfinal hn2 hk2 hc2
  have hleft := acts_queueLeft_lampChecked (u := w) h (hn2.trans (hn1.trans hn)) (hk2.trans hk1) (hc2.trans hc1)
  have hlast := Acts.cons (k := 1) (l := 5) (Acts.silent (x := .nodeLampLookup p .slot)
    (s := delivering p f 255 b x (lampOpened p f s r rest)) hnz' hfinal (hn2.trans (hn1.trans hn))) hleft
  exact rechecked_taken hn hs h.queue h.still h.coupled h.slot ((takeEntry_lamp hb.service ho).2 hl) hn
    (Acts.cons (k := 13) (l := 6) hopen hlast) (by decide)

/-! ## The request -/

theorem recheckTarget_of (k : LineNo) :
    ((∀ k, holdsContributor s k p f = false) → recheckTarget s p f = .lamp p f)
      ∧ (holdsContributor s k p f = true → (∀ x, x < k → holdsContributor s x p f = false) → recheckTarget s p f = .circuit k) := by
  have hsplit : ∀ k : LineNo, allLines = allLines.take k.val ++ k :: allLines.drop (k.val + 1) := by decide
  have hbefore : ∀ k : LineNo, ∀ c ∈ allLines.take k.val, c < k := by decide
  unfold recheckTarget
  refine ⟨fun h => ?_, fun h hlow => ?_⟩
  · rw [List.find?_eq_none.mpr fun k _ => by rw [h k]; decide]
  · have hfind : allLines.find? (fun k => holdsContributor s k p f) = some k :=
      List.find?_eq_some_iff_append.mpr ⟨h, _, _, hsplit k, fun c hc => by rw [hlow c (hbefore k c hc)]; rfl⟩
    rw [hfind]

/-- Settles O55: what a RECHECK is answered, and what the slot takes of it. -/
theorem circuitIsRechecked : Obligations.CircuitIsRechecked := by
  unfold Obligations.CircuitIsRechecked
  intro s r rest hn hs hl a asked free entered takesCircuit takesLamp
  have hasked : ∀ (t : Target) (who : Option Pos), exec .recheck s = .next (rechecked t who s) → asked t who := by
    intro t who hexec
    obtain ⟨hmerged, htaken, hfull⟩ := rechecked_waits (t := t) (who := who) hn hs
    cases who <;>
      exact ⟨fun h => hexec.trans (congrArg _ (hmerged h)), fun h hlen hw => hexec.trans (congrArg _ (htaken h hlen hw)),
        fun h hlen => hexec.trans (congrArg _ (hfull h hlen))⟩
  have hopen : free → s.SlotOpen := fun ⟨h1, h2, h3, h4, h5, h6⟩ => ⟨h1, h2, h3, h4, h5, h6⟩
  have hcircuit : ∀ (k : LineNo) (who : Option Pos), exec .recheck s = .next (rechecked (.circuit k) who s) → takesCircuit k who := by
    intro k who hexec hfree level fresh u
    have hlevel : level = codeLevel s (wiredOf s k).code := (codeLevel_eq s _).symm
    have hu : u = slotTaken (.circuit k) who true s (windowed k s) r rest := by cases who <;> rfl
    obtain ⟨hdriven, hempty, hwired⟩ := rechecked_circuit hn hs (hopen hfree) u hu
    rw [hlevel, hexec]
    refine ⟨fun h => congrArg _ ((hdriven h).trans (by cases who <;> rfl)), fun h hcs hrest => congrArg _ (hempty h hcs hrest),
      fun c b e x h hcs hb hw hperm hk hbeneath hpend hchecks hdue hafter hrest =>
        congrArg _ (hwired c b e x h hcs hb hw hperm hk hbeneath hpend hchecks hdue hafter hrest)⟩
  have hlamp : ∀ (p : Pos) (f : Code), kindOf f = .lamp → exec .recheck s = .next (rechecked (.lamp p f) (some p) s) →
      takesLamp p f := by
    intro p f hk hexec hfree
    rw [hexec]
    refine ⟨fun ho hrun => congrArg _ (rechecked_lamp_off hn hs (hopen hfree) ho hrun), fun b e x hb hnode hkind ho => ?_⟩
    intro checked
    refine ⟨fun hl => congrArg _ (rechecked_lamp_driven hn hs (hopen hfree) hb hnode hkind ho hl),
      fun fl hl hfl hpoint hperm hpend _ => ?_⟩
    intro v hdue hrest
    exact congrArg _ (rechecked_lamp_window hn hs (hopen hfree) hk hb hnode hkind ho hl hfl hpoint hperm hpend hdue hrest)
  refine ⟨fun k h0 h1 => ?_, fun h0 h1 => ?_, fun p f h0 h1 h2 => ?_⟩
  · have hexec := recheckCircuit_exec hs hl h0 h1
    exact ⟨hasked _ _ hexec, hcircuit _ _ hexec⟩
  · refine congrArg (fun y => Host.Outcome.next (settle y)) ((serve_eq hs hl _).trans ?_) |>.trans (congrArg _ (settle_answer hn hs .badArg))
    rw [show argByte r.args 0 = 0 from h0]
    show recheckCircuit r.args s = _
    unfold recheckCircuit
    rw [show argLine r.args 1 = none from dif_neg (Nat.not_lt.mpr h1)]
  · obtain ⟨hbad, hready, hexec⟩ := recheckFunction_exec hs hl h0 h1 h2
    refine ⟨fun hk => (hbad hk).trans (congrArg _ (settle_answer hn hs _)),
      fun hk hv => (hready hk hv).trans (congrArg _ (settle_answer hn hs _)), fun hk hv hno => ?_, fun k hk hv hin hlow => ?_⟩
    · have h := hexec hk hv
      rw [(recheckTarget_of 0).1 hno] at h
      exact ⟨hasked _ _ h, hlamp p f hk h⟩
    · have h := hexec hk hv
      rw [(recheckTarget_of k).2 hin hlow] at h
      exact ⟨hasked _ _ h, hcircuit _ _ h⟩

end Sys2Proof.Machine
end

section
/-!
Ends of transactions with a position, by what is left of the line (R23, R24, R32, R34, R35).
-/
namespace Sys2Proof.Machine

variable {s t u x y : State}

/-- The operation in flight addresses p, and is neither a POLL nor an ASSIGN. -/
structure Offer.Addresses (o : Offer) (p : Pos) : Prop where
  poll : o.op ≠ .poll
  assign : o.op ≠ .assign
  pos : o.pos = linePos p

theorem countEnd_heard_at {o : Offer} {p : Pos} {out : LineOutcome} (ho : o.Addresses p) (h : out ≠ .unheard) (s : State) :
    countEnd o out s = setUnheard p 0 s := by
  unfold countEnd
  rw [if_neg ho.assign, ho.pos, trailerPos_linePos.mpr rfl]
  dsimp only
  exact if_neg h

theorem countEnd_unheard_at {o : Offer} {p : Pos} (ho : o.Addresses p) (hs : countsSilence s p = true) :
    countEnd o .unheard s = setUnheard p (min 3 (unheardOf s p + 1)) s := by
  unfold countEnd
  rw [if_neg ho.assign, ho.pos, trailerPos_linePos.mpr rfl]
  dsimp only
  rw [if_pos rfl, if_pos hs]
  rfl

theorem classify_heard {r : Reply} {out : LineOutcome} {data : Option Word} (h : classify r = (out, data)) : out ≠ .unheard := by
  rw [classify_eq] at h
  split at h
  · split at h <;> cases h <;> decide
  · cases h; decide

/-- R23, R35: a reply in time from p, its Service flag clear. -/
theorem heard_ends {o : Offer} {p : Pos} {d : Time} {r : Reply} {out : LineOutcome} {data : Option Word} (h : s.InFlight o d)
    (ho : o.Addresses p) (hc : classify r = (out, data)) (hm : dataMissing o.op out data = false) (hs : r.service = false) :
    exec (.transactionEnd r) s = .next (settle (emitAll [.lineEnd o out data, .lineFree] (setUnheard p 0 s.over))) := by
  rw [reply_exec h ho.poll hc hm, hs, endNotices_heard (classify_heard hc), countEnd_heard_at ho (classify_heard hc)]

theorem dataMissing_some {op : LineOp} {out : LineOutcome} (w : Word) : dataMissing op out (some w) = false := by
  unfold dataMissing
  simp

/-- R23: how a reply ends, by its flags. -/
theorem reply_ends {o : Offer} {p : Pos} {d : Time} (h : s.InFlight o d) (ho : o.Addresses p) :
    (∀ w : Word, exec (.transactionEnd { heard := true, ready := true, service := false, data := some w }) s =
        .next (settle (emitAll [.lineEnd o .ready (some w), .lineFree] (setUnheard p 0 s.over))))
      ∧ (∀ w, exec (.transactionEnd { heard := true, ready := false, service := false, data := w }) s =
        .next (settle (emitAll [.lineEnd o .notReady none, .lineFree] (setUnheard p 0 s.over))))
      ∧ ∀ any w, exec (.transactionEnd { heard := false, ready := any, service := false, data := w }) s =
        .next (settle (emitAll [.lineEnd o .notHeard none, .lineFree] (setUnheard p 0 s.over))) :=
  ⟨fun w => heard_ends h ho rfl (dataMissing_some w) rfl, fun _ => heard_ends h ho rfl (dataMissing_notReady (by decide)) rfl,
    fun _ _ => heard_ends h ho rfl (dataMissing_notReady (by decide)) rfl⟩

theorem stateOf_over (s : State) (p : Pos) : stateOf s.over p = stateOf s p := rfl

/-- R24, R32: the deadline, the counter of p short of 3 afterwards. -/
theorem unheard_ends {o : Offer} {p : Pos} {d : Time} (h : s.InFlight o d) (ho : o.Addresses p) (hs : countsSilence s p = true)
    (hu : unheardOf s p < 2) : exec .replyDeadline s = .next (settle (emitAll [.lineEnd o .unheard none, .lineFree]
      (setUnheard p (unheardOf s p + 1) (advanceTo d s).over))) := by
  have hs1 : countsSilence (advanceTo d s).over p = true := by
    have : stateOf (advanceTo d s).over p = stateOf s p := stateOf_advanceTo d s p
    unfold countsSilence at hs ⊢
    rw [this]; exact hs
  have hu1 : unheardOf (advanceTo d s).over p = unheardOf s p := rfl
  have hsil : raisesSilence o .unheard (advanceTo d s) = none := by
    unfold raisesSilence
    rw [if_neg ho.assign, ho.pos, trailerPos_linePos.mpr rfl]
    exact if_neg fun hc => by
      have h2 : unheardOf s p = 2 := hc.2.2
      omega
  rw [deadline_exec h ho.poll, endNotices_plain hsil, countEnd_unheard_at ho hs1, hu1, Nat.min_eq_right (by omega)]

/-- R24, R32, R179: the deadline that takes the counter of p to 3. -/
theorem silent_ends {o : Offer} {p : Pos} {d : Time} (h : s.InFlight o d) (ho : o.Addresses p) (hs : countsSilence s p = true)
    (hu : unheardOf s p = 2) : exec .replyDeadline s = .next (settle (emitAll
      [.lineEnd o .unheard none, .silenceNotice p, .lineFree] (setUnheard p 3 (advanceTo d s).over))) := by
  have hs0 : countsSilence (advanceTo d s) p = true := by
    have : stateOf (advanceTo d s) p = stateOf s p := stateOf_advanceTo d s p
    unfold countsSilence at hs ⊢
    rw [this]; exact hs
  have hs1 : countsSilence (advanceTo d s).over p = true := hs0
  have hu1 : unheardOf (advanceTo d s).over p = 2 := hu
  have hsil : raisesSilence o .unheard (advanceTo d s) = some p := by
    unfold raisesSilence
    rw [if_neg ho.assign, ho.pos, trailerPos_linePos.mpr rfl]
    exact if_pos ⟨rfl, hs0, hu⟩
  rw [deadline_exec h ho.poll, countEnd_unheard_at ho hs1, hu1]
  unfold endNotices
  rw [hsil]
  rfl

/-! ## What is left of the line -/

theorem settle_frees {k : Nat} {o : Offer} {out : LineOutcome} {data : Option Word} (hx : x.notices = [])
    (h : Acts k [.lineEnd o out data] x y) (hy : y.notices = []) (ho : y.line.offers = []) (hk : k ≤ 1000) :
    settle (emitAll [.lineEnd o out data, .lineFree] x) = y.free :=
  (Acts.cons (l := 1) h (acts_lineFree hy ho)).settle hx (by omega)

theorem settle_grants {k : Nat} {o o' : Offer} {out : LineOutcome} {data : Option Word} (hx : x.notices = [])
    (h : Acts k [.lineEnd o out data] x (setOffers (fun _ => [o']) y)) (hy : y.notices = []) (ho : y.line.offers = [])
    (hg : grantNotices o' = []) (hp : notePhase o' (y.granted o') = y.granted o') (hk : k ≤ 1000) :
    settle (emitAll [.lineEnd o out data, .lineFree] x) = y.granted o' :=
  (Acts.cons (l := 1) h (acts_lineGrant hy ho hg hp)).settle hx (by omega)

end Sys2Proof.Machine
end

section
/-!
The end of a fetch word (R43, R45, R46, R81, R83 to R87).
-/
namespace Sys2Proof.Machine

variable {s t u x : State} {p : Pos} {g : Group} {b : BlockNo} {e : DirEntry}

/-- R84: the offer of the word at address a of block b. -/
def wordOf (p : Pos) (g : Group) (b : BlockNo) (a : Nat) : Offer :=
  { requester := .bindingStore, cls := 2, pos := linePos p, op := .readWord, addr := some a, data := none, why := .fetchWord p g b a }

theorem wordOf_valid {a : Nat} (h : a ≤ 1023) : offerValid (wordOf p g b a) = true := by
  have hp : linePos p ≠ 0 := by revert p; decide
  show (decide (linePos p ≠ 0) && true && decide (a ≤ 1023)) = true
  rw [decide_eq_true hp, decide_eq_true h]; rfl

theorem wordOf_addresses (a : Nat) : (wordOf p g b a).Addresses p := ⟨nofun, nofun, rfl⟩

/-- Block b is being fetched for (p, g), its next word that of row m and index i. -/
structure State.Fetching (s : State) (p : Pos) (g : Group) (b : BlockNo) (e : DirEntry) (m i : Nat) : Prop where
  state : (blockOf s b).state = .fetching
  owner : (blockOf s b).owner = some (p, g)
  progress : (blockOf s b).progress = some (m, i)
  entry : dirOf s p g = some e

/-- No block of p but b is being fetched. -/
def State.FetchesOnly (s : State) (p : Pos) (b : BlockNo) : Prop :=
  ∀ c h, c ≠ b → (blockOf s c).owner = some (p, h) → (blockOf s c).state ≠ .fetching

theorem fetchingBlock_only {m i : Nat} (h : s.Fetching p g b e m i) (ho : s.FetchesOnly p b) : fetchingBlock s p = some b := by
  have hmem : ∀ b : BlockNo, b ∈ allBlocks := by decide
  unfold fetchingBlock
  generalize hx : allBlocks.find? _ = x
  cases x with
  | none =>
    have := List.find?_eq_none.mp hx b (hmem b)
    rw [h.state, h.owner] at this
    simp at this
  | some c =>
    have hc := List.find?_some hx
    by_cases hcb : c = b
    · rw [hcb]
    · cases how : (blockOf s c).owner with
      | none => rw [how] at hc; simp at hc
      | some y =>
        obtain ⟨q, k⟩ := y
        rw [how] at hc
        simp only [Bool.and_eq_true, decide_eq_true_eq] at hc
        obtain ⟨hstate, rfl⟩ := hc
        exact absurd hstate (ho c k hcb how)

theorem nextFetchAddr_eq {m i : Nat} (h : s.Fetching p g b e m i) : nextFetchAddr s b = some (e.locator + 4 * m + i) := by
  unfold nextFetchAddr
  rw [h.owner, h.progress]
  dsimp only
  rw [h.entry]
  rfl

/-- R84: the word of the one block being fetched is offered while the transaction before it ends. -/
theorem offerFetch_next {m i : Nat} {o : Offer} {d : Time} (h : s.Fetching p g b e m i) (ho : s.FetchesOnly p b)
    (hl : e.locator + 4 * m + i ≤ 1023) (hfl : s.line.flight = some { offer := o, deadline := d, ended := true })
    (hoff : s.line.offers = []) :
    offerFetch p s = setOffers (fun _ => [wordOf p g b (e.locator + 4 * m + i)]) s := by
  have hoffer : fetchOffer s p b = some (wordOf p g b (e.locator + 4 * m + i)) := by
    unfold fetchOffer
    rw [h.owner, nextFetchAddr_eq h]
    rfl
  have hfree : flightIs s (fun x => decide (x.why = (wordOf p g b (e.locator + 4 * m + i)).why)) = false := by
    unfold flightIs openFlight
    rw [hfl]
    rfl
  unfold offerFetch
  rw [fetchingBlock_only h ho, Option.bind_some, hoffer]
  dsimp only
  rw [hfree, if_neg Bool.false_ne_true]
  exact makeOffer_only (wordOf_valid hl) hfl hoff

theorem withdraw_noOffers {q : Requester} {c : ArbClass} {l : LinePos} (h : s.line.offers = []) : withdraw q c l s = s := by
  refine withdraw_none ?_
  unfold standing
  rw [h]
  rfl

theorem offerFetch_nothing (h : ∀ c k, (blockOf s c).owner = some (p, k) → (blockOf s c).state ≠ .fetching)
    (hoff : s.line.offers = []) : offerFetch p s = s := by
  have hnone : fetchingBlock s p = none := by
    refine List.find?_eq_none.mpr fun c _ hc => ?_
    cases how : (blockOf s c).owner with
    | none => rw [how] at hc; simp at hc
    | some y =>
      obtain ⟨q, k⟩ := y
      rw [how] at hc
      simp only [Bool.and_eq_true, decide_eq_true_eq] at hc
      obtain ⟨hstate, rfl⟩ := hc
      exact h c k how hstate
  unfold offerFetch
  rw [hnone]
  exact withdraw_noOffers hoff

/-! ## The words -/

theorem wordWanted_fetching {m i : Nat} (h : s.Fetching p g b e m i) : wordWanted s p g b (e.locator + 4 * m + i) = true := by
  unfold wordWanted
  rw [h.state, h.owner, nextFetchAddr_eq h]
  simp

theorem wordWanted_else {a : Nat} (h : (blockOf s b).state ≠ .fetching ∨ (blockOf s b).owner ≠ some (p, g)) :
    wordWanted s p g b a = false := by
  unfold wordWanted
  rcases h with h | h <;> simp [h]

theorem fetchEnd_wanted {m i : Nat} (h : s.Fetching p g b e m i) :
    (∀ w : Word, fetchEnd p g b (e.locator + 4 * m + i) .ready (some w) s = offerFetch p (takeFetchWord p g b w s))
      ∧ fetchEnd p g b (e.locator + 4 * m + i) .unheard none s = offerFetch p s
      ∧ fetchEnd p g b (e.locator + 4 * m + i) .notReady none s = fetchFails p g b (e.locator + 4 * m + i) s
      ∧ fetchEnd p g b (e.locator + 4 * m + i) .notHeard none s = fetchFails p g b (e.locator + 4 * m + i) s := by
  have hw := wordWanted_fetching h
  exact ⟨fun w => if_pos hw, if_pos hw, if_pos hw, if_pos hw⟩

/-- R85: a word that does not complete its record. -/
theorem takeFetchWord_partial {m i : Nat} (h : s.Fetching p g b e m i) (hi : i < 3) (w : Word) :
    takeFetchWord p g b w s = modBlock b (fun x => { x with progress := some (m, i + 1), words := x.words ++ [w] }) s := by
  unfold takeFetchWord
  rw [h.progress]
  dsimp only
  split
  · rename_i h3 _ _; cases h3; omega
  · rename_i h3 _; cases h3; rfl
  · rename_i h3; cases h3

/-- R81, R85: the fourth word of a record. -/
theorem takeFetchWord_fourth {m : Nat} {w0 w1 w2 : Word} (h : s.Fetching p g b e m 3) (hw : (blockOf s b).words = [w0, w1, w2])
    (w : Word) : takeFetchWord p g b w s = if e.members ≤ m + 1 then becomeLoaded p b (writeRow b g m w0 w1 w2 w s)
      else modBlock b (fun x => { x with progress := some (m + 1, 0) }) (writeRow b g m w0 w1 w2 w s) := by
  unfold takeFetchWord
  rw [h.progress, h.entry, hw]
  rfl

theorem blockOf_modBlock (b : BlockNo) (f : Block → Block) (s : State) (c : BlockNo) :
    blockOf (modBlock b f s) c = if c = b then f (blockOf s b) else blockOf s c := Tab.get_upd _ _ _ _

theorem modBlock_modBlock (b : BlockNo) (f g : Block → Block) (s : State) :
    modBlock b g (modBlock b f s) = modBlock b (fun x => g (f x)) s :=
  congrArg (fun bs => ({ s with binding := { s.binding with blocks := bs } } : State)) (Tab.upd_upd _ _ _ _)

theorem modBlock_congr {f g : Block → Block} (h : f (blockOf s b) = g (blockOf s b)) : modBlock b f s = modBlock b g s :=
  congrArg (fun bs => ({ s with binding := { s.binding with blocks := bs } } : State)) (Tab.upd_congr _ _ h)

/-- A block that moves on to its next word. -/
theorem State.Fetching.step {m i m' i' : Nat} {f : Block → Block} (h : s.Fetching p g b e m i)
    (hf : ∀ x, (f x).state = x.state ∧ (f x).owner = x.owner) (hp : (f (blockOf s b)).progress = some (m', i')) :
    (modBlock b f s).Fetching p g b e m' i' := by
  have hb : blockOf (modBlock b f s) b = f (blockOf s b) := by rw [blockOf_modBlock, if_pos rfl]
  refine ⟨?_, ?_, ?_, h.entry⟩
  · rw [hb, (hf _).1]; exact h.state
  · rw [hb, (hf _).2]; exact h.owner
  · rw [hb]; exact hp

theorem State.FetchesOnly.modBlock {f : Block → Block} (h : s.FetchesOnly p b) : (Machine.modBlock b f s).FetchesOnly p b := by
  intro c k hc how
  rw [blockOf_modBlock, if_neg hc] at how ⊢
  exact h c k hc how

theorem wordOf_quiet (a : Nat) (s : State) : grantNotices (wordOf p g b a) = [] ∧ notePhase (wordOf p g b a) s = s := ⟨rfl, rfl⟩

/-- R84, R85: a fetch word whose end moves the block on has the next one in flight. -/
theorem fetch_goesOn {m i m' i' a : Nat} {d : Time} {o : Offer} {out : LineOutcome} {data : Option Word} {f : Block → Block}
    (hn : x.notices = []) (hfl : x.line.flight = some { offer := wordOf p g b a, deadline := d, ended := true })
    (hoff : x.line.offers = []) (h : x.Fetching p g b e m i) (ho : x.FetchesOnly p b)
    (hf : ∀ y, (f y).state = y.state ∧ (f y).owner = y.owner) (hp : (f (blockOf x b)).progress = some (m', i'))
    (hend : fetchEnd p g b a out data x = offerFetch p (modBlock b f x)) (hl : e.locator + 4 * m' + i' ≤ 1023)
    (hw : o = wordOf p g b (e.locator + 4 * m' + i')) :
    settle (emitAll [.lineEnd (wordOf p g b a) out data, .lineFree] x) = State.granted o (modBlock b f x) := by
  subst hw
  have hnext := offerFetch_next (h.step hf hp) ho.modBlock hl (o := wordOf p g b a) (d := d) hfl hoff
  exact settle_grants (k := 1) hn (Acts.silent (x := .lineEnd (wordOf p g b a) out data)
    (t := setOffers (fun _ => [wordOf p g b (e.locator + 4 * m' + i')]) (modBlock b f x)) hn (hend.trans hnext) hn) hn hoff
    rfl rfl (by decide)

end Sys2Proof.Machine
end

section
/-!
The last word of a fetch, and a fetch that fails (R81, R85, R86, R87).
-/
namespace Sys2Proof.Machine

variable {s t u x : State} {p : Pos} {g : Group} {b : BlockNo} {e : DirEntry}

theorem clearNoSpace_none (h : anyNoSpace s = false) : clearNoSpace s = s := if_neg (by rw [h]; decide)

/-- R84: with b no longer fetched, no block of p is. -/
theorem offerFetch_after {f : Block → Block} {ns : List Notice} (ho : x.FetchesOnly p b) (hf : (f (blockOf x b)).state ≠ .fetching)
    (hoff : x.line.offers = []) : offerFetch p (emitAll ns (modBlock b f x)) = emitAll ns (modBlock b f x) := by
  refine offerFetch_nothing (s := emitAll ns (modBlock b f x)) (fun c k how => ?_) hoff
  have hblock : ∀ c, blockOf (emitAll ns (modBlock b f x)) c = if c = b then f (blockOf x b) else blockOf x c :=
    fun c => blockOf_modBlock b f x c
  rw [hblock] at how ⊢
  by_cases hc : c = b
  · rw [if_pos hc]; exact hf
  · rw [if_neg hc] at how ⊢
    exact ho c k hc how

/-- R83, R85: the loaded notice of the one delivery that waits, or of none, has it looked at again. -/
theorem acts_waitersLoaded {ws : List Waiter} (hn : s.notices = []) (hs : inService s p = true) (hr : s.AtRest p)
    (hw : ws = [] ∨ ∃ f k, ws = [.delivery p f k]) : Acts 7 (ws.map Notice.waiterLoaded ++ holdNotices p) s s := by
  have hlook := acts_holdNotices hn hs hr
  rcases hw with rfl | ⟨f, k, rfl⟩
  · exact hlook.mono (by decide)
  · have hrun : runNotice (.waiterLoaded (.delivery p f k)) s = emitAll (holdNotices p) s := if_pos hs
    exact Acts.cons (k := 4) (l := 3) (Acts.run hn hrun hn hlook) hlook

theorem inService_modBlock (b : BlockNo) (f : Block → Block) (s : State) (q : Pos) :
    inService (modBlock b f s) q = inService s q := rfl

theorem writeRow_eq {m : Nat} {n : Fin 16} (hn : n.val = m) (b : BlockNo) (g : Group) (w0 w1 w2 w3 : Word) (s : State) :
    writeRow b g m w0 w1 w2 w3 s = modBlock b (fun x =>
      { x with rows := x.rows.put n (some (rowOf g (fnRecordOf w0 w1 w2 w3))), words := [] }) s := by
  subst hn
  unfold writeRow
  refine modBlock_congr ?_
  rw [dif_pos n.isLt]

theorem rowOf_eq (g : Group) (r : FnRecord) : rowOf g r = {
    unusable := unusableRecord g r
    reported := false
    record := if unusableRecord g r then { r with fnClass := 0 } else r } := by
  unfold rowOf
  cases unusableRecord g r <;> rfl

/-- R85: with its last row the block is LOADED. -/
theorem fetch_completes {m a : Nat} {n : Fin 16} {w0 w1 w2 w : Word} (hn : x.notices = [])
    (hoff : x.line.offers = []) (h : x.Fetching p g b e m 3) (ho : x.FetchesOnly p b) (hs : inService x p = true)
    (hnm : n.val = m) (hw : (blockOf x b).words = [w0, w1, w2]) (hm : m + 1 = e.members) (ha : a = e.locator + 4 * m + 3)
    (hnone : anyNoSpace x = false) (hwait : (blockOf x b).waiters = [] ∨ ∃ f k, (blockOf x b).waiters = [.delivery p f k])
    {y : State} (hy : y = modBlock b (fun z => { z with
      rows := z.rows.put n (some (rowOf g (fnRecordOf w0 w1 w2 w)))
      words := []
      state := .loaded
      referenced := true
      progress := none
      waiters := [] }) x) (hrest : y.AtRest p) :
    settle (emitAll [.lineEnd (wordOf p g b a) .ready (some w), .lineFree] x) = y.free := by
  have hload : becomeLoaded p b (writeRow b g m w0 w1 w2 w x) =
      emitAll ((blockOf x b).waiters.map Notice.waiterLoaded ++ holdNotices p) y := by
    have hwaiters : (blockOf (writeRow b g m w0 w1 w2 w x) b).waiters = (blockOf x b).waiters := by
      rw [writeRow_eq hnm, blockOf_modBlock, if_pos rfl]
    unfold becomeLoaded
    rw [hwaiters, writeRow_eq hnm, modBlock_modBlock, hy]
    exact clearNoSpace_none hnone
  have hend : fetchEnd p g b a .ready (some w) x = emitAll ((blockOf x b).waiters.map Notice.waiterLoaded ++ holdNotices p) y := by
    rw [ha, (fetchEnd_wanted h).1 w, takeFetchWord_fourth h hw, if_pos (by omega), hload, hy]
    exact offerFetch_after ho nofun hoff
  have hyn : y.notices = [] := by rw [hy]; exact hn
  have hys : inService y p = true := by rw [hy]; exact hs
  have hyo : y.line.offers = [] := by rw [hy]; exact hoff
  exact settle_frees (k := 8) hn (Acts.run (x := .lineEnd (wordOf p g b a) .ready (some w)) hn hend hyn
    (acts_waitersLoaded hyn hys hrest hwait)) hyn hyo (by decide)

theorem modGroup_modGroup (p : Pos) (g : Group) (f h : GroupRecord → GroupRecord) (s : State) :
    modGroup p g h (modGroup p g f s) = modGroup p g (fun r => h (f r)) s := by
  refine congrArg (fun gs => ({ s with binding := { s.binding with groups := gs } } : State)) ?_
  exact (Tab.upd_upd s.binding.groups p (fun t => t.upd g f) (fun t => t.upd g h)).trans
    (Tab.upd_congr _ _ (Tab.upd_upd (s.binding.groups.get p) g f h))

theorem anyNoSpace_modGroup {f : GroupRecord → GroupRecord} (hf : ∀ r, (f r).noSpace = r.noSpace) (p : Pos) (g : Group) (s : State) :
    anyNoSpace (modGroup p g f s) = anyNoSpace s := by
  have hrec : ∀ q k, (groupRec (modGroup p g f s) q k).noSpace = (groupRec s q k).noSpace := by
    intro q k
    show (((s.binding.groups.upd p _).get q).get k).noSpace = _
    rw [Tab.get_upd]
    split
    · rename_i hq
      subst hq
      rw [Tab.get_upd]
      split
      · rename_i hk; subst hk; exact hf _
      · rfl
    · rfl
  unfold anyNoSpace
  simp only [hrec]

/-- R86: a fetch that fails, nobody waiting on it. -/
theorem fetch_fails {m i a : Nat} {out : LineOutcome} (hn : x.notices = []) (hoff : x.line.offers = [])
    (h : x.Fetching p g b e m i) (ho : x.FetchesOnly p b) (hs : inService x p = true) (ha : a = e.locator + 4 * m + i)
    (hnone : anyNoSpace x = false) (hwait : (blockOf x b).waiters = []) (hout : out = .notReady ∨ out = .notHeard) {y : State}
    (hy : y = modGroup p g (fun r => { r with block := none, fetchFailed := true })
      (modBlock b (fun _ => {}) (x.faulted .descriptorBad p none none a))) (hrest : y.AtRest p) :
    settle (emitAll [.lineEnd (wordOf p g b a) out none, .lineFree] x) = y.free := by
  have hrelease : releaseBlock b (recordFault .descriptorBad (some p) none none a x) =
      modGroup p g (fun r => { r with block := none }) (modBlock b (fun _ => {}) (x.faulted .descriptorBad p none none a)) := by
    have howner : (blockOf (recordFault .descriptorBad (some p) none none a x) b).owner = some (p, g) := h.owner
    unfold releaseBlock
    rw [howner]
    refine offerFetch_nothing (fun c k how => ?_) hoff
    have hblock : ∀ c, blockOf (modGroup p g (fun r => { r with block := none })
        (modBlock b (fun _ => {}) (recordFault .descriptorBad (some p) none none a x))) c =
        if c = b then {} else blockOf x c :=
      fun c => blockOf_modBlock b _ (recordFault .descriptorBad (some p) none none a x) c
    rw [hblock] at how ⊢
    by_cases hc : c = b
    · rw [if_pos hc] at how; cases how
    · rw [if_neg hc] at how ⊢
      exact ho c k hc how
  have hfails : fetchFails p g b a x = emitAll (holdNotices p) y := by
    unfold fetchFails
    rw [hwait, hrelease, modGroup_modGroup, hy]
    refine clearNoSpace_none ?_
    exact (anyNoSpace_modGroup (f := fun r => { r with block := none, fetchFailed := true }) (fun _ => rfl) p g (modBlock b (fun _ => {}) (x.faulted .descriptorBad p none none a))).trans hnone
  have hend : fetchEnd p g b a out none x = emitAll (holdNotices p) y := by
    rw [← hfails, ha]
    rcases hout with rfl | rfl
    · exact (fetchEnd_wanted h).2.2.1
    · exact (fetchEnd_wanted h).2.2.2
  have hyn : y.notices = [] := by rw [hy]; exact hn
  have hys : inService y p = true := by rw [hy]; exact hs
  have hyo : y.line.offers = [] := by rw [hy]; exact hoff
  exact settle_frees (k := 4) hn (Acts.run (x := .lineEnd (wordOf p g b a) out none) hn hend hyn (acts_holdNotices hyn hys hrest))
    hyn hyo (by decide)

theorem countsSilence_inService (h : inService s p = true) : countsSilence s p = true := by
  unfold inService at h
  unfold countsSilence
  split at h <;> simp_all

/-- Settles O58: the end of a fetch word, wanted or not. -/
theorem fetchWordsAreTaken : Obligations.FetchWordsAreTaken := by
  unfold Obligations.FetchWordsAreTaken
  intro s p g b a d word h hs reply heard block
  have ha : (word a).Addresses p := wordOf_addresses a
  obtain ⟨hready, hnotReady, hnotHeard⟩ := reply_ends h ha
  let x : State := setUnheard p 0 s.over
  have hxn : x.notices = [] := h.notices
  have hxo : x.line.offers = [] := h.offers
  have hxf : x.line.flight = some { offer := word a, deadline := d, ended := true } := over_flight h.flight
  refine ⟨fun hno => ?_, fun m i e hstate howner hprog hdir haddr hlast hm hm16 hspace honly => ?_⟩
  · have hend : ∀ out data, settle (emitAll [.lineEnd (word a) out data, .lineFree] x) = heard s.free := by
      intro out data
      refine settle_frees (k := 1) (y := x) hxn (Acts.silent hxn ?_ hxn) hxn hxo (by decide)
      exact if_neg (by rw [wordWanted_else (s := x) hno]; decide)
    intro y z w
    cases y with
    | true =>
      cases z with
      | true => exact (hready w).trans (congrArg _ (hend _ _))
      | false => exact (hnotReady _).trans (congrArg _ (hend _ _))
    | false => exact (hnotHeard _ _).trans (congrArg _ (hend _ _))
  · have hx : x.Fetching p g b e m i := ⟨hstate, howner, hprog, hdir⟩
    have hxonly : x.FetchesOnly p b := fun c k hc how => honly c k hc how
    subst haddr
    refine ⟨fun w hi => ?_, fun w0 w1 w2 w n hi hnm hwords => ?_, fun hu => ?_, fun hwait => ?_⟩
    · refine (hready w).trans (congrArg _ ?_)
      exact fetch_goesOn (x := x) (m' := m) (i' := i + 1) hxn hxf hxo hx hxonly (fun _ => ⟨rfl, rfl⟩) rfl
        (((fetchEnd_wanted hx).1 w).trans (by rw [takeFetchWord_partial hx hi])) (by omega) rfl
    · subst hi
      intro r row
      have hrow : rowOf g (fnRecordOf w0 w1 w2 w) = row := rowOf_eq g r
      refine ⟨fun hmore => ?_, fun hfull hwait => ?_⟩
      · refine (hready w).trans (congrArg _ ?_)
        refine fetch_goesOn (x := x) (m' := m + 1) (i' := 0) hxn hxf hxo hx hxonly
          (f := fun y => { y with rows := y.rows.put n (some row), words := [], progress := some (m + 1, 0) })
          (fun _ => ⟨rfl, rfl⟩) rfl
          (((fetchEnd_wanted hx).1 w).trans ?_) (by omega) (congrArg (wordOf p g b) (by omega))
        rw [takeFetchWord_fourth hx hwords, if_neg (by omega), writeRow_eq hnm, modBlock_modBlock, hrow]
      · intro loaded hrest
        refine (hready w).trans (congrArg _ ?_)
        exact fetch_completes (x := x) (y := heard loaded.over) hxn hxo hx hxonly hs hnm hwords hfull rfl hspace hwait
          (by rw [hrow]; rfl) hrest
    · refine (unheard_ends h ha (countsSilence_inService hs) hu).trans (congrArg _ ?_)
      let y : State := setUnheard p (unheardOf s p + 1) (advanceTo d s).over
      have hy : y.Fetching p g b e m i := ⟨hstate, howner, hprog, (dirOf_advanceTo d s p g).trans hdir⟩
      have hsame : modBlock b (fun z => z) y = y := by
        refine congrArg (fun bs => ({ y with binding := { y.binding with blocks := bs } } : State)) (Tab.upd_eq_self _ _ rfl)
      have hgo := fetch_goesOn (x := y) (m' := m) (i' := i) (f := fun z => z) (out := .unheard) (data := none) h.notices
        (over_flight (s := advanceTo d s) h.flight) h.offers hy (fun c k hc how => honly c k hc how) (fun _ => ⟨rfl, rfl⟩) hprog
        ((fetchEnd_wanted hy).2.1.trans (by rw [hsame])) (by omega) rfl
      rw [hsame] at hgo
      exact hgo
    · intro failed hrest
      have hfail : ∀ out, out = .notReady ∨ out = .notHeard →
          settle (emitAll [.lineEnd (word (e.locator + 4 * m + i)) out none, .lineFree] x) = heard failed.free := fun out hout =>
        fetch_fails (x := x) (y := heard failed.over) hxn hxo hx hxonly hs rfl hspace hwait hout rfl hrest
      exact ⟨fun z => (hnotReady z).trans (congrArg _ (hfail _ (Or.inl rfl))),
        fun any z => (hnotHeard any z).trans (congrArg _ (hfail _ (Or.inr rfl)))⟩

end Sys2Proof.Machine
end

section
/-!
The end of an item of the running sequence (R169 to R172).
-/
namespace Sys2Proof.Machine

variable {s x y z : State} {p : Pos} {a n : Nat} {op : SeqOp} {m : SeqMode}

/-- R170: the offer of one item. -/
def itemOffer (op : SeqOp) (run : Nat) (p : Pos) (a : Nat) : Offer :=
  { requester := .sequenceUnit, cls := 6, pos := linePos p, op := seqLineOp op, addr := some a, data := none,
    why := .sequenceItem p a run }

theorem itemOffer_addresses (op : SeqOp) (run : Nat) (p : Pos) (a : Nat) : (itemOffer op run p a).Addresses p := by
  cases op <;> exact ⟨nofun, nofun, rfl⟩

/-- The sequence runs at item (p, a), and the line is held by the transaction that ends. -/
structure State.AtItem (s : State) (p : Pos) (a n : Nat) (op : SeqOp) (m : SeqMode) : Prop where
  notices : s.notices = []
  offers : s.line.offers = []
  flight : s.line.flight ≠ none
  state : s.sequence.state = .running
  pos : s.sequence.pos = some p
  addr : s.sequence.addr = some a
  op : s.sequence.op = some op
  mode : s.sequence.mode = some m
  count : s.sequence.count = some n

/-- R171: an item as it is stored. -/
def storing (p : Pos) (a : Nat) (heard : Bool) (w : Option Word) (q : Sequence) : Sequence :=
  { q with buffer := q.buffer ++ [{ pos := p, addr := a, heard := heard, ready := w.isSome, data := w }] }

/-- R172: a sequence that is over. -/
def seqEnding (c : SeqEnd) (q : Sequence) : Sequence := { q with state := .ended, endCode := some c, repeatAt := none }

/-- R170: a sequence that goes on at (p, a). -/
def movingOn (now : Time) (p : Pos) (a : Nat) (q : Sequence) : Sequence :=
  { q with pos := some p, addr := some a, itemStart := some now }

theorem State.AtItem.stored (h : s.AtItem p a n op m) (heard : Bool) (w : Option Word) :
    (modSeq (storing p a heard w) s).AtItem p a n op m :=
  ⟨h.notices, h.offers, h.flight, h.state, h.pos, h.addr, h.op, h.mode, h.count⟩

theorem storeItem_ready (h : s.AtItem p a n op m) (w : Word) : storeItem true true (some w) s = modSeq (storing p a true (some w)) s := by
  unfold storeItem
  rw [h.pos, h.addr]
  rfl

theorem storeItem_unready (h : s.AtItem p a n op m) (heard : Bool) (w : Option Word) :
    storeItem heard false w s = modSeq (storing p a heard none) s := by
  unfold storeItem
  rw [h.pos, h.addr]
  rfl

theorem endSequence_noOffers (h : s.line.offers = []) (c : SeqEnd) : endSequence c s = modSeq (seqEnding c) s := by
  rw [endSequence_eq, h]
  show ({ s with sequence := seqEnding c s.sequence, line := { s.line with offers := [] } } : State) = _
  rw [← h]
  rfl

/-- R170: the item the sequence stands at is offered. -/
theorem offerItem_only {b : Nat} {q : Pos} (hb : b ≤ seqLast op) (hf : s.line.flight ≠ none) (ho : s.line.offers = [])
    (hpos : s.sequence.pos = some q) (haddr : s.sequence.addr = some b) (hop : s.sequence.op = some op) :
    offerItem s = setOffers (fun _ => [itemOffer op s.sequence.run q b]) s := by
  obtain ⟨fl, hfl⟩ := Option.ne_none_iff_exists'.mp hf
  unfold offerItem
  rw [hpos, haddr, hop]
  exact makeOffer_only (sequenceOffer_valid hb q _) hfl ho

/-! ## Where the sequence goes on -/

theorem walkNext_none (h : ∀ q, p < q → inService s q = false) : walkNext s p = none := by
  refine List.find?_eq_none.mpr fun q _ hq => ?_
  obtain ⟨hlt, hserve⟩ := Bool.and_eq_true _ _ ▸ hq
  rw [h q (of_decide_eq_true hlt)] at hserve
  cases hserve

theorem walkNext_some {q : Pos} (hpq : p < q) (hq : inService s q = true)
    (hlow : ∀ r, p < r → r < q → inService s r = false) : walkNext s p = some q := by
  have hsplit : ∀ q : Pos, allPos = allPos.take q.val ++ q :: allPos.drop (q.val + 1) := by decide
  have hbefore : ∀ q : Pos, ∀ r ∈ allPos.take q.val, r < q := by decide
  refine List.find?_eq_some_iff_append.mpr ⟨by simp [hpq, hq], _, _, hsplit q, fun r hr => ?_⟩
  by_cases hpr : p < r
  · simp [hlow r hpr (hbefore q r hr)]
  · simp [hpr]

theorem walkMove_none (h : s.AtItem p a n op m) (hnone : ∀ q, p < q → inService s q = false) :
    walkMove s = modSeq (seqEnding .walkDone) s := by
  unfold walkMove
  rw [h.pos, Option.bind_some, walkNext_none hnone]
  exact endSequence_noOffers h.offers _

theorem walkMove_some {q : Pos} (h : s.AtItem p a n op m) (hpq : p < q) (hq : inService s q = true)
    (hlow : ∀ r, p < r → r < q → inService s r = false) :
    walkMove s = setOffers (fun _ => [itemOffer op s.sequence.run q 0]) (modSeq (movingOn s.now q 0) s) := by
  unfold walkMove
  rw [h.pos, Option.bind_some, walkNext_some hpq hq hlow]
  exact offerItem_only (Nat.zero_le _) h.flight h.offers rfl rfl h.op

theorem seqFull_iff (h : s.AtItem p a n op m) : seqFull s = decide (n ≤ s.sequence.buffer.length) := by
  unfold seqFull
  rw [h.count]

theorem seqAdvance_full (h : s.AtItem p a n op m) (hn : n ≤ s.sequence.buffer.length) :
    seqAdvance s = modSeq (seqEnding .complete) s := by
  have hfull : seqFull s = true := (seqFull_iff h).trans (decide_eq_true hn)
  unfold seqAdvance
  rw [if_pos hfull]
  exact endSequence_noOffers h.offers _

theorem seqAdvance_notFull (h : s.AtItem p a n op m) (hn : s.sequence.buffer.length < n) :
    seqAdvance s = if m = .walk ∧ seqLast op < a + 1 then walkMove s
      else offerItem (modSeq (fun q => { q with addr := some (a + 1), itemStart := some s.now }) s) := by
  have hfull : seqFull s = false := (seqFull_iff h).trans (decide_eq_false (by omega))
  unfold seqAdvance
  rw [if_neg (by rw [hfull]; decide), h.mode, h.op, h.addr]
  simp only [Option.some.injEq, Option.getD_some]

theorem seqAdvance_next (h : s.AtItem p a n op m) (hn : s.sequence.buffer.length < n) (hm : m = .walk → a < seqLast op)
    (ha : a + 1 ≤ seqLast op) :
    seqAdvance s = setOffers (fun _ => [itemOffer op s.sequence.run p (a + 1)]) (modSeq (movingOn s.now p (a + 1)) s) := by
  have hstep : modSeq (fun q => { q with addr := some (a + 1), itemStart := some s.now }) s = modSeq (movingOn s.now p (a + 1)) s := by
    unfold modSeq movingOn
    rw [← h.pos]
  rw [seqAdvance_notFull h hn, if_neg fun hw => by have := hm hw.1; omega, hstep]
  exact offerItem_only ha h.flight h.offers rfl rfl h.op

theorem seqAdvance_walk (h : s.AtItem p a n op m) (hn : s.sequence.buffer.length < n) (hm : m = .walk) (ha : a = seqLast op) :
    seqAdvance s = walkMove s := by
  rw [seqAdvance_notFull h hn, if_pos ⟨hm, by omega⟩]

/-! ## What the end of an item leaves -/

/-- What an end of the item leaves of x, the line's freeing included. -/
def itemEnded (op : SeqOp) (p : Pos) (a : Nat) (out : LineOutcome) (data : Option Word) (x : State) : State :=
  settle (emitAll [.lineEnd (itemOffer op x.sequence.run p a) out data, .lineFree] x)

theorem sequenceEnd_own (h : x.AtItem p a n op m) (out : LineOutcome) (data : Option Word) :
    seqRunning x && decide (x.sequence.run = x.sequence.run) := by
  rw [seqRunning_iff.mpr h.state]; simp

variable {out : LineOutcome} {data : Option Word}

theorem itemEnded_frees (h : x.AtItem p a n op m) {f : Sequence → Sequence}
    (hx : sequenceEnd x.sequence.run out data x = modSeq f x) : itemEnded op p a out data x = (modSeq f x).free :=
  settle_frees (k := 1) h.notices (Acts.silent (x := .lineEnd (itemOffer op x.sequence.run p a) out data) h.notices hx h.notices)
    h.notices h.offers (by decide)

theorem itemEnded_grants (h : x.AtItem p a n op m) {q : Pos} {b : Nat} {f : Sequence → Sequence}
    (hx : sequenceEnd x.sequence.run out data x = setOffers (fun _ => [itemOffer op x.sequence.run q b]) (modSeq f x)) :
    itemEnded op p a out data x = (modSeq f x).granted (itemOffer op x.sequence.run q b) :=
  settle_grants (k := 1) h.notices (Acts.silent (x := .lineEnd (itemOffer op x.sequence.run p a) out data) h.notices hx h.notices)
    h.notices h.offers (by cases op <;> rfl) (notePhase_quiet (fun _ h => Purpose.noConfusion h) (fun _ h => Purpose.noConfusion h)
      (fun _ _ h => Purpose.noConfusion h) _) (by decide)

/-- R172: an end after which a WALK goes on at the next position. -/
theorem itemEnded_moves {f : Sequence → Sequence} (h : x.AtItem p a n op m) (hz : (modSeq f x).AtItem p a n op m)
    (hrun : (f x.sequence).run = x.sequence.run)
    (hx : sequenceEnd x.sequence.run out data x = walkMove (modSeq f x)) :
    ((∀ q, p < q → inService x q = false) → itemEnded op p a out data x = (modSeq (fun y => seqEnding .walkDone (f y)) x).free)
      ∧ ∀ q, p < q → inService x q = true → (∀ r, p < r → r < q → inService x r = false) →
        itemEnded op p a out data x =
          (modSeq (fun y => movingOn x.now q 0 (f y)) x).granted (itemOffer op x.sequence.run q 0) := by
  refine ⟨fun hnone => itemEnded_frees h (hx.trans (walkMove_none hz hnone)), fun q hpq hq hlow => ?_⟩
  refine itemEnded_grants h (hx.trans ((walkMove_some hz hpq hq hlow).trans ?_))
  rw [show (modSeq f x).sequence.run = x.sequence.run from hrun]
  rfl

/-- R169, R172: an end after which the sequence advances. -/
theorem itemEnded_advances {f : Sequence → Sequence} (h : x.AtItem p a n op m) (hz : (modSeq f x).AtItem p a n op m)
    (hrun : (f x.sequence).run = x.sequence.run) (hlen : (f x.sequence).buffer.length = x.sequence.buffer.length + 1)
    (hx : sequenceEnd x.sequence.run out data x = seqAdvance (modSeq f x)) :
    (n ≤ x.sequence.buffer.length + 1 → itemEnded op p a out data x = (modSeq (fun y => seqEnding .complete (f y)) x).free)
      ∧ (x.sequence.buffer.length + 1 < n → (m = .walk → a < seqLast op) → a + 1 ≤ seqLast op →
        itemEnded op p a out data x =
          (modSeq (fun y => movingOn x.now p (a + 1) (f y)) x).granted (itemOffer op x.sequence.run p (a + 1)))
      ∧ (x.sequence.buffer.length + 1 < n → m = .walk → a = seqLast op →
        sequenceEnd x.sequence.run out data x = walkMove (modSeq f x)) := by
  have hlen' : (modSeq f x).sequence.buffer.length = x.sequence.buffer.length + 1 := hlen
  refine ⟨fun hfull => ?_, fun hroom hm ha => ?_, fun hroom hm ha => ?_⟩
  · exact itemEnded_frees h (hx.trans (seqAdvance_full hz (hlen' ▸ hfull)))
  · refine itemEnded_grants h (hx.trans ((seqAdvance_next hz (hlen' ▸ hroom) hm ha).trans ?_))
    rw [show (modSeq f x).sequence.run = x.sequence.run from hrun]
    rfl
  · exact hx.trans (seqAdvance_walk hz (hlen' ▸ hroom) hm ha)

/-- R169 to R172: what an end of the item the sequence stands at has it do. -/
theorem sequenceEnd_cases (h : x.AtItem p a n op m) :
    (∀ w, sequenceEnd x.sequence.run .ready (some w) x = seqAdvance (modSeq (storing p a true (some w)) x))
      ∧ (∀ out, out = .notReady ∨ out = .notHeard →
        (m = .stopOnNotReady → sequenceEnd x.sequence.run out none x =
            modSeq (fun y => seqEnding .abortedNotReady (storing p a (decide (out = .notReady)) none y)) x)
          ∧ (m = .repeatUntilReady →
            sequenceEnd x.sequence.run out none x = modSeq (fun y => { y with repeatAt := some (x.now + ms 10) }) x)
          ∧ (m = .ignoreReady → sequenceEnd x.sequence.run out none x =
            seqAdvance (modSeq (storing p a (decide (out = .notReady)) none) x)))
      ∧ (m = .walk → sequenceEnd x.sequence.run .notReady none x = seqAdvance (modSeq (storing p a true none) x)
        ∧ sequenceEnd x.sequence.run .notHeard none x = walkMove x)
      ∧ sequenceEnd x.sequence.run .unheard none x = offerItem x := by
  have hown : ∀ out data, (seqRunning x && decide (x.sequence.run = x.sequence.run)) = true := sequenceEnd_own h
  have hmode := h.mode
  have hstop : ∀ heard, endSequence .abortedNotReady (storeItem heard false none x) =
      modSeq (fun y => seqEnding .abortedNotReady (storing p a heard none y)) x := fun heard => by
    rw [storeItem_unready h]; exact endSequence_noOffers (s := modSeq _ x) h.offers _
  refine ⟨fun w => ?_, fun out hout => ⟨fun hm => ?_, fun hm => ?_, fun hm => ?_⟩, fun hm => ⟨?_, ?_⟩, ?_⟩
  · unfold sequenceEnd
    rw [if_pos (hown .ready none), hmode]
    cases m <;> exact congrArg seqAdvance (storeItem_ready h w)
  · subst hm
    unfold sequenceEnd
    rw [if_pos (hown .ready none), hmode]
    rcases hout with rfl | rfl
    · exact hstop true
    · exact hstop false
  · subst hm
    unfold sequenceEnd
    rw [if_pos (hown .ready none), hmode]
    rcases hout with rfl | rfl <;> rfl
  · subst hm
    unfold sequenceEnd
    rw [if_pos (hown .ready none), hmode]
    rcases hout with rfl | rfl
    · exact congrArg seqAdvance (storeItem_unready h true none)
    · exact congrArg seqAdvance (storeItem_unready h false none)
  · subst hm
    unfold sequenceEnd
    rw [if_pos (hown .ready none), hmode]
    exact congrArg seqAdvance (storeItem_unready h true none)
  · subst hm
    unfold sequenceEnd
    rw [if_pos (hown .ready none), hmode]
  · unfold sequenceEnd
    rw [if_pos (hown .ready none), hmode]

/-- R24, R32: Unheard, the item is offered again. -/
theorem itemEnded_again (h : x.AtItem p a n op m) (ha : a ≤ seqLast op) :
    itemEnded op p a .unheard none x = x.granted (itemOffer op x.sequence.run p a) :=
  itemEnded_grants h (f := id) ((sequenceEnd_cases h).2.2.2.trans (offerItem_only ha h.flight h.offers h.pos h.addr h.op))

/-- Settles O39: by the ends of the item and the modes, each with what the sequence then does. -/
theorem sequenceItemsEnd : Obligations.SequenceItemsEnd := by
  unfold Obligations.SequenceItemsEnd
  intro s p a n op m d hrun hpos haddr hop hmode hcount hserve ha item hfl reply heard seq store ended ends goesOn moves advances
  have hto : Offer.Addresses (item p a) p := itemOffer_addresses op s.sequence.run p a
  obtain ⟨hready, hnot, hsilent⟩ := reply_ends hfl hto
  have hflight : s.over.line.flight ≠ none := by
    show s.line.flight.map _ ≠ none
    rw [hfl.flight]; nofun
  have hx : (setUnheard p 0 s.over).AtItem p a n op m := ⟨hfl.notices, hfl.offers, hflight, hrun, hpos, haddr, hop, hmode, hcount⟩
  obtain ⟨hends, hplain, hwalk, -⟩ := sequenceEnd_cases hx
  have hadvances : ∀ {out data X hd w}, X = .next (itemEnded op p a out data (setUnheard p 0 s.over)) →
      sequenceEnd s.sequence.run out data (setUnheard p 0 s.over) = seqAdvance (modSeq (storing p a hd w) (setUnheard p 0 s.over)) →
      advances X (store hd w) := by
    intro out data X hd w hX hseq
    have hz := hx.stored hd w
    obtain ⟨hfull, hnext, hmove⟩ := itemEnded_advances hx hz rfl (by simp [storing]) hseq
    exact ⟨fun hn => hX.trans (congrArg _ (hfull hn)), fun hn hm hl => hX.trans (congrArg _ (hnext hn hm hl)), fun hn hm hl =>
      have hmoves := itemEnded_moves hx hz rfl (hmove hn hm hl)
      ⟨fun hnone => hX.trans (congrArg _ (hmoves.1 hnone)), fun q hpq hq hlow => hX.trans (congrArg _ (hmoves.2 q hpq hq hlow))⟩⟩
  refine ⟨fun w => hadvances (hready w) (hends w), fun w => ⟨fun hm => ?_, fun hm => ?_, fun hm => ?_⟩,
    fun any w => ⟨fun hm => ?_, fun hm => ?_, fun hm => ?_, fun hm => ?_⟩, fun hu => ?_⟩
  · exact (hnot w).trans (congrArg _ (itemEnded_frees hx ((hplain .notReady (.inl rfl)).1 hm)))
  · rcases hm with hm | hm
    · exact hadvances (hnot w) ((hplain .notReady (.inl rfl)).2.2 hm)
    · exact hadvances (hnot w) (hwalk hm).1
  · exact (hnot w).trans (congrArg _ (itemEnded_frees hx ((hplain .notReady (.inl rfl)).2.1 hm)))
  · exact (hsilent any w).trans (congrArg _ (itemEnded_frees hx ((hplain .notHeard (.inr rfl)).1 hm)))
  · exact hadvances (hsilent any w) ((hplain .notHeard (.inr rfl)).2.2 hm)
  · exact (hsilent any w).trans (congrArg _ (itemEnded_frees hx ((hplain .notHeard (.inr rfl)).2.1 hm)))
  · have hmoves := itemEnded_moves (f := id) hx hx rfl (hwalk hm).2
    exact ⟨fun hnone => (hsilent any w).trans (congrArg _ (hmoves.1 hnone)),
      fun q hpq hq hlow => (hsilent any w).trans (congrArg _ (hmoves.2 q hpq hq hlow))⟩
  · have hsil : countsSilence s p = true := countsSilence_inService hserve
    refine (unheard_ends hfl hto hsil hu).trans (congrArg _ (itemEnded_again (n := n) (m := m) ?_ ha))
    exact ⟨hfl.notices, hfl.offers, hflight, hrun, hpos, haddr, hop, hmode, hcount⟩

end Sys2Proof.Machine
end

section
/-!
What a reading, a not-fitted mark and the end of a watch leave (R92, R114, R153, R156, R159), and a result written while an offer
stands.
-/
namespace Sys2Proof.Machine

variable {s t u x y : State} {p : Pos} {f : Code}

/-! ## Data, marks and watches -/

/-- R102: the VALUE frame that data asks for. -/
def valueNotices (s : State) (p : Pos) (f : Code) (w : Word) : List Notice :=
  if kindOf f = .sensor ∧ w ≠ 65535 ∧ (entryOf s p f).lastValue ≠ some w then [.placeValue p f] else []

theorem writeReading_eq (hv : stateOf s p ≠ .vacant) (w : Word) :
    writeReading p f w s = emitAll (valueNotices s p f w) (s.reading p f w) := by
  have hv' : isVacant s p = false := decide_eq_false hv
  have hwrite : writeData p f w s =
      (let s' := modEntry p f (fun x =>
          { x with read := true, changed := x.changed || decide (x.lastValue ≠ some w), lastValue := some w }) s
        if kindOf f = .sensor ∧ (entryOf s p f).lastValue ≠ some w then emit (.placeValue p f) s' else s') := by
    unfold writeData
    rw [if_neg (by rw [hv']; decide)]
    simp only [decide_eq_true_eq]
    refine congrArg (fun z => if kindOf f = .sensor ∧ (entryOf s p f).lastValue ≠ some w then emit (.placeValue p f) z else z) ?_
    exact modEntry_congr rfl
  unfold writeReading State.reading valueNotices
  by_cases hinv : kindOf f = .sensor ∧ w = 65535
  · have hmark : (if isVacant s p then s else modEntry p f (fun x => { x with read := true }) s) =
        modEntry p f (fun x => { x with read := true }) s := if_neg (by rw [hv']; decide)
    refine ((if_pos hinv).trans hmark).trans ?_
    rw [if_pos hinv, if_neg (fun h => h.2.1 hinv.2), emitAll_nil]
  · refine (if_neg hinv).trans (hwrite.trans ?_)
    by_cases hs : kindOf f = .sensor ∧ (entryOf s p f).lastValue ≠ some w
    · refine (if_pos hs).trans ?_
      rw [if_neg hinv, if_pos ⟨hs.1, fun h => hinv ⟨hs.1, h⟩, hs.2⟩]
      rfl
    · refine (if_neg hs).trans ?_
      rw [if_neg hinv, if_neg fun h => hs ⟨h.1, h.2.2⟩, emitAll_nil]

theorem placeStatus_line (k : FrameKey) (id : Nat) (data : List Byte) (l : LineCtl) (s : State) :
    placeStatus k id data { s with line := l } = { placeStatus k id data s with line := l } := by
  unfold placeStatus
  rw [show txQueue { s with line := l } = txQueue s from rfl]
  split
  · rfl
  · split <;> rfl

theorem placeValueFrame_line (l : LineCtl) (s : State) :
    placeValueFrame p f { s with line := l } = { placeValueFrame p f s with line := l } := placeStatus_line _ _ _ l s

theorem placeResultFrame_line (g : Group) (half : Bool) (l : LineCtl) (s : State) :
    placeResultFrame p g half { s with line := l } = { placeResultFrame p g half s with line := l } := by
  unfold placeResultFrame
  rw [show wouldPlace (.result p g half) { s with line := l } = wouldPlace (.result p g half) s from rfl]
  split
  · have hdata : resultData { s with line := l } p g half = resultData s p g half := rfl
    have hid : statusFrameId { s with line := l } 1 = statusFrameId s 1 := rfl
    rw [hdata, hid, placeStatus_line]
    unfold noteRefresh
    rw [show qualifies { placeStatus (.result p g half) (statusFrameId s 1) (resultData s p g half) s with line := l } p g half
      = qualifies (placeStatus (.result p g half) (statusFrameId s 1) (resultData s p g half) s) p g half from rfl]
    split <;> rfl
  · rfl

theorem resulting_line (r : CheckResult) (l : LineCtl) (s : State) :
    State.resulting p f r { s with line := l } = { State.resulting p f r s with line := l } := by
  unfold State.resulting
  rw [show entryOf { s with line := l } p f = entryOf s p f from rfl]
  split
  · rfl
  · exact placeResultFrame_line (groupOf f) (halfOf f) l (modEntry p f (fun x => { x with result := r }) s)

theorem valued_line (w : Word) (b : State) (l : LineCtl) (s : State) :
    State.valued p f w b { s with line := l } = { State.valued p f w b s with line := l } := by
  unfold State.valued
  split
  · exact placeValueFrame_line l s
  · rfl

theorem valued_port (w : Word) (b s : State) : ∃ pt, State.valued p f w b s = { s with port := pt } := by
  unfold State.valued
  split
  · exact placeStatus_port _ _ _ s
  · exact ⟨_, rfl⟩

theorem valued_marked (w : Word) (b s : State) : Marked (State.valued p f w b s) s := by
  obtain ⟨pt, hpt⟩ := valued_port w b s
  rw [hpt]
  exact ⟨_, pt, rfl⟩

theorem Marked.line (h : Marked s t) : s.line = t.line := by obtain ⟨st, pt, rfl⟩ := h; rfl
theorem Marked.now (h : Marked s t) : s.now = t.now := by obtain ⟨st, pt, rfl⟩ := h; rfl

theorem acts_value (hn : t.notices = []) (w : Word) : Acts 1 (valueNotices s p f w) t (State.valued p f w s t) := by
  unfold valueNotices State.valued
  split
  · obtain ⟨pt, hpt⟩ := placeStatus_port (.value p f) (statusFrameId t 2) (valueData t p f) t
    refine Acts.silent hn rfl ?_
    show (placeStatus (.value p f) (statusFrameId t 2) (valueData t p f) t).notices = []
    rw [hpt]; exact hn
  · exact (Acts.nil t).mono (by decide)

theorem markNotFitted_noOffers (ho : s.line.offers = []) :
    markNotFitted p f s = modEntry p f (fun e => { e with notFitted := true }) s :=
  withdrawWhere_none (s := modEntry p f (fun e => { e with notFitted := true }) s) (by
    intro o h
    rw [show (modEntry p f (fun e => { e with notFitted := true }) s).line.offers = [] from ho] at h
    cases h)

/-- R32, R114: the end Not Heard of an access to a function. -/
theorem pointUnknown_noOffers (ho : s.line.offers = []) (k : Option AccessKind) (point : Nat) :
    pointUnknown p f k point s = s.unfitted p f k point := by
  unfold pointUnknown State.unfitted
  refine (markNotFitted_noOffers ?_).trans ?_
  · split <;> exact ho
  · split <;> rfl

theorem endWatch_noOffers (ho : s.line.offers = []) :
    endWatch p f s = if (entryOf s p f).watchDeadline ≠ none then
      modEntry p f (fun e => { e with watchDeadline := none, nextRead := none }) s else s := by
  unfold endWatch
  cases hw : (entryOf s p f).watchDeadline with
  | none => rfl
  | some d =>
    refine (if_pos rfl).trans (Eq.trans ?_ (if_pos nofun).symm)
    exact withdrawWhere_none (s := modEntry p f (fun e => { e with watchDeadline := none, nextRead := none }) s) (by
      intro o h
      rw [show (modEntry p f (fun e => { e with watchDeadline := none, nextRead := none }) s).line.offers = [] from ho] at h
      cases h)

theorem entryOf_modEntry_same (g : StatusEntry → StatusEntry) (s : State) : entryOf (modEntry p f g s) p f = g (entryOf s p f) := by
  rw [entryOf_modEntry, if_pos ⟨rfl, rfl⟩]

/-! ## The look of the Delivery Unit at the reads of a position -/

theorem acts_classSix (hn : s.notices = []) (hs : inService s p = true) (hd : dueReads s p = []) : Acts 1 [.classSix p] s s :=
  Acts.silent hn (classSix_noReads hd hs) hn

/-- A result written leaves the Delivery Unit nothing more to offer. -/
theorem State.AtRest.resulting {q : Pos} (h : s.AtRest q) (r : CheckResult) : (State.resulting p f r s).AtRest q := by
  obtain ⟨st, pt, heq⟩ := resulting_marked p f r s
  have hentry : ∀ g, EntryRests (entryOf s q g) ((st.get q).get g) := by
    intro g
    have hg : (st.get q).get g = entryOf (State.resulting p f r s) q g := by rw [heq]; rfl
    rw [hg, resulting_entry]
    split
    · rename_i hq
      obtain ⟨rfl, rfl⟩ := hq
      exact ⟨rfl, rfl, rfl, rfl, rfl, rfl, id, .inr ⟨rfl, rfl, rfl⟩⟩
    · exact EntryRests.refl _
  rw [heq]
  exact h.withEntries (pt := pt) (fs := s.policy.faults) hentry

/-- The offer of another block leaves the Delivery Unit nothing more to offer. -/
theorem State.AtRest.beside {q : Pos} {o : Offer} (h : s.AtRest q) (ho : o.requester ≠ .deliveryUnit) :
    (setOffers (fun _ => [o]) s).AtRest q := by
  have hnone : ∀ c, standing (setOffers (fun _ => [o]) s) .deliveryUnit c (linePos q) = none := by
    intro c
    show [o].find? _ = none
    refine List.find?_eq_none.mpr fun x hx hc => ?_
    rw [List.mem_singleton.mp hx] at hc
    simp [ho] at hc
  exact ⟨⟨h.stops, h.deliveries, h.management, hnone 0, hnone 1⟩, h.reads⟩

/-! ## An end that leaves one offer, and results that are written meanwhile -/

theorem resulting_granted (r : CheckResult) (o : Offer) (s : State) :
    State.resulting p f r (s.granted o) = (State.resulting p f r s).granted o := by
  have hm := resulting_marked p f r s
  unfold State.granted
  rw [resulting_line, ← hm.line, ← hm.now]

theorem valued_granted (w : Word) (b : State) (o : Offer) (s : State) :
    State.valued p f w b (s.granted o) = (State.valued p f w b s).granted o := by
  have hm := valued_marked (p := p) (f := f) w b s
  unfold State.granted
  rw [valued_line, ← hm.line, ← hm.now]

theorem resulting_offers (r : CheckResult) (os : List Offer) (s : State) :
    State.resulting p f r (setOffers (fun _ => os) s) = setOffers (fun _ => os) (State.resulting p f r s) := by
  unfold setOffers
  rw [resulting_line, (resulting_marked p f r s).line]

theorem valued_offers (w : Word) (b : State) (os : List Offer) (s : State) :
    State.valued p f w b (setOffers (fun _ => os) s) = setOffers (fun _ => os) (State.valued p f w b s) := by
  unfold setOffers
  rw [valued_line, (valued_marked w b s).line]

theorem resulting_free (r : CheckResult) (s : State) : State.resulting p f r s.free = (State.resulting p f r s).free := by
  unfold State.free
  rw [resulting_line, (resulting_marked p f r s).line]

theorem valued_free (w : Word) (b s : State) : State.valued p f w b s.free = (State.valued p f w b s).free := by
  unfold State.free
  rw [valued_line, (valued_marked w b s).line]

end Sys2Proof.Machine
end

section
/-!
The end of a GET of a service round (R166, R167).
-/
namespace Sys2Proof.Machine

variable {s t u x y z : State} {p : Pos} {f : Code}

/-- The round of p, replaced. -/
def setRound (p : Pos) (r : Round) (s : State) : State :=
  { s with service := { s.service with rounds := s.service.rounds.put p r } }

/-- R166, R167: the round of p over, with its pause. -/
def roundDone (p : Pos) (pause : Option Time) (s : State) : State := { s with service := { s.service with
  pendingSet := s.service.pendingSet.put p false, rounds := s.service.rounds.put p {},
  pauses := match pause with
    | some t => s.service.pauses.put p (some t)
    | none => s.service.pauses } }

theorem getOffer_valid {a : Nat} (q : Requester) (c : ArbClass) (p : Pos) (why : Purpose) (h : a ≤ 63) :
    offerValid { requester := q, cls := c, pos := linePos p, op := .get, addr := some a, data := none, why := why } = true := by
  have hp : decide (linePos p ≠ 0) = true := by revert p; decide
  exact congrArg₂ (fun x y => x && true && y) hp (decide_eq_true h)

theorem wordOffer_addresses (p : Pos) : (wordOffer p).Addresses p := ⟨nofun, nofun, rfl⟩

theorem namedOffer_addresses (p : Pos) (f : Code) (point : Nat) : (namedOffer p f point).Addresses p := ⟨nofun, nofun, rfl⟩

/-- The line is held by the transaction that ends, and nothing is offered. -/
structure State.Ending (s : State) : Prop where
  notices : s.notices = []
  offers : s.line.offers = []
  flight : s.line.flight ≠ none
  ended : openFlight s = none

theorem openFlight_over {fl : Flight} (h : s.line.flight = some fl) : openFlight s.over = none := by
  unfold openFlight State.over
  rw [h]
  rfl

theorem State.InFlight.ending {o : Offer} {d : Time} (h : s.InFlight o d) (p : Pos) (n : Nat) : (setUnheard p n s.over).Ending :=
  ⟨h.notices, h.offers, by
    show s.line.flight.map _ ≠ none
    rw [h.flight]; nofun, openFlight_over h.flight⟩

theorem State.InFlight.endingLater {o : Offer} {d : Time} (h : s.InFlight o d) (p : Pos) (n : Nat) (m : Time) :
    (setUnheard p n (advanceTo m s).over).Ending :=
  ⟨h.notices, h.offers, by
    show s.line.flight.map _ ≠ none
    rw [h.flight]; nofun, openFlight_over (s := advanceTo m s) h.flight⟩

theorem State.Ending.only {o : Offer} (h : s.Ending) (hv : offerValid o = true) : makeOffer o s = setOffers (fun _ => [o]) s := by
  obtain ⟨fl, hfl⟩ := Option.ne_none_iff_exists'.mp h.flight
  exact makeOffer_only hv hfl h.offers

/-! ## The round -/

theorem backToWord_only (h : s.Ending) :
    backToWord p s = setOffers (fun _ => [wordOffer p]) (setRound p { count := (roundOf s p).count } s) :=
  State.Ending.only (s := modRound p (fun r => { count := r.count }) s) ⟨h.notices, h.offers, h.flight, h.ended⟩
    (getOffer_valid _ _ p _ (by decide))

theorem endRound_noOffers (h : s.line.offers = []) : endRound p s = roundDone p none s :=
  withdraw_noOffers (s := roundDone p none s) h

/-- The round of p reads point 62. -/
structure State.InWord (s : State) (p : Pos) : Prop where
  pending : servicePending s p = true
  reading : (roundOf s p).reading = false
  waiting : (roundOf s p).waiting = false

theorem wordEnd_of (h : s.InWord p) :
    (∀ w : Word, wordEnd p .ready (some w) s = if h : w.toNat < 192 then nameFunction p ⟨w.toNat, h⟩ s else endRound p s)
      ∧ (∀ data, wordEnd p .notReady data s = endRound p s) ∧ (∀ data, wordEnd p .notHeard data s = endRound p s)
      ∧ ∀ data, wordEnd p .unheard data s = makeOffer (wordOffer p) s := by
  have hcond : (servicePending s p && !(roundOf s p).reading && !(roundOf s p).waiting) = true := by
    rw [h.pending, h.reading, h.waiting]; rfl
  exact ⟨fun w => if_pos hcond, fun _ => if_pos hcond, fun _ => if_pos hcond, fun _ => if_pos hcond⟩

theorem wordEnd_named (h : s.InWord p) {w : Word} (hw : w.toNat = f.val) : wordEnd p .ready (some w) s = nameFunction p f s := by
  have hlt : w.toNat < 192 := hw ▸ f.isLt
  have hf : (⟨w.toNat, hlt⟩ : Code) = f := Fin.ext hw
  rw [(wordEnd_of h).1, dif_pos hlt, hf]

/-- R167: the round names f and has counted it. -/
def naming (p : Pos) (f : Code) (s : State) : State := modRound p (fun r => { r with count := r.count + 1, code := some f }) s

theorem roundOf_naming (p : Pos) (f : Code) (s : State) :
    roundOf (naming p f s) p = { roundOf s p with count := (roundOf s p).count + 1, code := some f } := Tab.get_upd_same _ _ _

theorem setRound_naming (p : Pos) (f : Code) (r : Round) (s : State) : setRound p r (naming p f s) = setRound p r s :=
  congrArg (fun rs => ({ s with service := { s.service with rounds := rs } } : State)) (put_put _ _ _ _)

theorem roundLookup_eq (p : Pos) (f : Code) (s : State) (h : (roundOf s p).code = some f) :
    (∀ t, lookupGroup p (groupOf f) none none (.service p) s = (.notFitted, t) → roundLookup p s = backToWord p t)
      ∧ ∀ b e t, lookupGroup p (groupOf f) none none (.service p) s = (.loaded b e, t) →
        (readablePoint t p f b e = none → roundLookup p s = backToWord p t)
          ∧ ∀ point, readablePoint t p f b e = some point → roundLookup p s = makeOffer (namedOffer p f point)
              (modRound p (fun r => { r with reading := true, point := some point, waiting := false }) t) := by
  unfold roundLookup
  rw [h]
  dsimp only
  refine ⟨fun t ht => by rw [ht], fun b e t ht => ⟨fun hr => ?_, fun point hr => ?_⟩⟩
  · rw [ht]; dsimp only; rw [hr]
  · rw [ht]; dsimp only; rw [hr]

theorem State.Bound.reference {b : BlockNo} {e : DirEntry} {r : FnRecord} (h : s.Bound p f b e r) :
    (Machine.reference b s).Bound p f b e r := by
  refine ⟨h.service, h.present, h.fetched, h.space, h.block, ?_, h.member, ?_⟩
  · rw [show blockOf (Machine.reference b s) b = { blockOf s b with referenced := true } from Tab.get_upd_same _ _ _]
    exact h.loaded
  · obtain ⟨rep, hrow⟩ := h.row
    exact ⟨rep, (blockRow_reference b s (memberOf f)).trans hrow⟩

theorem readablePoint_bound {b : BlockNo} {e : DirEntry} {r : FnRecord} (h : s.Bound p f b e r) :
    readablePoint s p f b e = if (entryOf s p f).notFitted = true then none
      else if r.feed = .node then some r.point else none := by
  obtain ⟨reported, hrow⟩ := h.row
  unfold readablePoint
  by_cases hn : (entryOf s p f).notFitted = true
  · rw [if_pos (.inr hn), if_pos hn]
  · rw [if_neg (fun hc => hc.elim (Nat.not_le.mpr h.member) hn), if_neg hn, hrow]
    simp

theorem nameFunction_full (h : 16 ≤ (roundOf s p).count) (ho : s.line.offers = []) :
    nameFunction p f s = roundDone p (some (s.now + ms 1000)) s := by
  refine (if_pos h).trans ?_
  rw [endRound_noOffers ho]
  rfl

theorem nameFunction_counted (h : (roundOf s p).count < 16) : nameFunction p f s = roundLookup p (naming p f s) :=
  if_neg (Nat.not_le.mpr h)

/-- R167: the function is passed over. -/
theorem backToWord_naming (b : BlockNo) (h : s.Ending) :
    backToWord p (naming p f s) = setOffers (fun _ => [wordOffer p]) (setRound p { count := (roundOf s p).count + 1 } s)
      ∧ backToWord p (reference b (naming p f s)) =
        setOffers (fun _ => [wordOffer p]) (setRound p { count := (roundOf s p).count + 1 } (reference b s)) := by
  have hcount : (roundOf (naming p f s) p).count = (roundOf s p).count + 1 := by rw [roundOf_naming]
  refine ⟨?_, ?_⟩
  · rw [backToWord_only (s := naming p f s) ⟨h.notices, h.offers, h.flight, h.ended⟩, hcount, setRound_naming]
  · rw [backToWord_only (s := reference b (naming p f s)) ⟨h.notices, h.offers, h.flight, h.ended⟩,
      show (roundOf (reference b (naming p f s)) p).count = (roundOf s p).count + 1 from hcount]
    refine congrArg (setOffers fun _ => [wordOffer p]) ?_
    exact setRound_naming p f _ (reference b s)

theorem nameFunction_absent (h : s.Ending) (hs : inService s p = true) (hc : (roundOf s p).count < 16)
    (hd : dirOf s p (groupOf f) = none) : nameFunction p f s =
      setOffers (fun _ => [wordOffer p]) (setRound p { count := (roundOf s p).count + 1 } s) := by
  rw [nameFunction_counted hc]
  refine ((roundLookup_eq p f (naming p f s) (by rw [roundOf_naming])).1 _ (lookup_absent hs hd)).trans ?_
  exact (backToWord_naming 0 h).1

theorem lookup_bound {b : BlockNo} {e : DirEntry} {r : FnRecord} (h : s.Bound p f b e r) (k : Option AccessKind) (fn : Option Code)
    (w : Waiter) : lookupGroup p (groupOf f) fn k w s = (.loaded b e, reference b s) :=
  ((lookup_held h.service h.present).2.2 b h.fetched h.space h.block).2 (by rw [h.loaded]; decide)

theorem nameFunction_bound {b : BlockNo} {e : DirEntry} {r : FnRecord} (h : s.Ending) (hb : s.Bound p f b e r)
    (hr : r.point ≤ 63) (hc : (roundOf s p).count < 16) :
    (r.feed = .node → (entryOf s p f).notFitted = false → nameFunction p f s =
        setOffers (fun _ => [namedOffer p f r.point]) (setRound p
          { reading := true, code := some f, point := some r.point, count := (roundOf s p).count + 1 } (reference b s)))
      ∧ (r.feed = .wired ∨ (entryOf s p f).notFitted = true → nameFunction p f s =
        setOffers (fun _ => [wordOffer p]) (setRound p { count := (roundOf s p).count + 1 } (reference b s))) := by
  have hb' : (naming p f s).Bound p f b e r := hb.congr rfl rfl
  have hb'' : (reference b (naming p f s)).Bound p f b e r := hb'.reference
  obtain ⟨-, hfound⟩ := roundLookup_eq p f (naming p f s) (by rw [roundOf_naming])
  obtain ⟨hnone, hsome⟩ := hfound b e _ (lookup_bound hb' none none (.service p))
  have hread := readablePoint_bound hb''
  have hentry : (entryOf (reference b (naming p f s)) p f).notFitted = (entryOf s p f).notFitted := rfl
  rw [hentry] at hread
  rw [nameFunction_counted hc]
  refine ⟨fun hnode hfit => ?_, fun hnot => ?_⟩
  · rw [if_neg (by rw [hfit]; decide), if_pos hnode] at hread
    refine (hsome _ hread).trans ((State.Ending.only (s := modRound p _ (reference b (naming p f s)))
      ⟨h.notices, h.offers, h.flight, h.ended⟩ (getOffer_valid _ _ p _ hr)).trans ?_)
    refine congrArg (setOffers fun _ => [namedOffer p f r.point]) ?_
    refine Eq.trans ?_ (setRound_naming p f _ (reference b s))
    refine congrArg (fun r => setRound p r (reference b (naming p f s))) ?_
    rw [show (reference b (naming p f s)).service.rounds.get p = roundOf (naming p f s) p from rfl, roundOf_naming]
  · have hnoread : readablePoint (reference b (naming p f s)) p f b e = none := by
      rw [hread]
      rcases hnot with hw | hw
      · rw [if_neg (c := r.feed = .node) (by rw [hw]; decide)]; exact ite_self _
      · rw [if_pos hw]
    exact (hnone hnoread).trans (backToWord_naming b h).2

end Sys2Proof.Machine
end

section
/-!
The end of a service read of a named function (R167), and what the ends of a round settle.
-/
namespace Sys2Proof.Machine

variable {s t u x y z : State} {p : Pos} {f : Code}

/-- The round of p reads function f. -/
structure State.InRead (s : State) (p : Pos) (f : Code) : Prop where
  pending : servicePending s p = true
  reading : (roundOf s p).reading = true
  code : (roundOf s p).code = some f

theorem serviceReadEnd_of (h : s.InRead p f) (point : Nat) (data : Option Word) :
    serviceReadEnd p f point .ready data s = backToWord p (serviceData p f (data.getD 0) s)
      ∧ serviceReadEnd p f point .notReady data s = backToWord p s
      ∧ serviceReadEnd p f point .notHeard data s =
        backToWord p (emitAll (.writeResult p f .noReply :: holdNotices p) (pointUnknown p f none point s))
      ∧ serviceReadEnd p f point .unheard data s = makeOffer (namedOffer p f point) s := by
  have hcond : (servicePending s p && (roundOf s p).reading && decide ((roundOf s p).code = some f)) = true := by
    rw [h.pending, h.reading, h.code, decide_eq_true rfl]; rfl
  exact ⟨if_pos hcond, if_pos hcond, if_pos hcond, if_pos hcond⟩

theorem backToWord_emitAll (ho : s.line.offers = []) (hf : s.line.flight ≠ none) (ns : List Notice) :
    backToWord p (emitAll ns s) =
      emitAll ns (setOffers (fun _ => [wordOffer p]) (setRound p { count := (roundOf s p).count } s)) := by
  obtain ⟨fl, hfl⟩ := Option.ne_none_iff_exists'.mp hf
  exact makeOffer_only (s := modRound p (fun r => { count := r.count }) (emitAll ns s)) (getOffer_valid _ _ p _ (by decide)) hfl ho

/-- R102, R153, R156, R167: what the data of a service read hands on, and the entry it leaves. -/
theorem serviceData_cases (hv : stateOf s p ≠ .vacant) (ho : s.line.offers = []) (w : Word) :
    (kindOf f = .sensor → serviceData p f w s =
        emitAll (valueNotices s p f w ++ [.writeResult p f (if w = 65535 then .sensorFault else .ok)]) (s.reading p f w))
      ∧ (kindOf f ≠ .sensor → ¬ (kindOf f = .actuator ∧ (entryOf s p f).watchDeadline ≠ none) → serviceData p f w s = s.reading p f w)
      ∧ (kindOf f = .actuator ∧ (entryOf s p f).watchDeadline ≠ none → serviceData p f w s =
        emitAll [.writeResult p f .ok, .classSix p]
          (modEntry p f (fun x => { x with watchDeadline := none, nextRead := none }) (s.reading p f w))) := by
  have hread := writeReading_eq (f := f) hv w
  have hplain : kindOf f ≠ .sensor → writeReading p f w s = s.reading p f w := by
    intro hk
    rw [hread, valueNotices, if_neg (fun h => hk h.1), emitAll_nil]
  have hwatch : (entryOf (s.reading p f w) p f).watchDeadline = (entryOf s p f).watchDeadline := by
    unfold State.reading
    split <;> rw [entryOf_modEntry_same]
  refine ⟨fun hk => ?_, fun hk hw => ?_, fun hw => ?_⟩
  · unfold serviceData
    rw [hk]
    dsimp only
    rw [hread, emit_eq, emitAll_emitAll]
    rfl
  · unfold serviceData
    rw [hplain hk]
    cases hkind : kindOf f with
    | sensor => exact absurd hkind hk
    | lamp => rfl
    | actuator =>
      have hnone : (entryOf s p f).watchDeadline = none := by
        by_contra hne
        exact hw ⟨hkind, hne⟩
      rw [hnone]
      rfl
  · have hk : kindOf f ≠ .sensor := by rw [hw.1]; decide
    have ho' : (s.reading p f w).line.offers = [] := by
      unfold State.reading; split <;> exact ho
    have hsome : (entryOf s p f).watchDeadline.isSome = true := Option.isSome_iff_ne_none.mpr hw.2
    unfold serviceData
    rw [hplain hk, hw.1]
    dsimp only
    rw [if_pos hsome, endWatch_noOffers ho', if_pos (hwatch ▸ hw.2)]

/-! ## What the ends settle -/

/-- R34: the grant of a GET of a round tells no block anything. -/
structure Offer.Plain (o : Offer) : Prop where
  grant : grantNotices o = []
  phase : ∀ s, notePhase o s = s

theorem wordOffer_plain (p : Pos) : (wordOffer p).Plain := ⟨rfl, fun s => notePhase_quiet (fun _ h => Purpose.noConfusion h) (fun _ h => Purpose.noConfusion h)
    (fun _ _ h => Purpose.noConfusion h) s⟩

theorem namedOffer_plain (p : Pos) (f : Code) (point : Nat) : (namedOffer p f point).Plain :=
  ⟨rfl, fun s => notePhase_quiet (fun _ h => Purpose.noConfusion h) (fun _ h => Purpose.noConfusion h)
    (fun _ _ h => Purpose.noConfusion h) s⟩

/-- R34, R35: an end that has one offer made and tells no other block. -/
theorem end_grants {o o' : Offer} {out : LineOutcome} {data : Option Word} (hx : x.notices = [])
    (h : takeLineEnd o out data x = setOffers (fun _ => [o']) y) (hy : y.notices = []) (ho : y.line.offers = []) (hp : o'.Plain) :
    settle (emitAll [.lineEnd o out data, .lineFree] x) = y.granted o' :=
  settle_grants (k := 1) hx (Acts.silent (x := .lineEnd o out data) hx h hy) hy ho hp.grant (hp.phase _) (by decide)

/-- R166: an end of the GET of point 62 that ends the round, and one after which it goes on. -/
theorem word_ends {o' : Offer} {out : LineOutcome} {data : Option Word} {pause : Option Time} (hx : x.Ending) :
    (wordEnd p out data x = roundDone p pause x →
        settle (emitAll [.lineEnd (wordOffer p) out data, .lineFree] x) = (roundDone p pause x).free)
      ∧ (wordEnd p out data x = setOffers (fun _ => [o']) y → y.notices = [] → y.line.offers = [] → o'.Plain →
        settle (emitAll [.lineEnd (wordOffer p) out data, .lineFree] x) = y.granted o') :=
  ⟨fun h => settle_frees (k := 1) hx.notices (Acts.silent (x := .lineEnd (wordOffer p) out data) hx.notices h hx.notices)
    hx.notices hx.offers (by decide), fun h hy ho hp => end_grants (o := wordOffer p) hx.notices h hy ho hp⟩

/-- R34, R35: an end that has one offer made and hands on notices. -/
theorem end_tells {k : Nat} {ns : List Notice} {o o' : Offer} {out : LineOutcome} {data : Option Word} (hx : x.notices = [])
    (h : takeLineEnd o out data x = emitAll ns (setOffers (fun _ => [o']) y)) (hyn : y.notices = [])
    (hns : Acts k ns (setOffers (fun _ => [o']) y) (setOffers (fun _ => [o']) z)) (hz : z.notices = [])
    (ho : z.line.offers = []) (hp : o'.Plain) (hk : k ≤ 900) :
    settle (emitAll [.lineEnd o out data, .lineFree] x) = z.granted o' :=
  settle_grants (k := k + 1) hx (Acts.run (x := .lineEnd o out data) hx h hyn hns) hz ho hp.grant (hp.phase _) (by omega)

/-- R92, R102: the VALUE frame and the result of a reading, while the next offer stands. -/
theorem acts_readingTold {os : List Offer} (hn : y.notices = []) (hv : stateOf y p ≠ .vacant)
    (he : stateOf y p ≠ .exercising) (w : Word) (r : CheckResult) :
    Acts 4 (valueNotices s p f w ++ [.writeResult p f r]) (setOffers (fun _ => os) y)
      (setOffers (fun _ => os) (State.resulting p f r (State.valued p f w s y))) := by
  rw [← resulting_offers, ← valued_offers]
  have hm := valued_marked (p := p) (f := f) w s (setOffers (fun _ => os) y)
  have hn' := hm.notices.trans hn
  refine Acts.append (k := 1) (l := 3) (acts_value (t := setOffers (fun _ => os) y) hn w) (acts_writeResult f r hn' ?_ ?_)
  · rw [hm.stateOf]; exact hv
  · rw [hm.stateOf]; exact he

theorem acts_resultTold {os : List Offer} (hn : y.notices = []) (hv : stateOf y p ≠ .vacant)
    (he : stateOf y p ≠ .exercising) (r : CheckResult) :
    Acts 3 [.writeResult p f r] (setOffers (fun _ => os) y) (setOffers (fun _ => os) (State.resulting p f r y)) := by
  rw [← resulting_offers]
  exact acts_writeResult f r hn hv he

end Sys2Proof.Machine
end

section
/-!
The obligation on service rounds (R166, R167).
-/
namespace Sys2Proof.Machine

variable {s t u x y z : State} {p : Pos} {f : Code}

theorem reading_ending (h : x.Ending) (w : Word) : (x.reading p f w).Ending := by
  unfold State.reading
  split <;> exact ⟨h.notices, h.offers, h.flight, h.ended⟩

theorem stateOf_reading (w : Word) (s : State) (q : Pos) : stateOf (s.reading p f w) q = stateOf s q := by
  unfold State.reading
  split <;> rfl

theorem roundOf_reading (w : Word) (s : State) (q : Pos) : roundOf (s.reading p f w) q = roundOf s q := by
  unfold State.reading
  split <;> rfl

theorem reading_over (w : Word) (n : Nat) (s : State) :
    State.reading p f w (setUnheard p n s.over) = (setUnheard p n (s.reading p f w)).over := by
  unfold State.reading
  split <;> rfl

theorem unfitted_over (k : Option AccessKind) (point n : Nat) (s : State) :
    State.unfitted p f k point (setUnheard p n s.over) = (setUnheard p n (s.unfitted p f k point)).over := by
  unfold State.unfitted
  rw [show entryOf (setUnheard p n s.over) p f = entryOf s p f from rfl]
  split <;> rfl

theorem unfitted_ending (h : x.Ending) (k : Option AccessKind) (point : Nat) : (x.unfitted p f k point).Ending := by
  unfold State.unfitted
  split <;> exact ⟨h.notices, h.offers, h.flight, h.ended⟩

theorem roundOf_unfitted (k : Option AccessKind) (point : Nat) (s : State) (q : Pos) :
    roundOf (s.unfitted p f k point) q = roundOf s q := by
  unfold State.unfitted
  split <;> rfl

theorem stateOf_unfitted (k : Option AccessKind) (point : Nat) (s : State) (q : Pos) :
    stateOf (s.unfitted p f k point) q = stateOf s q := by
  unfold State.unfitted
  split <;> rfl

/-- R167: where the round goes on to after a function's read. -/
def roundAgain (p : Pos) (c : Nat) (s : State) : State := State.granted (wordOffer p) (setRound p { count := c } s)

theorem roundAgain_over (c : Nat) (s : State) : roundAgain p c s.over = roundAgain p c s := rfl

/-- R167: an end of the function's read after which the round goes on, its notices acted on while the offer stands. -/
theorem namedEnd_tells {k point : Nat} {ns : List Notice} {out : LineOutcome} {data : Option Word} (hx : x.Ending)
    (hend : serviceReadEnd p f point out data x = backToWord p (emitAll ns y)) (hy : y.Ending) (hround : roundOf y p = roundOf x p)
    (hns : Acts k ns (setOffers (fun _ => [wordOffer p]) (setRound p { count := (roundOf x p).count } y))
      (setOffers (fun _ => [wordOffer p]) z)) (hz : z.Ending) (hk : k ≤ 900) :
    settle (emitAll [.lineEnd (namedOffer p f point) out data, .lineFree] x) = z.granted (wordOffer p) := by
  refine end_tells hx.notices (o := namedOffer p f point) (hend.trans (backToWord_emitAll hy.offers hy.flight ns)) hy.notices ?_
    hz.notices hz.offers (wordOffer_plain p) hk
  rw [hround]
  exact hns

theorem Marked.ending (h : Marked s t) (ht : t.Ending) : s.Ending :=
  ⟨h.notices.trans ht.notices, by rw [h.line]; exact ht.offers, by rw [h.line]; exact ht.flight,
    by unfold openFlight; rw [h.line]; exact ht.ended⟩

theorem setRound_ending (h : s.Ending) (r : Round) : (setRound p r s).Ending := ⟨h.notices, h.offers, h.flight, h.ended⟩

/-- R167: a sensor's data. -/
theorem namedRead_sensor {point : Nat} (hx : x.Ending) (hr : x.InRead p f) (hrun : stateOf x p = .running)
    (hk : kindOf f = .sensor) (w : Word) :
    settle (emitAll [.lineEnd (namedOffer p f point) .ready (some w), .lineFree] x) =
      State.resulting p f (if w = 65535 then .sensorFault else .ok)
        (State.valued p f w x (roundAgain p (roundOf x p).count (x.reading p f w))) := by
  have hz := reading_ending (p := p) (f := f) hx w
  have hY : stateOf (setRound p { count := (roundOf x p).count } (x.reading p f w)) p = .running := (stateOf_reading w x p).trans hrun
  have hm := (resulting_marked p f (if w = 65535 then .sensorFault else .ok) _).trans
    (valued_marked (p := p) (f := f) w x (setRound p { count := (roundOf x p).count } (x.reading p f w)))
  refine (namedEnd_tells hx ((serviceReadEnd_of hr point (some w)).1.trans (congrArg (backToWord p)
    ((serviceData_cases (by rw [hrun]; decide) hx.offers w).1 hk))) hz (roundOf_reading w x p)
    (acts_readingTold (y := setRound p { count := (roundOf x p).count } (x.reading p f w)) hz.notices (by rw [hY]; decide) (by rw [hY]; decide) w _) (hm.ending (setRound_ending hz _)) (by decide)).trans ?_
  rw [← resulting_granted, ← valued_granted]
  rfl

/-- R167: data that writes no result. -/
theorem namedRead_plain {point : Nat} (hx : x.Ending) (hr : x.InRead p f) (hrun : stateOf x p = .running)
    (hk : kindOf f ≠ .sensor) (hw : ¬ (kindOf f = .actuator ∧ (entryOf x p f).watchDeadline ≠ none)) (w : Word) :
    settle (emitAll [.lineEnd (namedOffer p f point) .ready (some w), .lineFree] x) =
      roundAgain p (roundOf x p).count (x.reading p f w) := by
  have hz := reading_ending (p := p) (f := f) hx w
  exact namedEnd_tells (k := 0) (ns := []) hx ((serviceReadEnd_of hr point (some w)).1.trans (congrArg (backToWord p)
    (((serviceData_cases (by rw [hrun]; decide) hx.offers w).2.1 hk hw).trans (emitAll_nil _).symm))) hz (roundOf_reading w x p)
    (Acts.nil _) (setRound_ending hz _) (by decide)

/-- R151: a result written leaves the due reads as they are. -/
theorem dueReads_resulting (r : CheckResult) {q : Pos} (h : dueReads s q = []) : dueReads (State.resulting p f r s) q = [] := by
  obtain ⟨st, pt, heq⟩ := resulting_marked p f r s
  refine dueReads_nil.mpr fun g hg => ?_
  have hentry : EntryRests (entryOf s q g) ((st.get q).get g) := by
    have hg : (st.get q).get g = entryOf (State.resulting p f r s) q g := by rw [heq]; rfl
    rw [hg, resulting_entry]
    split
    · rename_i hq
      obtain ⟨rfl, rfl⟩ := hq
      exact ⟨rfl, rfl, rfl, rfl, rfl, rfl, id, .inr ⟨rfl, rfl, rfl⟩⟩
    · exact EntryRests.refl _
  rw [heq]
  exact dueRead_withEntries (pt := pt) (fs := s.policy.faults) hentry (dueReads_nil.mp h g hg)

/-- The watch of f is over. -/
def unwatched (p : Pos) (f : Code) (s : State) : State := modEntry p f (fun x => { x with watchDeadline := none, nextRead := none }) s

theorem dueReads_again (c n : Nat) (s : State) (q : Pos) :
    dueReads (unwatched p f (roundAgain p c (setUnheard p n s))) q = dueReads (unwatched p f (setUnheard p n s).over) q := rfl

/-- R156, R167: data that ends a watch. -/
theorem namedRead_watched {point : Nat} (hx : x.Ending) (hr : x.InRead p f) (hrun : stateOf x p = .running)
    (hw : kindOf f = .actuator ∧ (entryOf x p f).watchDeadline ≠ none) (w : Word)
    (hd : dueReads (unwatched p f (x.reading p f w)) p = []) :
    settle (emitAll [.lineEnd (namedOffer p f point) .ready (some w), .lineFree] x) =
      State.resulting p f .ok (unwatched p f (roundAgain p (roundOf x p).count (x.reading p f w))) := by
  have hz := reading_ending (p := p) (f := f) hx w
  have hy : (unwatched p f (x.reading p f w)).Ending := ⟨hz.notices, hz.offers, hz.flight, hz.ended⟩
  have hround : roundOf (unwatched p f (x.reading p f w)) p = roundOf x p := roundOf_reading w x p
  have hYrun : stateOf (unwatched p f (x.reading p f w)) p = .running := (stateOf_reading w x p).trans hrun
  generalize hyd : unwatched p f (x.reading p f w) = y at hd hy hround hYrun
  let Y : State := setRound p { count := (roundOf x p).count } y
  have hm := resulting_marked p f .ok Y
  have hserve : inService (State.resulting p f .ok Y) p = true := by
    unfold inService
    rw [hm.stateOf, show stateOf Y p = stateOf y p from rfl, hYrun]
  have hdue : dueReads (State.resulting p f .ok Y) p = [] := dueReads_resulting .ok (s := Y) hd
  refine (namedEnd_tells (k := 4) hx ((serviceReadEnd_of hr point (some w)).1.trans (congrArg (backToWord p)
    (((serviceData_cases (by rw [hrun]; decide) hx.offers w).2.2 hw).trans
      (congrArg (emitAll [.writeResult p f .ok, .classSix p]) hyd)))) hy hround
    (Acts.cons (k := 3) (l := 1)
      (acts_resultTold (y := Y) hy.notices (by rw [show stateOf Y p = _ from hYrun]; decide)
        (by rw [show stateOf Y p = _ from hYrun]; decide) _)
      (acts_classSix (hm.notices.trans hy.notices) hserve hdue))
    (hm.ending (setRound_ending hy _)) (by decide)).trans ?_
  rw [← resulting_granted]
  refine congrArg (State.resulting p f .ok) ?_
  show (setRound p _ y).granted (wordOffer p) = _
  rw [← hyd]
  rfl

/-- R167: an end that brings no data. -/
theorem namedRead_silent {point : Nat} (hx : x.Ending) (hr : x.InRead p f) (hrun : stateOf x p = .running) :
    settle (emitAll [.lineEnd (namedOffer p f point) .notReady none, .lineFree] x) = roundAgain p (roundOf x p).count x
      ∧ ((x.unfitted p f none point).AtRest p →
        settle (emitAll [.lineEnd (namedOffer p f point) .notHeard none, .lineFree] x) =
          State.resulting p f .noReply (roundAgain p (roundOf x p).count (x.unfitted p f none point)))
      ∧ (point ≤ 63 → settle (emitAll [.lineEnd (namedOffer p f point) .unheard none, .lineFree] x) =
        x.granted (namedOffer p f point)) := by
  obtain ⟨-, hnot, hsilent, hagain⟩ := serviceReadEnd_of hr point none
  refine ⟨?_, fun hrest => ?_, fun hp => ?_⟩
  · exact namedEnd_tells (k := 0) (ns := []) hx (hnot.trans (congrArg (backToWord p) (emitAll_nil _).symm)) hx rfl (Acts.nil _)
      (setRound_ending hx _) (by decide)
  · have hy := unfitted_ending (p := p) (f := f) hx none point
    have hround := roundOf_unfitted (p := p) (f := f) none point x p
    have hYrun := (stateOf_unfitted (p := p) (f := f) none point x p).trans hrun
    have hunknown := pointUnknown_noOffers (p := p) (f := f) hx.offers none point
    generalize x.unfitted p f none point = y at hrest hy hround hYrun hunknown
    let Y : State := setRound p { count := (roundOf x p).count } y
    have hm := resulting_marked p f .noReply Y
    have hrestY : Y.AtRest p := ⟨⟨hrest.stops, hrest.deliveries, hrest.management, hrest.first, hrest.second⟩, hrest.reads⟩
    have hYr : stateOf Y p = .running := hYrun
    have hserve : inService (State.resulting p f .noReply Y) p = true := by
      unfold inService
      rw [hm.stateOf, hYr]
    refine (namedEnd_tells (k := 6) (z := State.resulting p f .noReply Y) hx
      (hsilent.trans (congrArg (fun z => backToWord p (emitAll (.writeResult p f .noReply :: holdNotices p) z)) hunknown))
      hy hround (Acts.cons (k := 3) (l := 3)
        (acts_resultTold (y := Y) hy.notices (by rw [hYr]; decide) (by rw [hYr]; decide) _)
        (acts_holdNotices (s := setOffers (fun _ => [wordOffer p]) (State.resulting p f .noReply Y)) (hm.notices.trans hy.notices)
          hserve ((hrestY.resulting .noReply).beside (o := wordOffer p) (show Requester.servicePoller ≠ .deliveryUnit by decide))))
      (hm.ending (setRound_ending hy _)) (by decide)).trans ?_
    rw [← resulting_granted]
    rfl
  · exact end_grants hx.notices (hagain.trans (hx.only (getOffer_valid _ _ p _ hp))) hx.notices hx.offers (namedOffer_plain p f point)

/-- Settles O38: the GET of point 62 by its word, and the GET of a named function by its end and the kind of the function. -/
theorem serviceRoundsGoOn : Obligations.ServiceRoundsGoOn := by
  unfold Obligations.ServiceRoundsGoOn
  intro s p d hrun hpend hwait c reply heard s1 round done word
  have hserve : inService s p = true := by unfold inService; rw [hrun]
  constructor
  · intro hfl hword
    obtain ⟨hready, hnot, hsilent⟩ := reply_ends hfl (wordOffer_addresses p)
    have hx := hfl.ending p 0
    have hwx : (setUnheard p 0 s.over).InWord p := ⟨hpend, hword, hwait⟩
    obtain ⟨hdata, hunready, hunheard, hagain⟩ := wordEnd_of hwx
    have hover := fun out data (h : wordEnd p out data (setUnheard p 0 s.over) = endRound p (setUnheard p 0 s.over)) =>
      (word_ends (o' := word) (y := s) hx).1 (h.trans (endRound_noOffers hx.offers))
    have hnext := fun (w : Word) (f : Code) (o' : Offer) (y : State) (hf : w.toNat = f.val)
      (h : nameFunction p f (setUnheard p 0 s.over) = setOffers (fun _ => [o']) y) =>
      (word_ends (pause := none) hx).2 ((wordEnd_named hwx hf).trans h)
    refine ⟨fun w hw => ?_, fun w f hf => ⟨fun hc => ?_, fun hc hd => ?_, fun b e r hc hb hr => ?_⟩, fun w => ?_, fun any w => ?_,
      fun hu => ?_⟩
    · exact (hready w).trans (congrArg _ (hover _ _ ((hdata w).trans (dif_neg (Nat.not_lt.mpr hw)))))
    · exact (hready w).trans (congrArg _ ((word_ends (o' := word) (y := s) hx).1 ((wordEnd_named hwx hf).trans
        (nameFunction_full (s := setUnheard p 0 s.over) hc hx.offers))))
    · exact (hready w).trans (congrArg _ (hnext w f _ _ hf (nameFunction_absent hx hserve hc hd) hx.notices hx.offers
        (wordOffer_plain p)))
    · have hbx : (setUnheard p 0 s.over).Bound p f b e r := hb.congr rfl rfl
      obtain ⟨hget, hpass⟩ := nameFunction_bound hx hbx hr hc
      refine ⟨fun hnode hfit => ?_, fun hno => ?_⟩
      · exact (hready w).trans (congrArg _ (hnext w f _ _ hf (hget hnode hfit) hx.notices hx.offers (namedOffer_plain p f r.point)))
      · exact (hready w).trans (congrArg _ (hnext w f _ _ hf (hpass hno) hx.notices hx.offers (wordOffer_plain p)))
    · exact (hnot w).trans (congrArg _ (hover _ _ (hunready none)))
    · exact (hsilent any w).trans (congrArg _ (hover _ _ (hunheard none)))
    · have hl := hfl.endingLater p (unheardOf s p + 1) d
      have hwl : (setUnheard p (unheardOf s p + 1) (advanceTo d s).over).InWord p := ⟨hpend, hword, hwait⟩
      have hsame := hl.only (o := word) (getOffer_valid _ _ p _ (by decide))
      exact (unheard_ends hfl (wordOffer_addresses p) (countsSilence_inService hserve) hu).trans (congrArg _
        ((word_ends (pause := none) (y := setUnheard p (unheardOf s p + 1) (advanceTo d s).over) hl).2 (((wordEnd_of hwl).2.2.2 none).trans hsame) hl.notices hl.offers (wordOffer_plain p)))
  · intro f point hfl hp hread hcode again watched
    obtain ⟨hready, hnot, hsilent⟩ := reply_ends hfl (namedOffer_addresses p f point)
    have hx := hfl.ending p 0
    have hrx : (setUnheard p 0 s.over).InRead p f := ⟨hpend, hread, hcode⟩
    have hover := fun w => reading_over (p := p) (f := f) w 0 s
    refine ⟨fun w => ⟨fun hk => ?_, fun hk hw => ?_, fun hw hd => ?_⟩, fun w => ?_, fun any w hrest => ?_, fun hu => ?_⟩
    · have hend := namedRead_sensor (point := point) hx hrx hrun hk w
      rw [hover, roundAgain_over] at hend
      exact (hready w).trans (congrArg _ hend)
    · have hend := namedRead_plain (point := point) hx hrx hrun hk hw w
      rw [hover, roundAgain_over] at hend
      exact (hready w).trans (congrArg _ hend)
    · have hend := namedRead_watched (point := point) hx hrx hrun hw w
      rw [hover, ← dueReads_again c, roundAgain_over] at hend
      exact (hready w).trans (congrArg _ (hend hd))
    · exact (hnot w).trans (congrArg _ (namedRead_silent (point := point) hx hrx hrun).1)
    · have hend := (namedRead_silent (point := point) hx hrx hrun).2.1
      rw [unfitted_over, roundAgain_over] at hend
      exact (hsilent any w).trans (congrArg _ (hend hrest))
    · have hl := hfl.endingLater p (unheardOf s p + 1) d
      have hrl : (setUnheard p (unheardOf s p + 1) (advanceTo d s).over).InRead p f := ⟨hpend, hread, hcode⟩
      have hrunl : stateOf (setUnheard p (unheardOf s p + 1) (advanceTo d s).over) p = .running := (stateOf_advanceTo d s p).trans hrun
      exact (unheard_ends hfl (namedOffer_addresses p f point) (countsSilence_inService hserve) hu).trans
        (congrArg _ ((namedRead_silent hl hrl hrunl).2.2 hp))

end Sys2Proof.Machine
end

section
/-!
What the Delivery Unit looks at again after an end (R96, R151), and the replies that an end brings.
-/
namespace Sys2Proof.Machine

variable {s t u x y z : State} {p : Pos} {f : Code}

/-- R192: the reply of the request at the head, in a state that changed meanwhile. -/
theorem State.Owing.answer_in {r : Request} {rest : List Request} (h : s.Owing r rest) (result : ResultCode) (bytes : List Byte)
    (hr : x.management.requests = s.management.requests) (hq : x.port.queue = s.port.queue) :
    answer result bytes x = x.replied r rest result bytes :=
  answer_eq (hr.trans h.requests) (by rw [hq]; exact h.room) h.behind result bytes

/-- R34, R35: an end that leaves one offer, whose grant has the Delivery Unit look again. -/
theorem settle_grantsTold {k l : Nat} {o o' : Offer} {out : LineOutcome} {data : Option Word} (hx : x.notices = [])
    (h : Acts k [.lineEnd o out data] x (setOffers (fun _ => [o']) y)) (hy : y.notices = []) (ho : y.line.offers = [])
    (hp : notePhase o' (y.granted o') = y.granted o') (hg : Acts l (grantNotices o') (y.granted o') (y.granted o'))
    (hk : k ≤ 900) (hl : l ≤ 900) :
    settle (emitAll [.lineEnd o out data, .lineFree] x) = y.granted o' :=
  (Acts.cons (l := l + 1) h (Acts.run (x := .lineFree) (s := setOffers (fun _ => [o']) y) hy
    ((freeLine_one o' ho).trans (congrArg _ hp)) hy hg)).settle hx (by omega)

theorem scan_rests {second : Bool} (hs : inService s p = true) (hst : standing s .deliveryUnit (if second then 1 else 0) (linePos p) = none)
    (hf : formOffer p second s = s) : scan p second s = s := by
  unfold scan
  dsimp only
  rw [if_neg (by rw [hs]; decide), hst]
  exact hf

/-- R96: with no stop and no delivery to offer, a look at the first class leaves it. -/
theorem scan_first (hs : inService s p = true) (h : s.SetsAtRest p) : scan p false s = s := by
  refine scan_rests hs h.first ?_
  unfold formOffer
  rw [if_neg Bool.false_ne_true, tryStops_held _ h.stops]
  exact scanCodes_none false _ fun f _ => h.deliveries false f

theorem scan_second (hs : inService s p = true) (h : s.SetsAtRest p) : scan p true s = s := by
  refine scan_rests hs h.second ?_
  unfold formOffer
  rw [if_pos rfl, h.management]
  exact scanCodes_none true _ fun f _ => h.deliveries true f

theorem acts_scan {second : Bool} (hn : s.notices = []) (hs : inService s p = true) (h : s.SetsAtRest p) :
    Acts 1 [.scan p second] s s := by
  refine Acts.silent hn ?_ hn
  cases second
  · exact scan_first hs h
  · exact scan_second hs h

/-- R151: the read due first becomes the offer of class 6. -/
theorem classSix_again {b : BlockNo} {e : DirEntry} {r : FnRecord} {watch : Bool} {m : Time} {more : List (Code × Bool × Time)}
    (h : s.Ending) (hb : s.Bound p f b e r) (hr : r.point ≤ 63) (hk : permits s e.policyClass r.fnClass .rdp = true)
    (hd : dueReads s p = (f, watch, m) :: more) :
    classSix p s = setOffers (fun _ => [scheduledOffer p f watch r]) (reference b s) := by
  have hst : standing s .deliveryUnit 5 (linePos p) = none := by
    unfold standing
    rw [h.offers]; rfl
  have hfl : readInFlight s p = false := by
    unfold readInFlight flightIs
    rw [h.ended]
  rw [classSix_offers hb hk hst hfl hd]
  exact State.Ending.only (s := reference b s) ⟨h.notices, h.offers, h.flight, h.ended⟩ (scheduledOffer_valid hr p f watch)

theorem scheduledOffer_plain (p : Pos) (f : Code) (watch : Bool) (r : FnRecord) : (scheduledOffer p f watch r).Plain := by
  cases watch
  · exact ⟨rfl, fun s => notePhase_quiet (fun _ h => Purpose.noConfusion h) (fun _ h => Purpose.noConfusion h)
      (fun _ _ h => Purpose.noConfusion h) s⟩
  · exact ⟨rfl, fun s => notePhase_quiet (fun _ h => Purpose.noConfusion h) (fun _ h => Purpose.noConfusion h)
      (fun _ _ h => Purpose.noConfusion h) s⟩

/-- A VALUE frame placed leaves the Delivery Unit nothing more to offer. -/
theorem State.AtRest.valued {q : Pos} (h : s.AtRest q) (w : Word) (b : State) : (State.valued p f w b s).AtRest q := by
  obtain ⟨pt, heq⟩ := valued_port (p := p) (f := f) w b s
  rw [heq]
  exact ⟨⟨h.stops, h.deliveries, h.management, h.first, h.second⟩, h.reads⟩

theorem stateOf_valued (w : Word) (b s : State) (q : Pos) : stateOf (State.valued p f w b s) q = stateOf s q :=
  (valued_marked w b s).stateOf q

/-- R35: an end that hands on notices and leaves the line free. -/
theorem end_freesTold {k : Nat} {ns : List Notice} {o : Offer} {out : LineOutcome} {data : Option Word} (hx : x.notices = [])
    (h : takeLineEnd o out data x = emitAll ns y) (hyn : y.notices = []) (hns : Acts k ns y z) (hz : z.notices = [])
    (ho : z.line.offers = []) (hk : k ≤ 900) :
    settle (emitAll [.lineEnd o out data, .lineFree] x) = z.free :=
  settle_frees (k := k + 1) hx (Acts.run (x := .lineEnd o out data) hx h hyn hns) hz ho (by omega)

end Sys2Proof.Machine
end

section
/-!
The end of a management read, of a periodic read and of a watch read (R101, R106, R152, R153, R156).
-/
namespace Sys2Proof.Machine

variable {s t u x y z : State} {p : Pos} {f : Code}

/-- A GET of the Delivery Unit in flight, by its purpose. -/
structure Offer.Gets (o : Offer) (p : Pos) (point : Nat) : Prop where
  pos : o.pos = linePos p
  op : o.op = .get
  addr : o.addr = some point

theorem Offer.Gets.addresses {o : Offer} {point : Nat} (h : o.Gets p point) : o.Addresses p :=
  ⟨by rw [h.op]; decide, by rw [h.op]; decide, h.pos⟩

/-- What an end of x leaves settled. -/
def endSettled (o : Offer) (out : LineOutcome) (data : Option Word) (x : State) : State :=
  settle (emitAll [.lineEnd o out data, .lineFree] x)

/-! ## Management reads -/

/-- R101: a management read no longer asked for. -/
theorem managementEnd_discarded {o : Offer} {point : Nat} {out : LineOutcome} {data : Option Word} (hx : x.Ending)
    (hg : o.Gets p point) (hw : o.why = .managementRead p f) (hs : inService x p = true) (hp : x.delivery.pendingRead = none)
    (hrest : x.AtRest p) : endSettled o out data x = x.free := by
  refine end_freesTold (k := 1) (ns := [.scan p true]) hx.notices ?_ hx.notices (acts_scan hx.notices hs hrest.toSetsAtRest)
    hx.notices hx.offers (by decide)
  unfold takeLineEnd
  rw [hw]
  dsimp only
  unfold managementReadEnd
  rw [hp]
  exact if_pos rfl

/-- R101: the end of a management read that is asked for. -/
theorem managementEnd_wanted {o : Offer} {point : Nat} {out : LineOutcome} {data : Option Word}
    (hg : o.Gets p point) (hw : o.why = .managementRead p f)
    (hp : x.delivery.pendingRead = some { pos := p, code := f, point := some point }) :
    takeLineEnd o out data x = emitAll (holdNotices p) (match out with
      | .ready =>
        replyRead (readOf p f) .ok (functionReply (writeReading p f (data.getD 0) x) p f (some (data.getD 0).toNat))
          (writeReading p f (data.getD 0) x)
      | .notReady => replyRead (readOf p f) .notReady [] x
      | .notHeard => replyRead (readOf p f) .notFitted [] (pointUnknown p f (some .mgr) point x)
      | .unheard => x) := by
  have hof : ((x.delivery.pendingRead.map (readOf p f)).getD false) = true := by
    rw [hp]
    simp [readOf]
  unfold takeLineEnd
  rw [hw, hg.addr]
  dsimp only
  unfold managementReadEnd
  rw [if_neg (by rw [hof]; decide)]
  cases out <;> rfl

/-- R101: the state with the management read answered. -/
def readAnswered (q : Request) (rest : List Request) (r : ResultCode) (bytes : List Byte) (s : State) : State :=
  State.replied { s with delivery := { s.delivery with pendingRead := none } } q rest r bytes

theorem replyRead_wanted {q : Request} {rest : List Request} {point : Nat} (how : x.Owing q rest)
    (hr : y.management.requests = x.management.requests) (hq : y.port.queue = x.port.queue)
    (hp : y.delivery.pendingRead = some { pos := p, code := f, point := some point }) (r : ResultCode) (bytes : List Byte) :
    replyRead (readOf p f) r bytes y = readAnswered q rest r bytes y := by
  unfold replyRead
  rw [hp]
  refine (if_pos (by simp [readOf])).trans ?_
  exact how.answer_in r bytes (x := setPendingRead none y) hr hq

theorem functionReply_reading (w : Word) (ns : List Notice) (s : State) :
    functionReply (emitAll ns (s.reading p f w)) p f (some w.toNat) = word w.toNat ++ word ((entryOf s p f).delivered.getD 65535)
      ++ [BitVec.ofNat 8 (resultOrdinal (entryOf s p f).result)] := by
  have hd : (entryOf (s.reading p f w) p f).delivered = (entryOf s p f).delivered := by
    unfold State.reading
    split <;> rw [entryOf_modEntry_same]
  have hres : (entryOf (s.reading p f w) p f).result = (entryOf s p f).result := by
    unfold State.reading
    split <;> rw [entryOf_modEntry_same]
  show functionReply (s.reading p f w) p f (some w.toNat) = _
  unfold functionReply
  rw [hd, hres]
  rfl

theorem notices_reading (w : Word) (s : State) : (s.reading p f w).notices = s.notices := by
  unfold State.reading
  split <;> rfl

theorem reading_keeps (w : Word) (s : State) : (s.reading p f w).management = s.management ∧ (s.reading p f w).port = s.port
    ∧ (s.reading p f w).delivery.pendingRead = s.delivery.pendingRead ∧ (s.reading p f w).line = s.line := by
  unfold State.reading
  split <;> exact ⟨rfl, rfl, rfl, rfl⟩

theorem unfitted_keeps (k : Option AccessKind) (point : Nat) (s : State) : (s.unfitted p f k point).management = s.management
    ∧ (s.unfitted p f k point).port = s.port
    ∧ (s.unfitted p f k point).delivery.pendingRead = s.delivery.pendingRead ∧ (s.unfitted p f k point).line = s.line := by
  unfold State.unfitted
  split <;> exact ⟨rfl, rfl, rfl, rfl⟩

/-- R101, R102: the data of a management read. -/
theorem managementEnd_ready {o : Offer} {point : Nat} {q : Request} {rest : List Request} (hx : x.Ending) (hg : o.Gets p point)
    (hw : o.why = .managementRead p f) (hs : inService x p = true) (how : x.Owing q rest)
    (hp : x.delivery.pendingRead = some { pos := p, code := f, point := some point }) (w : Word)
    (hy : y = readAnswered q rest .ok (word w.toNat ++ word ((entryOf x p f).delivered.getD 65535)
      ++ [BitVec.ofNat 8 (resultOrdinal (entryOf x p f).result)]) (x.reading p f w)) (hrest : y.AtRest p) :
    endSettled o .ready (some w) x = State.valued p f w x y.free := by
  have hv : stateOf x p ≠ .vacant := by
    intro h
    unfold inService at hs
    rw [h] at hs
    cases hs
  obtain ⟨hman, hport, hpend, hline⟩ := reading_keeps (p := p) (f := f) w x
  have hyn : y.notices = [] := by
    rw [hy]
    exact (notices_reading w x).trans hx.notices
  have hyo : y.line.offers = [] := by
    rw [hy]
    show (x.reading p f w).line.offers = []
    rw [hline]; exact hx.offers
  have hys : inService y p = true := by
    rw [hy]
    show inService (x.reading p f w) p = true
    unfold inService
    rw [stateOf_reading]
    exact hs
  have hm := valued_marked (p := p) (f := f) w x y
  have htake : takeLineEnd o .ready (some w) x = emitAll (valueNotices x p f w ++ holdNotices p) y := by
    rw [managementEnd_wanted hg hw hp, ← emitAll_emitAll, hy]
    refine congrArg (emitAll (holdNotices p)) ?_
    show replyRead (readOf p f) .ok (functionReply (writeReading p f w x) p f (some w.toNat)) (writeReading p f w x) = _
    rw [writeReading_eq hv, functionReply_reading]
    exact replyRead_wanted (y := emitAll (valueNotices x p f w) (x.reading p f w)) how
      (congrArg Management.requests hman) (congrArg Port.queue hport) (hpend.trans hp) _ _
  have hvs : inService (State.valued p f w x y) p = true := by
    unfold inService
    rw [hm.stateOf]
    exact hys
  refine (end_freesTold (k := 4) hx.notices htake hyn (Acts.append (k := 1) (l := 3) (acts_value (s := x) hyn w)
    (acts_holdNotices (hm.notices.trans hyn) hvs (hrest.valued w x))) (hm.notices.trans hyn) (by rw [hm.line]; exact hyo)
    (by decide)).trans (valued_free w x y).symm

/-- R101: a management read that ends with no data. -/
theorem managementEnd_silent {o : Offer} {point : Nat} {q : Request} {rest : List Request} (hx : x.Ending) (hg : o.Gets p point)
    (hw : o.why = .managementRead p f) (hs : inService x p = true) (how : x.Owing q rest)
    (hp : x.delivery.pendingRead = some { pos := p, code := f, point := some point }) :
    ((readAnswered q rest .notReady [] x).AtRest p →
        endSettled o .notReady none x = (readAnswered q rest .notReady [] x).free)
      ∧ ((readAnswered q rest .notFitted [] (x.unfitted p f (some .mgr) point)).AtRest p →
        endSettled o .notHeard none x = (readAnswered q rest .notFitted [] (x.unfitted p f (some .mgr) point)).free) := by
  refine ⟨fun hrest => ?_, fun hrest => ?_⟩
  · refine end_freesTold (k := 3) hx.notices ((managementEnd_wanted hg hw hp).trans (congrArg (emitAll (holdNotices p))
      (replyRead_wanted how rfl rfl hp _ _))) hx.notices ?_ hx.notices hx.offers (by decide)
    exact acts_holdNotices (s := readAnswered q rest .notReady [] x) hx.notices hs hrest
  · obtain ⟨hman, hport, hpend, hline⟩ := unfitted_keeps (p := p) (f := f) (some .mgr) point x
    have hu := unfitted_ending (p := p) (f := f) hx (some .mgr) point
    have hsu : inService (x.unfitted p f (some .mgr) point) p = true := by
      unfold inService
      rw [stateOf_unfitted]
      exact hs
    refine end_freesTold (k := 3) (y := readAnswered q rest .notFitted [] (x.unfitted p f (some .mgr) point)) hx.notices
      ((managementEnd_wanted hg hw hp).trans (congrArg (emitAll (holdNotices p)) ?_)) hu.notices ?_ hu.notices hu.offers (by decide)
    · show replyRead (readOf p f) .notFitted [] (pointUnknown p f (some .mgr) point x) = _
      rw [pointUnknown_noOffers hx.offers]
      exact replyRead_wanted how (congrArg Management.requests hman) (congrArg Port.queue hport) (hpend.trans hp) _ _
    · exact acts_holdNotices (s := readAnswered q rest .notFitted [] (x.unfitted p f (some .mgr) point)) hu.notices hsu hrest

/-- R24, R101: Unheard, the read is offered again, and goes ahead of the deliveries. -/
theorem managementEnd_again {o : Offer} {point : Nat} (hx : x.Ending) (hg : o.Gets p point)
    (hw : o.why = .managementRead p f) (hs : inService x p = true)
    (hp : x.delivery.pendingRead = some { pos := p, code := f, point := some point }) (hpoint : point ≤ 63)
    (hrest : State.SetsAtRest { x with delivery := { x.delivery with pendingRead := none } } p) (hd : dueReads x p = [])
    (hafter : (x.granted (managementGet p f point)).SetsAtRest p) :
    endSettled o .unheard none x = x.granted (managementGet p f point) := by
  have hfirst : scan p false x = x := by
    refine scan_rests hs hrest.first ?_
    unfold formOffer
    rw [if_neg Bool.false_ne_true, tryStops_held (s := x) _ hrest.stops]
    exact scanCodes_none false _ fun f _ => hrest.deliveries false f
  have hread : readOffer x p = some (managementGet p f point) := by
    have hfree : flightIs x (fun o => decide (o.why = .managementRead p f)) = false := by
      unfold flightIs; rw [hx.ended]
    unfold readOffer
    rw [hp]
    dsimp only
    rw [hfree]
    exact if_pos (by simp)
  have hsecond : scan p true x = setOffers (fun _ => [managementGet p f point]) x := by
    have hst : standing x .deliveryUnit 1 (linePos p) = none := hrest.second
    unfold scan
    dsimp only
    rw [if_neg (by rw [hs]; decide), show standing x .deliveryUnit (if true = true then 1 else 0) (linePos p) = none from hst]
    dsimp only
    unfold formOffer
    rw [if_pos rfl, hread]
    exact hx.only (managementGet_valid hpoint p f)
  have hlook : Acts 3 (holdNotices p) x (setOffers (fun _ => [managementGet p f point]) x) :=
    Acts.cons (k := 1) (l := 2) (Acts.silent hx.notices hfirst hx.notices)
      (Acts.cons (k := 1) (l := 1) (Acts.silent hx.notices hsecond hx.notices)
        (acts_classSix (s := setOffers (fun _ => [managementGet p f point]) x) hx.notices hs hd))
  exact settle_grantsTold (k := 4) (l := 1) hx.notices (Acts.run (x := .lineEnd o .unheard none) hx.notices
      (managementEnd_wanted hg hw hp) hx.notices hlook) hx.notices hx.offers
    (notePhase_quiet (fun _ h => Purpose.noConfusion h) (fun _ h => Purpose.noConfusion h) (fun _ _ h => Purpose.noConfusion h) _)
    (acts_scan (s := x.granted (managementGet p f point)) hx.notices hs hafter) (by decide) (by decide)

end Sys2Proof.Machine
end

section
/-!
The ends of the scheduled reads (R106, R152, R153, R156), and the obligation on the ends of reads.
-/
namespace Sys2Proof.Machine

variable {s t u x y z : State} {p : Pos} {f : Code}

/-- R152, R156: the next read of the function. -/
def readAfter (p : Pos) (f : Code) (wait : Nat) (s : State) : State :=
  modEntry p f (fun x => { x with nextRead := some (s.now + wait) }) s

theorem now_reading (w : Word) (s : State) : (s.reading p f w).now = s.now := by
  unfold State.reading
  split <;> rfl

theorem running_states (h : stateOf x p = .running) (hs : ∀ q, stateOf y q = stateOf x q) :
    inService y p = true ∧ stateOf y p ≠ .vacant ∧ stateOf y p ≠ .exercising := by
  have hy : stateOf y p = .running := (hs p).trans h
  refine ⟨by unfold inService; rw [hy], by rw [hy]; decide, by rw [hy]; decide⟩

/-! ## Periodic reads -/

theorem periodicEnd_cases {o : Offer} {point interval : Nat} (hx : x.Ending) (hg : o.Gets p point)
    (hw : o.why = .periodicRead p f interval) (hk : kindOf f = .sensor) (hv : stateOf x p ≠ .vacant) :
    (∀ w, takeLineEnd o .ready (some w) x = emitAll
        (valueNotices x p f w ++ [.writeResult p f (if w = 65535 then .sensorFault else .ok), .classSix p])
        (readAfter p f (interval * ms 100) (x.reading p f w)))
      ∧ takeLineEnd o .notReady none x = emitAll [.writeResult p f .sensorFault, .classSix p] (readAfter p f (interval * ms 100) x)
      ∧ takeLineEnd o .notHeard none x = emitAll [.writeResult p f .noReply, .classSix p]
        (modEntry p f (fun e => { e with nextRead := none }) (x.unfitted p f (some .rdp) point))
      ∧ takeLineEnd o .unheard none x = emit (.classSix p) x := by
  have htake : ∀ out data, takeLineEnd o out data x = periodicEnd p f interval point out data x := by
    intro out data
    unfold takeLineEnd
    rw [hw, hg.addr]
    rfl
  have hleave : leaveSchedule p f (pointUnknown p f (some .rdp) point x) =
      modEntry p f (fun e => { e with nextRead := none }) (x.unfitted p f (some .rdp) point) := by
    rw [pointUnknown_noOffers hx.offers]
    exact if_pos hk
  refine ⟨fun w => (htake _ _).trans ?_, (htake _ _).trans ?_, (htake _ _).trans ?_, (htake _ _).trans rfl⟩
  · unfold periodicEnd
    dsimp only [Option.getD_some]
    rw [writeReading_eq hv]
    by_cases hinv : w = 65535
    · rw [if_pos hinv, if_pos (show w = invalidReading from hinv), emit_eq, emit_eq, emitAll_emitAll]
      exact emitAll_emitAll (valueNotices x p f w) [.writeResult p f .sensorFault, .classSix p]
        (readAfter p f (interval * ms 100) (x.reading p f w))
    · rw [if_neg hinv, if_neg (show ¬ w = invalidReading from hinv), emit_eq, emit_eq, emitAll_emitAll]
      exact emitAll_emitAll (valueNotices x p f w) [.writeResult p f .ok, .classSix p]
        (readAfter p f (interval * ms 100) (x.reading p f w))
  · unfold periodicEnd
    dsimp only
    rw [emit_eq, emit_eq, emitAll_emitAll]
    rfl
  · unfold periodicEnd
    dsimp only
    rw [hleave, emit_eq, emit_eq, emitAll_emitAll]
    rfl

/-- R92, R151: a result written, and a look at the reads that finds none due. -/
theorem acts_resultLooked (hn : y.notices = []) (hy : inService y p = true) (hv : stateOf y p ≠ .vacant)
    (he : stateOf y p ≠ .exercising) (hd : dueReads y p = []) (r : CheckResult) :
    Acts 4 [.writeResult p f r, .classSix p] y (State.resulting p f r y) := by
  have hm := resulting_marked p f r y
  refine Acts.cons (k := 3) (l := 1) (acts_writeResult f r hn hv he) (acts_classSix (hm.notices.trans hn) ?_ (dueReads_resulting r hd))
  unfold inService
  rw [hm.stateOf]
  exact hy

theorem dueReads_valued (w : Word) (b s : State) (q : Pos) : dueReads (State.valued p f w b s) q = dueReads s q := by
  obtain ⟨pt, heq⟩ := valued_port (p := p) (f := f) w b s
  rw [heq]
  rfl

/-- R152, R153: the data of a periodic read, and an end without data. -/
theorem periodicEnd_settles {o : Offer} {point interval : Nat} (hx : x.Ending) (hg : o.Gets p point)
    (hw : o.why = .periodicRead p f interval) (hk : kindOf f = .sensor) (hrun : stateOf x p = .running) :
    (∀ w y, y = readAfter p f (interval * ms 100) (x.reading p f w) → dueReads y p = [] →
        endSettled o .ready (some w) x = State.resulting p f (if w = 65535 then .sensorFault else .ok) (State.valued p f w x y.free))
      ∧ (∀ y, y = readAfter p f (interval * ms 100) x → dueReads y p = [] →
        endSettled o .notReady none x = State.resulting p f .sensorFault y.free)
      ∧ (∀ y, y = modEntry p f (fun e => { e with nextRead := none }) (x.unfitted p f (some .rdp) point) → dueReads y p = [] →
        endSettled o .notHeard none x = State.resulting p f .noReply y.free) := by
  obtain ⟨hready, hnot, hsilent, -⟩ := periodicEnd_cases hx hg hw hk (by rw [hrun]; decide)
  refine ⟨fun w y hy hd => ?_, fun y hy hd => ?_, fun y hy hd => ?_⟩
  · have hz := reading_ending (p := p) (f := f) hx w
    have hye : y.Ending := by rw [hy]; exact ⟨hz.notices, hz.offers, hz.flight, hz.ended⟩
    have hm := valued_marked (p := p) (f := f) w x y
    obtain ⟨hs, hv, he⟩ := running_states hrun (y := State.valued p f w x y) (fun q => (hm.stateOf q).trans (by
      rw [hy]; exact stateOf_reading w x q))
    have hm' := resulting_marked p f (if w = 65535 then .sensorFault else .ok) (State.valued p f w x y)
    refine (end_freesTold (k := 5) hx.notices ((hready w).trans (congrArg _ hy.symm)) hye.notices
      (Acts.append (k := 1) (l := 4) (acts_value (s := x) hye.notices w)
        (acts_resultLooked (hm.notices.trans hye.notices) hs hv he ((dueReads_valued w x y p).trans hd) _))
      ((hm'.trans hm).notices.trans hye.notices) (by rw [(hm'.trans hm).line]; exact hye.offers) (by decide)).trans ?_
    rw [valued_free, resulting_free]
  · have hye : y.Ending := by rw [hy]; exact ⟨hx.notices, hx.offers, hx.flight, hx.ended⟩
    obtain ⟨hs, hv, he⟩ := running_states hrun (y := y) (fun q => by rw [hy]; rfl)
    have hm := resulting_marked p f .sensorFault y
    refine (end_freesTold (k := 4) hx.notices (hnot.trans (congrArg _ hy.symm)) hye.notices
      (acts_resultLooked hye.notices hs hv he hd _) (hm.notices.trans hye.notices) (by rw [hm.line]; exact hye.offers)
      (by decide)).trans (resulting_free _ y).symm
  · have hz := unfitted_ending (p := p) (f := f) hx (some .rdp) point
    have hye : y.Ending := by rw [hy]; exact ⟨hz.notices, hz.offers, hz.flight, hz.ended⟩
    obtain ⟨hs, hv, he⟩ := running_states hrun (y := y) (fun q => by rw [hy]; exact stateOf_unfitted (some .rdp) point x q)
    have hm := resulting_marked p f .noReply y
    refine (end_freesTold (k := 4) hx.notices (hsilent.trans (congrArg _ hy.symm)) hye.notices
      (acts_resultLooked hye.notices hs hv he hd _) (hm.notices.trans hye.notices) (by rw [hm.line]; exact hye.offers)
      (by decide)).trans (resulting_free _ y).symm

/-- R24, R151: Unheard, the scheduled read is chosen anew. -/
theorem scheduled_again {k : Nat} {ns : List Notice} {o : Offer} {watch : Bool} {b : BlockNo} {e : DirEntry} {r : FnRecord} {m : Time}
    {more : List (Code × Bool × Time)} (hx : x.Ending) (htake : takeLineEnd o .unheard none x = emitAll (ns ++ [.classSix p]) x)
    (hns : Acts k ns x x) (hb : x.Bound p f b e r) (hr : r.point ≤ 63) (hperm : permits x e.policyClass r.fnClass .rdp = true)
    (hd : dueReads x p = (f, watch, m) :: more) (hk : k ≤ 900 := by decide) :
    endSettled o .unheard none x = (reference b x).granted (scheduledOffer p f watch r) := by
  have hplain := scheduledOffer_plain p f watch r
  have hsix : Acts 1 [.classSix p] x (setOffers (fun _ => [scheduledOffer p f watch r]) (reference b x)) :=
    Acts.silent hx.notices (classSix_again hx hb hr hperm hd) hx.notices
  exact settle_grants (k := k + 1 + 1) hx.notices (Acts.run (x := .lineEnd o .unheard none) hx.notices htake hx.notices
    (Acts.append hns hsix)) hx.notices hx.offers hplain.grant (hplain.phase _) (by omega)

/-- R24, R152: Unheard, the periodic read is chosen again. -/
theorem periodicEnd_again {o : Offer} {point interval : Nat} {b : BlockNo} {e : DirEntry} {r : FnRecord} {m : Time}
    {more : List (Code × Bool × Time)} (hx : x.Ending) (hg : o.Gets p point) (hw : o.why = .periodicRead p f interval)
    (hk : kindOf f = .sensor) (hb : x.Bound p f b e r) (hr : r.point ≤ 63) (hv : stateOf x p ≠ .vacant)
    (hperm : permits x e.policyClass r.fnClass .rdp = true) (hd : dueReads x p = (f, false, m) :: more) :
    endSettled o .unheard none x = (reference b x).granted (scheduledOffer p f false r) :=
  scheduled_again (ns := []) (k := 0) hx (periodicEnd_cases hx hg hw hk hv).2.2.2 (Acts.nil x) hb hr hperm hd

/-! ## Watch reads -/

theorem watchEnd_cases {o : Offer} {point : Nat} (hx : x.Ending) (hg : o.Gets p point) (hw : o.why = .watchRead p f)
    (hk : kindOf f = .actuator) (hv : stateOf x p ≠ .vacant) :
    ((entryOf x p f).watchDeadline = none →
        (∀ w, takeLineEnd o .ready (some w) x = emitAll (holdNotices p) (x.reading p f w))
          ∧ takeLineEnd o .notReady none x = emitAll (holdNotices p) x
          ∧ takeLineEnd o .notHeard none x = emitAll (holdNotices p) x)
      ∧ ((entryOf x p f).watchDeadline ≠ none →
        (∀ w, takeLineEnd o .ready (some w) x = emitAll (.writeResult p f .ok :: holdNotices p) (unwatched p f (x.reading p f w)))
          ∧ takeLineEnd o .notReady none x = emitAll (holdNotices p) (readAfter p f (ms 100) x)
          ∧ takeLineEnd o .notHeard none x = emitAll (.writeResult p f .noReply :: holdNotices p)
            ((unwatched p f x).unfitted p f (some .rdp) point))
      ∧ takeLineEnd o .unheard none x = emitAll (holdNotices p) x := by
  have htake : ∀ out data, takeLineEnd o out data x = watchReadEnd p f point out data x := by
    intro out data
    unfold takeLineEnd
    rw [hw, hg.addr]
    rfl
  have hread : ∀ w, writeReading p f w x = x.reading p f w := by
    intro w
    rw [writeReading_eq hv, valueNotices, if_neg (fun h => by rw [hk] at h; exact absurd h.1 (by decide)), emitAll_nil]
  refine ⟨fun hnone => ⟨fun w => ?_, ?_, ?_⟩, fun hsome => ⟨fun w => ?_, ?_, ?_⟩, (htake _ _).trans rfl⟩
  · rw [htake]
    unfold watchReadEnd
    rw [hnone]
    exact congrArg (emitAll (holdNotices p)) (hread w)
  · rw [htake]
    unfold watchReadEnd
    rw [hnone]
    rfl
  · rw [htake]
    unfold watchReadEnd
    rw [hnone]
    rfl
  · have hwatch : (entryOf (x.reading p f w) p f).watchDeadline = (entryOf x p f).watchDeadline := by
      unfold State.reading
      split <;> rw [entryOf_modEntry_same]
    have hoff := (reading_ending (p := p) (f := f) hx w).offers
    have hend : endWatch p f (x.reading p f w) = unwatched p f (x.reading p f w) :=
      (endWatch_noOffers hoff).trans (if_pos (hwatch ▸ hsome))
    rw [htake]
    unfold watchReadEnd
    rw [Option.isSome_iff_ne_none.mpr hsome]
    dsimp only [Option.getD_some]
    rw [if_pos rfl, hread, hend, emit_eq, emitAll_emitAll]
    rfl
  · rw [htake]
    unfold watchReadEnd
    rw [Option.isSome_iff_ne_none.mpr hsome]
    rfl
  · have hend : endWatch p f x = unwatched p f x := (endWatch_noOffers hx.offers).trans (if_pos hsome)
    have hunknown : pointUnknown p f (some .rdp) point (unwatched p f x) = (unwatched p f x).unfitted p f (some .rdp) point :=
      pointUnknown_noOffers (s := unwatched p f x) hx.offers (some .rdp) point
    rw [htake]
    unfold watchReadEnd
    rw [Option.isSome_iff_ne_none.mpr hsome]
    dsimp only
    rw [if_pos rfl, hend, hunknown, emit_eq, emitAll_emitAll]
    rfl

/-- R96: an end that only has the Delivery Unit look again, and finds nothing due. -/
theorem end_looks {o : Offer} {out : LineOutcome} {data : Option Word} (hx : x.notices = [])
    (h : takeLineEnd o out data x = emitAll (holdNotices p) y) (hy : y.Ending) (hs : inService y p = true) (hrest : y.AtRest p) :
    endSettled o out data x = y.free :=
  end_freesTold (k := 3) hx h hy.notices (acts_holdNotices hy.notices hs hrest) hy.notices hy.offers (by decide)

/-- R92, R96: the same with a result written first. -/
theorem end_writes {o : Offer} {out : LineOutcome} {data : Option Word} {r : CheckResult} (hx : x.notices = [])
    (h : takeLineEnd o out data x = emitAll (.writeResult p f r :: holdNotices p) y) (hy : y.Ending)
    (hrun : stateOf y p = .running) (hrest : y.AtRest p) :
    endSettled o out data x = State.resulting p f r y.free := by
  have hm := resulting_marked p f r y
  obtain ⟨hs, hv, he⟩ := running_states (x := y) (y := State.resulting p f r y) hrun (fun q => hm.stateOf q)
  obtain ⟨-, hv, he⟩ := running_states (x := y) (y := y) hrun fun _ => rfl
  rw [resulting_free]
  exact end_freesTold (k := 6) hx h hy.notices (Acts.cons (k := 3) (l := 3) (acts_writeResult f r hy.notices hv he)
    (acts_holdNotices (hm.notices.trans hy.notices) hs (hrest.resulting r))) (hm.notices.trans hy.notices)
    (by rw [hm.line]; exact hy.offers) (by decide)

/-- R24, R156: Unheard, the watch read is chosen again. -/
theorem watchEnd_again {o : Offer} {point : Nat} {b : BlockNo} {e : DirEntry} {r : FnRecord} {m : Time}
    {more : List (Code × Bool × Time)} (hx : x.Ending) (hg : o.Gets p point) (hw : o.why = .watchRead p f)
    (hk : kindOf f = .actuator) (hb : x.Bound p f b e r) (hr : r.point ≤ 63) (hv : stateOf x p ≠ .vacant)
    (hrest : x.SetsAtRest p)
    (hperm : permits x e.policyClass r.fnClass .rdp = true) (hd : dueReads x p = (f, true, m) :: more) :
    endSettled o .unheard none x = (reference b x).granted (scheduledOffer p f true r) :=
  scheduled_again (ns := [.scan p false, .scan p true]) (k := 2) hx (watchEnd_cases hx hg hw hk hv).2.2
    (Acts.cons (k := 1) (l := 1) (acts_scan hx.notices hb.service hrest) (acts_scan hx.notices hb.service hrest)) hb hr hperm hd

end Sys2Proof.Machine
end

section
/-!
The obligation on the ends of reads (R101, R106, R152, R153, R156).
-/
namespace Sys2Proof.Machine

variable {s t u x y z : State} {p : Pos} {f : Code}

theorem reading_at (w : Word) (n : Nat) (s : State) :
    State.reading p f w (setUnheard p n s.over) = setUnheard p n (s.reading p f w).over := reading_over w n s

theorem unfitted_at (k : Option AccessKind) (point n : Nat) (s : State) :
    State.unfitted p f k point (setUnheard p n s.over) = setUnheard p n (s.unfitted p f k point).over := unfitted_over k point n s

theorem modEntry_at (g : StatusEntry → StatusEntry) (n : Nat) (s : State) :
    modEntry p f g (setUnheard p n s.over) = setUnheard p n (modEntry p f g s).over := rfl

theorem now_at (n : Nat) (s : State) : (setUnheard p n s.over).now = s.now := rfl

theorem inService_at (n : Nat) (s : State) (q : Pos) : inService (setUnheard p n s.over) q = inService s q := rfl

theorem stateOf_at (n : Nat) (s : State) (q : Pos) : stateOf (setUnheard p n s.over) q = stateOf s q := rfl

theorem free_at (n : Nat) (s : State) : (setUnheard p n s.over).free = setUnheard p n s.free := rfl

/-- The state with the next read of f at m. -/
def readAt (p : Pos) (f : Code) (m : Time) (s : State) : State := modEntry p f (fun x => { x with nextRead := some m }) s

theorem inService_running (h : stateOf s p = .running) : inService s p = true := by unfold inService; rw [h]

/-- R152, R153: the ends of a periodic read. -/
theorem periodicRead_ends {o : Offer} {d : Time} {point interval : Nat} (hfl : s.InFlight o d) (hg : o.Gets p point)
    (hw : o.why = .periodicRead p f interval) (hk : kindOf f = .sensor) (hrun : stateOf s p = .running) :
    (∀ w : Word, dueReads (setUnheard p 0 (readAt p f (s.now + interval * ms 100) (s.reading p f w)).over) p = [] →
        exec (.transactionEnd { heard := true, ready := true, service := false, data := some w }) s =
          .next (State.resulting p f (if w = 65535 then .sensorFault else .ok) (State.valued p f w s
            (setUnheard p 0 (readAt p f (s.now + interval * ms 100) (s.reading p f w)).free))))
      ∧ (∀ w, dueReads (setUnheard p 0 (readAt p f (s.now + interval * ms 100) s).over) p = [] →
        exec (.transactionEnd { heard := true, ready := false, service := false, data := w }) s =
          .next (State.resulting p f .sensorFault (setUnheard p 0 (readAt p f (s.now + interval * ms 100) s).free)))
      ∧ ∀ any w, dueReads (setUnheard p 0 (modEntry p f (fun e => { e with nextRead := none })
            (s.unfitted p f (some .rdp) point)).over) p = [] →
        exec (.transactionEnd { heard := false, ready := any, service := false, data := w }) s =
          .next (State.resulting p f .noReply (setUnheard p 0 (modEntry p f (fun e => { e with nextRead := none })
            (s.unfitted p f (some .rdp) point)).free)) := by
  obtain ⟨hready, hnot, hsilent⟩ := reply_ends hfl hg.addresses
  obtain ⟨hdata, hno, hnone⟩ := periodicEnd_settles (hfl.ending p 0) hg hw hk hrun
  refine ⟨fun w hd => ?_, fun w hd => ?_, fun any w hd => ?_⟩
  · have hend := hdata w _ rfl
    rw [reading_at, readAfter, now_at, now_reading, modEntry_at, free_at] at hend
    exact (hready w).trans (congrArg _ (hend hd))
  · have hend := hno _ rfl
    rw [readAfter, now_at, modEntry_at, free_at] at hend
    exact (hnot w).trans (congrArg _ (hend hd))
  · have hend := hnone _ rfl
    rw [unfitted_at, modEntry_at, free_at] at hend
    exact (hsilent any w).trans (congrArg _ (hend hd))

theorem modEntry_ending (h : s.Ending) (g : StatusEntry → StatusEntry) : (modEntry p f g s).Ending :=
  ⟨h.notices, h.offers, h.flight, h.ended⟩

theorem unwatched_ending (h : s.Ending) : (unwatched p f s).Ending := modEntry_ending h _

/-- R156: the ends of a watch read whose watch runs. -/
theorem watchRead_ends {o : Offer} {d : Time} {point : Nat} (hfl : s.InFlight o d) (hg : o.Gets p point)
    (hw : o.why = .watchRead p f) (hk : kindOf f = .actuator) (hrun : stateOf s p = .running)
    (hsome : (entryOf s p f).watchDeadline ≠ none) :
    (∀ w : Word, (setUnheard p 0 (unwatched p f (s.reading p f w)).over).AtRest p →
        exec (.transactionEnd { heard := true, ready := true, service := false, data := some w }) s =
          .next (State.resulting p f .ok (setUnheard p 0 (unwatched p f (s.reading p f w)).free)))
      ∧ (∀ w, (setUnheard p 0 (readAt p f (s.now + ms 100) s).over).AtRest p →
        exec (.transactionEnd { heard := true, ready := false, service := false, data := w }) s =
          .next (setUnheard p 0 (readAt p f (s.now + ms 100) s).free))
      ∧ ∀ any w, (setUnheard p 0 ((unwatched p f s).unfitted p f (some .rdp) point).over).AtRest p →
        exec (.transactionEnd { heard := false, ready := any, service := false, data := w }) s =
          .next (State.resulting p f .noReply (setUnheard p 0 ((unwatched p f s).unfitted p f (some .rdp) point).free)) := by
  obtain ⟨hready, hnot, hsilent⟩ := reply_ends hfl hg.addresses
  have hx := hfl.ending p 0
  obtain ⟨hdata, hno, hnone⟩ := (watchEnd_cases hx hg hw hk (show stateOf s p ≠ .vacant by rw [hrun]; decide)).2.1 hsome
  refine ⟨fun w hrest => ?_, fun w hrest => ?_, fun any w hrest => ?_⟩
  · have hend := end_writes hx.notices (hdata w) (unwatched_ending (reading_ending hx w))
    rw [reading_at, unwatched, modEntry_at, free_at, stateOf_at] at hend
    exact (hready w).trans (congrArg _ (hend ((stateOf_reading w s p).trans hrun) hrest))
  · have hend := fun hy => end_looks hx.notices hno hy
    rw [readAfter, now_at, modEntry_at, free_at, inService_at] at hend
    exact (hnot w).trans (congrArg _ (hend (modEntry_ending hx _) (inService_running hrun) hrest))
  · have hend := end_writes hx.notices hnone (unfitted_ending (unwatched_ending hx) (some .rdp) point)
    rw [unwatched, modEntry_at, unfitted_at, free_at, stateOf_at] at hend
    exact (hsilent any w).trans (congrArg _ (hend ((stateOf_unfitted (some .rdp) point (unwatched p f s) p).trans hrun) hrest))

/-- R156: the ends of a watch read whose watch is over. -/
theorem watchRead_late {o : Offer} {d : Time} {point : Nat} (hfl : s.InFlight o d) (hg : o.Gets p point)
    (hw : o.why = .watchRead p f) (hk : kindOf f = .actuator) (hrun : stateOf s p = .running)
    (hnone : (entryOf s p f).watchDeadline = none) :
    (∀ w : Word, (setUnheard p 0 (s.reading p f w).over).AtRest p →
        exec (.transactionEnd { heard := true, ready := true, service := false, data := some w }) s =
          .next (setUnheard p 0 (s.reading p f w).free))
      ∧ (∀ w, (setUnheard p 0 s.over).AtRest p →
        exec (.transactionEnd { heard := true, ready := false, service := false, data := w }) s = .next (setUnheard p 0 s.free))
      ∧ ∀ any w, (setUnheard p 0 s.over).AtRest p →
        exec (.transactionEnd { heard := false, ready := any, service := false, data := w }) s =
          .next (setUnheard p 0 s.free) := by
  obtain ⟨hready, hnot, hsilent⟩ := reply_ends hfl hg.addresses
  have hx := hfl.ending p 0
  have hserve : inService s p = true := inService_running hrun
  obtain ⟨hdata, hno, hsil⟩ := (watchEnd_cases hx hg hw hk (show stateOf s p ≠ .vacant by rw [hrun]; decide)).1 hnone
  refine ⟨fun w hrest => ?_, fun w hrest => ?_, fun any w hrest => ?_⟩
  · have hserve' : inService (s.reading p f w) p = true := inService_running ((stateOf_reading w s p).trans hrun)
    have hend := end_looks hx.notices (hdata w) (reading_ending hx w)
    rw [reading_at, inService_at, free_at, hserve'] at hend
    exact (hready w).trans (congrArg _ (hend rfl hrest))
  · exact (hnot w).trans (congrArg _ (end_looks hx.notices hno hx hserve hrest))
  · exact (hsilent any w).trans (congrArg _ (end_looks hx.notices hsil hx hserve hrest))

theorem readAnswered_at {q : Request} {rest : List Request} (r : ResultCode) (bytes : List Byte) (n : Nat) (s : State) :
    readAnswered q rest r bytes (setUnheard p n s.over) = setUnheard p n (readAnswered q rest r bytes s).over := rfl

theorem entryOf_at (n : Nat) (s : State) (q : Pos) (g : Code) : entryOf (setUnheard p n s.over) q g = entryOf s q g := rfl

theorem valued_at (w : Word) (n : Nat) (b s : State) : State.valued p f w (setUnheard p n b.over) s = State.valued p f w b s := rfl

/-- R101, R102: the ends of a management read that is asked for. -/
theorem managementRead_ends {o : Offer} {d : Time} {point : Nat} {q : Request} {rest : List Request} (hfl : s.InFlight o d)
    (hg : o.Gets p point) (hw : o.why = .managementRead p f) (hs : inService s p = true) (how : s.Owing q rest)
    (hp : s.delivery.pendingRead = some { pos := p, code := f, point := some point }) :
    (∀ w : Word, (setUnheard p 0 (readAnswered q rest .ok (word w.toNat ++ word ((entryOf s p f).delivered.getD 65535)
          ++ [BitVec.ofNat 8 (resultOrdinal (entryOf s p f).result)]) (s.reading p f w)).over).AtRest p →
        exec (.transactionEnd { heard := true, ready := true, service := false, data := some w }) s =
          .next (State.valued p f w s (setUnheard p 0 (readAnswered q rest .ok (word w.toNat
            ++ word ((entryOf s p f).delivered.getD 65535)
            ++ [BitVec.ofNat 8 (resultOrdinal (entryOf s p f).result)]) (s.reading p f w)).free)))
      ∧ (∀ w, (setUnheard p 0 (readAnswered q rest .notReady [] s).over).AtRest p →
        exec (.transactionEnd { heard := true, ready := false, service := false, data := w }) s =
          .next (setUnheard p 0 (readAnswered q rest .notReady [] s).free))
      ∧ ∀ any w, (setUnheard p 0 (readAnswered q rest .notFitted [] (s.unfitted p f (some .mgr) point)).over).AtRest p →
        exec (.transactionEnd { heard := false, ready := any, service := false, data := w }) s =
          .next (setUnheard p 0 (readAnswered q rest .notFitted [] (s.unfitted p f (some .mgr) point)).free) := by
  obtain ⟨hready, hnot, hsilent⟩ := reply_ends hfl hg.addresses
  have hx := hfl.ending p 0
  have how' : (setUnheard p 0 s.over).Owing q rest := ⟨how.requests, how.room, how.behind⟩
  obtain ⟨hno, hnone⟩ := managementEnd_silent hx hg hw hs how' hp
  rw [readAnswered_at, free_at] at hno
  rw [unfitted_at, readAnswered_at, free_at] at hnone
  refine ⟨fun w hrest => ?_, fun w hrest => (hnot w).trans (congrArg _ (hno hrest)),
    fun any w hrest => (hsilent any w).trans (congrArg _ (hnone hrest))⟩
  have hend := managementEnd_ready hx hg hw hs how' hp w rfl
  rw [reading_at, entryOf_at, readAnswered_at, free_at, valued_at] at hend
  exact (hready w).trans (congrArg _ (hend hrest))

/-- Settles O37: the three reads by their purposes, each by its ends. -/
theorem readsEnd : Obligations.ReadsEnd := by
  unfold Obligations.ReadsEnd
  intro s p f point o d hfl hpos hop haddr hrun reply entry after s1
  have hg : o.Gets p point := ⟨hpos, hop, haddr⟩
  obtain ⟨hready, hnot, hsilent⟩ := reply_ends hfl hg.addresses
  have hx := hfl.ending p 0
  have hl := hfl.endingLater p (unheardOf s p + 1) d
  have hserve : inService s p = true := by unfold inService; rw [hrun]
  have hv : stateOf s p ≠ .vacant := by rw [hrun]; decide
  have hrunl : stateOf s1.over p = .running := (stateOf_advanceTo d s p).trans hrun
  have hvl : stateOf s1.over p ≠ .vacant := by rw [hrunl]; decide
  have hservel : inService s1.over p = true := by unfold inService; rw [hrunl]
  have hunheard := fun hu => unheard_ends hfl hg.addresses (countsSilence_inService hserve) hu
  refine ⟨?_, ?_, ?_⟩
  · intro hw q rest answered ends
    refine ⟨fun heard ready w hp hrest => ?_, fun hp how => ?_⟩
    · have hend := fun out data => managementEnd_discarded (out := out) (data := data) hx hg hw hserve hp hrest
      cases heard
      · exact (hsilent ready (some w)).trans (congrArg _ (hend _ _))
      · cases ready
        · exact (hnot (some w)).trans (congrArg _ (hend _ _))
        · exact (hready w).trans (congrArg _ (hend _ _))
    obtain ⟨hdata, hno, hsil⟩ := managementRead_ends hfl hg hw hserve how hp
    exact ⟨hdata, hno, hsil, fun hpt hu hsets hdue hafter => (hunheard hu).trans (congrArg _
      (managementEnd_again hl hg hw hservel hp hpt hsets hdue hafter))⟩
  · intro interval hw hk ends
    obtain ⟨hdata, hno, hnone⟩ := periodicRead_ends hfl hg hw hk hrun
    exact ⟨hdata, hno, hnone, fun b e r m more hu hb hr hperm hd => (hunheard hu).trans (congrArg _
      (periodicEnd_again hl hg hw hk ((hb.advanceTo d).congr rfl rfl) hr hvl hperm hd))⟩
  · intro hw hk ends ended
    exact ⟨fun hnone => watchRead_late hfl hg hw hk hrun hnone, fun hsome => watchRead_ends hfl hg hw hk hrun hsome,
      fun b e r m more hu hb hr hperm hsets hd => (hunheard hu).trans (congrArg _
        (watchEnd_again hl hg hw hk ((hb.advanceTo d).congr rfl rfl) hr hvl hsets hperm hd))⟩

end Sys2Proof.Machine
end

section
/-!
The ends of a delivery SET and of a stop SET (R98, R100, R111, R142, R144, R155, R159).
-/
namespace Sys2Proof.Machine

variable {s t u x y z : State} {p : Pos} {f : Code} {q : Request} {rest : List Request} {v : Nat}

/-! ## The override's reply -/

/-- R100: the pending override reply of value v to (p, f), given where it is that one. -/
def overrideTold (q : Request) (rest : List Request) (p : Pos) (f : Code) (v : Nat) (r : ResultCode) (s : State) : State :=
  if s.delivery.pendingOverride = some { pos := p, code := f, value := v } then
    State.replied { s with delivery := { s.delivery with pendingOverride := none } } q rest r []
  else s

theorem overrideIs_iff (o : PendingOverride) : overrideIs p f v o = true ↔ o = { pos := p, code := f, value := v } := by
  obtain ⟨a, b, c⟩ := o
  simp [overrideIs, overrideOf, and_assoc]

theorem replyOverride_told (how : x.delivery.pendingOverride ≠ none → x.Owing q rest)
    (hr : y.management.requests = x.management.requests) (hq : y.port.queue = x.port.queue)
    (hp : y.delivery.pendingOverride = x.delivery.pendingOverride) (r : ResultCode) :
    replyOverride (overrideIs p f v) r y = overrideTold q rest p f v r y := by
  unfold replyOverride overrideTold
  cases ho : y.delivery.pendingOverride with
  | none => exact (if_neg nofun).symm
  | some o =>
    have hown := how (by rw [← hp, ho]; nofun)
    dsimp only
    by_cases h : o = { pos := p, code := f, value := v }
    · rw [if_pos (overrideIs_iff o |>.mpr h), if_pos (congrArg some h)]
      exact hown.answer_in r [] (x := setPendingOverride none y) hr hq
    · rw [if_neg (mt (overrideIs_iff o).mp h), if_neg (fun hc => h (Option.some.inj hc))]

theorem overrideTold_at (r : ResultCode) (n : Nat) (s : State) :
    overrideTold q rest p f v r (setUnheard p n s.over) = setUnheard p n (overrideTold q rest p f v r s).over := by
  unfold overrideTold
  rw [show (setUnheard p n s.over).delivery.pendingOverride = s.delivery.pendingOverride from rfl]
  split <;> rfl

theorem overrideTold_ending (h : s.Ending) (r : ResultCode) : (overrideTold q rest p f v r s).Ending := by
  unfold overrideTold
  split <;> exact ⟨h.notices, h.offers, h.flight, h.ended⟩

theorem overrideTold_states (r : ResultCode) (s : State) (p' : Pos) :
    stateOf (overrideTold q rest p f v r s) p' = stateOf s p' ∧ inService (overrideTold q rest p f v r s) p' = inService s p'
      ∧ (∀ g, entryOf (overrideTold q rest p f v r s) p' g = entryOf s p' g)
      ∧ ∀ src, nodeCheck (overrideTold q rest p f v r s) p' src = nodeCheck s p' src := by
  unfold overrideTold
  split
  · exact ⟨rfl, rfl, fun _ => rfl, fun src => by cases src <;> rfl⟩
  · exact ⟨rfl, rfl, fun _ => rfl, fun _ => rfl⟩

/-! ## A delivery SET taken -/

/-- R98, R155: the entry of an accepted delivery. -/
def deliveredEntry (now : Time) (f : Code) (v interval : Nat) (x : StatusEntry) : StatusEntry :=
  let y := { x with delivered := some v, driven := x.driven || decide (v ≠ 0), unavailable := false, retryAt := none }
  if kindOf f = .actuator ∧ v ≠ 0 then
    { y with watchDeadline := some (now + interval * ms 100), watchUnits := interval, nextRead := some (now + ms 100) }
  else if kindOf f = .actuator ∧ x.watchDeadline ≠ none then { y with watchDeadline := none, nextRead := none }
  else y

theorem withdrawWatch_noOffers (ho : s.line.offers = []) : withdrawWatch p f s = s :=
  withdrawWhere_none fun o h => by rw [ho] at h; cases h

/-- R98, R155: what a delivery that is accepted leaves of its entry. -/
theorem delivery_taken (ho : s.line.offers = []) (interval : Nat) :
    (if kindOf f = .actuator then
      if v ≠ 0 then startWatch p f interval (modEntry p f (fun e => { e with unavailable := false, retryAt := none })
        (becomeDelivered p f v s))
      else endWatch p f (modEntry p f (fun e => { e with unavailable := false, retryAt := none }) (becomeDelivered p f v s))
    else modEntry p f (fun e => { e with unavailable := false, retryAt := none }) (becomeDelivered p f v s)) =
      modEntry p f (deliveredEntry s.now f v interval) s := by
  have hbase : modEntry p f (fun e => { e with unavailable := false, retryAt := none }) (becomeDelivered p f v s) =
      modEntry p f (fun e => { e with delivered := some v, driven := e.driven || decide (v ≠ 0), unavailable := false,
                                      retryAt := none }) s := modEntry_modEntry ..
  rw [hbase]
  by_cases hk : kindOf f = .actuator
  · rw [if_pos hk]
    by_cases hv : v ≠ 0
    · rw [if_pos hv]
      unfold startWatch
      rw [withdrawWatch_noOffers (s := modEntry p f _ s) ho, modEntry_modEntry]
      refine congrArg (fun g => modEntry p f g s) (funext fun e => ?_)
      unfold deliveredEntry
      rw [if_pos ⟨hk, hv⟩]
      rfl
    · rw [if_neg hv, endWatch_noOffers (s := modEntry p f _ s) ho, entryOf_modEntry_same]
      dsimp only
      by_cases hw : (entryOf s p f).watchDeadline ≠ none
      · rw [if_pos hw, modEntry_modEntry]
        refine modEntry_congr ?_
        unfold deliveredEntry
        rw [if_neg (fun h => hv h.2), if_pos ⟨hk, hw⟩]
      · rw [if_neg hw]
        refine modEntry_congr ?_
        unfold deliveredEntry
        rw [if_neg (fun h => hv h.2), if_neg (fun h => hw h.2)]
  · rw [if_neg hk]
    refine congrArg (fun g => modEntry p f g s) (funext fun e => ?_)
    unfold deliveredEntry
    rw [if_neg (fun h => hk h.1), if_neg (fun h => hk h.1)]

/-- R142, R144: a new delivered value reaches no check. -/
theorem deliveredChanged_nothing (hn : ∀ src, nodeCheck s p src = none) : runNotice (.deliveredChanged p f) s = s := by
  have h : ∀ src, deliveredToCheck p f src s = s := by
    intro src
    unfold deliveredToCheck
    rw [hn src]
  show deliveredToCheck p f .opportunistic (deliveredToCheck p f .slot s) = s
  rw [h, h]

/-- What the end of a delivery SET has done before the Delivery Unit looks again. -/
def deliveryNotices (p : Pos) (f : Code) (v : Nat) : List Notice :=
  .deliveredChanged p f :: (if v ≠ 0 then [.setAccepted p f] else [])

theorem acts_delivered (hn : s.notices = []) (hc : ∀ src, nodeCheck s p src = none)
    (hd : v ≠ 0 → ¬ (kindOf f = .lamp ∧ (entryOf s p f).result = .deferred)) : Acts 2 (deliveryNotices p f v) s s := by
  refine Acts.cons (k := 1) (l := 1) (Acts.silent hn (deliveredChanged_nothing hc) hn) ?_
  by_cases hv : v ≠ 0
  · rw [if_pos hv]
    exact Acts.silent hn (if_neg fun h => hd hv ⟨h.1, h.2.1⟩) hn
  · rw [if_neg hv]
    exact (Acts.nil s).mono (by decide)

/-- R142, R144: the check of a DEFERRED lamp that a delivery starts. -/
def lampAsked (p : Pos) (f : Code) (b : BlockNo) (r : FnRecord) (s : State) : State :=
  setNodeCheck p .opportunistic (some
    { code := f, row := some (r.point, r.nominal, r.loadKind), nextReading := some (s.now + ms 50)
      expiry := s.now + ms s.settings.window, tolerance := s.settings.tolerance, threshold := s.settings.threshold })
    (reference b s)

theorem acts_deliveredDeferred {b : BlockNo} {e : DirEntry} {r : FnRecord} (hn : s.notices = [])
    (hc : ∀ src, nodeCheck s p src = none) (hv : v ≠ 0) (hk : kindOf f = .lamp) (hres : (entryOf s p f).result = .deferred)
    (hdel : (entryOf s p f).delivered = some v) (hb : s.Bound p f b e r) (hnode : r.feed = .node) (hpk : r.pointKind = .lamp) :
    Acts 4 (deliveryNotices p f v) s (lampAsked p f b r s) := by
  have hopp : (s.check.oppChecks.get p).isNone = true := by
    rw [show s.check.oppChecks.get p = none from hc .opportunistic]; rfl
  let c : NodeLampCheck :=
    { code := f, expiry := s.now + ms s.settings.window, tolerance := s.settings.tolerance, threshold := s.settings.threshold }
  let y : State := setNodeCheck p .opportunistic (some c) s
  have hasked : runNotice (.setAccepted p f) s = emitAll [.nodeLampLookup p .opportunistic] y :=
    (if_pos ⟨hk, hres, hb.service⟩).trans (if_pos hopp)
  have hfound : runNotice (.nodeLampLookup p .opportunistic) y = lampAsked p f b r s := by
    refine (nodeLampLookup_found (s := y) (p := p) (src := .opportunistic) (c := c) (x := r) (b := b) (e := e)
      ((nodeCheck_setNodeCheck _ _ _ _ _).trans (if_pos rfl)) rfl (hb.congr rfl rfl)
      hnode hpk).trans ?_
    have hlit : (entryOf y p c.code).delivered.getD 0 ≠ 0 := by
      rw [show entryOf y p c.code = entryOf s p f from rfl, hdel]
      exact hv
    rw [if_pos hlit]
    exact setNodeCheck_setNodeCheck p .opportunistic _ _ (reference b s)
  refine Acts.cons (k := 1) (l := 3) (Acts.silent hn (deliveredChanged_nothing hc) hn) ?_
  rw [if_pos hv]
  exact (Acts.run (k := 1) (x := .setAccepted p f) hn hasked hn (Acts.silent hn hfound hn)).mono (by decide)

end Sys2Proof.Machine
end

section
/-!
What each end of a delivery SET and of a stop SET hands on, and the obligation on them (R98, R100, R111, R142, R144).
-/
namespace Sys2Proof.Machine

variable {s t u x y z : State} {p : Pos} {f : Code} {q : Request} {rest : List Request} {v : Nat}

/-- A SET in flight to p. -/
structure Offer.Sets (o : Offer) (p : Pos) (point : Nat) : Prop where
  pos : o.pos = linePos p
  op : o.op = .set
  addr : o.addr = some point

theorem Offer.Sets.addresses {o : Offer} {point : Nat} (h : o.Sets p point) : o.Addresses p :=
  ⟨by rw [h.op]; decide, by rw [h.op]; decide, h.pos⟩

theorem delivery_ends {o : Offer} {point interval : Nat} {k : AccessKind} (hx : x.Ending) (hg : o.Sets p point)
    (hw : o.why = .delivery p f v k interval) (how : x.delivery.pendingOverride ≠ none → x.Owing q rest) :
    (∀ data, takeLineEnd o .ready data x = emitAll (deliveryNotices p f v ++ holdNotices p)
        (overrideTold q rest p f v .ok (modEntry p f (deliveredEntry x.now f v interval) x)))
      ∧ takeLineEnd o .notReady none x = emitAll (holdNotices p) (overrideTold q rest p f v .notReady
        (modEntry p f (fun e => { e with unavailable := true, retryAt := some (x.now + ms 1000) }) x))
      ∧ takeLineEnd o .notHeard none x = emitAll (holdNotices p)
        (overrideTold q rest p f v .notFitted (x.unfitted p f (some k) point))
      ∧ takeLineEnd o .unheard none x = emitAll (holdNotices p) x := by
  have htake : ∀ out data, takeLineEnd o out data x = deliveryEnd p f v k interval point out x := by
    intro out data
    unfold takeLineEnd
    rw [hw, hg.addr]
    rfl
  obtain ⟨hman, hport, -, -⟩ := unfitted_keeps (p := p) (f := f) (some k) point x
  have hover : (x.unfitted p f (some k) point).delivery.pendingOverride = x.delivery.pendingOverride := by
    unfold State.unfitted
    split <;> rfl
  refine ⟨fun data => (htake _ _).trans ?_, (htake _ _).trans ?_, (htake _ _).trans ?_, (htake _ _).trans rfl⟩
  · have hbytes := replyOverride_told (p := p) (f := f) (v := v) (y := modEntry p f (deliveredEntry x.now f v interval) x) how rfl rfl
      rfl .ok
    unfold deliveryEnd
    dsimp only
    rw [delivery_taken hx.offers, hbytes, emitAll_emitAll]
    rfl
  · exact congrArg (emitAll (holdNotices p)) (replyOverride_told
      (y := modEntry p f (fun e => { e with unavailable := true, retryAt := some (x.now + ms 1000) }) x) how rfl rfl rfl .notReady)
  · refine congrArg (emitAll (holdNotices p)) ?_
    rw [pointUnknown_noOffers hx.offers]
    exact replyOverride_told how (congrArg Management.requests hman) (congrArg Port.queue hport) hover .notFitted

/-- R111: the stop of f is owed no longer. -/
def stopDropped (p : Pos) (f : Code) (s : State) : State := { s with delivery := { s.delivery with
  owed := s.delivery.owed.upd p fun os => os.filter fun x => decide (x.code ≠ f) } }

/-- R111: the entry of an accepted stop. -/
def stoppedEntry (x : StatusEntry) : StatusEntry :=
  let y := { x with delivered := some 0, unavailable := false, retryAt := none }
  if x.watchDeadline ≠ none then { y with watchDeadline := none, nextRead := none } else y

/-- R111: a stop is taken. -/
def stopTaken (p : Pos) (f : Code) (s : State) : State := modEntry p f stoppedEntry
  { stopDropped p f s with delivery := { (stopDropped p f s).delivery with lastStopped := s.delivery.lastStopped.put p f } }

/-- R111: the stop of f is held. -/
def stopLater (p : Pos) (f : Code) (s : State) : State := { s with delivery := { s.delivery with
  owed := s.delivery.owed.upd p fun os => os.map fun x => if x.code = f then { x with notBefore := some (s.now + ms 100) } else x } }

theorem dropOwed_eq (p : Pos) (f : Code) (s : State) : dropOwed p f s = stopDropped p f s := by
  unfold dropOwed modOwed stopDropped modDelivery
  simp only [decide_not]

theorem stop_taken (ho : s.line.offers = []) :
    modDelivery (fun d => { d with lastStopped := d.lastStopped.put p f })
      (endWatch p f (modEntry p f (fun e => { e with unavailable := false, retryAt := none, delivered := some 0 })
        (dropOwed p f s))) = stopTaken p f s := by
  have hend : endWatch p f (modEntry p f (fun e => { e with unavailable := false, retryAt := none, delivered := some 0 })
      (stopDropped p f s)) = modEntry p f stoppedEntry (stopDropped p f s) := by
    rw [endWatch_noOffers (s := modEntry p f _ (stopDropped p f s)) ho, entryOf_modEntry_same]
    by_cases hw : (entryOf (stopDropped p f s) p f).watchDeadline ≠ none
    · rw [if_pos hw, modEntry_modEntry]
      refine modEntry_congr ?_
      unfold stoppedEntry
      rw [if_pos hw]
    · rw [if_neg hw]
      refine modEntry_congr ?_
      unfold stoppedEntry
      rw [if_neg hw]
  rw [dropOwed_eq, hend]
  rfl

theorem stop_ends {o : Offer} {point : Nat} (hx : x.Ending) (hg : o.Sets p point)
    (hw : o.why = .stop p f) (how : x.delivery.pendingOverride ≠ none → x.Owing q rest) :
    (∀ data, takeLineEnd o .ready data x = emitAll (holdNotices p) (overrideTold q rest p f 0 .ok (stopTaken p f x)))
      ∧ takeLineEnd o .notReady none x = emitAll (holdNotices p) (overrideTold q rest p f 0 .notReady (stopLater p f x))
      ∧ takeLineEnd o .notHeard none x = emitAll (holdNotices p)
        (overrideTold q rest p f 0 .notFitted ((stopDropped p f x).unfitted p f (some .tss) point)) := by
  have htake : ∀ out data, takeLineEnd o out data x = stopEnd p f point out x := by
    intro out data
    unfold takeLineEnd
    rw [hw, hg.addr]
    rfl
  obtain ⟨hman, hport, -, -⟩ := unfitted_keeps (p := p) (f := f) (some .tss) point (stopDropped p f x)
  have hover : ((stopDropped p f x).unfitted p f (some .tss) point).delivery.pendingOverride = x.delivery.pendingOverride := by
    unfold State.unfitted
    split <;> rfl
  refine ⟨fun data => (htake _ _).trans ?_, (htake _ _).trans ?_, (htake _ _).trans ?_⟩
  · refine congrArg (emitAll (holdNotices p)) ?_
    rw [stop_taken hx.offers]
    exact replyOverride_told (y := stopTaken p f x) how rfl rfl rfl .ok
  · exact congrArg (emitAll (holdNotices p)) (replyOverride_told (y := stopLater p f x) how rfl rfl rfl .notReady)
  · refine congrArg (emitAll (holdNotices p)) ?_
    rw [dropOwed_eq, pointUnknown_noOffers (s := stopDropped p f x) hx.offers]
    exact replyOverride_told how (congrArg Management.requests hman) (congrArg Port.queue hport) hover .notFitted

/-- R96, R97: an end after which the one delivery due is offered and granted. -/
theorem end_delivers {o : Offer} {out : LineOutcome} {data : Option Word} {w : Nat} {b : BlockNo} {e : DirEntry} {r : FnRecord}
    (hx : x.notices = []) (h : takeLineEnd o out data x = emitAll (holdNotices p) y) (hy : y.Ending)
    (hd : y.Deliverable p f w b e r)
    (hrest : ((noteOffered p (secondClass f w) f (reference b y)).granted (setOffer p f w (deliveryKind y p f) r)).AtRest p) :
    endSettled o out data x =
      (noteOffered p (secondClass f w) f (reference b y)).granted (setOffer p f w (deliveryKind y p f) r) := by
  have hoffers : delivering p f w b r y = setOffers (fun _ => [setOffer p f w (deliveryKind y p f) r])
      (noteOffered p (secondClass f w) f (reference b y)) := by
    unfold delivering setOffers
    rw [show (noteOffered p (secondClass f w) f (reference b y)).line.offers = [] from hy.offers]
    rfl
  have hlook := acts_holdNotices_due hy.notices hd
  rw [hoffers] at hlook
  have hserve : inService ((noteOffered p (secondClass f w) f (reference b y)).granted (setOffer p f w (deliveryKind y p f) r)) p
      = true := hd.bound.service
  refine settle_grantsTold (k := 4) (l := 1) hx (Acts.run (x := .lineEnd o out data) hx h hy.notices hlook) hy.notices hy.offers
    (notePhase_quiet (fun _ h => Purpose.noConfusion h) (fun _ h => Purpose.noConfusion h) (fun _ _ h => Purpose.noConfusion h) _)
    ?_ (by decide) (by decide)
  show Acts 1 (if (if secondClass f w then (1 : ArbClass) else 0) = 0 then [.scan p false]
    else if (if secondClass f w then (1 : ArbClass) else 0) = 1 then [.scan p true] else []) _ _
  have hn : ((noteOffered p (secondClass f w) f (reference b y)).granted (setOffer p f w (deliveryKind y p f) r)).notices = [] :=
    hy.notices
  generalize (noteOffered p (secondClass f w) f (reference b y)).granted (setOffer p f w (deliveryKind y p f) r) = g at *
  cases secondClass f w
  · exact acts_scan hn hserve hrest.toSetsAtRest
  · exact acts_scan hn hserve hrest.toSetsAtRest

end Sys2Proof.Machine
end

section
/-!
The obligation on the ends of SETs (R98, R100, R111, R142, R144, R155, R159).
-/
namespace Sys2Proof.Machine

variable {s t u x y z : State} {p : Pos} {f : Code} {q : Request} {rest : List Request} {v : Nat}

theorem unfitted_inService (k : Option AccessKind) (point : Nat) (s : State) (p' : Pos) :
    inService (s.unfitted p f k point) p' = inService s p' := by
  unfold inService
  rw [stateOf_unfitted]

theorem told_inService (r : ResultCode) (s : State) (p' : Pos) :
    inService (overrideTold q rest p f v r s) p' = inService s p' := (overrideTold_states r s p').2.1

theorem told_entry (r : ResultCode) (s : State) (p' : Pos) (g : Code) :
    entryOf (overrideTold q rest p f v r s) p' g = entryOf s p' g := (overrideTold_states r s p').2.2.1 g

theorem told_nodeCheck (r : ResultCode) (s : State) (p' : Pos) (src : CheckSource) :
    nodeCheck (overrideTold q rest p f v r s) p' src = nodeCheck s p' src := (overrideTold_states r s p').2.2.2 src

theorem told_bound {p' : Pos} {g : Code} {b : BlockNo} {e : DirEntry} {c : FnRecord} (h : s.Bound p' g b e c) (r : ResultCode) :
    (overrideTold q rest p f v r s).Bound p' g b e c := by
  unfold overrideTold
  split
  · exact h.congr rfl rfl
  · exact h

theorem nodeCheck_at (n : Nat) (s : State) (q' : Pos) (src : CheckSource) :
    nodeCheck (setUnheard p n s.over) q' src = nodeCheck s q' src := by cases src <;> rfl

theorem lampAsked_at (n : Nat) (b : BlockNo) (r : FnRecord) (s : State) :
    lampAsked p f b r (setUnheard p n s.over) = setUnheard p n (lampAsked p f b r s).over := rfl

/-- R98: an accepted delivery whose notices leave the Delivery Unit nothing to offer. -/
theorem delivery_accepted {k : Nat} {o : Offer} {data : Option Word} (hx : x.notices = [])
    (h : takeLineEnd o .ready data x = emitAll (deliveryNotices p f v ++ holdNotices p) y) (hyn : y.notices = [])
    (hns : Acts k (deliveryNotices p f v) y z) (hz : z.Ending) (hs : inService z p = true) (hrest : z.AtRest p) (hk : k ≤ 800) :
    endSettled o .ready data x = z.free :=
  end_freesTold (k := k + 3) hx h hyn (Acts.append hns (acts_holdNotices hz.notices hs hrest)) hz.notices hz.offers (by omega)

/-- R98, R142, R144, R155: an accepted delivery SET. -/
theorem deliverySet_taken {o : Offer} {d : Time} {point interval : Nat} {k : AccessKind} (hfl : s.InFlight o d) (hg : o.Sets p point)
    (hw : o.why = .delivery p f v k interval) (hs : inService s p = true) (hc : ∀ src, nodeCheck s p src = none)
    (how : s.delivery.pendingOverride ≠ none → s.Owing q rest) (data : Option Word) :
    ((v ≠ 0 → ¬ (kindOf f = .lamp ∧ (entryOf s p f).result = .deferred)) →
        (setUnheard p 0 (overrideTold q rest p f v .ok (modEntry p f (deliveredEntry s.now f v interval) s)).over).AtRest p →
        endSettled o .ready data (setUnheard p 0 s.over) =
          setUnheard p 0 (overrideTold q rest p f v .ok (modEntry p f (deliveredEntry s.now f v interval) s)).free)
      ∧ ∀ (b : BlockNo) (e : DirEntry) (r : FnRecord), v ≠ 0 → kindOf f = .lamp → (entryOf s p f).result = .deferred →
        s.Bound p f b e r → r.feed = .node → r.pointKind = .lamp →
        (setUnheard p 0 (lampAsked p f b r (overrideTold q rest p f v .ok
            (modEntry p f (deliveredEntry s.now f v interval) s))).over).AtRest p →
        endSettled o .ready data (setUnheard p 0 s.over) = setUnheard p 0 (lampAsked p f b r (overrideTold q rest p f v .ok
          (modEntry p f (deliveredEntry s.now f v interval) s))).free := by
  have hx := hfl.ending p 0
  have how' : (setUnheard p 0 s.over).delivery.pendingOverride ≠ none → (setUnheard p 0 s.over).Owing q rest := fun h =>
    have h' := how h
    ⟨h'.requests, h'.room, h'.behind⟩
  have htake := (delivery_ends hx hg hw how').1 data
  rw [now_at, modEntry_at, overrideTold_at] at htake
  have hy : (setUnheard p 0 (overrideTold q rest p f v .ok (modEntry p f (deliveredEntry s.now f v interval) s)).over).Ending := by
    rw [← overrideTold_at, ← modEntry_at]
    exact overrideTold_ending (modEntry_ending hx _) _
  have hcy : ∀ src, nodeCheck (setUnheard p 0 (overrideTold q rest p f v .ok
      (modEntry p f (deliveredEntry s.now f v interval) s)).over) p src = none := by
    intro src
    rw [nodeCheck_at, told_nodeCheck]
    cases src
    · exact hc .slot
    · exact hc .opportunistic
  have hentry : entryOf (setUnheard p 0 (overrideTold q rest p f v .ok
      (modEntry p f (deliveredEntry s.now f v interval) s)).over) p f = deliveredEntry s.now f v interval (entryOf s p f) := by
    rw [entryOf_at, told_entry, entryOf_modEntry_same]
  have hresult : (deliveredEntry s.now f v interval (entryOf s p f)).result = (entryOf s p f).result := by
    unfold deliveredEntry
    dsimp only
    split
    · rfl
    · split <;> rfl
  have hserve : inService (setUnheard p 0 (overrideTold q rest p f v .ok
      (modEntry p f (deliveredEntry s.now f v interval) s)).over) p = true := by
    rw [inService_at, told_inService]
    exact hs
  refine ⟨fun hplain hrest => ?_, fun b e r hv hk hres hb hnode hpk hrest => ?_⟩
  · rw [← free_at]
    refine delivery_accepted hx.notices htake hy.notices (acts_delivered hy.notices hcy fun hv => ?_) hy hserve hrest (by decide)
    rw [hentry, hresult]
    exact hplain hv
  · have hdel : (deliveredEntry s.now f v interval (entryOf s p f)).delivered = some v := by
      unfold deliveredEntry
      dsimp only
      split
      · rfl
      · split <;> rfl
    have hby := told_bound (q := q) (rest := rest) (p := p) (f := f) (v := v)
      (show (modEntry p f (deliveredEntry s.now f v interval) s).Bound p f b e r from hb.congr rfl rfl) .ok
    have hasked := acts_deliveredDeferred (b := b) (e := e) (r := r) hy.notices hcy hv hk (by rw [hentry, hresult]; exact hres)
      (by rw [hentry]; exact hdel) (hby.congr rfl rfl) hnode hpk
    rw [lampAsked_at] at hasked
    rw [← free_at]
    exact delivery_accepted hx.notices htake hy.notices hasked ⟨hy.notices, hy.offers, hy.flight, hy.ended⟩ hserve hrest (by decide)

end Sys2Proof.Machine
end

section
/-!
The obligation on the ends of SETs (R98, R100, R111, R142, R144, R155, R159).
-/
namespace Sys2Proof.Machine

variable {s t u x y z : State} {p : Pos} {f : Code} {q : Request} {rest : List Request} {v : Nat}

theorem owing_at (n : Nat) (how : s.delivery.pendingOverride ≠ none → s.Owing q rest) :
    (setUnheard p n s.over).delivery.pendingOverride ≠ none → (setUnheard p n s.over).Owing q rest := fun h =>
  have h' := how h
  ⟨h'.requests, h'.room, h'.behind⟩

/-- R98, R100: a delivery SET that is not taken. -/
theorem deliverySet_fails {o : Offer} {d : Time} {point interval : Nat} {k : AccessKind} (hfl : s.InFlight o d) (hg : o.Sets p point)
    (hw : o.why = .delivery p f v k interval) (hs : inService s p = true)
    (how : s.delivery.pendingOverride ≠ none → s.Owing q rest) :
    ((setUnheard p 0 (overrideTold q rest p f v .notReady (modEntry p f
        (fun e => { e with unavailable := true, retryAt := some (s.now + ms 1000) }) s)).over).AtRest p →
      endSettled o .notReady none (setUnheard p 0 s.over) = setUnheard p 0 (overrideTold q rest p f v .notReady (modEntry p f
        (fun e => { e with unavailable := true, retryAt := some (s.now + ms 1000) }) s)).free)
      ∧ ((setUnheard p 0 (overrideTold q rest p f v .notFitted (s.unfitted p f (some k) point)).over).AtRest p →
        endSettled o .notHeard none (setUnheard p 0 s.over) =
          setUnheard p 0 (overrideTold q rest p f v .notFitted (s.unfitted p f (some k) point)).free) := by
  have hx := hfl.ending p 0
  obtain ⟨-, hno, hnone, -⟩ := delivery_ends hx hg hw (owing_at 0 how)
  refine ⟨?_, ?_⟩
  · have hend := fun hs => end_looks hx.notices hno (overrideTold_ending (modEntry_ending hx _) _) hs
    rw [now_at, modEntry_at, overrideTold_at, free_at, inService_at, told_inService] at hend
    exact hend hs
  · have hend := fun hs => end_looks hx.notices hnone (overrideTold_ending (unfitted_ending hx _ _) _) hs
    rw [unfitted_at, overrideTold_at, free_at, inService_at, told_inService, unfitted_inService] at hend
    exact hend hs

theorem stopTaken_at (n : Nat) (s : State) : stopTaken p f (setUnheard p n s.over) = setUnheard p n (stopTaken p f s).over := rfl
theorem stopLater_at (n : Nat) (s : State) : stopLater p f (setUnheard p n s.over) = setUnheard p n (stopLater p f s).over := rfl
theorem stopDropped_at (n : Nat) (s : State) : stopDropped p f (setUnheard p n s.over) = setUnheard p n (stopDropped p f s).over := rfl

theorem stopTaken_ending (h : s.Ending) : (stopTaken p f s).Ending := ⟨h.notices, h.offers, h.flight, h.ended⟩
theorem stopLater_ending (h : s.Ending) : (stopLater p f s).Ending := ⟨h.notices, h.offers, h.flight, h.ended⟩
theorem stopDropped_ending (h : s.Ending) : (stopDropped p f s).Ending := ⟨h.notices, h.offers, h.flight, h.ended⟩

/-- R100, R111: a stop SET. -/
theorem stopSet_ends {o : Offer} {d : Time} {point : Nat} (hfl : s.InFlight o d) (hg : o.Sets p point)
    (hw : o.why = .stop p f) (hs : inService s p = true) (how : s.delivery.pendingOverride ≠ none → s.Owing q rest) :
    (∀ data, (setUnheard p 0 (overrideTold q rest p f 0 .ok (stopTaken p f s)).over).AtRest p →
      endSettled o .ready data (setUnheard p 0 s.over) = setUnheard p 0 (overrideTold q rest p f 0 .ok (stopTaken p f s)).free)
      ∧ ((setUnheard p 0 (overrideTold q rest p f 0 .notReady (stopLater p f s)).over).AtRest p →
        endSettled o .notReady none (setUnheard p 0 s.over) =
          setUnheard p 0 (overrideTold q rest p f 0 .notReady (stopLater p f s)).free)
      ∧ ((setUnheard p 0 (overrideTold q rest p f 0 .notFitted ((stopDropped p f s).unfitted p f (some .tss) point)).over).AtRest p →
        endSettled o .notHeard none (setUnheard p 0 s.over) =
          setUnheard p 0 (overrideTold q rest p f 0 .notFitted ((stopDropped p f s).unfitted p f (some .tss) point)).free) := by
  have hx := hfl.ending p 0
  obtain ⟨hdata, hno, hnone⟩ := stop_ends hx hg hw (owing_at 0 how)
  refine ⟨fun w => ?_, ?_, ?_⟩
  · have hend := fun hs => end_looks hx.notices (hdata w) (overrideTold_ending (stopTaken_ending hx) _) hs
    rw [stopTaken_at, overrideTold_at, free_at, inService_at, told_inService] at hend
    exact hend hs
  · have hend := fun hs => end_looks hx.notices hno (overrideTold_ending (stopLater_ending hx) _) hs
    rw [stopLater_at, overrideTold_at, free_at, inService_at, told_inService] at hend
    exact hend hs
  · have hend := fun hs => end_looks hx.notices hnone (overrideTold_ending (unfitted_ending (stopDropped_ending hx) _ _) _) hs
    rw [stopDropped_at, unfitted_at, overrideTold_at, free_at, inService_at, told_inService, unfitted_inService] at hend
    exact hend hs

theorem deliveryKind_congr (hc : t.check = s.check) (ho : (entryOf t p f).override = (entryOf s p f).override)
    (hm : t.decoder = s.decoder) : deliveryKind t p f = deliveryKind s p f := by
  unfold deliveryKind
  rw [ho, show windowCovers t p f = windowCovers s p f by unfold windowCovers circuitRec; rw [hc],
    show isStationary t = isStationary s by unfold isStationary; rw [hm]]

theorem told_keeps (r : ResultCode) (s : State) : (overrideTold q rest p f v r s).check = s.check
    ∧ (overrideTold q rest p f v r s).decoder = s.decoder ∧ (overrideTold q rest p f v r s).policy = s.policy := by
  unfold overrideTold
  split <;> exact ⟨rfl, rfl, rfl⟩

/-- R98, R111: the delivery still due when a stop is taken. -/
theorem stopSet_again {o : Offer} {d : Time} {point w : Nat} {b : BlockNo} {e : DirEntry} {r : FnRecord} (hfl : s.InFlight o d)
    (hg : o.Sets p point) (hw : o.why = .stop p f) (how : s.delivery.pendingOverride ≠ none → s.Owing q rest) (data : Option Word)
    (hb : s.Bound p f b e r) (hr : r.point ≤ 63) (hnode : r.feed = .node)
    (hperm : permits s e.policyClass r.fnClass (deliveryKind s p f) = true)
    (hdue : (setUnheard p 0 (overrideTold q rest p f 0 .ok (stopTaken p f s)).over).OneDue p f w)
    (hrest : ((noteOffered p (secondClass f w) f (reference b (setUnheard p 0 (overrideTold q rest p f 0 .ok
      (stopTaken p f s))))).granted (setOffer p f w (deliveryKind s p f) r)).AtRest p) :
    endSettled o .ready data (setUnheard p 0 s.over) =
      (noteOffered p (secondClass f w) f (reference b (setUnheard p 0 (overrideTold q rest p f 0 .ok
        (stopTaken p f s))))).granted (setOffer p f w (deliveryKind s p f) r) := by
  have hx := hfl.ending p 0
  have htake := (stop_ends hx hg hw (owing_at 0 how)).1 data
  have hy := overrideTold_ending (q := q) (rest := rest) (p := p) (f := f) (v := 0) (stopTaken_ending (p := p) (f := f) hx) .ok
  rw [stopTaken_at, overrideTold_at] at htake hy
  have hentry : (entryOf (overrideTold q rest p f 0 .ok (stopTaken p f s)) p f).override = (entryOf s p f).override := by
    rw [told_entry]
    unfold stopTaken
    rw [entryOf_modEntry_same]
    unfold stoppedEntry
    dsimp only
    split <;> rfl
  obtain ⟨hcheck, hdec, hpol⟩ := told_keeps (q := q) (rest := rest) (p := p) (f := f) (v := 0) .ok (stopTaken p f s)
  have hkind : deliveryKind (setUnheard p 0 (overrideTold q rest p f 0 .ok (stopTaken p f s)).over) p f = deliveryKind s p f :=
    deliveryKind_congr hcheck hentry hdec
  have hbt : (stopTaken p f s).Bound p f b e r := hb.congr rfl rfl
  have hby := told_bound (q := q) (rest := rest) (p := p) (f := f) (v := 0) hbt .ok
  generalize overrideTold q rest p f 0 .ok (stopTaken p f s) = y at *
  have hpermy : permits (setUnheard p 0 y.over) e.policyClass r.fnClass (deliveryKind s p f) = true := by
    have : permits (setUnheard p 0 y.over) e.policyClass r.fnClass (deliveryKind s p f) =
        permits s e.policyClass r.fnClass (deliveryKind s p f) := by
      unfold permits
      rw [show (setUnheard p 0 y.over).policy = s.policy from hpol]
    rw [this]; exact hperm
  have hd : (setUnheard p 0 y.over).Deliverable p f w b e r :=
    ⟨Option.ne_none_iff_exists'.mp hy.flight, hby.congr rfl rfl, hnode, hr, .inr (by rw [hkind]; exact hpermy), hdue⟩
  have hend := end_delivers hx.notices htake hy hd
  rw [hkind] at hend
  exact hend hrest

/-- R24, R98: Unheard, the delivery still due is offered again. -/
theorem deliverySet_again {o : Offer} {point interval w : Nat} {k : AccessKind} {b : BlockNo} {e : DirEntry} {r : FnRecord}
    (hx : x.Ending) (hg : o.Sets p point) (hw : o.why = .delivery p f v k interval)
    (how : x.delivery.pendingOverride ≠ none → x.Owing q rest)
    (hd : x.Deliverable p f w b e r)
    (hrest : ((noteOffered p (secondClass f w) f (reference b x)).granted (setOffer p f w (deliveryKind x p f) r)).AtRest p) :
    endSettled o .unheard none x =
      (noteOffered p (secondClass f w) f (reference b x)).granted (setOffer p f w (deliveryKind x p f) r) :=
  end_delivers hx.notices (delivery_ends hx hg hw how).2.2.2 hx hd hrest

theorem lampAsked_told (b : BlockNo) (c : FnRecord) (r : ResultCode) (g : StatusEntry → StatusEntry) (s : State) :
    lampAsked p f b c (overrideTold q rest p f v r (modEntry p f g s)) = setNodeCheck p .opportunistic (some
      { code := f, row := some (c.point, c.nominal, c.loadKind), nextReading := some (s.now + ms 50)
        expiry := s.now + ms s.settings.window, tolerance := s.settings.tolerance, threshold := s.settings.threshold })
      (reference b (overrideTold q rest p f v r (modEntry p f g s))) := by
  have hkeep : (overrideTold q rest p f v r (modEntry p f g s)).now = s.now
      ∧ (overrideTold q rest p f v r (modEntry p f g s)).settings = s.settings := by
    unfold overrideTold
    split <;> exact ⟨rfl, rfl⟩
  unfold lampAsked
  rw [hkeep.1, hkeep.2]

/-- R23: a SET needs no data back. -/
theorem set_ready {o : Offer} {d : Time} {point : Nat} (hfl : s.InFlight o d) (hg : o.Sets p point) (data : Option Word) :
    exec (.transactionEnd { heard := true, ready := true, service := false, data := data }) s =
      .next (endSettled o .ready data (setUnheard p 0 s.over)) :=
  heard_ends hfl hg.addresses rfl (by unfold dataMissing; rw [hg.op]; cases data <;> rfl) rfl

/-- Settles O36: the ends of a delivery SET, then those of a stop SET. -/
theorem setsEnd : Obligations.SetsEnd := by
  unfold Obligations.SetsEnd
  intro s p f v interval point k o d q rest hfl hpos hop haddr hkind hs hc how told ends stopped
  have hg : o.Sets p point := ⟨hpos, hop, haddr⟩
  obtain ⟨-, hnot, hsilent⟩ := reply_ends hfl hg.addresses
  have hready := set_ready hfl hg
  refine ⟨fun hw => ⟨fun hplain data hrest => ?_, fun b e r hv hk hres hb hnode hpk data hrest => ?_, fun data hrest => ?_,
    fun any data hrest => ?_, ?_⟩, fun hw => ?_⟩
  · exact (hready data).trans (congrArg _ ((deliverySet_taken hfl hg hw hs hc how data).1 (fun hv h => hplain hv h.2) hrest))
  · have hsame : modEntry p f (deliveredEntry s.now f v interval) s =
        modEntry p f (fun x => { x with delivered := some v, driven := true, unavailable := false, retryAt := none }) s := by
      refine congrArg (fun g => modEntry p f g s) (funext fun x => ?_)
      unfold deliveredEntry
      rw [if_neg (fun h => by rw [hk] at h; exact absurd h.1 (by decide)),
        if_neg (fun h => by rw [hk] at h; exact absurd h.1 (by decide)), decide_eq_true hv, Bool.or_true]
    have hend := (deliverySet_taken hfl hg hw hs hc how data).2 b e r hv hk hres hb hnode hpk
    rw [hsame, lampAsked_told] at hend
    exact (hready data).trans (congrArg _ (hend hrest))
  · exact (hnot data).trans (congrArg _ ((deliverySet_fails hfl hg hw hs how).1 hrest))
  · exact (hsilent any data).trans (congrArg _ ((deliverySet_fails hfl hg hw hs how).2 hrest))
  · intro w b e r hu hb hr hnode hperm s1 again hdue hrest
    have hl := hfl.endingLater p (unheardOf s p + 1) d
    have hend := deliverySet_again hl hg hw (owing_at (s := advanceTo d s) (unheardOf s p + 1) fun h =>
      have h' := how h
      ⟨h'.requests, h'.room, h'.behind⟩) ⟨Option.ne_none_iff_exists'.mp hl.flight, (hb.advanceTo d).congr rfl rfl, hnode, hr, hperm, hdue⟩
    exact (unheard_ends hfl hg.addresses (countsSilence_inService hs) hu).trans (congrArg _ (hend hrest))
  · obtain ⟨hdata, hno, hnone⟩ := stopSet_ends hfl hg hw hs how
    exact ⟨fun data hrest => (hready data).trans (congrArg _ (hdata data hrest)),
      fun w b e r data hb hr hnode hperm hdue hrest => (hready data).trans (congrArg _
        (stopSet_again hfl hg hw how data hb hr hnode hperm hdue hrest)),
      fun data hrest => (hnot data).trans (congrArg _ (hno hrest)),
      fun any data hrest => (hsilent any data).trans (congrArg _ (hnone hrest))⟩

end Sys2Proof.Machine
end

section
/-!
The evaluation of a circuit and the outcome of a measured current (R137, R138).
-/
namespace Sys2Proof.Machine

theorem gap_eq (a b : Nat) : gap a b = max a b - min a b := by
  unfold gap
  omega

/-- R137: an outcome that is not LOW is its class alone. -/
theorem judgeCurrent_plain {es : List ((Pos × Code) × Nat)} {m tLo tHi openMin : Nat} {presence : Bool} {c : OutClass}
    (h : currentClass (es.map fun x => x.2).sum m tLo tHi openMin presence = c) (hc : c ≠ .low) :
    judgeCurrent es m tLo tHi openMin presence = { cls := c, named := none } := by
  unfold judgeCurrent
  dsimp only
  rw [h]
  cases c with
  | low => exact absurd rfl hc
  | _ => rfl

/-- R138: a LOW current is attributed where one contributor fits the shortfall. -/
theorem judgeCurrent_low {es fits : List ((Pos × Code) × Nat)} {m tLo tHi openMin : Nat} {presence : Bool}
    (h : currentClass (es.map fun x => x.2).sum m tLo tHi openMin presence = .low)
    (hf : (es.filter fun x => isCandidate ((es.map fun x => x.2).sum - m) x.2 tLo) = fits) :
    (∀ c, fits = [c] → judgeCurrent es m tLo tHi openMin presence = { cls := .outAttributed, named := some c.1 })
      ∧ (fits.length ≠ 1 → judgeCurrent es m tLo tHi openMin presence = { cls := .low, named := none }) := by
  unfold judgeCurrent
  dsimp only
  rw [h, hf]
  refine ⟨fun c hc => by rw [hc], fun hlen => ?_⟩
  match fits, hlen with
  | [], _ => rfl
  | [c], hone => exact absurd rfl hone
  | _ :: _ :: _, _ => rfl

theorem isCandidate_eq (s e tLo : Nat) : isCandidate s e tLo = decide (max s e - min s e ≤ e * tLo / 100) := by
  unfold isCandidate
  rw [gap_eq]

/-- R137: the classes of a measured current, by the open threshold and the two tolerances. -/
theorem currentClass_cases (e m tLo tHi openMin : Nat) (presence : Bool) :
    (m < openMin → currentClass e m tLo tHi openMin presence = if e = 0 then .ok else .openCircuit)
      ∧ (openMin ≤ m → e = 0 → currentClass e m tLo tHi openMin presence = if presence then .ok else .high)
      ∧ (openMin ≤ m → e ≠ 0 → e * (100 - tLo) / 100 ≤ m →
        currentClass e m tLo tHi openMin presence = if e * (100 + tHi) / 100 < m then .high else .ok)
      ∧ (openMin ≤ m → e ≠ 0 → m < e * (100 - tLo) / 100 → currentClass e m tLo tHi openMin presence = .low) := by
  unfold currentClass
  dsimp only
  refine ⟨fun h => if_pos h, fun h he => ?_, fun h he hl => ?_, fun h he hl => ?_⟩
  · rw [if_neg (Nat.not_lt.mpr h), if_pos he]
  · rw [if_neg (Nat.not_lt.mpr h), if_neg he, if_neg (Nat.not_lt.mpr hl)]
  · rw [if_neg (Nat.not_lt.mpr h), if_neg he, if_pos hl]

/-- R137, R138: the outcome of a measured current. -/
theorem judgeCurrent_cases (es : List ((Pos × Code) × Nat)) (m tLo tHi openMin : Nat) (presence : Bool) :
    let e := (es.map fun x => x.2).sum
    let o := judgeCurrent es m tLo tHi openMin presence
    let fits := es.filter fun x => decide (max (e - m) x.2 - min (e - m) x.2 ≤ x.2 * tLo / 100)
    (m < openMin → o = { cls := if e = 0 then .ok else .openCircuit, named := none })
      ∧ (openMin ≤ m → e = 0 → o = { cls := if presence then .ok else .high, named := none })
      ∧ (openMin ≤ m → e ≠ 0 → e * (100 - tLo) / 100 ≤ m →
          o = { cls := if e * (100 + tHi) / 100 < m then .high else .ok, named := none })
      ∧ (openMin ≤ m → e ≠ 0 → m < e * (100 - tLo) / 100 →
          (∀ c, fits = [c] → o = { cls := .outAttributed, named := some c.1 })
            ∧ (fits.length ≠ 1 → o = { cls := .low, named := none })) := by
  intro e o fits
  obtain ⟨hopen, hnone, hwithin, hlow⟩ := currentClass_cases e m tLo tHi openMin presence
  refine ⟨fun h => judgeCurrent_plain (hopen h) (by split <;> decide), fun h he => judgeCurrent_plain (hnone h he) (by split <;> decide),
    fun h he hl => judgeCurrent_plain (hwithin h he hl) (by split <;> decide), fun h he hl => ?_⟩
  have hfits : (es.filter fun x => isCandidate (e - m) x.2 tLo) = fits :=
    congrArg (fun g => es.filter g) (funext fun x => isCandidate_eq (e - m) x.2 tLo)
  exact judgeCurrent_low (hlow h he hl) hfits

/-- R137: the evaluation of a circuit. -/
theorem evaluate_judged (s : State) (k : LineNo) (codes : List Nat) :
    let cs := (circuitRec s k).contributors
    let vref := s.settings.vref
    let vc := (s.direct.supply.map fun v => max (vref / 2) (min v (vref * 3 / 2))).getD vref
    let expected := fun (c : Contributor) => match c.loadKind with
      | .resistive => c.nominal * vc / vref
      | .constPower => c.nominal * vref / vc
      | .constCurrent => c.nominal
    evaluate s k codes = judgeCurrent (cs.map fun c => ((c.pos, c.code), expected c)) (5 * codes.sum / 4) (wiredOf s k).tLo
      (wiredOf s k).tHi (wiredOf s k).openMin (decide (stateOf s 0 = .wired) && cs.isEmpty) := by
  intro cs vref vc expected
  have hlist : expectedList s k = cs.map fun c => ((c.pos, c.code), expected c) := by
    unfold expectedList
    refine List.map_congr_left fun c _ => ?_
    rw [clampedSupply_eq]
    show ((c.pos, c.code), expectedCurrent c.nominal c.loadKind vc vref) = ((c.pos, c.code), expected c)
    unfold expectedCurrent
    cases h : c.loadKind <;> simp only [expected, h]
  show judgeCurrent (expectedList s k) _ _ _ _ _ = _
  rw [hlist]
  rfl

end Sys2Proof.Machine
end

section
/-!
The GETs of a node-lamp check, by the block that offers them, and the end of the check (R142, R143, R147).
-/
namespace Sys2Proof.Machine

variable {s t u x y z : State} {p : Pos} {f : Code} {src : CheckSource} {c : NodeLampCheck}

/-- The position reads its lamps: it is RUNNING, or EXERCISING with no first read to offer and a group to look up. -/
def State.LampPlace (s : State) (p : Pos) : Prop :=
  stateOf s p = .running ∨ (stateOf s p = .exercising ∧ (posRec s p).firstReads = [] ∧ (posRec s p).groupItems ≠ []
    ∧ releaseOffered s p = false)

theorem State.LampPlace.congr (h : s.LampPlace p) (ht : t.consist = s.consist) : t.LampPlace p := by
  unfold State.LampPlace stateOf posRec releaseOffered at h ⊢
  rw [ht]
  exact h

theorem State.LampPlace.serves (h : s.LampPlace p) : inService s p = true := by
  unfold inService
  rcases h with h | ⟨h, -⟩ <;> rw [h]

theorem State.LampPlace.occupied (h : s.LampPlace p) : stateOf s p ≠ .vacant := by
  rcases h with h | ⟨h, -⟩ <;> rw [h] <;> decide

/-- R143: the block that offers the readings of p. -/
def lampRequester (s : State) (p : Pos) : Requester := if stateOf s p = .exercising then .consistController else .loadCheckUnit

theorem consistOffer_eq (h : s.Ending) (he : stateOf s p = .exercising) (hr : (posRec s p).firstReads = [])
    (hoff : releaseOffered s p = false) :
    (wantedReading s p = none → consistOffer p s = s)
      ∧ ∀ x, wantedReading s p = some x → consistOffer p s = makeOffer (readingOffer .consistController p x) s := by
  have hst : (standing s .consistController 4 (linePos p)).isSome = false := by
    unfold standing
    rw [h.offers]; rfl
  have hfl : ccInFlight s p = false := by
    unfold ccInFlight flightIs
    rw [h.ended]
  have hex : exercising s p = true := decide_eq_true he
  have hcond : (!exercising s p || (standing s .consistController 4 (linePos p)).isSome || ccInFlight s p) = false := by
    rw [hst, hfl, hex]; rfl
  unfold consistOffer
  rw [hcond, if_neg Bool.false_ne_true]
  refine ⟨fun hw => ?_, fun x hw => ?_⟩
  · rw [hw, hr]; rfl
  · rw [hw]
    exact if_neg (by rw [hoff]; decide)

/-- R143: the reading that is wanted is offered while the transaction before it ends; with none wanted nothing is. -/
theorem acts_nodeLampOffer (h : s.Ending) (hp : s.LampPlace p) :
    (wantedReading s p = none → Acts 2 [.nodeLampOffer p] s s)
      ∧ ∀ x, wantedReading s p = some x → x.2.2.2 ≤ 63 →
        Acts 2 [.nodeLampOffer p] s (setOffers (fun _ => [readingOffer (lampRequester s p) p x]) s) := by
  rcases hp with hrun | ⟨he, hr, -, hoff⟩
  · have hst : standing s .loadCheckUnit 4 (linePos p) = none := by
      unfold standing
      rw [h.offers]; rfl
    have hfl : readingInFlight s p = false := by
      unfold readingInFlight flightIs
      rw [h.ended]
    have hreq : lampRequester s p = .loadCheckUnit := if_neg (by rw [hrun]; decide)
    obtain ⟨hnone, hsome⟩ := nodeLampOffer_running hrun
    refine ⟨fun hw => (Acts.silent (x := .nodeLampOffer p) h.notices (hnone hw) h.notices).mono (by decide), fun x hw hx => ?_⟩
    rw [hreq]
    exact (Acts.silent (x := .nodeLampOffer p) h.notices ((hsome x hw hfl hst).trans (h.only (readingOffer_valid _ _ x.1 x.2.1 x.2.2.1 hx)))
      h.notices).mono (by decide)
  · have hreq : lampRequester s p = .consistController := if_pos he
    have hemit : runNotice (.nodeLampOffer p) s = emitAll [.consistOffer p] s := by
      show nodeLampOffer p s = _
      unfold nodeLampOffer
      rw [he]
      rfl
    obtain ⟨hnone, hsome⟩ := consistOffer_eq h he hr hoff
    refine ⟨fun hw => Acts.run h.notices hemit h.notices (Acts.silent (x := .consistOffer p) h.notices (hnone hw) h.notices), fun x hw hx => ?_⟩
    rw [hreq]
    exact Acts.run h.notices hemit h.notices (Acts.silent (x := .consistOffer p) h.notices
      ((hsome x hw).trans (h.only (readingOffer_valid _ _ x.1 x.2.1 x.2.2.1 hx))) h.notices)

/-- R92: a result written where it takes no position to RUNNING. -/
theorem acts_writeResult_place (r : CheckResult) (hn : s.notices = []) (hp : s.LampPlace p) :
    Acts 3 [.writeResult p f r] s (State.resulting p f r s) := by
  rcases hp with hrun | ⟨he, -, hg, -⟩
  · exact acts_writeResult f r hn (by rw [hrun]; decide) (by rw [hrun]; decide)
  · have hv : stateOf s p ≠ .vacant := by rw [he]; decide
    by_cases h : (entryOf s p f).result = r
    · have hsame : State.resulting p f r s = s := if_pos h
      rw [hsame]
      exact (Acts.silent (x := .writeResult p f r) hn ((writeResult_eq p f r hv).trans (if_pos h)) hn).mono (by decide)
    · let y : State := modEntry p f (fun x => { x with result := r }) s
      have hunmet : exitTest p y = y := by
        have hempty : (posRec y p).groupItems.isEmpty = false := by
          cases hgi : (posRec s p).groupItems with
          | nil => exact absurd hgi hg
          | cons a as => show (posRec s p).groupItems.isEmpty = false; rw [hgi]; rfl
        unfold exitTest exitMet
        rw [hempty, Bool.and_false, Bool.false_and, Bool.and_false]
        rfl
      have hres : State.resulting p f r s = placeResultFrame p (groupOf f) (halfOf f) y := if_neg h
      exact Acts.run (ns := [.exitTest p, .placeResult p f]) (t := y) hn ((writeResult_eq p f r hv).trans (if_neg h)) hn
        (Acts.cons (k := 1) (l := 1) (Acts.silent hn hunmet hn)
          (Acts.silent hn hres.symm ((resulting_marked p f r s).notices.trans hn)))

theorem resulting_check (r : CheckResult) (ck : LoadCheck) (s : State) :
    State.resulting p f r { s with check := ck } = { State.resulting p f r s with check := ck } := by
  have hplace : ∀ y : State, placeResultFrame p (groupOf f) (halfOf f) { y with check := ck } =
      { placeResultFrame p (groupOf f) (halfOf f) y with check := ck } := by
    intro y
    have hstatus : ∀ k id data, ∀ z : State, placeStatus k id data { z with check := ck } =
        { placeStatus k id data z with check := ck } := by
      intro k id data z
      unfold placeStatus
      rw [show txQueue { z with check := ck } = txQueue z from rfl]
      split
      · rfl
      · split <;> rfl
    unfold placeResultFrame
    rw [show wouldPlace (.result p (groupOf f) (halfOf f)) { y with check := ck } = wouldPlace (.result p (groupOf f) (halfOf f)) y
      from rfl]
    split
    · have hdata : resultData { y with check := ck } p (groupOf f) (halfOf f) = resultData y p (groupOf f) (halfOf f) := rfl
      have hid : statusFrameId { y with check := ck } 1 = statusFrameId y 1 := rfl
      rw [hdata, hid, hstatus]
      unfold noteRefresh
      generalize placeStatus (.result p (groupOf f) (halfOf f)) (statusFrameId y 1) (resultData y p (groupOf f) (halfOf f)) y = z
      rw [show qualifies { z with check := ck } p (groupOf f) (halfOf f) = qualifies z p (groupOf f) (halfOf f) from rfl]
      split <;> rfl
    · rfl
  unfold State.resulting
  rw [show entryOf { s with check := ck } p f = entryOf s p f from rfl]
  split
  · rfl
  · exact hplace (modEntry p f (fun x => { x with result := r }) s)

end Sys2Proof.Machine
end

section
/-!
The ends of a node-lamp reading (R142, R143, R147).
-/
namespace Sys2Proof.Machine

variable {s t u x y z : State} {p : Pos} {f : Code} {src : CheckSource} {c : NodeLampCheck}

theorem readingOffer_plain (q : Requester) (p : Pos) (x : CheckSource × Code × ReadingStep × Nat) : (readingOffer q p x).Plain :=
  ⟨rfl, fun s => notePhase_quiet (fun _ h => Purpose.noConfusion h) (fun _ h => Purpose.noConfusion h)
    (fun _ _ h => Purpose.noConfusion h) s⟩

theorem readingOffer_addresses (q : Requester) (p : Pos) (x : CheckSource × Code × ReadingStep × Nat) :
    (readingOffer q p x).Addresses p := ⟨nofun, nofun, rfl⟩

theorem setNodeCheck_ending (h : s.Ending) (c : Option NodeLampCheck) : (setNodeCheck p src c s).Ending := by
  cases src <;> exact ⟨h.notices, h.offers, h.flight, h.ended⟩

theorem setNodeCheck_place (h : s.LampPlace p) (c : Option NodeLampCheck) : (setNodeCheck p src c s).LampPlace p :=
  h.congr (by cases src <;> rfl)

theorem lampRequester_setNodeCheck (c : Option NodeLampCheck) (s : State) :
    lampRequester (setNodeCheck p src c s) p = lampRequester s p := by
  unfold lampRequester stateOf posRec
  rw [show (setNodeCheck p src c s).consist = s.consist by cases src <;> rfl]

theorem wantedReading_lamp {n : Nat} {kind : LoadKind} {point : Nat} (hc : nodeCheck s p src = some c) (hstep : c.step = some .lamp)
    (hrow : c.row = some (point, n, kind)) (hother : ∀ x, x ≠ src → nodeCheck s p x = none) :
    wantedReading s p = some (src, c.code, .lamp, point) := by
  unfold wantedReading
  cases src with
  | slot => dsimp only; rw [hc]; dsimp only; rw [hstep, hrow]; rfl
  | opportunistic =>
    dsimp only
    rw [hother .slot (by decide), hc]
    dsimp only
    rw [hstep, hrow]
    rfl

theorem wantedReading_idle (hc : nodeCheck s p src = some c) (hstep : c.step = none)
    (hother : ∀ x, x ≠ src → nodeCheck s p x = none) : wantedReading s p = none := by
  unfold wantedReading
  cases src with
  | slot =>
    dsimp only
    rw [hc, hother .opportunistic (by decide)]
    dsimp only
    rw [hstep]
    rfl
  | opportunistic =>
    dsimp only
    rw [hc, hother .slot (by decide)]
    dsimp only
    rw [hstep]
    rfl

theorem nodeCheck_others {d : Option NodeLampCheck} (hother : ∀ x, x ≠ src → nodeCheck s p x = none) :
    ∀ x, x ≠ src → nodeCheck (setNodeCheck p src d s) p x = none := fun x hx => by
  rw [nodeCheck_setNodeCheck, if_neg hx]
  exact hother x hx

theorem nodeCheck_over (hother : ∀ x, x ≠ src → nodeCheck s p x = none) : ∀ x, nodeCheck (setNodeCheck p src none s) p x = none :=
  fun x => by
    by_cases hx : x = src
    · rw [nodeCheck_setNodeCheck, if_pos hx]
    · exact nodeCheck_others hother x hx

/-! ## The check over -/

/-- R147: the slot as the end of the check leaves it. -/
def checkSlot (src : CheckSource) (s : State) : State := if src = .slot then { s with check := { s.check with slot := none } } else s

/-- What the end of a check of p finds of the slot: the check's own entry, DRIVEN, with none waiting. -/
def State.LastCheck (s : State) (p : Pos) (src : CheckSource) (f : Code) : Prop :=
  s.check.oppPending.get p = [] ∧ (src = .slot → s.check.queue = []
    ∧ ∃ sl, s.check.slot = some sl ∧ sl.entry.target = .lamp p f ∧ sl.window = false)

theorem setPending_none (h : s.check.oppPending.get p = []) : setPending p [] s = s := by
  unfold setPending
  rw [← h, Tab.put_get_self]

/-- R144, R147: a check that is over frees the slot where it held it, and nothing waits behind it. -/
theorem acts_nodeLampEnded (h : s.Ending) (hp : s.LampPlace p) (hnone : ∀ x, nodeCheck s p x = none)
    (hl : s.LastCheck p src f) : Acts 5 [.nodeLampEnded p src] s (checkSlot src s) := by
  have hserve := hp.serves
  have hopp : s.check.oppChecks.get p = none := hnone .opportunistic
  obtain ⟨hpend, hslot⟩ := hl
  cases src with
  | opportunistic =>
    have hrest : nodeLampEnded p .opportunistic s = s := by
      unfold nodeLampEnded
      dsimp only
      rw [hopp, hserve, hpend]
      exact setPending_none hpend
    exact (Acts.silent (x := .nodeLampEnded p .opportunistic) h.notices hrest h.notices).mono (by decide)
  | slot =>
    obtain ⟨hq, ⟨⟨target, who⟩, expiry, window⟩, hsl, htarget, hwindow⟩ := hslot rfl
    dsimp only at htarget hwindow
    subst htarget hwindow
    have hended : nodeLampEnded p .slot s = emitAll [.slotEnded (.lamp p f)] s := by
      unfold nodeLampEnded
      dsimp only
      rw [hsl]
      dsimp only
      simp only [if_true]
      have hidle : ¬ (((emit (.slotEnded (.lamp p f)) s).check.oppChecks.get p).isSome
          || !inService (emit (.slotEnded (.lamp p f)) s) p) = true := by
        rw [show (emit (.slotEnded (.lamp p f)) s).check.oppChecks.get p = none from hopp,
          show inService (emit (.slotEnded (.lamp p f)) s) p = true from hserve]
        decide
      refine (if_neg hidle).trans ?_
      rw [show (emit (.slotEnded (.lamp p f)) s).check.oppPending.get p = [] from hpend]
      exact setPending_none (s := emit (.slotEnded (.lamp p f)) s) hpend
    let y : State := setSlot none s
    have hwithdraw : withdrawReading p .slot y = y := withdrawWhere_none fun o ho => by
      rw [show y.line.offers = [] from h.offers] at ho
      cases ho
    have hcheck : setNodeCheck p .slot none y = y := by
      have hnil : s.check.slotChecks.get p = none := hnone .slot
      show ({ y with check := { y.check with slotChecks := s.check.slotChecks.put p none } } : State) = y
      rw [← hnil, Tab.put_get_self]
      rfl
    have hend : runNotice (.slotEnded (.lamp p f)) s = emitAll [.nodeLampOffer p, .slotTest] y := by
      show slotEnded (.lamp p f) s = _
      unfold slotEnded
      rw [hsl]
      dsimp only
      rw [if_pos rfl]
      unfold endSlot
      rw [hsl]
      dsimp only
      rw [hwithdraw, hcheck, if_neg (by decide), emit_eq, emit_eq, emitAll_emitAll]
      rfl
    have hy : y.Ending := ⟨h.notices, h.offers, h.flight, h.ended⟩
    have hpy : y.LampPlace p := hp.congr rfl
    have hoffer := (acts_nodeLampOffer hy hpy).1 (wantedReading_none fun x => by
      rw [show nodeCheck y p x = nodeCheck s p x by cases x <;> rfl]
      exact hnone x)
    have htest : Acts 1 [.slotTest] y y := Acts.silent h.notices (slotTest_noQueue (s := y) hq) h.notices
    exact Acts.run (k := 4) h.notices hended h.notices (Acts.run (k := 3) h.notices hend h.notices (Acts.cons hoffer htest))

end Sys2Proof.Machine
end

section
/-!
The obligation on the judging of currents (R137, R138, R142, R143, R147).
-/
namespace Sys2Proof.Machine

variable {s t u x y z : State} {p : Pos} {f : Code} {src : CheckSource} {c : NodeLampCheck}

/-- R142, R143: what the ends of the two GETs of a reading hand on. -/
theorem readingEnd_cases (hc : nodeCheck s p src = some c) :
    (c.step = some .supply →
        (∀ w : Word, readingEnd p src c.code .supply .ready (some w) s =
          emit (.nodeLampOffer p) (setNodeCheck p src (some { c with step := some .lamp, supply := some w.toNat }) s))
        ∧ (∀ out, out = .notReady ∨ out = .notHeard → readingEnd p src c.code .supply out none s =
          emit (.nodeLampOffer p) (setNodeCheck p src (some { c with step := some .lamp, supply := none }) s))
        ∧ readingEnd p src c.code .supply .unheard none s = emit (.nodeLampOffer p) s)
      ∧ (c.step = some .lamp →
        (∀ w : Word, readingEnd p src c.code .lamp .ready (some w) s = emit (.nodeLampOffer p) (countReading p src c w.toNat s))
        ∧ readingEnd p src c.code .lamp .notReady none s = emit (.nodeLampOffer p)
          (setNodeCheck p src (some { c with step := none, supply := none, nextReading := some (s.now + ms 50) }) s)
        ∧ readingEnd p src c.code .lamp .notHeard none s = emit (.nodeLampOffer p) (finishCheck p src
          (recordFault .pointUnknown (some p) (some c.code) none ((c.row.map fun r => r.1).getD 0)
            (emit (.writeResult p c.code .noReply) s)))
        ∧ readingEnd p src c.code .lamp .unheard none s = emit (.nodeLampOffer p) s) := by
  unfold readingEnd
  rw [hc]
  dsimp only
  refine ⟨fun hstep => ?_, fun hstep => ?_⟩
  · have hown : ¬ (c.code ≠ c.code ∨ c.step ≠ some .supply) := by simp [hstep]
    refine ⟨fun w => if_neg hown, fun out hout => ?_, if_neg hown⟩
    rcases hout with rfl | rfl <;> exact if_neg hown
  · have hown : ¬ (c.code ≠ c.code ∨ c.step ≠ some .lamp) := by simp [hstep]
    exact ⟨fun w => if_neg hown, if_neg hown, if_neg hown, if_neg hown⟩

theorem readingEnd_gone (hc : nodeCheck s p src = none) (step : ReadingStep) (out : LineOutcome) (data : Option Word) :
    readingEnd p src f step out data s = emit (.nodeLampOffer p) s := by
  unfold readingEnd
  rw [hc]

/-- R143: an end after which the next GET of the reading is offered. -/
theorem readingEnd_goesOn {o : Offer} {out : LineOutcome} {data : Option Word} {g : CheckSource × Code × ReadingStep × Nat}
    (hx : x.notices = []) (hend : takeLineEnd o out data x = emit (.nodeLampOffer p) y) (hy : y.Ending) (hp : y.LampPlace p)
    (hw : wantedReading y p = some g) (hg : g.2.2.2 ≤ 63) :
    endSettled o out data x = y.granted (readingOffer (lampRequester y p) p g) :=
  have hplain := readingOffer_plain (lampRequester y p) p g
  settle_grants (k := 3) hx (Acts.run (x := .lineEnd o out data) (ns := [.nodeLampOffer p]) hx hend hy.notices
    ((acts_nodeLampOffer hy hp).2 g hw hg)) hy.notices hy.offers hplain.grant (hplain.phase _) (by decide)

/-- R143: an end after which no GET is wanted. -/
theorem readingEnd_frees {o : Offer} {out : LineOutcome} {data : Option Word} (hx : x.notices = [])
    (hend : takeLineEnd o out data x = emit (.nodeLampOffer p) y) (hy : y.Ending) (hp : y.LampPlace p)
    (hw : wantedReading y p = none) : endSettled o out data x = y.free :=
  end_freesTold (k := 2) (ns := [.nodeLampOffer p]) hx hend hy.notices ((acts_nodeLampOffer hy hp).1 hw) hy.notices hy.offers
    (by decide)

theorem checkSlot_keeps (src : CheckSource) (s : State) : (checkSlot src s).consist = s.consist ∧ (checkSlot src s).line = s.line
    ∧ (checkSlot src s).notices = s.notices ∧ ∀ q x, nodeCheck (checkSlot src s) q x = nodeCheck s q x := by
  unfold checkSlot
  split
  · exact ⟨rfl, rfl, rfl, fun q x => by cases x <;> rfl⟩
  · exact ⟨rfl, rfl, rfl, fun q x => rfl⟩

/-- The records of the Load Check Unit without the check, and without the slot's entry. -/
def noCheck (p : Pos) (src : CheckSource) (ck : LoadCheck) : LoadCheck :=
  match src with
  | .slot => { ck with slotChecks := ck.slotChecks.put p none }
  | .opportunistic => { ck with oppChecks := ck.oppChecks.put p none }

def noSlot (src : CheckSource) (ck : LoadCheck) : LoadCheck := if src = .slot then { ck with slot := none } else ck

theorem setNodeCheck_eq (s : State) : setNodeCheck p src none s = { s with check := noCheck p src s.check } := by
  cases src <;> rfl

theorem checkSlot_eq (s : State) : checkSlot src s = { s with check := noSlot src s.check } := by
  cases src <;> rfl

theorem resulting_over_check (r : CheckResult) (s : State) :
    checkSlot src (State.resulting p f r (setNodeCheck p src none s)) = setNodeCheck p src none (State.resulting p f r (checkSlot src s)) := by
  have hcomm : noSlot src (noCheck p src s.check) = noCheck p src (noSlot src s.check) := by cases src <;> rfl
  have hleft := resulting_check (p := p) (f := f) r (noCheck p src s.check) s
  have hright := resulting_check (p := p) (f := f) r (noSlot src s.check) s
  rw [setNodeCheck_eq s, checkSlot_eq s, hleft, hright, checkSlot_eq, setNodeCheck_eq]
  exact congrArg (fun ck => ({ State.resulting p f r s with check := ck } : State)) hcomm

/-- R92, R143, R147: an end that writes a result and ends the check. -/
theorem readingEnd_over {o : Offer} {out : LineOutcome} {data : Option Word} {r : CheckResult} (hx : x.notices = [])
    (hend : takeLineEnd o out data x = emit (.nodeLampOffer p) (finishCheck p src (emit (.writeResult p f r) y)))
    (hy : y.Ending) (hp : y.LampPlace p) (hother : ∀ x, x ≠ src → nodeCheck y p x = none) (hl : y.LastCheck p src f) :
    endSettled o out data x = (setNodeCheck p src none (State.resulting p f r (checkSlot src y))).free := by
  let z : State := setNodeCheck p src none y
  have hz : z.Ending := setNodeCheck_ending hy none
  have hpz : z.LampPlace p := setNodeCheck_place hp none
  have hnone : ∀ x, nodeCheck z p x = none := nodeCheck_over hother
  have hlz : z.LastCheck p src f := by
    cases src <;> exact hl
  have htake : takeLineEnd o out data x =
      emitAll [.writeResult p f r, .nodeLampEnded p src, .nodeLampOffer p, .nodeLampOffer p] z := by
    have hwithdraw : withdrawReading p src (setNodeCheck p src none (emit (.writeResult p f r) y)) = emit (.writeResult p f r) z := by
      have hemit : setNodeCheck p src none (emit (.writeResult p f r) y) = emit (.writeResult p f r) z := by cases src <;> rfl
      rw [hemit]
      refine withdrawWhere_none fun o ho => ?_
      rw [show (emit (.writeResult p f r) z).line.offers = [] from hz.offers] at ho
      cases ho
    rw [hend]
    unfold finishCheck
    rw [hwithdraw, emit_eq, emit_eq, emitAll_emitAll, emitAll_emitAll]
    rfl
  let v : State := State.resulting p f r z
  have hm : Marked v z := resulting_marked p f r z
  have hv : v.Ending := hm.ending hz
  have hpv : v.LampPlace p := by
    obtain ⟨st, pt, heq⟩ := hm
    exact hpz.congr (by rw [heq])
  have hnonev : ∀ x, nodeCheck v p x = none := fun x => by
    have : nodeCheck v p x = nodeCheck z p x := by cases x <;> (unfold nodeCheck; rw [hm.check])
    rw [this]; exact hnone x
  have hlv : v.LastCheck p src f := by
    unfold State.LastCheck at hlz ⊢
    rw [hm.check]
    exact hlz
  let k : State := checkSlot src v
  obtain ⟨hcons, hline, hnot, hchk⟩ := checkSlot_keeps src v
  have hk : k.Ending := ⟨hnot.trans hv.notices, by rw [show k.line = v.line from hline]; exact hv.offers,
    by rw [show k.line = v.line from hline]; exact hv.flight, by unfold openFlight; rw [show k.line = v.line from hline]; exact hv.ended⟩
  have hoffer := (acts_nodeLampOffer hk (hpv.congr hcons)).1 (wantedReading_none fun x => (hchk p x).trans (hnonev x))
  have hacts : Acts 12 [.writeResult p f r, .nodeLampEnded p src, .nodeLampOffer p, .nodeLampOffer p] z k :=
    Acts.cons (k := 3) (l := 9) (acts_writeResult_place r hz.notices hpz)
      (Acts.cons (k := 5) (l := 4) (acts_nodeLampEnded hv hpv hnonev hlv) (Acts.cons (k := 2) (l := 2) hoffer hoffer))
  rw [← resulting_over_check]
  exact end_freesTold (k := 12) hx htake hz.notices hacts hk.notices hk.offers (by decide)

theorem countReading_cases (m : Nat) (s : State) :
    (c.lastClass = some (readingClass c s.settings.vref m p) ∨ 3 ≤ c.counted → countReading p src c m s =
        finishCheck p src (emit (.writeResult p c.code (classResult (readingClass c s.settings.vref m p) true)) s))
      ∧ (c.lastClass ≠ some (readingClass c s.settings.vref m p) → c.counted < 3 → countReading p src c m s =
        setNodeCheck p src (some { c with
          counted := c.counted + 1
          lastClass := some (readingClass c s.settings.vref m p)
          step := none
          supply := none
          nextReading := some (s.now + ms 50) }) s) := by
  unfold countReading
  dsimp only
  refine ⟨fun h => if_pos (h.imp_right fun h => by omega), fun h hc => if_neg (not_or.mpr ⟨h, by omega⟩)⟩

theorem readingClass_eq {point n : Nat} {kind : LoadKind} (hrow : c.row = some (point, n, kind)) (vref m : Nat) :
    readingClass c vref m p = (judgeCurrent [((p, c.code), expectedCurrent n kind
      ((c.supply.map fun v => max (vref / 2) (min v (vref * 3 / 2))).getD vref) vref)] m c.tolerance c.tolerance c.threshold false).cls := by
  unfold readingClass
  rw [hrow]
  dsimp only
  rw [clampedSupply_eq]

end Sys2Proof.Machine
end

section
/-!
The obligation on the judging of currents (R137, R138, R142, R143, R147).
-/
namespace Sys2Proof.Machine

variable {s t u x y z : State} {p : Pos} {f : Code} {src : CheckSource} {c : NodeLampCheck}

/-- R142, R143: the GET of a reading's step. -/
def lampGet (s : State) (p : Pos) (src : CheckSource) (f : Code) (point : Nat) (step : ReadingStep) : Offer :=
  readingOffer (lampRequester s p) p (src, f, step, if step = .supply then 63 else point)

/-- What a reading's end finds: the one check of a position that reads its lamps, with its row. -/
structure State.ReadingAt (s : State) (p : Pos) (src : CheckSource) (f : Code) (point : Nat) : Prop where
  place : s.LampPlace p
  point : point ≤ 63
  others : ∀ x, x ≠ src → nodeCheck s p x = none
  last : s.LastCheck p src f

theorem State.ReadingAt.at_end {point : Nat} (h : s.ReadingAt p src f point) (n : Nat) :
    (setUnheard p n s.over).ReadingAt p src f point :=
  ⟨h.place.congr rfl, h.point, fun x hx => (nodeCheck_at n s p x).trans (h.others x hx), h.last⟩

theorem State.ReadingAt.later {point : Nat} (h : s.ReadingAt p src f point) (d : Time) :
    (advanceTo d s).ReadingAt p src f point := by
  refine ⟨?_, h.point, fun x hx => (nodeCheck_advanceTo d s p x).trans (h.others x hx), h.last⟩
  have hrec := posRec_advanceTo d s p
  have hfirst : (posRec (advanceTo d s) p).firstReads = (posRec s p).firstReads := by
    rw [hrec]; unfold lostAfter; split <;> rfl
  have hitems : (posRec (advanceTo d s) p).groupItems = (posRec s p).groupItems := by
    rw [hrec]; unfold lostAfter; split <;> rfl
  rcases h.place with hrun | ⟨he, hr, hg, hoff⟩
  · exact .inl ((stateOf_advanceTo d s p).trans hrun)
  · exact .inr ⟨(stateOf_advanceTo d s p).trans he, hfirst.trans hr, by rw [hitems]; exact hg, hoff⟩

theorem setNodeCheck_at (n : Nat) (d : Option NodeLampCheck) (s : State) :
    setNodeCheck p src d (setUnheard p n s.over) = setUnheard p n (setNodeCheck p src d s).over := by cases src <;> rfl

theorem checkSlot_at (n : Nat) (s : State) : checkSlot src (setUnheard p n s.over) = setUnheard p n (checkSlot src s).over := by
  cases src <;> rfl

theorem resulting_at (r : CheckResult) (n : Nat) (s : State) :
    State.resulting p f r (setUnheard p n s.over) = setUnheard p n (State.resulting p f r s).over := by
  have hm := resulting_marked p f r s
  rw [show State.resulting p f r (setUnheard p n s.over) = _ from resulting_line r (setUnheard p n s.over).line s]
  unfold setUnheard State.over
  rw [hm.line]

/-- R142: the supply of a reading, and the GET of the lamp's point. -/
theorem supplyRead_ends {point n : Nat} {kind : LoadKind} (hx : x.Ending) (ha : x.ReadingAt p src c.code point)
    (hc : nodeCheck x p src = some c) (hstep : c.step = some .supply) (hrow : c.row = some (point, n, kind)) {out : LineOutcome}
    {data : Option Word} (hout : (∃ w, out = .ready ∧ data = some w) ∨ (out = .notReady ∨ out = .notHeard) ∧ data = none) :
    endSettled (lampGet x p src c.code point .supply) out data x =
      (setNodeCheck p src (some { c with step := some .lamp, supply := data.map fun w => w.toNat }) x).granted
        (lampGet x p src c.code point .lamp) := by
  have hend : readingEnd p src c.code .supply out data x = emit (.nodeLampOffer p)
      (setNodeCheck p src (some { c with step := some .lamp, supply := data.map fun w => w.toNat }) x) := by
    obtain ⟨hready, hnot, -⟩ := (readingEnd_cases hc).1 hstep
    rcases hout with ⟨w, rfl, rfl⟩ | ⟨hout, rfl⟩
    · exact hready w
    · exact hnot out hout
  have hgo := readingEnd_goesOn (o := lampGet x p src c.code point .supply) hx.notices hend (setNodeCheck_ending hx _)
    (setNodeCheck_place ha.place _) (wantedReading_lamp (c := { c with step := some .lamp, supply := data.map fun w => w.toNat })
      ((nodeCheck_setNodeCheck _ _ _ _ _).trans (if_pos rfl)) rfl hrow (nodeCheck_others ha.others)) ha.point
  rw [lampRequester_setNodeCheck] at hgo
  exact hgo

/-- R24, R142: Unheard, the same GET is offered again. -/
theorem lampRead_again {point n : Nat} {kind : LoadKind} {step : ReadingStep} (hx : x.Ending) (ha : x.ReadingAt p src c.code point)
    (hc : nodeCheck x p src = some c) (hstep : c.step = some step) (hrow : c.row = some (point, n, kind)) :
    endSettled (lampGet x p src c.code point step) .unheard none x = x.granted (lampGet x p src c.code point step) := by
  cases step with
  | supply =>
    exact readingEnd_goesOn (o := lampGet x p src c.code point .supply) hx.notices ((readingEnd_cases hc).1 hstep).2.2 hx ha.place
      (wantedReading_supply hc hstep ha.others) (show 63 ≤ 63 by decide)
  | lamp =>
    exact readingEnd_goesOn (o := lampGet x p src c.code point .lamp) hx.notices ((readingEnd_cases hc).2 hstep).2.2.2 hx ha.place
      (wantedReading_lamp hc hstep hrow ha.others) ha.point

/-- R143: a reading after which the next falls 50 ms on. -/
theorem lampRead_paused {point : Nat} {out : LineOutcome} {data : Option Word} {d : NodeLampCheck} (hx : x.Ending)
    (ha : x.ReadingAt p src c.code point) (hd : d.step = none)
    (hend : readingEnd p src c.code .lamp out data x = emit (.nodeLampOffer p) (setNodeCheck p src (some d) x)) :
    endSettled (lampGet x p src c.code point .lamp) out data x = (setNodeCheck p src (some d) x).free :=
  readingEnd_frees (o := lampGet x p src c.code point .lamp) hx.notices hend (setNodeCheck_ending hx _)
    (setNodeCheck_place ha.place _) (wantedReading_idle ((nodeCheck_setNodeCheck _ _ _ _ _).trans (if_pos rfl)) hd
      (nodeCheck_others ha.others))

/-- R143, R147: a reading that ends the check. -/
theorem lampRead_over {point : Nat} {out : LineOutcome} {data : Option Word} {r : CheckResult} (hx : x.Ending)
    (hy : y.Ending) (ha : y.ReadingAt p src c.code point)
    (hend : readingEnd p src c.code .lamp out data x =
      emit (.nodeLampOffer p) (finishCheck p src (emit (.writeResult p c.code r) y))) :
    endSettled (lampGet x p src c.code point .lamp) out data x =
      (setNodeCheck p src none (State.resulting p c.code r (checkSlot src y))).free :=
  readingEnd_over (o := lampGet x p src c.code point .lamp) hx.notices hend hy ha.place ha.others ha.last

theorem faulted_ending (h : s.Ending) (k : FaultKind) (code : Option Code) (access : Option AccessKind) (d : Nat) :
    (s.faulted k p code access d).Ending := ⟨h.notices, h.offers, h.flight, h.ended⟩

theorem faulted_reading {point : Nat} (h : s.ReadingAt p src f point) (k : FaultKind) (code : Option Code)
    (access : Option AccessKind) (d : Nat) : (s.faulted k p code access d).ReadingAt p src f point :=
  ⟨h.place.congr rfl, h.point, fun x hx => (by cases x <;> rfl : nodeCheck (s.faulted k p code access d) p x = nodeCheck s p x).trans
    (h.others x hx), h.last⟩

theorem faulted_at (k : FaultKind) (code : Option Code) (access : Option AccessKind) (d n : Nat) (s : State) :
    (setUnheard p n s.over).faulted k p code access d = setUnheard p n (s.faulted k p code access d).over := rfl

theorem lampGet_at (n : Nat) (point : Nat) (step : ReadingStep) (s : State) :
    lampGet (setUnheard p n s.over) p src f point step = lampGet s p src f point step := rfl

/-- R142, R143, R147: the ends of the GETs of a reading, up to the counting of its data. -/
theorem reading_replies {point n : Nat} {kind : LoadKind} {d : Time} (ha : s.ReadingAt p src c.code point)
    (hrow : c.row = some (point, n, kind)) (hc : nodeCheck s p src = some c) :
    (c.step = some .supply → s.InFlight (lampGet s p src c.code point .supply) d →
        ∀ out data, (∃ w, out = .ready ∧ data = some w) ∨ (out = .notReady ∨ out = .notHeard) ∧ data = none →
          endSettled (lampGet s p src c.code point .supply) out data (setUnheard p 0 s.over) =
            State.granted (lampGet s p src c.code point .lamp) (setUnheard p 0 (setNodeCheck p src (some { c with
              step := some .lamp, supply := data.map fun w => w.toNat }) s)))
      ∧ (c.step = some .lamp → s.InFlight (lampGet s p src c.code point .lamp) d →
        (∀ m : Word,
          (c.lastClass = some (readingClass c s.settings.vref m.toNat p) ∨ 3 ≤ c.counted →
            endSettled (lampGet s p src c.code point .lamp) .ready (some m) (setUnheard p 0 s.over) =
              setUnheard p 0 (State.free (setNodeCheck p src none (State.resulting p c.code
                (classResult (readingClass c s.settings.vref m.toNat p) true) (checkSlot src s)))))
          ∧ (c.lastClass ≠ some (readingClass c s.settings.vref m.toNat p) → c.counted < 3 →
            endSettled (lampGet s p src c.code point .lamp) .ready (some m) (setUnheard p 0 s.over) =
              setUnheard p 0 (State.free (setNodeCheck p src (some { c with
                counted := c.counted + 1
                lastClass := some (readingClass c s.settings.vref m.toNat p)
                step := none
                supply := none
                nextReading := some (s.now + ms 50) }) s))))
        ∧ endSettled (lampGet s p src c.code point .lamp) .notReady none (setUnheard p 0 s.over) =
            setUnheard p 0 (State.free (setNodeCheck p src (some { c with
              step := none, supply := none, nextReading := some (s.now + ms 50) }) s))
        ∧ endSettled (lampGet s p src c.code point .lamp) .notHeard none (setUnheard p 0 s.over) =
            setUnheard p 0 (State.free (setNodeCheck p src none (State.resulting p c.code .noReply
              (checkSlot src (s.faulted .pointUnknown p (some c.code) none point)))))) := by
  have hax := ha.at_end 0
  have hcx : nodeCheck (setUnheard p 0 s.over) p src = some c := (nodeCheck_at 0 s p src).trans hc
  refine ⟨fun hstep hfl out data hout => ?_, fun hstep hfl => ?_⟩
  · have hend := supplyRead_ends (hfl.ending p 0) hax hcx hstep hrow hout
    rw [setNodeCheck_at, lampGet_at, lampGet_at] at hend
    exact hend
  · have hx := hfl.ending p 0
    obtain ⟨hready, hnot, hsilent, -⟩ := (readingEnd_cases hcx).2 hstep
    rw [← lampGet_at 0]
    refine ⟨fun m => ⟨fun hagree => ?_, fun hdiff hfew => ?_⟩, ?_, ?_⟩
    · have hend := lampRead_over hx hx hax ((hready m).trans (congrArg _ ((countReading_cases _ _).1 hagree)))
      rw [checkSlot_at, resulting_at, setNodeCheck_at, free_at] at hend
      exact hend
    · have hend := lampRead_paused hx hax rfl ((hready m).trans (congrArg _ ((countReading_cases _ _).2 hdiff hfew)))
      rw [setNodeCheck_at, free_at] at hend
      exact hend
    · have hend := lampRead_paused hx hax rfl hnot
      rw [setNodeCheck_at, free_at] at hend
      exact hend
    · have hpoint : (c.row.map fun r => r.1).getD 0 = point := by rw [hrow]; rfl
      have hend := lampRead_over (y := State.faulted .pointUnknown p (some c.code) none point (setUnheard p 0 s.over)) hx
        (faulted_ending hx _ _ _ _) (faulted_reading hax _ _ _ _) (by rw [hsilent, hpoint]; rfl)
      rw [faulted_at, checkSlot_at, resulting_at, setNodeCheck_at, free_at] at hend
      exact hend

/-- Settles O60: the evaluation, the outcome by the thresholds, and the ends of a reading. -/
theorem currentIsJudged : Obligations.CurrentIsJudged := by
  unfold Obligations.CurrentIsJudged
  refine ⟨evaluate_judged, fun es m tLo tHi openMin presence => ?_⟩
  obtain ⟨hopen, hempty, hwithin, hlow⟩ := judgeCurrent_cases es m tLo tHi openMin presence
  refine ⟨hopen, hempty, hwithin, hlow, ?_⟩
  intro s p src c point n kind d get hplace hrow hpt hothers hpend hslot reply check paused ends again reads
  have ha : s.ReadingAt p src c.code point := ⟨hplace, hpt, hothers, hpend, hslot⟩
  have hserve := ha.place.serves
  have hagain : ∀ step, nodeCheck s p src = some c → c.step = some step → s.InFlight (lampGet s p src c.code point step) d →
      unheardOf s p < 2 → exec .replyDeadline s =
        .next (State.granted (lampGet s p src c.code point step) (setUnheard p (unheardOf s p + 1) (advanceTo d s))) := by
    intro step hc hstep hfl hu
    have hget : lampGet (advanceTo d s) p src c.code point step = lampGet s p src c.code point step := by
      unfold lampGet lampRequester
      rw [stateOf_advanceTo]
    have hend := lampRead_again (hfl.endingLater p (unheardOf s p + 1) d) ((ha.later d).at_end _)
      ((nodeCheck_at _ _ _ _).trans ((nodeCheck_advanceTo d s p src).trans hc)) hstep hrow
    rw [lampGet_at, hget] at hend
    exact (unheard_ends hfl (readingOffer_addresses _ _ _) (countsSilence_inService hserve) hu).trans (congrArg _ hend)
  refine ⟨fun hc hstep hfl => ?_, fun hc hstep hfl => ?_, fun step w hnone hfl => ?_⟩
  · obtain ⟨hready, hnot, hsilent⟩ := reply_ends hfl (readingOffer_addresses _ _ _)
    have hend := (reading_replies ha hrow hc).1 hstep hfl
    exact ⟨fun w => (hready w).trans (congrArg _ (hend _ _ (.inl ⟨w, rfl, rfl⟩))),
      fun x => (hnot x).trans (congrArg _ (hend _ _ (.inr ⟨.inl rfl, rfl⟩))),
      fun any x => (hsilent any x).trans (congrArg _ (hend _ _ (.inr ⟨.inr rfl, rfl⟩))), hagain .supply hc hstep hfl⟩
  · obtain ⟨hready, hnot, hsilent⟩ := reply_ends hfl (readingOffer_addresses _ _ _)
    obtain ⟨hdata, hno, hnone⟩ := (reading_replies ha hrow hc).2 hstep hfl
    refine ⟨fun w => ?_, fun x => (hnot x).trans (congrArg _ hno), fun any x => (hsilent any x).trans (congrArg _ hnone),
      hagain .lamp hc hstep hfl⟩
    intro vref vc expected cls
    have hcls : readingClass c s.settings.vref w.toNat p = cls := by
      rw [readingClass_eq hrow]
      show (judgeCurrent [((p, c.code), expectedCurrent n kind vc vref)] _ _ _ _ _).cls = cls
      cases kind <;> rfl
    have hend := hdata w
    rw [hcls] at hend
    exact ⟨fun h => (hready w).trans (congrArg _ (hend.1 h)), fun h h' => (hready w).trans (congrArg _ (hend.2 h h'))⟩
  · obtain ⟨hready, -, -⟩ := reply_ends hfl (readingOffer_addresses _ _ _)
    have hx := hfl.ending p 0
    have hgone : nodeCheck (setUnheard p 0 s.over) p src = none := (nodeCheck_at 0 s p src).trans hnone
    have hall : ∀ x, nodeCheck (setUnheard p 0 s.over) p x = none := fun x => by
      by_cases hx : x = src
      · rw [hx]; exact hgone
      · exact (ha.at_end 0).others x hx
    exact (hready w).trans (congrArg _ (readingEnd_frees (o := lampGet s p src c.code point step) hx.notices
      (readingEnd_gone hgone step .ready (some w)) hx (ha.at_end 0).place (wantedReading_none hall)))

end Sys2Proof.Machine
end

section
/-!
The end of a first read (R74, R76): its result, the exit test, and the step to RUNNING that a position takes where the test is met.
-/
namespace Sys2Proof.Machine

variable {s t u x y z : State} {p : Pos} {f : Code}

/-- R76: the record of a position that has left EXERCISING for RUNNING. -/
def ran (p : Pos) : State → State :=
  modRec p fun r => { r with
    state := .running, deadline := none, lampItems := [], groupItems := [], firstReads := [], awaited := [], kept := [] }

/-- R74: the first reads outstanding. -/
def withReads (p : Pos) (xs : List FirstRead) : State → State := modRec p fun r => { r with firstReads := xs }

theorem posRec_ran (p : Pos) (s : State) : posRec (ran p s) p = { posRec s p with
    state := .running, deadline := none, lampItems := [], groupItems := [], firstReads := [], awaited := [], kept := [] } :=
  Tab.get_upd_same ..

theorem posRec_withReads (p : Pos) (xs : List FirstRead) (s : State) :
    posRec (withReads p xs s) p = { posRec s p with firstReads := xs } := Tab.get_upd_same ..

theorem stateOf_ran (p : Pos) (s : State) : stateOf (ran p s) p = .running := congrArg (·.state) (posRec_ran p s)

theorem stateOf_withReads (p : Pos) (xs : List FirstRead) (s : State) : stateOf (withReads p xs s) p = stateOf s p :=
  congrArg (·.state) (posRec_withReads p xs s)

theorem ran_withReads (p : Pos) (xs : List FirstRead) (s : State) : ran p (withReads p xs s) = ran p s :=
  modRec_modRec ..

theorem Marked.consist (h : Marked s t) : s.consist = t.consist := by obtain ⟨st, pt, rfl⟩ := h; rfl

theorem withdrawExercise_noOffers (ho : s.line.offers = []) (p : Pos) : withdrawExercise p s = s :=
  withdrawWhere_none (by rw [ho]; exact fun o h => nomatch h)

theorem dirOf_ran (p : Pos) (s : State) (g : Group) : dirOf (ran p s) p g = dirOf s p g :=
  congrArg (fun r => r.directory.get g) (posRec_ran p s)

/-- R199: which RESULT frames of p qualify at RUNNING is what it was at EXERCISING. -/
theorem qualifies_ran (he : stateOf s p = .exercising) (g : Group) (half : Bool) :
    qualifies (ran p s) p g half = qualifies s p g half := by
  unfold qualifies
  rw [stateOf_ran, he, dirOf_ran]

theorem memberFitted_ran (he : stateOf s p = .exercising) (g : Group) (m : Fin 16) :
    memberFitted (ran p s) p g m = memberFitted s p g m := by
  unfold memberFitted
  rw [stateOf_ran, he, dirOf_ran, if_neg (by decide), if_neg (by decide)]

theorem resultData_ran (he : stateOf s p = .exercising) (g : Group) (half : Bool) :
    resultData (ran p s) p g half = resultData s p g half := by
  unfold resultData resultNibble
  simp only [memberFitted_ran he]
  rfl

theorem placeStatus_ran (k : FrameKey) (id : Nat) (data : List Byte) (s : State) :
    placeStatus k id data (ran p s) = ran p (placeStatus k id data s) := by
  have hw : txQueue (ran p s) = txQueue s := rfl
  unfold placeStatus
  rw [hw]
  split
  · rfl
  · split <;> rfl

theorem placeResultFrame_ran (he : stateOf s p = .exercising) (g : Group) (half : Bool) :
    placeResultFrame p g half (ran p s) = ran p (placeResultFrame p g half s) := by
  have hw : wouldPlace (.result p g half) (ran p s) = wouldPlace (.result p g half) s := rfl
  have hd := resultData_ran he g half
  unfold placeResultFrame
  rw [hw, hd]
  by_cases h : wouldPlace (.result p g half) s = true
  · rw [if_pos h, if_pos h, show statusFrameId (ran p s) 1 = statusFrameId s 1 from rfl, placeStatus_ran]
    obtain ⟨pt, hpt⟩ := placeStatus_port (.result p g half) (statusFrameId s 1) (resultData s p g half) s
    rw [hpt]
    unfold noteRefresh
    rw [qualifies_ran (s := { s with port := pt }) he]
    by_cases hq : qualifies { s with port := pt } p g half = true
    · rw [if_pos hq, if_pos hq]; rfl
    · rw [if_neg hq, if_neg hq]
  · rw [if_neg h, if_neg h]; rfl

theorem resulting_ran (he : stateOf s p = .exercising) (r : CheckResult) :
    State.resulting p f r (ran p s) = ran p (State.resulting p f r s) := by
  unfold State.resulting
  rw [show (entryOf (ran p s) p f) = entryOf s p f from rfl]
  by_cases h : (entryOf s p f).result = r
  · rw [if_pos h, if_pos h]
  · rw [if_neg h, if_neg h]
    exact placeResultFrame_ran (s := modEntry p f (fun x => { x with result := r }) s) he _ _

/-! ## The step to RUNNING -/

/-- R76: what entering RUNNING asks for beside the state: a warm trailer with no sensor group, no node-lamp check and nothing due. -/
structure State.Enters (s : State) (p : Pos) : Prop where
  warm : (posRec s p).warm = true
  sensors : ∀ g, kindOfGroup g = .sensor → dirOf s p g = none
  checks : ∀ src, nodeCheck s p src = none
  reads : dueReads (ran p s) p = []

theorem runningReads_noSensors (h : ∀ g, kindOfGroup g = .sensor → dirOf s p g = none) : runningReads p s = emit (.classSix p) s := by
  have hnone : ∀ f, presentSensor s p f = false := by
    intro f
    unfold presentSensor
    by_cases hk : kindOf f = .sensor
    · rw [h (groupOf f) ((rfl : kindOfGroup (groupOf f) = kindOf f).trans hk), Bool.and_false]
    · rw [decide_eq_false hk, Bool.false_and]
  have hstatus : (s.delivery.status.upd p fun t => t.mapIdx fun (f : Code) (e : StatusEntry) =>
      if presentSensor s p f then { e with nextRead := if e.notFitted then none else some s.now } else e) = s.delivery.status := by
    refine Tab.upd_eq_self _ _ ?_
    refine Tab.ext_get fun f => ?_
    rw [Tab.get_mapIdx, hnone f]
    rfl
  unfold runningReads
  refine congrArg (emit (.classSix p)) ?_
  unfold modDelivery
  dsimp only
  rw [hstatus]

/-- R76, R150, R164: what a position that has entered RUNNING hands on, with nothing to read and no node-lamp check. -/
theorem acts_running (hx : z.Ending) (hrun : stateOf z p = .running) (hsens : ∀ g, kindOfGroup g = .sensor → dirOf z p g = none)
    (hchecks : ∀ src, nodeCheck z p src = none) (hreads : dueReads z p = []) :
    Acts 4 [.runningDelivery p, .runningService p, .nodeLampOffer p] z (setOffers (fun _ => [pollOffer]) z) := by
  have hin : inService z p = true := by unfold inService; rw [hrun]
  obtain ⟨fl, hfl⟩ := Option.ne_none_iff_exists'.mp hx.flight
  have hdelivery : Acts 2 [.runningDelivery p] z z :=
    Acts.run (x := .runningDelivery p) (ns := [.classSix p]) hx.notices (runningReads_noSensors hsens) hx.notices
      (acts_classSix hx.notices hin hreads)
  have hpoll : Acts 1 [.runningService p] z (setOffers (fun _ => [pollOffer]) z) :=
    Acts.silent (x := .runningService p) hx.notices (askPoll_only hx.offers hfl hin) hx.notices
  have hlamp : Acts 1 [.nodeLampOffer p] (setOffers (fun _ => [pollOffer]) z) (setOffers (fun _ => [pollOffer]) z) := by
    refine Acts.silent (x := .nodeLampOffer p) hx.notices ?_ hx.notices
    show nodeLampOffer p _ = _
    unfold nodeLampOffer
    rw [show stateOf (setOffers (fun _ => [pollOffer]) z) p = .running from hrun,
      show wantedReading (setOffers (fun _ => [pollOffer]) z) p = none from wantedReading_none (s := z) hchecks]
    dsimp only
    split <;> rfl
  exact Acts.cons hdelivery (Acts.cons hpoll hlamp)

theorem acts_enterRunning (hx : s.Ending) (he : stateOf s p = .exercising) (h : s.Enters p) :
    Acts 6 [.enterRunning p] s (setOffers (fun _ => [pollOffer]) (ran p s)) := by
  have hoffers : (ran p s).line.offers = [] := hx.offers
  have hrunE : runNotice (.enterRunning p) s = emitAll [.runningDelivery p, .runningService p, .nodeLampOffer p] (ran p s) := by
    show enterRunning p s = _
    unfold enterRunning
    rw [if_pos (show exercising s p = true from decide_eq_true he), h.warm]
    exact congrArg _ (withdrawExercise_noOffers hoffers p)
  have hran : (ran p s).Ending := ⟨hx.notices, hx.offers, hx.flight, hx.ended⟩
  exact (Acts.run (x := .enterRunning p) hx.notices hrunE hx.notices (acts_running hran (stateOf_ran p s)
    (fun g hg => (dirOf_ran p s g).trans (h.sensors g hg)) h.checks h.reads)).mono (by decide)

theorem acts_exitTest (hx : s.Ending) (he : stateOf s p = .exercising) :
    (exitMet s p = false → Acts 1 [.exitTest p] s s)
      ∧ (exitMet s p = true → s.Enters p → Acts 7 [.exitTest p] s (setOffers (fun _ => [pollOffer]) (ran p s))) := by
  have hex : exercising s p = true := decide_eq_true he
  refine ⟨fun hm => Acts.silent (x := .exitTest p) hx.notices (if_neg ?_) hx.notices, fun hm h => ?_⟩
  · rw [hm, Bool.and_false]; exact Bool.false_ne_true
  · exact Acts.run (x := .exitTest p) (ns := [.enterRunning p]) hx.notices (if_pos (by rw [hm, hex]; rfl)) hx.notices
      (acts_enterRunning hx he h)

theorem Marked.ends (h : Marked s t) (ht : t.Ending) : s.Ending :=
  ⟨h.notices.trans ht.notices, by rw [h.line]; exact ht.offers, by rw [h.line]; exact ht.flight, by
    have he := ht.ended
    unfold openFlight at he ⊢
    rw [h.line]; exact he⟩

theorem exitTest_running (h : stateOf s p = .running) : exitTest p s = s := exitTest_calm_state (by rw [h]; decide)

theorem consistOffer_running (h : stateOf s p = .running) : consistOffer p s = s := by
  refine if_pos ?_
  rw [show exercising s p = false from decide_eq_false (by rw [h]; decide)]
  rfl

theorem consistOffer_idle (hw : wantedReading s p = none) (hr : ∀ x ∈ (posRec s p).firstReads, ahead s x.notBefore = true) :
    consistOffer p s = s := by
  have hfind : ((posRec s p).firstReads.find? fun x => !ahead s x.notBefore) = none := by
    rw [List.find?_eq_none]
    intro x hx
    rw [hr x hx]; exact Bool.false_ne_true
  unfold consistOffer
  rw [hw, hfind]
  split <;> rfl

theorem State.Enters.of_port {pt : Port} (h : State.Enters { s with port := pt } p) : s.Enters p :=
  ⟨h.warm, h.sensors, h.checks, h.reads⟩

/-- R92, R76: a result written at an EXERCISING position. -/
theorem acts_writeResult_exercising (hx : t.Ending) (he : stateOf t p = .exercising) (r : CheckResult) :
    (exitMet (State.resulting p f r t) p = false → Acts 3 [.writeResult p f r] t (State.resulting p f r t))
      ∧ (exitMet (State.resulting p f r t) p = true → (State.resulting p f r t).Enters p →
        Acts 15 [.writeResult p f r, .exitTest p] t (setOffers (fun _ => [pollOffer]) (ran p (State.resulting p f r t)))) := by
  have hv : stateOf t p ≠ .vacant := by rw [he]; decide
  have hwrite : runNotice (.writeResult p f r) t = _ := writeResult_eq p f r hv
  by_cases h : (entryOf t p f).result = r
  · rw [show State.resulting p f r t = t from if_pos h]
    rw [if_pos h] at hwrite
    have hsilent : Acts 1 [.writeResult p f r] t t := Acts.silent (x := .writeResult p f r) hx.notices hwrite hx.notices
    exact ⟨fun _ => hsilent.mono (by decide), fun hm hent =>
      (Acts.cons hsilent ((acts_exitTest hx he).2 hm hent)).mono (by decide)⟩
  · rw [if_neg h] at hwrite
    have hres : State.resulting p f r t =
        placeResultFrame p (groupOf f) (halfOf f) (modEntry p f (fun x => { x with result := r }) t) := if_neg h
    have hy : (modEntry p f (fun x => { x with result := r }) t).Ending := ⟨hx.notices, hx.offers, hx.flight, hx.ended⟩
    rw [hres]
    generalize hyd : modEntry p f (fun x => { x with result := r }) t = y at hwrite hy
    have hey : stateOf y p = .exercising := by rw [← hyd]; exact he
    obtain ⟨pt, hpt⟩ := placeResultFrame_port p (groupOf f) (halfOf f) y
    have hn : (placeResultFrame p (groupOf f) (halfOf f) y).notices = [] := by rw [hpt]; exact hy.notices
    refine ⟨fun hm => ?_, fun hm hent => ?_⟩
    · have hmy : exitMet y p = false := by rw [hpt] at hm; exact hm
      exact Acts.run hx.notices hwrite hy.notices (Acts.cons ((acts_exitTest hy hey).1 hmy)
        (Acts.silent (x := .placeResult p f) hy.notices rfl hn))
    · have hmy : exitMet y p = true := by rw [hpt] at hm; exact hm
      have henty : y.Enters p := by rw [hpt] at hent; exact hent.of_port
      let v : State := setOffers (fun _ => [pollOffer]) (ran p (placeResultFrame p (groupOf f) (halfOf f) y))
      have hplace : placeResultFrame p (groupOf f) (halfOf f) (setOffers (fun _ => [pollOffer]) (ran p y)) = v := by
        show _ = setOffers _ (ran p _)
        rw [← placeResultFrame_ran hey]
        unfold setOffers
        rw [placeResultFrame_line]
        obtain ⟨pt', hpt'⟩ := placeResultFrame_port p (groupOf f) (halfOf f) (ran p y)
        rw [hpt']
      have hrunv : stateOf v p = .running := stateOf_ran p _
      have hfirst : Acts 9 [.writeResult p f r] t v := Acts.run hx.notices hwrite hy.notices
        (Acts.cons (l := 1) ((acts_exitTest hy hey).2 hmy henty) (Acts.silent (x := .placeResult p f) hy.notices hplace hn))
      exact (Acts.cons hfirst (Acts.silent (x := .exitTest p) hn (exitTest_running hrunv) hn)).mono (by decide)

/-- R74, R76: what the end of a first read hands on, the list of first reads empty. -/
theorem acts_firstReadDone (hx : t.Ending) (he : stateOf t p = .exercising) (hw : wantedReading t p = none)
    (hr : (posRec t p).firstReads = []) (r : CheckResult) :
    (exitMet (State.resulting p f r t) p = false →
        Acts 5 [.writeResult p f r, .exitTest p, .consistOffer p] t (State.resulting p f r t))
      ∧ (exitMet (State.resulting p f r t) p = true → (State.resulting p f r t).Enters p →
        Acts 16 [.writeResult p f r, .exitTest p, .consistOffer p] t
          (setOffers (fun _ => [pollOffer]) (ran p (State.resulting p f r t)))) := by
  have hm := resulting_marked p f r t
  have hu : (State.resulting p f r t).Ending := hm.ends hx
  have heu : stateOf (State.resulting p f r t) p = .exercising := (hm.stateOf p).trans he
  have hru : (posRec (State.resulting p f r t) p).firstReads = [] := by
    unfold posRec; rw [hm.consist]; exact hr
  have hwu : wantedReading (State.resulting p f r t) p = none := by
    obtain ⟨st, pt, heq⟩ := hm; rw [heq]; exact hw
  refine ⟨fun hmet => ?_, fun hmet hent => ?_⟩
  · have hidle : consistOffer p (State.resulting p f r t) = State.resulting p f r t :=
      consistOffer_idle hwu (by rw [hru]; exact fun x h => nomatch h)
    exact Acts.cons (k := 3) (l := 2) ((acts_writeResult_exercising hx he r).1 hmet)
      (Acts.cons (k := 1) (l := 1) ((acts_exitTest hu heu).1 hmet) (Acts.silent (x := .consistOffer p) hu.notices hidle hu.notices))
  · exact ((acts_writeResult_exercising hx he r).2 hmet hent).append (ms := [.consistOffer p]) (l := 1)
      (Acts.silent (x := .consistOffer p) hu.notices (consistOffer_running (stateOf_ran p _)) hu.notices)

end Sys2Proof.Machine
end

section
/-!
The obligation on the ends of first reads (R32, R74, R76, R92).
-/
namespace Sys2Proof.Machine

variable {s t x : State} {p : Pos} {r : FirstRead} {res : CheckResult} {out : LineOutcome} {data : Option Word}

theorem firstReadOffer_valid (h : r.point ≤ 63) : offerValid (firstReadOffer p r) = true := getOffer_valid _ _ p _ h

theorem firstReadOffer_addresses (p : Pos) (r : FirstRead) : (firstReadOffer p r).Addresses p := ⟨nofun, nofun, rfl⟩

theorem firstReadDone_only (hr : (posRec s p).firstReads = [r]) : firstReadDone p r.code res s =
    emitAll [.writeResult p r.code res, .exitTest p, .consistOffer p] (withReads p [] s) := by
  refine congrArg (emitAll _) (modRec_congr ?_)
  rw [hr]
  simp

/-- R74: the ends of the only first read, by its outcome. -/
theorem firstReadEnd_cases (he : stateOf s p = .exercising) (hr : (posRec s p).firstReads = [r]) :
    (∀ w : Word, kindOf r.code = .sensor → w = 65535 → firstReadEnd p r.code r.point .ready (some w) s =
        firstReadDone p r.code .sensorFault (modEntry p r.code (fun e => { e with read := true }) s))
      ∧ (∀ w : Word, kindOf r.code = .sensor → w ≠ 65535 → firstReadEnd p r.code r.point .ready (some w) s =
        firstReadDone p r.code .ok (modEntry p r.code (fun e =>
          { e with read := true, changed := e.changed || decide (e.lastValue ≠ some w), lastValue := some w }) s))
      ∧ (∀ w : Word, kindOf r.code ≠ .sensor → firstReadEnd p r.code r.point .ready (some w) s =
        firstReadDone p r.code .ok (modEntry p r.code (fun e => { e with read := true, lastValue := some w }) s))
      ∧ (kindOf r.code = .sensor → firstReadEnd p r.code r.point .notReady none s = firstReadDone p r.code .sensorFault s)
      ∧ (kindOf r.code ≠ .sensor → firstReadEnd p r.code r.point .notReady none s =
        emit (.consistOffer p) (withReads p [{ r with last := .notReady, notBefore := some (s.now + ms 100) }] s))
      ∧ firstReadEnd p r.code r.point .notHeard none s =
        firstReadDone p r.code .noReply (s.faulted .pointUnknown p (some r.code) none r.point)
      ∧ firstReadEnd p r.code r.point .unheard none s =
        emit (.consistOffer p) (withReads p [{ r with last := .unheard }] s) := by
  have hcond : (exercising s p && (posRec s p).firstReads.any fun x => decide (x.code = r.code)) = true := by
    rw [hr, show exercising s p = true from decide_eq_true he]
    simp
  have hmap : ∀ g : FirstRead → FirstRead, modFirstRead p r.code g s = withReads p [g r] s := by
    intro g
    refine modRec_congr ?_
    rw [hr]
    simp
  have hdata : ∀ w, firstReadData p r.code w s = modEntry p r.code (fun e =>
      if kindOf r.code = .sensor then
        { e with read := true, changed := e.changed || decide (e.lastValue ≠ some w), lastValue := some w }
      else { e with read := true, lastValue := some w }) s := fun _ => rfl
  unfold firstReadEnd
  simp only [if_pos hcond]
  refine ⟨fun w hk hw => ?_, fun w hk hw => ?_, fun w hk => ?_, fun hk => ?_, fun hk => ?_, ?_, ?_⟩
  · exact if_pos ⟨hk, hw⟩
  · rw [if_neg (fun h => hw h.2), hdata]
    simp only [if_pos hk, Option.getD_some]
  · rw [if_neg (fun h => hk h.1), hdata]
    simp only [if_neg hk, Option.getD_some]
  · exact if_pos hk
  · rw [if_neg hk]; exact congrArg _ (hmap _)
  · rfl
  · exact congrArg _ (hmap _)

/-- What the end of the only first read of p finds. -/
structure State.ReadingFirst (s : State) (p : Pos) (r : FirstRead) : Prop where
  state : stateOf s p = .exercising
  reads : (posRec s p).firstReads = [r]
  wanted : wantedReading s p = none

/-- The state differs from the other in the Position Status Table and the Fault List alone. -/
def Noted (a b : State) : Prop := ∃ st fs, a = { b with
  delivery := { b.delivery with status := st }, policy := { b.policy with faults := fs } }

theorem Noted.refl (s : State) : Noted s s := ⟨s.delivery.status, s.policy.faults, rfl⟩

theorem Noted.reading (h : Noted t s) (hs : s.ReadingFirst p r) : t.ReadingFirst p r := by
  obtain ⟨st, fs, rfl⟩ := h
  exact ⟨hs.state, hs.reads, hs.wanted⟩

theorem granted_at (o : Offer) (n : Nat) (s : State) :
    (ran p (setUnheard p n s.over)).granted o = (ran p (setUnheard p n s)).granted o := rfl

theorem dueReads_ran (n : Nat) (s : State) (q : Pos) :
    dueReads (ran p (setUnheard p n s.over)) q = dueReads (ran p (setUnheard p n s)) q := rfl

/-- R76: the parts of `State.Enters` that no end of a first read touches. -/
structure State.EntersQuiet (s : State) (p : Pos) : Prop where
  warm : (posRec s p).warm = true
  sensors : ∀ g, kindOfGroup g = .sensor → dirOf s p g = none
  checks : ∀ src, nodeCheck s p src = none

theorem enters_of {v : State} {xs : List FirstRead} (hrec : posRec v p = { posRec s p with firstReads := xs })
    (hchk : v.check = s.check) (hwarm : (posRec s p).warm = true) (hsens : ∀ g, kindOfGroup g = .sensor → dirOf s p g = none)
    (hnone : ∀ src, nodeCheck s p src = none) : v.EntersQuiet p := by
  refine ⟨(congrArg (·.warm) hrec).trans hwarm, fun g hg => ?_, fun src => ?_⟩
  · exact (congrArg (fun r => r.directory.get g) hrec).trans (hsens g hg)
  · refine Eq.trans ?_ (hnone src)
    unfold nodeCheck
    rw [hchk]

theorem enters_at (n : Nat) (h : s.EntersQuiet p) (hd : dueReads (ran p (setUnheard p n s)) p = []) :
    (setUnheard p n s.over).Enters p :=
  ⟨h.warm, h.sensors, fun src => (nodeCheck_at n s p src).trans (h.checks src), (dueReads_ran n s p).trans hd⟩

/-- R74, R76: an end that takes the only first read from the list. -/
theorem firstRead_done (hfl : ∃ d, s.InFlight (firstReadOffer p r) d) (hs : s.ReadingFirst p r) (ht : Noted t s)
    (hend : firstReadEnd p r.code r.point out data (setUnheard p 0 s.over) = firstReadDone p r.code res (setUnheard p 0 t.over))
    {v : State} (hv : State.resulting p r.code res (withReads p [] t) = v) :
    (exitMet (setUnheard p 0 v) p = false →
        endSettled (firstReadOffer p r) out data (setUnheard p 0 s.over) = (setUnheard p 0 v).free)
      ∧ (exitMet (setUnheard p 0 v) p = true → (posRec s p).warm = true → (∀ g, kindOfGroup g = .sensor → dirOf s p g = none) →
        (∀ src, nodeCheck s p src = none) → dueReads (ran p (setUnheard p 0 v)) p = [] →
        endSettled (firstReadOffer p r) out data (setUnheard p 0 s.over) = (ran p (setUnheard p 0 v)).granted pollOffer) := by
  obtain ⟨d, hfl⟩ := hfl
  have hx := hfl.ending p 0
  have hread := ht.reading hs
  have hy : (withReads p [] (setUnheard p 0 t.over)).Ending := by
    obtain ⟨st, fs, rfl⟩ := ht
    exact ⟨hx.notices, hx.offers, hx.flight, hx.ended⟩
  have hey : stateOf (withReads p [] (setUnheard p 0 t.over)) p = .exercising := (stateOf_withReads p [] _).trans hread.state
  have hry : (posRec (withReads p [] (setUnheard p 0 t.over)) p).firstReads = [] := congrArg (·.firstReads) (posRec_withReads p [] _)
  have hdone := hend.trans (firstReadDone_only (s := setUnheard p 0 t.over) hread.reads)
  obtain ⟨hidle, hmet⟩ := acts_firstReadDone (f := r.code) hy hey hread.wanted hry res
  have hu : State.resulting p r.code res (withReads p [] (setUnheard p 0 t.over)) =
      setUnheard p 0 (State.resulting p r.code res (withReads p [] t)).over := resulting_at res 0 (withReads p [] t)
  have huE : (State.resulting p r.code res (withReads p [] (setUnheard p 0 t.over))).Ending := (resulting_marked _ _ _ _).ends hy
  have hrec : posRec (State.resulting p r.code res (withReads p [] t)) p = { posRec s p with firstReads := [] } := by
    unfold posRec
    rw [(resulting_marked _ _ _ _).consist]
    obtain ⟨st, fs, rfl⟩ := ht
    exact posRec_withReads p [] s
  have hchk : (State.resulting p r.code res (withReads p [] t)).check = s.check := by
    rw [(resulting_marked _ _ _ _).check]
    obtain ⟨st, fs, rfl⟩ := ht
    rfl
  rw [hu] at hidle hmet huE
  rw [hv] at hidle hmet huE hrec hchk
  refine ⟨fun hm => ?_, fun hm hwarm hsens hnone hdue => ?_⟩
  · have hfree := end_freesTold (o := firstReadOffer p r) (k := 5) hx.notices hdone hy.notices (hidle hm) huE.notices
      huE.offers (by decide)
    rw [free_at] at hfree
    exact hfree
  · have hent := enters_at 0 (enters_of hrec hchk hwarm hsens hnone) hdue
    have hgrant := settle_grants (o := firstReadOffer p r) (o' := pollOffer) (k := 17) hx.notices
      (Acts.run (x := .lineEnd (firstReadOffer p r) out data) hx.notices hdone hy.notices (hmet hm hent))
      (y := ran p (setUnheard p 0 v.over)) huE.notices huE.offers rfl rfl (by decide)
    rw [granted_at] at hgrant
    exact hgrant

theorem withReads_at (p : Pos) (n : Nat) (xs : List FirstRead) (s : State) :
    withReads p xs (setUnheard p n s.over) = setUnheard p n (withReads p xs s).over := rfl

/-- R74: an actuator's read held for its repetition. -/
theorem firstRead_held {d : Time} (hfl : s.InFlight (firstReadOffer p r) d) (hs : s.ReadingFirst p r)
    (hk : kindOf r.code = .actuator) : endSettled (firstReadOffer p r) .notReady none (setUnheard p 0 s.over) =
      (setUnheard p 0 (withReads p [{ r with last := .notReady, notBefore := some (s.now + ms 100) }] s)).free := by
  have hx := hfl.ending p 0
  obtain ⟨-, -, -, -, hend, -⟩ := firstReadEnd_cases (s := setUnheard p 0 s.over) hs.state hs.reads
  rw [now_at, withReads_at] at hend
  generalize hr' : ({ r with last := .notReady, notBefore := some (s.now + ms 100) } : FirstRead) = r' at hend ⊢
  have hlate : s.now < s.now + ms 100 := Nat.lt_add_of_pos_right (by decide)
  have hidle : consistOffer p (setUnheard p 0 (withReads p [r'] s).over) = setUnheard p 0 (withReads p [r'] s).over := by
    refine consistOffer_idle hs.wanted ?_
    rw [show posRec (setUnheard p 0 (withReads p [r'] s).over) p = { posRec s p with firstReads := [r'] } from posRec_withReads p _ s]
    intro z hz
    rw [List.mem_singleton.mp hz, ← hr']
    exact decide_eq_true hlate
  have hfree := end_freesTold (o := firstReadOffer p r) (k := 1) (y := setUnheard p 0 (withReads p [r'] s).over) (z := setUnheard p 0 (withReads p [r'] s).over)
    (ns := [.consistOffer p]) (out := .notReady) (data := none) hx.notices (hend (by rw [hk]; decide)) hx.notices
    (Acts.silent (x := .consistOffer p) hx.notices hidle hx.notices) hx.notices hx.offers (by decide)
  rw [free_at] at hfree
  exact hfree

theorem modRec_self (p : Pos) (s : State) : modRec p (fun z => z) s = s := by
  unfold modRec
  rw [Tab.upd_eq_self _ _ rfl]

/-- R74: a grant marks nothing in a list of reads that have been issued. -/
theorem record_reads {c : ConsistRecord} {r' : FirstRead} (h : c.firstReads = [r']) (hl : r'.last ≠ .notIssued) :
    { c with firstReads := [r'].map fun x => if x.code = r.code ∧ x.last = .notIssued then { x with last := .issued } else x } = c := by
  rw [List.map_singleton, if_neg fun hc => hl hc.2, ← h]

/-- R24, R74: Unheard, the same GET is offered again. -/
theorem firstRead_again (hx : x.Ending) (hs : x.ReadingFirst p r) (hb : r.notBefore = none) (hp : r.point ≤ 63)
    (hoff : releaseOffered x p = false) : endSettled (firstReadOffer p r) .unheard none x =
      (withReads p [{ r with last := .unheard }] x).granted (firstReadOffer p r) := by
  have hend := (firstReadEnd_cases hs.state hs.reads).2.2.2.2.2.2
  have hrec := posRec_withReads p [{ r with last := .unheard }] x
  have hy : (withReads p [{ r with last := .unheard }] x).Ending := ⟨hx.notices, hx.offers, hx.flight, hx.ended⟩
  have hwy : wantedReading (withReads p [{ r with last := .unheard }] x) p = none := hs.wanted
  have hoffy : releaseOffered (withReads p [{ r with last := .unheard }] x) p = false := hoff
  have hey : exercising (withReads p [{ r with last := .unheard }] x) p = true :=
    decide_eq_true ((stateOf_withReads p _ x).trans hs.state)
  generalize hyd : withReads p [{ r with last := .unheard }] x = y at hend hrec hy hwy hoffy hey
  have hmake : consistOffer p y = setOffers (fun _ => [firstReadOffer p r]) y := by
    have hst : (standing y .consistController 4 (linePos p)).isSome = false := by
      unfold standing
      rw [hy.offers]; rfl
    have hflt : ccInFlight y p = false := by
      unfold ccInFlight flightIs
      rw [hy.ended]
    have hfind : ((posRec y p).firstReads.find? fun x => !ahead y x.notBefore) = some { r with last := .unheard } := by
      rw [hrec, hb]
      rfl
    unfold consistOffer
    rw [hst, hflt, hey, if_neg (by decide), hwy, hfind]
    exact (if_neg (by rw [hoffy]; decide)).trans (hy.only (firstReadOffer_valid hp))
  have hphase : notePhase (firstReadOffer p r) (y.granted (firstReadOffer p r)) = y.granted (firstReadOffer p r) := by
    have hrecs : (posRec (y.granted (firstReadOffer p r)) p).firstReads = [{ r with last := .unheard }] :=
      congrArg (·.firstReads) hrec
    refine (modRec_congr (g := fun z => z) ?_).trans (modRec_self p _)
    rw [hrecs]
    exact record_reads hrecs (fun h => FirstReadEnd.noConfusion h)
  exact settle_grants (o := firstReadOffer p r) (o' := firstReadOffer p r) (k := 2) hx.notices
    (Acts.run (x := .lineEnd (firstReadOffer p r) .unheard none) (ns := [.consistOffer p]) hx.notices hend hy.notices
      (Acts.silent (x := .consistOffer p) hy.notices hmake hy.notices)) hy.notices hy.offers rfl hphase (by decide)

theorem State.ReadingFirst.later (h : s.ReadingFirst p r) (d : Time) : (advanceTo d s).ReadingFirst p r := by
  refine ⟨(stateOf_advanceTo d s p).trans h.state, ?_, h.wanted⟩
  have hrec : (posRec (advanceTo d s) p).firstReads = (posRec s p).firstReads := by
    rw [posRec_advanceTo]; unfold lostAfter; split <;> rfl
  exact hrec.trans h.reads

theorem State.ReadingFirst.at_end (h : s.ReadingFirst p r) (n : Nat) : (setUnheard p n s.over).ReadingFirst p r :=
  ⟨h.state, h.reads, h.wanted⟩

theorem Noted.entry (g : StatusEntry → StatusEntry) (f : Code) (s : State) : Noted (modEntry p f g s) s :=
  ⟨_, s.policy.faults, rfl⟩

/-- Settles O32: the ends of the only first read by its outcome, with the exit test and the step to RUNNING. -/
theorem firstReadsEnd : Obligations.FirstReadsEnd := by
  unfold Obligations.FirstReadsEnd
  intro s p r d hfl he hr hw hb f reply reads entry ends
  have hs : s.ReadingFirst p r := ⟨he, hr, hw⟩
  obtain ⟨hready, hnot, hsilent⟩ := reply_ends hfl (firstReadOffer_addresses p r)
  obtain ⟨hmark, hsens, hact, hsno, -, hnone, -⟩ := firstReadEnd_cases (s := setUnheard p 0 s.over) (p := p) (r := r) he hr
  have hin : inService s p = true := by unfold inService; rw [he]
  have hends : ∀ {answer : Host.Outcome State Fault Refusal} {t : State} {res : CheckResult} {out : LineOutcome} {data : Option Word},
      answer = .next (endSettled (firstReadOffer p r) out data (setUnheard p 0 s.over)) → Noted t s →
      firstReadEnd p r.code r.point out data (setUnheard p 0 s.over) = firstReadDone p r.code res (setUnheard p 0 t.over) →
      ends answer t res := by
    intro answer t res out data hans ht hend
    obtain ⟨hidle, hmet⟩ := firstRead_done ⟨d, hfl⟩ hs ht hend rfl
    exact ⟨fun hm => hans.trans (congrArg _ (hidle hm)),
      fun hm hwarm hsens hnone hdue => hans.trans (congrArg _ (hmet hm hwarm hsens hnone hdue))⟩
  refine ⟨fun hk => ⟨hends (hready _) (Noted.entry _ _ _) (hmark _ hk rfl), fun w hw => hends (hready w) (Noted.entry _ _ _) (hsens w hk hw),
    fun y => hends (hnot y) (Noted.refl s) (hsno hk)⟩, fun hk => ⟨fun w => hends (hready w) (Noted.entry _ _ _) (hact w (by rw [hk]; decide)),
    fun y => (hnot y).trans (congrArg _ (firstRead_held hfl hs hk))⟩,
    fun any y => hends (hsilent any y) ⟨_, _, rfl⟩ hnone, fun hu hp hoff => ?_⟩
  have hend := firstRead_again (hfl.endingLater p (unheardOf s p + 1) d) ((hs.later d).at_end _) hb hp hoff
  exact (unheard_ends hfl (firstReadOffer_addresses p r) (countsSilence_inService hin) hu).trans (congrArg _ hend)

end Sys2Proof.Machine
end

section
/-!
The reads of descriptor words (R42, R47 to R49, R63, R64, R67): what their offers are, and how an identification ends.
-/
namespace Sys2Proof.Machine

variable {s t x y z : State} {p : Pos} {a : Nat} {out : LineOutcome} {data : Option Word}

/-! ## The offers -/

theorem readWord_valid {q : Requester} {c : ArbClass} {why : Purpose} (p : Pos) (h : a ≤ 1023) :
    offerValid { requester := q, cls := c, pos := linePos p, op := .readWord, addr := some a, data := none, why := why } = true := by
  have hp : decide (linePos p ≠ 0) = true := by revert p; decide
  show (decide (linePos p ≠ 0) && (none : Option Word).isNone && addrUpTo 1023 (some a)) = true
  rw [hp]
  exact decide_eq_true h

/-- R48: READ-WORD of header word a. -/
def identRead (p : Pos) (a : Nat) : Offer := consistOfferOf (linePos p) .readWord (some a) none (.identWord p a)

/-- R49, R67: READ-WORD of word a of a description. -/
def streamRead (p : Pos) (a : Nat) : Offer := consistOfferOf (linePos p) .readWord (some a) none (.streamWord p a)

theorem identRead_addresses (p : Pos) (a : Nat) : (identRead p a).Addresses p := ⟨nofun, nofun, rfl⟩
theorem streamRead_addresses (p : Pos) (a : Nat) : (streamRead p a).Addresses p := ⟨nofun, nofun, rfl⟩

theorem identRead_plain (p : Pos) (a : Nat) : (identRead p a).Plain :=
  ⟨rfl, fun s => notePhase_quiet (fun _ h => Purpose.noConfusion h) (fun _ h => Purpose.noConfusion h)
    (fun _ _ h => Purpose.noConfusion h) s⟩

theorem streamRead_plain (p : Pos) (a : Nat) : (streamRead p a).Plain :=
  ⟨rfl, fun s => notePhase_quiet (fun _ h => Purpose.noConfusion h) (fun _ h => Purpose.noConfusion h)
    (fun _ _ h => Purpose.noConfusion h) s⟩

theorem releaseOffered_idle (h : s.consist.release.active = false) (p : Pos) : releaseOffered s p = false := by
  unfold releaseOffered
  rw [h]; rfl

/-- R33: the offer of a block that has none, the line about to be free and no release under way. -/
theorem ccOffer_only {o : Offer} (h : s.Ending) (hr : s.consist.release.active = false) (hv : offerValid o = true) :
    ccOffer p o s = setOffers (fun _ => [o]) s :=
  (if_neg (by rw [releaseOffered_idle hr]; decide)).trans (h.only hv)

theorem offerIdent_only (h : s.Ending) (hr : s.consist.release.active = false) (ha : a ≤ 1023) :
    offerIdent p a s = setOffers (fun _ => [identRead p a]) s := ccOffer_only h hr (readWord_valid p ha)

theorem offerStream_only (h : s.Ending) (hr : s.consist.release.active = false) (ha : a ≤ 1023) :
    offerStream p a s = setOffers (fun _ => [streamRead p a]) s := ccOffer_only h hr (readWord_valid p ha)

/-! ## Stream records -/

theorem streamRec_modStream (p : Pos) (f : StreamRecord → StreamRecord) (s : State) :
    streamRec (modStream p f s) p = f (streamRec s p) := Tab.get_upd_same ..

theorem modStream_modStream (p : Pos) (f g : StreamRecord → StreamRecord) (s : State) :
    modStream p g (modStream p f s) = modStream p (fun r => g (f r)) s := by
  show { s with consist := { s.consist with streams := (s.consist.streams.upd p f).upd p g } } = _
  rw [Tab.upd_upd]; rfl

theorem modStream_congr {f g : StreamRecord → StreamRecord} (h : f (streamRec s p) = g (streamRec s p)) :
    modStream p f s = modStream p g s := by
  unfold modStream
  rw [Tab.upd_congr _ _ h]

theorem posRec_modRec (p : Pos) (f : ConsistRecord → ConsistRecord) (s : State) : posRec (modRec p f s) p = f (posRec s p) :=
  Tab.get_upd_same ..

theorem modStream_at (f : StreamRecord → StreamRecord) (n : Nat) (s : State) :
    modStream p f (setUnheard p n s.over) = setUnheard p n (modStream p f s).over := rfl

theorem modRec_at (f : ConsistRecord → ConsistRecord) (n : Nat) (s : State) :
    modRec p f (setUnheard p n s.over) = setUnheard p n (modRec p f s).over := rfl

theorem granted_over (o : Offer) (n : Nat) (s : State) :
    (setUnheard p n s.over).granted o = setUnheard p n (s.granted o) := rfl

/-- The state with p REJECTED. -/
def rejecting (p : Pos) (s : State) : State :=
  modRec p (fun r => { r with state := .rejected }) (modStream p (fun r => { header := r.header, sum := r.sum }) s)

theorem rejecting_at (n : Nat) (s : State) : rejecting p (setUnheard p n s.over) = setUnheard p n (rejecting p s).over := rfl

/-! ## The end of an identification -/

/-- What the end of header word a finds: the identification of p under way there. -/
structure State.Naming (s : State) (p : Pos) (a : Nat) (ws : List Word) : Prop where
  idle : s.consist.release.active = false
  next : (streamRec s p).identNext = some a
  words : (streamRec s p).identWords = ws

theorem identEnd_cases {ws : List Word} (h : s.Naming p a ws) :
    (∀ w : Word, identEnd p a .ready (some w) s = takeHeaderWord p a w s)
      ∧ identEnd p a .unheard none s = offerIdent p a s
      ∧ identEnd p a .notReady none s = identFails p a .readFailed s
      ∧ identEnd p a .notHeard none s = identFails p a .format s := by
  unfold identEnd
  exact ⟨fun _ => if_pos h.next, if_pos h.next, if_pos h.next, if_pos h.next⟩

/-- R48: the tests of a header word. -/
def Passes (ws : List Word) (a : Nat) (w : Word) : Prop :=
  (a = 0 → w.toNat = 1) ∧ (a = 1 → 16 ≤ w.toNat ∧ w.toNat ≤ 1024)
    ∧ (a = 5 → w.toNat ≤ 12 ∧ 8 + 2 * w.toNat ≤ (ws.getD 1 0).toNat)

theorem headerWordOk_iff (ws : List Word) (a : Nat) (w : Word) : headerWordOk ws a w = true ↔ Passes ws a w := by
  unfold headerWordOk Passes
  split <;> simp_all

theorem takeHeaderWord_cases {ws : List Word} (h : s.Naming p a ws) (w : Word) :
    (¬ Passes ws a w → takeHeaderWord p a w s = identFails p a .badHeader s)
      ∧ (Passes ws a w → a = 7 → takeHeaderWord p a w s = identified p (ws ++ [w]) s)
      ∧ (Passes ws a w → a ≠ 7 → takeHeaderWord p a w s =
        offerIdent p (a + 1) (modStream p (fun r => { r with identNext := some (a + 1), identWords := ws ++ [w] }) s)) := by
  have hok := headerWordOk_iff ws a w
  unfold takeHeaderWord
  rw [h.words]
  dsimp only
  refine ⟨fun hp => if_pos ?_, fun hp ha => ?_, fun hp ha => ?_⟩
  · rw [Bool.eq_false_iff.mpr fun hc => hp (hok.mp hc)]; rfl
  · rw [hok.mpr hp]; exact (if_neg (by decide)).trans (if_pos ha)
  · rw [hok.mpr hp]; exact (if_neg (by decide)).trans (if_neg ha)

/-- R47: what an identification that fails has told, and what its record is. -/
theorem identFails_eq (v : IdentVerdict) : identFails p a v s = emitAll [.identVerdict p v (posRec s p).identity]
    (modStream p (fun r => { r with identNext := none, identWords := [] }) (s.faulted .descriptorBad p none none a)) := rfl

/-- R63: a verdict other than IDENTIFIED rejects an IDENTIFYING position. -/
theorem identVerdict_rejects {v : IdentVerdict} {before : Option Identity} (hs : stateOf s p = .identifying) (hv : v ≠ .identified) :
    identVerdict p v before s = rejecting p s := by
  unfold identVerdict
  rw [hs]
  cases v with
  | identified => exact absurd rfl hv
  | readFailed => rfl
  | format => rfl
  | badHeader => rfl

/-- R47, R63: an identification that fails. -/
theorem ident_fails {v : IdentVerdict} (hx : x.Ending) (hs : stateOf x p = .identifying) (hv : v ≠ .identified)
    (h : identEnd p a out data x = identFails p a v x) :
    endSettled (identRead p a) out data x = (rejecting p (x.faulted .descriptorBad p none none a)).free := by
  let y : State := modStream p (fun r => { r with identNext := none, identWords := [] }) (x.faulted .descriptorBad p none none a)
  have hy : rejecting p y = rejecting p (x.faulted .descriptorBad p none none a) :=
    congrArg (modRec p _) (modStream_modStream ..)
  have hrej : identVerdict p v (posRec x p).identity y = rejecting p (x.faulted .descriptorBad p none none a) :=
    (identVerdict_rejects (s := y) hs hv).trans hy
  exact end_freesTold (o := identRead p a) (k := 1) hx.notices (h.trans (identFails_eq v)) hx.notices
    (Acts.silent (x := .identVerdict p v (posRec x p).identity) hx.notices hrej hx.notices) hx.notices hx.offers (by decide)

/-- R48: a header word that is taken, and one that is read again. -/
theorem ident_next {ws : List Word} (hx : x.Ending) (h : x.Naming p a ws) (ha : a ≤ 7) :
    endSettled (identRead p a) .unheard none x = x.granted (identRead p a)
      ∧ ∀ w : Word, a < 7 → Passes ws a w → endSettled (identRead p a) .ready (some w) x =
        (modStream p (fun r => { r with identNext := some (a + 1), identWords := ws ++ [w] }) x).granted (identRead p (a + 1)) := by
  obtain ⟨hready, hun, -, -⟩ := identEnd_cases h
  refine ⟨end_grants (o := identRead p a) hx.notices (hun.trans (offerIdent_only hx h.idle (by omega))) hx.notices hx.offers
    (identRead_plain p a), fun w hlt hp => ?_⟩
  have hy : (modStream p (fun r => { r with identNext := some (a + 1), identWords := ws ++ [w] }) x).Ending :=
    ⟨hx.notices, hx.offers, hx.flight, hx.ended⟩
  exact end_grants (o := identRead p a) hx.notices ((hready w).trans (((takeHeaderWord_cases h w).2.2 hp (by omega)).trans
    (offerIdent_only hy h.idle (by omega)))) hy.notices hy.offers (identRead_plain p (a + 1))

/-! ## Word 7 -/

/-- R42: the identity of a header. -/
theorem headerOf_eq {ws : List Word} {h : Tab Word 8} (hh : ∀ k, h.get k = ws.getD k.val 0) : headerOf ws = h := by
  refine Tab.ext_get fun k => ?_
  rw [hh]
  exact Tab.get_mapIdx ..

theorem headerSum_eq {ws : List Word} {h : Tab Word 8} (hlen : ws.length = 8) (hh : ∀ k, h.get k = ws.getD k.val 0) :
    headerSum h = ws.foldl (· + ·) 0 := by
  have hlist : h.toList = ws := by
    refine List.ext_getElem (by rw [hlen]; show h.cells.toArray.toList.length = 8; simp) fun i hi hi' => ?_
    have hi8 : i < 8 := by rw [hlen] at hi'; exact hi'
    have hget := hh ⟨i, hi8⟩
    rw [List.getD_eq_getElem _ _ hi'] at hget
    rw [← hget]
    simp [Tab.toList, Tab.get, Vector.get]
  unfold headerSum
  rw [hlist]

/-- R64: the record of a position once its trailer is identified. -/
def describing (p : Pos) (i : Identity) (warm : Bool) (r : StreamRecord) (s : State) : State :=
  modStream p (fun _ => r) (modRec p (fun r => { r with identity := some i, state := .describing, warm := warm }) s)

/-- R48: word 7 taken. -/
def named (p : Pos) (h : Tab Word 8) (s : State) : State :=
  modRec p (fun r => { r with identity := some (identityOf h) })
    (modStream p (fun r => { r with header := some h, identNext := none, identWords := [] }) s)

theorem decideWarm_named (h : Tab Word 8) :
    (rememberedOf s p = none → decideWarm (named p h s) p = (none, false))
      ∧ ∀ r, rememberedOf s p = some r →
        (r.builder ≠ (identityOf h).builder ∨ r.serial ≠ (identityOf h).serial → decideWarm (named p h s) p = (none, false))
          ∧ (r.builder = (identityOf h).builder → r.serial = (identityOf h).serial → r.checksum ≠ (identityOf h).checksum →
            decideWarm (named p h s) p = (none, true))
          ∧ (r.builder = (identityOf h).builder → r.serial = (identityOf h).serial → r.checksum = (identityOf h).checksum →
            decideWarm (named p h s) p = (some r.directory, false)) := by
  have hid : (posRec (named p h s) p).identity = some (identityOf h) := congrArg (·.identity) (posRec_modRec p _ _)
  have hrem : rememberedOf (named p h s) p = rememberedOf s p := rfl
  have hsame : ∀ r : Remembered, sameBuilder r (identityOf h) = true ↔
      r.builder = (identityOf h).builder ∧ r.serial = (identityOf h).serial := by
    intro r; unfold sameBuilder; simp
  unfold decideWarm
  rw [hid, hrem]
  refine ⟨fun hr => by rw [hr], fun r hr => ?_⟩
  rw [hr]
  dsimp only
  refine ⟨fun hne => if_neg fun hs => ?_, fun hb hsn hc => ?_, fun hb hsn hc => ?_⟩
  · obtain ⟨hb, hsn⟩ := (hsame r).mp hs
    exact hne.elim (fun h => h hb) fun h => h hsn
  · exact (if_pos ((hsame r).mpr ⟨hb, hsn⟩)).trans (if_neg hc)
  · exact (if_pos ((hsame r).mpr ⟨hb, hsn⟩)).trans (if_pos hc)

theorem enterDescribing_cold {m : Bool} (h : decideWarm s p = (none, m)) : enterDescribing p s =
    startCold p (modRec p (fun r => { r with warm := false })
      (if m then setMismatch p true (modRec p (fun r => { r with state := .describing }) s)
       else modRec p (fun r => { r with state := .describing }) s)) := by
  unfold enterDescribing; rw [h]

theorem enterDescribing_warm {d : Directory} {m : Bool} (h : decideWarm s p = (some d, m)) : enterDescribing p s =
    startWarm p d (modRec p (fun r => { r with warm := true }) (modRec p (fun r => { r with state := .describing }) s)) := by
  unfold enterDescribing; rw [h]

/-- R49: the record a cold stream starts with. -/
def coldStart (h : Tab Word 8) : StreamRecord := { header := some h, active := true, next := some 8, sum := headerSum h }

theorem startCold_eq {h : Tab Word 8} (hh : (streamRec s p).header = some h) :
    startCold p s = offerStream p 8 (modStream p (fun _ => coldStart h) s) := by
  unfold startCold
  rw [hh]
  refine congrArg (offerStream p 8) (modStream_congr ?_)
  rw [hh]; rfl

/-- R67: the record a warm read starts with. -/
def warmStart (h : Tab Word 8) (d : Directory) (b : Nat) : StreamRecord :=
  { header := some h, active := true, warm := true, directory := d, next := some b }

theorem startWarm_eq {h : Tab Word 8} {d : Directory} {b : Nat} (hh : (streamRec s p).header = some h)
    (hb : (warmAddrs d).head? = some b) : startWarm p d s = offerStream p b (modStream p (fun _ => warmStart h d b) s) := by
  unfold startWarm
  rw [hb]
  refine congrArg (offerStream p b) (modStream_congr ?_)
  rw [hh]; rfl

/-- R64, R49, R67: the decision, and the first word of the description on offer. -/
theorem enterDescribing_reads {h : Tab Word 8} (hx : x.Ending) (hr : x.consist.release.active = false) :
    (decideWarm (named p h x) p = (none, false) → enterDescribing p (named p h x) =
        setOffers (fun _ => [streamRead p 8]) (describing p (identityOf h) false (coldStart h) x))
      ∧ (decideWarm (named p h x) p = (none, true) → enterDescribing p (named p h x) =
        setOffers (fun _ => [streamRead p 8]) (setMismatch p true (describing p (identityOf h) false (coldStart h) x)))
      ∧ ∀ (d : Directory) (m : Bool) (b : Nat), decideWarm (named p h x) p = (some d, m) → (warmAddrs d).head? = some b → b ≤ 1023 →
        enterDescribing p (named p h x) =
          setOffers (fun _ => [streamRead p b]) (describing p (identityOf h) true (warmStart h d b) x) := by
  have hrec : ∀ warm : Bool, modRec p (fun r => { r with warm := warm }) (modRec p (fun r => { r with state := .describing })
      (named p h x)) = modStream p (fun r => { r with header := some h, identNext := none, identWords := [] })
        (modRec p (fun r => { r with identity := some (identityOf h), state := .describing, warm := warm }) x) := by
    intro warm
    unfold named
    rw [modRec_modRec, modRec_modRec]
    rfl
  have hhead : ∀ warm : Bool, (streamRec (modRec p (fun r => { r with warm := warm })
      (modRec p (fun r => { r with state := .describing }) (named p h x))) p).header = some h := fun warm =>
    congrArg (·.header) (streamRec_modStream p (fun r => { r with header := some h, identNext := none, identWords := [] }) x)
  have hmod : ∀ (r : StreamRecord) (warm : Bool), modStream p (fun _ => r) (modRec p (fun r => { r with warm := warm })
      (modRec p (fun r => { r with state := .describing }) (named p h x))) = describing p (identityOf h) warm r x := by
    intro r warm
    rw [hrec]
    exact modStream_modStream ..
  have hstart : ∀ (r : StreamRecord) (warm : Bool) (b : Nat), b ≤ 1023 →
      offerStream p b (describing p (identityOf h) warm r x) =
        setOffers (fun _ => [streamRead p b]) (describing p (identityOf h) warm r x) := fun r warm b hb =>
    offerStream_only (s := describing p (identityOf h) warm r x) ⟨hx.notices, hx.offers, hx.flight, hx.ended⟩ hr hb
  refine ⟨fun hd => ?_, fun hd => ?_, fun d m b hd hb hb' => ?_⟩
  · refine (enterDescribing_cold hd).trans ((startCold_eq (hhead false)).trans ?_)
    rw [hmod]
    exact hstart _ _ _ (by decide)
  · refine (enterDescribing_cold hd).trans ((startCold_eq (s := modRec p (fun r => { r with warm := false }) (setMismatch p true
      (modRec p (fun r => { r with state := .describing }) (named p h x)))) (hhead false)).trans ?_)
    show offerStream p 8 (setMismatch p true (modStream p (fun _ => coldStart h) (modRec p (fun r => { r with warm := false })
      (modRec p (fun r => { r with state := .describing }) (named p h x))))) = _
    rw [hmod]
    exact offerStream_only (s := setMismatch p true (describing p (identityOf h) false (coldStart h) x))
      ⟨hx.notices, hx.offers, hx.flight, hx.ended⟩ hr (by decide)
  · refine (enterDescribing_warm hd).trans ((startWarm_eq (hhead true) hb).trans ?_)
    rw [hmod]
    exact hstart _ _ _ hb'

/-- R48, R63: word 7 of an IDENTIFYING position. -/
theorem word7_ends {ws : List Word} {w : Word} {b : Nat} (hx : x.Ending) (h : x.Naming p 7 ws) (hs : stateOf x p = .identifying)
    (hy : y.notices = []) (ho : y.line.offers = [])
    (henter : enterDescribing p (named p (headerOf (ws ++ [w])) x) = setOffers (fun _ => [streamRead p b]) y) :
    endSettled (identRead p 7) .ready (some w) x = y.granted (streamRead p b) := by
  have hpass : Passes ws 7 w := ⟨fun h => absurd h (by decide), fun h => absurd h (by decide), fun h => absurd h (by decide)⟩
  have hend : identEnd p 7 .ready (some w) x = emitAll [.identVerdict p .identified (posRec x p).identity]
      (named p (headerOf (ws ++ [w])) x) :=
    ((identEnd_cases h).1 w).trans ((takeHeaderWord_cases h w).2.1 hpass rfl)
  have hverdict : identVerdict p .identified (posRec x p).identity (named p (headerOf (ws ++ [w])) x) =
      setOffers (fun _ => [streamRead p b]) y := by
    have hsn : stateOf (named p (headerOf (ws ++ [w])) x) p = .identifying :=
      (congrArg (·.state) (posRec_modRec p _ _)).trans hs
    unfold identVerdict
    rw [hsn]
    exact henter
  exact settle_grants (o := identRead p 7) (k := 2) hx.notices (Acts.run (x := .lineEnd (identRead p 7) .ready (some w)) hx.notices hend hx.notices
    (Acts.silent (x := .identVerdict p .identified (posRec x p).identity) hx.notices hverdict hy)) hy ho
    (streamRead_plain p b).grant ((streamRead_plain p b).phase _) (by decide)

end Sys2Proof.Machine
end

section
/-!
The obligation on the header words (R42, R47 to R49, R63, R64, R67).
-/
namespace Sys2Proof.Machine

variable {s t x y z : State} {p : Pos} {a : Nat} {out : LineOutcome} {data : Option Word}

theorem State.Naming.at_end {ws : List Word} (h : s.Naming p a ws) (n : Nat) : (setUnheard p n s.over).Naming p a ws :=
  ⟨h.idle, h.next, h.words⟩

theorem State.Naming.later {ws : List Word} (h : s.Naming p a ws) (d : Time) : (advanceTo d s).Naming p a ws :=
  ⟨h.idle, h.next, h.words⟩

theorem describing_at (i : Identity) (warm : Bool) (r : StreamRecord) (n : Nat) (s : State) :
    describing p i warm r (setUnheard p n s.over) = setUnheard p n (describing p i warm r s).over := rfl

theorem setMismatch_at (v : Bool) (n : Nat) (s : State) :
    setMismatch p v (setUnheard p n s.over) = setUnheard p n (setMismatch p v s).over := rfl

/-- R67: the first word of a warm read. -/
theorem warmAddrs_head {d : Directory} {g : Group} {e : DirEntry} (hk : kindOfGroup g = .lamp) (hg : d.get g = some e)
    (hlow : ∀ x, x < g → d.get x = none) (hm : 1 ≤ e.members) : (warmAddrs d).head? = some e.locator := by
  have hlt : g.val < 4 := by
    unfold kindOfGroup at hk
    by_contra hc
    rw [if_neg hc] at hk
    split at hk <;> exact FnKind.noConfusion hk
  have hrange : ((List.range (4 * e.members)).map fun i => e.locator + i).head? = some e.locator := by
    obtain ⟨n, hn⟩ := Nat.exists_eq_add_of_le' (show 1 ≤ 4 * e.members by omega)
    rw [hn, List.range_succ_eq_map]
    rfl
  have happend : ∀ rest : List Nat, (((List.range (4 * e.members)).map fun i => e.locator + i) ++ rest).head? = some e.locator := by
    intro rest
    rw [List.head?_append, hrange]; rfl
  have harrays : ∃ rest, lampArrays d = e :: rest := by
    have hcase : g = 0 ∨ g = 1 ∨ g = 2 ∨ g = 3 := by
      rcases g with ⟨v, hv⟩
      have : v < 4 := hlt
      interval_cases v <;> simp
    unfold lampArrays
    rcases hcase with rfl | rfl | rfl | rfl
    · exact ⟨_, List.filterMap_cons_some hg⟩
    · rw [List.filterMap_cons_none (hlow 0 (by decide))]
      exact ⟨_, List.filterMap_cons_some hg⟩
    · rw [List.filterMap_cons_none (hlow 0 (by decide)), List.filterMap_cons_none (hlow 1 (by decide))]
      exact ⟨_, List.filterMap_cons_some hg⟩
    · rw [List.filterMap_cons_none (hlow 0 (by decide)), List.filterMap_cons_none (hlow 1 (by decide)),
        List.filterMap_cons_none (hlow 2 (by decide))]
      exact ⟨_, List.filterMap_cons_some hg⟩
  obtain ⟨rest, hrest⟩ := harrays
  unfold warmAddrs
  rw [hrest, List.flatMap_cons]
  exact happend _

/-- R42, R64: what word 7 leads to, by the remembered record. -/
theorem word7_replies {ws : List Word} {w : Word} {h : Tab Word 8} {d : Time} (hfl : s.InFlight (identRead p 7) d)
    (hn : s.Naming p 7 ws) (hs : stateOf s p = .identifying) (hlen : ws.length = 7) (hh : ∀ k, h.get k = (ws ++ [w]).getD k.val 0) :
    let i := identityOf h
    let cold := (setUnheard p 0 (describing p i false { header := some h, active := true, next := some 8, sum := (ws ++ [w]).foldl (· + ·) 0 }
      s)).granted (streamRead p 8)
    let ends := endSettled (identRead p 7) .ready (some w) (setUnheard p 0 s.over)
    (rememberedOf s p = none → ends = cold)
      ∧ ∀ r : Remembered, rememberedOf s p = some r →
        (r.builder ≠ i.builder ∨ r.serial ≠ i.serial → ends = cold)
          ∧ (r.builder = i.builder → r.serial = i.serial → r.checksum ≠ i.checksum → ends =
            { cold with memory := { s.memory with mismatch := s.memory.mismatch.put p true } })
          ∧ ∀ b, r.builder = i.builder → r.serial = i.serial → r.checksum = i.checksum →
            (warmAddrs r.directory).head? = some b → b ≤ 1023 → ends =
              (setUnheard p 0 (describing p i true (warmStart h r.directory b) s)).granted (streamRead p b) := by
  intro i cold ends
  have hx := hfl.ending p 0
  have hnx := hn.at_end 0
  have hhead : headerOf (ws ++ [w]) = h := headerOf_eq hh
  have hsum : coldStart h = { header := some h, active := true, next := some 8, sum := (ws ++ [w]).foldl (· + ·) 0 } := by
    unfold coldStart
    rw [headerSum_eq (by rw [List.length_append, hlen]; rfl) hh]
  obtain ⟨hcold, hdiff, hwarm⟩ := enterDescribing_reads (h := h) hx hnx.idle
  obtain ⟨hnone, hsome⟩ := decideWarm_named (s := setUnheard p 0 s.over) (p := p) h
  have hplain : ∀ hd : decideWarm (named p h (setUnheard p 0 s.over)) p = (none, false), ends = cold := by
    intro hd
    have hgo := word7_ends (w := w) (b := 8) (y := describing p (identityOf h) false (coldStart h) (setUnheard p 0 s.over)) hx hnx hs
      hx.notices hx.offers (by rw [hhead]; exact hcold hd)
    rw [describing_at, hsum, granted_over] at hgo
    exact hgo
  refine ⟨fun hr => hplain (hnone hr), fun r hr => ?_⟩
  obtain ⟨hother, hsum', hsame⟩ := hsome r hr
  refine ⟨fun hne => hplain (hother hne), fun hb hsn hc => ?_, fun b hb hsn hc hbs hle => ?_⟩
  · have hgo := word7_ends (w := w) (b := 8) (y := setMismatch p true (describing p (identityOf h) false (coldStart h)
      (setUnheard p 0 s.over))) hx hnx hs hx.notices hx.offers (by rw [hhead]; exact hdiff (hsum' hb hsn hc))
    rw [describing_at, hsum, setMismatch_at, granted_over] at hgo
    exact hgo
  · have hgo := word7_ends (w := w) (b := b) (y := describing p (identityOf h) true (warmStart h r.directory b) (setUnheard p 0 s.over))
      hx hnx hs hx.notices hx.offers (by rw [hhead]; exact hwarm r.directory false b (hsame hb hsn hc) hbs hle)
    rw [describing_at, granted_over] at hgo
    exact hgo

/-- Settles O29: the ends of a header word, by its tests, and word 7 by the remembered record. -/
theorem headerWordsAreTaken : Obligations.HeaderWordsAreTaken := by
  unfold Obligations.HeaderWordsAreTaken
  intro s p a ws d read stream hfl hs hrel hnext hwords hlen ha reply heard rejected passes
  have hn : s.Naming p a ws := ⟨hrel, hnext, hwords⟩
  have hx := hfl.ending p 0
  have hnx := hn.at_end 0
  have hsx : stateOf (setUnheard p 0 s.over) p = .identifying := hs
  obtain ⟨hready, hnot, hsilent⟩ := reply_ends hfl (identRead_addresses p a)
  obtain ⟨hword, -, hno, hnone⟩ := identEnd_cases hnx
  have hrej : ∀ {out : LineOutcome} {data : Option Word} {v : IdentVerdict}, v ≠ .identified →
      identEnd p a out data (setUnheard p 0 s.over) = identFails p a v (setUnheard p 0 s.over) →
      Host.Outcome.next (endSettled (identRead p a) out data (setUnheard p 0 s.over)) = rejected := by
    intro out data v hv hend
    have hgo := ident_fails hx hsx hv hend
    rw [faulted_at, rejecting_at, free_at] at hgo
    exact congrArg _ hgo
  have hcount : countsSilence s p = true := by unfold countsSilence; rw [hs]
  refine ⟨fun w hp => (hready w).trans (hrej (by decide) ((hword w).trans ((takeHeaderWord_cases hnx w).1 hp))),
    fun x => (hnot x).trans (hrej (by decide) hno), fun any x => (hsilent any x).trans (hrej (by decide) hnone),
    fun hu => ?_, fun w hlt hp => ?_, fun w h ha7 hh => ?_⟩
  · have hend := (ident_next (hfl.endingLater p (unheardOf s p + 1) d) ((hn.later d).at_end _) ha).1
    exact (unheard_ends hfl (identRead_addresses p a) hcount hu).trans (congrArg _ hend)
  · have hend := (ident_next hx hnx ha).2 w hlt hp
    rw [modStream_at] at hend
    exact (hready w).trans (congrArg _ hend)
  · subst ha7
    obtain ⟨hnone, hsome⟩ := word7_replies (w := w) hfl hn hs hlen hh
    refine ⟨fun hr => (hready w).trans (congrArg _ (hnone hr)), fun r hr => ?_⟩
    obtain ⟨hother, hdiff, hsame⟩ := hsome r hr
    exact ⟨fun hne => (hready w).trans (congrArg _ (hother hne)),
      fun hb hsn hc => (hready w).trans (congrArg _ (hdiff hb hsn hc)),
      fun g e hb hsn hc hk hg hlow hm hle => (hready w).trans (congrArg _ (hsame e.locator hb hsn hc (warmAddrs_head hk hg hlow hm) hle))⟩

end Sys2Proof.Machine
end

section
/-!
The words of a description (R44, R45, R49 to R53, R66, R67): what each one makes of the stream record, and which word is next.
-/
namespace Sys2Proof.Machine

variable {s t x y z : State} {p : Pos} {a : Nat} {out : LineOutcome} {data : Option Word}

/-! ## Where a word lies -/

/-- Word a lies in the array of an entry. -/
def Holds (e : DirEntry) (a : Nat) : Prop := e.locator ≤ a ∧ a < e.locator + 4 * e.members

theorem arrayAt_mem {d : Directory} {g : Group} {e : DirEntry} (hg : d.get g = some e) (ha : Holds e a)
    (hone : ∀ g' e', d.get g' = some e' → Holds e' a → g' = g) : arrayAt d a = some (g, e) := by
  unfold arrayAt
  cases hfind : allGroups.findSome? (fun g => match d.get g with
      | some e => if e.locator ≤ a ∧ a < e.locator + 4 * e.members then some (g, e) else none
      | none => none) with
  | none =>
    rw [List.findSome?_eq_none_iff] at hfind
    have := hfind g (List.mem_finRange g)
    rw [hg] at this
    dsimp only at this
    exact nomatch (if_pos ha).symm.trans this
  | some r =>
    obtain ⟨g', -, hr⟩ := List.exists_of_findSome?_eq_some hfind
    cases hd : d.get g' with
    | none => rw [hd] at hr; exact nomatch hr
    | some e' =>
      rw [hd] at hr
      dsimp only at hr
      by_cases hc : e'.locator ≤ a ∧ a < e'.locator + 4 * e'.members
      · rw [if_pos hc] at hr
        obtain rfl := hone g' e' hd hc
        rw [hg] at hd
        rw [← hr, Option.some.inj hd]
      · rw [if_neg hc] at hr; exact nomatch hr

theorem arrayAt_none {d : Directory} (h : ∀ g e, d.get g = some e → a < e.locator ∨ e.locator + 4 * e.members ≤ a) :
    arrayAt d a = none := by
  unfold arrayAt
  rw [List.findSome?_eq_none_iff]
  intro g _
  cases hd : d.get g with
  | none => rfl
  | some e =>
    dsimp only
    rw [if_neg]
    have := h g e hd
    omega

/-! ## The next word of a warm read -/

theorem itemAfter_skip {xs ys : List Nat} (h : a ∉ xs) : itemAfter a (xs ++ ys) = itemAfter a ys := by
  induction xs with
  | nil => rfl
  | cons x xs ih =>
    have hx : x ≠ a := fun hc => h (hc ▸ List.mem_cons_self ..)
    refine (if_neg hx).trans ?_
    exact ih fun hc => h (List.mem_cons_of_mem _ hc)

/-- The addresses of an array of n words. -/
def run (b n : Nat) : List Nat := (List.range n).map fun i => b + i

theorem run_succ (b n : Nat) : run b (n + 1) = b :: run (b + 1) n := by
  unfold run
  rw [List.range_succ_eq_map, List.map_cons, List.map_map]
  refine congrArg (List.cons _) (List.map_congr_left fun i _ => ?_)
  show b + (i + 1) = b + 1 + i
  omega

theorem run_head {b n : Nat} (h : 1 ≤ n) (rest : List Nat) : (run b n ++ rest).head? = some b := by
  obtain ⟨m, rfl⟩ := Nat.exists_eq_add_of_le' h
  rw [run_succ]; rfl

theorem itemAfter_run {b n : Nat} {ys : List Nat} (h : b ≤ a) (h' : a < b + n) :
    itemAfter a (run b n ++ ys) = if a + 1 < b + n then some (a + 1) else ys.head? := by
  induction n generalizing b with
  | zero => omega
  | succ n ih =>
    rw [run_succ]
    show itemAfter a (b :: (run (b + 1) n ++ ys)) = _
    unfold itemAfter
    by_cases hb : b = a
    · subst hb
      rw [if_pos rfl]
      by_cases hn : 1 ≤ n
      · rw [if_pos (by omega), run_head hn]
      · obtain rfl : n = 0 := by omega
        rw [if_neg (by omega)]; rfl
    · rw [if_neg hb, ih (by omega) (by omega)]
      have : (a + 1 < b + 1 + n) = (a + 1 < b + (n + 1)) := by rw [Nat.add_right_comm, Nat.add_assoc]
      rw [if_congr (iff_of_eq this) rfl rfl]

theorem mem_run {b n : Nat} : a ∈ run b n ↔ b ≤ a ∧ a < b + n := by
  unfold run
  rw [List.mem_map]
  refine ⟨fun ⟨i, hi, he⟩ => ?_, fun h => ⟨a - b, List.mem_range.mpr (by omega), by omega⟩⟩
  have := List.mem_range.mp hi
  omega

/-- R67: the addresses of the arrays of the groups listed. -/
def arrayRuns (d : Directory) (gs : List Group) : List Nat := (gs.filterMap fun g => d.get g).flatMap fun e => run e.locator (4 * e.members)

theorem warmAddrs_eq (d : Directory) : warmAddrs d = arrayRuns d [0, 1, 2, 3] := rfl

theorem arrayRuns_append (d : Directory) (gs hs : List Group) : arrayRuns d (gs ++ hs) = arrayRuns d gs ++ arrayRuns d hs := by
  unfold arrayRuns
  rw [List.filterMap_append, List.flatMap_append]

theorem arrayRuns_cons {d : Directory} {g : Group} {e : DirEntry} (h : d.get g = some e) (gs : List Group) :
    arrayRuns d (g :: gs) = run e.locator (4 * e.members) ++ arrayRuns d gs := by
  unfold arrayRuns
  rw [List.filterMap_cons_some h, List.flatMap_cons]

theorem arrayRuns_none {d : Directory} {gs : List Group} (h : ∀ g ∈ gs, d.get g = none) : arrayRuns d gs = [] := by
  unfold arrayRuns
  rw [List.filterMap_eq_nil_iff.mpr h]; rfl

theorem mem_arrayRuns {d : Directory} {gs : List Group} (h : a ∈ arrayRuns d gs) : ∃ g ∈ gs, ∃ e, d.get g = some e ∧ Holds e a := by
  unfold arrayRuns at h
  obtain ⟨e, he, ha⟩ := List.mem_flatMap.mp h
  obtain ⟨g, hg, hd⟩ := List.mem_filterMap.mp he
  exact ⟨g, hg, e, hd, mem_run.mp ha⟩

theorem lampGroups_split (g : Group) (h : g.val < 4) : ([0, 1, 2, 3] : List Group) =
    ([0, 1, 2, 3] : List Group).filter (fun z => decide (z < g)) ++ g :: ([0, 1, 2, 3] : List Group).filter (fun z => decide (g < z)) := by
  revert g; decide

theorem lampGroups_above (g g' : Group) (h : g < g') (h' : g'.val < 4) :
    ([0, 1, 2, 3] : List Group).filter (fun z => decide (g < z)) =
      ([0, 1, 2, 3] : List Group).filter (fun z => decide (g < z ∧ z < g')) ++
        g' :: ([0, 1, 2, 3] : List Group).filter (fun z => decide (g' < z)) := by
  revert g g'; decide

theorem lamp_lt {g : Group} (h : kindOfGroup g = .lamp) : g.val < 4 := by
  unfold kindOfGroup at h
  by_contra hc
  rw [if_neg hc] at h
  split at h <;> exact FnKind.noConfusion h

/-- R67: after a word of a lamp group's array. -/
theorem itemAfter_warm {d : Directory} {g : Group} {e : DirEntry} (hk : kindOfGroup g = .lamp) (hg : d.get g = some e) (ha : Holds e a)
    (hone : ∀ g' e', d.get g' = some e' → Holds e' a → g' = g) : itemAfter a (warmAddrs d) =
      if a + 1 < e.locator + 4 * e.members then some (a + 1)
      else (arrayRuns d (([0, 1, 2, 3] : List Group).filter fun z => decide (g < z))).head? := by
  have hnot : a ∉ arrayRuns d (([0, 1, 2, 3] : List Group).filter fun z => decide (z < g)) := by
    intro hmem
    obtain ⟨z, hz, e', hd, hh⟩ := mem_arrayRuns hmem
    have hlt := of_decide_eq_true (List.mem_filter.mp hz).2
    exact absurd (hone z e' hd hh) (Fin.ne_of_lt hlt)
  have hsplit := (arrayRuns_append d _ _).symm ▸ congrArg (arrayRuns d) (lampGroups_split g (lamp_lt hk))
  rw [warmAddrs_eq, hsplit, itemAfter_skip hnot, arrayRuns_cons hg, itemAfter_run ha.1 ha.2]

theorem arrayRuns_next {d : Directory} {g g' : Group} {e' : DirEntry} (hk : kindOfGroup g' = .lamp) (hlt : g < g')
    (hg : d.get g' = some e') (hbetween : ∀ z, g < z → z < g' → d.get z = none) (hm : 1 ≤ e'.members) :
    (arrayRuns d (([0, 1, 2, 3] : List Group).filter fun z => decide (g < z))).head? = some e'.locator := by
  have hnone : arrayRuns d (([0, 1, 2, 3] : List Group).filter fun z => decide (g < z ∧ z < g')) = [] := by
    refine arrayRuns_none fun z hz => ?_
    obtain ⟨h1, h2⟩ := of_decide_eq_true (List.mem_filter.mp hz).2
    exact hbetween z h1 h2
  rw [lampGroups_above g g' hlt (lamp_lt hk), arrayRuns_append, hnone, arrayRuns_cons hg]
  exact run_head (by omega) _

/-! ## What a word makes of the stream record -/

/-- R51: the tests of a word B. -/
def EntryPasses (d : Directory) (count length : Nat) (v w : Word) (g : Group) : Prop :=
  v.toNat / 4096 = g.val ∧ 1 ≤ v.toNat % 32 ∧ v.toNat % 32 ≤ 16 ∧ d.get g = none
    ∧ 8 + 2 * count ≤ w.toNat ∧ w.toNat + 4 * (v.toNat % 32) ≤ length
    ∧ ∀ g' e, d.get g' = some e → w.toNat + 4 * (v.toNat % 32) ≤ e.locator ∨ e.locator + 4 * e.members ≤ w.toNat

theorem clear_iff (d : Directory) (e : DirEntry) : ((dirEntries d).all fun o => !arraysOverlap e o) = true ↔
    ∀ g o, d.get g = some o → e.locator + 4 * e.members ≤ o.locator ∨ o.locator + 4 * o.members ≤ e.locator := by
  rw [List.all_eq_true]
  have hpair : ∀ o, (!arraysOverlap e o) = true ↔
      e.locator + 4 * e.members ≤ o.locator ∨ o.locator + 4 * o.members ≤ e.locator := by
    intro o
    unfold arraysOverlap
    simp only [Bool.not_eq_true', Bool.and_eq_false_iff, decide_eq_false_iff_not]
    omega
  refine ⟨fun h g o ho => (hpair o).mp (h o ?_), fun h o ho => ?_⟩
  · exact List.mem_filterMap.mpr ⟨some o, Tab.mem_toList.mpr ⟨g, ho⟩, rfl⟩
  · obtain ⟨x, hx, hxo⟩ := List.mem_filterMap.mp ho
    obtain ⟨g, hg⟩ := Tab.mem_toList.mp hx
    exact (hpair o).mpr (h g o (hg.trans hxo))

theorem dirGroup_eq (v : Word) : dirGroup v = v.toNat / 4096 := by
  have := v.isLt
  unfold dirGroup wordField
  omega

theorem dirMembers_eq (v : Word) : dirMembers v = v.toNat % 32 := by
  unfold dirMembers wordField
  omega

theorem dirEntryOf_eq {v : Word} {c : Fin 8} (hc : c.val = v.toNat / 256 % 8) (w : Word) :
    dirEntryOf v w = { policyClass := c, members := v.toNat % 32, locator := w.toNat } := by
  unfold dirEntryOf
  rw [show dirClass v = c from Fin.ext hc.symm, dirMembers_eq]

theorem testDirEntry_cases (d : Directory) (count length : Nat) (v w : Word) :
    ((∀ g, ¬ EntryPasses d count length v w g) → testDirEntry d count length v w = none)
      ∧ ∀ (g : Group) (c : Fin 8), EntryPasses d count length v w g → c.val = v.toNat / 256 % 8 →
        testDirEntry d count length v w = some (g, { policyClass := c, members := v.toNat % 32, locator := w.toNat }) := by
  refine ⟨fun hno => ?_, fun g c hp hc => ?_⟩
  · unfold testDirEntry
    by_cases hg : dirGroup v < 12
    · rw [dif_pos hg]
      refine if_neg fun hcond => ?_
      have hclear := clear_iff d (dirEntryOf v w)
      rw [dirEntryOf_eq (c := ⟨v.toNat / 256 % 8, Nat.mod_lt _ (by decide)⟩) rfl w] at hcond hclear
      obtain ⟨h1, h2, h3, h4, h5, h6⟩ := hcond
      exact hno ⟨dirGroup v, hg⟩ ⟨(dirGroup_eq v).symm, h1, h2, h3, h4, h5, hclear.mp h6⟩
    · rw [dif_neg hg]
  · obtain ⟨hgv, h1, h2, h3, h4, h5, h6⟩ := hp
    have hgd : dirGroup v = g.val := (dirGroup_eq v).trans hgv
    have hg : dirGroup v < 12 := by rw [hgd]; exact g.isLt
    have hge : (⟨dirGroup v, hg⟩ : Group) = g := Fin.ext hgd
    have hclear := clear_iff d (dirEntryOf v w)
    unfold testDirEntry
    rw [dirEntryOf_eq hc w] at hclear ⊢
    rw [dif_pos hg, hge]
    exact if_pos ⟨h1, h2, h3, h4, h5, hclear.mpr h6⟩

/-- R50, R51: the interpretation of a word of the directory, and of one beyond it. -/
theorem interpretWord_cases (h : Tab Word 8) (a : Nat) (w : Word) (r : StreamRecord) :
    (a < 8 + 2 * (h.get 5).toNat → r.wordA = none → interpretWord h a w r = some { r with wordA := some w })
      ∧ (∀ v, a < 8 + 2 * (h.get 5).toNat → r.wordA = some v →
        ((∀ g, ¬ EntryPasses r.directory (h.get 5).toNat (h.get 1).toNat v w g) → interpretWord h a w r = none)
          ∧ ∀ (g : Group) (c : Fin 8), EntryPasses r.directory (h.get 5).toNat (h.get 1).toNat v w g →
            c.val = v.toNat / 256 % 8 → interpretWord h a w r = some { r with
              directory := r.directory.put g (some { policyClass := c, members := v.toNat % 32, locator := w.toNat })
              taken := r.taken + 1, wordA := none })
      ∧ (8 + 2 * (h.get 5).toNat ≤ a → arrayAt r.directory a = none → interpretWord h a w r = some r)
      ∧ ∀ g e, 8 + 2 * (h.get 5).toNat ≤ a → arrayAt r.directory a = some (g, e) →
        interpretWord h a w r = some (takeRecordWord g e a w r) := by
  unfold interpretWord
  refine ⟨fun ha hw => ?_, fun v ha hw => ?_, fun ha hn => ?_, fun g e ha hg => ?_⟩
  · rw [if_pos ha, hw]
  · rw [if_pos ha, hw]
    obtain ⟨hno, hyes⟩ := testDirEntry_cases r.directory (h.get 5).toNat (h.get 1).toNat v w
    refine ⟨fun hp => ?_, fun g c hp hc => ?_⟩
    · dsimp only; rw [hno hp]; rfl
    · dsimp only; rw [hyes g c hp hc]; rfl
  · rw [if_neg (by omega), hn]
  · rw [if_neg (by omega), hg]

theorem codeOf_memberAt {g : Group} {e : DirEntry} {f : Code} (ha : Holds e a) (hm : e.members ≤ 16)
    (hf : f.val = 16 * g.val + (a - e.locator) / 4) : codeOf g (memberAt e a) = f := by
  refine Fin.ext ?_
  show 16 * g.val + (a - e.locator) / 4 % 16 = f.val
  obtain ⟨h1, h2⟩ := ha
  rw [hf, Nat.mod_eq_of_lt (by omega)]

theorem groupOf_of {g : Group} {e : DirEntry} {f : Code} (ha : Holds e a) (hm : e.members ≤ 16)
    (hf : f.val = 16 * g.val + (a - e.locator) / 4) : groupOf f = g := by
  refine Fin.ext ?_
  show f.val / 16 = g.val
  obtain ⟨h1, h2⟩ := ha
  omega

theorem insertByAddr_last {α : Type} {addr : α → Nat} {x : α} {xs : List α} (h : ∀ i ∈ xs, addr i ≤ addr x) :
    insertByAddr addr x xs = xs ++ [x] := by
  induction xs with
  | nil => rfl
  | cons y ys ih =>
    unfold insertByAddr
    rw [if_neg (Nat.not_lt.mpr (h y (List.mem_cons_self ..))), ih fun i hi => h i (List.mem_cons_of_mem _ hi)]
    rfl

theorem capture_last {α : Type} {addr : α → Nat} {x : α} {xs : List α} (hl : xs.length < 64) (h : ∀ i ∈ xs, addr i ≤ addr x) :
    capture addr x xs = xs ++ [x] := (if_pos hl).trans (insertByAddr_last h)

/-- R52: the capture of a completed record. -/
theorem captureRecord_cases (f : Code) (c : FnRecord) (r : StreamRecord) :
    (unusableRecord (groupOf f) c = true ∨ kindOf f ≠ .lamp → captureRecord f c r = r)
      ∧ (unusableRecord (groupOf f) c = false → kindOf f = .lamp → c.feed = .wired → r.wires.length < 64 →
        (∀ i ∈ r.wires, recordAddr r.directory i.code ≤ recordAddr r.directory f) → captureRecord f c r = { r with
          wires := r.wires ++ [{ circuit := circuitOf c, code := f, nominal := c.nominal, loadKind := c.loadKind }] })
      ∧ (unusableRecord (groupOf f) c = false → kindOf f = .lamp → c.feed = .node → c.required = false → captureRecord f c r = r)
      ∧ (unusableRecord (groupOf f) c = false → kindOf f = .lamp → c.feed = .node → c.required = true → r.required.length < 64 →
        (∀ f' ∈ r.required, recordAddr r.directory f' ≤ recordAddr r.directory f) →
        captureRecord f c r = { r with required := r.required ++ [f] }) := by
  have hcond : unusableRecord (groupOf f) c = false → kindOf f = .lamp →
      (unusableRecord (groupOf f) c || decide (kindOf f ≠ .lamp)) = false := by
    intro hu hk
    rw [hu, decide_eq_false (fun hc => hc hk)]; rfl
  unfold captureRecord
  refine ⟨fun h => if_pos ?_, fun hu hk hf hl hb => ?_, fun hu hk hf hr => ?_, fun hu hk hf hr hl hb => ?_⟩
  · rcases h with h | h
    · rw [h]; rfl
    · rw [decide_eq_true h, Bool.or_true]
  · rw [hcond hu hk, if_neg (by decide), hf]
    dsimp only
    rw [capture_last hl hb]
  · rw [hcond hu hk, if_neg (by decide), hf]
    dsimp only
    rw [hr]; rfl
  · rw [hcond hu hk, if_neg (by decide), hf]
    dsimp only
    rw [hr, if_pos rfl, capture_last hl hb]

/-- R50: a word of a record joins the buffer, and the fourth empties it. -/
theorem takeRecordWord_cases {g : Group} {e : DirEntry} {f : Code} (hf : codeOf g (memberAt e a) = f) (w : Word) (r : StreamRecord) :
    ((a - e.locator) % 4 ≠ 3 → takeRecordWord g e a w r = { r with buffer := r.buffer ++ [w], bufferOf := some f })
      ∧ ∀ w0 w1 w2, (a - e.locator) % 4 = 3 → r.buffer = [w0, w1, w2] →
        takeRecordWord g e a w r = { captureRecord f (fnRecordOf w0 w1 w2 w) r with buffer := [], bufferOf := none } := by
  unfold takeRecordWord
  rw [hf]
  refine ⟨fun h => ?_, fun w0 w1 w2 h hb => ?_⟩
  · dsimp only
    split
    · exact absurd ‹_› h
    · rfl
  · rw [h, hb]; rfl

theorem captureRecord_keeps (f : Code) (c : FnRecord) (r : StreamRecord) :
    (captureRecord f c r).header = r.header ∧ (captureRecord f c r).sum = r.sum := by
  unfold captureRecord
  split
  · exact ⟨rfl, rfl⟩
  · split
    · exact ⟨rfl, rfl⟩
    · split <;> exact ⟨rfl, rfl⟩

theorem takeRecordWord_keeps (g : Group) (e : DirEntry) (a : Nat) (w : Word) (r : StreamRecord) :
    (takeRecordWord g e a w r).header = r.header ∧ (takeRecordWord g e a w r).sum = r.sum := by
  unfold takeRecordWord
  dsimp only
  split
  · exact captureRecord_keeps _ _ r
  · exact ⟨rfl, rfl⟩

end Sys2Proof.Machine
end

section
/-!
The obligation on the words of a cold stream and of a warm read (R44 to R47, R49 to R53, R66, R67).
-/
namespace Sys2Proof.Machine

variable {s t x y z : State} {p : Pos} {a : Nat} {out : LineOutcome} {data : Option Word}

/-- What the end of word a of a description finds: the stream of p under way there. -/
structure State.Taking (s : State) (p : Pos) (a : Nat) : Prop where
  idle : s.consist.release.active = false
  state : stateOf s p = .describing
  active : (streamRec s p).active = true
  next : (streamRec s p).next = some a

theorem State.Taking.at_end (h : s.Taking p a) (n : Nat) : (setUnheard p n s.over).Taking p a :=
  ⟨h.idle, h.state, h.active, h.next⟩

theorem State.Taking.later (h : s.Taking p a) (d : Time) : (advanceTo d s).Taking p a :=
  ⟨h.idle, (stateOf_advanceTo d s p).trans h.state, h.active, h.next⟩

theorem streamRec_at (n : Nat) (s : State) : streamRec (setUnheard p n s.over) p = streamRec s p := rfl

/-- R47: the ends of a word, by the kind of description. -/
theorem streamEnd_cases (h : s.Taking p a) :
    (∀ (w : Word) (hd : Tab Word 8), (streamRec s p).warm = false → (streamRec s p).header = some hd →
        streamEnd p a .ready (some w) s = takeColdWord p hd a w s)
      ∧ (∀ w : Word, (streamRec s p).warm = true → streamEnd p a .ready (some w) s = takeWarmWord p a w s)
      ∧ streamEnd p a .unheard none s = offerStream p a s
      ∧ streamEnd p a .notReady none s = streamFails p a s ∧ streamEnd p a .notHeard none s = streamFails p a s := by
  have hcond : ((streamRec s p).active && decide ((streamRec s p).next = some a) && decide (stateOf s p = .describing)) = true := by
    rw [h.active, decide_eq_true h.next, decide_eq_true h.state]; rfl
  unfold streamEnd
  refine ⟨fun w hd hw hh => (if_pos hcond).trans ?_, fun w hw => (if_pos hcond).trans (if_pos hw), if_pos hcond, if_pos hcond,
    if_pos hcond⟩
  refine (if_neg (by rw [hw]; decide)).trans ?_
  rw [hh]
  rfl

/-- R47: a word that fails, or one that leaves a sum other than 0. -/
theorem stream_rejects {sum : Word} {kind : FaultKind} {detail : Nat} {hd : Option (Tab Word 8)} {f : StreamRecord → StreamRecord}
    (hx : x.Ending) (hf : f (streamRec x p) = { f (streamRec x p) with header := hd, sum := sum })
    (h : streamEnd p a out data x = reject p ((modStream p f x).faulted kind p none none detail)) :
    endSettled (streamRead p a) out data x = (modRec p (fun r => { r with state := .rejected })
      (modStream p (fun _ => { header := hd, sum := sum }) (x.faulted kind p none none detail))).free := by
  have hrej : reject p ((modStream p f x).faulted kind p none none detail) = modRec p (fun r => { r with state := .rejected })
      (modStream p (fun _ => { header := hd, sum := sum }) (x.faulted kind p none none detail)) := by
    refine congrArg (modRec p _) ?_
    show modStream p _ (modStream p f (x.faulted kind p none none detail)) = _
    rw [modStream_modStream]
    refine modStream_congr ?_
    show ({ header := (f (streamRec x p)).header, sum := (f (streamRec x p)).sum } : StreamRecord) = _
    rw [hf]
  have hgo := settle_frees (o := streamRead p a) (out := out) (data := data) (k := 1) hx.notices
    (Acts.silent (x := .lineEnd (streamRead p a) out data) (t := modRec p (fun r => { r with state := .rejected })
      (modStream p (fun _ => { header := hd, sum := sum }) (x.faulted kind p none none detail))) hx.notices (h.trans hrej) hx.notices)
    hx.notices hx.offers (by decide)
  exact hgo

theorem stream_again (hx : x.Ending) (h : x.Taking p a) (ha : a ≤ 1023) :
    endSettled (streamRead p a) .unheard none x = x.granted (streamRead p a) := by
  obtain ⟨-, -, hun, -⟩ := streamEnd_cases h
  exact end_grants (o := streamRead p a) hx.notices (hun.trans (offerStream_only hx h.idle ha)) hx.notices hx.offers (streamRead_plain p a)

/-- R50: the next word. -/
theorem stream_goesOn {b : Nat} {r : StreamRecord} (hx : x.Ending) (h : x.Taking p a) (hb : b ≤ 1023)
    (hend : streamEnd p a out data x = offerStream p b (modStream p (fun _ => r) x)) :
    endSettled (streamRead p a) out data x = (modStream p (fun _ => r) x).granted (streamRead p b) :=
  end_grants (o := streamRead p a) hx.notices
    (hend.trans (offerStream_only (s := modStream p (fun _ => r) x) ⟨hx.notices, hx.offers, hx.flight, hx.ended⟩ h.idle hb))
    hx.notices hx.offers (streamRead_plain p b)

/-- R50, R53: word a of a cold stream, by its interpretation. -/
theorem takeColdWord_cases (hd : Tab Word 8) (w : Word) (s : State) :
    (interpretWord hd a w { streamRec s p with sum := (streamRec s p).sum + w } = none →
        takeColdWord p hd a w s = streamFails p a (modStream p (fun r => { r with sum := r.sum + w }) s))
      ∧ ∀ r, interpretWord hd a w { streamRec s p with sum := (streamRec s p).sum + w } = some r →
        (a + 1 < (hd.get 1).toNat → takeColdWord p hd a w s =
          offerStream p (a + 1) (modStream p (fun _ => { r with next := some (a + 1) }) s))
          ∧ (¬ a + 1 < (hd.get 1).toNat → takeColdWord p hd a w s = coldEnds p (modStream p (fun _ => r) s)) := by
  unfold takeColdWord
  refine ⟨fun h => by rw [h], fun r h => ?_⟩
  rw [h]
  exact ⟨fun hl => if_pos hl, fun hl => if_neg hl⟩

/-- R50: the interpretation of a word keeps the header and the sum. -/
theorem interpretWord_keeps {hd : Tab Word 8} {w : Word} {r r' : StreamRecord} (ha : 8 + 2 * (hd.get 5).toNat ≤ a)
    (h : interpretWord hd a w r = some r') : r'.header = r.header ∧ r'.sum = r.sum := by
  obtain ⟨-, -, hnone, hsome⟩ := interpretWord_cases hd a w r
  cases harr : arrayAt r.directory a with
  | none =>
    rw [hnone ha harr] at h
    rw [← Option.some.inj h]
    exact ⟨rfl, rfl⟩
  | some ge =>
    obtain ⟨g, e⟩ := ge
    rw [hsome g e ha harr] at h
    rw [← Option.some.inj h]
    exact takeRecordWord_keeps g e a w r

theorem interpretWord_beyond {hd : Tab Word 8} (w : Word) (r : StreamRecord) (ha : 8 + 2 * (hd.get 5).toNat ≤ a) :
    ∃ r', interpretWord hd a w r = some r' := by
  obtain ⟨-, -, hnone, hsome⟩ := interpretWord_cases hd a w r
  cases harr : arrayAt r.directory a with
  | none => exact ⟨_, hnone ha harr⟩
  | some ge => exact ⟨_, hsome ge.1 ge.2 ha harr⟩

/-- R67: word a of a warm read that lies in an array, by the word after it. -/
theorem takeWarmWord_next {g : Group} {e : DirEntry} {b : Nat} {w : Word} (harr : arrayAt (streamRec s p).directory a = some (g, e))
    (hb : itemAfter a (warmAddrs (streamRec s p).directory) = some b) : takeWarmWord p a w s =
      offerStream p b (modStream p (fun _ => { takeRecordWord g e a w (streamRec s p) with next := some b }) s) := by
  unfold takeWarmWord
  dsimp only
  rw [harr, hb]

/-- What the words of a description find at the end of a transaction to p. -/
structure State.AtWord (s : State) (p : Pos) (a : Nat) (hd : Tab Word 8) : Prop where
  flight : ∃ d, s.InFlight (streamRead p a) d
  taking : s.Taking p a
  header : (streamRec s p).header = some hd

/-- R50: a cold word that is taken, with more to come. -/
theorem cold_goesOn {hd : Tab Word 8} {w : Word} {y : StreamRecord} (h : s.AtWord p a hd) (hw : (streamRec s p).warm = false)
    (hint : interpretWord hd a w { streamRec s p with sum := (streamRec s p).sum + w } = some { y with sum := (streamRec s p).sum + w })
    (hl : a + 1 < (hd.get 1).toNat) (ha : a < 1023) : endSettled (streamRead p a) .ready (some w) (setUnheard p 0 s.over) =
      setUnheard p 0 (State.granted (streamRead p (a + 1))
        (modStream p (fun _ => { y with sum := (streamRec s p).sum + w, next := some (a + 1) }) s)) := by
  obtain ⟨d, hfl⟩ := h.flight
  have htx := h.taking.at_end 0
  have hend := stream_goesOn (b := a + 1) (hfl.ending p 0) htx (by omega)
    (((streamEnd_cases htx).1 w hd hw h.header).trans (((takeColdWord_cases hd w (setUnheard p 0 s.over)).2 _ hint).1 hl))
  rw [modStream_at, granted_over] at hend
  exact hend

/-- R51, R53: a cold word that rejects the position. -/
theorem cold_rejects {hd : Tab Word 8} {w : Word} (h : s.AtWord p a hd) (hw : (streamRec s p).warm = false) :
    (interpretWord hd a w { streamRec s p with sum := (streamRec s p).sum + w } = none →
        endSettled (streamRead p a) .ready (some w) (setUnheard p 0 s.over) = setUnheard p 0 (State.free
          (modRec p (fun r => { r with state := .rejected }) (modStream p (fun _ => { header := some hd, sum := (streamRec s p).sum + w })
            (s.faulted .descriptorBad p none none a)))))
      ∧ (8 + 2 * (hd.get 5).toNat ≤ a → a + 1 = (hd.get 1).toNat → (streamRec s p).sum + w ≠ 0 →
        endSettled (streamRead p a) .ready (some w) (setUnheard p 0 s.over) = setUnheard p 0 (State.free
          (modRec p (fun r => { r with state := .rejected }) (modStream p (fun _ => { header := some hd, sum := (streamRec s p).sum + w })
            (s.faulted .checksumBad p none none ((streamRec s p).sum + w).toNat))))) := by
  obtain ⟨d, hfl⟩ := h.flight
  have htx := h.taking.at_end 0
  have hready := (streamEnd_cases htx).1 w hd hw h.header
  obtain ⟨hnone, hsome⟩ := takeColdWord_cases (p := p) (a := a) hd w (setUnheard p 0 s.over)
  refine ⟨fun hint => ?_, fun ha hl hsum => ?_⟩
  · have hend := stream_rejects (hd := some hd) (sum := (streamRec s p).sum + w) (kind := .descriptorBad) (detail := a)
      (f := fun r => { r with sum := r.sum + w }) (hfl.ending p 0)
      (by rw [streamRec_at, ← h.header]) (hready.trans (hnone hint))
    rw [faulted_at, modStream_at, modRec_at, free_at] at hend
    exact hend
  · obtain ⟨r, hint⟩ := interpretWord_beyond w { streamRec s p with sum := (streamRec s p).sum + w } ha
    obtain ⟨hh, hs⟩ := interpretWord_keeps ha hint
    have hhd : r.header = some hd := hh.trans h.header
    have hsm : r.sum = (streamRec s p).sum + w := hs
    have hlast := (hsome r hint).2 (by omega)
    have hcold : coldEnds p (modStream p (fun _ => r) (setUnheard p 0 s.over)) = reject p
        ((modStream p (fun _ => r) (setUnheard p 0 s.over)).faulted .checksumBad p none none ((streamRec s p).sum + w).toNat) := by
      unfold coldEnds
      rw [streamRec_modStream, hs]
      exact if_neg hsum
    have hend := stream_rejects (hd := some hd) (sum := (streamRec s p).sum + w) (kind := .checksumBad)
      (detail := ((streamRec s p).sum + w).toNat) (f := fun _ => r) (hfl.ending p 0)
      (by rw [← hhd, ← hsm]) (hready.trans (hlast.trans hcold))
    rw [faulted_at, modStream_at, modRec_at, free_at] at hend
    exact hend

/-- R67: a warm word that is taken, with more to come. -/
theorem warm_goesOn {hd : Tab Word 8} {g : Group} {e : DirEntry} {w : Word} {b : Nat} (h : s.AtWord p a hd)
    (hw : (streamRec s p).warm = true) (harr : arrayAt (streamRec s p).directory a = some (g, e))
    (hb : itemAfter a (warmAddrs (streamRec s p).directory) = some b) (hle : b ≤ 1023) :
    endSettled (streamRead p a) .ready (some w) (setUnheard p 0 s.over) = setUnheard p 0 (State.granted (streamRead p b)
      (modStream p (fun _ => { takeRecordWord g e a w (streamRec s p) with next := some b }) s)) := by
  obtain ⟨d, hfl⟩ := h.flight
  have htx := h.taking.at_end 0
  have hend := stream_goesOn (b := b) (hfl.ending p 0) htx hle
    (((streamEnd_cases htx).2.1 w hw).trans (takeWarmWord_next (s := setUnheard p 0 s.over) harr hb))
  rw [modStream_at, granted_over, streamRec_at] at hend
  exact hend

/-- R50, R67: a word of an array, where it is taken for y. -/
theorem array_goesOn {hd : Tab Word 8} {g : Group} {e : DirEntry} {w : Word} {y : StreamRecord} (h : s.AtWord p a hd)
    (hg : (streamRec s p).directory.get g = some e) (ha : Holds e a)
    (hone : ∀ g' e', (streamRec s p).directory.get g' = some e' → Holds e' a → g' = g)
    (hy : ∀ c, takeRecordWord g e a w { streamRec s p with sum := c } = { y with sum := c }) (hys : y.sum = (streamRec s p).sum) :
    ((streamRec s p).warm = false → 8 + 2 * (hd.get 5).toNat ≤ a → a + 1 < (hd.get 1).toNat → a < 1023 →
        endSettled (streamRead p a) .ready (some w) (setUnheard p 0 s.over) = setUnheard p 0 (State.granted (streamRead p (a + 1))
          (modStream p (fun _ => { y with sum := (streamRec s p).sum + w, next := some (a + 1) }) s)))
      ∧ ((streamRec s p).warm = true → kindOfGroup g = .lamp → a + 1 < e.locator + 4 * e.members → a < 1023 →
        endSettled (streamRead p a) .ready (some w) (setUnheard p 0 s.over) = setUnheard p 0 (State.granted (streamRead p (a + 1))
          (modStream p (fun _ => { y with next := some (a + 1) }) s)))
      ∧ ∀ (g' : Group) (e' : DirEntry), (streamRec s p).warm = true → kindOfGroup g' = .lamp → a + 1 = e.locator + 4 * e.members →
        g < g' → (streamRec s p).directory.get g' = some e' → (∀ z, g < z → z < g' → (streamRec s p).directory.get z = none) →
        1 ≤ e'.members → e'.locator ≤ 1023 → endSettled (streamRead p a) .ready (some w) (setUnheard p 0 s.over) =
          setUnheard p 0 (State.granted (streamRead p e'.locator) (modStream p (fun _ => { y with next := some e'.locator }) s)) := by
  have harr := arrayAt_mem hg ha hone
  have hwarm : takeRecordWord g e a w (streamRec s p) = y :=
    (hy (streamRec s p).sum).trans (by rw [← hys])
  refine ⟨fun hw hbeyond hl hlt => ?_, fun hw hk hl hlt => ?_, fun g' e' hw hk hl hlt hg' hbetween hm hle => ?_⟩
  · exact cold_goesOn h hw (((interpretWord_cases hd a w { streamRec s p with sum := (streamRec s p).sum + w }).2.2.2 g e hbeyond harr).trans
      (congrArg some (hy _))) hl hlt
  · have hgo := warm_goesOn (w := w) h hw harr ((itemAfter_warm hk hg ha hone).trans (if_pos hl)) (by omega)
    rw [hwarm] at hgo
    exact hgo
  · have hkg : kindOfGroup g = .lamp := if_pos (Nat.lt_trans hlt (lamp_lt hk))
    have hgo := warm_goesOn (w := w) h hw harr ((itemAfter_warm hkg hg ha hone).trans ((if_neg (by omega)).trans
      (arrayRuns_next hk hlt hg' hbetween hm))) hle
    rw [hwarm] at hgo
    exact hgo

/-- Settles O30: the ends of a word of a description, by where it lies and what it holds. -/
theorem streamWordsAreTaken : Obligations.StreamWordsAreTaken := by
  unfold Obligations.StreamWordsAreTaken
  intro s p a h d read hfl hs hrel x hact hnext hhead ha count length reply heard rejected next cold
  have hword : s.AtWord p a h := ⟨⟨d, hfl⟩, ⟨hrel, hs, hact, hnext⟩, hhead⟩
  have hx := hfl.ending p 0
  have htx := hword.taking.at_end 0
  obtain ⟨hready, hnot, hsilent⟩ := reply_ends hfl (streamRead_addresses p a)
  obtain ⟨-, -, -, hno, hnone⟩ := streamEnd_cases htx
  have hrej : ∀ {out : LineOutcome} {data : Option Word}, streamEnd p a out data (setUnheard p 0 s.over) =
      streamFails p a (setUnheard p 0 s.over) →
      Host.Outcome.next (endSettled (streamRead p a) out data (setUnheard p 0 s.over)) = rejected x.sum .descriptorBad a := by
    intro out data hend
    have hid : modStream p (fun r => r) (setUnheard p 0 s.over) = setUnheard p 0 s.over := by
      unfold modStream
      rw [Tab.upd_eq_self _ _ rfl]
    have hgo := stream_rejects (hd := some h) (sum := x.sum) (kind := .descriptorBad) (detail := a) (f := fun r => r) hx
      (by rw [streamRec_at, ← hhead]) (hend.trans (by rw [hid]; rfl))
    rw [faulted_at, modStream_at, modRec_at, free_at] at hgo
    exact congrArg _ hgo
  have hcount : countsSilence s p = true := by unfold countsSilence; rw [hs]
  have hcold : ∀ (w : Word) (y : StreamRecord), x.warm = false →
      interpretWord h a w { x with sum := x.sum + w } = some { y with sum := x.sum + w } → cold w y :=
    fun w y hw hint hl hlt => (hready w).trans (congrArg _ (cold_goesOn hword hw hint hl hlt))
  refine ⟨fun y => (hnot y).trans (hrej hno), fun any y => (hsilent any y).trans (hrej hnone), fun hu => ?_,
    fun w hw hlow => ?_, fun w hw hbeyond hl hsum => ?_, fun w hw hbeyond hout => ?_, ?_⟩
  · have hend := stream_again (hfl.endingLater p (unheardOf s p + 1) d) ((hword.taking.later d).at_end _) ha
    exact (unheard_ends hfl (streamRead_addresses p a) hcount hu).trans (congrArg _ hend)
  · obtain ⟨hA, hB, -, -⟩ := interpretWord_cases h a w { x with sum := x.sum + w }
    refine ⟨fun hwa => hcold w _ hw (hA hlow hwa), fun v hwa => ?_⟩
    obtain ⟨hfail, hpass⟩ := hB v hlow hwa
    exact ⟨fun hp => (hready w).trans (congrArg _ ((cold_rejects hword hw).1 (hfail hp))),
      fun g c hp hc => hcold w _ hw (hpass g c hp hc)⟩
  · exact (hready w).trans (congrArg _ ((cold_rejects hword hw).2 hbeyond hl hsum))
  · obtain ⟨-, -, hpast, -⟩ := interpretWord_cases h a w { x with sum := x.sum + w }
    exact hcold w x hw (hpast hbeyond (arrayAt_none hout))
  · intro g e f hg hlo hhi hone hm hf goesOn
    have hholds : Holds e a := ⟨hlo, hhi⟩
    have hcode : codeOf g (memberAt e a) = f := codeOf_memberAt hholds hm hf
    have hgf : groupOf f = g := groupOf_of hholds hm hf
    have hgoes : ∀ (w : Word) (y : StreamRecord), (∀ c, takeRecordWord g e a w { x with sum := c } = { y with sum := c }) →
        y.sum = x.sum → goesOn w y := by
      intro w y hy hys
      obtain ⟨hcold', hwithin, hacross⟩ := array_goesOn hword hg hholds (fun g' e' hd hh => hone g' e' hd hh.1 hh.2) hy hys
      exact ⟨fun hw hbeyond hl hlt => (hready w).trans (congrArg _ (hcold' hw hbeyond hl hlt)),
        fun hw hk hl hlt => (hready w).trans (congrArg _ (hwithin hw hk hl hlt)),
        fun g' e' hw hk hl hlt hg' hb hm hle => (hready w).trans (congrArg _ (hacross g' e' hw hk hl hlt hg' hb hm hle))⟩
    refine ⟨fun w hmod => hgoes w _ (fun c => (takeRecordWord_cases hcode w _).1 hmod) rfl, fun w0 w1 w2 w hmod hbuf => ?_⟩
    intro r y item below
    have htake : ∀ c, takeRecordWord g e a w { x with sum := c } =
        { captureRecord f r { x with sum := c } with buffer := [], bufferOf := none } :=
      fun c => (takeRecordWord_cases hcode w { x with sum := c }).2 w0 w1 w2 hmod hbuf
    have hcap := fun c => captureRecord_cases f r { x with sum := c }
    rw [hgf] at hcap
    refine ⟨fun hun => hgoes w y (fun c => ?_) rfl, fun hu hk hfeed hlen hbelow => hgoes w _ (fun c => ?_) rfl,
      fun hu hk hfeed hreq => hgoes w y (fun c => ?_) rfl, fun hu hk hfeed hreq hlen hbelow => hgoes w _ (fun c => ?_) rfl⟩
    · rw [htake, (hcap c).1 hun]
    · rw [htake, (hcap c).2.1 hu hk hfeed hlen hbelow]
    · rw [htake, (hcap c).2.2.1 hu hk hfeed hreq]
    · rw [htake, (hcap c).2.2.2 hu hk hfeed hreq hlen hbelow]

end Sys2Proof.Machine
end

section
/-!
The steps of entering EXERCISING and of leaving it for RUNNING at once (R70, R76, R94, R135, R164, R186), where nothing is due.
-/
namespace Sys2Proof.Machine

variable {s t x y z : State} {p : Pos} {f : Code}

/-! ## The entry notice of the Delivery Unit -/

/-- R96: nothing is owed, due or read at p: every target is the delivered value. -/
structure State.Still (s : State) (p : Pos) : Prop where
  owed : s.delivery.owed.get p = []
  read : s.delivery.pendingRead = none
  met : ∀ f v, targetOf s p f = some v → (entryOf s p f).delivered = some v
  times : ∀ f, (entryOf s p f).nextRead = none

theorem State.Still.dueReads (h : s.Still p) : dueReads s p = [] := by
  rw [dueReads_nil]
  intro f _
  unfold dueRead
  dsimp only
  rw [h.times f]

theorem State.Still.atRest (h : s.Still p) (ho : ∀ o ∈ s.line.offers, o.requester ≠ .deliveryUnit) : s.AtRest p := by
  have hst : ∀ c, standing s .deliveryUnit c (linePos p) = none := by
    intro c
    unfold standing
    rw [List.find?_eq_none]
    intro o hmem hc
    simp only [Bool.and_eq_true, decide_eq_true_eq] at hc
    exact ho o hmem hc.1.1
  refine ⟨⟨?_, fun second f => ?_, ?_, hst 0, hst 1⟩, h.dueReads⟩
  · rw [h.owed]; exact fun o ho => nomatch ho
  · unfold offerable
    cases hv : targetOf s p f with
    | none => rfl
    | some v =>
      have hdue : isDue s p f = false := by
        unfold isDue
        rw [hv]
        dsimp only
        rw [decide_eq_false (not_not_intro (h.met f v hv))]
        rfl
      dsimp only
      rw [hdue]
      rfl
  · unfold readOffer
    rw [h.read]

/-- R94: the entry notice where every target is 0 and no delivered value is another. -/
structure State.Fresh (s : State) (p : Pos) : Prop where
  owed : s.delivery.owed.get p = []
  read : s.delivery.pendingRead = none
  covered : ∀ f, windowCovers s p f = false
  target : ∀ f, targetBeneath s p f = 0
  delivered : ∀ f, (entryOf s p f).delivered = none ∨ (entryOf s p f).delivered = some 0
  times : ∀ f, (entryOf s p f).nextRead = none

/-- R94: an entry after the entry notice. -/
def caughtEntry (f : Code) (e : StatusEntry) : StatusEntry := { e with
  notFitted := false, unavailable := false, retryAt := none, delivered := if kindOf f = .sensor then e.delivered else some 0 }

/-- R94: the Position Status Table after the entry notice. -/
def caught (p : Pos) (s : State) : State :=
  modDelivery (fun d => { d with status := d.status.upd p fun t => t.mapIdx caughtEntry }) s

theorem entryOf_caught (p q : Pos) (f : Code) (s : State) :
    entryOf (caught p s) q f = if q = p then caughtEntry f (entryOf s p f) else entryOf s q f := by
  show ((s.delivery.status.upd p fun t => t.mapIdx caughtEntry).get q).get f = _
  by_cases hq : q = p
  · subst hq
    rw [if_pos rfl, Tab.get_upd_same, Tab.get_mapIdx]
    rfl
  · rw [if_neg hq, Tab.get_upd_ne _ _ hq]
    rfl

theorem targetOf_fresh (h : s.Fresh p) (f : Code) : targetOf s p f = if kindOf f = .sensor then none else some 0 := by
  unfold targetOf
  rw [h.covered f, h.target f]
  cases kindOf f <;> rfl

theorem still_caught (h : s.Fresh p) : (caught p s).Still p := by
  have hent := fun f => (entryOf_caught p p f s).trans (if_pos rfl)
  refine ⟨h.owed, h.read, fun f v hv => ?_, fun f => ?_⟩
  · have htarget : targetOf (caught p s) p f = targetOf s p f := by
      unfold targetOf targetBeneath
      rw [hent]
      rfl
    rw [htarget, targetOf_fresh h] at hv
    rw [hent]
    unfold caughtEntry
    by_cases hk : kindOf f = .sensor
    · rw [if_pos hk] at hv; exact nomatch hv
    · rw [if_neg hk] at hv ⊢
      exact hv
  · rw [hent]; exact h.times f

theorem catchUp_eq (h : s.Fresh p) : catchUp p s = emitAll (holdNotices p) (caught p s) := by
  unfold catchUp caught
  refine congrArg (emitAll _) ?_
  have hentry : ∀ f (e : StatusEntry), (e.delivered = none ∨ e.delivered = some 0) → (match targetOf s p f with
      | some v => entryDelivered v e.delivered
      | none => e.delivered) = if kindOf f = .sensor then e.delivered else some 0 := by
    intro f e he
    rw [targetOf_fresh h]
    by_cases hk : kindOf f = .sensor
    · rw [if_pos hk, if_pos hk]
    · rw [if_neg hk, if_neg hk]
      rcases he with he | he <;> rw [he] <;> rfl
  unfold modDelivery
  dsimp only
  refine congrArg (fun st => ({ s with delivery := { s.delivery with status := st } } : State)) (Tab.upd_congr _ _ ?_)
  refine Tab.ext_get fun f => ?_
  rw [Tab.get_mapIdx, Tab.get_mapIdx]
  exact congrArg (fun dl => ({ (s.delivery.status.get p).get f with
    notFitted := false, unavailable := false, retryAt := none, delivered := dl } : StatusEntry))
    (hentry f ((s.delivery.status.get p).get f) (h.delivered f))

theorem acts_catchUp (hx : s.Ending) (hs : inService s p = true) (h : s.Fresh p) : Acts 4 [.catchUp p] s (caught p s) :=
  Acts.run (x := .catchUp p) hx.notices (catchUp_eq h) hx.notices (acts_holdNotices (s := caught p s) hx.notices hs
    ((still_caught h).atRest (by rw [show (caught p s).line.offers = [] from hx.offers]; exact fun o ho => nomatch ho)))

/-! ## The record written at the end of a cold bring-up -/

/-- R186: the Consist Memory after a write request of content c for p that is acted on at once. -/
def remembering (p : Pos) (c : Remembered) (m : Memory) : Memory :=
  if m.store.records.get p = some c then { m with mismatch := m.mismatch.put p false } else { m with writing := some (.record p c) }

/-- R186: the Consist Memory takes no write and has none to take. -/
structure State.MemoryIdle (s : State) : Prop where
  valid : s.memory.invalid = false
  writing : s.memory.writing = none
  pending : ∀ q, s.memory.pendingWrites.get q = none
  handed : handedCode s ≠ some 24
  resetting : resetting s = false

theorem takeWrites_none (qs : List Pos) (h : ∀ q ∈ qs, s.memory.pendingWrites.get q = none) : qs.foldl takeWrite s = s := by
  induction qs with
  | nil => rfl
  | cons q qs ih =>
    rw [List.foldl_cons, takeWrite_none q (h q (List.mem_cons_self ..))]
    exact ih fun r hr => h r (List.mem_cons_of_mem _ hr)

/-- R186: the pending write of p set. -/
def asking (p : Pos) (c : Remembered) : State → State :=
  modMemory fun m => { m with pendingWrites := m.pendingWrites.put p (some c) }

theorem takeWrite_record {c : Remembered} (h : s.MemoryIdle) : takeWrite (asking p c s) p =
      { s with memory := remembering p c s.memory } := by
  have hput : (s.memory.pendingWrites.put p (some c)).put p none = s.memory.pendingWrites := by
    rw [put_put, ← h.pending p, Tab.put_get_self]
  unfold takeWrite
  rw [show (asking p c s).memory.writing = none from h.writing,
    show (asking p c s).memory.pendingWrites.get p = some c from Tab.get_put_same ..]
  dsimp only
  rw [if_neg (show ¬ (asking p c s).memory.invalid = true from by rw [show (asking p c s).memory.invalid = false from h.valid]; decide)]
  have hclear : modMemory (fun m => { m with pendingWrites := m.pendingWrites.put p none })
      (asking p c s) = s := by
    unfold asking modMemory
    dsimp only
    rw [hput]
  rw [hclear]
  unfold remembering recordEqual
  by_cases hr : s.memory.store.records.get p = some c
  · rw [if_pos hr]
    exact if_pos (decide_eq_true hr)
  · rw [if_neg hr]
    exact if_neg fun hc => hr (of_decide_eq_true hc)

theorem memoryRequest_eq {i : Identity} (h : s.MemoryIdle) (hi : (posRec s p).identity = some i) :
    memoryRequest p s = { s with memory := remembering p (contentOf (posRec s p) i) s.memory } := by
  unfold memoryRequest
  rw [hi]
  dsimp only
  have hfree : writeReserved (asking p (contentOf (posRec s p) i) s) = false := by
    show (decide (handedCode s = some 24) || Machine.resetting s) = false
    rw [decide_eq_false h.handed, h.resetting]; rfl
  show takePending (asking p (contentOf (posRec s p) i) s) = _
  unfold takePending
  rw [if_neg (by rw [hfree]; decide)]
  obtain ⟨before, after, hall, hb, ha⟩ := allPos_split p
  have hother : ∀ q, q ≠ p → ∀ m : Memory, m.pendingWrites = s.memory.pendingWrites → m.pendingWrites.get q = none :=
    fun q _ m hm => by rw [hm]; exact h.pending q
  rw [hall, List.foldl_append, List.foldl_cons, takeWrites_none before, takeWrite_record h, takeWrites_none after]
  · intro q hq
    refine hother q (fun hc => ha (hc ▸ hq)) (remembering p _ s.memory) ?_
    unfold remembering
    split <;> rfl
  · intro q hq
    have hne : q ≠ p := fun hc => hb (hc ▸ hq)
    exact (Tab.get_put_ne _ _ hne).trans (h.pending q)

/-! ## What follows an entry -/

/-- R135: no circuit waits for a rebuild, and none runs. -/
structure State.Whole (s : State) : Prop where
  rebuild : s.check.rebuild = none
  wants : ∀ k, wantsRebuild (circuitRec s k) = false
  pending : ∀ k, (circuitRec s k).rebuildPending = false

theorem makeRebuildPending_none (ks : List LineNo) (h : ∀ k, wantsRebuild (circuitRec s k) = false) :
    ks.foldl (fun s k => makeRebuildPending k s) s = s := by
  induction ks with
  | nil => rfl
  | cons k ks ih =>
    have hk : makeRebuildPending k s = s := if_neg (by rw [h k]; decide)
    rw [List.foldl_cons, hk, ih]

theorem acts_rebuildEntry (hn : s.notices = []) (h : s.Whole) : Acts 2 [.rebuildEntry] s s := by
  have hrun : runNotice .rebuildEntry s = emitAll [.rebuildStart] s := by
    show emit .rebuildStart (allLines.foldl (fun s k => makeRebuildPending k s) s) = _
    rw [makeRebuildPending_none _ h.wants]
    rfl
  have hstart : startRebuild s = s := by
    unfold startRebuild
    rw [h.rebuild]
    have hfind : (allLines.find? fun k => (circuitRec s k).rebuildPending) = none := by
      rw [List.find?_eq_none]
      intro k _ hc
      rw [h.pending k] at hc
      exact absurd hc (by decide)
    rw [hfind]
    rfl
  exact Acts.run (x := .rebuildEntry) hn hrun hn (Acts.silent (x := .rebuildStart) hn hstart hn)

theorem acts_serviceEntry (hn : s.notices = []) (h : pollStands s = true ∨ passed s s.service.nextPoll = false) :
    Acts 1 [.serviceEntry] s s := by
  refine Acts.silent (x := .serviceEntry) hn ?_ hn
  show pollOnEntry s = s
  unfold pollOnEntry
  rcases h with h | h
  · unfold askPoll
    rw [h]
    split <;> rfl
  · rw [h]; rfl

theorem pollStands_offered (s : State) : pollStands (setOffers (fun _ => [pollOffer]) s) = true := rfl

end Sys2Proof.Machine
end

section
/-!
Entering EXERCISING with nothing to look up, and leaving it for RUNNING within the same command (R70, R72, R75, R76, R186).
-/
namespace Sys2Proof.Machine

variable {s t x y z : State} {p : Pos} {f : Code}

/-- R76, R186: the Consist Memory once p is RUNNING: as it was after a warm bring-up, and asked to write after a cold one. -/
structure Retires (s : State) (p : Pos) (m : Memory) : Prop where
  warm : (posRec s p).warm = true → m = s.memory
  idle : (posRec s p).warm = false → s.MemoryIdle
  cold : (posRec s p).warm = false → ∃ i, (posRec s p).identity = some i ∧ m = remembering p (contentOf (posRec s p) i) s.memory

/-- R76: p RUNNING, with this Consist Memory. -/
def retired (p : Pos) (m : Memory) (s : State) : State := { ran p s with memory := m }

theorem Retires.congr {m : Memory} (h : Retires s p m) (hm : t.memory = s.memory) (hg : t.management = s.management)
    (hw : (posRec t p).warm = (posRec s p).warm) (hi : (posRec t p).identity = (posRec s p).identity)
    (hd : (posRec t p).directory = (posRec s p).directory) : Retires t p m := by
  refine ⟨fun hc => ?_, fun hc => ?_, fun hc => ?_⟩
  · rw [hm]; exact h.warm (hw.symm.trans hc)
  · obtain ⟨h1, h2, h3, h4, h5⟩ := h.idle (hw.symm.trans hc)
    refine ⟨by rw [hm]; exact h1, by rw [hm]; exact h2, by rw [hm]; exact h3, ?_, ?_⟩
    · unfold handedCode at h4 ⊢; rw [hg]; exact h4
    · unfold Machine.resetting at h5 ⊢; rw [hg]; exact h5
  · obtain ⟨i, hid, hmem⟩ := h.cold (hw.symm.trans hc)
    refine ⟨i, hi.trans hid, hmem.trans ?_⟩
    unfold contentOf
    rw [hm, hd]

/-- R76, R186, R164: the step to RUNNING, with the write request of a cold bring-up. -/
theorem acts_enterRunning_memory {m : Memory} (hx : s.Ending) (he : stateOf s p = .exercising) (hm : Retires s p m)
    (hsens : ∀ g, kindOfGroup g = .sensor → dirOf s p g = none) (hchecks : ∀ src, nodeCheck s p src = none)
    (hreads : dueReads (retired p m s) p = []) : Acts 6 [.enterRunning p] s (setOffers (fun _ => [pollOffer]) (retired p m s)) := by
  have hoffers : (ran p s).line.offers = [] := hx.offers
  have hrec := posRec_ran p s
  have hrunning : Acts 4 [.runningDelivery p, .runningService p, .nodeLampOffer p] (retired p m s)
      (setOffers (fun _ => [pollOffer]) (retired p m s)) :=
    acts_running (z := retired p m s) ⟨hx.notices, hx.offers, hx.flight, hx.ended⟩ (stateOf_ran p s)
      (fun g hg => (dirOf_ran p s g).trans (hsens g hg)) hchecks hreads
  cases hw : (posRec s p).warm with
  | true =>
    have hmem : retired p m s = ran p s := by
      unfold retired
      rw [hm.warm hw]
      rfl
    have hrun : runNotice (.enterRunning p) s = emitAll [.runningDelivery p, .runningService p, .nodeLampOffer p] (retired p m s) := by
      show enterRunning p s = _
      unfold enterRunning
      rw [if_pos (show exercising s p = true from decide_eq_true he), hw, hmem]
      exact congrArg _ (withdrawExercise_noOffers hoffers p)
    exact (Acts.run (x := .enterRunning p) hx.notices hrun hx.notices hrunning).mono (by decide)
  | false =>
    obtain ⟨i, hi, hmem⟩ := hm.cold hw
    have hidle := hm.idle hw
    have hreq : memoryRequest p (ran p s) = retired p m s := by
      have hmi : (ran p s).MemoryIdle := ⟨hidle.valid, hidle.writing, hidle.pending, hidle.handed, hidle.resetting⟩
      refine (memoryRequest_eq hmi (i := i) ((congrArg (·.identity) hrec).trans hi)).trans ?_
      have hcontent : contentOf (posRec (ran p s) p) i = contentOf (posRec s p) i := by
        unfold contentOf
        rw [hrec]
      unfold retired
      rw [hcontent, hmem]
      rfl
    have hrun : runNotice (.enterRunning p) s =
        emitAll [.memoryRequest p, .runningDelivery p, .runningService p, .nodeLampOffer p] (ran p s) := by
      show enterRunning p s = _
      unfold enterRunning
      rw [if_pos (show exercising s p = true from decide_eq_true he), hw]
      exact congrArg _ (withdrawExercise_noOffers hoffers p)
    exact Acts.run (x := .enterRunning p) hx.notices hrun hx.notices
      (Acts.cons (k := 1) (Acts.silent (x := .memoryRequest p) (s := ran p s) hx.notices hreq hx.notices) hrunning)

/-! ## The plan -/

/-- R70: the plan of p. -/
def planned (p : Pos) (ls : List LampItem) (gs : List Group) (ks : List Code) : State → State :=
  modRec p fun r => { r with lampItems := ls, groupItems := gs, firstReads := [], awaited := [], kept := ks }

theorem acts_buildPlan (hn : s.notices = []) :
    Acts 1 [.buildPlan p] s (planned p (planLamps s p) (planGroups s p) (keptResults s p) s) :=
  Acts.silent (x := .buildPlan p) hn rfl hn

theorem posRec_planned (p : Pos) (ls : List LampItem) (gs : List Group) (ks : List Code) (s : State) :
    posRec (planned p ls gs ks s) p =
      { posRec s p with lampItems := ls, groupItems := gs, firstReads := [], awaited := [], kept := ks } := posRec_modRec ..

theorem ran_planned (p : Pos) (ls : List LampItem) (gs : List Group) (ks : List Code) (s : State) :
    ran p (planned p ls gs ks s) = ran p s := modRec_modRec ..

theorem retired_planned (p : Pos) (m : Memory) (ls : List LampItem) (gs : List Group) (ks : List Code) (s : State) :
    retired p m (planned p ls gs ks s) = retired p m s := by
  unfold retired
  rw [ran_planned]

/-- R72, R73, R76: what is left of an entry's notices once the lamp items are dealt with and no group is to be looked up. -/
theorem acts_entryTail (hn : z.notices = []) (hg : (posRec z p).groupItems = []) (hw : z.Whole)
    (hp : pollStands z = true ∨ passed z z.service.nextPoll = false) :
    ∃ rf, Acts 5 [.lookupGroups p, .rebuildEntry, .serviceEntry, .syncRefresh] z
      { z with port := { z.port with refresh := rf } } := by
  obtain ⟨rf, hrf⟩ := acts_syncRefresh hn
  have hlook : lookupGroups p z = z := by
    unfold lookupGroups
    rw [hg]
  exact ⟨rf, Acts.cons (k := 1) (l := 4) (Acts.silent (x := .lookupGroups p) hn hlook hn)
    (Acts.cons (k := 2) (l := 2) (acts_rebuildEntry hn hw) (Acts.cons (k := 1) (l := 1) (acts_serviceEntry hn hp) hrf))⟩

theorem entryLamps_running (h : stateOf s p = .running) : entryLamps p s = s :=
  if_neg (by rw [show exercising s p = false from decide_eq_false (by rw [h]; decide)]; decide)

/-- What an entry into EXERCISING finds where nothing is due, read or checked at p. -/
structure State.Enterable (s : State) (p : Pos) : Prop where
  ending : s.Ending
  state : stateOf s p = .exercising
  fresh : s.Fresh p
  checks : ∀ src, nodeCheck s p src = none
  whole : s.Whole

theorem State.Enterable.serves (h : s.Enterable p) : inService s p = true := by
  unfold inService
  rw [h.state]

theorem caught_ending (h : s.Ending) : (caught p s).Ending := ⟨h.notices, h.offers, h.flight, h.ended⟩

theorem unchecked_caught (p q : Pos) (f : Code) (s : State) : unchecked (caught p s) q f = unchecked s q f := by
  unfold unchecked
  rw [entryOf_caught]
  split
  · rename_i hq; rw [hq]; rfl
  · rfl

theorem planLamps_caught (p : Pos) (s : State) : planLamps (caught p s) p = planLamps s p := by
  unfold planLamps
  simp only [unchecked_caught]
  rfl

theorem keptResults_caught (p : Pos) (s : State) : keptResults (caught p s) p = keptResults s p := by
  unfold keptResults
  simp only [unchecked_caught]

theorem dueReads_retired {m : Memory} (h : s.Still p) : dueReads (retired p m s) p = [] :=
  State.Still.dueReads (s := retired p m s) ⟨h.owed, h.read, h.met, h.times⟩

/-- The plan and the notices before the exit test of an entry. -/
theorem acts_entryHead (h : s.Enterable p) : Acts 5 [.catchUp p, .buildPlan p] s
    (planned p (planLamps s p) (planGroups s p) (keptResults s p) (caught p s)) := by
  have hplan := acts_buildPlan (s := caught p s) (p := p) h.ending.notices
  rw [planLamps_caught, keptResults_caught] at hplan
  exact Acts.cons (k := 4) (l := 1) (acts_catchUp h.ending h.serves h.fresh) hplan

/-- R70, R76: an entry whose exit test is met at once. -/
theorem acts_entry_runs {m : Memory} (h : s.Enterable p) (hm : Retires s p m) (hgroups : ∀ g : Group, 4 ≤ g.val → dirOf s p g = none)
    (hmet : exitMet (planned p (planLamps s p) (planGroups s p) (keptResults s p) (caught p s)) p = true) :
    ∃ rf, Acts 30 [.catchUp p, .buildPlan p, .exitTest p, .entryLamps p, .lookupGroups p, .rebuildEntry, .serviceEntry, .syncRefresh] s
      (setOffers (fun _ => [pollOffer]) { retired p m (caught p s) with port := { s.port with refresh := rf } }) := by
  let b : State := planned p (planLamps s p) (planGroups s p) (keptResults s p) (caught p s)
  have hb : b.Ending := ⟨h.ending.notices, h.ending.offers, h.ending.flight, h.ending.ended⟩
  have hrec : posRec b p = _ := posRec_planned p _ _ _ (caught p s)
  have hstate : stateOf b p = .exercising := (congrArg (·.state) hrec).trans h.state
  have hret : Retires b p m := hm.congr rfl rfl (congrArg (·.warm) hrec) (congrArg (·.identity) hrec) (congrArg (·.directory) hrec)
  have hwhole : b.Whole := ⟨h.whole.rebuild, h.whole.wants, h.whole.pending⟩
  have hsens : ∀ g, kindOfGroup g = .sensor → dirOf b p g = none := by
    intro g hg
    refine (congrArg (fun r => r.directory.get g) hrec).trans (hgroups g ?_)
    by_contra hlt
    rw [show kindOfGroup g = .lamp from if_pos (by omega)] at hg
    exact FnKind.noConfusion hg
  have hz : retired p m b = retired p m (caught p s) := retired_planned ..
  have hrun := acts_enterRunning_memory hb hstate hret hsens h.checks
    (by rw [hz]; exact dueReads_retired (still_caught h.fresh))
  rw [hz] at hrun
  let z : State := setOffers (fun _ => [pollOffer]) (retired p m (caught p s))
  have hzrec : posRec z p = _ := posRec_ran p (caught p s)
  have hzrun : stateOf z p = .running := congrArg (·.state) hzrec
  have hexit : Acts 7 [.exitTest p] b z :=
    Acts.run (x := .exitTest p) (ns := [.enterRunning p]) hb.notices
      (if_pos (by rw [hmet, show exercising b p = true from decide_eq_true hstate]; rfl)) hb.notices hrun
  obtain ⟨rf, htail⟩ := acts_entryTail (z := z) (p := p) hb.notices (congrArg (·.groupItems) hzrec)
    ⟨h.whole.rebuild, h.whole.wants, h.whole.pending⟩ (.inl (pollStands_offered _))
  refine ⟨rf, Acts.mono ((acts_entryHead h).append (l := 13) (Acts.cons (k := 7) hexit (Acts.cons (k := 1) (l := 5)
    (Acts.silent (x := .entryLamps p) hb.notices (entryLamps_running hzrun) hb.notices) htail))) (by decide)⟩

end Sys2Proof.Machine
end

section
/-!
What a written result does not depend on (R92, R199), and a contributor filed in a Contributor List (R133, R134).
-/
namespace Sys2Proof.Machine

variable {s t x y z : State} {p q : Pos} {f : Code}

/-! ## Results beside other parts of the state -/

/-- The two consist parts have the same states, directories and Wired Profile positions. -/
def AlikeTables (c c' : Consist) : Prop :=
  ∀ q, (c.table.get q).state = (c'.table.get q).state ∧ (c.table.get q).directory = (c'.table.get q).directory

/-- The state with another line and another consist part. -/
def beside (l : LineCtl) (c : Consist) (s : State) : State := { s with line := l, consist := c }

theorem AlikeTables.refl (c : Consist) : AlikeTables c c := fun _ => ⟨rfl, rfl⟩

theorem qualifies_beside {l : LineCtl} {c : Consist} (h : AlikeTables c s.consist) (q : Pos) (g : Group) (half : Bool) :
    qualifies (beside l c s) q g half = qualifies s q g half := by
  have hs : stateOf (beside l c s) q = stateOf s q := (h q).1
  have hd : dirOf (beside l c s) q g = dirOf s q g := congrArg (·.get g) (h q).2
  unfold qualifies
  rw [hs, hd]
  rfl

theorem memberFitted_beside {l : LineCtl} {c : Consist} (h : AlikeTables c s.consist) (q : Pos) (g : Group) (m : Fin 16) :
    memberFitted (beside l c s) q g m = memberFitted s q g m := by
  have hs : stateOf (beside l c s) q = stateOf s q := (h q).1
  have hd : dirOf (beside l c s) q g = dirOf s q g := congrArg (·.get g) (h q).2
  unfold memberFitted
  rw [hs, hd]
  rfl

theorem resultData_beside {l : LineCtl} {c : Consist} (h : AlikeTables c s.consist) (q : Pos) (g : Group) (half : Bool) :
    resultData (beside l c s) q g half = resultData s q g half := by
  unfold resultData resultNibble
  simp only [memberFitted_beside h]
  rfl

theorem placeStatus_beside {l : LineCtl} {c : Consist} (k : FrameKey) (id : Nat) (data : List Byte) (s : State) :
    placeStatus k id data (beside l c s) = beside l c (placeStatus k id data s) := by
  unfold placeStatus
  rw [show txQueue (beside l c s) = txQueue s from rfl]
  split
  · rfl
  · split <;> rfl

theorem placeResultFrame_beside {l : LineCtl} {c : Consist} (h : AlikeTables c s.consist) (q : Pos) (g : Group) (half : Bool) :
    placeResultFrame q g half (beside l c s) = beside l c (placeResultFrame q g half s) := by
  unfold placeResultFrame
  rw [show wouldPlace (.result q g half) (beside l c s) = wouldPlace (.result q g half) s from rfl, resultData_beside h,
    show statusFrameId (beside l c s) 1 = statusFrameId s 1 from rfl, placeStatus_beside]
  by_cases hw : wouldPlace (.result q g half) s = true
  · rw [if_pos hw, if_pos hw]
    obtain ⟨pt, hpt⟩ := placeStatus_port (.result q g half) (statusFrameId s 1) (resultData s q g half) s
    rw [hpt]
    unfold noteRefresh
    rw [qualifies_beside (s := { s with port := pt }) h]
    split <;> rfl
  · rw [if_neg hw, if_neg hw]; rfl

theorem resulting_beside {l : LineCtl} {c : Consist} (h : AlikeTables c s.consist) (q : Pos) (f : Code) (r : CheckResult) :
    State.resulting q f r (beside l c s) = beside l c (State.resulting q f r s) := by
  unfold State.resulting
  rw [show entryOf (beside l c s) q f = entryOf s q f from rfl]
  by_cases hr : (entryOf s q f).result = r
  · rw [if_pos hr, if_pos hr]
  · rw [if_neg hr, if_neg hr]
    exact placeResultFrame_beside (s := modEntry q f (fun x => { x with result := r }) s) h q _ _

theorem writing_beside {l : LineCtl} {c : Consist} (ws : List (Pos × Code × CheckResult)) (h : AlikeTables c s.consist) :
    writing ws (beside l c s) = beside l c (writing ws s) := by
  induction ws generalizing s with
  | nil => rfl
  | cons w ws ih =>
    show writing ws (State.resulting w.1 w.2.1 w.2.2 (beside l c s)) = _
    rw [resulting_beside h]
    exact ih (by rw [(resulting_marked _ _ _ _).consist]; exact h)

theorem placeResultFrame_memory (m : Memory) (q : Pos) (g : Group) (half : Bool) (s : State) :
    placeResultFrame q g half { s with memory := m } = { placeResultFrame q g half s with memory := m } := by
  have hstatus : ∀ k id data, placeStatus k id data { s with memory := m } = { placeStatus k id data s with memory := m } := by
    intro k id data
    unfold placeStatus
    rw [show txQueue { s with memory := m } = txQueue s from rfl]
    split
    · rfl
    · split <;> rfl
  unfold placeResultFrame
  rw [show wouldPlace (.result q g half) { s with memory := m } = wouldPlace (.result q g half) s from rfl,
    show resultData { s with memory := m } q g half = resultData s q g half from rfl,
    show statusFrameId { s with memory := m } 1 = statusFrameId s 1 from rfl, hstatus]
  split
  · unfold noteRefresh
    rw [show qualifies { placeStatus (.result q g half) (statusFrameId s 1) (resultData s q g half) s with memory := m } q g half
      = qualifies (placeStatus (.result q g half) (statusFrameId s 1) (resultData s q g half) s) q g half from rfl]
    split <;> rfl
  · rfl

theorem resulting_retired (he : stateOf s p = .exercising) (m : Memory) (r : CheckResult) :
    State.resulting p f r (retired p m s) = retired p m (State.resulting p f r s) := by
  have hmem : ∀ y : State, State.resulting p f r { y with memory := m } = { State.resulting p f r y with memory := m } := by
    intro y
    unfold State.resulting
    rw [show entryOf { y with memory := m } p f = entryOf y p f from rfl]
    split
    · rfl
    · exact placeResultFrame_memory m p _ _ (modEntry p f (fun x => { x with result := r }) y)
  unfold retired
  rw [hmem, resulting_ran he]

/-! ## The entry notice and results -/

theorem resultData_caught (q : Pos) (g : Group) (half : Bool) (s : State) :
    resultData (caught p s) q g half = resultData s q g half := by
  have hres : ∀ f, (entryOf (caught p s) q f).result = (entryOf s q f).result := by
    intro f
    rw [entryOf_caught]
    split
    · rename_i hq; rw [hq]; rfl
    · rfl
  unfold resultData resultNibble
  simp only [hres]
  rfl

theorem placeResultFrame_caught (q : Pos) (g : Group) (half : Bool) (s : State) :
    placeResultFrame q g half (caught p s) = caught p (placeResultFrame q g half s) := by
  have hstatus : ∀ k id data, placeStatus k id data (caught p s) = caught p (placeStatus k id data s) := by
    intro k id data
    unfold placeStatus
    rw [show txQueue (caught p s) = txQueue s from rfl]
    split
    · rfl
    · split <;> rfl
  unfold placeResultFrame
  rw [show wouldPlace (.result q g half) (caught p s) = wouldPlace (.result q g half) s from rfl, resultData_caught,
    show statusFrameId (caught p s) 1 = statusFrameId s 1 from rfl, hstatus]
  split
  · unfold noteRefresh
    rw [show qualifies (caught p (placeStatus (.result q g half) (statusFrameId s 1) (resultData s q g half) s)) q g half
      = qualifies (placeStatus (.result q g half) (statusFrameId s 1) (resultData s q g half) s) q g half from rfl]
    split <;> rfl
  · rfl

theorem upd_caught (g : StatusEntry → StatusEntry) (hg : ∀ e, g (caughtEntry f e) = caughtEntry f (g e))
    (t : Tab (Tab StatusEntry 192) 4) : (t.upd p fun u => u.mapIdx caughtEntry).upd q (fun u => u.upd f g) =
      (t.upd q fun u => u.upd f g).upd p (fun u => u.mapIdx caughtEntry) := by
  refine Tab.ext_get fun i => ?_
  by_cases hi : i = q
  · subst hi
    rw [Tab.get_upd_same]
    by_cases hp : i = p
    · subst hp
      rw [Tab.get_upd_same, Tab.get_upd_same, Tab.get_upd_same]
      refine Tab.ext_get fun j => ?_
      rw [Tab.get_mapIdx]
      by_cases hj : j = f
      · subst hj
        rw [Tab.get_upd_same, Tab.get_upd_same, Tab.get_mapIdx, hg]
      · rw [Tab.get_upd_ne _ _ hj, Tab.get_upd_ne _ _ hj, Tab.get_mapIdx]
    · rw [Tab.get_upd_ne _ _ hp, Tab.get_upd_ne _ _ hp, Tab.get_upd_same]
  · rw [Tab.get_upd_ne _ _ hi]
    by_cases hp : i = p
    · subst hp
      rw [Tab.get_upd_same, Tab.get_upd_same, Tab.get_upd_ne _ _ hi]
    · rw [Tab.get_upd_ne _ _ hp, Tab.get_upd_ne _ _ hp, Tab.get_upd_ne _ _ hi]

theorem caught_modEntry (r : CheckResult) (s : State) :
    modEntry q f (fun x => { x with result := r }) (caught p s) = caught p (modEntry q f (fun x => { x with result := r }) s) :=
  congrArg (fun st => ({ s with delivery := { s.delivery with status := st } } : State))
    (upd_caught (fun x => { x with result := r }) (fun _ => rfl) s.delivery.status)

theorem resulting_caught (r : CheckResult) (s : State) :
    State.resulting q f r (caught p s) = caught p (State.resulting q f r s) := by
  have hres : (entryOf (caught p s) q f).result = (entryOf s q f).result := by
    rw [entryOf_caught]
    split
    · rename_i hq; rw [hq]; rfl
    · rfl
  unfold State.resulting
  rw [hres]
  split
  · rfl
  · rw [caught_modEntry]
    exact placeResultFrame_caught ..

/-! ## Ports that differ in refresh times alone -/

/-- The Tractor Port is the other but for its RESULT refresh times. -/
def Refreshed (a b : Port) : Prop := ∃ rf, a = { b with refresh := rf }

theorem Refreshed.refl (a : Port) : Refreshed a a := ⟨a.refresh, rfl⟩

theorem Refreshed.eq {a b : Port} (h : Refreshed a b) : a = { b with refresh := a.refresh } := by
  obtain ⟨rf, rfl⟩ := h; rfl

theorem Refreshed.trans {a b c : Port} (h : Refreshed a b) (h' : Refreshed b c) : Refreshed a c := by
  obtain ⟨rf, rfl⟩ := h
  obtain ⟨rf', rfl⟩ := h'
  exact ⟨rf, rfl⟩

theorem noteRefresh_refreshed (q : Pos) (g : Group) (half : Bool) (s : State) : Refreshed (noteRefresh q g half s).port s.port := by
  unfold noteRefresh
  split
  · exact ⟨_, rfl⟩
  · exact .refl _

theorem placeStatus_refreshed {k : FrameKey} {data : List Byte} (h : Refreshed s.port t.port) :
    Refreshed (placeStatus k (statusFrameId s 1) data s).port (placeStatus k (statusFrameId t 1) data t).port := by
  obtain ⟨rf, h⟩ := h
  have hq : txQueue s = txQueue t := by unfold txQueue; rw [h]
  have hid : statusFrameId s 1 = statusFrameId t 1 := by unfold statusFrameId; rw [h]
  unfold placeStatus
  rw [hq, hid]
  split
  · exact ⟨rf, by unfold setQueue; dsimp only; rw [h]⟩
  · split
    · exact ⟨rf, by unfold setQueue; dsimp only; rw [h]⟩
    · exact ⟨rf, by unfold setOverrun; dsimp only; rw [h]⟩

theorem Refreshed.of_noted {a b c d : Port} (h : Refreshed a b) (ha : Refreshed c a) (hb : Refreshed d b) : Refreshed c d := by
  obtain ⟨rf, rfl⟩ := h
  obtain ⟨rf', rfl⟩ := ha
  obtain ⟨rf'', rfl⟩ := hb
  exact ⟨rf', rfl⟩

/-- R199: where a RESULT frame is placed, and with what, shows in no refresh time. -/
theorem placeResultFrame_refreshed {g : Group} {half : Bool} (h : Refreshed s.port t.port)
    (hd : resultData s q g half = resultData t q g half) :
    Refreshed (placeResultFrame q g half s).port (placeResultFrame q g half t).port := by
  have hw : wouldPlace (.result q g half) s = wouldPlace (.result q g half) t := by
    obtain ⟨rf, h⟩ := h
    unfold wouldPlace txQueue
    rw [h]
  unfold placeResultFrame
  rw [hw, hd]
  split
  · exact (placeStatus_refreshed h).of_noted (noteRefresh_refreshed ..) (noteRefresh_refreshed ..)
  · obtain ⟨rf, h⟩ := h
    exact ⟨rf, by unfold setOverrun; dsimp only; rw [h]⟩

theorem resulting_refreshed (r : CheckResult) (h : Refreshed s.port t.port) (hst : s.delivery.status = t.delivery.status)
    (hfit : ∀ g m, memberFitted s q g m = memberFitted t q g m) :
    Refreshed (State.resulting q f r s).port (State.resulting q f r t).port := by
  have hent : ∀ f, entryOf s q f = entryOf t q f := fun f => by unfold entryOf; rw [hst]
  unfold State.resulting
  rw [hent f]
  split
  · exact h
  · refine placeResultFrame_refreshed (s := modEntry q f (fun x => { x with result := r }) s)
      (t := modEntry q f (fun x => { x with result := r }) t) h ?_
    have hent' : ∀ g, entryOf (modEntry q f (fun x => { x with result := r }) s) q g =
        entryOf (modEntry q f (fun x => { x with result := r }) t) q g := by
      intro g
      unfold entryOf modEntry
      dsimp only
      rw [hst]
    unfold resultData resultNibble
    simp only [hent']
    have hfit' : ∀ g m, memberFitted (modEntry q f (fun x => { x with result := r }) s) q g m =
        memberFitted (modEntry q f (fun x => { x with result := r }) t) q g m := hfit
    simp only [hfit']

end Sys2Proof.Machine
end

section
/-!
A contributor handed over at the end of a description (R72, R133, R134, R145).
-/
namespace Sys2Proof.Machine

variable {s t x y z : State} {p q : Pos} {f : Code} {k : LineNo}

/-- R133: the list entry of a WIRED-fed record of p. -/
def contributorOf (p : Pos) (i : WireItem) : Contributor :=
  { pos := p, code := i.code, nominal := i.nominal, loadKind := i.loadKind }

theorem insertContributor_between {n : Contributor} {front back : List Contributor} (hf : ∀ c ∈ front, c.pos < n.pos)
    (hb : ∀ c ∈ back, n.pos < c.pos) : insertContributor n (front ++ back) = front ++ n :: back := by
  induction front with
  | nil =>
    cases back with
    | nil => rfl
    | cons c cs =>
      refine if_pos ?_
      unfold contributorBefore
      rw [decide_eq_true (hb c (List.mem_cons_self ..))]; rfl
  | cons c cs ih =>
    have hlt := hf c (List.mem_cons_self ..)
    have hnot : contributorBefore n c = false := by
      have hless : ¬ n.pos < c.pos := Nat.not_lt.mpr (Nat.le_of_lt hlt)
      have hsame : ¬ n.pos = c.pos := Fin.ne_of_gt hlt
      unfold contributorBefore
      rw [decide_eq_false hless, decide_eq_false hsame]
      rfl
    show insertContributor n (c :: (cs ++ back)) = _
    unfold insertContributor
    rw [if_neg (by rw [hnot]; decide), ih fun d hd => hf d (List.mem_cons_of_mem _ hd)]
    rfl

/-- R134: the circuit as the change rule leaves it, with these contributors. -/
def changedCircuit (k : LineNo) (cs : List Contributor) (full : Bool) (s : State) : State :=
  modCircuit k (fun c => { c with contributors := cs, overfull := full, samples := [], last := none, reported := none }) s

theorem modCircuit_congr {f g : Circuit → Circuit} (h : f (circuitRec s k) = g (circuitRec s k)) :
    modCircuit k f s = modCircuit k g s := by
  unfold modCircuit
  rw [Tab.upd_congr _ _ h]

/-- R134: UNCHECKED for these contributors. -/
def uncheckedResults (cs : List Contributor) : List (Pos × Code × CheckResult) := cs.map fun c => (c.pos, c.code, .unchecked)

/-- R134: the change rule of circuit k, for these contributors. -/
def refiled (k : LineNo) (cs : List Contributor) (full : Bool) (s : State) : State :=
  writing (uncheckedResults cs) (changedCircuit k cs full s)

theorem refiled_eq (k : LineNo) (cs : List Contributor) (full : Bool) (s : State) : refiled k cs full s =
    cs.foldl (fun t c => State.resulting c.pos c.code .unchecked t) (changedCircuit k cs full s) := List.foldl_map

theorem refiled_beside {l : LineCtl} {c : Consist} (h : AlikeTables c s.consist) (cs : List Contributor) (full : Bool) :
    refiled k cs full (beside l c s) = beside l c (refiled k cs full s) :=
  writing_beside (s := changedCircuit k cs full s) _ h

theorem refiled_marked (k : LineNo) (cs : List Contributor) (full : Bool) (s : State) :
    Marked (refiled k cs full s) (changedCircuit k cs full s) := writing_marked _ _

/-- What a handed-over contributor finds: no check with a window on its circuit, and no result that takes a position to RUNNING. -/
structure State.Files (s : State) (p : Pos) (k : LineNo) : Prop where
  notices : s.notices = []
  window : windowOn s k = false
  absent : ∀ c ∈ (circuitRec s k).contributors, c.pos ≠ p
  rebuild : s.check.rebuild = none
  calm : ∀ q, stateOf s q ≠ .exercising
  occupied : ∀ c ∈ (circuitRec s k).contributors, stateOf s c.pos ≠ .vacant
  own : stateOf s p ≠ .vacant

theorem holdsContributor_none (h : ∀ c ∈ (circuitRec s k).contributors, c.pos ≠ p) : holdsContributor s k p f = false := by
  unfold holdsContributor
  rw [List.any_eq_false]
  intro c hc hd
  simp only [Bool.and_eq_true, decide_eq_true_eq] at hd
  exact h c hc hd.1

theorem acts_unchecked {cs : List Contributor} {full : Bool} (hn : s.notices = []) (hcalm : ∀ q, stateOf s q ≠ .exercising)
    (hocc : ∀ c ∈ cs, stateOf s c.pos ≠ .vacant) (hlen : cs.length ≤ 16) :
    Acts 48 (cs.map fun c => .writeResult c.pos c.code .unchecked) (changedCircuit k cs full s) (refiled k cs full s) := by
  have hacts := acts_writing (s := changedCircuit k cs full s) (ws := uncheckedResults cs) hn (fun w hw => by
    obtain ⟨c, hc, rfl⟩ := List.mem_map.mp hw
    exact ⟨hocc c hc, hcalm _⟩)
  unfold uncheckedResults at hacts
  rw [List.map_map, List.length_map] at hacts
  exact hacts.mono (by omega)

/-- R133, R134: a list of 16 turns the contributor away, and the circuit is OVERFULL. -/
theorem acts_turnedAway {i : WireItem} (h : s.Files p i.circuit) (hlen : (circuitRec s i.circuit).contributors.length = 16)
    (hfull : (circuitRec s i.circuit).overfull = false) :
    Acts 49 [.addContributor p i] s (refiled i.circuit (circuitRec s i.circuit).contributors true s) := by
  have hrun : runNotice (.addContributor p i) s = emitAll
      ((circuitRec s i.circuit).contributors.map fun c => .writeResult c.pos c.code .unchecked)
      (changedCircuit i.circuit (circuitRec s i.circuit).contributors true s) := by
    have hrule : changeRule i.circuit false (modCircuit i.circuit (fun c => { c with overfull := true }) s) = emitAll
        ((circuitRec s i.circuit).contributors.map fun c => .writeResult c.pos c.code .unchecked)
        (changedCircuit i.circuit (circuitRec s i.circuit).contributors true s) := by
      have hrec : circuitRec (modCircuit i.circuit (fun c => { c with overfull := true }) s) i.circuit =
          { circuitRec s i.circuit with overfull := true } := Tab.get_upd_same ..
      unfold changeRule
      rw [hrec, modCircuit_modCircuit]
      exact (congrArg (fun ns => emitAll ns _) (List.append_nil _)).trans (congrArg (emitAll _) (modCircuit_congr rfl))
    have hturn : ∀ y : State, y.check.rebuild = none → noteTurnedAway i.circuit y = y := by
      intro y hy
      unfold noteTurnedAway modRebuild
      have hnone : ∀ f, y.check.rebuild.map f = y.check.rebuild := fun f => by rw [hy]; rfl
      rw [hnone]
    show fileContributor p i s = _
    unfold fileContributor
    dsimp only
    rw [if_neg (by rw [holdsContributor_none h.absent]; decide), hlen, if_neg (by decide), hfull, if_neg (by decide), hrule]
    exact hturn _ h.rebuild
  exact Acts.run (x := .addContributor p i) h.notices hrun h.notices
    (acts_unchecked (k := i.circuit) (full := true) h.notices h.calm h.occupied (Nat.le_of_eq hlen))

/-- R133, R134: a contributor that joins its list at its place, and the change rule; the circuit is asked for at a standstill. -/
theorem fileContributor_room {i : WireItem} {front back : List Contributor} (h : s.Files p i.circuit)
    (hold : (circuitRec s i.circuit).contributors = front ++ back) (hlen : (circuitRec s i.circuit).contributors.length < 16)
    (hf : ∀ c ∈ front, c.pos < p) (hb : ∀ c ∈ back, p < c.pos) (hfull : (circuitRec s i.circuit).overfull = false) :
    fileContributor p i s = emitAll (((front ++ contributorOf p i :: back).map fun c => .writeResult c.pos c.code .unchecked)
        ++ (if isStationary s && s.consist.cplPresent then [.changeRequest i.circuit] else []))
      (changedCircuit i.circuit (front ++ contributorOf p i :: back) false s) := by
  have hins : insertContributor (contributorOf p i) (circuitRec s i.circuit).contributors = front ++ contributorOf p i :: back := by
    rw [hold]; exact insertContributor_between hf hb
  let m : State := modCircuit i.circuit (fun c => { c with contributors := insertContributor (contributorOf p i) c.contributors }) s
  have hrec : circuitRec m i.circuit = { circuitRec s i.circuit with contributors := front ++ contributorOf p i :: back } := by
    refine (Tab.get_upd_same ..).trans ?_
    show ({ circuitRec s i.circuit with contributors := insertContributor _ (circuitRec s i.circuit).contributors } : Circuit) = _
    rw [hins]
  have hjoin : windowJoin i.circuit true p i.code m = m := if_neg (by rw [show windowOn m i.circuit = false from h.window]; decide)
  unfold fileContributor
  dsimp only
  rw [if_neg (by rw [holdsContributor_none h.absent]; decide),
    if_pos (show (circuitRec s i.circuit).contributors.length < Config.contributorCapacity from hlen)]
  show changeRule i.circuit true (windowJoin i.circuit true p i.code m) = _
  rw [hjoin]
  unfold changeRule
  rw [hrec]
  have hmod : modCircuit i.circuit (fun c => { c with samples := [], last := none, reported := none }) m =
      changedCircuit i.circuit (front ++ contributorOf p i :: back) false s := by
    refine (modCircuit_modCircuit ..).trans (modCircuit_congr ?_)
    show ({ circuitRec s i.circuit with
      contributors := insertContributor _ (circuitRec s i.circuit).contributors
      samples := [], last := none, reported := none } : Circuit) = _
    rw [hins, ← hfull]
  rw [hmod]
  rfl

/-- R145: a request for a circuit that the queue lacks and that the slot does not take. -/
theorem acts_changeRequest (hn : s.notices = []) (hslot : s.check.slot ≠ none) (hq : ∀ y ∈ s.check.queue, y.target ≠ .circuit k)
    (hlen : s.check.queue.length < 16) : Acts 2 [.changeRequest k] s
      (setExQueue (s.check.queue ++ [{ target := .circuit k, requesters := Tab.fill false }]) s) := by
  let t : State := setExQueue (s.check.queue ++ [{ target := .circuit k, requesters := Tab.fill false }]) s
  have hany : (s.check.queue.any fun e => decide (e.target = .circuit k)) = false := by
    rw [List.any_eq_false]
    intro e he hc
    exact hq e he (of_decide_eq_true hc)
  have hrequest : queueRequest (.circuit k) none s = (.taken, if s.check.queue.isEmpty then emit .slotTest t else t) := by
    unfold queueRequest
    dsimp only
    rw [hany, if_neg (by decide), if_pos (show s.check.queue.length < Config.queueCapacity from hlen)]
    rfl
  have hchange : changeRequest k s = if s.check.queue.isEmpty then emit .slotTest t else t := by
    unfold changeRequest
    rw [hrequest]
  have htest : slotTest t = t := by
    refine if_neg ?_
    have : t.check.slot.isNone = false := by
      cases hc : s.check.slot with
      | none => exact absurd hc hslot
      | some sl => show s.check.slot.isNone = false; rw [hc]; rfl
    rw [this]; exact Bool.false_ne_true
  by_cases he : s.check.queue.isEmpty = true
  · rw [if_pos he] at hchange
    exact Acts.run (x := .changeRequest k) (ns := [.slotTest]) hn hchange hn (Acts.silent (x := .slotTest) hn htest hn)
  · rw [if_neg he] at hchange
    exact (Acts.silent (x := .changeRequest k) hn hchange hn).mono (by decide)

/-- R133, R134, R145: a contributor that joins, while MOVING and at a standstill. -/
theorem acts_filed {i : WireItem} {front back : List Contributor} (h : s.Files p i.circuit)
    (hold : (circuitRec s i.circuit).contributors = front ++ back) (hlen : (circuitRec s i.circuit).contributors.length < 16)
    (hf : ∀ c ∈ front, c.pos < p) (hb : ∀ c ∈ back, p < c.pos) (hfull : (circuitRec s i.circuit).overfull = false) :
    (s.decoder.motion = .moving →
        Acts 49 [.addContributor p i] s (refiled i.circuit (front ++ contributorOf p i :: back) false s))
      ∧ (s.decoder.motion = .stationary → s.consist.cplPresent = true → s.check.slot ≠ none →
        (∀ y ∈ s.check.queue, y.target ≠ .circuit i.circuit) → s.check.queue.length < 16 →
        Acts 51 [.addContributor p i] s (setExQueue (s.check.queue ++ [{ target := .circuit i.circuit, requesters := Tab.fill false }])
          (refiled i.circuit (front ++ contributorOf p i :: back) false s))) := by
  have hfile := fileContributor_room h hold hlen hf hb hfull
  have hocc : ∀ c ∈ front ++ contributorOf p i :: back, stateOf s c.pos ≠ .vacant := by
    intro c hc
    rcases List.mem_append.mp hc with hc | hc
    · exact h.occupied c (by rw [hold]; exact List.mem_append_left _ hc)
    · rcases List.mem_cons.mp hc with rfl | hc
      · exact h.own
      · exact h.occupied c (by rw [hold]; exact List.mem_append_right _ hc)
  have hcount : (front ++ contributorOf p i :: back).length ≤ 16 := by
    rw [hold, List.length_append] at hlen
    rw [List.length_append, List.length_cons]
    omega
  have hwrites := acts_unchecked (k := i.circuit) (full := false) h.notices h.calm hocc hcount
  refine ⟨fun hm => ?_, fun hm hcpl hslot hq hqlen => ?_⟩
  · have hst : isStationary s = false := decide_eq_false (by rw [hm]; decide)
    rw [hst, Bool.false_and, if_neg (by decide), List.append_nil] at hfile
    exact Acts.run (x := .addContributor p i) h.notices hfile h.notices hwrites
  · have hst : isStationary s = true := decide_eq_true hm
    rw [hst, hcpl, Bool.true_and, if_pos rfl] at hfile
    have hmark := refiled_marked i.circuit (front ++ contributorOf p i :: back) false s
    have hchk := hmark.check
    have hqueue : (refiled i.circuit (front ++ contributorOf p i :: back) false s).check.queue = s.check.queue :=
      congrArg (·.queue) hchk
    have hsl : (refiled i.circuit (front ++ contributorOf p i :: back) false s).check.slot = s.check.slot :=
      congrArg (·.slot) hchk
    have hreq := acts_changeRequest (s := refiled i.circuit (front ++ contributorOf p i :: back) false s) (k := i.circuit)
      (hmark.notices.trans h.notices) (by rw [hsl]; exact hslot) (by rw [hqueue]; exact hq) (by rw [hqueue]; exact hqlen)
    rw [hqueue] at hreq
    exact Acts.run (x := .addContributor p i) h.notices hfile h.notices (hwrites.append hreq)

end Sys2Proof.Machine
end

section
/-!
The lamps an entry awaits (R70, R71), and an entry while MOVING, which defers them (R72, R75).
-/
namespace Sys2Proof.Machine

variable {s t x y z : State} {p q : Pos} {f : Code} {k : LineNo}

/-! ## The awaited lamps -/

theorem allLines_around (k : LineNo) : ∃ xs ys, allLines = xs ++ k :: ys ∧ k ∉ xs ∧ k ∉ ys := by
  have : ∀ k : LineNo, allLines = allLines.take k.val ++ k :: allLines.drop (k.val + 1) ∧ k ∉ allLines.take k.val
      ∧ k ∉ allLines.drop (k.val + 1) := by decide
  exact ⟨_, _, this k⟩

/-- The codes that circuit k lists for p. -/
def listedAt (s : State) (p : Pos) (k : LineNo) : List Code :=
  ((circuitRec s k).contributors.filter fun c => decide (c.pos = p)).map fun c => c.code

theorem listedAt_none (h : ∀ c ∈ (circuitRec s k).contributors, c.pos ≠ p) : listedAt s p k = [] := by
  unfold listedAt
  rw [List.filter_eq_nil_iff.mpr fun c hc hd => h c hc (of_decide_eq_true hd)]
  rfl

theorem listedAt_one {front back : List Contributor} {n : Contributor} (h : (circuitRec s k).contributors = front ++ n :: back)
    (hn : n.pos = p) (hf : ∀ c ∈ front, c.pos ≠ p) (hb : ∀ c ∈ back, c.pos ≠ p) : listedAt s p k = [n.code] := by
  unfold listedAt
  rw [h, List.filter_append, List.filter_eq_nil_iff.mpr fun c hc hd => hf c hc (of_decide_eq_true hd),
    List.filter_cons_of_pos (p := fun c : Contributor => decide (c.pos = p)) (decide_eq_true hn), List.filter_eq_nil_iff.mpr fun c hc hd => hb c hc (of_decide_eq_true hd)]
  rfl

/-- The contributors of p are those listed at k alone. -/
structure State.ListsAt (s : State) (p : Pos) (k : LineNo) (f : Code) : Prop where
  here : ∃ front back n, (circuitRec s k).contributors = front ++ n :: back ∧ n.pos = p ∧ n.code = f
    ∧ (∀ c ∈ front, c.pos ≠ p) ∧ ∀ c ∈ back, c.pos ≠ p
  elsewhere : ∀ j, j ≠ k → ∀ c ∈ (circuitRec s j).contributors, c.pos ≠ p
  required : (posRec s p).required = []

/-- No circuit lists p. -/
structure State.ListsNone (s : State) (p : Pos) : Prop where
  absent : ∀ k, ∀ c ∈ (circuitRec s k).contributors, c.pos ≠ p
  required : (posRec s p).required = []

theorem awaitedLamps_none (h : s.ListsNone p) : awaitedLamps s p = [] := by
  have hflat : wiredAwaited s p = [] := List.flatMap_eq_nil_iff.mpr fun k _ => listedAt_none (h.absent k)
  unfold awaitedLamps
  rw [hflat, h.required]
  rfl

theorem awaitedLamps_one (h : s.ListsAt p k f) : awaitedLamps s p = [f] := by
  obtain ⟨front, back, n, hlist, hn, rfl, hf, hb⟩ := h.here
  obtain ⟨xs, ys, hall, hx, hy⟩ := allLines_around k
  have hnone : ∀ ks : List LineNo, k ∉ ks → ks.flatMap (listedAt s p) = [] := fun ks hks =>
    List.flatMap_eq_nil_iff.mpr fun j hj => listedAt_none (h.elsewhere j fun hc => hks (hc ▸ hj))
  have hflat : wiredAwaited s p = [n.code] := by
    show allLines.flatMap (listedAt s p) = _
    rw [hall, List.flatMap_append, List.flatMap_cons, hnone xs hx, hnone ys hy, listedAt_one hlist hn hf hb]
    rfl
  unfold awaitedLamps
  rw [hflat, h.required]
  rfl

theorem planLamps_none (h : s.ListsNone p) : planLamps s p = [] := by
  have hfilter : (allLines.filter fun k =>
      (circuitRec s k).contributors.any fun c => decide (c.pos = p) && unchecked s p c.code) = [] := by
    refine List.filter_eq_nil_iff.mpr fun k _ hc => ?_
    obtain ⟨c, hmem, hd⟩ := List.any_eq_true.mp hc
    rw [Bool.and_eq_true] at hd
    exact h.absent k c hmem (of_decide_eq_true hd.1)
  unfold planLamps
  rw [hfilter, h.required]
  rfl

theorem planLamps_one (h : s.ListsAt p k f) (hf : unchecked s p f = true) : planLamps s p = [.circuit k] := by
  obtain ⟨front, back, n, hlist, hn, rfl, -, -⟩ := h.here
  obtain ⟨xs, ys, hall, hx, hy⟩ := allLines_around k
  have hnone : ∀ ks : List LineNo, k ∉ ks → (ks.filter fun k =>
      (circuitRec s k).contributors.any fun c => decide (c.pos = p) && unchecked s p c.code) = [] := by
    intro ks hks
    refine List.filter_eq_nil_iff.mpr fun j hj hc => ?_
    obtain ⟨c, hmem, hd⟩ := List.any_eq_true.mp hc
    rw [Bool.and_eq_true] at hd
    exact h.elsewhere j (fun e => hks (e ▸ hj)) c hmem (of_decide_eq_true hd.1)
  have hhere : ((circuitRec s k).contributors.any fun c => decide (c.pos = p) && unchecked s p c.code) = true := by
    rw [List.any_eq_true]
    refine ⟨n, by rw [hlist]; exact List.mem_append_right _ (List.mem_cons_self ..), ?_⟩
    rw [decide_eq_true hn, hf]; rfl
  unfold planLamps
  rw [hall, List.filter_append, List.filter_cons_of_pos (p := fun k => (circuitRec s k).contributors.any fun c =>
    decide (c.pos = p) && unchecked s p c.code) hhere, hnone xs hx, hnone ys hy, h.required]
  rfl

theorem planGroups_none (h : ∀ g : Group, 4 ≤ g.val → dirOf s p g = none) : planGroups s p = [] := by
  unfold planGroups
  refine List.filter_eq_nil_iff.mpr fun g hg => ?_
  have hge : ∀ g : Group, g ∈ allGroups.drop 4 → 4 ≤ g.val := by decide
  rw [h g (hge g hg)]
  exact Bool.false_ne_true

/-! ## The exit test after the plan -/

theorem exitMet_planned {K : List Code} {fs : List Code} (ha : awaitedLamps s p = fs) (ls : List LampItem) (gs : List Group) :
    exitMet (planned p ls gs K s) p = (ls.isEmpty && gs.isEmpty && fs.all fun f => !unchecked s p f) := by
  have hrec := posRec_planned p ls gs K s
  have haw : awaitedOf (planned p ls gs K s) p = fs := by
    unfold awaitedOf awaitedLamps
    rw [hrec]
    exact (List.append_nil _).trans ha
  unfold exitMet
  rw [haw, hrec]
  rfl

theorem awaitedLamps_caught (p : Pos) (s : State) : awaitedLamps (caught p s) p = awaitedLamps s p := rfl

/-- R70, R76: an entry of a trailer with no lamp to await and no group to look up. -/
theorem acts_entry_bare {m : Memory} (h : s.Enterable p) (hm : Retires s p m) (hl : s.ListsNone p)
    (hgroups : ∀ g : Group, 4 ≤ g.val → dirOf s p g = none) :
    ∃ rf, Acts 30 [.catchUp p, .buildPlan p, .exitTest p, .entryLamps p, .lookupGroups p, .rebuildEntry, .serviceEntry, .syncRefresh] s
      (setOffers (fun _ => [pollOffer]) { retired p m (caught p s) with port := { s.port with refresh := rf } }) := by
  refine acts_entry_runs h hm hgroups ?_
  rw [planLamps_none hl, planGroups_none hgroups,
    exitMet_planned (s := caught p s) ((awaitedLamps_caught p s).trans (awaitedLamps_none hl))]
  rfl

/-! ## An entry while MOVING -/

theorem dueReads_times (h : ∀ f, (entryOf s p f).nextRead = none) : dueReads s p = [] := by
  rw [dueReads_nil]
  intro f _
  unfold dueRead
  dsimp only
  rw [h f]

theorem planned_beside (p : Pos) (ls : List LampItem) (gs : List Group) (K : List Code) (s : State) :
    planned p ls gs K s = beside s.line (planned p ls gs K s).consist s := rfl

theorem alike_modRec {g : ConsistRecord → ConsistRecord} (hs : ∀ r, (g r).state = r.state) (hd : ∀ r, (g r).directory = r.directory)
    (p : Pos) (s : State) : AlikeTables (modRec p g s).consist s.consist := by
  intro q
  show ((s.consist.table.upd p g).get q).state = _ ∧ ((s.consist.table.upd p g).get q).directory = _
  rw [Tab.get_upd]
  split
  · rename_i hq
    rw [hq]
    exact ⟨hs _, hd _⟩
  · exact ⟨rfl, rfl⟩

theorem resulting_planned (ls : List LampItem) (gs : List Group) (K : List Code) (r : CheckResult) (s : State) :
    State.resulting q f r (planned p ls gs K s) = planned p ls gs K (State.resulting q f r s) := by
  have halike : AlikeTables (planned p ls gs K s).consist s.consist := alike_modRec
    (g := fun r => { r with lampItems := ls, groupItems := gs, firstReads := [], awaited := [], kept := K }) (fun _ => rfl) (fun _ => rfl) p s
  have hm := resulting_marked q f r s
  rw [planned_beside, resulting_beside halike, planned_beside p ls gs K (State.resulting q f r s)]
  unfold beside planned modRec
  rw [hm.line, hm.consist]

theorem deferLamps_eq (ha : awaitedLamps s p = [f]) (ls : List LampItem) (gs : List Group) (K : List Code) :
    deferLamps p (planned p ls gs K s) = emitAll [.deferUnchecked p f, .exitTest p] (planned p [] gs K s) := by
  have haw : awaitedLamps (planned p ls gs K s) p = [f] := by
    unfold awaitedLamps
    rw [posRec_planned]
    exact ha
  unfold deferLamps
  rw [haw]
  exact congrArg (emitAll _) (modRec_modRec ..)

theorem place_retired (he : stateOf s p = .exercising) (m : Memory) (g : Group) (half : Bool) :
    placeResultFrame p g half (setOffers (fun _ => [pollOffer]) (retired p m s)) =
      setOffers (fun _ => [pollOffer]) (retired p m (placeResultFrame p g half s)) := by
  have hret : placeResultFrame p g half (retired p m s) = retired p m (placeResultFrame p g half s) := by
    unfold retired
    rw [placeResultFrame_memory, placeResultFrame_ran he]
  obtain ⟨pt, hpt⟩ := placeResultFrame_port p g half s
  unfold setOffers
  rw [placeResultFrame_line, hret, hpt]
  rfl

/-- What the lamp deferred last finds: its position EXERCISING with nothing else in its plan. -/
structure State.Awaits (s : State) (p : Pos) (f : Code) : Prop where
  ending : s.Ending
  state : stateOf s p = .exercising
  unchecked : unchecked s p f = true
  lamps : awaitedLamps s p = [f]
  awaited : (posRec s p).awaited = []
  items : (posRec s p).lampItems = []
  groups : (posRec s p).groupItems = []
  sensors : ∀ g, kindOfGroup g = .sensor → dirOf s p g = none
  checks : ∀ src, nodeCheck s p src = none
  times : ∀ g, (entryOf s p g).nextRead = none

/-- R72, R75, R76: DEFERRED, which meets the exit test. -/
theorem acts_deferred {m : Memory} (h : s.Awaits p f) (hm : Retires s p m) : Acts 12 [.deferUnchecked p f, .exitTest p] s
    (setOffers (fun _ => [pollOffer]) (retired p m (State.resulting p f .deferred s))) := by
  have hn := h.ending.notices
  have hne : (entryOf s p f).result ≠ .deferred := by rw [of_decide_eq_true h.unchecked]; decide
  have hres : State.resulting p f .deferred s =
      placeResultFrame p (groupOf f) (halfOf f) (modEntry p f (fun x => { x with result := .deferred }) s) := if_neg hne
  have hwrite : runNotice (.deferUnchecked p f) s =
      emitAll [.exitTest p, .placeResult p f] (modEntry p f (fun x => { x with result := .deferred }) s) :=
    (if_pos h.unchecked).trans ((writeResult_eq p f .deferred (by rw [h.state]; decide)).trans (if_neg hne))
  have hd : (modEntry p f (fun x => { x with result := .deferred }) s).Ending := ⟨hn, h.ending.offers, h.ending.flight, h.ending.ended⟩
  have hdone : exitMet (modEntry p f (fun x => { x with result := .deferred }) s) p = true := by
    have hawd : awaitedOf (modEntry p f (fun x => { x with result := .deferred }) s) p = [f] :=
      (congrArg₂ (· ++ ·) h.lamps h.awaited : awaitedLamps s p ++ (posRec s p).awaited = [f] ++ [])
    have hun : Machine.unchecked (modEntry p f (fun x => { x with result := .deferred }) s) p f = false := by
      unfold Machine.unchecked
      rw [entryOf_modEntry_same]
      rfl
    unfold exitMet
    rw [hawd, List.all_cons, hun, show (posRec (modEntry p f (fun x => { x with result := .deferred }) s) p) = posRec s p from rfl,
      h.items, h.groups]
    rfl
  have hret : Retires (modEntry p f (fun x => { x with result := .deferred }) s) p m := hm.congr rfl rfl rfl rfl rfl
  have htimes : ∀ g, (entryOf (modEntry p f (fun x => { x with result := .deferred }) s) p g).nextRead = none := by
    intro g
    rw [entryOf_modEntry]
    split
    · exact h.times f
    · exact h.times g
  have hsens : ∀ g, kindOfGroup g = .sensor → dirOf (modEntry p f (fun x => { x with result := .deferred }) s) p g = none := h.sensors
  have hchecks : ∀ src, nodeCheck (modEntry p f (fun x => { x with result := .deferred }) s) p src = none := h.checks
  have hstate : stateOf (modEntry p f (fun x => { x with result := .deferred }) s) p = .exercising := h.state
  rw [hres]
  generalize modEntry p f (fun x => { x with result := .deferred }) s = d at *
  have hrun := acts_enterRunning_memory hd hstate hret hsens hchecks (dueReads_times (s := retired p m d) htimes)
  have htest : Acts 7 [.exitTest p] d (setOffers (fun _ => [pollOffer]) (retired p m d)) :=
    Acts.run (x := .exitTest p) (ns := [.enterRunning p]) hd.notices
      (if_pos (by rw [hdone, show exercising d p = true from decide_eq_true hstate]; rfl)) hd.notices hrun
  obtain ⟨pt, hpt⟩ := placeResultFrame_port p (groupOf f) (halfOf f) d
  have hplace := place_retired hstate m (groupOf f) (halfOf f)
  rw [hpt] at hplace ⊢
  have hfirst : Acts 9 [.deferUnchecked p f] s (setOffers (fun _ => [pollOffer]) (retired p m { d with port := pt })) :=
    Acts.run (x := .deferUnchecked p f) hn hwrite hd.notices
      (Acts.cons (l := 1) htest (Acts.silent (x := .placeResult p f) hd.notices hplace hd.notices))
  exact (Acts.cons (l := 1) hfirst (Acts.silent (x := .exitTest p) hd.notices
    (exitTest_running (s := setOffers (fun _ => [pollOffer]) (retired p m { d with port := pt })) (stateOf_ran p _)) hd.notices)).mono (by decide)

theorem lampGroups_noSensors (h : ∀ g : Group, 4 ≤ g.val → dirOf s p g = none) :
    ∀ g, kindOfGroup g = .sensor → dirOf s p g = none := by
  intro g hg
  refine h g ?_
  by_contra hlt
  rw [show kindOfGroup g = .lamp from if_pos (by omega)] at hg
  exact FnKind.noConfusion hg

/-- R72, R75, R76: an entry while MOVING of a trailer with one WIRED-fed lamp. -/
theorem acts_entry_defers {m : Memory} (h : s.Enterable p) (hm : Retires s p m) (hl : s.ListsAt p k f)
    (hun : unchecked s p f = true) (hmotion : s.decoder.motion = .moving) (hgroups : ∀ g : Group, 4 ≤ g.val → dirOf s p g = none) :
    ∃ rf, Acts 40 [.catchUp p, .buildPlan p, .exitTest p, .entryLamps p, .lookupGroups p, .rebuildEntry, .serviceEntry, .syncRefresh] s
      (setOffers (fun _ => [pollOffer]) { retired p m (caught p (State.resulting p f .deferred s)) with
        port := { (State.resulting p f .deferred s).port with refresh := rf } }) := by
  have hn := h.ending.notices
  have hawait : awaitedLamps (caught p s) p = [f] := (awaitedLamps_caught p s).trans (awaitedLamps_one hl)
  have hhead := acts_entryHead h
  rw [planLamps_one hl hun, planGroups_none hgroups] at hhead
  generalize keptResults s p = K at hhead
  have hbrec := posRec_planned p [.circuit k] [] K (caught p s)
  have hcrec := posRec_planned p [] [] K (caught p s)
  have hawaits : (planned p [] [] K (caught p s)).Awaits p f := by
    refine ⟨⟨hn, h.ending.offers, h.ending.flight, h.ending.ended⟩, (congrArg (·.state) hcrec).trans h.state,
      (unchecked_caught p p f s).trans hun, ?_, congrArg (·.awaited) hcrec, congrArg (·.lampItems) hcrec,
      congrArg (·.groupItems) hcrec, fun g hg => ?_, h.checks, (still_caught h.fresh).times⟩
    · unfold awaitedLamps
      rw [hcrec]
      exact hawait
    · exact (congrArg (fun r => r.directory.get g) hcrec).trans (lampGroups_noSensors hgroups g hg)
  have hret : Retires (planned p [] [] K (caught p s)) p m :=
    hm.congr rfl rfl (congrArg (·.warm) hcrec) (congrArg (·.identity) hcrec) (congrArg (·.directory) hcrec)
  have hdefer := acts_deferred hawaits hret
  rw [resulting_planned, retired_planned, resulting_caught] at hdefer
  have hm' := resulting_marked p f .deferred s
  have hexit : exitTest p (planned p [.circuit k] [] K (caught p s)) = planned p [.circuit k] [] K (caught p s) := by
    refine if_neg ?_
    rw [exitMet_planned hawait]
    simp
  have hlamps : Acts 13 [.entryLamps p] (planned p [.circuit k] [] K (caught p s))
      (setOffers (fun _ => [pollOffer]) (retired p m (caught p (State.resulting p f .deferred s)))) := by
    refine Acts.run (x := .entryLamps p) (ns := [.deferUnchecked p f, .exitTest p]) (t := planned p [] [] K (caught p s)) hn ?_ hn hdefer
    show entryLamps p _ = _
    have hst : isStationary (planned p [.circuit k] [] K (caught p s)) = false :=
      decide_eq_false (by rw [show (planned p [.circuit k] [] K (caught p s)).decoder.motion = .moving from hmotion]; decide)
    unfold entryLamps
    rw [if_pos (show exercising _ p = true from decide_eq_true ((congrArg (·.state) hbrec).trans h.state)), hst, if_neg (by decide)]
    exact deferLamps_eq hawait _ _ _
  have hwhole : (State.resulting p f .deferred s).Whole := by
    refine ⟨?_, fun j => ?_, fun j => ?_⟩
    · rw [hm'.check]; exact h.whole.rebuild
    · unfold circuitRec; rw [hm'.check]; exact h.whole.wants j
    · unfold circuitRec; rw [hm'.check]; exact h.whole.pending j
  have hnw : (State.resulting p f .deferred s).notices = [] := hm'.notices.trans hn
  generalize State.resulting p f .deferred s = w at *
  obtain ⟨rf, htail⟩ := acts_entryTail (z := setOffers (fun _ => [pollOffer]) (retired p m (caught p w))) (p := p) hnw
    (congrArg (·.groupItems) (posRec_ran p (caught p w))) ⟨hwhole.rebuild, hwhole.wants, hwhole.pending⟩ (.inl (pollStands_offered _))
  exact ⟨rf, Acts.mono (hhead.append (l := 19) (Acts.cons (k := 1) (l := 18) (Acts.silent (x := .exitTest p) hn hexit hn)
    (Acts.cons (k := 13) (l := 5) hlamps htail))) (by decide)⟩

end Sys2Proof.Machine
end

section
/-!
An entry into EXERCISING that waits for a lamp check, and one that waits for a group to be fetched (R72, R73, R84, R145).
-/
namespace Sys2Proof.Machine

variable {s t x y z : State} {p q : Pos} {f : Code} {k : LineNo}

/-! ## An entry at a standstill, the circuit in the queue already -/

/-- R145: the queue with p a requester of circuit k. -/
theorem queueRequest_merged {q0 : List QueueEntry} (hq : s.check.queue = q0 ++ [{ target := .circuit k, requesters := Tab.fill false }])
    (h0 : ∀ e ∈ q0, e.target ≠ .circuit k) : queueRequest (.circuit k) (some p) s =
      (.merged, setExQueue (q0 ++ [{ target := .circuit k, requesters := (Tab.fill false).put p true }]) s) := by
  have hany : (s.check.queue.any fun e => decide (e.target = .circuit k)) = true := by
    rw [hq, List.any_append]
    simp
  have hmap : (s.check.queue.map fun e => if e.target = .circuit k then { e with requesters := joinSet (some p) e.requesters } else e) =
      q0 ++ [{ target := .circuit k, requesters := (Tab.fill false).put p true }] := by
    have hfix : (q0.map fun e => if e.target = .circuit k then { e with requesters := joinSet (some p) e.requesters } else e) = q0 :=
      (List.map_congr_left (g := id) fun e he => if_neg (h0 e he)).trans (List.map_id q0)
    rw [hq, List.map_append, hfix]
    simp [joinSet]
  unfold queueRequest
  dsimp only
  rw [hany, if_pos rfl, hmap]

theorem handItems_none (h : (posRec s p).lampItems = []) : handItems p s = s := by
  unfold handItems
  rw [h]

/-- R72, R145: an entry at a standstill of a trailer with one WIRED-fed lamp, whose circuit is in the queue. -/
theorem acts_entry_waits {q0 : List QueueEntry} (h : s.Enterable p) (hl : s.ListsAt p k f) (hun : unchecked s p f = true)
    (hmotion : s.decoder.motion = .stationary) (hgroups : ∀ g : Group, 4 ≤ g.val → dirOf s p g = none)
    (hq : s.check.queue = q0 ++ [{ target := .circuit k, requesters := Tab.fill false }]) (h0 : ∀ e ∈ q0, e.target ≠ .circuit k)
    (hpoll : passed s s.service.nextPoll = false) :
    ∃ rf, Acts 20 [.catchUp p, .buildPlan p, .exitTest p, .entryLamps p, .lookupGroups p, .rebuildEntry, .serviceEntry, .syncRefresh] s
      { setExQueue (q0 ++ [{ target := .circuit k, requesters := (Tab.fill false).put p true }])
          (planned p [] [] (keptResults s p) (caught p s)) with port := { s.port with refresh := rf } } := by
  have hn := h.ending.notices
  have hawait : awaitedLamps (caught p s) p = [f] := (awaitedLamps_caught p s).trans (awaitedLamps_one hl)
  have hhead := acts_entryHead h
  rw [planLamps_one hl hun, planGroups_none hgroups] at hhead
  generalize keptResults s p = K at hhead ⊢
  have hbrec := posRec_planned p [.circuit k] [] K (caught p s)
  have hcrec := posRec_planned p [] [] K (caught p s)
  have hunc : unchecked (caught p s) p f = true := (unchecked_caught p p f s).trans hun
  let b : State := planned p [.circuit k] [] K (caught p s)
  let c : State := setExQueue (q0 ++ [{ target := .circuit k, requesters := (Tab.fill false).put p true }])
    (planned p [] [] K (caught p s))
  have hbstate : exercising b p = true := decide_eq_true ((congrArg (·.state) hbrec).trans h.state)
  have hexit : exitTest p b = b := by
    refine if_neg ?_
    rw [exitMet_planned hawait]
    simp
  have hhand : handItems p b = emitAll [.exitTest p, .handItems p] c := by
    unfold handItems
    rw [show (posRec b p).lampItems = [.circuit k] from congrArg (·.lampItems) hbrec]
    dsimp only
    rw [if_pos hbstate, show itemTarget p (.circuit k) = .circuit k from rfl, queueRequest_merged (s := b) hq h0]
    exact congrArg (emitAll _) (congrArg (setExQueue _) (modRec_modRec ..))
  have hagain : exitTest p c = c := by
    refine if_neg ?_
    have : exitMet c p = exitMet (planned p [] [] K (caught p s)) p := rfl
    rw [this, exitMet_planned hawait]
    simp [hunc]
  have hlamps : Acts 4 [.entryLamps p] b c := by
    refine Acts.run (x := .entryLamps p) (ns := [.handItems p]) (t := b) hn ?_ hn
      (Acts.run (x := .handItems p) hn hhand hn (Acts.cons (k := 1) (l := 1) (Acts.silent (x := .exitTest p) hn hagain hn)
        (Acts.silent (x := .handItems p) hn (handItems_none (congrArg (·.lampItems) hcrec)) hn)))
    show entryLamps p b = _
    have hst : isStationary b = true := decide_eq_true hmotion
    unfold entryLamps
    rw [if_pos hbstate, if_pos hst]
    rfl
  obtain ⟨rf, htail⟩ := acts_entryTail (z := c) (p := p) hn (congrArg (·.groupItems) hcrec)
    ⟨h.whole.rebuild, h.whole.wants, h.whole.pending⟩ (.inr hpoll)
  exact ⟨rf, Acts.mono (hhead.append (l := 10) (Acts.cons (k := 1) (l := 9) (Acts.silent (x := .exitTest p) hn hexit hn)
    (Acts.cons (k := 4) (l := 5) hlamps htail))) (by decide)⟩

/-! ## An entry with a group to fetch -/

theorem acts_entryLamps_none (hn : s.notices = []) (he : stateOf s p = .exercising) (ha : awaitedLamps s p = [])
    (hi : (posRec s p).lampItems = []) (hexit : exitTest p s = s) : Acts 2 [.entryLamps p] s s := by
  have hex : exercising s p = true := decide_eq_true he
  by_cases hst : isStationary s = true
  · refine Acts.run (x := .entryLamps p) (ns := [.handItems p]) hn ?_ hn (Acts.silent (x := .handItems p) hn (handItems_none hi) hn)
    show entryLamps p s = _
    unfold entryLamps
    rw [if_pos hex, if_pos hst]
    rfl
  · have hdefer : deferLamps p s = emitAll [.exitTest p] s := by
      unfold deferLamps
      rw [ha]
      refine congrArg (emitAll _) ((modRec_congr (g := fun r => r) ?_).trans (modRec_self p s))
      show { posRec s p with lampItems := [] } = posRec s p
      rw [← hi]
    refine Acts.run (x := .entryLamps p) hn ?_ hn (Acts.silent (x := .exitTest p) hn hexit hn)
    show entryLamps p s = _
    unfold entryLamps
    rw [if_pos hex, if_neg hst]
    exact hdefer

/-- R84: the block of a group that the plan waits for. -/
def planFetch (b : BlockNo) (p : Pos) (g : Group) (s : State) : State :=
  modGroup p g (fun y => { y with block := some b })
    (modBlock b (fun _ => { state := .fetching, owner := some (p, g), progress := some (0, 0), waiters := [.plan p] }) s)

/-- What the lookup of a group finds that no block holds, block b being the lowest FREE one. -/
structure State.Claims (s : State) (p : Pos) (g : Group) (b : BlockNo) (e : DirEntry) : Prop where
  entry : dirOf s p g = some e
  record : groupRec s p g = {}
  block : blockOf s b = {}
  lowest : ∀ c, c < b → (blockOf s c).state ≠ .free
  alone : ∀ c h, (blockOf s c).owner = some (p, h) → (blockOf s c).state ≠ .fetching
  address : e.locator ≤ 1023
  word : ∀ fl, s.line.flight = some fl → fl.offer.why ≠ (firstWord p g b e).why

theorem joinWait_new (b : BlockNo) (w : Waiter) {x : Block} (hx : x.waiters = []) (s : State) :
    joinWait b w (modBlock b (fun _ => x) s) = modBlock b (fun _ => { x with waiters := [w] }) s := by
  unfold joinWait modBlock
  dsimp only
  rw [Tab.upd_upd, hx]
  rfl

theorem lookupGroup_claims {g : Group} {b : BlockNo} {e : DirEntry} (hx : s.Ending) (hs : inService s p = true)
    (h : s.Claims p g b e) : lookupGroup p g none none (.plan p) s =
      (.wait, emitAll (holdNotices p) (setOffers (fun _ => [firstWord p g b e]) (planFetch b p g s))) := by
  have hfree : (blockOf s b).state = .free := by rw [h.block]
  have hset : blockSet b p g false s = modGroup p g (fun r => { r with block := some b })
      (modBlock b (fun _ => { state := .fetching, owner := some (p, g), pinned := false, progress := some (0, 0) }) s) := by
    unfold blockSet dropOwner
    rw [h.block]
  have hoffer : offerFetch p (blockSet b p g false s) = setOffers (fun _ => [firstWord p g b e]) (blockSet b p g false s) := by
    rw [offerFetch_blockSet h.entry (fun c _ g' ho => h.alone c g' ho) h.word, hset]
    exact State.Ending.only (s := modGroup p g (fun r => { r with block := some b })
      (modBlock b (fun _ => { state := .fetching, owner := some (p, g), pinned := false, progress := some (0, 0) }) s))
      ⟨hx.notices, hx.offers, hx.flight, hx.ended⟩ (firstWord_valid h.address)
  have hclaim := claim_takes (p := p) (g := g) (f := none) (k := none) (pin := false) (takeBlock_free hfree h.lowest)
  rw [hoffer] at hclaim
  have hblock : (groupRec (emitAll (holdNotices p) (setOffers (fun _ => [firstWord p g b e]) (blockSet b p g false s))) p g).block = some b := by
    show (groupRec (blockSet b p g false s) p g).block = some b
    rw [groupRec_blockSet, if_pos ⟨rfl, rfl⟩]
  refine (lookup_claims hs h.entry (by rw [h.record]) (by rw [h.record]) (by rw [h.record]) hclaim hblock).trans ?_
  refine congrArg (Prod.mk _) ?_
  have hjoin : joinWait b (.plan p) (blockSet b p g false s) = planFetch b p g s := by
    rw [hset]
    show modGroup p g (fun r => { r with block := some b }) (joinWait b (.plan p)
      (modBlock b (fun _ => { state := .fetching, owner := some (p, g), pinned := false, progress := some (0, 0) }) s)) = _
    exact congrArg (modGroup p g _) (joinWait_new b (.plan p) rfl s)
  exact congrArg (fun y => emitAll (holdNotices p) (setOffers (fun _ => [firstWord p g b e]) y)) hjoin

/-- R70, R73, R84: an entry of a trailer with no lamp to await, the first of its groups held by no block. -/
theorem acts_entry_fetches {g : Group} {gs : List Group} {b : BlockNo} {e : DirEntry} (h : s.Enterable p) (hl : s.ListsNone p)
    (hgroups : planGroups s p = g :: gs) (hc : s.Claims p g b e) (hpoll : passed s s.service.nextPoll = false) :
    ∃ rf, Acts 20 [.catchUp p, .buildPlan p, .exitTest p, .entryLamps p, .lookupGroups p, .rebuildEntry, .serviceEntry, .syncRefresh] s
      { setOffers (fun _ => [firstWord p g b e]) (planFetch b p g (planned p [] (g :: gs) (keptResults s p) (caught p s))) with
        port := { s.port with refresh := rf } } := by
  have hn := h.ending.notices
  have hawait : awaitedLamps (caught p s) p = [] := (awaitedLamps_caught p s).trans (awaitedLamps_none hl)
  have hhead := acts_entryHead h
  rw [planLamps_none hl, hgroups] at hhead
  generalize keptResults s p = K at hhead ⊢
  have hrec := posRec_planned p [] (g :: gs) K (caught p s)
  have hexit : exitTest p (planned p [] (g :: gs) K (caught p s)) = planned p [] (g :: gs) K (caught p s) := by
    refine if_neg ?_
    rw [exitMet_planned hawait]
    simp
  have hstate : stateOf (planned p [] (g :: gs) K (caught p s)) p = .exercising := (congrArg (·.state) hrec).trans h.state
  have hlamps : Acts 2 [.entryLamps p] (planned p [] (g :: gs) K (caught p s)) (planned p [] (g :: gs) K (caught p s)) := by
    refine acts_entryLamps_none hn hstate ?_ (congrArg (·.lampItems) hrec) hexit
    unfold awaitedLamps
    rw [hrec]
    exact hawait
  have hstill : (planned p [] (g :: gs) K (caught p s)).Still p :=
    ⟨(still_caught h.fresh).owed, (still_caught h.fresh).read, (still_caught h.fresh).met, (still_caught h.fresh).times⟩
  have hclaims : (planned p [] (g :: gs) K (caught p s)).Claims p g b e :=
    ⟨(congrArg (fun r => r.directory.get g) hrec).trans hc.entry, hc.record, hc.block, hc.lowest, hc.alone, hc.address, hc.word⟩
  have hending : (planned p [] (g :: gs) K (caught p s)).Ending := ⟨hn, h.ending.offers, h.ending.flight, h.ending.ended⟩
  have hwhole : (planned p [] (g :: gs) K (caught p s)).Whole := ⟨h.whole.rebuild, h.whole.wants, h.whole.pending⟩
  have hitems : (posRec (planned p [] (g :: gs) K (caught p s)) p).groupItems = g :: gs := congrArg (·.groupItems) hrec
  have hport : (planned p [] (g :: gs) K (caught p s)).port = s.port := rfl
  have hpass : passed (planned p [] (g :: gs) K (caught p s)) (planned p [] (g :: gs) K (caught p s)).service.nextPoll = false := hpoll
  generalize planned p [] (g :: gs) K (caught p s) = a at *
  have hin : inService a p = true := by unfold inService; rw [hstate]
  let c : State := setOffers (fun _ => [firstWord p g b e]) (planFetch b p g a)
  have hrest : c.AtRest p := by
    refine State.Still.atRest (s := c) ⟨hstill.owed, hstill.read, hstill.met, hstill.times⟩ ?_
    intro o ho
    rw [show c.line.offers = [firstWord p g b e] from rfl] at ho
    rw [List.mem_singleton.mp ho]
    show (firstWord p g b e).requester ≠ .deliveryUnit
    exact fun hc => Requester.noConfusion hc
  have hlook : Acts 4 [.lookupGroups p] a c := by
    refine Acts.run (x := .lookupGroups p) (ns := holdNotices p) (t := c) hending.notices ?_ hending.notices
      (acts_holdNotices (s := c) hending.notices hin hrest)
    show lookupGroups p a = _
    unfold lookupGroups
    rw [hitems]
    dsimp only
    rw [if_pos (show exercising a p = true from decide_eq_true hstate), lookupGroup_claims hending hin hclaims]
  obtain ⟨rf, hrf⟩ := acts_syncRefresh (s := c) hending.notices
  have htail : Acts 4 [.rebuildEntry, .serviceEntry, .syncRefresh] c { c with port := { c.port with refresh := rf } } :=
    Acts.cons (k := 2) (l := 2) (acts_rebuildEntry (s := c) hending.notices ⟨hwhole.rebuild, hwhole.wants, hwhole.pending⟩)
      (Acts.cons (k := 1) (l := 1) (acts_serviceEntry (s := c) hending.notices (.inr hpass)) hrf)
  rw [← hport]
  exact ⟨rf, Acts.mono (hhead.append (l := 11) (Acts.cons (k := 1) (l := 10) (Acts.silent (x := .exitTest p) hending.notices hexit hending.notices)
    (Acts.cons (k := 2) (l := 8) hlamps (Acts.cons (k := 4) (l := 4) hlook htail)))) (by decide)⟩

end Sys2Proof.Machine
end

section
/-!
The plan of an entry, and the last word of a description (R53, R68, R70, R71, R76).
-/
namespace Sys2Proof.Machine

variable {s t v x y z : State} {p q : Pos} {f : Code} {k : LineNo} {a : Nat}

/-! ## The plan -/

theorem mem_circuit_plan (k : LineNo) : .circuit k ∈ planLamps s p ↔
    ∃ c ∈ (circuitRec s k).contributors, c.pos = p ∧ (entryOf s p c.code).result = .unchecked := by
  have hall : ∀ k : LineNo, k ∈ allLines := by decide
  unfold planLamps unchecked
  simp only [List.mem_append, List.mem_map, List.mem_filter, List.any_eq_true, Bool.and_eq_true, decide_eq_true_eq]
  constructor
  · rintro (⟨j, ⟨-, c, hc, hp, hu⟩, he⟩ | ⟨f, -, he⟩)
    · cases he; exact ⟨c, hc, hp, hu⟩
    · cases he
  · rintro ⟨c, hc, hp, hu⟩
    exact .inl ⟨k, ⟨hall k, c, hc, hp, hu⟩, rfl⟩

theorem mem_lamp_plan (f : Code) : .lamp f ∈ planLamps s p ↔ f ∈ (posRec s p).required ∧ (entryOf s p f).result = .unchecked := by
  unfold planLamps unchecked
  simp only [List.mem_append, List.mem_map, List.mem_filter, decide_eq_true_eq]
  constructor
  · rintro (⟨j, -, he⟩ | ⟨g, ⟨hg, hu⟩, he⟩)
    · cases he
    · cases he; exact ⟨hg, hu⟩
  · rintro ⟨hf, hu⟩
    exact .inr ⟨f, ⟨hf, hu⟩, rfl⟩

theorem mem_planGroups (g : Group) : g ∈ planGroups s p ↔ 4 ≤ g.val ∧ dirOf s p g ≠ none := by
  have hdrop : ∀ g : Group, g ∈ allGroups.drop 4 ↔ 4 ≤ g.val := by decide
  unfold planGroups
  rw [List.mem_filter, hdrop, Option.isSome_iff_ne_none]

theorem planGroups_sorted : (planGroups s p).Pairwise (· < ·) := by
  unfold planGroups
  exact List.Pairwise.filter _ (by decide)

theorem mem_upperCodes (f : Code) : f ∈ allCodes.drop 64 ↔ 64 ≤ f.val := by
  unfold allCodes
  rw [List.mem_drop_iff_getElem]
  simp only [List.getElem_finRange, List.length_finRange]
  constructor
  · rintro ⟨i, hi, rfl⟩
    show 64 ≤ 64 + i
    omega
  · intro h
    have := f.isLt
    exact ⟨f.val - 64, by omega, Fin.ext (by show 64 + (f.val - 64) = f.val; omega)⟩

theorem kindOf_lamp_iff (f : Code) : kindOf f ≠ .lamp ↔ 64 ≤ f.val := by
  unfold kindOf kindOfGroup groupOf
  dsimp only
  constructor
  · intro h
    by_contra hc
    exact h (if_pos (by omega))
  · intro h
    rw [if_neg (by omega)]
    split <;> decide

theorem mem_keptResults (f : Code) : f ∈ keptResults s p ↔ kindOf f ≠ .lamp ∧ ¬ (entryOf s p f).result = .unchecked := by
  unfold keptResults unchecked
  rw [List.mem_filter, mem_upperCodes, kindOf_lamp_iff]
  simp

/-- R71, R73: the first read of a row that is asked for. -/
theorem mem_requiredReads {b : BlockNo} {g : Group} {e : DirEntry} (x : FirstRead) : x ∈ requiredReads s p b g e ↔
    ∃ (m : Fin 16) (row : Row), m.val < e.members ∧ (blockOf s b).rows.get m = some row ∧ row.unusable = false
      ∧ row.record.required = true ∧ x = { code := codeOf g m, point := row.record.point }
      ∧ ((entryOf s p x.code).result = .unchecked ∨ x.code ∉ (posRec s p).kept) := by
  have hall : ∀ m : Fin 16, m ∈ allMembers := by decide
  unfold requiredReads requiredMembers unchecked
  rw [List.mem_filter, List.mem_filterMap]
  simp only [Bool.or_eq_true, decide_eq_true_eq, Bool.not_eq_true', List.contains_eq_mem, decide_eq_false_iff_not]
  constructor
  · rintro ⟨⟨m, -, hm⟩, hx⟩
    cases hrow : (blockOf s b).rows.get m with
    | none => rw [hrow] at hm; cases hm
    | some row =>
      rw [hrow] at hm
      dsimp only at hm
      by_cases hc : m.val < e.members ∧ row.unusable = false ∧ row.record.required = true
      · rw [if_pos hc] at hm
        obtain ⟨h1, h2, h3⟩ := hc
        exact ⟨m, row, h1, hrow, h2, h3, (Option.some.inj hm).symm, hx⟩
      · rw [if_neg hc] at hm; cases hm
  · rintro ⟨m, row, h1, hrow, h2, h3, rfl, hx⟩
    refine ⟨⟨m, hall m, ?_⟩, hx⟩
    rw [hrow]
    exact if_pos ⟨h1, h2, h3⟩

/-- R73: the first reads of a group in member order. -/
theorem requiredReads_sorted {b : BlockNo} {g : Group} {e : DirEntry} :
    ((requiredReads s p b g e).map fun x => x.code).Pairwise (· < ·) := by
  unfold requiredReads
  rw [List.pairwise_map]
  refine List.Pairwise.filter _ ?_
  unfold requiredMembers
  refine List.Pairwise.filterMap (R := (· < ·)) _ ?_ (by decide)
  intro m m' hlt x hx x' hx'
  have hcode : ∀ (m : Fin 16) (x : FirstRead), (match (blockOf s b).rows.get m with
      | some r =>
        if m.val < e.members ∧ r.unusable = false ∧ r.record.required = true then
          some ({ code := codeOf g m, point := r.record.point } : FirstRead)
        else none
      | none => none) = some x → x.code = codeOf g m := by
    intro m x hx
    split at hx
    · split at hx
      · cases hx; rfl
      · cases hx
    · cases hx
  rw [hcode m x hx, hcode m' x' hx']
  show 16 * g.val + m.val < 16 * g.val + m'.val
  have : m.val < m'.val := hlt
  omega

theorem planLamps_shape : ∃ (ks : List LineNo) (fs : List Code),
    planLamps s p = ks.map LampItem.circuit ++ fs.map LampItem.lamp ∧ ks.Pairwise (· < ·) ∧ fs.Sublist (posRec s p).required :=
  ⟨_, _, rfl, List.Pairwise.filter _ (by decide), List.filter_sublist⟩

theorem exitMet_iff : exitMet s p = true ↔ (posRec s p).lampItems = [] ∧ (posRec s p).groupItems = []
    ∧ (∀ k, ∀ c ∈ (circuitRec s k).contributors, c.pos = p → ¬ (entryOf s p c.code).result = .unchecked)
    ∧ (∀ f ∈ (posRec s p).required, ¬ (entryOf s p f).result = .unchecked)
    ∧ ∀ f ∈ (posRec s p).awaited, ¬ (entryOf s p f).result = .unchecked := by
  have hall : ∀ k : LineNo, k ∈ allLines := by decide
  unfold exitMet awaitedOf awaitedLamps wiredAwaited unchecked
  simp only [Bool.and_eq_true, List.isEmpty_iff, List.all_eq_true, List.mem_append, List.mem_flatMap, List.mem_map, List.mem_filter,
    decide_eq_true_eq, Bool.not_eq_true', decide_eq_false_iff_not]
  constructor
  · rintro ⟨⟨hl, hg⟩, h⟩
    exact ⟨hl, hg, fun k c hc hp => h c.code (.inl (.inl ⟨k, hall k, c, ⟨hc, hp⟩, rfl⟩)), fun f hf => h f (.inl (.inr hf)),
      fun f hf => h f (.inr hf)⟩
  · rintro ⟨hl, hg, hc, hr, ha⟩
    refine ⟨⟨hl, hg⟩, ?_⟩
    rintro f ((⟨k, -, c, ⟨hmem, hp⟩, rfl⟩ | hf) | hf)
    · exact hc k c hmem hp
    · exact hr f hf
    · exact ha f hf

/-! ## The last word -/

/-- R70: the stream record of a description that is complete. -/
def doneStream (r : StreamRecord) (sum : Word) : StreamRecord :=
  { r with active := false, next := none, buffer := [], bufferOf := none, sum := sum }

/-- R53, R68: the description of p complete. -/
def described (p : Pos) (r : StreamRecord) (sum : Word) (s : State) : State :=
  modStream p (fun _ => { r with next := none, buffer := [], bufferOf := none, sum := sum })
    (modRec p (fun y => { y with directory := r.directory, required := [] }) s)

/-- R70: p EXERCISING, its description complete. -/
def entering (p : Pos) (r : StreamRecord) (dl : Option Time) (s : State) : State :=
  modStream p (fun _ => r)
    (modRec p (fun y => { y with state := .exercising, directory := r.directory, required := [], deadline := dl }) s)

theorem enterExercising_described (r : StreamRecord) (sum : Word) (s : State) : enterExercising p (described p r sum s) =
    emitAll [.catchUp p, .buildPlan p, .exitTest p, .entryLamps p, .lookupGroups p, .rebuildEntry, .serviceEntry, .syncRefresh]
      (entering p (doneStream r sum) (some (s.now + ms 10000)) s) := by
  refine congrArg (emitAll _) ?_
  unfold described entering modStream modRec
  dsimp only
  rw [Tab.upd_upd, Tab.upd_upd]
  rfl

theorem describeDone_eq {r : StreamRecord} (hreq : r.required = []) (s : State) : describeDone p (modStream p (fun _ => r) s) =
    emitAll ((r.wires.map fun i => Notice.addContributor p i) ++ [.enterExercising p]) (described p r r.sum s) := by
  unfold describeDone
  rw [streamRec_modStream]
  refine congrArg (emitAll _) ?_
  unfold described modStream modRec
  dsimp only
  rw [Tab.upd_upd, hreq]

/-- What the last word of a description finds. -/
structure State.LastWord (s : State) (p : Pos) (a : Nat) (hd : Tab Word 8) (g : Group) (e : DirEntry) (w0 w1 w2 w : Word) : Prop where
  taking : s.Taking p a
  header : (streamRec s p).header = some hd
  buffer : (streamRec s p).buffer = [w0, w1, w2]
  required : (streamRec s p).required = []
  entry : (streamRec s p).directory.get g = some e
  last : a + 1 = e.locator + 4 * e.members
  some_members : 1 ≤ e.members
  members : e.members ≤ 16
  alone : ∀ g' e', (streamRec s p).directory.get g' = some e' → Holds e' a → g' = g
  warm : (streamRec s p).warm = true → ∀ z : Group, g < z → z.val < 4 → (streamRec s p).directory.get z = none
  cold : (streamRec s p).warm = false → 8 + 2 * (hd.get 5).toNat ≤ a ∧ a + 1 = (hd.get 1).toNat ∧ (streamRec s p).sum + w = 0
  plain : unusableRecord g (fnRecordOf w0 w1 w2 w) = true ∨
    (fnRecordOf w0 w1 w2 w).feed = .node ∧ (fnRecordOf w0 w1 w2 w).required = false

theorem State.LastWord.holds {hd : Tab Word 8} {g : Group} {e : DirEntry} {w0 w1 w2 w : Word}
    (h : s.LastWord p a hd g e w0 w1 w2 w) : Holds e a := by
  have := h.last
  have := h.some_members
  exact ⟨by omega, by omega⟩

theorem captureRecord_plain {g : Group} {f : Code} {c : FnRecord} (hf : groupOf f = g)
    (h : unusableRecord g c = true ∨ c.feed = .node ∧ c.required = false) (r : StreamRecord) : captureRecord f c r = r := by
  obtain ⟨hskip, -, hnode, -⟩ := captureRecord_cases f c r
  rw [hf] at hskip hnode
  by_cases hu : unusableRecord g c = true
  · exact hskip (.inl hu)
  · by_cases hk : kindOf f = .lamp
    · obtain ⟨hfeed, hreq⟩ := h.resolve_left hu
      exact hnode (Bool.eq_false_iff.mpr hu) hk hfeed hreq
    · exact hskip (.inr hk)

theorem itemAfter_absent {xs : List Nat} (h : a ∉ xs) : itemAfter a xs = none := by
  have := itemAfter_skip (ys := []) h
  rwa [List.append_nil] at this

/-- R53, R66, R67: after the last word of a description it is complete. -/
theorem lastWord_describes {hd : Tab Word 8} {g : Group} {e : DirEntry} {w0 w1 w2 w : Word}
    (h : s.LastWord p a hd g e w0 w1 w2 w) : streamEnd p a .ready (some w) s =
      emitAll (((streamRec s p).wires.map fun i => Notice.addContributor p i) ++ [.enterExercising p])
        (described p (streamRec s p) (if (streamRec s p).warm then (streamRec s p).sum else (streamRec s p).sum + w) s) := by
  have hholds := h.holds
  have harr := arrayAt_mem h.entry hholds h.alone
  have hmod : (a - e.locator) % 4 = 3 := by
    have := h.last
    have := h.some_members
    omega
  have hcodelt : 16 * g.val + (a - e.locator) / 4 < 192 := by
    have := h.last
    have := h.members
    have := g.isLt
    omega
  let f : Code := ⟨16 * g.val + (a - e.locator) / 4, hcodelt⟩
  have hcode : codeOf g (memberAt e a) = f := codeOf_memberAt hholds h.members rfl
  have hgroup : groupOf f = g := groupOf_of hholds h.members rfl
  have htake : ∀ c, takeRecordWord g e a w { streamRec s p with sum := c } =
      { streamRec s p with sum := c, buffer := [], bufferOf := none } := by
    intro c
    rw [(takeRecordWord_cases hcode w { streamRec s p with sum := c }).2 w0 w1 w2 hmod h.buffer, captureRecord_plain hgroup h.plain]
  obtain ⟨hcold, hwarm, -⟩ := streamEnd_cases h.taking
  cases hw : (streamRec s p).warm with
  | false =>
    obtain ⟨hbeyond, hlast, hsum⟩ := h.cold hw
    have hint := ((interpretWord_cases hd a w { streamRec s p with sum := (streamRec s p).sum + w }).2.2.2 g e hbeyond harr).trans
      (congrArg some (htake _))
    have hdone := ((takeColdWord_cases hd w s).2 _ hint).2 (by omega)
    have hends : coldEnds p (modStream p (fun _ => { streamRec s p with sum := (streamRec s p).sum + w, buffer := [], bufferOf := none }) s) =
        describeDone p (modStream p (fun _ => { streamRec s p with sum := (streamRec s p).sum + w, buffer := [], bufferOf := none }) s) := by
      unfold coldEnds
      rw [streamRec_modStream]
      exact if_pos hsum
    rw [hcold w hd hw h.header, hdone, hends, describeDone_eq (r := { streamRec s p with sum := (streamRec s p).sum + w, buffer := [], bufferOf := none }) h.required s]
    rfl
  | true =>
    have hnext : itemAfter a (warmAddrs (streamRec s p).directory) = none := by
      by_cases hk : kindOfGroup g = .lamp
      · rw [itemAfter_warm hk h.entry hholds h.alone, if_neg (by have := h.last; omega), arrayRuns_none]
        · rfl
        · intro z hz
          have hlt := of_decide_eq_true (List.mem_filter.mp hz).2
          have hmem : ∀ z : Group, z ∈ ([0, 1, 2, 3] : List Group) → z.val < 4 := by decide
          exact h.warm hw z hlt (hmem z (List.mem_filter.mp hz).1)
      · refine itemAfter_absent fun hmem => ?_
        obtain ⟨z, hz, e', hd', hh⟩ := mem_arrayRuns (by rw [warmAddrs_eq] at hmem; exact hmem)
        have hlt : ∀ z : Group, z ∈ ([0, 1, 2, 3] : List Group) → kindOfGroup z = .lamp := by decide
        exact hk (h.alone z e' hd' hh ▸ hlt z hz)
    have hdone : takeWarmWord p a w s = describeDone p (modStream p (fun _ => { streamRec s p with buffer := [], bufferOf := none }) s) := by
      unfold takeWarmWord
      dsimp only
      rw [harr, hnext]
      have := htake (streamRec s p).sum
      dsimp only
      rw [show takeRecordWord g e a w (streamRec s p) = { streamRec s p with buffer := [], bufferOf := none } from this]
    rw [hwarm w hw, hdone, describeDone_eq (r := { streamRec s p with buffer := [], bufferOf := none }) h.required s]
    rfl

end Sys2Proof.Machine
end

section
/-!
The last word of a description: RUNNING at once, or EXERCISING with a check or a group to wait for (R53, R70, R72, R73, R76).
-/
namespace Sys2Proof.Machine

variable {s t u v w x y z : State} {p q : Pos} {f : Code} {k : LineNo} {a : Nat} {wd : Word}

/-! ## What an entry leaves -/

/-- R70, R76: p after its entry, in this state of bring-up. -/
def arrived (p : Pos) (r : StreamRecord) (st : PosState) (dl : Option Time) (gs : List Group) (ks : List Code) (s : State) : State :=
  modStream p (fun _ => r) (modRec p (fun y => { y with
    state := st, directory := r.directory, required := [], deadline := dl, groupItems := gs, firstReads := [], awaited := [],
    kept := ks }) s)

theorem planned_entering {r : StreamRecord} {dl : Option Time} (gs : List Group) (ks : List Code) (h : (posRec y p).lampItems = []) :
    planned p [] gs ks (entering p r dl y) = arrived p r .exercising dl gs ks y := by
  have hswap : planned p [] gs ks (entering p r dl y) = modStream p (fun _ => r) (planned p [] gs ks (modRec p (fun y => { y with
      state := .exercising, directory := r.directory, required := [], deadline := dl }) y)) := rfl
  rw [hswap]
  refine congrArg (modStream p _) ((modRec_modRec ..).trans (modRec_congr ?_))
  show ({ posRec y p with
    state := .exercising, directory := r.directory, required := [], deadline := dl, lampItems := [], groupItems := gs,
    firstReads := [], awaited := [], kept := ks } : ConsistRecord) = _
  rw [← h]

theorem ran_entering {r : StreamRecord} {dl : Option Time} (h : (posRec y p).lampItems = []) :
    ran p (entering p r dl y) = arrived p r .running none [] [] y := by
  have hswap : ran p (entering p r dl y) = modStream p (fun _ => r) (ran p (modRec p (fun y => { y with
      state := .exercising, directory := r.directory, required := [], deadline := dl }) y)) := rfl
  rw [hswap]
  refine congrArg (modStream p _) ((modRec_modRec ..).trans (modRec_congr ?_))
  show ({ posRec y p with
    state := .running, directory := r.directory, required := [], deadline := none, lampItems := [], groupItems := [],
    firstReads := [], awaited := [], kept := [] } : ConsistRecord) = _
  rw [← h]

/-- R92, R94, R199: the last word leaves u, but for refresh times and the entries of v as the entry notice leaves them. -/
def Leaves (s : State) (p : Pos) (wd : Word) (v u : State) : Prop :=
  ∃ t, exec (.transactionEnd { heard := true, ready := true, service := false, data := some wd }) s = .next t
    ∧ t = { setUnheard p 0 u with
        port := { u.port with refresh := t.port.refresh }
        delivery := { s.delivery with status := t.delivery.status } }
    ∧ ∀ q f, entryOf t q f = if q = p then
        { entryOf v p f with
          notFitted := false, unavailable := false, retryAt := none
          delivered := if kindOf f = .sensor then (entryOf s p f).delivered else some 0 }
      else entryOf v q f

/-- The state that the entry of p starts from: s but for results, ports and what lists a filed contributor changes. -/
structure Filed (s v : State) : Prop where
  delivery : v.delivery = { s.delivery with status := v.delivery.status }
  entry : ∀ q f, ∃ r, entryOf v q f = { entryOf s q f with result := r }

theorem Filed.refl (s : State) : Filed s s := ⟨rfl, fun _ _ => ⟨_, rfl⟩⟩

theorem Filed.resulting (h : Filed s v) (q : Pos) (f : Code) (r : CheckResult) : Filed s (State.resulting q f r v) := by
  refine ⟨?_, fun q' f' => ?_⟩
  · obtain ⟨st, pt, heq⟩ := resulting_marked q f r v
    rw [heq]
    show { v.delivery with status := st } = _
    rw [h.delivery]
  · rw [resulting_entry]
    split
    · rename_i hc
      obtain ⟨r', he⟩ := h.entry q f
      refine ⟨r, ?_⟩
      rw [he, hc.1, hc.2]
    · exact h.entry q' f'

theorem Filed.writing (h : Filed s v) (ws : List (Pos × Code × CheckResult)) : Filed s (writing ws v) := by
  induction ws generalizing v with
  | nil => exact h
  | cons w ws ih => exact ih (h.resulting w.1 w.2.1 w.2.2)

theorem caughtEntry_filed (h : Filed s v) (p : Pos) (f : Code) : caughtEntry f (entryOf v p f) =
    { entryOf v p f with
      notFitted := false, unavailable := false, retryAt := none
      delivered := if kindOf f = .sensor then (entryOf s p f).delivered else some 0 } := by
  obtain ⟨r, he⟩ := h.entry p f
  unfold caughtEntry
  rw [he]

/-- An entry that leaves y, whose table is that of v after the entry notice. -/
theorem leaves_of (hf : Filed s v) (hd : t.delivery = (caught p v).delivery) (hp : Refreshed t.port u.port)
    (hexec : exec (.transactionEnd { heard := true, ready := true, service := false, data := some wd }) s = .next t)
    (hu : t = { setUnheard p 0 u with port := t.port, delivery := t.delivery }) : Leaves s p wd v u := by
  refine ⟨t, hexec, ?_, fun q f => ?_⟩
  · have hdel : t.delivery = { s.delivery with status := t.delivery.status } := by
      rw [hd]
      exact congrArg (fun d : Delivery => { d with status := (caught p v).delivery.status }) hf.delivery
    rw [← hp.eq, ← hdel]
    exact hu
  · have hent : entryOf t q f = entryOf (caught p v) q f := by unfold entryOf; rw [hd]
    rw [hent, entryOf_caught, caughtEntry_filed hf]

/-- R76: an entry that ends at once, w being the state entered with the results of v. -/
theorem leaves_runs {r : StreamRecord} {dl : Option Time} {m : Memory} {rf} {v0 : State} (hf : Filed s v) (hv : Marked v v0)
    (hw : Marked w (entering p r dl (setUnheard p 0 v0.over))) (hd : w.delivery = v.delivery) (hp : Refreshed w.port v.port)
    (hi : (posRec v0 p).lampItems = [])
    (hexec : exec (.transactionEnd { heard := true, ready := true, service := false, data := some wd }) s =
      .next (State.granted pollOffer { retired p m (caught p w) with port := { w.port with refresh := rf } })) :
    Leaves s p wd v { (arrived p r .running none [] [] v).granted pollOffer with memory := m } := by
  have hran := ran_entering (y := setUnheard p 0 v0.over) (r := r) (dl := dl) hi
  obtain ⟨st, pt, rfl⟩ := hw
  obtain ⟨st', pt', rfl⟩ := hv
  have hret : retired p m (caught p { entering p r dl (setUnheard p 0 v0.over) with
      delivery := { (entering p r dl (setUnheard p 0 v0.over)).delivery with status := st }, port := pt }) =
      { arrived p r .running none [] [] (setUnheard p 0 v0.over) with
        delivery := (caught p { v0 with delivery := { v0.delivery with status := st } }).delivery, port := pt, memory := m } := by
    rw [← hran]
    rfl
  rw [hret] at hexec
  refine leaves_of hf ?_ (Refreshed.trans (b := pt) ⟨rf, rfl⟩ hp) hexec rfl
  show (caught p { v0 with delivery := { v0.delivery with status := st } }).delivery = _
  have hst : ({ v0.delivery with status := st } : Delivery) = { v0.delivery with status := st' } := hd
  rw [hst]
  rfl

/-- What the notices of an entry of p find. -/
structure State.Arriving (v : State) (p : Pos) : Prop where
  ending : (setUnheard p 0 v.over).Ending
  fresh : v.Fresh p
  checks : ∀ src, nodeCheck v p src = none
  whole : v.Whole
  items : (posRec v p).lampItems = []

theorem posRec_entering (p : Pos) (r : StreamRecord) (dl : Option Time) (s : State) : posRec (entering p r dl s) p =
    { posRec s p with state := .exercising, directory := r.directory, required := [], deadline := dl } := posRec_modRec ..

theorem State.Arriving.enterable (h : v.Arriving p) (r : StreamRecord) (dl : Option Time) :
    (entering p r dl (setUnheard p 0 v.over)).Enterable p := by
  have hrec := posRec_entering p r dl (setUnheard p 0 v.over)
  obtain ⟨h1, h2, h3, h4, h5, h6⟩ := h.fresh
  exact ⟨⟨h.ending.notices, h.ending.offers, h.ending.flight, h.ending.ended⟩, congrArg (·.state) hrec, ⟨h1, h2, h3, h4, h5, h6⟩,
    h.checks, ⟨h.whole.rebuild, h.whole.wants, h.whole.pending⟩⟩

/-- R53, R68, R70: the notices of the last word of a description, up to the entry. -/
theorem acts_lastWord {k l : Nat} {hd : Tab Word 8} {g : Group} {e : DirEntry} {w0 w1 w2 : Word} {sum : Word}
    (hx : x.notices = []) (h : x.LastWord p a hd g e w0 w1 w2 wd)
    (hsum : sum = if (streamRec x p).warm then (streamRec x p).sum else (streamRec x p).sum + wd)
    (hfile : Acts k ((streamRec x p).wires.map fun i => Notice.addContributor p i) (described p (streamRec x p) sum x)
      (described p (streamRec x p) sum y)) (hy : y.notices = [])
    (hentry : Acts l [.catchUp p, .buildPlan p, .exitTest p, .entryLamps p, .lookupGroups p, .rebuildEntry, .serviceEntry, .syncRefresh]
      (entering p (doneStream (streamRec x p) sum) (some (y.now + ms 10000)) y) z) :
    Acts (k + (l + 1) + 1) [.lineEnd (streamRead p a) .ready (some wd)] x z := by
  have hend := lastWord_describes h
  rw [← hsum] at hend
  exact Acts.run (x := .lineEnd (streamRead p a) .ready (some wd)) hx hend hx
    (hfile.append (Acts.run (x := .enterExercising p) hy (enterExercising_described _ _ _) hy hentry))

end Sys2Proof.Machine
end

section
/-!
The last word of a description, by what the trailer carries (R53, R70, R72, R73, R76, R133, R134).
-/
namespace Sys2Proof.Machine

variable {s t u v w x y z : State} {p q : Pos} {f : Code} {k : LineNo} {a : Nat} {wd : Word}

/-- R53, R70: what the last word of a description of p finds, i being its identity. -/
structure State.Concluding (s : State) (p : Pos) (a : Nat) (d : Time) (i : Identity) : Prop where
  flight : s.InFlight (streamRead p a) d
  state : stateOf s p = .describing
  warm : (posRec s p).warm = (streamRec s p).warm
  identity : (posRec s p).identity = some i
  items : (posRec s p).lampItems = []
  checks : ∀ src, nodeCheck s p src = none
  rebuild : s.check.rebuild = none
  circuits : ∀ k, (circuitRec s k).overfull = false ∧ (circuitRec s k).rebuildPending = false
    ∧ ∀ c ∈ (circuitRec s k).contributors, c.pos ≠ p
  owed : s.delivery.owed.get p = []
  read : s.delivery.pendingRead = none
  table : ∀ f, targetBeneath s p f = 0 ∧ (entryOf s p f).nextRead = none
    ∧ ((entryOf s p f).delivered = none ∨ (entryOf s p f).delivered = some 0)
  memory : s.MemoryIdle

/-- R186: what the Consist Memory holds of the described trailer. -/
def describedRecord (i : Identity) (r : StreamRecord) : Remembered :=
  { builder := i.builder, serial := i.serial, checksum := i.checksum, directory := r.directory }

/-- R76, R186: the Consist Memory once the described trailer is RUNNING. -/
def memoryAfter (s : State) (p : Pos) (i : Identity) : Memory :=
  if (streamRec s p).warm then s.memory else remembering p (describedRecord i (streamRec s p)) s.memory

variable {d : Time} {i : Identity}

theorem retires_entering {r : StreamRecord} {dl : Option Time} (h : s.Concluding p a d i) (hr : r.directory = (streamRec s p).directory)
    (hrec : posRec v p = posRec s p ∨ ∃ dir, posRec v p = { posRec s p with directory := dir }) (hm : v.memory = s.memory)
    (hg : v.management = s.management) : Retires (entering p r dl (setUnheard p 0 v.over)) p (memoryAfter s p i) := by
  have hent := posRec_entering p r dl (setUnheard p 0 v.over)
  have hwarm : (posRec v p).warm = (posRec s p).warm := by
    rcases hrec with he | ⟨dir, he⟩ <;> rw [he]
  have hid : (posRec v p).identity = (posRec s p).identity := by
    rcases hrec with he | ⟨dir, he⟩ <;> rw [he]
  have hw : (posRec (entering p r dl (setUnheard p 0 v.over)) p).warm = (streamRec s p).warm :=
    (congrArg (·.warm) hent).trans (hwarm.trans h.warm)
  have hi : (posRec (entering p r dl (setUnheard p 0 v.over)) p).identity = some i :=
    (congrArg (·.identity) hent).trans (hid.trans h.identity)
  have hd : (posRec (entering p r dl (setUnheard p 0 v.over)) p).directory = (streamRec s p).directory :=
    (congrArg (·.directory) hent).trans hr
  obtain ⟨h1, h2, h3, h4, h5⟩ := h.memory
  refine ⟨fun hc => ?_, fun hc => ⟨?_, ?_, ?_, ?_, ?_⟩, fun hc => ⟨i, hi, ?_⟩⟩
  · unfold memoryAfter
    rw [if_pos (hw.symm.trans hc)]
    exact hm.symm
  · exact (congrArg (·.invalid) hm).trans h1
  · exact (congrArg (·.writing) hm).trans h2
  · intro q; exact (congrArg (fun m : Memory => m.pendingWrites.get q) hm).trans (h3 q)
  · unfold handedCode at h4 ⊢
    rw [show (entering p r dl (setUnheard p 0 v.over)).management = s.management from hg]
    exact h4
  · unfold resetting at h5 ⊢
    rw [show (entering p r dl (setUnheard p 0 v.over)).management = s.management from hg]
    exact h5
  · have hcontent : contentOf (posRec (entering p r dl (setUnheard p 0 v.over)) p) i = describedRecord i (streamRec s p) := by
      unfold contentOf describedRecord
      rw [hd]
    unfold memoryAfter
    rw [if_neg (by rw [← hw, hc]; decide), hcontent]
    exact congrArg _ hm.symm

theorem fresh_of (h : s.Concluding p a d i) (hf : Filed s v) (hdec : v.decoder = s.decoder)
    (hc : ∀ f, windowCovers v p f = false) : v.Fresh p := by
  have hent : ∀ f, ∃ r, entryOf v p f = { entryOf s p f with result := r } := hf.entry p
  refine ⟨?_, ?_, hc, fun f => ?_, fun f => ?_, fun f => ?_⟩
  · rw [hf.delivery]; exact h.owed
  · rw [hf.delivery]; exact h.read
  · obtain ⟨r, he⟩ := hent f
    have hcmd : commandOf v f = commandOf s f := by unfold commandOf; rw [hdec]
    have ht := (h.table f).1
    unfold targetBeneath at ht ⊢
    rw [he, hcmd]
    exact ht
  · obtain ⟨r, he⟩ := hent f
    rw [he]; exact (h.table f).2.2
  · obtain ⟨r, he⟩ := hent f
    rw [he]; exact (h.table f).2.1

theorem wantsRebuild_not {c : Circuit} (h : c.overfull = false ∨ 16 ≤ c.contributors.length) : wantsRebuild c = false := by
  unfold wantsRebuild
  rcases h with h | h
  · rw [h]; rfl
  · rw [decide_eq_false (show ¬ c.contributors.length < Config.contributorCapacity from Nat.not_lt.mpr h), Bool.and_false]

theorem windowCovers_none (h : s.check.slot = none) (p : Pos) (f : Code) : windowCovers s p f = false := by
  unfold windowCovers
  rw [h]

theorem windowOn_none (h : s.check.slot = none) (k : LineNo) : windowOn s k = false := by
  unfold windowOn
  rw [h]

/-! ## No contributor -/

theorem arriving_unfiled (h : s.Concluding p a d i) (hslot : s.check.slot = none) : s.Arriving p :=
  ⟨h.flight.ending p 0, fresh_of h (.refl s) rfl fun f => windowCovers_none hslot p f, h.checks,
    ⟨h.rebuild, fun k => wantsRebuild_not (.inl (h.circuits k).1), fun k => (h.circuits k).2.1⟩, h.items⟩

theorem listsNone_entering (h : ∀ k, ∀ c ∈ (circuitRec v k).contributors, c.pos ≠ p) (r : StreamRecord) (dl : Option Time) :
    (entering p r dl (setUnheard p 0 v.over)).ListsNone p :=
  ⟨h, congrArg (·.required) (posRec_entering p r dl (setUnheard p 0 v.over))⟩

theorem dirOf_entering (g : Group) (r : StreamRecord) (dl : Option Time) : dirOf (entering p r dl y) p g = r.directory.get g :=
  congrArg (fun x => x.directory.get g) (posRec_entering p r dl y)

theorem endSettled_grants {k : Nat} {o o' : Offer} {out : LineOutcome} {data : Option Word} (hx : x.notices = [])
    (h : Acts k [.lineEnd o out data] x (setOffers (fun _ => [o']) y)) (hy : y.notices = []) (ho : y.line.offers = [])
    (hp : o'.Plain) (hk : k ≤ 1000) : endSettled o out data x = y.granted o' :=
  settle_grants hx h hy ho hp.grant (hp.phase _) hk

theorem pollOffer_plain : pollOffer.Plain := ⟨rfl, fun s => notePhase_quiet (fun _ h => Purpose.noConfusion h)
  (fun _ h => Purpose.noConfusion h) (fun _ _ h => Purpose.noConfusion h) s⟩

theorem firstWord_plain (p : Pos) (g : Group) (b : BlockNo) (e : DirEntry) : (firstWord p g b e).Plain :=
  ⟨rfl, fun s => notePhase_fetch rfl s⟩

/-- The sum that the last word leaves (R52). -/
def finalSum (s : State) (p : Pos) (wd : Word) : Word :=
  if (streamRec s p).warm then (streamRec s p).sum else (streamRec s p).sum + wd

variable {hd : Tab Word 8} {g : Group} {e : DirEntry} {w0 w1 w2 : Word}

/-- R68: the notices that file what is listed of p, the last word having left t. -/
def FiledBy (s t : State) (p : Pos) (wd : Word) (n : Nat) : Prop :=
  Acts n ((streamRec s p).wires.map fun i => Notice.addContributor p i)
    (described p (streamRec s p) (finalSum s p wd) (setUnheard p 0 s.over))
    (described p (streamRec s p) (finalSum s p wd) (setUnheard p 0 t.over))

/-- R70: p EXERCISING, s being left with the last word and t once its lamps are filed. -/
def entered (s t : State) (p : Pos) (wd : Word) : State :=
  entering p (doneStream (streamRec s p) (finalSum s p wd)) (some (t.now + ms 10000)) (setUnheard p 0 t.over)

theorem files_none (h : (streamRec s p).wires = []) : FiledBy s s p wd 0 := by
  unfold FiledBy
  rw [h]
  exact Acts.nil _

/-- R53, R70: the notices of the last word, up to those of the entry. -/
theorem acts_concludes {n l : Nat} (h : s.Concluding p a d i) (hl : (setUnheard p 0 s.over).LastWord p a hd g e w0 w1 w2 wd)
    (ht : t.notices = []) (hfile : FiledBy s t p wd n)
    (hentry : Acts l [.catchUp p, .buildPlan p, .exitTest p, .entryLamps p, .lookupGroups p, .rebuildEntry, .serviceEntry, .syncRefresh]
      (entered s t p wd) z) : Acts (n + (l + 1) + 1) [.lineEnd (streamRead p a) .ready (some wd)] (setUnheard p 0 s.over) z :=
  acts_lastWord (x := setUnheard p 0 s.over) (y := setUnheard p 0 t.over) (sum := finalSum s p wd) (h.flight.ending p 0).notices hl rfl
    hfile ht hentry

theorem concludes_grants {n l : Nat} {o : Offer} (h : s.Concluding p a d i)
    (hl : (setUnheard p 0 s.over).LastWord p a hd g e w0 w1 w2 wd) (ht : t.notices = []) (hfile : FiledBy s t p wd n)
    (hentry : Acts l [.catchUp p, .buildPlan p, .exitTest p, .entryLamps p, .lookupGroups p, .rebuildEntry, .serviceEntry, .syncRefresh]
      (entered s t p wd) (setOffers (fun _ => [o]) y)) (hy : y.notices = []) (ho : y.line.offers = []) (hp : o.Plain) (hk : n + l ≤ 900) :
    exec (.transactionEnd { heard := true, ready := true, service := false, data := some wd }) s = .next (y.granted o) :=
  ((reply_ends h.flight (streamRead_addresses p a)).1 wd).trans (congrArg _
    (endSettled_grants (h.flight.ending p 0).notices (acts_concludes h hl ht hfile hentry) hy ho hp (by omega)))

theorem concludes_frees {n l : Nat} (h : s.Concluding p a d i)
    (hl : (setUnheard p 0 s.over).LastWord p a hd g e w0 w1 w2 wd) (ht : t.notices = []) (hfile : FiledBy s t p wd n)
    (hentry : Acts l [.catchUp p, .buildPlan p, .exitTest p, .entryLamps p, .lookupGroups p, .rebuildEntry, .serviceEntry, .syncRefresh]
      (entered s t p wd) y) (hy : y.notices = []) (ho : y.line.offers = []) (hk : n + l ≤ 900) :
    exec (.transactionEnd { heard := true, ready := true, service := false, data := some wd }) s = .next y.free :=
  ((reply_ends h.flight (streamRead_addresses p a)).1 wd).trans (congrArg _
    (settle_frees (h.flight.ending p 0).notices (acts_concludes h hl ht hfile hentry) hy ho (by omega)))

/-- R76: an entry that ends at once, by the notices of what was filed and those of the entry. -/
theorem concludes_runs {n l : Nat} {rf} {m : Memory} (h : s.Concluding p a d i)
    (hl : (setUnheard p 0 s.over).LastWord p a hd g e w0 w1 w2 wd) (hfs : Filed s v) (hv : Marked v t)
    (hi : (posRec t p).lampItems = []) (ht : (setUnheard p 0 t.over).Ending)
    (hw : Marked w (entered s t p wd)) (hdel : w.delivery = v.delivery) (hp : Refreshed w.port v.port) (hfile : FiledBy s t p wd n)
    (hentry : Acts l [.catchUp p, .buildPlan p, .exitTest p, .entryLamps p, .lookupGroups p, .rebuildEntry, .serviceEntry, .syncRefresh]
      (entered s t p wd) (setOffers (fun _ => [pollOffer]) { retired p m (caught p w) with port := { w.port with refresh := rf } }))
    (hk : n + l ≤ 900) : Leaves s p wd v { (arrived p (doneStream (streamRec s p) (finalSum s p wd)) .running none [] [] v).granted
      pollOffer with memory := m } := by
  have hend := hw.ends ⟨ht.notices, ht.offers, ht.flight, ht.ended⟩
  exact leaves_runs (rf := rf) hfs hv hw hdel hp hi
    (concludes_grants (t := t) h hl ht.notices hfile hentry hend.notices hend.offers pollOffer_plain hk)

/-- The state v that an entry of p starts from, its lamps filed by n notices. -/
structure State.Entry (s v : State) (p : Pos) (wd : Word) (n : Nat) : Prop where
  filed : Filed s v
  record : posRec v p = posRec s p ∨ ∃ dir, posRec v p = { posRec s p with directory := dir }
  memory : v.memory = s.memory
  management : v.management = s.management
  motion : v.decoder.motion = s.decoder.motion
  arriving : v.Arriving p
  files : FiledBy s v p wd n
  groups : ∀ z : Group, 4 ≤ z.val → (streamRec s p).directory.get z = none

theorem State.Entry.retires {n : Nat} (hv : s.Entry v p wd n) (h : s.Concluding p a d i) :
    Retires (entered s v p wd) p (memoryAfter s p i) := retires_entering h rfl hv.record hv.memory hv.management

/-- R70, R76: an entry with no lamp to await and no group to look up. -/
theorem entry_bare {n : Nat} (h : s.Concluding p a d i) (hl : (setUnheard p 0 s.over).LastWord p a hd g e w0 w1 w2 wd)
    (hv : s.Entry v p wd n) (hlist : ∀ k, ∀ c ∈ (circuitRec v k).contributors, c.pos ≠ p) (hn : n ≤ 800) :
    Leaves s p wd v { (arrived p (doneStream (streamRec s p) (finalSum s p wd)) .running none [] [] v).granted pollOffer with
      memory := memoryAfter s p i } := by
  obtain ⟨rf, hentry⟩ := acts_entry_bare (hv.arriving.enterable (doneStream (streamRec s p) (finalSum s p wd)) (some (v.now + ms 10000)))
    (hv.retires h) (listsNone_entering hlist _ _) (fun z hz => (dirOf_entering z _ _).trans (hv.groups z hz))
  exact concludes_runs (t := v) h hl hv.filed (.refl v) hv.arriving.items hv.arriving.ending (.refl _) rfl (.refl _) hv.files hentry
    (by omega)

/-- R70, R76: a trailer with lamps alone, none of them WIRED-fed. -/
theorem last_bare (h : s.Concluding p a d i) (hl : (setUnheard p 0 s.over).LastWord p a hd g e w0 w1 w2 wd)
    (hwires : (streamRec s p).wires = []) (hslot : s.check.slot = none)
    (hgroups : ∀ z : Group, 4 ≤ z.val → (streamRec s p).directory.get z = none) :
    Leaves s p wd s { (arrived p (doneStream (streamRec s p) (finalSum s p wd)) .running none [] [] s).granted pollOffer with
      memory := memoryAfter s p i } :=
  entry_bare h hl ⟨.refl s, .inl rfl, rfl, rfl, rfl, arriving_unfiled h hslot, files_none hwires, hgroups⟩ (fun k => (h.circuits k).2.2)
    (by decide)

/-! ## A group to fetch -/

theorem sorted_from {gs : List Group} {g0 : Group} (hs : gs.Pairwise (· < ·)) (hm : g0 ∈ gs) (hlow : ∀ z ∈ gs, ¬ z < g0) :
    ∃ rest, gs = g0 :: rest := by
  cases gs with
  | nil => exact nomatch hm
  | cons c cs =>
    rcases List.mem_cons.mp hm with rfl | hm
    · exact ⟨cs, rfl⟩
    · exact absurd ((List.pairwise_cons.mp hs).1 g0 hm) (hlow c (List.mem_cons_self ..))

theorem leaves_fetch {o : Offer} {b : BlockNo} {g : Group} {pt : Port} (hd : u.delivery = s.delivery) (hp : Refreshed pt u.port)
    (hexec : exec (.transactionEnd { heard := true, ready := true, service := false, data := some wd }) s =
      .next (State.granted o { planFetch b p g (caught p (setUnheard p 0 u.over)) with port := pt })) :
    Leaves s p wd s ((planFetch b p g u).granted o) := by
  exact leaves_of (.refl s) (congrArg (fun d : Delivery => { d with status := d.status.upd p fun t => t.mapIdx caughtEntry }) hd) hp hexec rfl

theorem fetch_quiet {b : BlockNo} {g : Group} {pt : Port} (h : u.Ending) :
    ({ planFetch b p g (caught p u) with port := pt } : State).notices = []
      ∧ ({ planFetch b p g (caught p u) with port := pt } : State).line.offers = [] := ⟨h.notices, h.offers⟩

theorem arrived_ending {r : StreamRecord} {st : PosState} {dl : Option Time} {gs : List Group} {ks : List Code}
    (h : (setUnheard p 0 v.over).Ending) : (setUnheard p 0 (arrived p r st dl gs ks v).over).Ending :=
  ⟨h.notices, h.offers, h.flight, h.ended⟩

/-- R70: the groups of the plan of a trailer with this directory. -/
def upperGroups (dir : Tab (Option DirEntry) 12) : List Group :=
  ([4, 5, 6, 7, 8, 9, 10, 11] : List Group).filter fun z => (dir.get z).isSome

theorem planGroups_entering {r : StreamRecord} {dl : Option Time} : planGroups (entering p r dl y) p = upperGroups r.directory := by
  have hdir : (fun z => (dirOf (entering p r dl y) p z).isSome) = fun z => (r.directory.get z).isSome :=
    funext fun z => congrArg Option.isSome (dirOf_entering z r dl)
  unfold planGroups
  rw [hdir]
  rfl

theorem upperGroups_from {dir : Tab (Option DirEntry) 12} {g0 : Group} {e0 : DirEntry} (hkind : 4 ≤ g0.val) (he : dir.get g0 = some e0)
    (hlow : ∀ z : Group, 4 ≤ z.val → z < g0 → dir.get z = none) : ∃ rest, upperGroups dir = g0 :: rest := by
  have hmem : ∀ z : Group, z ∈ ([4, 5, 6, 7, 8, 9, 10, 11] : List Group) ↔ 4 ≤ z.val := by decide
  unfold upperGroups
  refine sorted_from (List.Pairwise.filter _ (by decide)) (List.mem_filter.mpr ⟨(hmem g0).mpr hkind, by rw [he]; rfl⟩) fun z hz hlt => ?_
  obtain ⟨hz4, hzd⟩ := List.mem_filter.mp hz
  rw [hlow z ((hmem z).mp hz4) hlt] at hzd
  exact Bool.false_ne_true hzd

/-- R73, R84: the entry that has a group to fetch. -/
theorem entry_fetches {g0 : Group} {e0 : DirEntry} {b : BlockNo} {r : StreamRecord} {dl : Option Time} (h : v.Arriving p)
    (hlist : ∀ k, ∀ c ∈ (circuitRec v k).contributors, c.pos ≠ p) (hkind : 4 ≤ g0.val)
    (hlow : ∀ z : Group, 4 ≤ z.val → z < g0 → r.directory.get z = none)
    (hc : (entering p r dl (setUnheard p 0 v.over)).Claims p g0 b e0) (hpoll : passed v v.service.nextPoll = false) :
    ∃ rf, Acts 20 [.catchUp p, .buildPlan p, .exitTest p, .entryLamps p, .lookupGroups p, .rebuildEntry, .serviceEntry, .syncRefresh]
      (entering p r dl (setUnheard p 0 v.over)) (setOffers (fun _ => [firstWord p g0 b e0]) { planFetch b p g0
        (caught p (setUnheard p 0 (arrived p r .exercising dl (upperGroups r.directory) (keptResults v p) v).over)) with
          port := { v.port with refresh := rf } }) := by
  obtain ⟨rest, hgs⟩ := upperGroups_from hkind ((dirOf_entering g0 r dl).symm.trans hc.entry) hlow
  obtain ⟨rf, hentry⟩ := acts_entry_fetches (h.enterable r dl) (listsNone_entering hlist r dl) (planGroups_entering.trans hgs) hc hpoll
  have hent := planned_entering (r := r) (dl := dl) (y := setUnheard p 0 v.over) (upperGroups r.directory) (keptResults v p) h.items
  have hcaught : planned p [] (upperGroups r.directory) (keptResults (entering p r dl (setUnheard p 0 v.over)) p)
      (caught p (entering p r dl (setUnheard p 0 v.over))) =
        caught p (arrived p r .exercising dl (upperGroups r.directory) (keptResults v p) (setUnheard p 0 v.over)) := by
    rw [← hent]
    rfl
  rw [← hgs, hcaught] at hentry
  exact ⟨rf, hentry⟩

/-- R73, R84: a trailer with no WIRED-fed lamp and a group to look up. -/
theorem last_fetches {g0 : Group} {e0 : DirEntry} {b : BlockNo} (h : s.Concluding p a d i)
    (hl : (setUnheard p 0 s.over).LastWord p a hd g e w0 w1 w2 wd) (hwires : (streamRec s p).wires = []) (hslot : s.check.slot = none)
    (hkind : 4 ≤ g0.val) (he : (streamRec s p).directory.get g0 = some e0) (haddr : e0.locator ≤ 1023)
    (hlow : ∀ z : Group, 4 ≤ z.val → z < g0 → (streamRec s p).directory.get z = none) (hrec : groupRec s p g0 = {})
    (hblock : blockOf s b = {}) (hfree : ∀ c, c < b → (blockOf s c).state ≠ .free)
    (halone : ∀ c h, (blockOf s c).owner = some (p, h) → (blockOf s c).state ≠ .fetching)
    (hpoll : passed s s.service.nextPoll = false) :
    Leaves s p wd s (State.granted (firstWord p g0 b e0) (planFetch b p g0
      (arrived p (doneStream (streamRec s p) (finalSum s p wd)) .exercising (some (s.now + ms 10000))
        (upperGroups (streamRec s p).directory) (keptResults s p) s))) := by
  have harr := arriving_unfiled h hslot
  have hx := h.flight.ending p 0
  have hclaims : (entering p (doneStream (streamRec s p) (finalSum s p wd)) (some (s.now + ms 10000)) (setUnheard p 0 s.over)).Claims
      p g0 b e0 := by
    refine ⟨(dirOf_entering g0 _ _).trans he, hrec, hblock, hfree, halone, haddr, fun fl hfl => ?_⟩
    have hover : s.line.flight.map (fun fl => { fl with ended := true }) = some fl := hfl
    rw [h.flight.flight] at hover
    rw [← Option.some.inj hover]
    exact fun hc => Purpose.noConfusion hc
  obtain ⟨rf, hentry⟩ := entry_fetches (r := doneStream (streamRec s p) (finalSum s p wd)) harr (fun k => (h.circuits k).2.2) hkind hlow hclaims hpoll
  obtain ⟨hn, ho⟩ := fetch_quiet (p := p) (b := b) (g := g0) (pt := { s.port with refresh := rf }) (arrived_ending (p := p)
    (r := doneStream (streamRec s p) (finalSum s p wd)) (st := .exercising) (dl := some (s.now + ms 10000))
    (gs := upperGroups (streamRec s p).directory) (ks := keptResults s p) hx)
  exact leaves_fetch rfl ⟨rf, rfl⟩ (concludes_grants (t := s) h hl h.flight.notices (files_none hwires) hentry hn ho
    (firstWord_plain p g0 b e0) (by decide))

end Sys2Proof.Machine
end

section
/-!
The last word of the description of a trailer with one WIRED-fed lamp (R72, R75, R133, R134, R145), and what a last word leaves.
-/
namespace Sys2Proof.Machine

variable {s t u v w x y z : State} {p q : Pos} {f : Code} {k : LineNo} {a : Nat} {wd : Word} {d : Time} {i : Identity}
  {hd : Tab Word 8} {g : Group} {e : DirEntry} {w0 w1 w2 : Word}

/-! ## A contributor filed -/

/-- R68: p with the directory of its description. -/
def listed (p : Pos) (s : State) : State := modRec p (fun y => { y with directory := (streamRec s p).directory }) s

theorem described_beside (r : StreamRecord) (sum : Word) (hr : r.directory = (streamRec s p).directory) :
    described p r sum s = beside s.line (described p r sum s).consist (listed p s)
      ∧ AlikeTables (described p r sum s).consist (listed p s).consist := by
  refine ⟨rfl, fun q => ?_⟩
  show ((s.consist.table.upd p _).get q).state = ((s.consist.table.upd p _).get q).state
    ∧ ((s.consist.table.upd p _).get q).directory = ((s.consist.table.upd p _).get q).directory
  by_cases hq : q = p
  · rw [hq, Tab.get_upd_same, Tab.get_upd_same]
    exact ⟨rfl, hr⟩
  · rw [Tab.get_upd_ne _ _ hq, Tab.get_upd_ne _ _ hq]
    exact ⟨rfl, rfl⟩

theorem described_listed (r : StreamRecord) (sum : Word) : described p r sum (listed p s) = described p r sum s :=
  congrArg (modStream p _) (modRec_modRec ..)

theorem described_marked {cs : List Contributor} {full : Bool} (r : StreamRecord) (sum : Word)
    (hm : Marked v (changedCircuit k cs full (listed p s))) :
    beside (setUnheard p 0 s.over).line (described p r sum s).consist v = described p r sum (setUnheard p 0 v.over) := by
  have hc := congrArg State.consist (described_listed (s := s) (p := p) r sum)
  obtain ⟨st, pt, rfl⟩ := hm
  exact congrArg (fun c => beside (setUnheard p 0 s.over).line c
    { changedCircuit k cs full (listed p s) with
      delivery := { (changedCircuit k cs full (listed p s)).delivery with status := st }, port := pt }) hc.symm

/-- R134: what is filed, in the state that the last word leaves. -/
theorem refiled_described (cs : List Contributor) (full : Bool) (sum : Word) :
    refiled k cs full (described p (streamRec s p) sum (setUnheard p 0 s.over)) =
      described p (streamRec s p) sum (setUnheard p 0 (refiled k cs full (listed p s)).over) := by
  have ha := (described_beside (s := s) (p := p) (streamRec s p) sum rfl).2
  have hl : described p (streamRec s p) sum (setUnheard p 0 s.over) =
      beside (setUnheard p 0 s.over).line (described p (streamRec s p) sum s).consist (listed p s) := rfl
  rw [hl, refiled_beside ha]
  exact described_marked (streamRec s p) sum (refiled_marked ..)

theorem stateOf_described (r : StreamRecord) (sum : Word) (q : Pos) : stateOf (described p r sum s) q = stateOf s q := by
  show ((s.consist.table.upd p _).get q).state = (s.consist.table.get q).state
  by_cases hq : q = p
  · rw [hq, Tab.get_upd_same]
  · rw [Tab.get_upd_ne _ _ hq]

/-- What the handing over of one WIRED-fed lamp finds. -/
structure State.Handing (s : State) (p : Pos) (i : WireItem) : Prop where
  wires : (streamRec s p).wires = [i]
  groups : ∀ z : Group, 4 ≤ z.val → (streamRec s p).directory.get z = none
  calm : ∀ q, stateOf s q ≠ .exercising
  occupied : ∀ c ∈ (circuitRec s i.circuit).contributors, stateOf s c.pos ≠ .vacant

variable {j : WireItem}

theorem files_at (h : s.Concluding p a d i) (hh : s.Handing p j) (hw : windowOn s j.circuit = false) :
    (described p (streamRec s p) (finalSum s p wd) (setUnheard p 0 s.over)).Files p j.circuit := by
  refine ⟨h.flight.notices, hw, (h.circuits j.circuit).2.2, h.rebuild, fun q => ?_, fun c hc => ?_, ?_⟩
  · rw [stateOf_described]; exact hh.calm q
  · rw [stateOf_described]; exact hh.occupied c hc
  · rw [stateOf_described]
    show stateOf s p ≠ .vacant
    rw [h.state]; decide

/-- The state with one list of circuit k changed by the last word of p (R134). -/
def relisted (s : State) (p : Pos) (k : LineNo) (cs : List Contributor) (full : Bool) : State := refiled k cs full (listed p s)

theorem relisted_marked (s : State) (p : Pos) (k : LineNo) (cs : List Contributor) (full : Bool) :
    Marked (relisted s p k cs full) (changedCircuit k cs full (listed p s)) := refiled_marked ..

theorem filed_relisted (cs : List Contributor) (full : Bool) : Filed s (relisted s p k cs full) :=
  Filed.writing (v := changedCircuit k cs full (listed p s)) ⟨rfl, fun _ _ => ⟨_, rfl⟩⟩ _

theorem circuitRec_relisted (cs : List Contributor) (full : Bool) (l : LineNo) : circuitRec (relisted s p k cs full) l =
    if l = k then { circuitRec s k with contributors := cs, overfull := full, samples := [], last := none, reported := none }
    else circuitRec s l := by
  have hc : circuitRec (relisted s p k cs full) l = circuitRec (changedCircuit k cs full (listed p s)) l := by
    unfold circuitRec
    rw [(relisted_marked s p k cs full).check]
  rw [hc]
  show (s.check.circuits.upd k _).get l = _
  by_cases hl : l = k
  · rw [hl, Tab.get_upd_same, if_pos rfl]; rfl
  · rw [Tab.get_upd_ne _ _ hl, if_neg hl]; rfl

theorem posRec_relisted (cs : List Contributor) (full : Bool) : posRec (relisted s p k cs full) p =
    { posRec s p with directory := (streamRec s p).directory } := by
  have hm := (relisted_marked s p k cs full).consist
  have : posRec (relisted s p k cs full) p = posRec (changedCircuit k cs full (listed p s)) p := by
    unfold posRec
    rw [hm]
  rw [this]
  exact posRec_modRec ..

/-- R134: what an entry finds of p once the list of circuit k is changed. -/
theorem arriving_relisted {cs : List Contributor} {full : Bool} (h : s.Concluding p a d i)
    (hfull : full = false ∨ 16 ≤ cs.length) (hcov : ∀ f, windowCovers (relisted s p k cs full) p f = false) :
    (relisted s p k cs full).Arriving p := by
  have hm := relisted_marked s p k cs full
  have hchk := hm.check
  have hx := h.flight.ending p 0
  have hfresh : (relisted s p k cs full).Fresh p := by
    refine fresh_of h (filed_relisted cs full) ?_ hcov
    obtain ⟨st, pt, heq⟩ := hm
    rw [heq]; rfl
  refine ⟨?_, hfresh, fun src => ?_, ⟨?_, fun l => ?_, fun l => ?_⟩, ?_⟩
  · obtain ⟨st, pt, heq⟩ := hm
    rw [heq]
    exact ⟨hx.notices, hx.offers, hx.flight, hx.ended⟩
  · have hn := h.checks src
    have : nodeCheck (relisted s p k cs full) p src = nodeCheck s p src := by
      unfold nodeCheck
      rw [hchk]
      rfl
    rw [this, hn]
  · rw [hchk]; exact h.rebuild
  · rw [circuitRec_relisted]
    split
    · exact wantsRebuild_not hfull
    · exact wantsRebuild_not (.inl (h.circuits l).1)
  · rw [circuitRec_relisted]
    split
    · exact (h.circuits k).2.1
    · exact (h.circuits l).2.1
  · rw [posRec_relisted]; exact h.items

end Sys2Proof.Machine
end

section
/-!
The last word of the description of a trailer with one WIRED-fed lamp, by what becomes of its contributor (R72, R75, R134, R145).
-/
namespace Sys2Proof.Machine

variable {s t u v w x y z : State} {p q : Pos} {f : Code} {k : LineNo} {a : Nat} {wd : Word} {d : Time} {i : Identity}
  {hd : Tab Word 8} {g : Group} {e : DirEntry} {w0 w1 w2 : Word} {j : WireItem}

theorem unchecked_resulting (c : Contributor) (h : unchecked v p f = true) :
    unchecked (State.resulting c.pos c.code .unchecked v) p f = true := by
  unfold unchecked at h ⊢
  rw [resulting_entry]
  split
  · exact decide_eq_true rfl
  · exact h

theorem unchecked_foldl (cs : List Contributor) (h : unchecked v p f = true) : unchecked (writing (uncheckedResults cs) v) p f = true := by
  induction cs generalizing v with
  | nil => exact h
  | cons c cs ih => exact ih (unchecked_resulting c h)

/-- R134: each contributor of a changed circuit is UNCHECKED. -/
theorem unchecked_written {cs : List Contributor} {n : Contributor} (h : n ∈ cs) :
    unchecked (writing (uncheckedResults cs) v) n.pos n.code = true := by
  induction cs generalizing v with
  | nil => exact nomatch h
  | cons c cs ih =>
    rcases List.mem_cons.mp h with rfl | h
    · refine unchecked_foldl cs ?_
      show decide ((entryOf (State.resulting n.pos n.code .unchecked v) n.pos n.code).result = .unchecked) = true
      rw [resulting_entry, if_pos ⟨rfl, rfl⟩]
      exact decide_eq_true rfl
    · exact ih (v := State.resulting c.pos c.code .unchecked v) h

/-- R70, R199: what the results of an entry leave of the port, wherever p stands of bring-up. -/
theorem resulting_entered {r : StreamRecord} {dl : Option Time} (hs : stateOf v p = .describing)
    (hd : ∀ g, dirOf v p g = r.directory.get g) (c : CheckResult) :
    Refreshed (State.resulting p f c (entering p r dl (setUnheard p 0 v.over))).port (State.resulting p f c v).port := by
  refine resulting_refreshed c (.refl _) rfl fun g m => ?_
  have hstate : stateOf (entering p r dl (setUnheard p 0 v.over)) p = .exercising :=
    congrArg (·.state) (posRec_entering p r dl (setUnheard p 0 v.over))
  unfold memberFitted
  rw [if_neg (by rw [hstate]; decide), if_neg (by rw [hs]; decide), dirOf_entering, hd]

theorem files_relisted {n : Nat} {cs : List Contributor} {full : Bool} (hw : (streamRec s p).wires = [j])
    (h : Acts n [.addContributor p j] (described p (streamRec s p) (finalSum s p wd) (setUnheard p 0 s.over))
      (refiled k cs full (described p (streamRec s p) (finalSum s p wd) (setUnheard p 0 s.over)))) :
    FiledBy s (relisted s p k cs full) p wd n := by
  rw [refiled_described] at h
  unfold FiledBy
  rw [hw]
  exact h

theorem entry_relisted {n : Nat} {cs : List Contributor} {full : Bool} (h : s.Concluding p a d i) (hh : s.Handing p j)
    (hfull : full = false ∨ 16 ≤ cs.length) (hcov : ∀ f, windowCovers (relisted s p k cs full) p f = false)
    (hfile : Acts n [.addContributor p j] (described p (streamRec s p) (finalSum s p wd) (setUnheard p 0 s.over))
      (refiled k cs full (described p (streamRec s p) (finalSum s p wd) (setUnheard p 0 s.over)))) :
    s.Entry (relisted s p k cs full) p wd n := by
  have hm := relisted_marked s p k cs full
  refine ⟨filed_relisted cs full, .inr ⟨_, posRec_relisted cs full⟩, ?_, ?_, ?_, arriving_relisted h hfull hcov,
    files_relisted hh.wires hfile, hh.groups⟩
  · obtain ⟨st, pt, heq⟩ := hm; rw [heq]; rfl
  · obtain ⟨st, pt, heq⟩ := hm; rw [heq]; rfl
  · obtain ⟨st, pt, heq⟩ := hm; rw [heq]; rfl

theorem windowCovers_relisted {cs : List Contributor} {full : Bool} (hslot : s.check.slot = none) (f : Code) :
    windowCovers (relisted s p k cs full) p f = false :=
  windowCovers_none (by rw [(relisted_marked s p k cs full).check]; exact hslot) p f

/-- R134: a full list turns the lamp away, and nothing is awaited. -/
theorem last_turnedAway (h : s.Concluding p a d i) (hl : (setUnheard p 0 s.over).LastWord p a hd g e w0 w1 w2 wd)
    (hh : s.Handing p j) (hlen : (circuitRec s j.circuit).contributors.length = 16) (hslot : s.check.slot = none)
    (hv : v = relisted s p j.circuit (circuitRec s j.circuit).contributors true) :
    Leaves s p wd v { (arrived p (doneStream (streamRec s p) (finalSum s p wd)) .running none [] [] v).granted pollOffer with
      memory := memoryAfter s p i } := by
  have hentry : s.Entry v p wd 49 := hv ▸ entry_relisted h hh (.inr (Nat.le_of_eq hlen.symm)) (windowCovers_relisted hslot)
    (acts_turnedAway (files_at h hh (windowOn_none hslot _)) hlen (h.circuits _).1)
  refine entry_bare h hl hentry (fun l => ?_) (by decide)
  rw [hv, circuitRec_relisted]
  split
  · exact (h.circuits j.circuit).2.2
  · exact (h.circuits l).2.2

/-- Where the lamp of p joins its list (R133). -/
structure State.Joining (s : State) (p : Pos) (k : LineNo) (front back : List Contributor) : Prop where
  old : (circuitRec s k).contributors = front ++ back
  room : (circuitRec s k).contributors.length < 16
  before : ∀ c ∈ front, c.pos < p
  behind : ∀ c ∈ back, p < c.pos

/-- R133, R134: the circuit of the lamp with the lamp at its place. -/
def withLamp (s : State) (p : Pos) (j : WireItem) (front back : List Contributor) : State :=
  relisted s p j.circuit (front ++ contributorOf p j :: back) false

variable {front back : List Contributor}

theorem joined_marked (s : State) (p : Pos) (j : WireItem) (front back : List Contributor) : Marked (withLamp s p j front back)
    (changedCircuit j.circuit (front ++ contributorOf p j :: back) false (listed p s)) := relisted_marked ..

/-- What the entry of p finds of its only lamp, once that is listed. -/
structure State.Lists (v : State) (p : Pos) (k : LineNo) (f : Code) (r : StreamRecord) : Prop where
  at_k : ∀ (r : StreamRecord) (dl : Option Time), (entering p r dl (setUnheard p 0 v.over)).ListsAt p k f
  unchecked : unchecked v p f = true
  state : stateOf v p = .describing
  dir : ∀ z, dirOf v p z = r.directory.get z

theorem lists_withLamp (h : s.Concluding p a d i) (hj : s.Joining p j.circuit front back) :
    (withLamp s p j front back).Lists p j.circuit j.code (streamRec s p) := by
  have hcirc := fun l => circuitRec_relisted (s := s) (p := p) (k := j.circuit) (front ++ contributorOf p j :: back) false l
  have hrec := posRec_relisted (s := s) (p := p) (k := j.circuit) (front ++ contributorOf p j :: back) false
  refine ⟨fun r dl => ⟨⟨front, back, contributorOf p j, ?_, rfl, rfl, fun c hc => Fin.ne_of_lt (hj.before c hc),
    fun c hc => Fin.ne_of_gt (hj.behind c hc)⟩, fun l hl => ?_, congrArg (·.required) (posRec_entering ..)⟩, ?_,
    (congrArg (·.state) hrec).trans h.state, fun z => congrArg (fun r => r.directory.get z) hrec⟩
  · exact congrArg (·.contributors) ((hcirc j.circuit).trans (if_pos rfl))
  · intro c hc
    have he := congrArg (·.contributors) ((hcirc l).trans (if_neg hl))
    exact (h.circuits l).2.2 c (he ▸ hc)
  · exact unchecked_written (n := contributorOf p j) (List.mem_append_right _ (List.mem_cons_self ..))

theorem entered_delivery : (entered s v p wd).delivery = v.delivery := rfl

theorem resulting_delivery (c : CheckResult) (s : State) : (State.resulting p f c s).delivery =
    if (entryOf s p f).result = c then s.delivery else (modEntry p f (fun x => { x with result := c }) s).delivery := by
  unfold State.resulting
  split
  · rfl
  · obtain ⟨pt, hpt⟩ := placeResultFrame_port p (groupOf f) (halfOf f) (modEntry p f (fun x => { x with result := c }) s)
    rw [hpt]

theorem resulting_sameDelivery (c : CheckResult) (h : x.delivery = y.delivery) :
    (State.resulting p f c x).delivery = (State.resulting p f c y).delivery := by
  have hent : entryOf x p f = entryOf y p f := by unfold entryOf; rw [h]
  rw [resulting_delivery, resulting_delivery, hent]
  unfold modEntry
  dsimp only
  rw [h]

/-- R72, R75, R76: an entry while MOVING of a trailer with one lamp to await. -/
theorem entry_defers {n : Nat} (h : s.Concluding p a d i) (hl : (setUnheard p 0 s.over).LastWord p a hd g e w0 w1 w2 wd)
    (hv : s.Entry v p wd n) (hk : v.Lists p k f (streamRec s p)) (hmotion : s.decoder.motion = .moving) (hn : n ≤ 800) :
    Leaves s p wd (State.resulting p f .deferred v) { (arrived p (doneStream (streamRec s p) (finalSum s p wd)) .running none [] []
      (State.resulting p f .deferred v)).granted pollOffer with memory := memoryAfter s p i } := by
  obtain ⟨rf, hentry⟩ := acts_entry_defers (hv.arriving.enterable (doneStream (streamRec s p) (finalSum s p wd))
    (some (v.now + ms 10000))) (hv.retires h) (hk.at_k _ _) hk.unchecked (hv.motion.trans hmotion)
    (fun z hz => (dirOf_entering z _ _).trans (hv.groups z hz))
  exact concludes_runs (t := v) h hl (hv.filed.resulting ..) (resulting_marked ..) hv.arriving.items hv.arriving.ending
    (resulting_marked ..) (resulting_sameDelivery .deferred entered_delivery)
    (resulting_entered (r := doneStream (streamRec s p) (finalSum s p wd)) hk.state hk.dir .deferred) hv.files hentry (by omega)

/-- R72, R75: while MOVING the lamp is DEFERRED, and p RUNNING. -/
theorem last_defers (h : s.Concluding p a d i) (hl : (setUnheard p 0 s.over).LastWord p a hd g e w0 w1 w2 wd)
    (hh : s.Handing p j) (hj : s.Joining p j.circuit front back) (hmotion : s.decoder.motion = .moving) (hslot : s.check.slot = none)
    (hv : v = State.resulting p j.code .deferred (withLamp s p j front back)) :
    Leaves s p wd v { (arrived p (doneStream (streamRec s p) (finalSum s p wd)) .running none [] [] v).granted pollOffer with
      memory := memoryAfter s p i } := by
  have hentry : s.Entry (withLamp s p j front back) p wd 49 := entry_relisted h hh (.inl rfl) (windowCovers_relisted hslot)
    ((acts_filed (files_at h hh (windowOn_none hslot _)) hj.old hj.room hj.before hj.behind (h.circuits _).1).1 hmotion)
  have hlists := lists_withLamp h hj
  subst hv
  generalize withLamp s p j front back = v at *
  exact entry_defers h hl hentry hlists hmotion (by decide)

/-! ## A check that waits -/

theorem leaves_waits {q0 q1 : List QueueEntry} {pt : Port} (hf : Filed s v) (hd : u.delivery = v.delivery) (hp : Refreshed pt u.port)
    (hexec : exec (.transactionEnd { heard := true, ready := true, service := false, data := some wd }) s =
      .next (State.free { setExQueue q1 (caught p (setUnheard p 0 (setExQueue q0 u).over)) with port := pt })) :
    Leaves s p wd v { u.free with check := { u.check with queue := q1 } } :=
  leaves_of hf (congrArg (fun d : Delivery => { d with status := d.status.upd p fun t => t.mapIdx caughtEntry }) hd) hp hexec rfl

theorem waits_quiet {q0 q1 : List QueueEntry} {pt : Port} (h : (setUnheard p 0 u.over).Ending) :
    ({ setExQueue q1 (caught p (setUnheard p 0 (setExQueue q0 u).over)) with port := pt } : State).notices = []
      ∧ ({ setExQueue q1 (caught p (setUnheard p 0 (setExQueue q0 u).over)) with port := pt } : State).line.offers = [] :=
  ⟨h.notices, h.offers⟩

theorem State.Arriving.queued (h : v.Arriving p) (qs : List QueueEntry) : (setExQueue qs v).Arriving p := by
  obtain ⟨h1, h2, h3, h4, h5, h6⟩ := h.fresh
  exact ⟨⟨h.ending.notices, h.ending.offers, h.ending.flight, h.ending.ended⟩, ⟨h1, h2, h3, h4, h5, h6⟩, h.checks,
    ⟨h.whole.rebuild, h.whole.wants, h.whole.pending⟩, h.items⟩

theorem entry_waits {n : Nat} {q0 : List QueueEntry} (h : s.Concluding p a d i)
    (hl : (setUnheard p 0 s.over).LastWord p a hd g e w0 w1 w2 wd) (hf : Filed s v) (hv : v.Arriving p)
    (hk : v.Lists p k f (streamRec s p)) (hmotion : v.decoder.motion = .stationary)
    (hgroups : ∀ z : Group, 4 ≤ z.val → (streamRec s p).directory.get z = none)
    (hfile : FiledBy s (setExQueue (q0 ++ [{ target := .circuit k, requesters := Tab.fill false }]) v) p wd n)
    (h0 : ∀ e ∈ q0, e.target ≠ .circuit k) (hpoll : passed v v.service.nextPoll = false) (hn : n ≤ 800) :
    Leaves s p wd v { (arrived p (doneStream (streamRec s p) (finalSum s p wd)) .exercising (some (v.now + ms 10000)) []
      (keptResults v p) v).free with
        check := { v.check with queue := q0 ++ [{ target := .circuit k, requesters := (Tab.fill false).put p true }] } } := by
  let t : State := setExQueue (q0 ++ [{ target := .circuit k, requesters := Tab.fill false }]) v
  have ht : t.Arriving p := hv.queued _
  obtain ⟨hlist, hother, hreq⟩ := hk.at_k (doneStream (streamRec s p) (finalSum s p wd)) (some (v.now + ms 10000))
  obtain ⟨rf, hentry⟩ := acts_entry_waits (q0 := q0) (k := k) (f := f)
    (ht.enterable (doneStream (streamRec s p) (finalSum s p wd)) (some (v.now + ms 10000)))
    ⟨hlist, hother, hreq⟩ hk.unchecked hmotion (fun z hz => (dirOf_entering z _ _).trans (hgroups z hz)) rfl h0 hpoll
  have hcaught : planned p [] [] (keptResults (entered s t p wd) p) (caught p (entered s t p wd)) = caught p (setUnheard p 0
      (setExQueue (q0 ++ [{ target := .circuit k, requesters := Tab.fill false }]) (arrived p (doneStream (streamRec s p)
        (finalSum s p wd)) .exercising (some (v.now + ms 10000)) [] (keptResults v p) v)).over) :=
    congrArg (caught p) (planned_entering (r := doneStream (streamRec s p) (finalSum s p wd)) (dl := some (v.now + ms 10000))
      (y := setUnheard p 0 t.over) [] (keptResults v p) ht.items)
  have hacts : Acts 20 [.catchUp p, .buildPlan p, .exitTest p, .entryLamps p, .lookupGroups p, .rebuildEntry, .serviceEntry, .syncRefresh]
      (entered s t p wd) { setExQueue (q0 ++ [{ target := .circuit k, requesters := (Tab.fill false).put p true }])
        (planned p [] [] (keptResults (entered s t p wd) p) (caught p (entered s t p wd))) with
          port := { v.port with refresh := rf } } := hentry
  rw [hcaught] at hacts
  have hquiet := waits_quiet (q0 := q0 ++ [{ target := .circuit k, requesters := Tab.fill false }])
    (q1 := q0 ++ [{ target := .circuit k, requesters := (Tab.fill false).put p true }]) (pt := { v.port with refresh := rf })
    (arrived_ending (p := p) (r := doneStream (streamRec s p) (finalSum s p wd)) (st := .exercising) (dl := some (v.now + ms 10000))
    (gs := []) (ks := keptResults v p) hv.ending)
  exact leaves_waits hf rfl ⟨rf, rfl⟩ (concludes_frees (t := t) h hl ht.ending.notices hfile hacts hquiet.1 hquiet.2 (by omega))

/-- R72, R145: at a standstill, another circuit in the slot, the circuit of the lamp joins the queue. -/
theorem last_waits (h : s.Concluding p a d i) (hl : (setUnheard p 0 s.over).LastWord p a hd g e w0 w1 w2 wd)
    (hh : s.Handing p j) (hj : s.Joining p j.circuit front back) (hmotion : s.decoder.motion = .stationary)
    (hcpl : s.consist.cplPresent = true) {sl : Slot} {k' : LineNo} (hslot : s.check.slot = some sl)
    (htarget : sl.entry.target = .circuit k') (hne : k' ≠ j.circuit) (hq : ∀ y ∈ s.check.queue, y.target ≠ .circuit j.circuit)
    (hroom : s.check.queue.length < 16) (hpoll : passed s s.service.nextPoll = false) (hv : v = withLamp s p j front back) :
    Leaves s p wd v { (arrived p (doneStream (streamRec s p) (finalSum s p wd)) .exercising (some (s.now + ms 10000)) []
      (keptResults v p) v).free with
        check := { v.check with
          queue := s.check.queue ++ [{ target := .circuit j.circuit, requesters := (Tab.fill false).put p true }] } } := by
  have hm := relisted_marked s p j.circuit (front ++ contributorOf p j :: back) false
  have hwin : windowOn s j.circuit = false := by
    unfold windowOn
    rw [hslot]
    dsimp only
    rw [htarget, decide_eq_false (fun hc => hne (Target.circuit.inj hc)), Bool.and_false]
  have hcov : ∀ f, windowCovers (relisted s p j.circuit (front ++ contributorOf p j :: back) false) p f = false := by
    intro f
    unfold windowCovers
    rw [show (relisted s p j.circuit (front ++ contributorOf p j :: back) false).check.slot = some sl from by rw [hm.check]; exact hslot]
    dsimp only
    rw [htarget]
    dsimp only
    rw [circuitRec_relisted, if_neg hne, List.any_eq_false.mpr, Bool.and_false]
    intro c hc hd
    simp only [Bool.and_eq_true, decide_eq_true_eq] at hd
    exact (h.circuits k').2.2 c hc hd.1
  have hacts := (acts_filed (files_at (wd := wd) h hh hwin) hj.old hj.room hj.before hj.behind (h.circuits _).1).2 hmotion hcpl
    (by show s.check.slot ≠ none; rw [hslot]; exact Option.some_ne_none _) hq hroom
  rw [refiled_described] at hacts
  have hfile : FiledBy s (setExQueue (s.check.queue ++ [{ target := .circuit j.circuit, requesters := Tab.fill false }]) v) p wd 51 := by
    unfold FiledBy
    rw [hh.wires, hv]
    exact hacts
  have harr : v.Arriving p := hv ▸ arriving_relisted h (.inl rfl) hcov
  have hlists : v.Lists p j.circuit j.code (streamRec s p) := hv ▸ lists_withLamp h hj
  have hfiled : Filed s v := hv ▸ filed_relisted _ _
  have hkeep : v.decoder = s.decoder ∧ v.now = s.now ∧ v.service = s.service := by
    obtain ⟨st, pt, heq⟩ := joined_marked s p j front back
    rw [hv, heq]
    exact ⟨rfl, rfl, rfl⟩
  obtain ⟨hdec, hnow, hserv⟩ := hkeep
  rw [← hnow]
  refine entry_waits h hl hfiled harr hlists ((congrArg (·.motion) hdec).trans hmotion) hh.groups hfile hq ?_ (by decide)
  unfold passed at hpoll ⊢
  rw [hserv, hnow]
  exact hpoll

end Sys2Proof.Machine
end

section
/-!
The end of the last word of a description (O31).
-/
namespace Sys2Proof.Machine

variable {s v : State} {p : Pos} {a : Nat}

/-- R70: the plan by its four parts. -/
theorem posRec_buildPlan (p : Pos) (s : State) : posRec (buildPlan p s) p = { posRec s p with
    lampItems := planLamps s p, groupItems := planGroups s p, firstReads := [], awaited := [], kept := keptResults s p } :=
  posRec_modRec ..

theorem notPassed {n : Option Time} (h : ∀ m, n = some m → s.now < m) : passed s n = false := by
  cases n with
  | none => rfl
  | some m => exact decide_eq_false (Nat.not_le.mpr (h m rfl))

/-- Settles O31: the plan by its parts, and the last word by what the trailer carries. -/
theorem bringUpCompletes : Obligations.BringUpCompletes := by
  unfold Obligations.BringUpCompletes
  refine ⟨?_, ?_⟩
  · intro s p r open'
    have hr : r = _ := posRec_buildPlan p s
    rw [hr]
    exact ⟨mem_circuit_plan, mem_lamp_plan, mem_planGroups, planGroups_sorted, mem_keptResults,
      fun b g e => ⟨requiredReads_sorted, mem_requiredReads⟩, planLamps_shape, exitMet_iff⟩
  · intro s p a hd d g e i w0 w1 w2 w hfl hs hrel x r hact hnext hhead hbuf hreq hwarm hid hitems hg hlast h1 h16 halone hzw hcold hplain
      hchecks hreb hcirc howed hread htab hinv hwri hpend hcode hres c entered leaves runs
    have h : s.Concluding p a d i := ⟨hfl, hs, hwarm, hid, hitems, hchecks, hreb, hcirc, howed, hread, htab,
      ⟨hinv, hwri, hpend, hcode, hres⟩⟩
    have hl : (setUnheard p 0 s.over).LastWord p a hd g e w0 w1 w2 w :=
      ⟨State.Taking.at_end ⟨hrel, hs, hact, hnext⟩ 0, hhead, hbuf, hreq, hg, hlast, h1, h16,
        fun g' e' hd hh => halone g' e' hd hh.1 hh.2, hzw, hcold, hplain⟩
    have hchanged : ∀ (k : LineNo) (cs : List Contributor) (full : Bool), (cs.foldl
        (fun t c => State.resulting c.pos c.code .unchecked t) (modCircuit k (fun c =>
          { c with contributors := cs, overfull := full, samples := [], last := none, reported := none })
          (modRec p (fun y => { y with directory := x.directory }) s))) = relisted s p k cs full :=
      fun k cs full => (refiled_eq k cs full (listed p s)).symm
    refine ⟨fun hw hslot hgr => last_bare h hl hw hslot hgr, fun item hw hgr hcalm => ?_,
      fun g0 e0 b hw hslot hk he ha hlow hrec hb hfree hal hpoll =>
        last_fetches h hl hw hslot hk he ha hlow hrec hb hfree hal (notPassed hpoll)⟩
    intro k old n changed hocc
    have hh : s.Handing p item := ⟨hw, hgr, hcalm, hocc⟩
    refine ⟨fun hlen hslot => last_turnedAway h hl hh hlen hslot (hchanged ..), fun front back hold hroom hf hb => ?_⟩
    intro v
    have hj : s.Joining p item.circuit front back := ⟨hold, hroom, hf, hb⟩
    refine ⟨fun hm hslot => last_defers h hl hh hj hm hslot ?_, fun sl k' hm hcpl hslot ht hne hq hlen hpoll =>
      last_waits h hl hh hj hm hcpl hslot ht hne hq hlen (notPassed hpoll) (hchanged ..)⟩
    exact congrArg _ (hchanged item.circuit (front ++ contributorOf p item :: back) false)

end Sys2Proof.Machine
end

section
/-!
A position goes LOST (R168, R179).
-/
namespace Sys2Proof.Machine

variable {s t x y z : State} {p : Pos} {a : Nat} {d : Time}

/-! ## The offers that are withdrawn -/

theorem setOffers_setOffers (f g : List Offer → List Offer) (s : State) :
    setOffers f (setOffers g s) = setOffers (fun os => f (g os)) s := rfl

theorem setOffers_noOffers {f : List Offer → List Offer} (ho : s.line.offers = []) (hf : f s.line.offers = []) : setOffers f s = s := by
  unfold setOffers
  rw [hf, ← ho]

/-- An offer of the Consist Controller to p at class 5 goes when p's is withdrawn. -/
theorem ccWithdraw_own {o : Offer} (hr : o.requester = .consistController) (hc : o.cls = 4) (hp : o.pos = linePos p)
    (ho : s.line.offers = []) : ccWithdraw p (setOffers (fun _ => [o]) s) = s := by
  refine (setOffers_setOffers ..).trans (setOffers_noOffers ho ?_)
  simp [hr, hc, hp]

theorem ccWithdraw_other {o : Offer} (hr : o.requester ≠ .consistController) :
    ccWithdraw p (setOffers (fun _ => [o]) s) = setOffers (fun _ => [o]) s := by
  refine (setOffers_setOffers ..).trans (congrArg (fun f => setOffers f s) (funext fun _ => ?_))
  rw [List.filter_cons_of_pos (by rw [decide_eq_false hr]; rfl)]
  rfl

/-! ## What leaves with the position -/

/-- What no block holds for p beyond its records, so that a silence reaches nothing else. -/
structure State.Lone (s : State) (p : Pos) : Prop where
  release : s.consist.release.active = false
  pass : s.consist.pass.active = false
  fetching : ∀ b g, (blockOf s b).owner = some (p, g) → (blockOf s b).state ≠ .fetching
  override : ∀ o, s.delivery.pendingOverride = some o → o.pos ≠ p
  read : ∀ o, s.delivery.pendingRead = some o → o.pos ≠ p
  checks : ∀ src, nodeCheck s p src = none
  sequence : s.sequence.state = .running → s.sequence.pos ≠ some p

/-- R179: the record of a position that goes LOST. -/
def lostRecord (now : Time) (prior : PosState) (r : ConsistRecord) : ConsistRecord := { r with
  state := .lost, prior := some prior, lostTimer := some 0, attempts := 0, attemptTimer := some (now + ms 1000)
  attemptUnderWay := false, lampItems := [], groupItems := [], firstReads := [], awaited := [], kept := [], deadline := none }

/-- R179: p LOST, with its NODE-LOST fault. -/
def goneLost (p : Pos) (prior : PosState) (s : State) : State :=
  State.faulted .nodeLost p none none (priorDetail prior) (modRec p (lostRecord s.now prior) s)

/-- R155, R179: the owed stops and the watches of p gone. -/
def unserved (p : Pos) : State → State := modDelivery fun d => { d with
  owed := d.owed.put p []
  status := d.status.upd p fun t => t.map fun x =>
    if x.watchDeadline ≠ none then { x with watchDeadline := none, nextRead := none } else x }

/-- R144, R179: the pending list of opportunistic checks of p empty. -/
def unpending (p : Pos) (s : State) : State :=
  { s with check := { s.check with oppPending := s.check.oppPending.put p [] } }

/-- R168: the round of p over. -/
def unrounded (p : Pos) (s : State) : State :=
  { s with service := { s.service with pendingSet := s.service.pendingSet.put p false, rounds := s.service.rounds.put p {} } }

theorem freeFetching_none (h : ∀ b g, (blockOf s b).owner = some (p, g) → (blockOf s b).state ≠ .fetching) : freeFetching p s = s := by
  have hnone : ownedBlocks s p (fun b => decide (b.state = .fetching)) = [] := by
    refine List.filter_eq_nil_iff.mpr fun b _ hc => ?_
    rw [Bool.and_eq_true] at hc
    obtain ⟨hf, ho⟩ := hc
    cases hown : (blockOf s b).owner with
    | none => rw [hown] at ho; exact Bool.false_ne_true ho
    | some pg =>
      obtain ⟨q, g⟩ := pg
      rw [hown] at ho
      have hq : q = p := of_decide_eq_true ho
      exact h b g (hq ▸ hown) (of_decide_eq_true hf)
  unfold freeFetching
  rw [hnone]
  rfl

theorem replyOverride_other {r : ResultCode} {f : PendingOverride → Bool} (h : ∀ o, s.delivery.pendingOverride = some o → f o = false) :
    replyOverride f r s = s := by
  unfold replyOverride
  cases ho : s.delivery.pendingOverride with
  | none => rfl
  | some o =>
    dsimp only
    rw [if_neg (by rw [h o ho]; decide)]

theorem replyRead_other {r : ResultCode} {bytes : List Byte} {f : PendingRead → Bool}
    (h : ∀ o, s.delivery.pendingRead = some o → f o = false) : replyRead f r bytes s = s := by
  unfold replyRead
  cases ho : s.delivery.pendingRead with
  | none => rfl
  | some o =>
    dsimp only
    rw [if_neg (by rw [h o ho]; decide)]

/-- R155: leaving service where no reply waits for p and no offer of the Delivery Unit stands. -/
theorem leaveService_eq (ho : ∀ o ∈ s.line.offers, o.requester ≠ .deliveryUnit)
    (hov : ∀ o, s.delivery.pendingOverride = some o → o.pos ≠ p) (hrd : ∀ o, s.delivery.pendingRead = some o → o.pos ≠ p) :
    leaveService p s = unserved p s := by
  have hgone : withdrawWhere (fun o => decide (o.requester = .deliveryUnit) && decide (o.pos = linePos p)) s = s :=
    withdrawWhere_none fun o hmem => by rw [decide_eq_false (ho o hmem)]; rfl
  have hfun : (fun e : StatusEntry => if e.watchDeadline.isSome then { e with watchDeadline := none, nextRead := none } else e) =
      fun e => if e.watchDeadline ≠ none then { e with watchDeadline := none, nextRead := none } else e := by
    funext e
    cases e.watchDeadline <;> rfl
  unfold leaveService
  dsimp only
  rw [hgone, replyOverride_other, replyRead_other]
  · unfold unserved
    rw [hfun]
  · exact fun o h => decide_eq_false (hrd o h)
  · exact fun o h => decide_eq_false (hov o h)

/-- R144, R179: with no check at p, dropping its checks empties its pending list. -/
theorem dropChecks_eq (ho : ∀ o ∈ s.line.offers, ∀ q src f step, o.why ≠ .nodeLamp q src f step)
    (hc : ∀ src, nodeCheck s p src = none) : dropChecks p s = unpending p s := by
  have hno : ∀ src (t : State), t.line.offers = s.line.offers → withdrawReading p src t = t := by
    intro src t ht
    refine withdrawWhere_none fun o hmem => ?_
    rw [ht] at hmem
    have hwhy := ho o hmem
    split
    · rename_i q t f step he
      exact absurd he (hwhy q t f step)
    · rfl
  have hset : ∀ src, setNodeCheck p src none s = s := by
    intro src
    have hs := hc src
    cases src with
    | slot =>
      show { s with check := { s.check with slotChecks := s.check.slotChecks.put p none } } = s
      rw [← (show s.check.slotChecks.get p = none from hs), Tab.put_get_self]
    | opportunistic =>
      show { s with check := { s.check with oppChecks := s.check.oppChecks.put p none } } = s
      rw [← (show s.check.oppChecks.get p = none from hs), Tab.put_get_self]
  unfold dropChecks
  dsimp only
  rw [show (s.check.slotChecks.get p).isSome = false from by rw [show s.check.slotChecks.get p = none from hc .slot]; rfl,
    hno .slot s rfl, hset .slot, hno .opportunistic s rfl, hset .opportunistic]
  rfl

theorem endRound_own (ho : s.line.offers = []) : endRound p (setOffers (fun _ => [wordOffer p]) s) = unrounded p s := by
  have hf : endRound p (setOffers (fun _ => [wordOffer p]) s) = setOffers (fun _ => [wordOffer p].filter fun o =>
      !(decide (o.requester = .servicePoller) && decide (o.cls = 3) && decide (o.pos = linePos p))) (unrounded p s) := rfl
  exact hf.trans (setOffers_noOffers (s := unrounded p s) ho (by simp [wordOffer]))

theorem endRound_none (ho : s.line.offers = []) : endRound p s = unrounded p s := by
  have hf : endRound p s = setOffers (fun os => os.filter fun o =>
      !(decide (o.requester = .servicePoller) && decide (o.cls = 3) && decide (o.pos = linePos p))) (unrounded p s) := rfl
  exact hf.trans (setOffers_noOffers (s := unrounded p s) ho (by rw [show (unrounded p s).line.offers = [] from ho]; rfl))

/-- R168: leaving service with no sequence at p and no POLL on offer. -/
theorem leavePoller_eq (hs : isVacant s p = false) (he : endRound p s = unrounded p z) (ho : z.line.offers = [])
    (hseq : z.sequence.state = .running → z.sequence.pos ≠ some p) : leavePoller p s = unrounded p z := by
  have hpolled : (if anyInService (unrounded p z) then unrounded p z else withdraw .servicePoller 3 0 (unrounded p z)) = unrounded p z := by
    split
    · rfl
    · refine setOffers_noOffers (s := unrounded p z) ho ?_
      rw [show (unrounded p z).line.offers = [] from ho]
      rfl
  have hrun : (seqRunning (unrounded p z) && decide ((unrounded p z).sequence.pos = some p)) = false := by
    by_cases hr : z.sequence.state = .running
    · rw [decide_eq_false (show (unrounded p z).sequence.pos ≠ some p from hseq hr), Bool.and_false]
    · rw [show seqRunning (unrounded p z) = false from decide_eq_false hr, Bool.false_and]
  unfold leavePoller
  dsimp only
  have hpaused : (if isVacant s p then modService (fun v => { v with pauses := v.pauses.put p none }) (unrounded p z)
      else unrounded p z) = unrounded p z := if_neg (by rw [hs]; decide)
  rw [he, hpaused, hpolled, if_neg (by rw [hrun]; decide)]

end Sys2Proof.Machine
end

section
/-!
The silence of a position under no release (R48, R54, R166, R168, R179, R181).
-/
namespace Sys2Proof.Machine

variable {s t x y z : State} {p : Pos} {a : Nat} {d : Time} {o : Offer}

theorem endPass_idle (h : s.consist.pass.active = false) : endPass s = s := if_neg (by rw [h]; decide)

/-- R179: a position in a state that silence takes to LOST. -/
theorem silence_goes (hr : y.consist.release.active = false) (hs : stateOf y p = .identifying ∨ stateOf y p = .describing
    ∨ stateOf y p = .exercising ∨ stateOf y p = .running) : silence p y = goLost p y := by
  unfold silence
  rw [if_neg (by rw [releaseOffered_idle hr]; decide)]
  rcases hs with hs | hs | hs | hs <;> rw [hs]

/-- R179: what LOST brings, w being the state without the offers of the Consist Controller to p. -/
theorem goLost_eq {w : State} (hl : w.Lone p)
    (hw : ccWithdraw p (abandonReads p (modRec p (lostRecord y.now (stateOf y p)) y)) = modRec p (lostRecord y.now (stateOf y p)) w)
    (hn : w.now = y.now) :
    goLost p y = emitAll [.lostDelivery p, .lostLoadCheck p, .resetService p, .syncRefresh] (goneLost p (stateOf y p) w) := by
  have hgone : goneLost p (stateOf y p) w = freeFetching p (recordFault .nodeLost (some p) none none (priorDetail (stateOf y p))
      (endPass (ccWithdraw p (abandonReads p (modRec p (lostRecord y.now (stateOf y p)) y))))) := by
    rw [hw, endPass_idle (s := modRec p (lostRecord y.now (stateOf y p)) w) hl.pass, freeFetching_none]
    · unfold goneLost
      rw [hn]
      rfl
    · exact hl.fetching
  rw [hgone]
  rfl

/-- R155, R168, R179: p LOST and out of service. -/
def lostFrom (p : Pos) (prior : PosState) (s : State) : State := unrounded p (unpending p (unserved p (goneLost p prior s)))

/-- What a silence leaves of the offers: none, or the round's own. -/
structure State.Leaving (s w : State) (p : Pos) : Prop where
  lone : s.Lone p
  notices : s.notices = []
  offers : s.line.offers = []
  offered : w = s ∨ w = setOffers (fun _ => [wordOffer p]) s

theorem State.Leaving.lone_left {w : State} (h : s.Leaving w p) : w.Lone p := by
  obtain ⟨⟨h1, h2, h3, h4, h5, h6, h7⟩, -, -, ho⟩ := h
  rcases ho with rfl | rfl
  · exact ⟨h1, h2, h3, h4, h5, h6, h7⟩
  · exact ⟨h1, h2, h3, h4, h5, h6, h7⟩

theorem posRec_goneLost (prior : PosState) (s : State) : posRec (goneLost p prior s) p = lostRecord s.now prior (posRec s p) :=
  posRec_modRec ..

/-- R155, R168, R179: the notices of a position that goes LOST. -/
theorem acts_goneLost {w : State} (h : s.Leaving w p) (prior : PosState) :
    ∃ rf, Acts 4 [.lostDelivery p, .lostLoadCheck p, .resetService p, .syncRefresh] (goneLost p prior w)
      { lostFrom p prior s with port := { s.port with refresh := rf } } := by
  have hlone := State.Leaving.lone_left h
  have hnotices : (goneLost p prior w).notices = [] := by
    rcases h.offered with rfl | rfl
    · exact h.notices
    · exact h.notices
  have hoffers : ∀ o ∈ (goneLost p prior w).line.offers, o = wordOffer p := by
    rcases h.offered with rfl | rfl
    · intro o ho
      rw [show (goneLost p prior w).line.offers = [] from h.offers] at ho
      exact nomatch ho
    · intro o ho
      exact List.mem_singleton.mp ho
  have hround : endRound p (unpending p (unserved p (goneLost p prior w))) = lostFrom p prior s := by
    rcases h.offered with rfl | rfl
    · exact endRound_none (s := unpending p (unserved p (goneLost p prior w))) h.offers
    · exact endRound_own (s := unpending p (unserved p (goneLost p prior s))) h.offers
  have hstate : isVacant (unpending p (unserved p (goneLost p prior w))) p = false :=
    decide_eq_false (by
      rw [show stateOf (unpending p (unserved p (goneLost p prior w))) p = .lost from congrArg (·.state) (posRec_goneLost prior w)]
      decide)
  have hserved : leaveService p (goneLost p prior w) = unserved p (goneLost p prior w) :=
    leaveService_eq (s := goneLost p prior w) (fun o ho => by rw [hoffers o ho]; exact fun hc => Requester.noConfusion hc)
      hlone.override hlone.read
  have hdropped : dropChecks p (unserved p (goneLost p prior w)) = unpending p (unserved p (goneLost p prior w)) :=
    dropChecks_eq (s := unserved p (goneLost p prior w)) (fun o ho q src f step => by
      rw [hoffers o ho]; exact fun hc => Purpose.noConfusion hc) hlone.checks
  have hleft : leavePoller p (unpending p (unserved p (goneLost p prior w))) = lostFrom p prior s :=
    leavePoller_eq (z := unpending p (unserved p (goneLost p prior s))) hstate hround h.offers h.lone.sequence
  obtain ⟨rf, hrf⟩ := acts_syncRefresh (s := lostFrom p prior s) h.notices
  exact ⟨rf, Acts.cons (k := 1) (l := 3) (Acts.silent (x := .lostDelivery p) hnotices hserved hnotices)
    (Acts.cons (k := 1) (l := 2) (Acts.silent (x := .lostLoadCheck p) hnotices hdropped hnotices)
      (Acts.cons (k := 1) (l := 1) (Acts.silent (x := .resetService p) hnotices hleft h.notices) hrf))⟩

/-- R179, R34: a silence that takes p to LOST, once the end of its transaction left y. -/
theorem silent_lost {w : State} (hx : x.notices = []) (hend : takeLineEnd o .unheard none x = y) (hy : y.notices = [])
    (hr : y.consist.release.active = false) (hs : stateOf y p = .identifying ∨ stateOf y p = .describing
      ∨ stateOf y p = .exercising ∨ stateOf y p = .running) (h : s.Leaving w p)
    (hw : ccWithdraw p (abandonReads p (modRec p (lostRecord y.now (stateOf y p)) y)) = modRec p (lostRecord y.now (stateOf y p)) w)
    (hn : w.now = y.now) : ∃ rf, settle (emitAll [.lineEnd o .unheard none, .silenceNotice p, .lineFree] x) =
      State.free { lostFrom p (stateOf y p) s with port := { s.port with refresh := rf } } := by
  obtain ⟨rf, hacts⟩ := acts_goneLost h (stateOf y p)
  have hgone : (goneLost p (stateOf y p) w).notices = [] := by
    rcases h.offered with rfl | rfl
    · exact h.notices
    · exact h.notices
  have hsil : Acts 5 [.silenceNotice p] y { lostFrom p (stateOf y p) s with port := { s.port with refresh := rf } } :=
    Acts.run (x := .silenceNotice p) hy ((silence_goes hr hs).trans (goLost_eq (State.Leaving.lone_left h) hw hn)) hgone hacts
  exact ⟨rf, (Acts.cons (k := 1) (l := 6) (Acts.silent (x := .lineEnd o .unheard none) hx hend hy)
    (Acts.cons (k := 5) (l := 1) hsil (acts_lineFree (s := { lostFrom p (stateOf y p) s with port := { s.port with refresh := rf } })
      h.notices h.offers))).settle hx (by decide)⟩

end Sys2Proof.Machine
end

section
/-!
The third silence at each read (R48, R54, R166, R179, R181), and the ends of reads that are not under way.
-/
namespace Sys2Proof.Machine

variable {s t x y z : State} {p : Pos} {a : Nat} {d : Time} {o : Offer}

theorem lostFrom_at (prior : PosState) (pt : Port) (s : State) : State.free { lostFrom p prior (setUnheard p 3 s.over) with port := pt } =
    { setUnheard p 3 (lostFrom p prior s).free with port := pt } := rfl

/-- R54: the read offered again goes with the reads of p. -/
theorem abandonReads_own {g : ConsistRecord → ConsistRecord} (hr : o.requester = .consistController) (hc : o.cls = 4)
    (hp : o.pos = linePos p) (ho : x.line.offers = []) (h : ((streamRec x p).active || (streamRec x p).identNext.isSome) = true) :
    abandonReads p (modRec p g (setOffers (fun _ => [o]) x)) = modRec p g (modStream p (fun _ => {}) x) := by
  have hif : abandonReads p (modRec p g (setOffers (fun _ => [o]) x)) =
      ccWithdraw p (setOffers (fun _ => [o]) (modRec p g (modStream p (fun _ => {}) x))) := if_pos h
  rw [hif]
  exact ccWithdraw_own (s := modRec p g (modStream p (fun _ => {}) x)) hr hc hp ho

theorem ccWithdraw_none (ho : s.line.offers = []) : ccWithdraw p s = s := setOffers_noOffers ho (by rw [ho]; rfl)

/-- R54, R179: the third silence at a read of the Consist Controller that is offered again. -/
theorem read_loses (hx : x.Ending) (hl : x.Lone p) (hr : o.requester = .consistController) (hc : o.cls = 4) (hp : o.pos = linePos p)
    (hend : takeLineEnd o .unheard none x = setOffers (fun _ => [o]) x)
    (hs : stateOf x p = .identifying ∨ stateOf x p = .describing ∨ stateOf x p = .exercising ∨ stateOf x p = .running)
    (hread : ((streamRec x p).active || (streamRec x p).identNext.isSome) = true) :
    ∃ rf, settle (emitAll [.lineEnd o .unheard none, .silenceNotice p, .lineFree] x) = State.free
      { lostFrom p (stateOf x p) (modStream p (fun _ => {}) x) with port := { x.port with refresh := rf } } := by
  have hlone : (modStream p (fun _ => {}) x).Lone p := by
    obtain ⟨h1, h2, h3, h4, h5, h6, h7⟩ := hl
    exact ⟨h1, h2, h3, h4, h5, h6, h7⟩
  refine silent_lost (y := setOffers (fun _ => [o]) x) (s := modStream p (fun _ => {}) x) (w := modStream p (fun _ => {}) x) hx.notices hend
    hx.notices hl.release hs ⟨hlone, hx.notices, hx.offers, .inl rfl⟩ ?_ rfl
  rw [abandonReads_own hr hc hp hx.offers hread]
  exact ccWithdraw_none (s := modRec p _ (modStream p (fun _ => {}) x)) hx.offers

/-- R168, R179: the third silence at the GET of point 62. -/
theorem word_loses (hx : x.Ending) (hl : x.Lone p)
    (hend : takeLineEnd (wordOffer p) .unheard none x = setOffers (fun _ => [wordOffer p]) x)
    (hs : stateOf x p = .exercising ∨ stateOf x p = .running)
    (hactive : (streamRec x p).active = false) (hident : (streamRec x p).identNext = none) :
    ∃ rf, settle (emitAll [.lineEnd (wordOffer p) .unheard none, .silenceNotice p, .lineFree] x) = State.free
      { lostFrom p (stateOf x p) x with port := { x.port with refresh := rf } } := by
  refine silent_lost (y := setOffers (fun _ => [wordOffer p]) x) (w := setOffers (fun _ => [wordOffer p]) x) hx.notices hend
    hx.notices hl.release (.inr (.inr hs)) ⟨hl, hx.notices, hx.offers, .inr rfl⟩ ?_ rfl
  have hnone : abandonReads p (modRec p (lostRecord x.now (stateOf x p)) (setOffers (fun _ => [wordOffer p]) x)) =
      modRec p (lostRecord x.now (stateOf x p)) (setOffers (fun _ => [wordOffer p]) x) := by
    refine if_neg ?_
    show ¬ ((streamRec x p).active || (streamRec x p).identNext.isSome) = true
    rw [hactive, hident]
    decide
  refine (congrArg (ccWithdraw p) hnone).trans ?_
  exact ccWithdraw_other (s := modRec p (lostRecord x.now (stateOf x p)) x) (fun hc => Requester.noConfusion hc)

/-- R181: the third silence at an identification word of an attempt. -/
theorem attempt_over (hx : x.Ending) (hr : x.consist.release.active = false) (hs : stateOf x p = .lost)
    (hatt : (posRec x p).attemptUnderWay = true) (ho : o.requester = .consistController) (hc : o.cls = 4) (hp : o.pos = linePos p)
    (hend : takeLineEnd o .unheard none x = setOffers (fun _ => [o]) x) (hread : (streamRec x p).identNext.isSome = true) :
    settle (emitAll [.lineEnd o .unheard none, .silenceNotice p, .lineFree] x) =
      State.free (modRec p (fun r => { r with attemptUnderWay := false }) (modStream p (fun _ => {}) x)) := by
  have habandon : abandonReads p (setOffers (fun _ => [o]) x) = modStream p (fun _ => {}) x := by
    have hif : abandonReads p (setOffers (fun _ => [o]) x) = ccWithdraw p (setOffers (fun _ => [o]) (modStream p (fun _ => {}) x)) :=
      if_pos (by
        show ((streamRec x p).active || (streamRec x p).identNext.isSome) = true
        rw [hread, Bool.or_true])
    rw [hif]
    exact ccWithdraw_own (s := modStream p (fun _ => {}) x) ho hc hp hx.offers
  have hsil : silence p (setOffers (fun _ => [o]) x) =
      modRec p (fun r => { r with attemptUnderWay := false }) (modStream p (fun _ => {}) x) := by
    unfold silence
    rw [if_neg (by rw [releaseOffered_idle (s := setOffers (fun _ => [o]) x) hr]; decide),
      show stateOf (setOffers (fun _ => [o]) x) p = .lost from hs]
    dsimp only
    rw [if_pos (show (posRec (setOffers (fun _ => [o]) x) p).attemptUnderWay = true from hatt), habandon]
  exact (Acts.cons (k := 1) (l := 2) (Acts.silent (x := .lineEnd o .unheard none) (t := setOffers (fun _ => [o]) x) hx.notices hend hx.notices)
    (Acts.cons (k := 1) (l := 1) (Acts.silent (x := .silenceNotice p) (s := setOffers (fun _ => [o]) x) hx.notices hsil hx.notices)
      (acts_lineFree (s := modRec p (fun r => { r with attemptUnderWay := false }) (modStream p (fun _ => {}) x))
        hx.notices hx.offers))).settle hx.notices (by decide)

end Sys2Proof.Machine
end

section
/-!
The ends of a recovery attempt (R70, R174, R181, R182).
-/
namespace Sys2Proof.Machine

variable {s t u x y z : State} {p q : Pos} {a : Nat} {d : Time} {o : Offer} {out : LineOutcome} {data : Option Word}

/-! ## The ends of an ASSIGN -/

theorem State.InFlight.endingOver (h : s.InFlight o d) : s.over.Ending :=
  ⟨h.notices, h.offers, by rw [over_flight h.flight]; exact Option.some_ne_none _, openFlight_over h.flight⟩

theorem State.InFlight.endingOverLater (h : s.InFlight o d) (m : Time) : (advanceTo m s).over.Ending :=
  ⟨h.notices, h.offers, by rw [over_flight (s := advanceTo m s) h.flight]; exact Option.some_ne_none _,
    openFlight_over (s := advanceTo m s) h.flight⟩

/-- R23, R24, R32: how an ASSIGN of p ends. -/
theorem assign_ends (h : s.InFlight o d) (hop : o.op = .assign) (hp : assignPos o.data = some p) :
    (∀ w, exec (.transactionEnd { heard := true, ready := true, service := false, data := w }) s =
        .next (endSettled o .ready w (setUnheard p 0 s.over)))
      ∧ (∀ w, exec (.transactionEnd { heard := true, ready := false, service := false, data := w }) s =
        .next (endSettled o .notReady none s.over))
      ∧ (∀ any w, exec (.transactionEnd { heard := false, ready := any, service := false, data := w }) s =
        .next (endSettled o .notHeard none s.over))
      ∧ exec .replyDeadline s = .next (endSettled o .unheard none (advanceTo d s).over) := by
  have hpoll : o.op ≠ .poll := by rw [hop]; decide
  have hplain : ∀ {out : LineOutcome} {w : Option Word}, dataMissing o.op out w = false := by
    intro out w
    rw [hop]
    exact dataMissing_plain (by decide) (by decide)
  have hready : countEnd o .ready s.over = setUnheard p 0 s.over := by
    unfold countEnd
    rw [if_pos hop, hp]
  have hmissed : ∀ {out : LineOutcome} (y : State), out ≠ .ready → countEnd o out y = y := by
    intro out y hne
    unfold countEnd
    rw [if_pos hop]
    split
    · exact absurd rfl hne
    · rfl
  refine ⟨fun w => ?_, fun w => ?_, fun any w => ?_, ?_⟩
  · have he := reply_exec (r := { heard := true, ready := true, service := false, data := w }) h hpoll rfl hplain
    rw [endNotices_heard (by decide), hready] at he
    exact he
  · have he := reply_exec (r := { heard := true, ready := false, service := false, data := w }) h hpoll rfl hplain
    rw [endNotices_heard (by decide), hmissed _ (by decide)] at he
    exact he
  · have he := reply_exec (r := { heard := false, ready := any, service := false, data := w }) h hpoll rfl hplain
    rw [endNotices_heard (by decide), hmissed _ (by decide)] at he
    exact he
  · have he := deadline_exec h hpoll
    rw [endNotices_plain (if_pos hop), hmissed _ (by decide)] at he
    exact he

/-! ## The ASSIGN and the GET of point 63 -/

/-- R181: an attempt of p is under way, no release active. -/
structure State.Attempting (s : State) (p : Pos) : Prop where
  idle : s.consist.release.active = false
  lost : stateOf s p = .lost
  under : (posRec s p).attemptUnderWay = true

theorem attempting_true (h : s.Attempting p) : attempting s p = true := by
  unfold attempting underRelease
  rw [h.lost, h.under, h.idle]
  rfl

theorem attempting_false (h : ¬ (stateOf s p = .lost ∧ (posRec s p).attemptUnderWay = true)) : attempting s p = false := by
  refine Bool.eq_false_iff.mpr fun hc => h ?_
  unfold attempting at hc
  simp only [Bool.and_eq_true, decide_eq_true_eq] at hc
  exact hc.1

/-- R48, R181: the identification of an attempt, word 0 to be read. -/
def identifying (p : Pos) : State → State := modStream p fun r => { r with identNext := some 0, identWords := [] }

theorem startIdent_only (h : s.Ending) (hr : s.consist.release.active = false) :
    startIdent p s = setOffers (fun _ => [identRead p 0]) (identifying p s) :=
  offerIdent_only (s := identifying p s) ⟨h.notices, h.offers, h.flight, h.ended⟩ hr (by decide)

theorem probeOffer_valid (p : Pos) : offerValid (probeOffer p) = true := by revert p; decide

theorem probeOffer_plain (p : Pos) : (probeOffer p).Plain :=
  ⟨rfl, fun s => notePhase_quiet (fun _ h => Purpose.noConfusion h) (fun _ h => Purpose.noConfusion h)
    (fun _ _ h => Purpose.noConfusion h) s⟩

theorem strayOffer_plain (p : Pos) : (strayOffer p).Plain :=
  ⟨rfl, fun s => notePhase_quiet (fun _ h => Purpose.noConfusion h) (fun _ h => Purpose.noConfusion h)
    (fun _ _ h => Purpose.noConfusion h) s⟩

theorem probeOffer_addresses (p : Pos) : (probeOffer p).Addresses p := ⟨nofun, nofun, rfl⟩

/-- R181: an attempt whose node answers, and one whose ASSIGN it does not. -/
theorem attempt_goesOn (hx : x.Ending) (hr : x.consist.release.active = false) :
    (takeLineEnd o out data x = startIdent p x → endSettled o out data x = (identifying p x).granted (identRead p 0))
      ∧ (takeLineEnd o out data x = ccOffer p (probeOffer p) x → endSettled o out data x = x.granted (probeOffer p))
      ∧ (takeLineEnd o out data x = x → endSettled o out data x = x.free) := by
  refine ⟨fun he => ?_, fun he => ?_, fun he => ?_⟩
  · exact end_grants (y := identifying p x) hx.notices (he.trans (startIdent_only hx hr)) hx.notices hx.offers (identRead_plain p 0)
  · exact end_grants hx.notices (he.trans (ccOffer_only hx hr (probeOffer_valid p))) hx.notices hx.offers (probeOffer_plain p)
  · exact settle_frees (k := 1) hx.notices (Acts.silent hx.notices he hx.notices) hx.notices hx.offers (by decide)

/-- R181, R182: the end of a recovery ASSIGN, by what has become of p meanwhile. -/
theorem recoveryAssign_cases (out : LineOutcome) (data : Option Word) :
    (s.Attempting p → takeLineEnd (recoveryOffer p) out data s =
        if out = .ready then startIdent p s else ccOffer p (probeOffer p) s)
      ∧ (attempting s p = false → out = .ready → stateOf s p = .vacant →
        takeLineEnd (recoveryOffer p) out data s = makeOffer (strayOffer p) s)
      ∧ (attempting s p = false → ¬ (out = .ready ∧ stateOf s p = .vacant) → takeLineEnd (recoveryOffer p) out data s = s) := by
  have hun : takeLineEnd (recoveryOffer p) out data s = recoveryAssignEnd p out s := rfl
  rw [hun]
  unfold recoveryAssignEnd
  refine ⟨fun h => if_pos (attempting_true h), fun hn hr hv => ?_, fun hn hne => ?_⟩
  · rw [if_neg (by rw [hn]; decide)]
    exact if_pos ⟨hr, decide_eq_true hv⟩
  · rw [if_neg (by rw [hn]; decide)]
    exact if_neg fun hc => hne ⟨hc.1, of_decide_eq_true hc.2⟩

theorem recoveryGet_cases (out : LineOutcome) (data : Option Word) :
    (s.Attempting p → takeLineEnd (probeOffer p) out data s =
        if out = .unheard then modRec p (fun r => { r with attemptUnderWay := false }) s else startIdent p s)
      ∧ (attempting s p = false → takeLineEnd (probeOffer p) out data s = s) := by
  have hun : takeLineEnd (probeOffer p) out data s = recoveryGetEnd p out s := rfl
  rw [hun]
  unfold recoveryGetEnd
  exact ⟨fun h => if_pos (attempting_true h), fun hn => if_neg (by rw [hn]; decide)⟩

/-! ## An attempt that ends in a release -/

/-- R181: the attempt of p over. -/
def attemptOver (p : Pos) : State → State := modRec p fun r => { r with attemptUnderWay := false }

/-- R174, R175: the release of p begun at q, its RELEASE in flight. -/
def releasing (p q : Pos) : State → State :=
  modRelease fun r => { r with active := true, lowest := some p, current := some q, phase := some .inFlight }

theorem State.Ending.idleLine (h : s.Ending) : s.IdleLine := fun hf => absurd hf h.flight

/-- R174, R175: the release of p begun at q, its RELEASE on offer. -/
def releaseAsked (p q : Pos) : State → State :=
  modRelease fun r => { r with active := true, lowest := some p, current := some q, phase := some .offered }

/-- R174, R175: a release asked for as a transaction ends. -/
theorem acts_releaseAsked (hy : y.Ending) (hr : y.consist.release.active = false) (hp : stateOf y p ≠ .vacant)
    (hq : stateOf y q ≠ .vacant) (hw : stateOf y q ≠ .wired) (hhigh : ∀ x, q < x → stateOf y x = .vacant)
    (hident : ∀ x, (streamRec y x).identNext = none) :
    Acts 2 [.releaseRequest p] y (setOffers (fun _ => [releaseOffer q]) (releaseAsked p q y)) := by
  have hpq : p ≤ q := by
    by_contra hlt
    exact hp (hhigh p (not_le.mp hlt))
  have hwalk := acts_releaseWalk (s := y) hy.notices hy.idleLine hpq hq hw
  have honly : releaseBegun p q y = setOffers (fun _ => [releaseOffer q]) (releaseAsked p q y) :=
    State.Ending.only (s := releaseAsked p q y) ⟨hy.notices, hy.offers, hy.flight, hy.ended⟩ (releaseOffer_valid q)
  rw [honly] at hwalk
  exact Acts.run (x := .releaseRequest p) hy.notices (releaseRequest_begins (p := p) hr hident hpq hq hhigh) hy.notices hwalk

/-- R34: the RELEASE on offer granted, which its phase notes (R175). -/
theorem acts_releaseGranted (hn : y.notices = []) (ho : y.line.offers = []) :
    Acts 1 [.lineFree] (setOffers (fun _ => [releaseOffer q]) (releaseAsked p q y)) ((releasing p q y).granted (releaseOffer q)) :=
  Acts.silent (x := .lineFree) hn ((freeLine_one (s := releaseAsked p q y) (releaseOffer q) ho).trans
    (emitAll_nil (notePhase (releaseOffer q) ((releaseAsked p q y).granted (releaseOffer q))))) hn

/-- R182: a verdict that does not recover p. -/
theorem judge_releases {v : IdentVerdict} {before : Option Identity} (h : s.Attempting p) (hn : recovers s p v before = false) :
    identVerdict p v before s = emitAll [.releaseRequest p] (attemptOver p s) := by
  unfold identVerdict
  rw [h.lost]
  dsimp only
  rw [if_pos h.under]
  unfold judgeRecovery
  rw [if_neg (by rw [hn]; decide)]
  rfl

theorem attempt_releases {v : IdentVerdict} {before : Option Identity} (hx : x.Ending) (hy : y.Ending) (hatt : y.Attempting p)
    (hend : takeLineEnd o out data x = emitAll [.identVerdict p v before] y) (hn : recovers y p v before = false)
    (hq : stateOf y q ≠ .vacant) (hw : stateOf y q ≠ .wired) (hhigh : ∀ x, q < x → stateOf y x = .vacant)
    (hident : ∀ x, (streamRec y x).identNext = none) :
    endSettled o out data x = (releasing p q (attemptOver p y)).granted (releaseOffer q) := by
  have hstate : ∀ z, stateOf (attemptOver p y) z = stateOf y z := by
    intro z
    show ((y.consist.table.upd p _).get z).state = (y.consist.table.get z).state
    by_cases hz : z = p
    · rw [hz, Tab.get_upd_same]
    · rw [Tab.get_upd_ne _ _ hz]
  have hacts := acts_releaseAsked (y := attemptOver p y) (p := p) (q := q) ⟨hy.notices, hy.offers, hy.flight, hy.ended⟩ hatt.idle
    (by rw [hstate, hatt.lost]; decide) (by rw [hstate]; exact hq) (by rw [hstate]; exact hw)
    (fun x hx => by rw [hstate]; exact hhigh x hx) hident
  have hlast := Acts.run (x := .lineEnd o out data) hx.notices hend hy.notices
    (Acts.run (x := .identVerdict p v before) hy.notices (judge_releases hatt hn) hy.notices hacts)
  exact (Acts.cons (k := 4) (l := 1) hlast (acts_releaseGranted (y := attemptOver p y) hy.notices hy.offers)).settle hx.notices (by decide)

end Sys2Proof.Machine
end

section
/-!
The identification of a LOST position (R48, R70, R174, R182).
-/
namespace Sys2Proof.Machine

variable {s t u x y z : State} {p q : Pos} {a : Nat} {d : Time} {o : Offer} {out : LineOutcome} {data : Option Word}

/-! ## A verdict that ends the attempt -/

theorem recovers_iff {v : IdentVerdict} {before : Option Identity} : recovers s p v before = true ↔
    v = .identified ∧ (∃ b i, before = some b ∧ (posRec s p).identity = some i ∧ sameTrailer b i = true)
      ∧ ((posRec s p).prior = some .exercising ∨ (posRec s p).prior = some .running) := by
  unfold recovers
  split
  · rename_i b i hi hp
    rw [hi, hp]
    simp
  · rename_i b i hi hp
    rw [hi, hp]
    simp
  · rename_i h1 h2
    refine ⟨fun hc => absurd hc (by decide), ?_⟩
    rintro ⟨rfl, ⟨b, i, rfl, hi, -⟩, hp | hp⟩
    · exact (h1 b i rfl rfl hi hp).elim
    · exact (h2 b i rfl rfl hi hp).elim

/-- R47: the identification of p failed at word a. -/
def nameFailed (p : Pos) (a : Nat) (s : State) : State :=
  modStream p (fun r => { r with identNext := none, identWords := [] }) (s.faulted .descriptorBad p none none a)

theorem streamRec_modStream_ne {g : StreamRecord → StreamRecord} (h : q ≠ p) : streamRec (modStream p g s) q = streamRec s q :=
  Tab.get_upd_ne _ _ h

theorem identNext_failed (h : ∀ x, x ≠ p → (streamRec s x).identNext = none) (x : Pos) :
    (streamRec (nameFailed p a s) x).identNext = none := by
  by_cases hx : x = p
  · rw [hx]; exact congrArg (·.identNext) (streamRec_modStream ..)
  · exact (congrArg (·.identNext) (streamRec_modStream_ne hx)).trans (h x hx)

/-- What lies behind the position that a release begins at. -/
structure State.Highest (s : State) (q : Pos) : Prop where
  occupied : stateOf s q ≠ .vacant
  wired : stateOf s q ≠ .wired
  above : ∀ x, q < x → stateOf s x = .vacant

/-- R47, R182: a header word that fails ends the attempt. -/
theorem failed_releases {v : IdentVerdict} (hx : x.Ending) (hatt : x.Attempting p) (hv : v ≠ .identified)
    (h : takeLineEnd o out data x = identFails p a v x) (hq : x.Highest q) (hident : ∀ z, z ≠ p → (streamRec x z).identNext = none) :
    endSettled o out data x = (releasing p q (attemptOver p (nameFailed p a x))).granted (releaseOffer q) :=
  attempt_releases (y := nameFailed p a x) hx ⟨hx.notices, hx.offers, hx.flight, hx.ended⟩ ⟨hatt.idle, hatt.lost, hatt.under⟩
    (h.trans (identFails_eq v)) (Bool.eq_false_iff.mpr fun hc => hv (recovers_iff.mp hc).1) hq.occupied hq.wired hq.above
    (identNext_failed hident)

theorem posRec_named (h : Tab Word 8) (s : State) : posRec (named p h s) p = { posRec s p with identity := some (identityOf h) } :=
  posRec_modRec ..

theorem stateOf_named (h : Tab Word 8) (s : State) (z : Pos) : stateOf (named p h s) z = stateOf s z := by
  show ((s.consist.table.upd p _).get z).state = (s.consist.table.get z).state
  by_cases hz : z = p
  · rw [hz, Tab.get_upd_same]
  · rw [Tab.get_upd_ne _ _ hz]

theorem identNext_named {h : Tab Word 8} (hident : ∀ x, x ≠ p → (streamRec s x).identNext = none) (x : Pos) :
    (streamRec (named p h s) x).identNext = none := by
  by_cases hx : x = p
  · rw [hx]
    exact congrArg (·.identNext) (streamRec_modStream p (fun r => { r with header := some h, identNext := none, identWords := [] }) s)
  · exact (congrArg (·.identNext) (streamRec_modStream_ne (s := s) hx)).trans (hident x hx)

/-- R182: the known trailer, back where it had been described. -/
def Known (s : State) (p : Pos) (i : Identity) : Prop :=
  (∃ b, (posRec s p).identity = some b ∧ b.builder = i.builder ∧ b.serial = i.serial ∧ b.checksum = i.checksum)
    ∧ ((posRec s p).prior = some .exercising ∨ (posRec s p).prior = some .running)

theorem recovers_named {h : Tab Word 8} : recovers (named p h s) p .identified (posRec s p).identity = true ↔ Known s p (identityOf h) := by
  rw [recovers_iff, posRec_named]
  unfold Known sameTrailer
  simp only [Bool.and_eq_true, decide_eq_true_eq]
  constructor
  · rintro ⟨-, ⟨b, i, hb, hi, ⟨h1, h2⟩, h3⟩, hp⟩
    cases hi
    exact ⟨⟨b, hb, h1, h2, h3⟩, hp⟩
  · rintro ⟨⟨b, hb, h1, h2, h3⟩, hp⟩
    exact ⟨trivial, ⟨b, _, hb, rfl, ⟨h1, h2⟩, h3⟩, hp⟩

theorem word7_named {ws : List Word} (h : x.Naming p 7 ws) {w : Word} {hd : Tab Word 8} (hh : ∀ k, hd.get k = (ws ++ [w]).getD k.val 0) :
    takeLineEnd (identRead p 7) .ready (some w) x = emitAll [.identVerdict p .identified (posRec x p).identity] (named p hd x) := by
  have hpass : Passes ws 7 w := ⟨fun h => absurd h (by decide), fun h => absurd h (by decide), fun h => absurd h (by decide)⟩
  have hend : identEnd p 7 .ready (some w) x = emitAll [.identVerdict p .identified (posRec x p).identity]
      (named p (headerOf (ws ++ [w])) x) :=
    ((identEnd_cases h).1 w).trans ((takeHeaderWord_cases h w).2.1 hpass rfl)
  rw [headerOf_eq hh] at hend
  exact hend

/-- R182: word 7 of another trailer, or of one that had not been described. -/
theorem stranger_releases {ws : List Word} {w : Word} {hd : Tab Word 8} (hx : x.Ending) (hatt : x.Attempting p) (h : x.Naming p 7 ws)
    (hh : ∀ k, hd.get k = (ws ++ [w]).getD k.val 0) (hk : ¬ Known x p (identityOf hd)) (hq : x.Highest q)
    (hident : ∀ z, z ≠ p → (streamRec x z).identNext = none) :
    endSettled (identRead p 7) .ready (some w) x = (releasing p q (attemptOver p (named p hd x))).granted (releaseOffer q) := by
  have hrec := posRec_named (p := p) hd x
  exact attempt_releases (y := named p hd x) hx ⟨hx.notices, hx.offers, hx.flight, hx.ended⟩
    ⟨hatt.idle, (congrArg (·.state) hrec).trans hatt.lost, (congrArg (·.attemptUnderWay) hrec).trans hatt.under⟩
    (word7_named h hh) (Bool.eq_false_iff.mpr fun hc => hk (recovers_named.mp hc))
    (by rw [stateOf_named]; exact hq.occupied) (by rw [stateOf_named]; exact hq.wired)
    (fun z hz => by rw [stateOf_named]; exact hq.above z hz) (identNext_named hident)

/-! ## The known trailer -/

/-- R182: the recovery of p in its record. -/
def recovered (p : Pos) : State → State := modRec p fun r => { r with
  lostTimer := none, attempts := 0, prior := none, attemptTimer := none, attemptUnderWay := false }

/-- R70: p EXERCISING again, its description as it was. -/
def reentered (p : Pos) (h : Tab Word 8) (s : State) : State :=
  modStream p (fun r => { r with active := false, next := none, buffer := [], bufferOf := none })
    (modRec p (fun r => { r with state := .exercising, deadline := some (s.now + ms 10000) }) (recovered p (named p h s)))

/-- R76, R182: p RUNNING again. -/
def backRunning (p : Pos) (h : Tab Word 8) (s : State) : State :=
  modStream p (fun r => { r with active := false, next := none, buffer := [], bufferOf := none }) (modRec p (fun r => { r with
    state := .running, deadline := none, lampItems := [], groupItems := [], firstReads := []
    awaited := [], kept := [], lostTimer := none, attempts := 0, prior := none, attemptTimer := none
    attemptUnderWay := false }) (named p h s))

theorem ran_reentered (h : Tab Word 8) (s : State) : ran p (reentered p h s) = backRunning p h s := by
  have hswap : ran p (reentered p h s) =
      modStream p (fun r => { r with active := false, next := none, buffer := [], bufferOf := none }) (ran p (modRec p (fun r => { r with
        state := .exercising, deadline := some (s.now + ms 10000) }) (recovered p (named p h s)))) := rfl
  rw [hswap]
  refine congrArg (modStream p _) ((modRec_modRec ..).trans ?_)
  unfold recovered
  rw [modRec_modRec]

theorem posRec_reentered (h : Tab Word 8) (s : State) : posRec (reentered p h s) p = { posRec s p with
    identity := some (identityOf h), state := .exercising, deadline := some (s.now + ms 10000)
    lostTimer := none, attempts := 0, prior := none, attemptTimer := none, attemptUnderWay := false } := by
  have hmod : posRec (reentered p h s) p = { posRec (recovered p (named p h s)) p with
      state := .exercising, deadline := some (s.now + ms 10000) } := posRec_modRec ..
  have hrecov : posRec (recovered p (named p h s)) p = { posRec (named p h s) p with
      lostTimer := none, attempts := 0, prior := none, attemptTimer := none, attemptUnderWay := false } := posRec_modRec ..
  rw [hmod, hrecov, posRec_named]

/-- R182: the verdict that recovers p. -/
theorem known_enters {h : Tab Word 8} {before : Option Identity} (hatt : (named p h s).Attempting p)
    (hr : recovers (named p h s) p .identified before = true) :
    identVerdict p .identified before (named p h s) = emitAll [.enterExercising p] (recovered p (named p h s)) := by
  unfold identVerdict
  rw [hatt.lost]
  dsimp only
  rw [if_pos hatt.under]
  unfold judgeRecovery
  rw [if_pos hr]
  rfl

/-- What the recovery of p finds of its lamps, groups and table. -/
structure State.Ready (s : State) (p : Pos) : Prop where
  warm : (posRec s p).warm = true
  groups : ∀ g : Group, 4 ≤ g.val → dirOf s p g = none
  lamps : ∀ f ∈ awaitedLamps s p, (entryOf s p f).result ≠ .unchecked
  fresh : s.Fresh p
  checks : ∀ src, nodeCheck s p src = none
  whole : s.Whole

theorem planLamps_written (h : ∀ f ∈ awaitedLamps s p, (entryOf s p f).result ≠ .unchecked) : planLamps s p = [] := by
  have hall : ∀ k : LineNo, k ∈ allLines := by decide
  refine List.eq_nil_iff_forall_not_mem.mpr fun item hm => ?_
  cases item with
  | circuit k =>
    obtain ⟨c, hc, hp, hu⟩ := (mem_circuit_plan k).mp hm
    refine h c.code ?_ hu
    unfold awaitedLamps wiredAwaited
    refine List.mem_append_left _ (List.mem_flatMap.mpr ⟨k, hall k, List.mem_map.mpr ⟨c, ?_, rfl⟩⟩)
    exact List.mem_filter.mpr ⟨hc, decide_eq_true hp⟩
  | lamp f =>
    obtain ⟨hf, hu⟩ := (mem_lamp_plan f).mp hm
    exact h f (List.mem_append_right _ hf) hu

theorem reentered_consist (h : Tab Word 8) (s : State) : ∃ c, reentered p h s = { s with consist := c } := by
  unfold reentered recovered named modStream modRec
  exact ⟨_, rfl⟩

theorem backRunning_consist (h : Tab Word 8) (s : State) : ∃ c, backRunning p h s = { s with consist := c } := by
  unfold backRunning named modStream modRec
  exact ⟨_, rfl⟩

theorem State.Ending.beside {c : Consist} (h : s.Ending) : ({ s with consist := c } : State).Ending :=
  ⟨h.notices, h.offers, h.flight, h.ended⟩

theorem reentered_enterable {h : Tab Word 8} (hx : x.Ending) (hr : x.Ready p) : (reentered p h x).Enterable p := by
  have hstate : stateOf (reentered p h x) p = .exercising := congrArg (·.state) (posRec_reentered h x)
  obtain ⟨c, hc⟩ := reentered_consist (p := p) h x
  rw [hc] at hstate ⊢
  obtain ⟨h1, h2, h3, h4, h5, h6⟩ := hr.fresh
  exact ⟨hx.beside, hstate, ⟨h1, h2, h3, h4, h5, h6⟩, hr.checks, ⟨hr.whole.rebuild, hr.whole.wants, hr.whole.pending⟩⟩

/-- R70, R76: the entry of a recovered position with nothing to await. -/
theorem acts_reentered {h : Tab Word 8} (hx : x.Ending) (hr : x.Ready p) :
    ∃ rf, Acts 30 [.catchUp p, .buildPlan p, .exitTest p, .entryLamps p, .lookupGroups p, .rebuildEntry, .serviceEntry, .syncRefresh]
      (reentered p h x) (setOffers (fun _ => [pollOffer])
        { retired p x.memory (caught p (reentered p h x)) with port := { x.port with refresh := rf } }) := by
  have hrec := posRec_reentered (p := p) h x
  have hent := reentered_enterable (h := h) hx hr
  obtain ⟨c, hc⟩ := reentered_consist (p := p) h x
  rw [hc] at hrec hent ⊢
  have hawait : awaitedLamps ({ x with consist := c } : State) p = awaitedLamps x p := by
    unfold awaitedLamps
    rw [hrec]
    rfl
  have hgroups : ∀ g : Group, 4 ≤ g.val → dirOf ({ x with consist := c } : State) p g = none :=
    fun g hg => (congrArg (fun r => r.directory.get g) hrec).trans (hr.groups g hg)
  have hlamps : ∀ f ∈ awaitedLamps ({ x with consist := c } : State) p, (entryOf ({ x with consist := c } : State) p f).result ≠ .unchecked := by
    rw [hawait]; exact hr.lamps
  have hretires : Retires ({ x with consist := c } : State) p x.memory :=
    ⟨fun _ => rfl, fun hc => absurd ((congrArg (·.warm) hrec).symm.trans hc) (by rw [hr.warm]; decide),
      fun hc => absurd ((congrArg (·.warm) hrec).symm.trans hc) (by rw [hr.warm]; decide)⟩
  refine acts_entry_runs hent hretires hgroups ?_
  rw [planLamps_written hlamps, planGroups_none hgroups, exitMet_planned (s := caught p ({ x with consist := c } : State))
    ((awaitedLamps_caught p ({ x with consist := c } : State)).trans hawait)]
  refine Bool.and_eq_true_iff.mpr ⟨rfl, List.all_eq_true.mpr fun f hf => ?_⟩
  rw [unchecked_caught]
  have hne : unchecked ({ x with consist := c } : State) p f = false := decide_eq_false (hr.lamps f hf)
  rw [hne]
  rfl

theorem retired_caught (s : State) : retired p s.memory (caught p s) = caught p (ran p s) := rfl

/-- R76, R182: the last word of the known trailer. -/
theorem known_runs {ws : List Word} {w : Word} {hd : Tab Word 8} (hx : x.Ending) (hatt : x.Attempting p) (h : x.Naming p 7 ws)
    (hh : ∀ k, hd.get k = (ws ++ [w]).getD k.val 0) (hk : Known x p (identityOf hd)) (hr : x.Ready p) :
    ∃ rf, endSettled (identRead p 7) .ready (some w) x =
      State.granted pollOffer { caught p (backRunning p hd x) with port := { x.port with refresh := rf } } := by
  have hrec := posRec_named (p := p) hd x
  have hna : (named p hd x).Attempting p := ⟨hatt.idle, (congrArg (·.state) hrec).trans hatt.lost,
    (congrArg (·.attemptUnderWay) hrec).trans hatt.under⟩
  obtain ⟨rf, hentry⟩ := acts_reentered (p := p) (h := hd) hx hr
  have hran : retired p x.memory (caught p (reentered p hd x)) = caught p (backRunning p hd x) := by
    obtain ⟨c, hc⟩ := reentered_consist (p := p) hd x
    have hmem : x.memory = (reentered p hd x).memory := by rw [hc]
    rw [← ran_reentered, hmem]
    exact retired_caught _
  have henter : enterExercising p (recovered p (named p hd x)) = emitAll [.catchUp p, .buildPlan p, .exitTest p, .entryLamps p,
    .lookupGroups p, .rebuildEntry, .serviceEntry, .syncRefresh] (reentered p hd x) := rfl
  have hverdict := known_enters hna (recovers_named.mpr hk)
  have hword := word7_named h hh
  obtain ⟨c, hc⟩ := reentered_consist (p := p) hd x
  obtain ⟨c', hc'⟩ := backRunning_consist (p := p) hd x
  obtain ⟨c'', hc''⟩ : ∃ c, named p hd x = { x with consist := c } := ⟨_, rfl⟩
  obtain ⟨c₃, hc₃⟩ : ∃ c, recovered p (named p hd x) = { x with consist := c } := ⟨_, rfl⟩
  rw [hran, hc, hc'] at hentry
  rw [hc, hc₃] at henter
  rw [hc₃] at hverdict
  rw [hc'] 
  rw [hc''] at hverdict hword
  have hacts : Acts 33 [.lineEnd (identRead p 7) .ready (some w)] x (setOffers (fun _ => [pollOffer])
      { caught p { x with consist := c' } with port := { x.port with refresh := rf } }) :=
    Acts.run hx.notices hword hx.notices (Acts.run (x := .identVerdict p .identified (posRec x p).identity) hx.notices hverdict hx.notices
      (Acts.run (x := .enterExercising p) hx.notices henter hx.notices hentry))
  exact ⟨rf, endSettled_grants hx.notices hacts hx.notices hx.offers pollOffer_plain (by decide)⟩

end Sys2Proof.Machine
end

section
/-!
The third silence and the ends of a recovery attempt (O35).
-/
namespace Sys2Proof.Machine

variable {s t u x y z : State} {p q : Pos} {a : Nat} {d : Time} {o : Offer}

theorem State.Lone.later (h : s.Lone p) (d : Time) (n : Nat) : (setUnheard p n (advanceTo d s).over).Lone p := by
  obtain ⟨h1, h2, h3, h4, h5, h6, h7⟩ := h
  exact ⟨h1, h2, h3, h4, h5, h6, h7⟩

/-- R179: a deadline that leaves p LOST, y being the state at it. -/
theorem lost_ends {prior : PosState} {rf}
    (hexec : exec .replyDeadline s = .next (settle (emitAll [.lineEnd o .unheard none, .silenceNotice p, .lineFree] x)))
    (h : settle (emitAll [.lineEnd o .unheard none, .silenceNotice p, .lineFree] x) =
      State.free { lostFrom p prior (setUnheard p 3 y.over) with port := { y.port with refresh := rf } }) :
    ∃ t, exec .replyDeadline s = .next t ∧ t = { setUnheard p 3 (lostFrom p prior y).free with
      port := { (setUnheard p 3 (lostFrom p prior y).free).port with refresh := t.port.refresh } } := by
  rw [lostFrom_at] at h
  exact ⟨_, hexec.trans (congrArg _ h), rfl⟩

/-- R48, R54, R179: the third silence at an identification word and at a word of a description. -/
theorem identWord_silent (hl : s.Lone p) (hu : unheardOf s p = 2) (h : s.InFlight (identRead p a) d) (ha : a ≤ 1023)
    (hn : (streamRec s p).identNext = some a) :
    (stateOf s p = .identifying → ∃ t, exec .replyDeadline s = .next t
        ∧ t = { setUnheard p 3 (lostFrom p .identifying (modStream p (fun _ => {}) (advanceTo d s))).free with
          port := { (setUnheard p 3 (lostFrom p .identifying (modStream p (fun _ => {}) (advanceTo d s))).free).port with
            refresh := t.port.refresh } })
      ∧ (stateOf s p = .lost → (posRec s p).attemptUnderWay = true → exec .replyDeadline s =
        .next (setUnheard p 3 (attemptOver p (modStream p (fun _ => {}) (advanceTo d s))).free)) := by
  have hx := h.endingLater p 3 d
  have hend : takeLineEnd (identRead p a) .unheard none (setUnheard p 3 (advanceTo d s).over) =
      setOffers (fun _ => [identRead p a]) (setUnheard p 3 (advanceTo d s).over) :=
    (show identEnd p a .unheard none (setUnheard p 3 (advanceTo d s).over) = _ from if_pos hn).trans (offerIdent_only hx hl.release ha)
  have hread : (streamRec (setUnheard p 3 (advanceTo d s).over) p).identNext.isSome = true := by
    rw [show (streamRec (setUnheard p 3 (advanceTo d s).over) p).identNext = some a from hn]; rfl
  have hst : stateOf (setUnheard p 3 (advanceTo d s).over) p = stateOf s p := stateOf_advanceTo d s p
  refine ⟨fun hs => ?_, fun hs hatt => ?_⟩
  · have hcount : countsSilence s p = true := by unfold countsSilence; rw [hs]
    obtain ⟨rf, hgo⟩ := read_loses hx (hl.later d 3) rfl rfl rfl hend (.inl (hst.trans hs)) (by rw [hread, Bool.or_true])
    rw [hst, hs, modStream_at] at hgo
    exact lost_ends (silent_ends h (identRead_addresses p a) hcount hu) hgo
  · have hcount : countsSilence s p = true := by unfold countsSilence; rw [hs]
    have hatt' : (posRec (setUnheard p 3 (advanceTo d s).over) p).attemptUnderWay = true := by
      rw [show posRec (setUnheard p 3 (advanceTo d s).over) p = _ from posRec_advanceTo d s p]
      unfold lostAfter
      split <;> exact hatt
    have hgo := attempt_over hx hl.release (hst.trans hs) hatt' rfl rfl rfl hend hread
    rw [modStream_at, modRec_at, free_at] at hgo
    exact (silent_ends h (identRead_addresses p a) hcount hu).trans (congrArg _ hgo)

theorem streamWord_silent (hl : s.Lone p) (hu : unheardOf s p = 2) (h : s.InFlight (streamRead p a) d) (ha : a ≤ 1023)
    (hs : stateOf s p = .describing) (hact : (streamRec s p).active = true) (hn : (streamRec s p).next = some a) :
    ∃ t, exec .replyDeadline s = .next t
      ∧ t = { setUnheard p 3 (lostFrom p .describing (modStream p (fun _ => {}) (advanceTo d s))).free with
        port := { (setUnheard p 3 (lostFrom p .describing (modStream p (fun _ => {}) (advanceTo d s))).free).port with
          refresh := t.port.refresh } } := by
  have hx := h.endingLater p 3 d
  have hst : stateOf (setUnheard p 3 (advanceTo d s).over) p = stateOf s p := stateOf_advanceTo d s p
  have htaking : (setUnheard p 3 (advanceTo d s).over).Taking p a := ⟨hl.release, hst.trans hs, hact, hn⟩
  have hend : takeLineEnd (streamRead p a) .unheard none (setUnheard p 3 (advanceTo d s).over) =
      setOffers (fun _ => [streamRead p a]) (setUnheard p 3 (advanceTo d s).over) :=
    ((streamEnd_cases htaking).2.2.1).trans (offerStream_only hx hl.release ha)
  have hcount : countsSilence s p = true := by unfold countsSilence; rw [hs]
  obtain ⟨rf, hgo⟩ := read_loses hx (hl.later d 3) rfl rfl rfl hend (.inr (.inl (hst.trans hs))) (by
    rw [show (streamRec (setUnheard p 3 (advanceTo d s).over) p).active = true from hact]; rfl)
  rw [hst, hs, modStream_at] at hgo
  exact lost_ends (silent_ends h (streamRead_addresses p a) hcount hu) hgo

/-- R166, R168, R179: the third silence at the GET of point 62. -/
theorem serviceWord_silent {prior : PosState} (hl : s.Lone p) (hu : unheardOf s p = 2) (h : s.InFlight (wordOffer p) d) (hw : s.InWord p)
    (hact : (streamRec s p).active = false) (hn : (streamRec s p).identNext = none) (hs : stateOf s p = prior)
    (hprior : prior = .exercising ∨ prior = .running) :
    ∃ t, exec .replyDeadline s = .next t ∧ t = { setUnheard p 3 (lostFrom p prior (advanceTo d s)).free with
      port := { (setUnheard p 3 (lostFrom p prior (advanceTo d s)).free).port with refresh := t.port.refresh } } := by
  have hx := h.endingLater p 3 d
  have hst : stateOf (setUnheard p 3 (advanceTo d s).over) p = stateOf s p := stateOf_advanceTo d s p
  have hwx : (setUnheard p 3 (advanceTo d s).over).InWord p := ⟨hw.pending, hw.reading, hw.waiting⟩
  have hend : takeLineEnd (wordOffer p) .unheard none (setUnheard p 3 (advanceTo d s).over) =
      setOffers (fun _ => [wordOffer p]) (setUnheard p 3 (advanceTo d s).over) :=
    ((wordEnd_of hwx).2.2.2 none).trans (hx.only (getOffer_valid _ _ p _ (by decide)))
  have hserve : inService s p = true := by
    unfold inService
    rw [hs]
    rcases hprior with rfl | rfl <;> rfl
  obtain ⟨rf, hgo⟩ := word_loses hx (hl.later d 3) hend (by rw [hst, hs]; exact hprior) hact hn
  rw [hst, hs] at hgo
  exact lost_ends (silent_ends h (wordOffer_addresses p) (countsSilence_inService hserve) hu) hgo

/-- R47, R54: the end of a word that is not under way. -/
theorem word_discarded (h : s.InFlight o d) (ho : o.Addresses p) (hend : ∀ out data (x : State), x.consist = s.consist →
    takeLineEnd o out data x = x) (heard ready : Bool) (w : Word) :
    exec (.transactionEnd { heard := heard, ready := ready, service := false, data := some w }) s = .next (setUnheard p 0 s.free) := by
  have hx := h.ending p 0
  have hfree : ∀ out data, endSettled o out data (setUnheard p 0 s.over) = setUnheard p 0 s.free := fun out data =>
    settle_frees (k := 1) hx.notices (Acts.silent (x := .lineEnd o out data) hx.notices (hend out data _ rfl) hx.notices)
      hx.notices hx.offers (by decide)
  obtain ⟨hready, hnot, hsilent⟩ := reply_ends h ho
  cases heard with
  | false => exact (hsilent ready (some w)).trans (congrArg _ (hfree _ _))
  | true =>
    cases ready with
    | false => exact (hnot (some w)).trans (congrArg _ (hfree _ _))
    | true => exact (hready w).trans (congrArg _ (hfree _ _))

theorem identWord_off (h : (streamRec s p).identNext = none) (out : LineOutcome) (data : Option Word) (hx : x.consist = s.consist) :
    takeLineEnd (identRead p a) out data x = x := by
  have hn : (streamRec x p).identNext = none := by unfold streamRec; rw [hx]; exact h
  exact if_neg (by rw [hn]; exact (Option.some_ne_none a).symm)

theorem streamWord_off (h : (streamRec s p).active = false) (out : LineOutcome) (data : Option Word) (hx : x.consist = s.consist) :
    takeLineEnd (streamRead p a) out data x = x := by
  have hn : (streamRec x p).active = false := by unfold streamRec; rw [hx]; exact h
  have hrun : takeLineEnd (streamRead p a) out data x = streamEnd p a out data x := rfl
  rw [hrun]
  unfold streamEnd
  exact if_neg (by rw [hn, Bool.false_and, Bool.false_and]; decide)

end Sys2Proof.Machine
end

section
/-!
The ends of a recovery attempt (O35).
-/
namespace Sys2Proof.Machine

variable {s t u x y z : State} {p q : Pos} {a : Nat} {d : Time} {o : Offer}

theorem identifying_at (n : Nat) (s : State) : identifying p (setUnheard p n s.over) = setUnheard p n (identifying p s).over := rfl
theorem attemptOver_at (n : Nat) (s : State) : attemptOver p (setUnheard p n s.over) = setUnheard p n (attemptOver p s).over := rfl
theorem nameFailed_at (n : Nat) (s : State) : nameFailed p a (setUnheard p n s.over) = setUnheard p n (nameFailed p a s).over := rfl
theorem releasing_at (n : Nat) (s : State) : releasing p q (setUnheard p n s.over) = setUnheard p n (releasing p q s).over := rfl
theorem named_at (h : Tab Word 8) (n : Nat) (s : State) : named p h (setUnheard p n s.over) = setUnheard p n (named p h s).over := rfl
theorem granted_overAlone (o : Offer) (s : State) : s.over.granted o = s.granted o := rfl
theorem free_overAlone (s : State) : s.over.free = s.free := rfl

theorem State.Attempting.at_end (h : s.Attempting p) (n : Nat) : (setUnheard p n s.over).Attempting p := ⟨h.idle, h.lost, h.under⟩
theorem State.Attempting.ended (h : s.Attempting p) : s.over.Attempting p := ⟨h.idle, h.lost, h.under⟩

theorem State.Attempting.later (h : s.Attempting p) (d : Time) : (advanceTo d s).Attempting p := by
  refine ⟨h.idle, (stateOf_advanceTo d s p).trans h.lost, ?_⟩
  rw [posRec_advanceTo]
  unfold lostAfter
  split <;> exact h.under

theorem not_attempting_later (h : ¬ (stateOf s p = .lost ∧ (posRec s p).attemptUnderWay = true)) (d : Time) :
    ¬ (stateOf (advanceTo d s) p = .lost ∧ (posRec (advanceTo d s) p).attemptUnderWay = true) := by
  rintro ⟨hs, hu⟩
  refine h ⟨(stateOf_advanceTo d s p).symm.trans hs, ?_⟩
  rw [posRec_advanceTo] at hu
  unfold lostAfter at hu
  split at hu <;> exact hu

theorem recoveryOffer_number (p : Pos) : assignPos (recoveryOffer p).data = some p := assignPos_number p

/-- R181: the ends of the ASSIGN of an attempt under way. -/
theorem recoveryAssign_attempt (h : s.InFlight (recoveryOffer p) d) (ha : s.Attempting p) :
    (∀ x, exec (.transactionEnd { heard := true, ready := true, service := false, data := x }) s =
        .next (State.granted (identRead p 0) (setUnheard p 0 (identifying p s))))
      ∧ (∀ x, exec (.transactionEnd { heard := true, ready := false, service := false, data := x }) s =
        .next (s.granted (probeOffer p)))
      ∧ (∀ any x, exec (.transactionEnd { heard := false, ready := any, service := false, data := x }) s =
        .next (s.granted (probeOffer p)))
      ∧ exec .replyDeadline s = .next ((advanceTo d s).granted (probeOffer p)) := by
  obtain ⟨hready, hnot, hsilent, hlate⟩ := assign_ends h rfl (recoveryOffer_number p)
  have hprobe := fun (x : State) (hx : x.Ending) (hax : x.Attempting p) (out : LineOutcome) (hne : out ≠ .ready) data =>
    (attempt_goesOn (o := recoveryOffer p) (out := out) (data := data) hx hax.idle).2.1
      (((recoveryAssign_cases out data).1 hax).trans (if_neg hne))
  refine ⟨fun x => (hready x).trans (congrArg _ ?_), fun x => (hnot x).trans (congrArg _ (hprobe _ h.endingOver ha.ended _ (by decide) _)),
    fun any x => (hsilent any x).trans (congrArg _ (hprobe _ h.endingOver ha.ended _ (by decide) _)),
    hlate.trans (congrArg _ (hprobe _ (h.endingOverLater d) (ha.later d).ended _ (by decide) _))⟩
  have hgo := (attempt_goesOn (o := recoveryOffer p) (out := .ready) (data := x) (h.ending p 0) ha.idle).1
    (((recoveryAssign_cases .ready x).1 (ha.at_end 0)).trans (if_pos rfl))
  rw [identifying_at, granted_over] at hgo
  exact hgo

/-- R39, R182: the ends of a recovery ASSIGN that finds no attempt under way. -/
theorem recoveryAssign_late (h : s.InFlight (recoveryOffer p) d) (hr : s.consist.release.active = false)
    (ha : ¬ (stateOf s p = .lost ∧ (posRec s p).attemptUnderWay = true)) :
    (∀ x, exec (.transactionEnd { heard := true, ready := true, service := false, data := x }) s =
        if stateOf s p = .vacant then .next (State.granted (strayOffer p) (setUnheard p 0 s)) else .next (setUnheard p 0 s.free))
      ∧ (∀ x, exec (.transactionEnd { heard := true, ready := false, service := false, data := x }) s = .next s.free)
      ∧ (∀ any x, exec (.transactionEnd { heard := false, ready := any, service := false, data := x }) s = .next s.free)
      ∧ exec .replyDeadline s = .next (advanceTo d s).free := by
  obtain ⟨hready, hnot, hsilent, hlate⟩ := assign_ends h rfl (recoveryOffer_number p)
  have hover := fun (x : State) (hx : x.Ending) (hrx : x.consist.release.active = false) (hax : attempting x p = false) (out : LineOutcome)
    (hne : ¬ (out = .ready ∧ stateOf x p = .vacant)) data =>
    (attempt_goesOn (o := recoveryOffer p) (out := out) (data := data) (p := p) hx hrx).2.2 ((recoveryAssign_cases out data).2.2 hax hne)
  have hidle : attempting s.over p = false := attempting_false (s := s.over) ha
  refine ⟨fun x => ?_, fun x => (hnot x).trans (congrArg _ (hover _ h.endingOver hr hidle _ (by simp) _)),
    fun any x => (hsilent any x).trans (congrArg _ (hover _ h.endingOver hr hidle _ (by simp) _)),
    hlate.trans (congrArg _ (hover _ (h.endingOverLater d) hr (attempting_false (s := (advanceTo d s).over) (not_attempting_later ha d)) _
      (by simp) _))⟩
  have hx := h.ending p 0
  have hidle0 : attempting (setUnheard p 0 s.over) p = false := attempting_false (s := setUnheard p 0 s.over) ha
  by_cases hv : stateOf s p = .vacant
  · rw [if_pos hv]
    refine (hready x).trans (congrArg _ ?_)
    exact end_grants (y := setUnheard p 0 s.over) hx.notices (((recoveryAssign_cases .ready x).2.1 hidle0 rfl hv).trans (hx.only (strayOffer_valid p))) hx.notices
      hx.offers (strayOffer_plain p)
  · rw [if_neg hv]
    exact (hready x).trans (congrArg _ (hover _ hx hr hidle0 _ (fun hc => hv hc.2) _))

/-- R181: the ends of the GET of point 63 of an attempt under way. -/
theorem recoveryGet_attempt (h : s.InFlight (probeOffer p) d) (ha : s.Attempting p) :
    (∀ w : Word, exec (.transactionEnd { heard := true, ready := true, service := false, data := some w }) s =
        .next (State.granted (identRead p 0) (setUnheard p 0 (identifying p s))))
      ∧ (∀ x, exec (.transactionEnd { heard := true, ready := false, service := false, data := x }) s =
        .next (State.granted (identRead p 0) (setUnheard p 0 (identifying p s))))
      ∧ (∀ any x, exec (.transactionEnd { heard := false, ready := any, service := false, data := x }) s =
        .next (State.granted (identRead p 0) (setUnheard p 0 (identifying p s))))
      ∧ (unheardOf s p ≤ 3 → exec .replyDeadline s =
        .next (attemptOver p (setUnheard p (min 3 (unheardOf s p + 1)) (advanceTo d s))).free) := by
  obtain ⟨hready, hnot, hsilent⟩ := reply_ends h (probeOffer_addresses p)
  have hgo : ∀ out data, out ≠ .unheard → endSettled (probeOffer p) out data (setUnheard p 0 s.over) =
      State.granted (identRead p 0) (setUnheard p 0 (identifying p s)) := by
    intro out data hne
    have hgo := (attempt_goesOn (o := probeOffer p) (out := out) (data := data) (h.ending p 0) ha.idle).1
      (((recoveryGet_cases out data).1 (ha.at_end 0)).trans (if_neg hne))
    rw [identifying_at, granted_over] at hgo
    exact hgo
  refine ⟨fun w => (hready w).trans (congrArg _ (hgo _ _ (by decide))), fun x => (hnot x).trans (congrArg _ (hgo _ _ (by decide))),
    fun any x => (hsilent any x).trans (congrArg _ (hgo _ _ (by decide))), fun _ => ?_⟩
  let n := min 3 (unheardOf s p + 1)
  let x : State := setUnheard p n (advanceTo d s).over
  have hcount : countsSilence (advanceTo d s).over p = true := by
    have hl : stateOf (advanceTo d s).over p = .lost := (stateOf_advanceTo d s p).trans ha.lost
    unfold countsSilence
    rw [hl]
  have hx : x.Ending := h.endingLater p n d
  have hend : takeLineEnd (probeOffer p) .unheard none x = attemptOver p x :=
    ((recoveryGet_cases .unheard none).1 ((ha.later d).at_end n)).trans (if_pos rfl)
  have hover : silence p (attemptOver p x) = attemptOver p x := by
    have hl : stateOf (attemptOver p x) p = .lost :=
      (congrArg (·.state) (posRec_modRec p _ x)).trans ((stateOf_advanceTo d s p).trans ha.lost)
    have hun : (posRec (attemptOver p x) p).attemptUnderWay = false := congrArg (·.attemptUnderWay) (posRec_modRec p _ x)
    unfold silence
    rw [if_neg (by rw [releaseOffered_idle (s := attemptOver p x) ha.idle]; decide), hl]
    dsimp only
    rw [if_neg (by rw [hun]; decide)]
  have hexec := deadline_exec h (probeOffer_addresses p).poll
  rw [countEnd_unheard_at (probeOffer_addresses p) hcount] at hexec
  refine hexec.trans (congrArg _ ?_)
  have hfirst : Acts 1 [.lineEnd (probeOffer p) .unheard none] x (attemptOver p x) := Acts.silent hx.notices hend hx.notices
  have hlast := acts_lineFree (s := attemptOver p x) hx.notices hx.offers
  cases hsil : raisesSilence (probeOffer p) .unheard (advanceTo d s) with
  | none =>
    rw [endNotices_plain hsil]
    exact (Acts.cons (k := 1) (l := 1) hfirst hlast).settle hx.notices (by decide)
  | some p' =>
    have hp' : p' = p := by
      unfold raisesSilence at hsil
      rw [if_neg (probeOffer_addresses p).assign, (probeOffer_addresses p).pos, trailerPos_linePos.mpr rfl] at hsil
      dsimp only at hsil
      split at hsil
      · exact (Option.some.inj hsil).symm
      · exact nomatch hsil
    have hns : endNotices (probeOffer p) .unheard none false (advanceTo d s) =
        [.lineEnd (probeOffer p) .unheard none, .silenceNotice p, .lineFree] := by
      unfold endNotices
      rw [hsil, hp']
      rfl
    rw [hns]
    exact (Acts.cons (k := 1) (l := 2) hfirst (Acts.cons (k := 1) (l := 1)
      (Acts.silent (x := .silenceNotice p) hx.notices hover hx.notices) hlast)).settle hx.notices (by decide)

theorem recoveryGet_late (h : s.InFlight (probeOffer p) d) (ha : ¬ (stateOf s p = .lost ∧ (posRec s p).attemptUnderWay = true)) :
    (∀ w : Word, exec (.transactionEnd { heard := true, ready := true, service := false, data := some w }) s = .next (setUnheard p 0 s.free))
      ∧ (∀ x, exec (.transactionEnd { heard := true, ready := false, service := false, data := x }) s = .next (setUnheard p 0 s.free))
      ∧ ∀ any x, exec (.transactionEnd { heard := false, ready := any, service := false, data := x }) s =
        .next (setUnheard p 0 s.free) := by
  obtain ⟨hready, hnot, hsilent⟩ := reply_ends h (probeOffer_addresses p)
  have hx := h.ending p 0
  have hidle : attempting (setUnheard p 0 s.over) p = false := attempting_false (s := setUnheard p 0 s.over) ha
  have hfree : ∀ out data, endSettled (probeOffer p) out data (setUnheard p 0 s.over) = setUnheard p 0 s.free := fun out data =>
    settle_frees (k := 1) hx.notices (Acts.silent (x := .lineEnd (probeOffer p) out data) hx.notices
      ((recoveryGet_cases out data).2 hidle) hx.notices) hx.notices hx.offers (by decide)
  exact ⟨fun w => (hready w).trans (congrArg _ (hfree _ _)), fun x => (hnot x).trans (congrArg _ (hfree _ _)),
    fun any x => (hsilent any x).trans (congrArg _ (hfree _ _))⟩

end Sys2Proof.Machine
end

section
/-!
The identification of a recovery attempt (O35).
-/
namespace Sys2Proof.Machine

variable {s t u x y z : State} {p q : Pos} {a : Nat} {d : Time} {o : Offer}

theorem State.Highest.at_end (h : s.Highest q) (n : Nat) : (setUnheard p n s.over).Highest q := ⟨h.occupied, h.wired, h.above⟩

/-- R47, R182: a header word of an attempt that fails. -/
theorem attempt_fails {v : IdentVerdict} {out : LineOutcome} {data : Option Word} (h : s.InFlight (identRead p a) d)
    (ha : s.Attempting p) (hv : v ≠ .identified)
    (hend : identEnd p a out data (setUnheard p 0 s.over) = identFails p a v (setUnheard p 0 s.over)) (hq : s.Highest q)
    (hident : ∀ z, z ≠ p → (streamRec s z).identNext = none) :
    endSettled (identRead p a) out data (setUnheard p 0 s.over) =
      setUnheard p 0 (State.granted (releaseOffer q) (releasing p q (attemptOver p (nameFailed p a s)))) := by
  have hgo := failed_releases (o := identRead p a) (h.ending p 0) (ha.at_end 0) hv hend (hq.at_end 0) hident
  rw [nameFailed_at, attemptOver_at, releasing_at, granted_over] at hgo
  exact hgo

theorem known_at {i : Identity} (n : Nat) : Known (setUnheard p n s.over) p i ↔ Known s p i := Iff.rfl

theorem backRunning_at (h : Tab Word 8) (n : Nat) (s : State) :
    backRunning p h (setUnheard p n s.over) = setUnheard p n (backRunning p h s).over := rfl

/-- What the recovery of a known trailer leaves of the rest. -/
theorem known_leaves {u : State} {pt : Port} (hu : u.delivery = s.delivery) (hp : Refreshed pt u.port) :
    let t := State.granted pollOffer { caught p (setUnheard p 0 u.over) with port := pt }
    t = { setUnheard p 0 (u.granted pollOffer) with
        port := { (setUnheard p 0 (u.granted pollOffer)).port with refresh := t.port.refresh }
        delivery := { s.delivery with status := t.delivery.status } }
      ∧ ∀ q f, entryOf t q f = if q = p then
          { entryOf s p f with
            notFitted := false, unavailable := false, retryAt := none
            delivered := if kindOf f = .sensor then (entryOf s p f).delivered else some 0 }
        else entryOf s q f := by
  intro t
  refine ⟨?_, fun q f => ?_⟩
  · have hport : t.port = { u.port with refresh := t.port.refresh } := hp.eq
    have hdel : t.delivery = { s.delivery with status := t.delivery.status } := by
      rw [← hu]
      rfl
    show t = { setUnheard p 0 (u.granted pollOffer) with
      port := { u.port with refresh := t.port.refresh }, delivery := { s.delivery with status := t.delivery.status } }
    rw [← hport, ← hdel]
    rfl
  · have hent : entryOf t q f = entryOf (caught p u) q f := rfl
    have hsame : ∀ q f, entryOf u q f = entryOf s q f := fun q f => by unfold entryOf; rw [hu]
    rw [hent, entryOf_caught, hsame, hsame]
    rfl

theorem State.Ready.at_end (h : s.Ready p) (n : Nat) : (setUnheard p n s.over).Ready p := by
  obtain ⟨h1, h2, h3, ⟨f1, f2, f3, f4, f5, f6⟩, h5, ⟨w1, w2, w3⟩⟩ := h
  exact ⟨h1, h2, h3, ⟨f1, f2, f3, f4, f5, f6⟩, h5, ⟨w1, w2, w3⟩⟩

/-- R76, R182: word 7 of the known trailer. -/
theorem attempt_recovers {ws : List Word} {w : Word} {hd : Tab Word 8} (h : s.InFlight (identRead p 7) d) (ha : s.Attempting p)
    (hn : s.Naming p 7 ws) (hh : ∀ k, hd.get k = (ws ++ [w]).getD k.val 0) (hk : Known s p (identityOf hd)) (hr : s.Ready p) :
    ∃ t, endSettled (identRead p 7) .ready (some w) (setUnheard p 0 s.over) = t
      ∧ t = { setUnheard p 0 ((backRunning p hd s).granted pollOffer) with
        port := { (setUnheard p 0 ((backRunning p hd s).granted pollOffer)).port with refresh := t.port.refresh }
        delivery := { s.delivery with status := t.delivery.status } }
      ∧ ∀ q f, entryOf t q f = if q = p then
          { entryOf s p f with
            notFitted := false, unavailable := false, retryAt := none
            delivered := if kindOf f = .sensor then (entryOf s p f).delivered else some 0 }
        else entryOf s q f := by
  obtain ⟨rf, hgo⟩ := known_runs (h.ending p 0) (ha.at_end 0) (hn.at_end 0) hh hk (hr.at_end 0)
  obtain ⟨c, hc⟩ := backRunning_consist (p := p) hd s
  rw [backRunning_at, hc] at hgo
  rw [hc]
  exact ⟨_, hgo, known_leaves (u := { s with consist := c }) rfl ⟨rf, rfl⟩⟩

/-- Settles O35: the third silence at each read, and the ends of a recovery attempt by what is in flight. -/
theorem silenceLosesPosition : Obligations.SilenceLosesPosition := by
  unfold Obligations.SilenceLosesPosition
  refine ⟨?_, ?_⟩
  · intro s p d hrel hpass hfet hov hrd hchk hseq read next stream silent lost ends
    have hl : s.Lone p := ⟨hrel, hpass, hfet, hov, hrd, hchk, hseq⟩
    refine ⟨fun hu => ⟨fun a hfl ha hn => identWord_silent hl hu hfl ha hn,
      fun a hfl ha hs hact hn => streamWord_silent hl hu hfl ha hs hact hn, fun hfl hp hr hw hact hn => ?_⟩, ?_⟩
    · exact ⟨fun hs => serviceWord_silent hl hu hfl ⟨hp, hr, hw⟩ hact hn hs (.inl rfl),
        fun hs => serviceWord_silent hl hu hfl ⟨hp, hr, hw⟩ hact hn hs (.inr rfl)⟩
    · intro a heard ready w hcase
      rcases hcase with ⟨hfl, hn⟩ | ⟨hfl, hn⟩
      · exact word_discarded hfl (identRead_addresses p a) (fun out data x hx => identWord_off hn out data hx) heard ready w
      · exact word_discarded hfl (streamRead_addresses p a) (fun out data x hx => streamWord_off hn out data hx) heard ready w
  · intro s p d hrel read reply attempts ended identifies probes
    refine ⟨fun hfl => ⟨fun hatt => recoveryAssign_attempt hfl ⟨hrel, hatt.1, hatt.2⟩, fun hv => ?_, fun hatt hv => ?_⟩,
      fun hfl hatt => recoveryGet_late hfl hatt, fun hfl hatt => recoveryGet_attempt hfl ⟨hrel, hatt.1, hatt.2⟩, ?_⟩
    · obtain ⟨h1, h2, h3, h4⟩ := recoveryAssign_late hfl hrel (fun hc => by rw [hv] at hc; exact absurd hc.1 (by decide))
      exact ⟨fun x => (h1 x).trans (if_pos hv), h2, h3, h4⟩
    · obtain ⟨h1, h2, h3, h4⟩ := recoveryAssign_late hfl hrel hatt
      exact ⟨fun x => (h1 x).trans (if_neg hv), h2, h3, h4⟩
    · intro a ws hfl hatt hnext hwords hlen ha passes asks failed
      have hat : s.Attempting p := ⟨hrel, hatt.1, hatt.2⟩
      have hn : s.Naming p a ws := ⟨hrel, hnext, hwords⟩
      have hx := hfl.ending p 0
      have hnx := hn.at_end (p := p) 0
      obtain ⟨hready, hnot, hsilent⟩ := reply_ends hfl (identRead_addresses p a)
      obtain ⟨hword, -, hno, hnone⟩ := identEnd_cases hnx
      have hcount : countsSilence s p = true := by unfold countsSilence; rw [hatt.1]
      refine ⟨fun w hp q hq hw hhigh hid => ?_, fun x q hq hw hhigh hid => ?_, fun any x q hq hw hhigh hid => ?_, fun hu => ?_,
        fun w hlt hp => ?_, fun w h ha7 hh => ?_⟩
      · exact (hready w).trans (congrArg _ (attempt_fails hfl hat (by decide) ((hword w).trans ((takeHeaderWord_cases hnx w).1 hp))
          ⟨hq, hw, hhigh⟩ hid))
      · exact (hnot x).trans (congrArg _ (attempt_fails hfl hat (by decide) hno ⟨hq, hw, hhigh⟩ hid))
      · exact (hsilent any x).trans (congrArg _ (attempt_fails hfl hat (by decide) hnone ⟨hq, hw, hhigh⟩ hid))
      · have hend := (ident_next (hfl.endingLater p (unheardOf s p + 1) d) ((hn.later d).at_end _) ha).1
        exact (unheard_ends hfl (identRead_addresses p a) hcount hu).trans (congrArg _ hend)
      · have hend := (ident_next hx hnx ha).2 w hlt hp
        rw [modStream_at] at hend
        exact (hready w).trans (congrArg _ hend)
      · subst ha7
        intro i known taken
        refine ⟨fun hk q hq hw hhigh hid => ?_, ?_⟩
        · have hgo := stranger_releases hx (hat.at_end 0) hnx hh hk (State.Highest.at_end ⟨hq, hw, hhigh⟩ 0) hid
          rw [named_at, attemptOver_at, releasing_at, granted_over] at hgo
          exact (hready w).trans (congrArg _ hgo)
        · intro hk hwarm hgroups hlamps hslot hreb hcirc hchk howed hread htab
          have hr : s.Ready p := ⟨hwarm, hgroups, hlamps, ⟨howed, hread, fun f => windowCovers_none hslot p f,
            fun f => (htab f).1, fun f => (htab f).2.2, fun f => (htab f).2.1⟩, hchk,
            ⟨hreb, fun k => wantsRebuild_not (.inl (hcirc k).1), fun k => (hcirc k).2⟩⟩
          obtain ⟨t, ht, hst, hent⟩ := attempt_recovers hfl hat hn hh hk hr
          exact ⟨t, (hready w).trans (congrArg _ ht), hst, hent⟩

end Sys2Proof.Machine
end

section
/-!
The coupling sense (R38, R57 to R59, R141, R174, R175): a change of the level, and the rise of the debounced state.
-/
namespace Sys2Proof.Machine

variable {s t u : State}

/-- R57: a change of the level at CPL restarts the hold timer, or stops it. -/
theorem cplChange_cases (present : Bool) (s : State) :
    (s.consist.cplLevel = present → exec (.cplChange present) s = .next s)
      ∧ (s.consist.cplLevel ≠ present → exec (.cplChange present) s = .next { s with consist := { s.consist with
          cplLevel := present, cplTimer := if present = s.consist.cplPresent then none else some s.now } }) :=
  ⟨fun h => congrArg Host.Outcome.next (if_pos h), fun h => congrArg Host.Outcome.next (if_neg h)⟩

/-! ## The rise -/

/-- R57: the debounced state is PRESENT and the chain probe runs. -/
def coupled (s : State) : State :=
  { s with consist := { s.consist with cplPresent := true, cplTimer := none, probeAt := some (s.now + ms 1000) } }

theorem couplingRise_exec {m : Time} (hm : s.consist.cplTimer = some m) (hl : s.consist.cplLevel = true)
    (hc : s.consist.cplPresent = false) : exec .couplingRise s =
      .next (settle (emitAll [.enumTrigger, .slotTest] (coupled (advanceTo (m + ms 250) s)))) := by
  have hmoment : coupleMoment s true = some (m + ms 250) := by
    unfold coupleMoment
    rw [hl, hc, hm]; rfl
  show Host.Outcome.next (atMoment (coupleMoment s true) _ s) = _
  rw [hmoment]; rfl

/-- R146: with nothing queued, at no standstill or with a check in the slot the slot takes nothing. -/
theorem slotTest_held (h : s.check.queue = [] ∨ s.decoder.motion = .moving ∨ s.check.slot ≠ none) : slotTest s = s := by
  rcases h with h | h | h
  · exact slotTest_noQueue h
  · unfold slotTest
    rw [show isStationary s = false from by unfold isStationary; rw [h]; rfl]
    simp
  · unfold slotTest
    rw [show s.check.slot.isNone = false from by cases hs : s.check.slot <;> simp_all]
    simp

/-- An enumeration trigger that leaves t, followed by a look at the Exercise Queue that takes nothing. -/
theorem trigger_slotTest (hn : s.notices = []) (ht : enumTrigger s = t) (htn : t.notices = [])
    (h : t.check.queue = [] ∨ t.decoder.motion = .moving ∨ t.check.slot ≠ none) :
    settle (emitAll [.enumTrigger, .slotTest] s) = t :=
  (Acts.cons (k := 1) (l := 1) (Acts.silent (x := .enumTrigger) hn ht htn)
    (Acts.silent (x := .slotTest) htn (slotTest_held h) htn)).settle hn (by decide)

theorem passMayStart_busy (h : s.consist.pass.active = true ∨ (∃ p, stateOf s p = .lost) ∨ ∀ p, stateOf s p ≠ .vacant) :
    passMayStart s = false := by
  unfold passMayStart
  rcases h with h | ⟨p, h⟩ | h
  · rw [h]; simp
  · rw [show anyLost s = true from List.any_eq_true.mpr ⟨p, mem_allPos p, decide_eq_true h⟩]; simp
  · rw [lowestVacant_none h]; simp

theorem enumTrigger_busy (hrel : s.consist.release.active = false) (hsweep : s.consist.sweep = none)
    (h : s.consist.pass.active = true ∨ (∃ p, stateOf s p = .lost) ∨ ∀ p, stateOf s p ≠ .vacant) : enumTrigger s = s := by
  unfold enumTrigger
  rw [hrel, hsweep, passMayStart_busy h]
  rfl

theorem grantLine_keeps (s : State) :
    (grantLine s).check = s.check ∧ (grantLine s).decoder = s.decoder := by
  unfold grantLine
  split
  · exact ⟨rfl, rfl⟩
  · split
    · rename_i o _
      show (notePhase o _).check = _ ∧ (notePhase o _).decoder = _
      unfold notePhase
      split <;> exact ⟨rfl, rfl⟩
    · exact ⟨rfl, rfl⟩

theorem makeOffer_keeps (o : Offer) (s : State) :
    (makeOffer o s).check = s.check ∧ (makeOffer o s).decoder = s.decoder := by
  unfold makeOffer
  split
  · exact grantLine_keeps _
  · exact ⟨rfl, rfl⟩

/-- R38: a trigger in a state that has just been coupled. -/
theorem enumTrigger_coupled {n : Pos} (hn : s.notices = []) (hi : s.IdleLine) (hcpl : s.consist.cplPresent = true)
    (h : s.check.queue = [] ∨ s.decoder.motion = .moving ∨ s.check.slot ≠ none)
    (hrel : s.consist.release.active = false) (hsweep : s.consist.sweep = none)
    (hbusy : ¬ (s.consist.pass.active = true ∨ (∃ p, stateOf s p = .lost) ∨ ∀ p, stateOf s p ≠ .vacant))
    (hlow : lowestVacant s = some n) : settle (emitAll [.enumTrigger, .slotTest] s) =
      makeOffer (assignOffer n) (modPass (fun _ => { active := true, n := some n }) s) := by
  have hpass : s.consist.pass.active = false := Bool.eq_false_iff.mpr fun h => hbusy (Or.inl h)
  obtain ⟨hcheck, hdecoder⟩ := makeOffer_keeps (assignOffer n) (modPass (fun _ => { active := true, n := some n }) s)
  refine trigger_slotTest hn
    (enumTrigger_starts hrel hsweep hpass hcpl (fun p hp => hbusy (Or.inr (Or.inl ⟨p, hp⟩))) hlow)
    ((makeOffer_notices (s := modPass (fun _ => { active := true, n := some n }) s) (assignOffer_valid n) rfl hi).trans hn) ?_
  rw [hcheck, hdecoder]
  exact h

/-- R38, R57: what the rise of the debounced state leaves. -/
theorem couplingRise_cases {m : Time} (hq : s.Quiet) (hm : s.consist.cplTimer = some m) (hl : s.consist.cplLevel = true)
    (hc : s.consist.cplPresent = false) (hslot : s.check.queue = [] ∨ s.decoder.motion = .moving ∨ s.check.slot ≠ none) :
    (s.consist.release.active = true → exec .couplingRise s =
        .next (modRelease (fun r => { r with heldTrigger := true }) (coupled (advanceTo (m + ms 250) s))))
      ∧ (s.consist.release.active = false → s.consist.sweep ≠ none → exec .couplingRise s =
        .next { coupled (advanceTo (m + ms 250) s) with
          consist := { (coupled (advanceTo (m + ms 250) s)).consist with sweepTrigger := true } })
      ∧ (s.consist.release.active = false → s.consist.sweep = none →
        (s.consist.pass.active = true ∨ (∃ p, stateOf s p = .lost) ∨ ∀ p, stateOf s p ≠ .vacant) →
        exec .couplingRise s = .next (coupled (advanceTo (m + ms 250) s)))
      ∧ ∀ n, s.consist.release.active = false → s.consist.sweep = none →
        ¬ (s.consist.pass.active = true ∨ (∃ p, stateOf s p = .lost) ∨ ∀ p, stateOf s p ≠ .vacant) →
        lowestVacant s = some n → exec .couplingRise s = .next (makeOffer (assignOffer n)
          (modPass (fun _ => { active := true, n := some n }) (coupled (advanceTo (m + ms 250) s)))) := by
  have hst : ∀ p, stateOf (coupled (advanceTo (m + ms 250) s)) p = stateOf s p := stateOf_advanceTo (m + ms 250) s
  have hlow' : lowestVacant (coupled (advanceTo (m + ms 250) s)) = lowestVacant s := lowestVacant_advanceTo _ s
  rw [couplingRise_exec hm hl hc]
  refine ⟨fun hrel => ?_, fun hrel hsweep => ?_, fun hrel hsweep hbusy => ?_, fun n hrel hsweep hbusy hlow => ?_⟩
  · refine congrArg Host.Outcome.next (trigger_slotTest hq.notices ?_ hq.notices hslot)
    exact if_pos hrel
  · refine congrArg Host.Outcome.next (trigger_slotTest hq.notices ?_ hq.notices hslot)
    refine (if_neg (fun h => Bool.false_ne_true (hrel.symm.trans h))).trans (if_pos ?_)
    exact Option.isSome_iff_ne_none.mpr hsweep
  · refine congrArg Host.Outcome.next (trigger_slotTest hq.notices (enumTrigger_busy hrel hsweep ?_) hq.notices hslot)
    exact hbusy.imp id (Or.imp (fun ⟨p, h⟩ => ⟨p, (hst p).trans h⟩) fun h p hp => h p ((hst p).symm.trans hp))
  · refine congrArg Host.Outcome.next (enumTrigger_coupled hq.notices hq.idle rfl hslot hrel hsweep ?_ (hlow'.trans hlow))
    exact fun h => hbusy (h.imp id (Or.imp (fun ⟨p, h⟩ => ⟨p, (hst p).symm.trans h⟩) fun h p hp => h p ((hst p).trans hp)))

/-- R57: whatever the rise brings about keeps to what a notice may change. -/
theorem couplingRise_untouched {m : Time} (hm : s.consist.cplTimer = some m) (hl : s.consist.cplLevel = true)
    (hc : s.consist.cplPresent = false) :
    ∃ t, exec .couplingRise s = .next t ∧ Untouched t (coupled (advanceTo (m + ms 250) s)) :=
  ⟨_, couplingRise_exec hm hl hc, (settle_untouched _).trans (emitAll_calm _ (by simp) (Calm.refl _)).untouched⟩

end Sys2Proof.Machine
end

section
/-!
The fall of the debounced coupling state (R40, R58, R141, R174): the pass and the load checks that it ends.
-/
namespace Sys2Proof.Machine

variable {s t u : State}

/-! ## The pass -/

/-- R40: the offer of an ASSIGN. -/
def isAssign (o : Offer) : Bool :=
  match o.why with
  | .enumAssign _ => true
  | _ => false

/-- R40: the pass as its end by another block leaves it: an ASSIGN in flight keeps it with a mark. -/
def passEnded (s : State) : State :=
  setOffers (fun os => if s.consist.pass.active = true ∧ s.consist.pass.phase = .offered
      then os.filter fun o => !isAssign o else os)
    (modPass (fun e => if e.active && decide (e.phase = .inFlight) then { e with ending := true }
      else if e.active then {} else e) s)

theorem modPass_at {f : EnumPass → EnumPass} {e : EnumPass} (h : f s.consist.pass = e) : modPass f s = modPass (fun _ => e) s := by
  unfold modPass; rw [h]

theorem endPass_eq (s : State) : endPass s = passEnded s := by
  have hmod : ∀ e, (if s.consist.pass.active && decide (s.consist.pass.phase = .inFlight) then
      { s.consist.pass with ending := true } else if s.consist.pass.active then {} else s.consist.pass) = e →
      passEnded s = setOffers (fun os => if s.consist.pass.active = true ∧ s.consist.pass.phase = .offered
        then os.filter fun o => !isAssign o else os) (modPass (fun _ => e) s) :=
    fun e h => congrArg (setOffers _) (modPass_at h)
  unfold endPass
  cases ha : s.consist.pass.active with
  | false =>
    rw [hmod s.consist.pass (by rw [ha]; rfl), ha]
    rfl
  | true =>
    rw [if_pos rfl]
    cases hp : s.consist.pass.phase with
    | offered => rw [hmod {} (by rw [ha, hp]; rfl), ha, hp]; rfl
    | inFlight => rw [hmod { s.consist.pass with ending := true } (by rw [ha, hp]; rfl), ha, hp]; rfl
    | spacing => rw [hmod {} (by rw [ha, hp]; rfl), ha, hp]; rfl
    | settling => rw [hmod {} (by rw [ha, hp]; rfl), ha, hp]; rfl

/-! ## The circuits -/

/-- R141: a circuit without samples, outcomes and owed mark. -/
def Circuit.emptied (c : Circuit) : Circuit := { c with samples := [], last := none, reported := none, owed := false }

/-- R141: every circuit emptied, the Exercise Queue empty and no rebuild under way. -/
def suspended (s : State) : State :=
  { s with check := { s.check with circuits := s.check.circuits.map Circuit.emptied, queue := [], rebuild := none } }

theorem foldl_modCircuit (f : Circuit → Circuit) (ks : List LineNo) (hnd : ks.Nodup) (s : State) :
    ∃ c, ks.foldl (fun s k => modCircuit k f s) s = { s with check := { s.check with circuits := c } }
      ∧ ∀ k, c.get k = if k ∈ ks then f (circuitRec s k) else circuitRec s k := by
  induction ks generalizing s with
  | nil => exact ⟨s.check.circuits, rfl, fun k => (if_neg (List.not_mem_nil)).symm⟩
  | cons k ks ih =>
    obtain ⟨hk, hnd⟩ := List.nodup_cons.mp hnd
    obtain ⟨c, hc, hg⟩ := ih hnd (modCircuit k f s)
    refine ⟨c, hc, fun j => (hg j).trans ?_⟩
    by_cases hj : j = k
    · subst hj
      rw [if_neg hk, if_pos (List.mem_cons_self ..), circuitRec_modCircuit]
    · have hrec : circuitRec (modCircuit k f s) j = circuitRec s j := Tab.get_upd_ne _ _ hj
      simp only [hrec, List.mem_cons, hj, false_or]

theorem foldl_modCircuit_all (f : Circuit → Circuit) (s : State) :
    allLines.foldl (fun s k => modCircuit k f s) s = { s with check := { s.check with circuits := s.check.circuits.map f } } := by
  obtain ⟨c, hc, hg⟩ := foldl_modCircuit f allLines allLines_nodup s
  rw [hc]
  refine congrArg (fun c : Tab Circuit 8 => { s with check := { s.check with circuits := c } }) (Tab.ext_get fun k => ?_)
  rw [hg, if_pos (mem_allLines k), Tab.get_map]
  rfl

/-- R141: the results that the fall writes. -/
def uncheckedWrites (s : State) : List (Pos × Code × CheckResult) :=
  (allLines.flatMap fun k => (circuitRec s k).contributors).map fun c => (c.pos, c.code, .unchecked)

/-- What ends with the slot: the window over its line, and the look at the queue. -/
def slotNotices : Option Slot → List Notice
  | some sl => (if sl.window then [.windowNotice false []] else []) ++ [.slotTest]
  | none => []

/-- R147: the slot's check of circuit k over. -/
def slotOver (k : LineNo) (s : State) : State :=
  match s.check.slot with
  | some sl => State.slotFreed k sl.window s
  | none => s

theorem endSlot_emitAll {k : LineNo} (ns : List Notice)
    (hslot : ∀ sl, s.check.slot = some sl → sl.entry.target = .circuit k
      ∧ (sl.window = true → (circuitRec s k).contributors = [])) :
    endSlot (emitAll ns s) = emitAll (ns ++ slotNotices s.check.slot) (slotOver k s) := by
  have hsame : (emitAll ns s).check.slot = s.check.slot := rfl
  unfold endSlot slotOver
  rw [hsame]
  cases hs : s.check.slot with
  | none => rw [slotNotices, List.append_nil]
  | some sl =>
    obtain ⟨ht, hw⟩ := hslot sl hs
    dsimp only
    rw [ht]
    dsimp only
    cases hwin : sl.window with
    | false =>
      rw [slotFreed_driven, slotNotices, hwin]
      exact emitAll_emitAll ns [.slotTest] (setSlot none s)
    | true =>
      have hcov : coveredBy (setSlot none (emitAll ns s)) (.circuit k) = [] := by
        show (circuitRec s k).contributors.map _ = []
        rw [hw hwin]; rfl
      have hclose : closeWindow (.circuit k) (setSlot none (emitAll ns s)) =
          emit (.windowNotice false []) (emitAll ns (State.slotFreed k true s)) := by
        unfold closeWindow
        rw [hcov]
        exact congrArg _ (closeLineWindow_eq k (emitAll ns s))
      rw [if_pos rfl, hclose, slotNotices, hwin, emit_eq, emit_eq, emitAll_emitAll, emitAll_emitAll,
        if_pos rfl]

/-- R141: what the suspension of the load checks hands on. -/
def suspendNotices (s : State) : List Notice :=
  (uncheckedWrites s).map (fun w => .writeResult w.1 w.2.1 w.2.2) ++ s.check.queue.map (fun _ => .queueLeft)
    ++ slotNotices s.check.slot ++ [.rebuildStart]

theorem suspendChecks_eq {k : LineNo} (hslot : ∀ sl, s.check.slot = some sl → sl.entry.target = .circuit k
      ∧ (sl.window = true → (circuitRec s k).contributors = [])) :
    suspendChecks s = emitAll (suspendNotices s) (slotOver k (suspended s)) := by
  have hfold := foldl_modCircuit_all Circuit.emptied s
  have hcs : ∀ j, (circuitRec (suspended s) j).contributors = (circuitRec s j).contributors := fun j => by
    show ((s.check.circuits.map Circuit.emptied).get j).contributors = _
    rw [Tab.get_map]; rfl
  have hwrites : (allLines.flatMap fun j => (circuitRec s j).contributors.map fun c =>
      Notice.writeResult c.pos c.code .unchecked) = (uncheckedWrites s).map fun w => .writeResult w.1 w.2.1 w.2.2 := by
    simp only [uncheckedWrites, List.map_map, List.map_flatMap]
    rfl
  have hend := endSlot_emitAll (s := setExQueue [] { s with check := { s.check with circuits := s.check.circuits.map Circuit.emptied } })
    (k := k) ((uncheckedWrites s).map (fun w => .writeResult w.1 w.2.1 w.2.2) ++ s.check.queue.map (fun _ => .queueLeft))
    (fun sl hsl => ⟨(hslot sl hsl).1, fun hw => (hcs k).trans ((hslot sl hsl).2 hw)⟩)
  have hover : setRebuild none (slotOver k
      (setExQueue [] { s with check := { s.check with circuits := s.check.circuits.map Circuit.emptied } })) =
      slotOver k (suspended s) := by
    unfold slotOver
    show setRebuild none (match s.check.slot with | some sl => _ | none => _) = (match s.check.slot with | some sl => _ | none => _)
    cases s.check.slot <;> rfl
  unfold suspendChecks
  dsimp only
  rw [show allLines.foldl (fun s k => modCircuit k (fun c =>
    { c with samples := [], last := none, reported := none, owed := false }) s) s = _ from hfold]
  show emitAll [.rebuildStart] (setRebuild none (endSlot (emitAll (_ ++ _)
    (setExQueue [] { s with check := { s.check with circuits := s.check.circuits.map Circuit.emptied } })))) = _
  rw [hwrites, hend]
  show emitAll [.rebuildStart] (emitAll _ (setRebuild none (slotOver k
      (setExQueue [] { s with check := { s.check with circuits := s.check.circuits.map Circuit.emptied } })))) = _
  rw [hover, emitAll_emitAll]
  rfl

/-! ## What acting on them leaves -/

/-- R92: results are written in the same way whatever the lines and the load checks hold. -/
theorem writing_onFrame_check (ws : List (Pos × Code × CheckResult)) (l : Tab Line 8) (ck : LoadCheck) (s : State) :
    writing ws (setLines l { s with check := ck }) = setLines l { writing ws s with check := ck } := by
  induction ws generalizing s with
  | nil => rfl
  | cons w ws ih =>
    obtain ⟨p, f, r⟩ := w
    have hone : State.resulting p f r (setLines l { s with check := ck }) =
        setLines l { State.resulting p f r s with check := ck } :=
      (resulting_onFrame l s.policy p f r { s with check := ck }).trans
        ((congrArg (onFrame l s.policy) (resulting_check r ck s)).trans
          (congrArg (fun po => onFrame l po { State.resulting p f r s with check := ck }) (resulting_marked p f r s).policy.symm))
    show writing ws (State.resulting p f r (setLines l { s with check := ck })) = _
    rw [hone, ih]
    rfl

theorem slotOver_marked {k : LineNo} {ws : List (Pos × Code × CheckResult)} :
    writing ws (slotOver k s) = slotOver k (writing ws s) := by
  have hcheck : (writing ws s).check = s.check := (writing_marked ws s).check
  unfold slotOver
  rw [hcheck]
  cases hs : s.check.slot with
  | none => rfl
  | some sl =>
    have hw := writing_onFrame_check ws (State.slotFreed k sl.window s).direct.lines { s.check with slot := none } s
    obtain ⟨st, pt, hm⟩ := writing_marked ws s
    refine Eq.trans hw ?_
    dsimp only
    rw [hm]
    rfl

theorem handItems_calmState {p : Pos} (h : stateOf s p ≠ .exercising) : handItems p s = s := by
  unfold handItems
  split
  · rw [if_neg]
    unfold exercising
    rw [decide_eq_false h]
    decide
  · rfl

theorem startRebuild_none (h : s.check.rebuild = none) (hp : ∀ k, (circuitRec s k).rebuildPending = false) :
    startRebuild s = s := by
  have hf : (allLines.find? fun k => (circuitRec s k).rebuildPending) = none := by
    rw [List.find?_eq_none]; intro k _; rw [hp k]; decide
  unfold startRebuild
  rw [h, hf]
  rfl

/-- R147: the end of the slot's check, when the coupling state is ABSENT. -/
theorem acts_slotNotices {o : Option Slot} (hn : s.notices = []) (hc : s.consist.cplPresent = false)
    (hrest : ∀ sl, o = some sl → sl.window = true → s.Resting) : Acts 14 (slotNotices o) s s := by
  have htest : Acts 1 [.slotTest] s s := Acts.silent hn (by
    show slotTest s = s
    unfold slotTest
    rw [hc, Bool.and_false]
    rfl) hn
  cases o with
  | none => exact (Acts.nil s).mono (by decide)
  | some sl =>
    cases hw : sl.window with
    | false => rw [slotNotices, hw]; exact htest.mono (by decide)
    | true =>
      rw [slotNotices, hw]
      exact Acts.cons (k := 13) (l := 1)
        (Acts.run (k := 12) hn (takeWindow_nil false s) hn (acts_restNotices hn (hrest sl rfl hw))) htest

theorem slotOver_notices (k : LineNo) (s : State) : (slotOver k s).notices = s.notices := by
  unfold slotOver; split <;> rfl

/-- What the end of a check in the slot shows in: the slot and the line of its circuit. -/
theorem slotOver_eq (k : LineNo) (s : State) :
    ∃ l x, slotOver k s = setLines l { s with check := { s.check with slot := x } } := by
  unfold slotOver
  split
  · exact ⟨_, none, rfl⟩
  · exact ⟨s.direct.lines, s.check.slot, rfl⟩

theorem circuitRec_suspended (s : State) (k : LineNo) : circuitRec (suspended s) k = (circuitRec s k).emptied :=
  Tab.get_map _ _ _

/-- R141: what a fall leaves of the load checks, no circuit waiting for a rebuild and no position EXERCISING. -/
def checksOver (k : LineNo) (s : State) : State := slotOver k (writing (uncheckedWrites s) (suspended s))

theorem checksOver_eq (k : LineNo) (s : State) :
    ∃ l x st pt, checksOver k s = setLines l { s with
      check := { (suspended s).check with slot := x }, delivery := { s.delivery with status := st }, port := pt } := by
  obtain ⟨st, pt, hm⟩ := writing_marked (uncheckedWrites s) (suspended s)
  obtain ⟨l, x, hl⟩ := slotOver_eq k (writing (uncheckedWrites s) (suspended s))
  refine ⟨l, x, st, pt, hl.trans ?_⟩
  rw [hm]
  rfl

/-- R141: the load checks suspended. -/
theorem acts_suspend {k : LineNo} (hn : s.notices = []) (hc : s.consist.cplPresent = false)
    (hcalm : ∀ p, stateOf s p ≠ .exercising)
    (hcs : ∀ x, (circuitRec s x).rebuildPending = false ∧ (circuitRec s x).contributors.length ≤ 16
      ∧ ∀ c ∈ (circuitRec s x).contributors, stateOf s c.pos ≠ .vacant)
    (hq : s.check.queue.length ≤ 16)
    (hrest : ∀ sl, s.check.slot = some sl → sl.window = true → (checksOver k s).Resting) :
    Acts 500 (suspendNotices s) (slotOver k (suspended s)) (checksOver k s) := by
  have hlen : (uncheckedWrites s).length ≤ 128 := by
    have h : ∀ ks : List LineNo, (ks.flatMap fun x => (circuitRec s x).contributors).length ≤ 16 * ks.length := by
      intro ks
      induction ks with
      | nil => exact Nat.le_refl 0
      | cons x xs ih =>
        have := (hcs x).2.1
        rw [List.flatMap_cons, List.length_append, List.length_cons]
        omega
    unfold uncheckedWrites
    rw [List.length_map]
    exact h allLines
  have hdone : writing (uncheckedWrites s) (slotOver k (suspended s)) = checksOver k s := slotOver_marked
  have hstart : (slotOver k (suspended s)).notices = [] := (slotOver_notices _ _).trans hn
  have hstates : ∀ p, stateOf (slotOver k (suspended s)) p = stateOf s p := fun p => by
    obtain ⟨l, x, h⟩ := slotOver_eq k (suspended s)
    rw [h]; rfl
  obtain ⟨l, x, st, pt, hend⟩ := checksOver_eq k s
  have hnend : (checksOver k s).notices = [] := by rw [hend]; exact hn
  have hwrites : Acts 384 ((uncheckedWrites s).map fun w => .writeResult w.1 w.2.1 w.2.2) (slotOver k (suspended s))
      (checksOver k s) := by
    rw [← hdone]
    refine (acts_writing hstart ?_).mono (by omega)
    intro w hw
    obtain ⟨c, hmem, rfl⟩ := List.mem_map.mp hw
    obtain ⟨j, -, hc⟩ := List.mem_flatMap.mp hmem
    rw [hstates]
    exact ⟨(hcs j).2.2 c hc, hcalm _⟩
  have hleft : Acts 80 (s.check.queue.map fun _ => .queueLeft) (checksOver k s) (checksOver k s) := by
    have hone : Acts 5 [.queueLeft] (checksOver k s) (checksOver k s) :=
      acts_queueLeft_idle hnend (fun j => by rw [hend]; exact congrArg Circuit.owed (circuitRec_suspended s j))
        (fun p => handItems_calmState (by rw [hend]; exact hcalm p))
    have := (Acts.foldl (k := 5) (s := checksOver k s) (fun t => t = checksOver k s) (fun (_ : QueueEntry) => [Notice.queueLeft])
      (fun t _ => t) s.check.queue (fun p _ t ht => ⟨by subst ht; exact hone, ht⟩) rfl).1
    rw [← List.map_eq_flatMap, show ∀ es : List QueueEntry, es.foldl (fun t _ => t) (checksOver k s) = checksOver k s from
      fun es => by induction es with
        | nil => rfl
        | cons e es ih => exact ih] at this
    exact this.mono (by omega)
  have hrebuild : Acts 1 [.rebuildStart] (checksOver k s) (checksOver k s) :=
    Acts.silent hnend (startRebuild_none (by rw [hend]; rfl) (fun j => by
      rw [hend]; exact (congrArg Circuit.rebuildPending (circuitRec_suspended s j)).trans (hcs j).1)) hnend
  have hslot : Acts 14 (slotNotices s.check.slot) (checksOver k s) (checksOver k s) :=
    acts_slotNotices hnend (by rw [hend]; exact hc) hrest
  exact (((hwrites.append hleft).append hslot).append hrebuild).mono (by decide)

end Sys2Proof.Machine
end

section
/-!
The fall of the debounced coupling state, and the release it asks for.
-/
namespace Sys2Proof.Machine

variable {s t u : State}

/-! ## The release of the whole run -/

/-- R174: a release at work is extended to position 1. -/
theorem acts_releaseExtended (hn : s.notices = []) (hact : s.consist.release.active = true)
    (hlow : s.consist.release.lowest ≠ none) (hident : ∀ x, (streamRec s x).identNext = none) :
    Acts 1 [.releaseRequest 0] s (modRelease (fun r => { r with lowest := some 0 }) s) := by
  refine Acts.silent hn ?_ hn
  obtain ⟨l, hl⟩ := Option.ne_none_iff_exists'.mp hlow
  show releaseRequest 0 s = _
  unfold releaseRequest
  rw [hact, hl]
  dsimp only
  by_cases h0 : (0 : Pos) < l
  · rw [if_pos h0]
    exact abandonRecovery_none hident
  · have hzero : l = 0 := Fin.le_zero_iff.mp (not_lt.mp h0)
    have hkept : { s.consist.release with lowest := some 0 } = s.consist.release := by rw [← hzero, ← hl]
    rw [if_neg h0]
    show s = { s with consist := { s.consist with release := { s.consist.release with lowest := some 0 } } }
    rw [hkept]

/-- R174: with every position VACANT there is nothing to release. -/
theorem acts_releaseNothing (hn : s.notices = []) (hrel : s.consist.release = {}) (hv : ∀ p, stateOf s p = .vacant)
    (hc : s.consist.cplPresent = false) : Acts 1 [.releaseRequest 0] s s := by
  refine Acts.silent hn ?_ hn
  have hrange : rangeOccupied s 0 = false := by
    unfold rangeOccupied
    rw [List.any_eq_false]
    intro p _
    rw [show isVacant s p = true from decide_eq_true (hv p)]
    simp
  have hdone : modRelease (fun _ => {}) s = s := by
    show { s with consist := { s.consist with release := {} } } = s
    rw [← hrel]
  show releaseRequest 0 s = s
  unfold releaseRequest
  rw [hrel, hrange]
  dsimp only
  rw [if_neg Bool.false_ne_true]
  unfold completeRelease
  dsimp only
  rw [hdone, hc, hrel]
  rfl

theorem acts_releaseAll {q : Pos} (hn : s.notices = []) (hi : s.IdleLine) (hact : s.consist.release.active = false)
    (hident : ∀ x, (streamRec s x).identNext = none) (hq : stateOf s q ≠ .vacant) (hw : stateOf s q ≠ .wired)
    (hhigh : ∀ x, q < x → stateOf s x = .vacant) : Acts 2 [.releaseRequest 0] s (releaseBegun 0 q s) :=
  Acts.run (x := .releaseRequest 0) hn (releaseRequest_begins hact hident (Fin.zero_le q) hq hhigh) hn
    (acts_releaseWalk hn hi (Fin.zero_le q) hq hw)

/-! ## The fall -/

/-- R57: the debounced state is ABSENT and the chain probe stopped. -/
def uncoupled (s : State) : State :=
  { s with consist := { s.consist with cplPresent := false, cplTimer := none, probeAt := none } }

theorem couplingFall_exec {m : Time} (hm : s.consist.cplTimer = some m) (hl : s.consist.cplLevel = false)
    (hc : s.consist.cplPresent = true) : exec .couplingFall s =
      .next (settle (emit (.releaseRequest 0) (suspendChecks (passEnded (uncoupled (advanceTo (m + ms 250) s)))))) := by
  have hmoment : coupleMoment s false = some (m + ms 250) := by
    unfold coupleMoment
    rw [hl, hc, hm]; rfl
  show Host.Outcome.next (atMoment (coupleMoment s false) _ s) = _
  rw [hmoment, ← endPass_eq]
  rfl

/-- R57: whatever the fall brings about keeps to what a notice may change. -/
theorem couplingFall_untouched {m : Time} (hm : s.consist.cplTimer = some m) (hl : s.consist.cplLevel = false)
    (hc : s.consist.cplPresent = true) :
    ∃ t, exec .couplingFall s = .next t ∧ Untouched t (uncoupled (advanceTo (m + ms 250) s)) := by
  refine ⟨_, couplingFall_exec hm hl hc, (settle_untouched _).trans ?_⟩
  rw [← endPass_eq]
  exact (emit_calm _ (by simp) (suspendChecks_calm (endPass_calm (Calm.refl _)))).untouched

/-- R141: the conditions under which a fall ends circuit k's check, if it ends any, and rebuilds nothing. -/
structure State.Suspends (k : LineNo) (s : State) : Prop where
  notices : s.notices = []
  absent : s.consist.cplPresent = false
  calm : ∀ p, stateOf s p ≠ .exercising
  circuits : ∀ x, (circuitRec s x).rebuildPending = false ∧ (circuitRec s x).contributors.length ≤ 16
    ∧ ∀ c ∈ (circuitRec s x).contributors, stateOf s c.pos ≠ .vacant
  slot : ∀ sl, s.check.slot = some sl → sl.entry.target = .circuit k
  queue : s.check.queue.length ≤ 16
  window : ∀ sl, s.check.slot = some sl → sl.window = true →
    (circuitRec s k).contributors = [] ∧ (checksOver k s).Resting

theorem suspends_settles {k : LineNo} (h : s.Suspends k) (hr : Acts 2 [.releaseRequest 0] (checksOver k s) t) :
    settle (emit (.releaseRequest 0) (suspendChecks s)) = t := by
  rw [suspendChecks_eq fun sl hsl => ⟨h.slot sl hsl, fun hw => (h.window sl hsl hw).1⟩, emit_eq, emitAll_emitAll]
  exact ((acts_suspend h.notices h.absent h.calm h.circuits h.queue fun sl hsl hw => (h.window sl hsl hw).2).append hr).settle
    ((slotOver_notices k (suspended s)).trans h.notices) (by decide)

theorem checksOver_keeps (k : LineNo) (s : State) :
    (checksOver k s).notices = s.notices ∧ (checksOver k s).consist = s.consist ∧ (checksOver k s).line = s.line := by
  obtain ⟨l, x, st, pt, h⟩ := checksOver_eq k s
  rw [h]
  exact ⟨rfl, rfl, rfl⟩

/-- R40, R141, R174: what the fall leaves, by what there is to release. -/
theorem suspends_cases {k : LineNo} (h : s.Suspends k) (hi : s.IdleLine) (hident : ∀ p, (streamRec s p).identNext = none) :
    (s.consist.release.active = true → s.consist.release.lowest ≠ none →
        settle (emit (.releaseRequest 0) (suspendChecks s)) = modRelease (fun r => { r with lowest := some 0 }) (checksOver k s))
      ∧ (s.consist.release = {} → (∀ p, stateOf s p = .vacant) →
        settle (emit (.releaseRequest 0) (suspendChecks s)) = checksOver k s)
      ∧ ∀ q, s.consist.release.active = false → stateOf s q ≠ .vacant → stateOf s q ≠ .wired →
        (∀ p, q < p → stateOf s p = .vacant) →
        settle (emit (.releaseRequest 0) (suspendChecks s)) = releaseBegun 0 q (checksOver k s) := by
  obtain ⟨hnotices, hconsist, hline⟩ := checksOver_keeps k s
  have hn : (checksOver k s).notices = [] := hnotices.trans h.notices
  have hstate : ∀ p, stateOf (checksOver k s) p = stateOf s p := fun p => by unfold stateOf posRec; rw [hconsist]
  have hstream : ∀ p, (streamRec (checksOver k s) p).identNext = none := fun p => by
    unfold streamRec; rw [hconsist]; exact hident p
  refine ⟨fun hact hlow => suspends_settles h ((acts_releaseExtended hn (by rw [hconsist]; exact hact)
      (by rw [hconsist]; exact hlow) hstream).mono (by decide)),
    fun hrel hv => suspends_settles h ((acts_releaseNothing hn (by rw [hconsist]; exact hrel)
      (fun p => (hstate p).trans (hv p)) (by rw [hconsist]; exact h.absent)).mono (by decide)),
    fun q hact hq hw hhigh => suspends_settles h (acts_releaseAll hn ?_ (by rw [hconsist]; exact hact) hstream
      (by rw [hstate]; exact hq) (by rw [hstate]; exact hw) (fun x hx => (hstate x).trans (hhigh x hx)))⟩
  unfold State.IdleLine
  rw [hline]
  exact hi

theorem passEnded_idle (hi : s.IdleLine) : (passEnded s).IdleLine := by
  intro hf
  show (if s.consist.pass.active = true ∧ s.consist.pass.phase = .offered
    then s.line.offers.filter fun o => !isAssign o else s.line.offers) = []
  rw [hi hf]
  split <;> rfl

/-- Settles O23: the level is debounced; a rise is an enumeration trigger, and a fall ends the pass and the load checks and
has everything released. -/
theorem couplingIsDebounced : Obligations.CouplingIsDebounced := by
  unfold Obligations.CouplingIsDebounced
  refine ⟨cplChange_cases, fun s m hq hm => ⟨fun hl hc => ⟨couplingRise_untouched hm hl hc,
    couplingRise_cases hq hm hl hc⟩, fun hl hc => ⟨couplingFall_untouched hm hl hc, ?_⟩⟩⟩
  intro k hcalm hcs hslot hqueue hident offered assigns ended cleared unchecked u hwindow
  let y : State := passEnded (uncoupled (advanceTo (m + ms 250) s))
  have hst : ∀ p, stateOf y p = stateOf s p := stateOf_advanceTo (m + ms 250) s
  have hunchecked : writing (uncheckedWrites y) (suspended y) = unchecked := List.foldl_map ..
  have hu : checksOver k y = u := by
    have hc : (writing (uncheckedWrites y) (suspended y)).check.slot = s.check.slot :=
      (congrArg LoadCheck.slot (writing_marked (uncheckedWrites y) (suspended y)).check).trans rfl
    unfold checksOver slotOver
    rw [hc, hunchecked] <;> rfl
  have hsus : y.Suspends k := ⟨hq.notices, rfl, fun p => by rw [hst]; exact hcalm p,
    fun x => ⟨(hcs x).1, (hcs x).2.1, fun c hc => by rw [hst]; exact (hcs x).2.2 c hc⟩, hslot, hqueue,
    fun sl hsl hw => by rw [hu]; exact hwindow sl hsl hw⟩
  have hcases := suspends_cases hsus (passEnded_idle hq.idle) hident
  rw [hu] at hcases
  obtain ⟨hext, hnone, hbegin⟩ := hcases
  rw [couplingFall_exec hm hl hc]
  exact ⟨fun hact hlow => congrArg Host.Outcome.next (hext hact hlow),
    fun hrel hv => congrArg Host.Outcome.next (hnone hrel fun p => (hst p).trans (hv p)),
    fun q hact hqv hw hhigh => congrArg Host.Outcome.next (hbegin q hact (by rw [hst]; exact hqv) (by rw [hst]; exact hw)
      fun x hx => (hst x).trans (hhigh x hx))⟩

end Sys2Proof.Machine
end

section
/-!
The end of a RELEASE that leaves no room for the reply it owes. The results that the removal of the position's contributors
takes back (R134, R149) place their RESULT frames before the reply of RELEASE-POSITION, and where the last place of the transmit
queue goes to one of them the reply waits (R192), while the statement has it placed.
-/
namespace Sys2Proof.Machine

/-- Fifteen frames that wait. -/
def waitingFrames : List TxFrame := List.replicate 15 { key := none, id := 0, data := [] }

/-- The request RELEASE-POSITION of position 2. -/
def releaseSecond : Request := { code := 23, tag := 0, args := [2] }

/-- A circuit fed by positions 1 and 2. -/
def fedCircuit : Circuit :=
  { contributors := [{ pos := 0, code := 64, nominal := 0, loadKind := .resistive },
      { pos := 1, code := 64, nominal := 0, loadKind := .resistive }] }

/-- Position 2 alone is being released, as RELEASE-POSITION asks; positions 1 and 2 feed circuit 1, of which position 1 has the
result OK; and of the places of the transmit queue one is free. -/
def crowdedState : State := { State.reset with
  line := { flight := some { offer := releaseOffer 1, deadline := 2000 } }
  consist :=
    { table := ((Tab.fill {}).put 0 { state := .rejected }).put 1 { state := .rejected }
      release := { active := true, lowest := some 1, current := some 1, phase := some .inFlight, replyOwed := true } }
  delivery := { State.reset.delivery with
    status := State.reset.delivery.status.put 0 ((Tab.fill {}).put 64 { result := .ok }) }
  check := { State.reset.check with circuits := State.reset.check.circuits.put 0 fedCircuit }
  management := { requests := [releaseSecond], head := .handed }
  port := { State.reset.port with queue := waitingFrames } }

theorem crowdedState_inFlight : crowdedState.InFlight (releaseOffer 1) 2000 := ⟨rfl, rfl, rfl, by decide⟩

theorem crowdedState_capacity : crowdedState.WithinCapacity where
  faults := by decide
  frames := by decide
  requests := by decide
  exercise := by decide
  contributors := by decide
  samples := by decide
  opportunistic := by decide
  unheard := by decide

/-- Refutes O34: the RESULT frame of position 1 takes the last place of the queue, which the statement gives to the reply too. -/
theorem not_positionsAreReleased : ¬ Obligations.PositionsAreReleased := by
  intro h
  obtain ⟨t, ht, hsynced⟩ := (((h.1 crowdedState 1 1 2000 crowdedState_inFlight rfl rfl (le_refl _) rfl rfl rfl (by decide)
    (by decide) nofun nofun (by decide) (by decide) (by decide) rfl (fun src => by cases src <;> rfl) nofun).2.1 (by decide) rfl rfl).2
    releaseSecond [] rfl ⟨rfl, by decide, nofun⟩ rfl).1 true true none
  have hroom : t.port.queue.length ≤ 16 := ((exec_keeps ht).capacity crowdedState_capacity).frames
  have hlong : t.port.queue.length = 17 := (congrArg (fun x : State => x.port.queue.length) hsynced).trans rfl
  omega

end Sys2Proof.Machine
end

section
/-!
What an operation keeps of the binding blocks (R80), of the lists and plans (R49, R55, R90, R109, R132, R155, R163), and, unless
it moves the run of positions itself, of which positions are VACANT and where a release is (R56, R175). As with `Calm`, the
relation is reflexive and transitive, and each operation of the block files has one lemma.
-/
namespace Sys2Proof.Machine

variable {s t z : State} {still : Reach}

/-! ## Notices that leave the run alone -/

/-- How far an operation goes: it may hand on any notice; or only such as need nothing of the run when their turn comes; or only
such as leave the run alone, with all that follows from them. -/
inductive Reach where
  | any | loose | tame

/-- The purposes whose ends neither occupy a position nor release one. -/
@[simp] def Purpose.tame : Purpose → Bool
  | .enumAssign _ | .recoveryAssign _ | .recoveryGet _ | .positionRelease _ | .identWord _ _ | .streamWord _ _ => false
  | _ => true

/-- The purposes whose ends need nothing of the run: all but the ASSIGN of a pass. -/
@[simp] def Purpose.loose : Purpose → Bool
  | .enumAssign _ => false
  | _ => true

/-- The notices that, with all that follows from them, neither occupy a position, vacate one nor move a release. An entry to
EXERCISING is none: it asks that the position be occupied. -/
@[simp] def Notice.tame : Notice → Bool
  | .lineEnd o _ _ => o.why.tame
  | .enterExercising _ | .chainEnd _ _ | .handOver _ | .identVerdict _ _ _ | .releaseRequest _ | .releaseWalk
  | .resetPosition _ => false
  | _ => true

/-- The notices that need nothing of the run when their turn comes. -/
@[simp] def Notice.loose : Notice → Bool
  | .lineEnd o _ _ => o.why.loose
  | .enterExercising _ | .chainEnd _ _ | .handOver _ | .resetPosition _ => false
  | _ => true

/-- A stop owed by a timeout is that of an ACTUATOR (R157). -/
@[simp] def Notice.stopSound : Notice → Bool
  | .timeoutStop _ f => decide (kindOf f = .actuator)
  | _ => true

/-- What the reach of an operation allows beside what is tame. -/
def Reach.allows : Reach → Bool → Bool
  | .any, _ => true
  | .loose, bound => bound
  | .tame, _ => false

/-- The notices an operation may hand on. -/
@[simp] def Notice.fits (r : Reach) (x : Notice) : Bool := (x.tame || r.allows x.loose) && x.stopSound

/-- An offer that no end follows at once, or one whose end the reach allows. -/
def Offer.fits (r : Reach) (o : Offer) : Bool := offerValid o || (o.why.tame || r.allows o.why.loose)

/-- What a waiting notice must meet: where the reach is tame, it is tame, or the entry to EXERCISING of an occupied position. -/
def Reach.admits (r : Reach) (s : State) (x : Notice) : Prop :=
  match r with
  | .any => True
  | .loose => x.loose = true
  | .tame => x.tame = true ∨ ∃ p, x = .enterExercising p ∧ stateOf s p ≠ .vacant

theorem Purpose.loose_of_tame {w : Purpose} (h : w.tame = true) : w.loose = true := by
  cases w <;> first | rfl | cases h

theorem Notice.loose_of_tame {x : Notice} (h : x.tame = true) : x.loose = true := by
  cases x <;> first | rfl | exact Purpose.loose_of_tame h | cases h

theorem Reach.admits_of_fits {r : Reach} {x : Notice} (h : x.fits r = true) : r.admits s x := by
  simp only [Notice.fits, Bool.and_eq_true, Bool.or_eq_true] at h
  obtain ⟨h, -⟩ := h
  cases r with
  | any => trivial
  | loose => exact h.elim Notice.loose_of_tame id
  | tame => exact Or.inl (h.resolve_right Bool.false_ne_true)

theorem Reach.admits_of_tame {r : Reach} {x : Notice} (h : x.tame = true) : r.admits s x := by
  cases r with
  | any => trivial
  | loose => exact Notice.loose_of_tame h
  | tame => exact Or.inl h

theorem Notice.stopSound_of_fits {r : Reach} {x : Notice} (h : x.fits r = true) : x.stopSound = true := by
  simp only [Notice.fits, Bool.and_eq_true] at h
  exact h.2

/-! ## What is kept -/

/-- The lists and plans within their bounds, the watches at ACTUATOR functions, and so the stops their timeouts ask for. -/
structure State.Listed (s : State) : Prop where
  watches : s.WatchesSound
  lists : s.ListsBounded
  stops : ∀ x ∈ s.notices, x.stopSound = true

/-- The same positions are VACANT, and a release is where it was. -/
structure SameRun (a b : State) : Prop where
  vacant : ∀ p, stateOf a p = .vacant ↔ stateOf b p = .vacant
  active : a.consist.release.active = b.consist.release.active
  current : a.consist.release.current = b.consist.release.current

/-- What an operation keeps of the state `b` it is applied to; where its reach is bounded, of the run of positions too. -/
structure Moves (still : Reach) (a b : State) : Prop where
  owned : b.BlocksOwned → a.BlocksOwned
  listed : b.Listed → a.Listed
  run : still ≠ .any → SameRun a b
  kept : (∀ x ∈ b.notices, still.admits b x) → ∀ x ∈ a.notices, still.admits a x

theorem SameRun.refl (s : State) : SameRun s s := ⟨fun _ => Iff.rfl, rfl, rfl⟩

theorem SameRun.trans {a b c : State} (h : SameRun a b) (h' : SameRun b c) : SameRun a c :=
  ⟨fun p => (h.vacant p).trans (h'.vacant p), h.active.trans h'.active, h.current.trans h'.current⟩

theorem Reach.admits_congr {a b : State} {r : Reach} (h : r ≠ .any → SameRun a b) {x : Notice} (hx : r.admits b x) :
    r.admits a x := by
  cases r with
  | any => trivial
  | loose => exact hx
  | tame =>
    refine hx.imp_right ?_
    rintro ⟨p, rfl, hp⟩
    exact ⟨p, rfl, fun hv => hp (((h nofun).vacant p).mp hv)⟩

theorem Moves.refl (s : State) : Moves still s s := ⟨id, id, fun _ => SameRun.refl s, id⟩

theorem Moves.trans {a b c : State} (h : Moves still a b) (h' : Moves still b c) : Moves still a c where
  owned := h.owned ∘ h'.owned
  listed := h.listed ∘ h'.listed
  run := fun hk => (h.run hk).trans (h'.run hk)
  kept := h.kept ∘ h'.kept

theorem Moves.weaken {a b : State} (h : Moves still a b) : Moves .any a b :=
  ⟨h.owned, h.listed, fun hk => absurd rfl hk, fun _ _ _ => trivial⟩

/-- An operation that leaves the notices alone. -/
theorem Moves.of_quiet {a b : State} (hn : a.notices = b.notices) (ho : b.BlocksOwned → a.BlocksOwned)
    (hl : b.Listed → a.WatchesSound ∧ a.ListsBounded) (hr : still ≠ .any → SameRun a b) : Moves still a b where
  owned := ho
  listed := fun w => ⟨(hl w).1, (hl w).2, by rw [hn]; exact w.stops⟩
  run := hr
  kept := fun w x hx => Reach.admits_congr hr (w x (hn ▸ hx))

/-- A loop whose body keeps these keeps them. -/
theorem foldl_moves {α : Type} {f : State → α → State} (hf : ∀ s x, Moves still (f s x) s) (xs : List α) {s c : State}
    (h : Moves still s c) : Moves still (xs.foldl f s) c := by
  induction xs generalizing s with
  | nil => exact h
  | cons x xs ih => exact ih ((hf s x).trans h)

/-! ## The records they are about -/

/-- Everything these are about. -/
structure Holdings where
  binding : Tab Block 16 × Tab (Tab GroupRecord 12) 4
  consist : Tab ConsistRecord 4 × Tab StreamRecord 4 × Bool × Option Pos
  delivery : Tab (Tab StatusEntry 192) 4 × Tab (List OwedStop) 4
  circuits : Tab Circuit 8
  rounds : Tab Round 4
  notices : List Notice

def holdings (s : State) : Holdings where
  binding := (s.binding.blocks, s.binding.groups)
  consist := (s.consist.table, s.consist.streams, s.consist.release.active, s.consist.release.current)
  delivery := (s.delivery.status, s.delivery.owed)
  circuits := s.check.circuits
  rounds := s.service.rounds
  notices := s.notices

theorem BlocksOwned.of_tables {a b : State} (hb : a.binding.blocks = b.binding.blocks) (hg : a.binding.groups = b.binding.groups)
    (h : b.BlocksOwned) : a.BlocksOwned := by
  have hblock : blockOf a = blockOf b := funext fun x => congrArg (fun t => t.get x) hb
  have hgroup : groupRec a = groupRec b := funext fun p => funext fun g => congrArg (fun t => (t.get p).get g) hg
  exact ⟨by rw [hblock]; exact h.free, by rw [hblock, hgroup]; exact h.owned, by rw [hblock, hgroup]; exact h.named⟩

theorem SameRun.of_records {a b : State} (ht : a.consist.table = b.consist.table)
    (ha : a.consist.release.active = b.consist.release.active) (hc : a.consist.release.current = b.consist.release.current) :
    SameRun a b :=
  ⟨fun p => by unfold stateOf posRec; rw [ht], ha, hc⟩

/-- An operation that changes nothing these are about keeps them. -/
theorem Moves.of_holdings {a b : State} (h : holdings a = holdings b) : Moves still a b := by
  simp only [holdings, Holdings.mk.injEq, Prod.mk.injEq] at h
  obtain ⟨⟨hb, hg⟩, ⟨ht, hs, ha, hc⟩, ⟨hst, ho⟩, hci, hr, hn⟩ := h
  refine Moves.of_quiet hn (BlocksOwned.of_tables hb hg) (fun w => ?_) fun _ => SameRun.of_records ht ha hc
  have hblock : blockOf a = blockOf b := funext fun x => congrArg (fun t => t.get x) hb
  have hentry : entryOf a = entryOf b := funext fun p => funext fun g => congrArg (fun t => (t.get p).get g) hst
  have hpos : posRec a = posRec b := funext fun p => congrArg (fun t => t.get p) ht
  have hstream : streamRec a = streamRec b := funext fun p => congrArg (fun t => t.get p) hs
  have hcircuit : circuitRec a = circuitRec b := funext fun p => congrArg (fun t => t.get p) hci
  have hround : roundOf a = roundOf b := funext fun p => congrArg (fun t => t.get p) hr
  obtain ⟨hw, hl, -⟩ := w
  refine ⟨by unfold State.WatchesSound; rw [hentry]; exact hw, ?_⟩
  exact ⟨by rw [hblock]; exact hl.pinned, by rw [ho]; exact hl.owed, by rw [hstream]; exact hl.captures,
    by rw [hpos]; exact hl.required, by rw [hpos]; exact hl.plans, by rw [hcircuit]; exact hl.once, by rw [hround]; exact hl.rounds⟩

theorem Moves.step {a b c : State} (h : Moves still b c) (hv : holdings a = holdings b) : Moves still a c :=
  (Moves.of_holdings hv).trans h

/-! ## Records -/

/-- A change of the Binding Store that keeps the blocks owned and pins no more than it may. -/
theorem modBinding_moves (f : Binding → Binding) (ho : s.BlocksOwned → (modBinding f s).BlocksOwned)
    (hp : (allBlocks.filter fun b => (blockOf s b).pinned).length ≤ 12 →
      (allBlocks.filter fun b => (blockOf (modBinding f s) b).pinned).length ≤ 12) (h : Moves still s z) :
    Moves still (modBinding f s) z := by
  refine Moves.trans ?_ h
  exact Moves.of_quiet rfl ho (fun w => ⟨w.watches, { w.lists with pinned := hp w.lists.pinned }⟩)
    fun _ => SameRun.of_records rfl rfl rfl

/-- A position's record changed with its plan kept sound; where `still` is set, its state neither becomes nor leaves VACANT. -/
theorem modRec_moves (p : Pos) (f : ConsistRecord → ConsistRecord)
    (hv : still ≠ .any → ((f (posRec s p)).state = .vacant ↔ (posRec s p).state = .vacant))
    (hp : s.Listed → (f (posRec s p)).PlanSound) (hr : s.Listed → (f (posRec s p)).required.length ≤ 64) (h : Moves still s z) :
    Moves still (modRec p f s) z := by
  have hrec : ∀ q, posRec (modRec p f s) q = if q = p then f (posRec s p) else posRec s q := fun q => Tab.get_upd ..
  refine Moves.trans ?_ h
  refine Moves.of_quiet rfl (BlocksOwned.of_tables rfl rfl) (fun w => ⟨w.watches, { w.lists with
      required := fun q => ?_, plans := fun q => ?_ }⟩) fun hk => ⟨fun q => ?_, rfl, rfl⟩
  · rw [hrec]
    split
    · exact hr w
    · exact w.lists.required q
  · rw [hrec]
    split
    · exact hp w
    · exact w.lists.plans q
  · unfold stateOf
    rw [hrec]
    split
    · rename_i e
      rw [e]
      exact hv hk
    · exact Iff.rfl

/-- A position's record changed in nothing that these are about. -/
theorem modRec_plain (p : Pos) (f : ConsistRecord → ConsistRecord) (hs : ∀ r, (f r).state = r.state)
    (hl : ∀ r, (f r).lampItems = r.lampItems) (hg : ∀ r, (f r).groupItems = r.groupItems)
    (hf : ∀ r, (f r).firstReads = r.firstReads) (hr : ∀ r, (f r).required = r.required) (h : Moves still s z) :
    Moves still (modRec p f s) z :=
  modRec_moves p f (fun _ => by rw [hs])
    (fun w => by
      obtain ⟨h1, h2, h3, h4, h5, h6, h7⟩ := w.lists.plans p
      exact ⟨by rw [hl]; exact h1, by rw [hg]; exact h2, by rw [hg]; exact h3, by rw [hg]; exact h4, by rw [hf]; exact h5,
        by rw [hf]; exact h6, by rw [hf, hg]; exact h7⟩) (fun w => by rw [hr]; exact w.lists.required p) h

theorem ConsistRecord.PlanSound.empty {r : ConsistRecord} (hl : r.lampItems = []) (hg : r.groupItems = [])
    (hf : r.firstReads = []) : r.PlanSound :=
  ⟨by simp [hl], by simp [hg], by simp [hg], by simp [hg], by simp [hf], by simp [hf], by simp [hf]⟩

/-- A stream's record changed with its captures within their bound. -/
theorem modStream_moves (p : Pos) (f : StreamRecord → StreamRecord)
    (hc : s.Listed → (f (streamRec s p)).wires.length ≤ 64 ∧ (f (streamRec s p)).required.length ≤ 64) (h : Moves still s z) :
    Moves still (modStream p f s) z := by
  have hrec : ∀ q, streamRec (modStream p f s) q = if q = p then f (streamRec s p) else streamRec s q := fun q => Tab.get_upd ..
  refine Moves.trans ?_ h
  refine Moves.of_quiet rfl (BlocksOwned.of_tables rfl rfl) (fun w => ⟨w.watches, { w.lists with captures := fun q => ?_ }⟩)
    fun _ => SameRun.of_records rfl rfl rfl
  rw [hrec]
  split
  · exact hc w
  · exact w.lists.captures q

theorem modPass_moves (f : EnumPass → EnumPass) (h : Moves still s z) : Moves still (modPass f s) z := h.step rfl

/-- A release record changed but in where the release is. -/
theorem modRelease_moves (f : ReleaseRecord → ReleaseRecord)
    (hr : still ≠ .any → (f s.consist.release).active = s.consist.release.active
      ∧ (f s.consist.release).current = s.consist.release.current) (h : Moves still s z) : Moves still (modRelease f s) z := by
  refine Moves.trans ?_ h
  exact Moves.of_quiet rfl (BlocksOwned.of_tables rfl rfl) (fun w => ⟨w.watches, { w.lists with }⟩)
    fun hk => SameRun.of_records rfl (hr hk).1 (hr hk).2

/-- A Position Status entry changed; a watch it starts is of an ACTUATOR. -/
theorem modEntry_moves (p : Pos) (f : Code) (g : StatusEntry → StatusEntry)
    (hw : ∀ e, (g e).watchDeadline ≠ none → kindOf f = .actuator ∨ e.watchDeadline ≠ none) (h : Moves still s z) :
    Moves still (modEntry p f g s) z := by
  refine Moves.trans ?_ h
  refine Moves.of_quiet rfl (BlocksOwned.of_tables rfl rfl) (fun w => ⟨fun q c hq => ?_, { w.lists with }⟩)
    fun _ => SameRun.of_records rfl rfl rfl
  by_cases hq' : q = p ∧ c = f
  · obtain ⟨rfl, rfl⟩ := hq'
    have he : entryOf (modEntry q c g s) q c = g (entryOf s q c) := by simp [entryOf, modEntry]
    rw [he] at hq
    exact (hw _ hq).elim id (w.watches q c)
  · have he : entryOf (modEntry p f g s) q c = entryOf s q c := by
      simp only [entryOf, modEntry, Tab.get_upd]
      split
      · rename_i e
        rw [Tab.get_upd_ne _ _ (fun e' => hq' ⟨e, e'⟩), e]
      · rfl
    rw [he] at hq
    exact w.watches q c hq

/-- An entry changed with its watch kept or ended. -/
theorem modEntry_unwatched (p : Pos) (f : Code) (g : StatusEntry → StatusEntry)
    (hw : ∀ e, (g e).watchDeadline = e.watchDeadline ∨ (g e).watchDeadline = none) (h : Moves still s z) :
    Moves still (modEntry p f g s) z :=
  modEntry_moves p f g (fun e hne => Or.inr ((hw e).elim (fun he => he ▸ hne) fun he => absurd he hne)) h

/-- A circuit record changed with the functions of its list named once. -/
theorem modCircuit_moves (j : LineNo) (f : Circuit → Circuit)
    (ho : ((circuitRec s j).contributors.map fun c => (c.pos, c.code)).Nodup →
      ((f (circuitRec s j)).contributors.map fun c => (c.pos, c.code)).Nodup) (h : Moves still s z) :
    Moves still (modCircuit j f s) z := by
  have hrec : ∀ q, circuitRec (modCircuit j f s) q = if q = j then f (circuitRec s j) else circuitRec s q :=
    fun q => Tab.get_upd ..
  refine Moves.trans ?_ h
  refine Moves.of_quiet rfl (BlocksOwned.of_tables rfl rfl) (fun w => ⟨w.watches, { w.lists with once := fun q => ?_ }⟩)
    fun _ => SameRun.of_records rfl rfl rfl
  rw [hrec]
  split
  · exact ho (w.lists.once j)
  · exact w.lists.once q

/-- The Delivery Unit's record changed with its entries and owed stops kept within their bounds. -/
theorem modDelivery_moves (f : Delivery → Delivery) (hw : s.WatchesSound → (modDelivery f s).WatchesSound)
    (ho : ∀ p, ((f s.delivery).owed.get p).Sublist (s.delivery.owed.get p)) (h : Moves still s z) :
    Moves still (modDelivery f s) z := by
  refine Moves.trans ?_ h
  refine Moves.of_quiet rfl (BlocksOwned.of_tables rfl rfl) (fun w => ⟨hw w.watches, { w.lists with owed := fun p => ?_ }⟩)
    fun _ => SameRun.of_records rfl rfl rfl
  obtain ⟨hlen, hnd, hkind⟩ := w.lists.owed p
  exact ⟨(ho p).length_le.trans hlen, ((ho p).map _).nodup hnd, fun o hm => hkind o ((ho p).subset hm)⟩

/-- The Delivery Unit's record changed beside its entries and owed stops. -/
theorem modDelivery_plain (f : Delivery → Delivery) (hs : (f s.delivery).status = s.delivery.status)
    (ho : (f s.delivery).owed = s.delivery.owed) (h : Moves still s z) : Moves still (modDelivery f s) z :=
  h.step (by simp only [holdings, modDelivery, hs, ho])

/-- The Service Poller's record changed with no round's count raised. -/
theorem modService_moves (f : Service → Service)
    (hr : ∀ p, ((f s.service).rounds.get p).count ≤ ((s.service).rounds.get p).count) (h : Moves still s z) :
    Moves still (modService f s) z := by
  refine Moves.trans ?_ h
  exact Moves.of_quiet rfl (BlocksOwned.of_tables rfl rfl) (fun w => ⟨w.watches, { w.lists with
      rounds := fun p => (hr p).trans (w.lists.rounds p) }⟩) fun _ => SameRun.of_records rfl rfl rfl

/-- A round changed with its count within its bound. -/
theorem modRound_moves (p : Pos) (f : Round → Round)
    (hr : (roundOf s p).count ≤ 16 → (f (roundOf s p)).count ≤ 16) (h : Moves still s z) : Moves still (modRound p f s) z := by
  have hrec : ∀ q, roundOf (modRound p f s) q = if q = p then f (roundOf s p) else roundOf s q := fun q => Tab.get_upd ..
  refine Moves.trans ?_ h
  refine Moves.of_quiet rfl (BlocksOwned.of_tables rfl rfl) (fun w => ⟨w.watches, { w.lists with rounds := fun q => ?_ }⟩)
    fun _ => SameRun.of_records rfl rfl rfl
  rw [hrec]
  split
  · exact hr (w.lists.rounds p)
  · exact w.lists.rounds q

theorem modConsist_moves (f : Consist → Consist) (ht : (f s.consist).table = s.consist.table)
    (hs : (f s.consist).streams = s.consist.streams) (hr : (f s.consist).release = s.consist.release) (h : Moves still s z) :
    Moves still (modConsist f s) z :=
  h.step (by simp only [holdings, modConsist, ht, hs, hr])

theorem setNodeCheck_moves (p : Pos) (src : CheckSource) (x : Option NodeLampCheck) (h : Moves still s z) :
    Moves still (setNodeCheck p src x s) z := by cases src <;> exact h.step rfl

/-! ## Notices and faults -/

theorem emitAll_moves (ns : List Notice) (hn : ∀ x ∈ ns, x.fits still = true) (h : Moves still s z) : Moves still (emitAll ns s) z := by
  refine Moves.trans ?_ h
  have hrun : SameRun (emitAll ns s) s := SameRun.of_records rfl rfl rfl
  refine ⟨BlocksOwned.of_tables rfl rfl, fun w => ⟨w.watches, { w.lists with }, fun x hx => ?_⟩, fun _ => hrun, fun w x hx => ?_⟩
  · exact (List.mem_append.mp hx).elim (w.stops x) fun hx => Notice.stopSound_of_fits (hn x hx)
  · exact (List.mem_append.mp hx).elim (fun hx => Reach.admits_congr (fun _ => hrun) (w x hx))
      fun hx => Reach.admits_of_fits (hn x hx)

theorem emit_moves (x : Notice) (hx : x.fits still = true) (h : Moves still s z) : Moves still (emit x s) z :=
  emitAll_moves [x] (by simpa using hx) h

theorem takeFault_moves (r : FaultRecord) (h : Moves still s z) : Moves still (takeFault r s) z := h.step rfl

theorem recordFault_moves (kind : FaultKind) (p : Option Pos) (f : Option Code) (access : Option AccessKind)
    (detail : Nat) (h : Moves still s z) : Moves still (recordFault kind p f access detail s) z := h.step rfl

/-! ## Offers -/

theorem setOffers_moves (f : List Offer → List Offer) (h : Moves still s z) : Moves still (setOffers f s) z := h.step rfl

theorem withdraw_moves (r : Requester) (c : ArbClass) (p : LinePos) (h : Moves still s z) : Moves still (withdraw r c p s) z := h.step rfl

theorem withdrawWhere_moves (f : Offer → Bool) (h : Moves still s z) : Moves still (withdrawWhere f s) z := h.step rfl

/-- R74: a first read whose GET is granted keeps its place in the plan. -/
theorem firstReads_map_plan {r : ConsistRecord} (g : FirstRead → FirstRead) (hg : ∀ x, (g x).code = x.code) (w : r.PlanSound) :
    ({ r with firstReads := r.firstReads.map g } : ConsistRecord).PlanSound where
  lampItems := w.lampItems
  groups := w.groups
  ascending := w.ascending
  groupKinds := w.groupKinds
  firstReads := by simpa using w.firstReads
  once := by
    have : ((r.firstReads.map g).map fun x => x.code) = r.firstReads.map fun x => x.code := by
      rw [List.map_map]; exact List.map_congr_left fun x _ => hg x
    rw [this]; exact w.once
  readKinds := by
    intro x hx
    obtain ⟨y, hy, rfl⟩ := List.mem_map.mp hx
    rw [hg]
    exact w.readKinds y hy

theorem notePhase_moves (o : Offer) (h : Moves still s z) : Moves still (notePhase o s) z := by
  unfold notePhase
  split
  · exact modPass_moves _ h
  · exact modRelease_moves _ (fun _ => ⟨rfl, rfl⟩) h
  · exact modRec_moves _ _ (fun _ => Iff.rfl) (fun w => firstReads_map_plan _ (fun x => by split <;> rfl) (w.lists.plans _))
      (fun w => w.lists.required _) h
  · exact h

theorem grantNotices_fit (o : Offer) : ∀ x ∈ grantNotices o, x.fits still = true := by
  unfold grantNotices
  repeat' split
  all_goals simp

theorem grant_moves (o : Offer) (h : Moves still s z) : Moves still (grant o s) z :=
  emitAll_moves _ (grantNotices_fit o) (notePhase_moves o (h.step rfl))

theorem grantLine_moves (h : Moves still s z) : Moves still (grantLine s) z := by
  unfold grantLine
  split
  · exact h
  · split
    · exact grant_moves _ h
    · exact h

/-- An offer made; one that is not valid ends at once (R25). -/
theorem makeOffer_moves (o : Offer) (ho : o.fits still = true) (h : Moves still s z) : Moves still (makeOffer o s) z := by
  unfold makeOffer
  split
  · exact grantLine_moves (setOffers_moves _ h)
  · rename_i hv
    refine emit_moves _ ?_ h
    simpa [Offer.fits, hv, Notice.fits, Notice.tame, Notice.stopSound] using ho

/-- An offer of a purpose that is tame. -/
theorem Offer.fits_of_tame {o : Offer} (h : o.why.tame = true) : o.fits still = true := by
  unfold Offer.fits; rw [h, Bool.true_or, Bool.or_true]

/-- A valid offer. -/
theorem Offer.fits_of_valid {o : Offer} (h : offerValid o = true) : o.fits still = true := by simp [Offer.fits, h]

theorem setUnheard_moves (p : Pos) (n : Nat) (h : Moves still s z) : Moves still (setUnheard p n s) z := h.step rfl

/-! ## The transmit queue and the Request List -/

theorem setQueue_moves (q : List TxFrame) (h : Moves still s z) : Moves still (setQueue q s) z := h.step rfl

theorem setOverrun_moves (v : Bool) (h : Moves still s z) : Moves still (setOverrun v s) z := h.step rfl

theorem setRequests_moves (rs : List Request) (x : HeadState) (h : Moves still s z) : Moves still (setRequests rs x s) z := h.step rfl

theorem placeStatus_moves (key : FrameKey) (id : Nat) (data : List Byte) (h : Moves still s z) :
    Moves still (placeStatus key id data s) z := by
  obtain ⟨pt, hpt⟩ := placeStatus_port key id data s
  rw [hpt]
  exact h.step rfl

theorem serveUnknown_moves (n : Nat) (h : Moves still s z) : Moves still (serveUnknown n s) z := by
  induction n generalizing s with
  | zero => exact h
  | succ n ih =>
    unfold serveUnknown
    split
    · split
      · exact h
      · split
        · exact ih (setRequests_moves _ _ (setQueue_moves _ h))
        · exact setRequests_moves _ _ h
    · exact h

theorem popRequest_moves (h : Moves still s z) : Moves still (popRequest s) z := serveUnknown_moves _ (setRequests_moves _ _ h)

theorem answer_moves (result : ResultCode) (bytes : List Byte) (h : Moves still s z) : Moves still (answer result bytes s) z := by
  unfold answer
  split
  · exact h
  · split
    · exact popRequest_moves (setQueue_moves _ h)
    · exact setRequests_moves _ _ h

theorem holdHead_moves (h : Moves still s z) : Moves still (holdHead s) z := setRequests_moves _ _ h

theorem answerPart_moves (result : ResultCode) (bytes : List Byte) (part : Nat) (h : Moves still s z) :
    Moves still (answerPart result bytes part s) z := by
  unfold answerPart
  split
  · exact answer_moves _ _ h
  · exact answer_moves _ _ h

end Sys2Proof.Machine
end

section
/-!
The frames of the Tractor Port and the direct lines hold nothing of the blocks, lists and positions.
-/
namespace Sys2Proof.Machine

variable {s z : State} {still : Reach}

/-! ## Frames -/

theorem setRefresh_moves (p : Pos) (g : Group) (half : Bool) (t : Option Time) (h : Moves still s z) :
    Moves still (setRefresh p g half t s) z := h.step rfl

theorem placeConsist_moves (h : Moves still s z) : Moves still (placeConsist s) z := by
  unfold placeConsist
  with_reducible repeat' first
    | exact h | apply setOverrun_moves | apply placeStatus_moves | split

theorem noteRefresh_moves (p : Pos) (g : Group) (half : Bool) (h : Moves still s z) :
    Moves still (noteRefresh p g half s) z := by
  unfold noteRefresh
  with_reducible repeat' first
    | exact h | apply setRefresh_moves | split

theorem placeResultFrame_moves (p : Pos) (g : Group) (half : Bool) (h : Moves still s z) :
    Moves still (placeResultFrame p g half s) z := by
  unfold placeResultFrame
  with_reducible repeat' first
    | exact h | apply noteRefresh_moves | apply placeStatus_moves | apply setOverrun_moves | split

theorem placeValueFrame_moves (p : Pos) (f : Code) (h : Moves still s z) : Moves still (placeValueFrame p f s) z := by
  unfold placeValueFrame; apply placeStatus_moves; exact h

theorem syncOne_moves (p : Pos) (g : Group) (half : Bool) (h : Moves still s z) : Moves still (syncOne p g half s) z := by
  unfold syncOne
  with_reducible repeat' first
    | exact h | apply setRefresh_moves | split

theorem syncRefresh_moves (h : Moves still s z) : Moves still (syncRefresh s) z :=
  foldl_moves (fun s p => foldl_moves (fun s g => syncOne_moves _ _ _ (syncOne_moves _ _ _ (Moves.refl s))) _ (Moves.refl s)) _ h

theorem placeRefresh_moves (h : Moves still s z) : Moves still (placeRefresh s) z := by
  unfold placeRefresh
  with_reducible repeat' first
    | exact h | apply placeResultFrame_moves | split

/-! ## Direct lines -/

theorem modLine_moves (k : LineNo) (f : Line → Line) (h : Moves still s z) : Moves still (modLine k f s) z := h.step rfl

theorem computePending_moves (k : LineNo) (h : Moves still s z) : Moves still (computePending k s) z := modLine_moves k _ h

theorem recompute_moves (k : LineNo) (h : Moves still s z) : Moves still (recompute k s) z := by
  unfold recompute
  with_reducible repeat' first
    | exact h | apply computePending_moves | split

theorem recomputeWhere_moves (f : State → LineNo → Bool) (h : Moves still s z) : Moves still (recomputeWhere f s) z :=
  foldl_moves (fun s k => by split; exacts [recompute_moves k (Moves.refl s), Moves.refl s]) _ h

theorem openLineWindow_moves (k : LineNo) (h : Moves still s z) : Moves still (openLineWindow k s) z := by
  unfold openLineWindow
  split
  · exact h
  · exact computePending_moves k (modLine_moves k _ h)

theorem closeLineWindow_moves (k : LineNo) (h : Moves still s z) : Moves still (closeLineWindow k s) z :=
  recompute_moves k (modLine_moves k _ h)

theorem windowAfterHold_moves (k : LineNo) (h : Moves still s z) : Moves still (windowAfterHold k s) z := by
  unfold windowAfterHold
  with_reducible repeat' first
    | exact h | apply openLineWindow_moves | split

theorem clearHold_moves (k : LineNo) (h : Moves still s z) : Moves still (clearHold k s) z :=
  modLine_moves k _ h

theorem endHold_moves (k : LineNo) (h : Moves still s z) : Moves still (endHold k s) z := by
  unfold endHold
  with_reducible repeat' first
    | exact h | apply windowAfterHold_moves | apply computePending_moves | apply clearHold_moves

theorem expireHold_moves (k : LineNo) (h : Moves still s z) : Moves still (expireHold k s) z :=
  windowAfterHold_moves k (modLine_moves k _ (clearHold_moves k h))

theorem dropHold_moves (k : LineNo) (h : Moves still s z) : Moves still (dropHold k s) z := by
  unfold dropHold
  with_reducible repeat' first
    | exact h | apply windowAfterHold_moves | apply clearHold_moves | split

theorem lineUpdateOne_moves (f : Code) (k : LineNo) (h : Moves still s z) : Moves still (lineUpdateOne f s k) z := by
  unfold lineUpdateOne
  with_reducible repeat' first
    | exact h | apply endHold_moves | split

theorem lineUpdate_moves (f : Code) (h : Moves still s z) : Moves still (lineUpdate f s) z :=
  foldl_moves (fun s k => lineUpdateOne_moves f k (Moves.refl s)) _ h

theorem lineChangeOne_moves (f : Code) (k : LineNo) (h : Moves still s z) : Moves still (lineChangeOne f s k) z := by
  unfold lineChangeOne
  with_reducible repeat' first
    | exact h | apply recompute_moves | split

theorem lineChange_moves (f : Code) (h : Moves still s z) : Moves still (lineChange f s) z :=
  foldl_moves (fun s k => lineChangeOne_moves f k (Moves.refl s)) _ h

end Sys2Proof.Machine
end

section
/-!
The Binding Store keeps every block that is not FREE with the one group whose record names it (R80), and pins no more blocks
than it may (R90).
-/
namespace Sys2Proof.Machine

variable {s t z : State} {still : Reach}

theorem holdNotices_fit (p : Pos) : ∀ x ∈ holdNotices p, x.fits still = true := by simp [holdNotices]

theorem rescanNotices_moves (p : Pos) (h : Moves still s z) : Moves still (emitAll (holdNotices p) s) z :=
  emitAll_moves _ (holdNotices_fit p) h

/-! ## One block, one group record -/

theorem groupRec_modGroup (p q : Pos) (g h : Group) (f : GroupRecord → GroupRecord) (s : State) :
    groupRec (modGroup p g f s) q h = if q = p ∧ h = g then f (groupRec s p g) else groupRec s q h := by
  show ((s.binding.groups.upd p _).get q).get h = _
  rw [Tab.get_upd]
  by_cases hq : q = p
  · subst hq
    rw [if_pos rfl, Tab.get_upd]
    by_cases hh : h = g
    · subst hh; rw [if_pos rfl, if_pos ⟨rfl, rfl⟩]; rfl
    · rw [if_neg hh, if_neg fun he => hh he.2]; rfl
  · rw [if_neg hq, if_neg fun he => hq he.1]; rfl

/-- A change of the blocks that pins none leaves no more pinned. -/
theorem pinned_length_le (h : ∀ b, (blockOf t b).pinned = true → (blockOf s b).pinned = true) :
    (allBlocks.filter fun b => (blockOf t b).pinned).length ≤ (allBlocks.filter fun b => (blockOf s b).pinned).length :=
  (List.monotone_filter_right allBlocks fun b hb => h b hb).length_le

/-- A state that differs in the Binding Store alone, which keeps the blocks owned and pins no more than it may. -/
theorem binding_moves {t : State} (ht : ∃ x, t = modBinding (fun _ => x) s) (ho : s.BlocksOwned → t.BlocksOwned)
    (hp : (allBlocks.filter fun b => (blockOf s b).pinned).length ≤ 12 → (allBlocks.filter fun b => (blockOf t b).pinned).length ≤ 12)
    (h : Moves still s z) : Moves still t z := by
  obtain ⟨x, rfl⟩ := ht
  exact modBinding_moves _ ho hp h

theorem mem_allBlocks : ∀ b : BlockNo, b ∈ allBlocks := by decide

/-- A block changed but in its owner; it stays FREE, or not, and without a row while it is FREE, and is not pinned. -/
theorem modBlock_moves (b : BlockNo) (f : Block → Block) (hs : (f (blockOf s b)).state = .free ↔ (blockOf s b).state = .free)
    (ho : (f (blockOf s b)).owner = (blockOf s b).owner)
    (hr : (∀ m, (blockOf s b).rows.get m = none) → (blockOf s b).state = .free → ∀ m, (f (blockOf s b)).rows.get m = none)
    (hp : (f (blockOf s b)).pinned = true → (blockOf s b).pinned = true) (h : Moves still s z) :
    Moves still (modBlock b f s) z := by
  refine binding_moves ⟨_, rfl⟩ (fun w => ⟨fun c hc => ?_, fun c hc => ?_, fun p g c hc => ?_⟩)
    (fun w => (pinned_length_le fun c => ?_).trans w) h
  · rw [blockOf_modBlock] at hc ⊢
    split at hc
    · rename_i e
      rw [if_pos e]
      obtain ⟨hown, hrow⟩ := w.free b (hs.mp hc)
      exact ⟨ho.trans hown, hr hrow (hs.mp hc)⟩
    · rename_i e
      rw [if_neg e]
      exact w.free c hc
  · rw [blockOf_modBlock] at hc ⊢
    split at hc
    · rename_i e
      rw [if_pos e, ho, e]
      exact w.owned b (fun hf => hc (hs.mpr hf))
    · rename_i e
      rw [if_neg e]
      exact w.owned c hc
  · rw [blockOf_modBlock]
    have hown := w.named p g c hc
    split
    · rename_i e
      rw [ho, ← e]
      exact hown
    · exact hown
  · rw [blockOf_modBlock]
    split
    · rename_i e
      rw [e]
      exact hp
    · exact id

/-- A block changed in nothing that R80 and R90 are about. -/
theorem modBlock_plain (b : BlockNo) (f : Block → Block) (hs : ∀ x, (f x).state = x.state) (ho : ∀ x, (f x).owner = x.owner)
    (hr : ∀ x, (f x).rows = x.rows) (hp : ∀ x, (f x).pinned = true → x.pinned = true) (h : Moves still s z) :
    Moves still (modBlock b f s) z :=
  modBlock_moves b f (by rw [hs]) (ho _) (fun w _ => by rw [hr]; exact w) (hp _) h

/-- A group record changed but in the block it names. -/
theorem modGroup_moves (p : Pos) (g : Group) (f : GroupRecord → GroupRecord) (hf : ∀ r, (f r).block = r.block)
    (h : Moves still s z) : Moves still (modGroup p g f s) z := by
  refine modBinding_moves (fun x => { x with groups := x.groups.upd p fun t => t.upd g f }) (fun w => ?_) id h
  have hblock : ∀ q j, (groupRec (modGroup p g f s) q j).block = (groupRec s q j).block := fun q j => by
    rw [groupRec_modGroup]
    split
    · rename_i e
      rw [hf, e.1, e.2]
    · rfl
  refine ⟨w.free, fun b hb => ?_, fun q j b hb => w.named q j b ((hblock q j).symm.trans hb)⟩
  obtain ⟨q, j, hown, hname⟩ := w.owned b hb
  exact ⟨q, j, hown, (hblock q j).trans hname⟩

/-! ## Claims -/

theorem offerFetch_moves (p : Pos) (h : Moves still s z) : Moves still (offerFetch p s) z := by
  unfold offerFetch
  split
  · exact withdraw_moves _ _ _ h
  · rename_i o ho
    split
    · exact h
    · obtain ⟨b, -, hb⟩ := Option.bind_eq_some_iff.mp ho
      obtain ⟨g, a, hwhy⟩ := fetchOffer_why hb
      exact makeOffer_moves o (Offer.fits_of_tame (by rw [hwhy]; rfl)) h

theorem firstCircle_moves (bs : List BlockNo) (h : Moves still s z) : Moves still (firstCircle bs s).2 z := by
  induction bs generalizing s with
  | nil => exact h
  | cons b bs ih =>
    unfold firstCircle
    split
    · split
      · exact ih (modBlock_plain _ _ (fun _ => rfl) (fun _ => rfl) (fun _ => rfl) (fun _ => id) h)
      · exact h
    · exact ih h

theorem setPointer_moves (b : BlockNo) (h : Moves still s z) : Moves still (setPointer b s) z := h.step rfl

theorem takeBlock_moves (h : Moves still s z) : Moves still (takeBlock s).2 z := by
  have hcircle := firstCircle_moves (reclaimOrder s.binding.pointer) h
  unfold takeBlock
  split
  · exact h
  · split
    · rename_i e
      rw [e] at hcircle
      exact setPointer_moves _ hcircle
    · rename_i e
      rw [e] at hcircle
      split
      · exact setPointer_moves _ hcircle
      · exact hcircle

theorem firstCircle_pinned (bs : List BlockNo) (s : State) (c : BlockNo) :
    (blockOf (firstCircle bs s).2 c).pinned = (blockOf s c).pinned := by
  induction bs generalizing s with
  | nil => rfl
  | cons b bs ih =>
    unfold firstCircle
    split
    · split
      · rw [ih, blockOf_modBlock]
        split
        · rename_i e; rw [e]
        · rfl
      · rfl
    · exact ih s

theorem takeBlock_pinned (s : State) (c : BlockNo) : (blockOf (takeBlock s).2 c).pinned = (blockOf s c).pinned := by
  have hcircle := firstCircle_pinned (reclaimOrder s.binding.pointer) s c
  unfold takeBlock
  split
  · rfl
  · split
    · rename_i e
      rw [e] at hcircle
      exact hcircle
    · rename_i e
      rw [e] at hcircle
      split <;> exact hcircle

/-- R80: a claimed block set up for a group that holds none. -/
theorem blockSet_owned {b : BlockNo} {p : Pos} {g : Group} {pin : Bool} (hg : (groupRec s p g).block = none)
    (w : s.BlocksOwned) : (blockSet b p g pin s).BlocksOwned := by
  refine ⟨fun c hc => ?_, fun c hc => ?_, fun q j c hc => ?_⟩
  · rw [blockOf_blockSet] at hc ⊢
    split at hc
    · cases hc
    · rename_i e
      rw [if_neg e]
      exact w.free c hc
  · rw [blockOf_blockSet] at hc ⊢
    by_cases e : c = b
    · subst e
      rw [if_pos rfl]
      exact ⟨p, g, rfl, by rw [groupRec_blockSet, if_pos ⟨rfl, rfl⟩]⟩
    · rw [if_neg e] at hc ⊢
      obtain ⟨q, j, hown, hname⟩ := w.owned c hc
      refine ⟨q, j, hown, ?_⟩
      rw [groupRec_blockSet, if_neg, if_neg]
      · exact hname
      · intro hb
        have hbusy : (blockOf s b).state ≠ .free := fun hf => by rw [(w.free b hf).1] at hb; cases hb
        obtain ⟨q', j', hown', hname'⟩ := w.owned b hbusy
        rw [hb] at hown'
        cases hown'
        exact e (Option.some.inj (hname.symm.trans hname'))
      · rintro ⟨rfl, rfl⟩
        rw [hg] at hname
        cases hname
  · rw [groupRec_blockSet] at hc
    rw [blockOf_blockSet]
    split at hc
    · rename_i e
      rw [if_pos (Option.some.inj hc).symm, e.1, e.2]
    · split at hc
      · cases hc
      · rename_i e
        have hown := w.named q j c hc
        rw [if_neg fun he : c = b => e (by rw [← he]; exact hown)]
        exact hown

theorem filter_or_length {α : Type} (f g : α → Bool) (xs : List α) :
    (xs.filter fun x => f x || g x).length ≤ (xs.filter f).length + (xs.filter g).length := by
  induction xs with
  | nil => exact Nat.le_refl 0
  | cons x xs ih => cases hf : f x <;> cases hg : g x <;> simp [hf, hg] <;> omega

/-- R90: one block more is pinned at most. -/
theorem pinned_length_succ {b : BlockNo} (h : ∀ c, (blockOf t c).pinned = true → (blockOf s c).pinned = true ∨ c = b) :
    (allBlocks.filter fun c => (blockOf t c).pinned).length ≤ (allBlocks.filter fun c => (blockOf s c).pinned).length + 1 := by
  have hone : ∀ b : BlockNo, (allBlocks.filter fun c => decide (c = b)).length = 1 := by decide
  calc (allBlocks.filter fun c => (blockOf t c).pinned).length
      ≤ (allBlocks.filter fun c => (blockOf s c).pinned || decide (c = b)).length :=
        (List.monotone_filter_right allBlocks fun c hc => by simpa using h c hc).length_le
    _ ≤ (allBlocks.filter fun c => (blockOf s c).pinned).length + (allBlocks.filter fun c => decide (c = b)).length :=
        filter_or_length _ _ _
    _ = _ := by rw [hone]

theorem blockSet_moves {b : BlockNo} {p : Pos} {g : Group} {pin : Bool} (hg : (groupRec s p g).block = none)
    (hp : pin = true → (allBlocks.filter fun c => (blockOf s c).pinned).length < 12) (h : Moves still s z) :
    Moves still (blockSet b p g pin s) z := by
  obtain ⟨hkeep, -⟩ := blockSet_keeps b p g pin s
  refine binding_moves ⟨_, hkeep⟩ (blockSet_owned hg) (fun w => ?_) h
  have hpin : ∀ c, (blockOf (blockSet b p g pin s) c).pinned = true → (blockOf s c).pinned = true ∨ pin = true ∧ c = b := by
    intro c hc
    rw [blockOf_blockSet] at hc
    split at hc
    · rename_i e; exact Or.inr ⟨hc, e⟩
    · exact Or.inl hc
  cases pin with
  | false => exact (pinned_length_le fun c hc => (hpin c hc).resolve_right (by simp)).trans w
  | true =>
    have hle := pinned_length_succ (s := s) (t := blockSet b p g true s) (b := b) fun c hc => (hpin c hc).imp_right And.right
    have hlt := hp rfl
    omega

theorem setUpBlock_moves {b : BlockNo} {p : Pos} {g : Group} {pin : Bool} (hg : (groupRec s p g).block = none)
    (hp : pin = true → (allBlocks.filter fun c => (blockOf s c).pinned).length < 12) (h : Moves still s z) :
    Moves still (setUpBlock b p g pin s) z := rescanNotices_moves p (offerFetch_moves p (blockSet_moves hg hp h))

theorem claimFailed_moves (p : Pos) (g : Group) (f : Option Code) (k : Option AccessKind) (h : Moves still s z) :
    Moves still (claimFailed p g f k s) z := by
  unfold claimFailed
  split
  · exact h
  · exact rescanNotices_moves p (recordFault_moves _ _ _ _ _ (modGroup_moves _ _ _ (fun _ => rfl) h))

theorem claim_moves {p : Pos} {g : Group} {pin : Bool} (f : Option Code) (k : Option AccessKind)
    (hg : (groupRec s p g).block = none) (hp : pin = true → (allBlocks.filter fun c => (blockOf s c).pinned).length < 12)
    (h : Moves still s z) : Moves still (claim p g pin f k s).2 z := by
  have htake := takeBlock_moves h
  unfold claim
  cases e : takeBlock s with
  | mk x t =>
    rw [e] at htake
    obtain ⟨bs, pt, ht, hget⟩ := takeBlock_binding e
    cases x with
    | none => exact claimFailed_moves p g f k htake
    | some b =>
      refine setUpBlock_moves ?_ (fun hpin => ?_) htake
      · rw [ht]; exact hg
      · have hpinned := takeBlock_pinned s
        rw [e] at hpinned
        exact (pinned_length_le fun c hc => (hpinned c).symm.trans hc).trans_lt (hp hpin)

/-! ## Lookup and translation -/

theorem joinWait_moves (b : BlockNo) (w : Waiter) (h : Moves still s z) : Moves still (joinWait b w s) z :=
  modBlock_plain b _ (fun x => by split <;> rfl) (fun x => by split <;> rfl) (fun x => by split <;> rfl)
    (fun x => by split <;> exact id) h

theorem reference_moves (b : BlockNo) (h : Moves still s z) : Moves still (reference b s) z :=
  modBlock_plain b _ (fun _ => rfl) (fun _ => rfl) (fun _ => rfl) (fun _ => id) h

theorem lookupGroup_moves (p : Pos) (g : Group) (f : Option Code) (k : Option AccessKind) (w : Waiter)
    (h : Moves still s z) : Moves still (lookupGroup p g f k w s).2 z := by
  unfold lookupGroup
  split
  · exact h
  · split
    · exact h
    · split
      · exact h
      · split
        · exact h
        · split
          · split
            · exact joinWait_moves _ _ h
            · exact reference_moves _ h
          · rename_i hg
            have hclaim := claim_moves (pin := false) f k hg nofun h
            split
            · rename_i e
              rw [e] at hclaim
              split
              · exact joinWait_moves _ _ hclaim
              · exact hclaim
            · rename_i e
              rw [e] at hclaim
              exact hclaim

theorem checkPolicy_moves (p : Pos) (f : Code) (c d : Fin 8) (k : AccessKind) (h : Moves still s z) :
    Moves still (checkPolicy p f c d k s).2 z := by
  unfold checkPolicy
  split
  · exact h
  · exact recordFault_moves _ _ _ _ _ h

/-- R82: a row that is reported is that of a block that is not FREE. -/
theorem reportRow_moves (p : Pos) (f : Code) (k : AccessKind) (b : BlockNo) (e : DirEntry) (h : Moves still s z) :
    Moves still (reportRow p f k b e s) z := by
  unfold reportRow
  split
  · rename_i r hr
    split
    · exact h
    · exact recordFault_moves _ _ _ _ _ (modBlock_moves b _ Iff.rfl rfl
        (fun w _ => absurd ((w (memberOf f)).symm.trans hr) nofun) id h)
  · exact h

theorem translate_moves (p : Pos) (f : Code) (k : AccessKind) (zero : Bool) (w : Waiter) (h : Moves still s z) :
    Moves still (translate p f k zero w s).2 z := by
  have hlook := lookupGroup_moves p (groupOf f) (some f) (some k) w h
  unfold translate
  cases e : lookupGroup p (groupOf f) (some f) (some k) w s with
  | mk x t =>
    rw [e] at hlook
    cases x with
    | loaded b d =>
      dsimp only
      split
      · exact hlook
      · split
        · exact hlook
        · split
          · exact reportRow_moves _ _ _ _ _ hlook
          · split
            · exact hlook
            · rename_i r _ _ _
              have hpol := checkPolicy_moves p f d.policyClass r.record.fnClass k hlook
              split
              · rename_i e'; rw [e'] at hpol; exact hpol
              · rename_i e'; rw [e'] at hpol; exact hpol
    | notReady => exact hlook
    | notFitted => exact hlook
    | noSpace => exact hlook
    | wait => exact hlook

/-! ## Freeing and fetch ends -/

theorem clearNoSpace_moves (h : Moves still s z) : Moves still (clearNoSpace s) z := by
  unfold clearNoSpace
  split
  · refine emit_moves _ (by simp) (modBinding_moves _ (fun w => ?_) id h)
    have hblock : ∀ q j, (groupRec (modBinding (fun x => { x with groups := x.groups.map fun t => t.map fun r =>
        { r with noSpace := false } }) s) q j).block = (groupRec s q j).block := fun q j => by
      show (((s.binding.groups.map fun t : Tab GroupRecord 12 => t.map fun r : GroupRecord => { r with noSpace := false }).get q).get j).block = _
      rw [Tab.get_map, Tab.get_map]
      rfl
    refine ⟨w.free, fun b hb => ?_, fun q j b hb => w.named q j b ((hblock q j).symm.trans hb)⟩
    obtain ⟨q, j, hown, hname⟩ := w.owned b hb
    exact ⟨q, j, hown, (hblock q j).trans hname⟩
  · exact h

/-- R87: block b FREE, and its owner's group without it. -/
def blockFreed (b : BlockNo) (s : State) : State :=
  match (blockOf s b).owner with
  | some (p, g) => modGroup p g (fun r => { r with block := none }) (modBlock b (fun _ => {}) s)
  | none => modBlock b (fun _ => {}) s

theorem blockOf_blockFreed (b c : BlockNo) (s : State) :
    blockOf (blockFreed b s) c = if c = b then {} else blockOf s c := by
  unfold blockFreed
  split <;> exact blockOf_modBlock b _ s c

theorem groupRec_blockFreed (b : BlockNo) (s : State) (p : Pos) (g : Group) :
    (groupRec (blockFreed b s) p g).block = if (blockOf s b).owner = some (p, g) then none else (groupRec s p g).block := by
  unfold blockFreed
  split
  · rename_i q j ho
    rw [groupRec_modGroup, ho]
    by_cases e : p = q ∧ g = j
    · rw [if_pos e, if_pos (by rw [e.1, e.2])]
    · rw [if_neg e, if_neg fun he => e (by cases he; exact ⟨rfl, rfl⟩)]
      rfl
  · rename_i ho
    rw [ho, if_neg nofun]
    rfl

theorem blockFreed_owned (b : BlockNo) (w : s.BlocksOwned) : (blockFreed b s).BlocksOwned := by
  refine ⟨fun c hc => ?_, fun c hc => ?_, fun p g c hc => ?_⟩
  · rw [blockOf_blockFreed] at hc ⊢
    split at hc
    · rename_i e
      rw [if_pos e]
      exact ⟨rfl, fun m => Tab.get_fill _ _⟩
    · rename_i e
      rw [if_neg e]
      exact w.free c hc
  · rw [blockOf_blockFreed] at hc ⊢
    split at hc
    · exact absurd rfl hc
    · rename_i e
      rw [if_neg e]
      obtain ⟨p, g, hown, hname⟩ := w.owned c hc
      refine ⟨p, g, hown, ?_⟩
      rw [groupRec_blockFreed, if_neg]
      · exact hname
      · intro hb
        have hbusy : (blockOf s b).state ≠ .free := fun hf => by rw [(w.free b hf).1] at hb; cases hb
        obtain ⟨p', g', hown', hname'⟩ := w.owned b hbusy
        rw [hb] at hown'
        cases hown'
        exact e (Option.some.inj (hname.symm.trans hname'))
  · rw [groupRec_blockFreed] at hc
    split at hc
    · cases hc
    · rename_i e
      have hown := w.named p g c hc
      rw [blockOf_blockFreed, if_neg fun he : c = b => e (by rw [← he]; exact hown)]
      exact hown

theorem blockFreed_binding (b : BlockNo) (s : State) : ∃ x, blockFreed b s = modBinding (fun _ => x) s := by
  unfold blockFreed
  split <;> exact ⟨_, rfl⟩

theorem blockFreed_moves (b : BlockNo) (h : Moves still s z) : Moves still (blockFreed b s) z := by
  obtain ⟨x, hx⟩ := blockFreed_binding b s
  have hown := blockFreed_owned (s := s) b
  have hpin : ∀ c, (blockOf (blockFreed b s) c).pinned = true → (blockOf s c).pinned = true := fun c hc => by
    rw [blockOf_blockFreed] at hc
    split at hc
    · cases hc
    · exact hc
  rw [hx] at hown hpin ⊢
  exact modBinding_moves _ hown (fun w => (pinned_length_le hpin).trans w) h

theorem releaseBlock_moves (b : BlockNo) (h : Moves still s z) : Moves still (releaseBlock b s) z := by
  have hfreed := blockFreed_moves b h
  unfold blockFreed at hfreed
  unfold releaseBlock
  split
  · rename_i e
    rw [e] at hfreed
    exact offerFetch_moves _ hfreed
  · rename_i e
    rw [e] at hfreed
    exact hfreed

theorem freeBlock_moves (b : BlockNo) (h : Moves still s z) : Moves still (freeBlock b s) z :=
  clearNoSpace_moves (emitAll_moves _ (by simp) (releaseBlock_moves b h))

theorem freeFetching_moves (p : Pos) (h : Moves still s z) : Moves still (freeFetching p s) z :=
  foldl_moves (fun s b => freeBlock_moves b (Moves.refl s)) _ h

theorem fetchFails_moves (p : Pos) (g : Group) (b : BlockNo) (addr : Nat) (h : Moves still s z) :
    Moves still (fetchFails p g b addr s) z := by
  refine clearNoSpace_moves (emitAll_moves _ (fun x hx => ?_) (modGroup_moves _ _ _ (fun _ => rfl)
    (releaseBlock_moves b (recordFault_moves _ _ _ _ _ h))))
  rcases List.mem_append.mp hx with hx | hx
  · obtain ⟨w, -, rfl⟩ := List.mem_map.mp hx
    simp
  · exact holdNotices_fit p x hx

/-- R81: a row is written to a block that is not FREE. -/
theorem writeRow_moves {b : BlockNo} (g : Group) (m : Nat) (w0 w1 w2 w3 : Word) (hb : (blockOf s b).state ≠ .free)
    (h : Moves still s z) : Moves still (writeRow b g m w0 w1 w2 w3 s) z :=
  modBlock_moves b _ Iff.rfl rfl (fun _ hf => absurd hf hb) id h

theorem becomeLoaded_moves {p : Pos} {b : BlockNo} (hb : (blockOf s b).state ≠ .free) (h : Moves still s z) :
    Moves still (becomeLoaded p b s) z := by
  refine clearNoSpace_moves (emitAll_moves _ (fun x hx => ?_)
    (modBlock_moves b _ ⟨nofun, fun hf => absurd hf hb⟩ rfl (fun _ hf => absurd hf hb) id h))
  rcases List.mem_append.mp hx with hx | hx
  · obtain ⟨w, -, rfl⟩ := List.mem_map.mp hx
    simp
  · exact holdNotices_fit p x hx

theorem takeFetchWord_moves {p : Pos} {g : Group} {b : BlockNo} (w : Word) (hb : (blockOf s b).state ≠ .free)
    (h : Moves still s z) : Moves still (takeFetchWord p g b w s) z := by
  unfold takeFetchWord
  split
  · rename_i m e w0 w1 w2 _ _ _
    have hrow : (blockOf (writeRow b g m w0 w1 w2 w s) b).state ≠ .free := by
      unfold writeRow
      rw [blockOf_modBlock, if_pos rfl]
      exact hb
    have hwritten := writeRow_moves g m w0 w1 w2 w hb h
    dsimp only
    split
    · exact becomeLoaded_moves hrow hwritten
    · exact modBlock_plain _ _ (fun _ => rfl) (fun _ => rfl) (fun _ => rfl) (fun _ => id) hwritten
  · exact modBlock_plain _ _ (fun _ => rfl) (fun _ => rfl) (fun _ => rfl) (fun _ => id) h
  · exact h

theorem fetchEnd_moves (p : Pos) (g : Group) (b : BlockNo) (addr : Nat) (out : LineOutcome) (data : Option Word)
    (h : Moves still s z) : Moves still (fetchEnd p g b addr out data s) z := by
  unfold fetchEnd
  split
  · rename_i hw
    have hb : (blockOf s b).state ≠ .free := by
      simp only [wordWanted, Bool.and_eq_true, decide_eq_true_eq] at hw
      rw [hw.1.1]
      nofun
    split
    · exact offerFetch_moves _ (takeFetchWord_moves _ hb h)
    · exact offerFetch_moves _ h
    · exact fetchFails_moves _ _ _ _ h
    · exact fetchFails_moves _ _ _ _ h
  · exact h

/-! ## The blocks of a released position -/

theorem notePhase_blocks (o : Offer) (s : State) : (notePhase o s).binding = s.binding := by
  unfold notePhase
  split <;> rfl

theorem makeOffer_blocks (o : Offer) (s : State) : (makeOffer o s).binding = s.binding := by
  unfold makeOffer
  split
  · unfold grantLine
    split
    · rfl
    · split
      · exact notePhase_blocks _ _
      · rfl
  · rfl

theorem offerFetch_blocks (p : Pos) (s : State) : (offerFetch p s).binding = s.binding := by
  unfold offerFetch
  split
  · rfl
  · split
    · rfl
    · exact makeOffer_blocks _ _

theorem blockOf_freeBlock (b c : BlockNo) (s : State) : blockOf (freeBlock b s) c = if c = b then {} else blockOf s c := by
  have hrelease : (releaseBlock b s).binding = (blockFreed b s).binding := by
    unfold releaseBlock blockFreed
    cases (blockOf s b).owner with
    | none => rfl
    | some o => exact offerFetch_blocks _ _
  have hclear : ∀ u : State, (clearNoSpace u).binding.blocks = u.binding.blocks := fun u => by
    unfold clearNoSpace
    split <;> rfl
  rw [← blockOf_blockFreed]
  show (clearNoSpace _).binding.blocks.get c = (blockFreed b s).binding.blocks.get c
  rw [hclear, ← hrelease]
  rfl

theorem blockOf_freeBlocks (bs : List BlockNo) (c : BlockNo) (s : State) :
    blockOf (bs.foldl (fun s b => freeBlock b s) s) c = if c ∈ bs then {} else blockOf s c := by
  induction bs generalizing s with
  | nil => exact (if_neg List.not_mem_nil).symm
  | cons b bs ih =>
    rw [List.foldl_cons, ih, blockOf_freeBlock]
    by_cases h : c = b
    · simp [h]
    · simp [h]

/-- R176: no block is left with an owner of p. -/
theorem resetBinding_moves (p : Pos) (h : Moves still s z) : Moves still (resetBinding p s) z := by
  have hfreed := foldl_moves (fun s b => freeBlock_moves b (Moves.refl s)) (ownedBlocks s p fun _ => true) h
  have hgone : ∀ c g, (blockOf ((ownedBlocks s p fun _ => true).foldl (fun s b => freeBlock b s) s) c).owner ≠ some (p, g) := by
    intro c g
    rw [blockOf_freeBlocks]
    split
    · nofun
    · rename_i hc
      intro ho
      refine hc (List.mem_filter.mpr ⟨mem_allBlocks c, ?_⟩)
      rw [ho]
      simp
  unfold resetBinding
  generalize (ownedBlocks s p fun _ => true).foldl (fun s b => freeBlock b s) s = u at hfreed hgone
  refine modBinding_moves _ (fun w => ?_) id hfreed
  have hgroup : ∀ q g, groupRec (modBinding (fun x => { x with groups := x.groups.put p (Tab.fill {}) }) u) q g =
      if q = p then {} else groupRec u q g := fun q g => by
    show ((u.binding.groups.put p (Tab.fill {})).get q).get g = _
    rw [Tab.get_put]
    split
    · exact Tab.get_fill _ _
    · rfl
  refine ⟨w.free, fun c hc => ?_, fun q g c hc => ?_⟩
  · obtain ⟨q, g, hown, hname⟩ := w.owned c hc
    refine ⟨q, g, hown, ?_⟩
    rw [hgroup, if_neg fun e => hgone c g (by rw [← e]; exact hown)]
    exact hname
  · rw [hgroup] at hc
    split at hc
    · cases hc
    · exact w.named q g c hc

/-! ## Pinning -/

/-- R90: a block is pinned while fewer than 12 are. -/
theorem pinBlock_moves {b : BlockNo} (hp : (allBlocks.filter fun c => (blockOf s c).pinned).length < 12) (h : Moves still s z) :
    Moves still (modBlock b (fun x => { x with pinned := true }) s) z := by
  have hblock : ∀ c, blockOf (modBlock b (fun x => { x with pinned := true }) s) c =
      if c = b then { blockOf s b with pinned := true } else blockOf s c := blockOf_modBlock b _ s
  refine binding_moves ⟨_, rfl⟩ (fun w => ?_) (fun _ => ?_) h
  · have hstate : ∀ c, (blockOf (modBlock b (fun x => { x with pinned := true }) s) c).state = (blockOf s c).state
        ∧ (blockOf (modBlock b (fun x => { x with pinned := true }) s) c).owner = (blockOf s c).owner
        ∧ (blockOf (modBlock b (fun x => { x with pinned := true }) s) c).rows = (blockOf s c).rows := fun c => by
      rw [hblock]
      split
      · rename_i e; rw [e]; exact ⟨rfl, rfl, rfl⟩
      · exact ⟨rfl, rfl, rfl⟩
    refine ⟨fun c hc => ?_, fun c hc => ?_, fun q g c hc => (hstate c).2.1.trans (w.named q g c hc)⟩
    · obtain ⟨h1, h2, h3⟩ := hstate c
      obtain ⟨hown, hrow⟩ := w.free c (h1.symm.trans hc)
      exact ⟨h2.trans hown, fun m => by rw [h3]; exact hrow m⟩
    · obtain ⟨h1, h2, -⟩ := hstate c
      obtain ⟨q, g, hown, hname⟩ := w.owned c (fun hf => hc (h1.trans hf))
      exact ⟨q, g, h2.trans hown, hname⟩
  · have hle := pinned_length_succ (s := s) (t := modBlock b (fun x => { x with pinned := true }) s) (b := b) fun c hc => by
      rw [hblock] at hc
      split at hc
      · rename_i e; exact Or.inr e
      · exact Or.inl hc
    exact hle.trans hp

theorem pinGroup_moves (p : Pos) (g : Group) (h : Moves still s z) : Moves still (pinGroup p g s).2 z := by
  unfold pinGroup
  split
  · exact h
  · split
    · exact h
    · split
      · split
        · exact h
        · split
          · exact h
          · rename_i hlim
            exact pinBlock_moves (not_le.mp hlim) h
      · rename_i hg
        split
        · exact h
        · rename_i hlim
          have hclaim := claim_moves (pin := true) none none hg (fun _ => not_le.mp hlim) h
          split
          · rename_i e; rw [e] at hclaim; exact hclaim
          · rename_i e; rw [e] at hclaim; exact hclaim

theorem unpinGroup_moves (p : Pos) (g : Group) (h : Moves still s z) : Moves still (unpinGroup p g s) z := by
  unfold unpinGroup
  split
  · split
    · exact clearNoSpace_moves (modBlock_plain _ _ (fun _ => rfl) (fun _ => rfl) (fun _ => rfl) nofun h)
    · exact h
  · exact h

end Sys2Proof.Machine
end

section
/-!
The Load Check Unit moves no position and leaves the Binding Store to a lookup; a Contributor List names a function once (R132).
-/
namespace Sys2Proof.Machine

variable {s t z : State} {still : Reach}

/-- A circuit record changed beside its list. -/
theorem modCircuit_plain (k : LineNo) (f : Circuit → Circuit) (hf : ∀ c, (f c).contributors = c.contributors)
    (h : Moves still s z) : Moves still (modCircuit k f s) z :=
  modCircuit_moves k f (fun w => by rw [hf]; exact w) h

theorem outcomeWrites_fit (s : State) (k : LineNo) (o : CheckOutcome) : ∀ x ∈ outcomeWrites s k o, x.fits still = true := by
  unfold outcomeWrites
  split <;> simp [↓List.forall_mem_append, ↓List.forall_mem_map]

theorem setExQueue_moves (q : List QueueEntry) (h : Moves still s z) : Moves still (setExQueue q s) z := h.step rfl

theorem setPending_moves (p : Pos) (fs : List Code) (h : Moves still s z) : Moves still (setPending p fs s) z := h.step rfl

theorem setRebuild_moves (r : Option Rebuild) (h : Moves still s z) : Moves still (setRebuild r s) z := h.step rfl

theorem setSlot_moves (x : Option Slot) (h : Moves still s z) : Moves still (setSlot x s) z := h.step rfl

theorem modRebuild_moves (f : Rebuild → Rebuild) (h : Moves still s z) : Moves still (modRebuild f s) z := h.step rfl

theorem changeRule_moves (k : LineNo) (exercise : Bool) (h : Moves still s z) : Moves still (changeRule k exercise s) z := by
  unfold changeRule
  exact emitAll_moves _ (by split <;> simp [↓List.forall_mem_append, ↓List.forall_mem_map]) (modCircuit_plain k _ (fun _ => rfl) h)

theorem insertContributor_perm (c : Contributor) (cs : List Contributor) : (insertContributor c cs).Perm (c :: cs) := by
  induction cs with
  | nil => exact List.Perm.refl _
  | cons d ds ih =>
    unfold insertContributor
    split
    · exact List.Perm.refl _
    · exact (ih.cons d).trans (List.Perm.swap c d ds)

/-- R132, R133: an entry added is of a function the list does not hold. -/
theorem addContributor_moves {k : LineNo} {n : Contributor} (hn : holdsContributor s k n.pos n.code = false)
    (h : Moves still s z) :
    Moves still (modCircuit k (fun c => { c with contributors := insertContributor n c.contributors }) s) z := by
  refine modCircuit_moves k _ (fun w => ?_) h
  refine (((insertContributor_perm n _).map _).nodup_iff).mpr (List.nodup_cons.mpr ⟨fun hm => ?_, w⟩)
  obtain ⟨c, hc, he⟩ := List.mem_map.mp hm
  have hheld := List.any_eq_false.mp hn c hc
  simp only [Prod.mk.injEq] at he
  simp [he.1, he.2] at hheld

theorem reportOutcome_moves (k : LineNo) (o : CheckOutcome) (h : Moves still s z) : Moves still (reportOutcome k o s) z := by
  unfold reportOutcome
  with_reducible repeat' first
    | exact h | apply emitAll_moves | exact outcomeWrites_fit _ _ _ | apply modCircuit_plain | (simp; done) | split

theorem takeEvaluation_moves (k : LineNo) (o : CheckOutcome) (h : Moves still s z) : Moves still (takeEvaluation k o s) z := by
  unfold takeEvaluation
  with_reducible repeat' first
    | exact h | apply modCircuit_plain | apply emit_moves | apply reportOutcome_moves | dsimp only | (simp; done)
    | split

theorem takeSample_moves (k : LineNo) (code : Nat) (h : Moves still s z) : Moves still (takeSample k code s) z := by
  unfold takeSample
  split
  · exact h
  · dsimp only
    split
    · rename_i hl
      exact modCircuit_plain k _ (fun _ => rfl) h
    · exact takeEvaluation_moves _ _ (modCircuit_plain k _ (fun _ => rfl) h)

theorem takeTrip_moves (k : LineNo) (h : Moves still s z) : Moves still (takeTrip k s) z := by
  unfold takeTrip
  with_reducible repeat' first
    | exact h | refine emitAll_moves _ (List.forall_mem_append.mpr ⟨outcomeWrites_fit _ _ _, ?_⟩) ?_ | apply modCircuit_plain | dsimp only | (simp; done) | split

theorem windowJoin_moves (k : LineNo) (opening : Bool) (p : Pos) (f : Code) (h : Moves still s z) :
    Moves still (windowJoin k opening p f s) z := by
  unfold windowJoin
  with_reducible repeat' first
    | exact h | apply emit_moves | (simp; done) | split

theorem noteTurnedAway_moves (k : LineNo) (h : Moves still s z) : Moves still (noteTurnedAway k s) z := modRebuild_moves _ h

theorem fileContributor_moves (p : Pos) (i : WireItem) (h : Moves still s z) : Moves still (fileContributor p i s) z := by
  unfold fileContributor
  dsimp only
  split
  · exact h
  · rename_i hn
    split
    · exact changeRule_moves _ _ (windowJoin_moves _ _ _ _ (addContributor_moves (Bool.eq_false_iff.mpr hn) h))
    · split
      · exact noteTurnedAway_moves _ h
      · exact noteTurnedAway_moves _ (changeRule_moves _ _ (modCircuit_plain _ _ (fun _ => rfl) h))

theorem makeRebuildPending_moves (k : LineNo) (h : Moves still s z) : Moves still (makeRebuildPending k s) z := by
  unfold makeRebuildPending
  with_reducible repeat' first
    | exact h | apply modCircuit_plain | (simp; done) | split

theorem rebuildOnEntry_moves (h : Moves still s z) : Moves still (rebuildOnEntry s) z := by
  unfold rebuildOnEntry
  with_reducible repeat' first
    | exact h | apply emit_moves | apply makeRebuildPending_moves | refine foldl_moves (fun _ _ => ?_) _ ?_
    | exact Moves.refl _ | (simp; done)

theorem startRebuild_moves (h : Moves still s z) : Moves still (startRebuild s) z := by
  unfold startRebuild
  with_reducible repeat' first
    | exact h | apply emit_moves | apply setRebuild_moves | apply modCircuit_plain | (simp; done) | split

theorem endRebuild_moves (r : Rebuild) (h : Moves still s z) : Moves still (endRebuild r s) z := by
  unfold endRebuild
  with_reducible repeat' first
    | exact h | apply setRebuild_moves | apply emit_moves | apply changeRule_moves | apply modCircuit_plain | dsimp only
    | (simp; done) | split

theorem rebuildRows_moves (k : LineNo) (p : Pos) (g : Group) (b : BlockNo) (h : Moves still s z) :
    Moves still (rebuildRows k p g b s) z := by
  unfold rebuildRows
  refine foldl_moves (fun a m => ?_) _ h
  split
  · split
    · exact fileContributor_moves _ _ (Moves.refl _)
    · exact Moves.refl _
  · exact Moves.refl _

theorem rebuildOnward_moves (h : Moves still s z) : Moves still (rebuildOnward s) z :=
  emit_moves _ (by simp) (modRebuild_moves _ h)

theorem rebuildStep_moves (h : Moves still s z) : Moves still (rebuildStep s) z := by
  unfold rebuildStep
  with_reducible repeat' first
    | exact h | apply lookupGroup_moves | apply rebuildRows_moves | apply rebuildOnward_moves | apply modRebuild_moves
    | apply endRebuild_moves | dsimp only | (simp; done) | split
    | (rename_i e; have e' := snd_eq e; subst e'; clear e) | (rename_i e; clear e)

theorem queueRequest_moves (t : Target) (who : Option Pos) (h : Moves still s z) : Moves still (queueRequest t who s).2 z := by
  unfold queueRequest
  dsimp only
  split
  · exact setExQueue_moves _ h
  · split
    · rename_i hl
      have hc : Moves still (setExQueue (s.check.queue ++ [{ target := t, requesters := joinSet who (Tab.fill false) }]) s) z :=
        setExQueue_moves _ h
      dsimp only
      split
      · exact emit_moves _ (by simp) hc
      · exact hc
    · exact h

theorem changeRequest_moves (k : LineNo) (h : Moves still s z) : Moves still (changeRequest k s) z := by
  unfold changeRequest
  with_reducible repeat' first
    | exact h | apply queueRequest_moves | apply modCircuit_plain | (simp; done) | split
    | (rename_i e; have e' := snd_eq e; subst e'; clear e) | (rename_i e; clear e)

theorem queueLeft_moves (h : Moves still s z) : Moves still (queueLeft s) z := by
  unfold queueLeft
  with_reducible repeat' first
    | exact h | apply emitAll_moves | apply queueRequest_moves | apply modCircuit_plain
    | refine foldl_moves (fun _ _ => ?_) _ ?_ | exact Moves.refl _ | (simp; done) | split

theorem withdrawReading_moves (p : Pos) (src : CheckSource) (h : Moves still s z) : Moves still (withdrawReading p src s) z := by
  unfold withdrawReading
  with_reducible repeat' first
    | exact h | apply withdrawWhere_moves | split

theorem finishCheck_moves (p : Pos) (src : CheckSource) (h : Moves still s z) : Moves still (finishCheck p src s) z := by
  unfold finishCheck
  with_reducible repeat' first
    | exact h | apply emitAll_moves | apply withdrawReading_moves | apply setNodeCheck_moves | (simp; done)

theorem startCheck_moves (p : Pos) (src : CheckSource) (f : Code) (h : Moves still s z) :
    Moves still (startCheck p src f s) z := by
  unfold startCheck
  with_reducible repeat' first
    | exact h | apply emit_moves | apply setNodeCheck_moves | (simp; done)

theorem nodeLampLookup_moves (p : Pos) (src : CheckSource) (h : Moves still s z) : Moves still (nodeLampLookup p src s) z := by
  unfold nodeLampLookup
  with_reducible repeat' first
    | exact h | apply lookupGroup_moves | apply setNodeCheck_moves | apply finishCheck_moves | apply emit_moves
    | (simp; done) | split | (rename_i e; have e' := snd_eq e; subst e'; clear e) | (rename_i e; clear e)

theorem deliveredToCheck_moves (p : Pos) (f : Code) (src : CheckSource) (h : Moves still s z) :
    Moves still (deliveredToCheck p f src s) z := by
  unfold deliveredToCheck
  with_reducible repeat' first
    | exact h | apply setNodeCheck_moves | apply emit_moves | apply withdrawReading_moves | (simp; done) | split

theorem startReading_moves (p : Pos) (src : CheckSource) (h : Moves still s z) : Moves still (startReading p src s) z := by
  unfold startReading
  with_reducible repeat' first
    | exact h | apply emit_moves | apply setNodeCheck_moves | (simp; done) | split

theorem nodeLampOffer_moves (p : Pos) (h : Moves still s z) : Moves still (nodeLampOffer p s) z := by
  unfold nodeLampOffer
  dsimp only
  with_reducible repeat' first
    | exact h | apply emit_moves | refine makeOffer_moves _ (Offer.fits_of_tame rfl) ?_ | (simp; done) | split

theorem countReading_moves (p : Pos) (src : CheckSource) (c2 : NodeLampCheck) (m : Nat) (h : Moves still s z) :
    Moves still (countReading p src c2 m s) z := by
  unfold countReading
  dsimp only
  split
  · exact finishCheck_moves _ _ (emit_moves _ (by simp) h)
  · exact setNodeCheck_moves _ _ _ h

theorem readingEnd_moves (p : Pos) (src : CheckSource) (f : Code) (step : ReadingStep) (out : LineOutcome)
    (data : Option Word) (h : Moves still s z) : Moves still (readingEnd p src f step out data s) z := by
  unfold readingEnd
  with_reducible repeat' first
    | exact h | apply emit_moves | apply nodeLampOffer_moves | apply setNodeCheck_moves | apply countReading_moves
    | apply finishCheck_moves | apply recordFault_moves | (simp; done) | split

theorem expireCheck_moves (p : Pos) (src : CheckSource) (h : Moves still s z) : Moves still (expireCheck p src s) z := by
  unfold expireCheck
  with_reducible repeat' first
    | exact h | apply finishCheck_moves | apply emit_moves | (simp; done) | split

theorem nodeLampEnded_moves (p : Pos) (src : CheckSource) (h : Moves still s z) : Moves still (nodeLampEnded p src s) z := by
  unfold nodeLampEnded
  have ht : ∀ t, Moves still t z → Moves still
      (if (t.check.oppChecks.get p).isSome || !inService t p then t
       else
         match nextPending t p (t.check.oppPending.get p) with
         | some (f, fs) => startCheck p .opportunistic f (setPending p fs t)
         | none => setPending p [] t) z := by
    intro t h
    split
    · exact h
    · split
      · rename_i hn
        exact startCheck_moves _ _ _ (setPending_moves _ _ h)
      · exact setPending_moves _ _ h
  refine ht _ ?_
  split
  · split
    · split
      · exact emit_moves _ (by simp) h
      · exact h
    · exact h
  · exact h

theorem askOpportunistic_moves (p : Pos) (f : Code) (h : Moves still s z) : Moves still (askOpportunistic p f s) z := by
  unfold askOpportunistic
  split
  · split
    · exact startCheck_moves _ _ _ h
    · dsimp only
      split
      · exact h
      · rename_i hl
        simp only [Bool.or_eq_true, decide_eq_true_eq, not_or, not_le] at hl
        exact setPending_moves _ _ h
  · exact h

theorem dropChecks_moves (p : Pos) (h : Moves still s z) : Moves still (dropChecks p s) z := by
  have hc : Moves still (setPending p [] (setNodeCheck p .opportunistic none (withdrawReading p .opportunistic
      (setNodeCheck p .slot none (withdrawReading p .slot s))))) z :=
    setPending_moves _ _ (setNodeCheck_moves _ _ _ (withdrawReading_moves _ _
      (setNodeCheck_moves _ _ _ (withdrawReading_moves _ _ h))))
  unfold dropChecks
  dsimp only
  split
  · exact emit_moves _ (by simp) hc
  · exact hc

theorem closeWindow_moves (t : Target) (h : Moves still s z) : Moves still (closeWindow t s) z := by
  unfold closeWindow
  refine emit_moves _ (by simp) ?_
  split
  · exact closeLineWindow_moves _ h
  · exact h

theorem endSlot_moves (h : Moves still s z) : Moves still (endSlot s) z := by
  unfold endSlot
  split
  · exact h
  · dsimp only
    rename_i sl _
    have hc : Moves still (match sl.entry.target with
        | .lamp p _ => emit (.nodeLampOffer p) (setNodeCheck p .slot none (withdrawReading p .slot (setSlot none s)))
        | .circuit _ => setSlot none s) z := by
      split
      · exact emit_moves _ (by simp) (setNodeCheck_moves _ _ _ (withdrawReading_moves _ _ (setSlot_moves _ h)))
      · exact setSlot_moves _ h
    refine emit_moves _ (by simp) ?_
    split
    · exact closeWindow_moves _ hc
    · exact hc

theorem slotEnded_moves (t : Target) (h : Moves still s z) : Moves still (slotEnded t s) z := by
  unfold slotEnded
  with_reducible repeat' first
    | exact h | apply endSlot_moves | split

theorem windowToDriven_moves (h : Moves still s z) : Moves still (windowToDriven s) z := by
  unfold windowToDriven
  with_reducible repeat' first
    | exact h | apply closeWindow_moves | apply setSlot_moves | split

theorem takeEntry_moves (e : QueueEntry) (h : Moves still s z) : Moves still (takeEntry e s) z := by
  unfold takeEntry
  with_reducible repeat' first
    | exact h | apply modCircuit_plain | apply setSlot_moves | apply emit_moves | apply openLineWindow_moves
    | apply emitAll_moves | apply startCheck_moves | dsimp only | (simp; done) | split

theorem slotTest_moves (h : Moves still s z) : Moves still (slotTest s) z := by
  unfold slotTest
  split
  · split
    · rename_i e es he
      exact emit_moves _ (by simp) (takeEntry_moves _ (setExQueue_moves _ h))
    · exact h
  · exact h

theorem expireSlot_moves (h : Moves still s z) : Moves still (expireSlot s) z := by
  unfold expireSlot
  with_reducible repeat' first
    | exact h | apply emit_moves | apply slotEnded_moves | apply reportOutcome_moves | apply emitAll_moves
    | apply expireCheck_moves | (simp [↓List.forall_mem_map]; done) | split

theorem motionToSlot_moves (h : Moves still s z) : Moves still (motionToSlot s) z := by
  unfold motionToSlot
  with_reducible repeat' first
    | exact h | apply slotTest_moves | apply emit_moves | apply slotEnded_moves | apply emitAll_moves | (simp [↓List.forall_mem_map]; done)
    | split

theorem suspendChecks_moves (h : Moves still s z) : Moves still (suspendChecks s) z := by
  unfold suspendChecks
  refine emit_moves _ (by simp) (setRebuild_moves _ (endSlot_moves (emitAll_moves _
    (by simp [↓List.forall_mem_append, ↓List.forall_mem_flatMap, ↓List.forall_mem_map])
    (setExQueue_moves _ ?_))))
  refine foldl_moves (fun s k => ?_) _ h
  exact modCircuit_plain k _ (fun _ => rfl) (Moves.refl s)

theorem windowLeave_moves (p : Pos) (k : LineNo) (h : Moves still s z) : Moves still (windowLeave p k s) z :=
  foldl_moves (fun s c => windowJoin_moves _ _ _ _ (Moves.refl s)) _ h

theorem removeFromCircuit_moves (p : Pos) (k : LineNo) (h : Moves still s z) : Moves still (removeFromCircuit p k s) z := by
  unfold removeFromCircuit
  split
  · exact makeRebuildPending_moves _ (changeRule_moves _ _ (modCircuit_moves _ _
      (fun w => (List.filter_sublist.map _).nodup w) (windowLeave_moves _ _ h)))
  · exact h

theorem removeFromSlot_moves (p : Pos) (h : Moves still s z) : Moves still (removeFromSlot p s) z := by
  unfold removeFromSlot
  with_reducible repeat' first
    | exact h | apply setSlot_moves | apply endSlot_moves | split

theorem removeEntries_moves (p : Pos) (h : Moves still s z) : Moves still (removeEntries p s) z :=
  emitAll_moves _ (by simp [↓List.forall_mem_map]) (setExQueue_moves _ h)

theorem removePosition_moves (p : Pos) (h : Moves still s z) : Moves still (removePosition p s) z :=
  emitAll_moves _ (by simp) (foldl_moves (fun s k => removeFromCircuit_moves _ _ (Moves.refl s)) _ h)

theorem recheck_moves (t : Target) (who : Option Pos) (h : Moves still s z) : Moves still (recheck t who s).2 z := by
  unfold recheck
  with_reducible repeat' first
    | exact h | apply queueRequest_moves | dsimp only | split | (rename_i e; have e' := snd_eq e; subst e'; clear e)
    | (rename_i e; clear e)

end Sys2Proof.Machine
end

section
/-!
The Delivery Unit moves no position and leaves the Binding Store to a translation; it owes stops of ACTUATORs alone, each once
(R109), and starts watches at them alone (R155).
-/
namespace Sys2Proof.Machine

variable {s t z : State} {still : Reach}

theorem setResult_moves (p : Pos) (f : Code) (r : CheckResult) (h : Moves still s z) : Moves still (setResult p f r s) z :=
  modEntry_unwatched _ _ _ (fun _ => Or.inl rfl) h

theorem writeResult_moves (p : Pos) (f : Code) (r : CheckResult) (h : Moves still s z) :
    Moves still (writeResult p f r s) z := by
  unfold writeResult
  with_reducible repeat' first
    | exact h | apply emitAll_moves | apply setResult_moves | (simp; done) | split

theorem deferUnchecked_moves (p : Pos) (f : Code) (h : Moves still s z) : Moves still (deferUnchecked p f s) z := by
  unfold deferUnchecked
  with_reducible repeat' first
    | exact h | apply writeResult_moves | split

theorem withdrawWatch_moves (p : Pos) (f : Code) (h : Moves still s z) : Moves still (withdrawWatch p f s) z :=
  withdrawWhere_moves _ h

theorem endWatch_moves (p : Pos) (f : Code) (h : Moves still s z) : Moves still (endWatch p f s) z := by
  unfold endWatch
  with_reducible repeat' first
    | exact h | apply withdrawWatch_moves | apply modEntry_unwatched | with_unfolding_all exact fun _ => Or.inl rfl | with_unfolding_all exact fun _ => Or.inr rfl | split

/-- R155: a watch starts at an ACTUATOR. -/
theorem startWatch_moves (p : Pos) {f : Code} (interval : Nat) (hk : kindOf f = .actuator) (h : Moves still s z) :
    Moves still (startWatch p f interval s) z := modEntry_moves p f _ (fun _ _ => Or.inl hk) (withdrawWatch_moves p f h)

theorem endTimeoutHold_moves (p : Pos) (f : Code) (h : Moves still s z) : Moves still (endTimeoutHold p f s) z := by
  unfold endTimeoutHold
  with_reducible repeat' first
    | exact h | apply modEntry_unwatched | with_unfolding_all exact fun _ => Or.inl rfl | with_unfolding_all exact fun _ => Or.inr rfl | apply emit_moves | apply writeResult_moves | dsimp only | (simp; done) | split

theorem markNotFitted_moves (p : Pos) (f : Code) (h : Moves still s z) : Moves still (markNotFitted p f s) z := by
  unfold markNotFitted
  with_reducible repeat' first
    | exact h | apply withdrawWhere_moves | apply modEntry_unwatched | with_unfolding_all exact fun _ => Or.inl rfl | with_unfolding_all exact fun _ => Or.inr rfl | split

theorem leaveSchedule_moves (p : Pos) (f : Code) (h : Moves still s z) : Moves still (leaveSchedule p f s) z := by
  unfold leaveSchedule
  with_reducible repeat' first
    | exact h | apply modEntry_unwatched | with_unfolding_all exact fun _ => Or.inl rfl | with_unfolding_all exact fun _ => Or.inr rfl | split

theorem pointUnknown_moves (p : Pos) (f : Code) (k : Option AccessKind) (point : Nat) (h : Moves still s z) :
    Moves still (pointUnknown p f k point s) z := by
  unfold pointUnknown
  with_reducible repeat' first
    | exact h | apply markNotFitted_moves | apply recordFault_moves | split

theorem setPendingOverride_moves (o : Option PendingOverride) (h : Moves still s z) :
    Moves still (setPendingOverride o s) z := by
  unfold setPendingOverride; exact modDelivery_plain _ rfl rfl h

theorem setPendingRead_moves (r : Option PendingRead) (h : Moves still s z) : Moves still (setPendingRead r s) z := by
  unfold setPendingRead; exact modDelivery_plain _ rfl rfl h

theorem replyOverride_moves (f : PendingOverride → Bool) (r : ResultCode) (h : Moves still s z) :
    Moves still (replyOverride f r s) z := by
  unfold replyOverride
  with_reducible repeat' first
    | exact h | apply answer_moves | apply setPendingOverride_moves | split

theorem replyRead_moves (f : PendingRead → Bool) (r : ResultCode) (bytes : List Byte) (h : Moves still s z) :
    Moves still (replyRead f r bytes s) z := by
  unfold replyRead
  with_reducible repeat' first
    | exact h | apply answer_moves | apply setPendingRead_moves | split

theorem targetChanged_moves (p : Pos) (f : Code) (h : Moves still s z) : Moves still (targetChanged p f s) z := by
  unfold targetChanged
  with_reducible repeat' first
    | exact h | apply endWatch_moves | apply modEntry_unwatched | with_unfolding_all exact fun _ => Or.inl rfl | with_unfolding_all exact fun _ => Or.inr rfl | split

theorem retarget_moves (p : Pos) (f : Code) (old : Option Nat) (h : Moves still s z) : Moves still (retarget p f old s) z := by
  unfold retarget
  with_reducible repeat' first
    | exact h | apply targetChanged_moves | split

theorem rescan_moves (p : Pos) (h : Moves still s z) : Moves still (rescan p s) z := by
  unfold rescan
  with_reducible repeat' first
    | exact h | apply emitAll_moves | exact holdNotices_fit _ | (simp; done) | split

theorem dropOverride_moves (p : Pos) (f : Code) (h : Moves still s z) : Moves still (dropOverride p f s) z := by
  unfold dropOverride
  with_reducible repeat' first
    | exact h | apply emit_moves | apply replyOverride_moves | apply modEntry_unwatched | with_unfolding_all exact fun _ => Or.inl rfl | with_unfolding_all exact fun _ => Or.inr rfl | (simp; done) | split

theorem changeAt_moves (f : Code) (old : Nat) (p : Pos) (h : Moves still s z) : Moves still (changeAt f old s p) z := by
  unfold changeAt
  with_reducible repeat' first
    | exact h | apply rescan_moves | apply endTimeoutHold_moves | apply retarget_moves | apply dropOverride_moves
    | dsimp only | split

theorem commandChanged_moves (f : Code) (old : Nat) (h : Moves still s z) : Moves still (commandChanged f old s) z := by
  unfold commandChanged
  with_reducible repeat' first
    | exact h | apply changeAt_moves | refine foldl_moves (fun _ _ => ?_) _ ?_ | exact Moves.refl _

theorem removeOverride_moves (p : Pos) (f : Code) (h : Moves still s z) : Moves still (removeOverride p f s) z := by
  unfold removeOverride
  with_reducible repeat' first
    | exact h | apply retarget_moves | apply dropOverride_moves

theorem clearOverrideAt_moves (p : Pos) (f : Code) (h : Moves still s z) : Moves still (clearOverrideAt p f s) z := by
  unfold clearOverrideAt
  with_reducible repeat' first
    | exact h | apply rescan_moves | apply endTimeoutHold_moves | apply removeOverride_moves | split

theorem writeOverride_moves (p : Pos) (f : Code) (v : Nat) (h : Moves still s z) : Moves still (writeOverride p f v s) z := by
  unfold writeOverride
  with_reducible repeat' first
    | exact h | apply endTimeoutHold_moves | apply retarget_moves | apply modEntry_unwatched | with_unfolding_all exact fun _ => Or.inl rfl | with_unfolding_all exact fun _ => Or.inr rfl

theorem becomeDelivered_moves (p : Pos) (f : Code) (v : Nat) (h : Moves still s z) :
    Moves still (becomeDelivered p f v s) z := modEntry_unwatched p f _ (fun _ => Or.inl rfl) h

theorem noteOffered_moves (p : Pos) (second : Bool) (f : Code) (h : Moves still s z) :
    Moves still (noteOffered p second f s) z := modDelivery_plain _ rfl rfl h

theorem setOffer_fits (p : Pos) (f : Code) (v : Nat) (k : AccessKind) (r : FnRecord) : (setOffer p f v k r).fits still = true :=
  Offer.fits_of_tame rfl

theorem stopOffer_fits (p : Pos) (f : Code) (point : Nat) : (stopOffer p f point).fits still = true := Offer.fits_of_tame rfl

theorem scheduledOffer_fits (p : Pos) (f : Code) (watch : Bool) (r : FnRecord) : (scheduledOffer p f watch r).fits still = true :=
  Offer.fits_of_tame (by cases watch <;> rfl)

theorem readOffer_fits {p : Pos} {o : Offer} (h : readOffer s p = some o) : o.fits still = true := by
  refine Offer.fits_of_tame ?_
  unfold readOffer at h
  split at h
  · split at h
    · split at h
      · cases h; rfl
      · cases h
    · cases h
  · cases h

theorem deliverOne_moves (p : Pos) (f : Code) (v : Nat) (h : Moves still s z) : Moves still (deliverOne p f v s).2 z := by
  unfold deliverOne
  with_reducible repeat' first
    | exact h | apply translate_moves | apply makeOffer_moves | exact setOffer_fits _ _ _ _ _ | apply noteOffered_moves | apply emit_moves
    | apply replyOverride_moves | apply becomeDelivered_moves | apply modEntry_unwatched | with_unfolding_all exact fun _ => Or.inl rfl | with_unfolding_all exact fun _ => Or.inr rfl | apply markNotFitted_moves
    | dsimp only | (simp; done) | split | (rename_i e; have e' := snd_eq e; subst e'; clear e)
    | (rename_i e; clear e)

theorem scanCodes_moves (p : Pos) (second : Bool) (x0 : List Code) (h : Moves still s z) :
    Moves still (scanCodes p second x0 s) z := by
  induction x0 generalizing s with
  | nil => exact h
  | cons x xs ih =>
    unfold scanCodes
    with_reducible repeat' first
      | exact h | apply ih | apply deliverOne_moves | split | (rename_i e; have e' := snd_eq e; subst e'; clear e)
      | (rename_i e; clear e)

/-- What R109 says of the owed stops of a position. -/
def OwedSound (os : List OwedStop) : Prop :=
  os.length ≤ 64 ∧ (os.map fun o => o.code).Nodup ∧ ∀ o ∈ os, kindOf o.code = .actuator

/-- The owed stops of a position changed with what R109 says of them. -/
theorem modOwed_moves (p : Pos) (g : List OwedStop → List OwedStop)
    (hg : z.Listed → OwedSound (s.delivery.owed.get p) → OwedSound (g (s.delivery.owed.get p))) (h : Moves still s z) :
    Moves still (modOwed p g s) z := by
  have hrun : SameRun (modOwed p g s) s := SameRun.of_records rfl rfl rfl
  refine ⟨fun w => BlocksOwned.of_tables (b := s) rfl rfl (h.owned w), fun w => ?_, fun hk => hrun.trans (h.run hk),
    fun w x hx => Reach.admits_congr (fun _ => hrun) (h.kept w x hx)⟩
  have hs := h.listed w
  refine ⟨hs.watches, { hs.lists with owed := fun q => ?_ }, hs.stops⟩
  show OwedSound ((s.delivery.owed.upd p g).get q)
  rw [Tab.get_upd]
  split
  · exact hg w (hs.lists.owed p)
  · exact hs.lists.owed q

/-- The ACTUATOR codes are 64. -/
theorem actuators_length {fs : List Code} (hn : fs.Nodup) (hk : ∀ f ∈ fs, kindOf f = .actuator) : fs.length ≤ 64 := by
  have hlen : actuatorCodes.length = 64 := by simp [actuatorCodes, allCodes]
  have hall : ∀ f : Code, kindOf f = .actuator → f ∈ actuatorCodes := fun f hf => mem_actuatorCodes.mpr hf
  exact hlen ▸ (hn.subperm fun f hf => hall f (hk f hf)).length_le

/-- R109: an ACTUATOR joins the owed stops once. -/
theorem addOwed_moves (p : Pos) {f : Code} (hk : z.Listed → kindOf f = .actuator) (h : Moves still s z) :
    Moves still (addOwed p f s) z := by
  refine modOwed_moves p _ (fun w hos => ?_) h
  generalize s.delivery.owed.get p = os at hos ⊢
  split
  · exact hos
  · rename_i hn
    obtain ⟨-, hnd, hkind⟩ := hos
    have hnew : f ∉ os.map fun o => o.code := fun hm => by
      obtain ⟨o, ho, he⟩ := List.mem_map.mp hm
      exact hn (List.any_eq_true.mpr ⟨o, ho, decide_eq_true he⟩)
    have hkind' : ∀ g ∈ (os ++ [({ code := f } : OwedStop)]).map fun o => o.code, kindOf g = .actuator := by
      simp only [List.map_append, List.map_cons, List.map_nil, List.forall_mem_append, List.forall_mem_map,
        List.forall_mem_singleton]
      exact ⟨hkind, hk w⟩
    have hnd' : ((os ++ [({ code := f } : OwedStop)]).map fun o => o.code).Nodup := by
      rw [List.map_append]
      exact List.nodup_append.mpr ⟨hnd, List.nodup_singleton f, fun a ha b hb => by
        rw [List.mem_singleton.mp hb]; rintro rfl; exact hnew ha⟩
    refine ⟨?_, hnd', fun o ho => hkind' _ (List.mem_map.mpr ⟨o, ho, rfl⟩)⟩
    have := actuators_length hnd' hkind'
    rwa [List.length_map] at this

theorem dropOwed_moves (p : Pos) (f : Code) (h : Moves still s z) : Moves still (dropOwed p f s) z :=
  modOwed_moves p _ (fun _ hos => ⟨(List.length_filter_le _ _).trans hos.1, (List.filter_sublist.map _).nodup hos.2.1,
    fun o ho => hos.2.2 o (List.mem_of_mem_filter ho)⟩) h

/-- R111: a stop that is owed is held. -/
theorem holdOwed_moves (p : Pos) (g : OwedStop → OwedStop) (hg : ∀ o, (g o).code = o.code) (h : Moves still s z) :
    Moves still (modOwed p (fun os => os.map g) s) z := by
  refine modOwed_moves p _ (fun _ hos => ?_) h
  obtain ⟨hlen, hnd, hkind⟩ := hos
  have hcodes : ((s.delivery.owed.get p).map g).map (fun o => o.code) = (s.delivery.owed.get p).map fun o => o.code := by
    rw [List.map_map]
    exact List.map_congr_left fun o _ => hg o
  refine ⟨by rw [List.length_map]; exact hlen, by rw [hcodes]; exact hnd, fun o ho => ?_⟩
  obtain ⟨x, hx, rfl⟩ := List.mem_map.mp ho
  rw [hg]
  exact hkind x hx

theorem tryStops_moves (p : Pos) (x0 : List Code) (h : Moves still s z) : Moves still (tryStops p x0 s).2 z := by
  induction x0 generalizing s with
  | nil => exact h
  | cons x xs ih =>
    unfold tryStops
    with_reducible repeat' first
      | exact h | apply ih | apply translate_moves | apply makeOffer_moves | exact stopOffer_fits _ _ _ | apply replyOverride_moves
      | apply markNotFitted_moves | apply dropOwed_moves | dsimp only | split
      | (rename_i e; have e' := snd_eq e; subst e'; clear e) | (rename_i e; clear e)

theorem formOffer_moves (p : Pos) (second : Bool) (h : Moves still s z) : Moves still (formOffer p second s) z := by
  unfold formOffer
  with_reducible repeat' first
    | exact h | apply makeOffer_moves | exact readOffer_fits ‹_› | apply scanCodes_moves | apply tryStops_moves | split
    | (rename_i e; have e' := snd_eq e; subst e'; clear e) | (rename_i e; clear e)

theorem reform_moves (p : Pos) (second : Bool) (f : Code) (h : Moves still s z) : Moves still (reform p second f s) z := by
  unfold reform
  with_reducible repeat' first
    | exact h | apply withdraw_moves | apply deliverOne_moves | apply formOffer_moves | dsimp only | split
    | (rename_i e; have e' := snd_eq e; subst e'; clear e) | (rename_i e; clear e)

theorem scan_moves (p : Pos) (second : Bool) (h : Moves still s z) : Moves still (scan p second s) z := by
  unfold scan
  with_reducible repeat' first
    | exact h | apply withdraw_moves | apply formOffer_moves | apply tryStops_moves | apply reform_moves | dsimp only
    | split | (rename_i e; have e' := snd_eq e; subst e'; clear e) | (rename_i e; clear e)

theorem reformWhere_moves (f : Offer → Bool) (h : Moves still s z) : Moves still (reformWhere f s) z := by
  unfold reformWhere
  with_reducible repeat' first
    | exact h | apply reform_moves | refine foldl_moves (fun _ _ => ?_) _ ?_ | exact Moves.refl _ | split

theorem rescanAll_moves (h : Moves still s z) : Moves still (rescanAll s) z := by
  unfold rescanAll
  with_reducible repeat' first
    | exact h | apply rescan_moves | refine foldl_moves (fun _ _ => ?_) _ ?_ | exact Moves.refl _

theorem motionToDelivery_moves (h : Moves still s z) : Moves still (motionToDelivery s) z := by
  unfold motionToDelivery
  with_reducible repeat' first
    | exact h | apply rescanAll_moves | apply reformWhere_moves

theorem takeWindow_moves (opening : Bool) (xs : List (Pos × Code)) (h : Moves still s z) :
    Moves still (takeWindow opening xs s) z := by
  unfold takeWindow
  with_reducible repeat' first
    | exact h | apply targetChanged_moves | apply replyOverride_moves | apply rescanAll_moves | apply reformWhere_moves
    | dsimp only | refine foldl_moves (fun _ _ => ?_) _ ?_ | exact Moves.refl _ | split

/-- The entries changed with every watch kept or ended. -/
theorem modStatus_moves (f : Delivery → Delivery) (hw : ∀ p c, (((f s.delivery).status.get p).get c).watchDeadline =
      (entryOf s p c).watchDeadline ∨ (((f s.delivery).status.get p).get c).watchDeadline = none)
    (ho : ∀ p, ((f s.delivery).owed.get p).Sublist (s.delivery.owed.get p)) (h : Moves still s z) :
    Moves still (modDelivery f s) z :=
  modDelivery_moves f (fun w p c hne => w p c (by
    rcases hw p c with he | he
    · rw [← he]; exact hne
    · exact absurd he hne)) ho h

theorem takePolicyWrite_moves (h : Moves still s z) : Moves still (takePolicyWrite s) z := by
  unfold takePolicyWrite
  refine rescanAll_moves (reformWhere_moves _ (modStatus_moves _ (fun p c => Or.inl ?_) (fun _ => List.Sublist.refl _) h))
  simp only [Tab.get_map]
  rfl

theorem selectedStops_actuator {p : Pos} : ∀ x ∈ selectedStops s p, kindOf x.2 = .actuator := by
  unfold selectedStops
  split
  · intro x hx
    obtain ⟨f, hf, rfl⟩ := List.mem_map.mp hx
    exact mem_actuatorCodes.mp (List.mem_of_mem_filter hf)
  · nofun

theorem foldl_moves_mem {α : Type} {f : State → α → State} (xs : List α) (hf : ∀ x ∈ xs, ∀ s, Moves still (f s x) s) {s c : State}
    (h : Moves still s c) : Moves still (xs.foldl f s) c := by
  induction xs generalizing s with
  | nil => exact h
  | cons x xs ih => exact ih (fun y hy => hf y (List.mem_cons_of_mem x hy)) ((hf x List.mem_cons_self s).trans h)

/-- R109: the stops selected are those of ACTUATORs. -/
theorem motionToPolicy_moves (h : Moves still s z) : Moves still (motionToPolicy s) z := by
  unfold motionToPolicy
  split
  · exact h
  · refine rescanAll_moves (foldl_moves_mem _ (fun x hx u => ?_) h)
    obtain ⟨p, -, hp⟩ := List.mem_flatMap.mp hx
    exact removeOverride_moves _ _ (addOwed_moves _ (fun _ => selectedStops_actuator x hp) (Moves.refl u))

theorem catchUp_moves (p : Pos) (h : Moves still s z) : Moves still (catchUp p s) z := by
  unfold catchUp
  refine emitAll_moves _ (holdNotices_fit p) (modStatus_moves _ (fun q c => Or.inl ?_) (fun _ => List.Sublist.refl _) h)
  simp only [Tab.get_upd]
  split
  · rename_i e
    rw [Tab.get_mapIdx, e]
    rfl
  · rfl

theorem writeData_moves (p : Pos) (f : Code) (w : Word) (h : Moves still s z) : Moves still (writeData p f w s) z := by
  unfold writeData
  with_reducible repeat' first
    | exact h | apply modEntry_unwatched | with_unfolding_all exact fun _ => Or.inl rfl | with_unfolding_all exact fun _ => Or.inr rfl | apply emit_moves | dsimp only | (simp; done) | split

theorem writeReading_moves (p : Pos) (f : Code) (w : Word) (h : Moves still s z) : Moves still (writeReading p f w s) z := by
  unfold writeReading
  with_reducible repeat' first
    | exact h | apply modEntry_unwatched | with_unfolding_all exact fun _ => Or.inl rfl | with_unfolding_all exact fun _ => Or.inr rfl | apply writeData_moves | split

theorem runningReads_moves (p : Pos) (h : Moves still s z) : Moves still (runningReads p s) z := by
  unfold runningReads
  refine emit_moves _ (by simp) (modStatus_moves _ (fun q c => Or.inl ?_) (fun _ => List.Sublist.refl _) h)
  simp only [Tab.get_upd]
  split
  · rename_i e
    rw [Tab.get_mapIdx, e]
    split <;> rfl
  · rfl

theorem tryReads_moves (p : Pos) (x0 : List (Code × (Bool × Time))) (h : Moves still s z) : Moves still (tryReads p x0 s) z := by
  induction x0 generalizing s with
  | nil => exact h
  | cons x xs ih =>
    unfold tryReads
    with_reducible repeat' first
      | exact h | apply ih | apply translate_moves | apply makeOffer_moves | exact scheduledOffer_fits _ _ _ _ | apply leaveSchedule_moves
      | apply markNotFitted_moves | apply modEntry_unwatched | with_unfolding_all exact fun _ => Or.inl rfl | with_unfolding_all exact fun _ => Or.inr rfl | split | (rename_i e; have e' := snd_eq e; subst e'; clear e) | (rename_i e; clear e)

theorem classSix_moves (p : Pos) (h : Moves still s z) : Moves still (classSix p s) z := by
  unfold classSix
  with_reducible repeat' first
    | exact h | apply withdraw_moves | apply tryReads_moves | split

theorem deliveryEnd_moves (p : Pos) (f : Code) (v : Nat) (k : AccessKind) (interval : Nat) (point : Nat)
    (out : LineOutcome) (h : Moves still s z) : Moves still (deliveryEnd p f v k interval point out s) z := by
  unfold deliveryEnd
  split
  · refine emitAll_moves _ (holdNotices_fit p) (emitAll_moves _ (by split <;> simp) (replyOverride_moves _ _ ?_))
    have htaken : Moves still (modEntry p f (fun e => { e with unavailable := false, retryAt := none })
        (becomeDelivered p f v s)) z := modEntry_unwatched p f _ (fun _ => Or.inl rfl) (becomeDelivered_moves p f v h)
    split
    · rename_i hk
      split
      · exact startWatch_moves p interval hk htaken
      · exact endWatch_moves p f htaken
    · exact htaken
  · exact emitAll_moves _ (holdNotices_fit p) (replyOverride_moves _ _ (modEntry_unwatched p f _ (fun _ => Or.inl rfl) h))
  · exact emitAll_moves _ (holdNotices_fit p) (replyOverride_moves _ _ (pointUnknown_moves _ _ _ _ h))
  · exact emitAll_moves _ (holdNotices_fit p) h

theorem stopEnd_moves (p : Pos) (f : Code) (point : Nat) (out : LineOutcome) (h : Moves still s z) :
    Moves still (stopEnd p f point out s) z := by
  unfold stopEnd
  split
  · exact emitAll_moves _ (holdNotices_fit p) (replyOverride_moves _ _ (modDelivery_plain _ rfl rfl (endWatch_moves p f
      (modEntry_unwatched p f _ (fun _ => Or.inl rfl) (dropOwed_moves p f h)))))
  · exact emitAll_moves _ (holdNotices_fit p) (replyOverride_moves _ _ (holdOwed_moves p _ (fun o => by split <;> rfl) h))
  · exact emitAll_moves _ (holdNotices_fit p) (replyOverride_moves _ _ (pointUnknown_moves _ _ _ _ (dropOwed_moves p f h)))
  · exact emitAll_moves _ (holdNotices_fit p) h

theorem managementReadEnd_moves (p : Pos) (f : Code) (point : Nat) (out : LineOutcome) (data : Option Word)
    (h : Moves still s z) : Moves still (managementReadEnd p f point out data s) z := by
  unfold managementReadEnd
  with_reducible repeat' first
    | exact h | apply emit_moves | apply scan_moves | apply emitAll_moves | apply writeReading_moves
    | apply replyRead_moves | apply pointUnknown_moves | dsimp only | exact holdNotices_fit _
    | (simp; done) | split

theorem periodicEnd_moves (p : Pos) (f : Code) (interval : Nat) (point : Nat) (out : LineOutcome)
    (data : Option Word) (h : Moves still s z) : Moves still (periodicEnd p f interval point out data s) z := by
  unfold periodicEnd
  with_reducible repeat' first
    | exact h | apply modEntry_unwatched | with_unfolding_all exact fun _ => Or.inl rfl | with_unfolding_all exact fun _ => Or.inr rfl | apply emit_moves | apply classSix_moves | apply writeResult_moves
    | apply writeReading_moves | apply leaveSchedule_moves | apply pointUnknown_moves | dsimp only | (simp; done) | split

theorem watchReadEnd_moves (p : Pos) (f : Code) (point : Nat) (out : LineOutcome) (data : Option Word)
    (h : Moves still s z) : Moves still (watchReadEnd p f point out data s) z := by
  unfold watchReadEnd
  with_reducible repeat' first
    | exact h | apply emit_moves | apply emitAll_moves | exact holdNotices_fit _ | apply writeReading_moves | apply writeResult_moves
    | apply endWatch_moves | apply modEntry_unwatched | with_unfolding_all exact fun _ => Or.inl rfl | with_unfolding_all exact fun _ => Or.inr rfl | apply pointUnknown_moves | dsimp only | (simp; done) | split

theorem accessFailed_moves (w : Waiter) (h : Moves still s z) : Moves still (accessFailed w s) z := by
  unfold accessFailed
  with_reducible repeat' first
    | exact h | apply rescan_moves | apply replyOverride_moves | apply leaveSchedule_moves | apply markNotFitted_moves
    | apply dropOwed_moves | apply replyRead_moves | split

theorem tryRead_moves (p : Pos) (f : Code) (h : Moves still s z) : Moves still (tryRead p f s) z := by
  unfold tryRead
  with_reducible repeat' first
    | exact h | apply translate_moves | apply emit_moves | apply scan_moves | apply holdHead_moves
    | apply setPendingRead_moves | apply answer_moves | (simp; done) | split
    | (rename_i e; have e' := snd_eq e; subst e'; clear e) | (rename_i e; clear e)

theorem accessLoaded_moves (w : Waiter) (h : Moves still s z) : Moves still (accessLoaded w s) z := by
  unfold accessLoaded
  with_reducible repeat' first
    | exact h | apply rescan_moves | apply tryRead_moves | split

theorem leaveService_moves (p : Pos) (h : Moves still s z) : Moves still (leaveService p s) z := by
  unfold leaveService
  refine replyRead_moves _ _ _ (replyOverride_moves _ _ (modStatus_moves _ (fun q c => ?_) (fun q => ?_)
    (withdrawWhere_moves _ h)))
  · simp only [Tab.get_upd]
    split
    · rename_i e
      rw [Tab.get_map, e]
      split
      · exact Or.inr rfl
      · exact Or.inl rfl
    · exact Or.inl rfl
  · simp only [Tab.get_put]
    split
    · exact List.nil_sublist _
    · exact List.Sublist.refl _

theorem resetDelivery_moves (p : Pos) (h : Moves still s z) : Moves still (resetDelivery p s) z := by
  unfold resetDelivery
  refine modStatus_moves _ (fun q c => ?_) (fun _ => List.Sublist.refl _) (leaveService_moves p h)
  simp only [Tab.get_put]
  split
  · exact Or.inr (by rw [Tab.get_fill])
  · exact Or.inl rfl

theorem clearActivityOf_moves (p : Pos) (h : Moves still s z) : Moves still (clearActivityOf p s) z := by
  unfold clearActivityOf
  refine modStatus_moves _ (fun q c => Or.inl ?_) (fun _ => List.Sublist.refl _) h
  simp only [Tab.get_upd]
  split
  · rename_i e
    rw [Tab.get_map, e]
    rfl
  · rfl

/-- R157: the stop that a timeout brings is that of an ACTUATOR. -/
theorem timeoutStop_moves (p : Pos) {f : Code} (hk : z.Listed → kindOf f = .actuator) (h : Moves still s z) :
    Moves still (timeoutStop p f s) z :=
  emitAll_moves _ (holdNotices_fit p) (modEntry_unwatched p f _ (fun _ => Or.inl rfl) (addOwed_moves p hk h))

/-- The notice that a timed out watch hands on, its stop among them, is one of an ACTUATOR where a watch runs at no other. -/
theorem emitAll_moves_of (ns : List Notice) (ht : ∀ x ∈ ns, x.tame = true) (hs : z.Listed → ∀ x ∈ ns, x.stopSound = true)
    (h : Moves still s z) : Moves still (emitAll ns s) z where
  owned := fun w => BlocksOwned.of_tables (b := s) rfl rfl (h.owned w)
  listed := fun w => ⟨(h.listed w).watches, { (h.listed w).lists with }, fun x hx =>
    (List.mem_append.mp hx).elim ((h.listed w).stops x) (hs w x)⟩
  run := fun hk => SameRun.trans (b := s) (SameRun.of_records rfl rfl rfl) (h.run hk)
  kept := fun w x hx => (List.mem_append.mp hx).elim
    (fun hx => Reach.admits_congr (fun _ => SameRun.of_records rfl rfl rfl) (h.kept w x hx))
    fun hx => Reach.admits_of_tame (ht x hx)

theorem watchTimesOut_moves (p : Pos) {f : Code} (hw : (entryOf s p f).watchDeadline ≠ none) :
    Moves still (watchTimesOut p f s) s :=
  emitAll_moves_of _ (by simp) (fun w => by simpa using w.watches p f hw) (endWatch_moves p f (Moves.refl s))

end Sys2Proof.Machine
end

section
/-!
The Consist Controller up to RUNNING, but for the ends that occupy a position: a plan keeps to its bounds (R55).
-/
namespace Sys2Proof.Machine

variable {s t z : State} {still : Reach}

theorem ccOffer_moves (p : Pos) (o : Offer) (ho : o.fits still = true) (h : Moves still s z) : Moves still (ccOffer p o s) z := by
  unfold ccOffer
  split
  · exact h
  · exact makeOffer_moves o ho h

theorem ccWithdraw_moves (p : Pos) (h : Moves still s z) : Moves still (ccWithdraw p s) z := by
  unfold ccWithdraw; apply withdraw_moves; exact h

theorem sweepComplete_moves (h : Moves still s z) : Moves still (sweepComplete s) z := by
  have hc : Moves still (modConsist (fun c => { c with sweep := none, sweepTrigger := false }) s) z :=
    modConsist_moves _ rfl rfl rfl h
  unfold sweepComplete
  dsimp only
  split
  · exact emit_moves _ (by simp) hc
  · exact hc

theorem sweepEnd_moves (p : Pos) (h : Moves still s z) : Moves still (sweepEnd p s) z := by
  unfold sweepEnd
  split
  · split
    · exact makeOffer_moves _ (Offer.fits_of_tame rfl) (modConsist_moves _ rfl rfl rfl h)
    · exact sweepComplete_moves h
  · exact h

theorem startPass_moves (h : Moves still s z) : Moves still (startPass s) z := by
  unfold startPass
  with_reducible repeat' first
    | exact h | refine makeOffer_moves _ (Offer.fits_of_valid (assignOffer_valid _)) ?_ | apply modPass_moves | split

theorem enumTrigger_moves (h : Moves still s z) : Moves still (enumTrigger s) z := by
  unfold enumTrigger
  split
  · exact modRelease_moves _ (fun _ => ⟨rfl, rfl⟩) h
  · split
    · exact modConsist_moves _ rfl rfl rfl h
    · split
      · exact startPass_moves h
      · exact h

theorem closePass_moves (h : Moves still s z) : Moves still (closePass s) z := by
  unfold closePass; apply modPass_moves; exact h

theorem endPass_moves (h : Moves still s z) : Moves still (endPass s) z := by
  unfold endPass
  with_reducible repeat' first
    | exact h | apply closePass_moves | apply withdrawWhere_moves | apply modPass_moves | split

theorem spacingEnds_moves (h : Moves still s z) : Moves still (spacingEnds s) z := by
  unfold spacingEnds
  with_reducible repeat' first
    | exact h | refine makeOffer_moves _ (Offer.fits_of_valid (assignOffer_valid _)) ?_ | apply modPass_moves | split

theorem settleEnds_moves (h : Moves still s z) : Moves still (settleEnds s) z := by
  unfold settleEnds
  with_reducible repeat' first
    | exact h | refine makeOffer_moves _ (Offer.fits_of_valid (assignOffer_valid _)) ?_ | apply modPass_moves | apply closePass_moves | split

theorem descriptorBad_moves (p : Pos) (a : Nat) (h : Moves still s z) : Moves still (descriptorBad p a s) z := by
  unfold descriptorBad; apply recordFault_moves; exact h

theorem abandonReads_moves (p : Pos) (h : Moves still s z) : Moves still (abandonReads p s) z := by
  unfold abandonReads
  dsimp only
  split
  · exact ccWithdraw_moves p (modStream_moves p _ (fun _ => ⟨Nat.zero_le _, Nat.zero_le _⟩) h)
  · exact h

theorem setMismatch_moves (p : Pos) (v : Bool) (h : Moves still s z) : Moves still (setMismatch p v s) z :=
  h.step rfl

theorem planLamps_length (w : s.Listed) (p : Pos) : (planLamps s p).length ≤ 72 := by
  have hcircuits : ∀ f : LineNo → Bool, (allLines.filter f).length ≤ 8 := fun f => List.length_filter_le f allLines
  have hrequired := (List.length_filter_le (fun f => unchecked s p f) (posRec s p).required).trans (w.lists.required p)
  unfold planLamps
  rw [List.length_append, List.length_map, List.length_map]
  have := hcircuits fun k => (circuitRec s k).contributors.any fun c => decide (c.pos = p) && unchecked s p c.code
  omega

theorem upper_not_lamp (g : Group) (hg : 4 ≤ g.val) : kindOfGroup g ≠ .lamp := by
  unfold kindOfGroup
  rw [if_neg (Nat.not_lt.mpr hg)]
  split <;> nofun

theorem buildPlan_moves (p : Pos) (h : Moves still s z) : Moves still (buildPlan p s) z := by
  refine modRec_moves p _ (fun _ => Iff.rfl) (fun w => ⟨planLamps_length w p, ?_, planGroups_sorted, fun g hg => ?_,
    Nat.zero_le _, List.nodup_nil, nofun⟩) (fun w => w.lists.required p) h
  · show (planGroups s p).length ≤ 8
    exact List.length_filter_le (fun g => (dirOf s p g).isSome) (allGroups.drop 4)
  · exact upper_not_lamp g ((mem_planGroups g).mp hg).1

theorem exitTest_moves (p : Pos) (h : Moves still s z) : Moves still (exitTest p s) z := by
  unfold exitTest
  with_reducible repeat' first
    | exact h | apply emit_moves | (simp; done) | split

/-- R70, R72, R73: a plan that only loses items. -/
theorem ConsistRecord.PlanSound.less {r x : ConsistRecord} (w : r.PlanSound) (hl : x.lampItems.length ≤ r.lampItems.length)
    (hg : x.groupItems.Sublist r.groupItems) (hf : x.firstReads.Sublist r.firstReads) : x.PlanSound where
  lampItems := hl.trans w.lampItems
  groups := hg.length_le.trans w.groups
  ascending := w.ascending.sublist hg
  groupKinds := fun g hm => w.groupKinds g (hg.subset hm)
  firstReads := hf.length_le.trans w.firstReads
  once := (hf.map _).nodup w.once
  readKinds := fun y hy => ⟨(w.readKinds y (hf.subset hy)).1, fun hm => (w.readKinds y (hf.subset hy)).2 (hg.subset hm)⟩

/-- A position's record changed but in its state and required lamps, its plan only losing items. -/
theorem modRec_less (p : Pos) (f : ConsistRecord → ConsistRecord) (hs : (f (posRec s p)).state = (posRec s p).state)
    (hl : (f (posRec s p)).lampItems.length ≤ (posRec s p).lampItems.length)
    (hg : (f (posRec s p)).groupItems.Sublist (posRec s p).groupItems)
    (hf : (f (posRec s p)).firstReads.Sublist (posRec s p).firstReads)
    (hr : (f (posRec s p)).required = (posRec s p).required) (h : Moves still s z) : Moves still (modRec p f s) z :=
  modRec_moves p f (fun _ => by rw [hs]) (fun w => (w.lists.plans p).less hl hg hf) (fun w => by rw [hr]; exact w.lists.required p) h

theorem deferLamps_moves (p : Pos) (h : Moves still s z) : Moves still (deferLamps p s) z := by
  unfold deferLamps
  refine emitAll_moves _ (by simp [↓List.forall_mem_append, ↓List.forall_mem_map]) (modRec_less p _ rfl (Nat.zero_le _) (List.Sublist.refl _)
    (List.Sublist.refl _) rfl h)

theorem entryLamps_moves (p : Pos) (h : Moves still s z) : Moves still (entryLamps p s) z := by
  unfold entryLamps
  with_reducible repeat' first
    | exact h | apply emit_moves | apply deferLamps_moves | (simp; done) | split

theorem queueRequest_consist (t : Target) (who : Option Pos) (s : State) : (queueRequest t who s).2.consist = s.consist := by
  unfold queueRequest
  dsimp only
  split
  · rfl
  · split
    · split <;> rfl
    · rfl

theorem handItems_moves (p : Pos) (h : Moves still s z) : Moves still (handItems p s) z := by
  unfold handItems
  split
  · rename_i i rest hi
    split
    · have hq := queueRequest_moves (itemTarget p i) (some p) h
      have hc := queueRequest_consist (itemTarget p i) (some p) s
      have hless : ∀ u : State, u.consist = s.consist → Moves still u z →
          Moves still (emitAll [.exitTest p, .handItems p] (modRec p (fun r => { r with lampItems := rest }) u)) z := by
        intro u hu hm
        have hrec : posRec u p = posRec s p := by unfold posRec; rw [hu]
        refine emitAll_moves _ (by simp) (modRec_less p _ rfl ?_ (List.Sublist.refl _) (List.Sublist.refl _) rfl hm)
        rw [hrec, hi]
        exact Nat.le_succ _
      split
      · rename_i e
        rw [e] at hq
        exact hq
      · rename_i e
        rw [e] at hq hc
        exact hless _ hc hq
    · exact h
  · exact h

/-- R82: a lookup that is not to wait leaves the Consist Controller alone. -/
theorem lookupGroup_consist {p : Pos} {g : Group} {f : Option Code} {k : Option AccessKind} {w : Waiter} {a : GroupAnswer}
    (he : lookupGroup p g f k w s = (a, t)) (ha : a ≠ .wait) : t.consist = s.consist := by
  have hclaim : ∀ u, claim p g false f k s = (false, u) → u.consist = s.consist := by
    intro u hu
    unfold claim at hu
    cases htake : takeBlock s with
    | mk x v =>
      rw [htake] at hu
      obtain ⟨bs, pt, hv, -⟩ := takeBlock_binding htake
      cases x with
      | some b => cases hu
      | none =>
        cases hu
        have hkeep : v.consist = s.consist := by rw [hv]
        unfold claimFailed
        split
        · exact hkeep
        · exact hkeep
  unfold lookupGroup at he
  split at he
  · cases he; rfl
  · split at he
    · cases he; rfl
    · split at he
      · cases he; rfl
      · split at he
        · cases he; rfl
        · split at he
          · split at he
            · cases he; exact absurd rfl ha
            · cases he; rfl
          · split at he
            · split at he
              · cases he; exact absurd rfl ha
              · cases he; exact absurd rfl ha
            · rename_i e
              cases he
              exact hclaim _ e

theorem groupOf_codeOf (g : Group) (m : Fin 16) : groupOf (codeOf g m) = g := by
  apply Fin.ext
  simp only [groupOf, codeOf]
  omega

/-- R73: the reads of a group are of its own functions. -/
theorem requiredReads_group {p : Pos} {b : BlockNo} {g : Group} {e : DirEntry} (x : FirstRead)
    (hx : x ∈ requiredReads s p b g e) : groupOf x.code = g := by
  obtain ⟨m, row, -, -, -, -, rfl, -⟩ := (mem_requiredReads x).mp hx
  exact groupOf_codeOf g m

/-- R74: the sensor and actuator functions are 128. -/
theorem reads_length {fs : List Code} (hn : fs.Nodup) (hk : ∀ f ∈ fs, kindOf f ≠ .lamp) : fs.length ≤ 128 := by
  have hlen : (allCodes.drop 64).length = 128 := by simp [allCodes]
  refine hlen ▸ (hn.subperm fun f hf => ?_).length_le
  refine (mem_upperCodes f).mpr (Nat.not_lt.mp fun hlow => hk f hf ?_)
  exact if_pos (Nat.div_lt_of_lt_mul hlow)

/-- R73: the first group of the plan is looked up, its reads joining those of the groups before it. -/
theorem ConsistRecord.PlanSound.lookedUp {r : ConsistRecord} {g : Group} {gs : List Group} {xs : List FirstRead} {fs : List Code}
    (w : r.PlanSound) (hg : r.groupItems = g :: gs) (hx : ∀ x ∈ xs, groupOf x.code = g) (hn : (xs.map fun x => x.code).Nodup) :
    ({ r with groupItems := gs, firstReads := r.firstReads ++ xs, awaited := fs } : ConsistRecord).PlanSound := by
  obtain ⟨hlamps, hgroups, hasc, hkinds, -, honce, hreads⟩ := w
  rw [hg] at hgroups hasc hkinds hreads
  have hkind : ∀ x ∈ r.firstReads ++ xs, kindOf x.code ≠ .lamp ∧ groupOf x.code ∉ gs := by
    intro x hm
    rcases List.mem_append.mp hm with hm | hm
    · exact ⟨(hreads x hm).1, fun hc => (hreads x hm).2 (List.mem_cons_of_mem g hc)⟩
    · have hgroup := hx x hm
      refine ⟨?_, fun hc => ?_⟩
      · unfold kindOf
        rw [hgroup]
        exact hkinds g List.mem_cons_self
      · rw [hgroup] at hc
        exact absurd (List.rel_of_pairwise_cons hasc hc) (lt_irrefl g)
  have hnodup : ((r.firstReads ++ xs).map fun x => x.code).Nodup := by
    rw [List.map_append]
    refine List.nodup_append.mpr ⟨honce, hn, fun a ha b hb hab => ?_⟩
    obtain ⟨x, hxm, rfl⟩ := List.mem_map.mp ha
    obtain ⟨y, hym, rfl⟩ := List.mem_map.mp hb
    refine (hreads x hxm).2 ?_
    rw [hab, hx y hym]
    exact List.mem_cons_self
  refine ⟨hlamps, (Nat.le_succ _).trans hgroups, hasc.of_cons, fun j hj => hkinds j (List.mem_cons_of_mem g hj), ?_, hnodup, hkind⟩
  have := reads_length hnodup fun f hf => by
    obtain ⟨x, hxm, rfl⟩ := List.mem_map.mp hf
    exact (hkind x hxm).1
  rwa [List.length_map] at this

theorem lookupGroups_moves (p : Pos) (h : Moves still s z) : Moves still (lookupGroups p s) z := by
  unfold lookupGroups
  split
  · rename_i g gs hg
    split
    · have hlook := lookupGroup_moves p g none none (.plan p) h
      split
      · rename_i e
        have hrec := congrArg (fun c : Consist => c.table.get p) (lookupGroup_consist e nofun)
        rw [e] at hlook
        refine emitAll_moves _ (by simp) (modRec_moves p _ (fun _ => Iff.rfl) (fun w => ?_) (fun w => w.lists.required p) hlook)
        exact (w.lists.plans p).lookedUp ((congrArg ConsistRecord.groupItems hrec).trans hg) requiredReads_group
          (requiredReads_sorted.imp ne_of_lt)
      · rename_i e
        rw [e] at hlook
        exact hlook
      · rename_i hw e
        have hrec := congrArg (fun c : Consist => c.table.get p) (lookupGroup_consist e hw)
        rw [e] at hlook
        refine emitAll_moves _ (by simp) (modRec_less p _ rfl (Nat.le_refl _) ?_ (List.Sublist.refl _) rfl hlook)
        rw [show (posRec _ p).groupItems = g :: gs from (congrArg ConsistRecord.groupItems hrec).trans hg]
        exact List.sublist_cons_self g gs
    · exact h
  · exact h

theorem consistOffer_moves (p : Pos) (h : Moves still s z) : Moves still (consistOffer p s) z := by
  unfold consistOffer
  split
  · exact h
  · split
    · exact ccOffer_moves p _ (Offer.fits_of_tame rfl) h
    · split
      · exact ccOffer_moves p _ (Offer.fits_of_tame rfl) h
      · exact h

theorem modFirstRead_moves (p : Pos) (f : Code) (g : FirstRead → FirstRead) (hg : ∀ x, (g x).code = x.code) (h : Moves still s z) :
    Moves still (modFirstRead p f g s) z :=
  modRec_moves p _ (fun _ => Iff.rfl) (fun w => firstReads_map_plan _ (fun x => by split <;> simp [hg]) (w.lists.plans p))
    (fun w => w.lists.required p) h

theorem firstReadDone_moves (p : Pos) (f : Code) (res : CheckResult) (h : Moves still s z) :
    Moves still (firstReadDone p f res s) z :=
  emitAll_moves _ (by simp) (modRec_less p _ rfl (Nat.le_refl _) (List.Sublist.refl _) List.filter_sublist rfl h)

theorem firstReadData_moves (p : Pos) (f : Code) (w : Word) (h : Moves still s z) : Moves still (firstReadData p f w s) z :=
  modEntry_unwatched p f _ (fun _ => Or.inl (by split <;> rfl)) h

theorem firstReadEnd_moves (p : Pos) (f : Code) (point : Nat) (out : LineOutcome) (data : Option Word)
    (h : Moves still s z) : Moves still (firstReadEnd p f point out data s) z := by
  unfold firstReadEnd
  with_reducible repeat' first
    | exact h | apply firstReadDone_moves | apply modEntry_unwatched | with_unfolding_all exact fun _ => Or.inl rfl | with_unfolding_all exact fun _ => Or.inr rfl | apply firstReadData_moves | apply emit_moves
    | apply consistOffer_moves | apply modFirstRead_moves | with_unfolding_all exact fun _ => rfl | apply recordFault_moves | apply pointUnknown_moves
    | dsimp only | (simp; done) | split

theorem motionToConsist_moves (h : Moves still s z) : Moves still (motionToConsist s) z := by
  unfold motionToConsist
  with_reducible repeat' first
    | exact h | apply deferLamps_moves | refine foldl_moves (fun _ _ => ?_) _ ?_ | exact Moves.refl _ | split

/-- R76: an occupied position leaves EXERCISING with its plan emptied. -/
theorem enterRunning_moves (p : Pos) (h : Moves still s z) : Moves still (enterRunning p s) z := by
  unfold enterRunning
  split
  · rename_i he
    have hstate : (posRec s p).state = .exercising := of_decide_eq_true he
    refine emitAll_moves _ (by split <;> simp) (withdrawWhere_moves _ (modRec_moves p _ (fun _ => ?_)
      (fun _ => ConsistRecord.PlanSound.empty rfl rfl rfl) (fun w => w.lists.required p) h))
    rw [hstate]
    exact ⟨nofun, nofun⟩
  · exact h

theorem deadlineWrite_moves (p : Pos) (f : Code) (r : CheckResult) (h : Moves still s z) :
    Moves still (deadlineWrite p f r s) z := by
  unfold deadlineWrite
  with_reducible repeat' first
    | exact h | apply emit_moves | apply setResult_moves | (simp; done) | split

theorem deadlineRead_moves (p : Pos) (x : FirstRead) (h : Moves still s z) : Moves still (deadlineRead p s x) z := by
  unfold deadlineRead
  with_reducible repeat' first
    | exact h | apply recordFault_moves | apply deadlineWrite_moves | split

theorem deadlineLamp_moves (p : Pos) (f : Code) (h : Moves still s z) : Moves still (deadlineLamp p s f) z := by
  unfold deadlineLamp
  with_reducible repeat' first
    | exact h | apply deadlineWrite_moves | split

theorem deadlinePasses_moves (p : Pos) (h : Moves still s z) : Moves still (deadlinePasses p s) z :=
  emit_moves _ (by simp) (foldl_moves (fun s _ => deadlineRead_moves _ _ (Moves.refl s)) _
    (foldl_moves (fun s _ => deadlineLamp_moves _ _ (Moves.refl s)) _ (withdrawWhere_moves _
      (modRec_less p _ rfl (Nat.zero_le _) (List.nil_sublist _) (List.Sublist.refl _) rfl h))))

end Sys2Proof.Machine
end

section
/-!
Identifications and streams, and the ends that occupy a position: a capture keeps to its bound (R49).
-/
namespace Sys2Proof.Machine

variable {s t z : State} {still : Reach}

/-! ## What a bounded reach hands on -/

@[simp] theorem Reach.allows_any (b : Bool) : Reach.allows .any b = true := rfl

theorem Reach.allows_loose (hl : still ≠ .tame) : still.allows true = true := by
  cases still with
  | any => rfl
  | loose => rfl
  | tame => exact absurd rfl hl

theorem Offer.fits_of_loose {o : Offer} (hl : still ≠ .tame) (h : o.why.loose = true) : o.fits still = true := by
  unfold Offer.fits
  rw [h, Reach.allows_loose hl, Bool.or_true, Bool.or_true]

theorem emit_loose (x : Notice) (hl : still ≠ .tame) (hx : x.loose = true) (hs : x.stopSound = true) (h : Moves still s z) :
    Moves still (emit x s) z :=
  emit_moves x (by rw [Notice.fits, hx, hs, Reach.allows_loose hl, Bool.or_true, Bool.and_true]) h

/-- The entry to EXERCISING of an occupied position. -/
theorem emitEntry_moves {p : Pos} (hk : still ≠ .loose) (hv : stateOf s p ≠ .vacant) (h : Moves still s z) :
    Moves still (emit (.enterExercising p) s) z := by
  refine Moves.trans ?_ h
  have hrun : SameRun (emit (.enterExercising p) s) s := SameRun.of_records rfl rfl rfl
  refine ⟨BlocksOwned.of_tables rfl rfl, fun w => ⟨w.watches, { w.lists with }, fun x hx => ?_⟩, fun _ => hrun, fun w x hx => ?_⟩
  · exact (List.mem_append.mp hx).elim (w.stops x) fun hx => by rw [List.mem_singleton.mp hx]; rfl
  · refine (List.mem_append.mp hx).elim (fun hx => Reach.admits_congr (fun _ => hrun) (w x hx)) fun hx => ?_
    rw [List.mem_singleton.mp hx]
    cases still with
    | any => trivial
    | loose => exact absurd rfl hk
    | tame => exact Or.inr ⟨p, rfl, hv⟩

/-- What an end that may or may not bring an entry to EXERCISING keeps: it hands on either what needs nothing of the run, or what
leaves it alone and entries of occupied positions. -/
def Steps (a b : State) : Prop := Moves .loose a b ∨ Moves .tame a b

theorem Steps.weaken {a b : State} (h : Steps a b) : Moves .any a b := h.elim Moves.weaken Moves.weaken

theorem Steps.of_moves {a b : State} (h : ∀ r, Moves r a b) : Steps a b := Or.inl (h .loose)

/-! ## Identification -/

/-- A stream's record changed beside its captures. -/
theorem modStream_plain (p : Pos) (f : StreamRecord → StreamRecord) (hw : ∀ r, (f r).wires = r.wires)
    (hr : ∀ r, (f r).required = r.required) (h : Moves still s z) : Moves still (modStream p f s) z :=
  modStream_moves p f (fun w => by rw [hw, hr]; exact w.lists.captures p) h

/-- A stream's record begun anew. -/
theorem modStream_fresh (p : Pos) (f : StreamRecord → StreamRecord) (hw : ∀ r, (f r).wires = [])
    (hr : ∀ r, (f r).required = []) (h : Moves still s z) : Moves still (modStream p f s) z :=
  modStream_moves p f (fun _ => by rw [hw, hr]; exact ⟨Nat.zero_le _, Nat.zero_le _⟩) h

theorem offerIdent_moves (p : Pos) (a : Nat) (hl : still ≠ .tame) (h : Moves still s z) : Moves still (offerIdent p a s) z :=
  ccOffer_moves p _ (Offer.fits_of_loose hl rfl) h

theorem startIdent_moves (p : Pos) (hl : still ≠ .tame) (h : Moves still s z) : Moves still (startIdent p s) z :=
  offerIdent_moves p 0 hl (modStream_plain p _ (fun _ => rfl) (fun _ => rfl) h)

theorem identFails_moves (p : Pos) (a : Nat) (v : IdentVerdict) (hl : still ≠ .tame) (h : Moves still s z) :
    Moves still (identFails p a v s) z :=
  emit_loose _ hl rfl rfl (descriptorBad_moves p a (modStream_plain p _ (fun _ => rfl) (fun _ => rfl) h))

theorem identified_moves (p : Pos) (ws : List Word) (hl : still ≠ .tame) (h : Moves still s z) :
    Moves still (identified p ws s) z :=
  emit_loose _ hl rfl rfl (modRec_plain p _ (fun _ => rfl) (fun _ => rfl) (fun _ => rfl) (fun _ => rfl) (fun _ => rfl)
    (modStream_plain p _ (fun _ => rfl) (fun _ => rfl) h))

theorem takeHeaderWord_moves (p : Pos) (a : Nat) (w : Word) (hl : still ≠ .tame) (h : Moves still s z) :
    Moves still (takeHeaderWord p a w s) z := by
  unfold takeHeaderWord
  dsimp only
  split
  · exact identFails_moves p a _ hl h
  · split
    · exact identified_moves p _ hl h
    · exact offerIdent_moves p _ hl (modStream_plain p _ (fun _ => rfl) (fun _ => rfl) h)

theorem identEnd_moves (p : Pos) (a : Nat) (out : LineOutcome) (data : Option Word) (hl : still ≠ .tame) (h : Moves still s z) :
    Moves still (identEnd p a out data s) z := by
  unfold identEnd
  split
  · split
    · exact takeHeaderWord_moves p a _ hl h
    · exact offerIdent_moves p a hl h
    · exact identFails_moves p a _ hl h
    · exact identFails_moves p a _ hl h
  · exact h

/-! ## Captures -/

/-- R49: both captures within their bound. -/
def StreamRecord.Captured (r : StreamRecord) : Prop := r.wires.length ≤ 64 ∧ r.required.length ≤ 64

theorem insertByAddr_length {α : Type} (addr : α → Nat) (x : α) (xs : List α) :
    (insertByAddr addr x xs).length = xs.length + 1 := by
  induction xs with
  | nil => rfl
  | cons y ys ih =>
    unfold insertByAddr
    split
    · rfl
    · rw [List.length_cons, ih, List.length_cons]

theorem capture_length {α : Type} (addr : α → Nat) (x : α) {xs : List α} (h : xs.length ≤ 64) : (capture addr x xs).length ≤ 64 := by
  unfold capture
  split
  · rename_i hlt
    rw [insertByAddr_length]
    exact hlt
  · exact h

theorem captureRecord_captured (f : Code) (c : FnRecord) {r : StreamRecord} (h : r.Captured) : (captureRecord f c r).Captured := by
  obtain ⟨hw, hr⟩ := h
  unfold captureRecord
  split
  · exact ⟨hw, hr⟩
  · split
    · exact ⟨capture_length _ _ hw, hr⟩
    · split
      · exact ⟨hw, capture_length _ _ hr⟩
      · exact ⟨hw, hr⟩

theorem takeRecordWord_captured (g : Group) (e : DirEntry) (a : Nat) (w : Word) {r : StreamRecord} (h : r.Captured) :
    (takeRecordWord g e a w r).Captured := by
  unfold takeRecordWord
  dsimp only
  split
  · exact captureRecord_captured _ _ h
  · exact h

theorem interpretWord_captured {x : Tab Word 8} {a : Nat} {w : Word} {r r' : StreamRecord} (h : r.Captured)
    (hi : interpretWord x a w r = some r') : r'.Captured := by
  unfold interpretWord at hi
  dsimp only at hi
  split at hi
  · split at hi
    · cases hi; exact h
    · obtain ⟨y, -, rfl⟩ := Option.map_eq_some_iff.mp hi
      exact h
  · split at hi
    · cases hi; exact takeRecordWord_captured _ _ _ _ h
    · cases hi; exact h

/-! ## Streams -/

theorem offerStream_moves (p : Pos) (a : Nat) (hl : still ≠ .tame) (h : Moves still s z) : Moves still (offerStream p a s) z :=
  ccOffer_moves p _ (Offer.fits_of_loose hl rfl) h

theorem startCold_moves (p : Pos) (hl : still ≠ .tame) (h : Moves still s z) : Moves still (startCold p s) z := by
  unfold startCold
  split
  · exact offerStream_moves p 8 hl (modStream_fresh p _ (fun _ => rfl) (fun _ => rfl) h)
  · exact h

/-- A position that is not VACANT takes another state. -/
theorem modState_moves (p : Pos) {x : PosState} (hv : stateOf s p ≠ .vacant) (hx : x ≠ .vacant) (h : Moves still s z) :
    Moves still (modRec p (fun r => { r with state := x }) s) z :=
  modRec_moves p _ (fun _ => ⟨fun e => absurd e hx, fun e => absurd e hv⟩)
    (fun w => (w.lists.plans p).less (Nat.le_refl _) (List.Sublist.refl _) (List.Sublist.refl _)) (fun w => w.lists.required p) h

theorem reject_moves {p : Pos} (hv : stateOf s p ≠ .vacant) (h : Moves still s z) : Moves still (reject p s) z :=
  modState_moves p hv nofun (modStream_fresh p _ (fun _ => rfl) (fun _ => rfl) h)

theorem streamFails_moves {p : Pos} (a : Nat) (hv : stateOf s p ≠ .vacant) (h : Moves still s z) :
    Moves still (streamFails p a s) z := reject_moves hv (descriptorBad_moves p a h)

/-- R53: a described position is about to enter EXERCISING, with as many required lamps as were captured. -/
theorem describeDone_moves {p : Pos} (hk : still ≠ .loose) (hv : stateOf s p ≠ .vacant) (h : Moves still s z) :
    Moves still (describeDone p s) z := by
  have hrec := modRec_moves p (fun x : ConsistRecord =>
    { x with directory := (streamRec s p).directory, required := (streamRec s p).required }) (fun _ => Iff.rfl)
    (fun w => (w.lists.plans p).less (Nat.le_refl _) (List.Sublist.refl _) (List.Sublist.refl _))
    (fun w => (w.lists.captures p).2) h
  have hstream := modStream_plain p (fun r : StreamRecord => { r with next := none, buffer := [], bufferOf := none })
    (fun _ => rfl) (fun _ => rfl) hrec
  have hadds := emitAll_moves ((streamRec s p).wires.map fun i => Notice.addContributor p i)
    (by simp [↓List.forall_mem_map]) hstream
  have hstate : ∀ d l, stateOf (modRec p (fun x => { x with directory := d, required := l }) s) p = stateOf s p := fun d l => by
    simp only [stateOf, posRec, modRec, Tab.get_upd_same]
  have hentry := emitEntry_moves (p := p) hk ?_ hadds
  · unfold describeDone
    dsimp only
    rw [← emitAll_emitAll]
    exact hentry
  · exact fun hvac => hv ((hstate _ _).symm.trans hvac)

theorem startWarm_steps {p : Pos} (d : Directory) (hv : stateOf s p ≠ .vacant) (h : ∀ r, Moves r s z) :
    Steps (startWarm p d s) z := by
  have hstream : ∀ r, Moves r (modStream p (fun r =>
      { header := r.header, active := true, warm := true, directory := d, next := (warmAddrs d).head? }) s) z :=
    fun r => modStream_fresh p _ (fun _ => rfl) (fun _ => rfl) (h r)
  unfold startWarm
  dsimp only
  split
  · exact Or.inl (offerStream_moves p _ nofun (hstream _))
  · exact Or.inr (describeDone_moves nofun hv (hstream _))

theorem enterDescribing_steps {p : Pos} (hv : stateOf s p ≠ .vacant) (h : ∀ r, Moves r s z) : Steps (enterDescribing p s) z := by
  have hdesc : ∀ r, Moves r (modRec p (fun r => { r with state := .describing }) s) z :=
    fun r => modState_moves p hv nofun (h r)
  have hplain : ∀ (b : Bool) (u : State), (∀ r, Moves r u z) → ∀ r, Moves r (modRec p (fun r => { r with warm := b }) u) z :=
    fun b u hu r => modRec_plain p _ (fun _ => rfl) (fun _ => rfl) (fun _ => rfl) (fun _ => rfl) (fun _ => rfl) (hu r)
  unfold enterDescribing
  dsimp only
  split
  · refine startWarm_steps _ ?_ (hplain true _ hdesc)
    simp only [stateOf, posRec, modRec, Tab.get_upd_same]
    nofun
  · refine Or.inl (startCold_moves p nofun (hplain false _ (fun r => ?_) _))
    split
    · exact setMismatch_moves p true (hdesc r)
    · exact hdesc r

theorem coldEnds_steps {p : Pos} (hv : stateOf s p ≠ .vacant) (h : ∀ r, Moves r s z) : Steps (coldEnds p s) z := by
  unfold coldEnds
  dsimp only
  split
  · exact Or.inr (describeDone_moves nofun hv (h _))
  · exact Or.inl (reject_moves hv (recordFault_moves _ _ _ _ _ (h _)))

theorem takeColdWord_steps {p : Pos} (x : Tab Word 8) (a : Nat) (w : Word) (hv : stateOf s p ≠ .vacant) (h : ∀ r, Moves r s z) :
    Steps (takeColdWord p x a w s) z := by
  unfold takeColdWord
  split
  · exact Or.inl (streamFails_moves a hv (modStream_plain p _ (fun _ => rfl) (fun _ => rfl) (h _)))
  · rename_i r hr
    have hcap : s.Listed → r.Captured := fun hw =>
      interpretWord_captured (r := { streamRec s p with sum := (streamRec s p).sum + w }) (hw.lists.captures p) hr
    split
    · exact Or.inl (offerStream_moves p _ nofun (modStream_moves p _ hcap (h _)))
    · exact coldEnds_steps hv fun l => modStream_moves p _ hcap (h l)

theorem takeWarmWord_steps {p : Pos} (a : Nat) (w : Word) (hv : stateOf s p ≠ .vacant) (h : ∀ r, Moves r s z) :
    Steps (takeWarmWord p a w s) z := by
  have htaken : s.Listed → (match arrayAt (streamRec s p).directory a with
      | some (g, e) => takeRecordWord g e a w (streamRec s p)
      | none => streamRec s p).Captured := fun hw => by
    split
    · exact takeRecordWord_captured _ _ _ _ (hw.lists.captures p)
    · exact hw.lists.captures p
  unfold takeWarmWord
  dsimp only
  split
  · exact Or.inl (offerStream_moves p _ nofun (modStream_moves p _ htaken (h _)))
  · exact Or.inr (describeDone_moves nofun hv (modStream_moves p _ htaken (h _)))

theorem streamEnd_steps (p : Pos) (a : Nat) (out : LineOutcome) (data : Option Word) (h : ∀ r, Moves r s z) :
    Steps (streamEnd p a out data s) z := by
  unfold streamEnd
  dsimp only
  split
  · rename_i hd
    simp only [Bool.and_eq_true, decide_eq_true_eq] at hd
    have hv : stateOf s p ≠ .vacant := by rw [hd.2]; nofun
    split
    · split
      · exact takeWarmWord_steps a _ hv h
      · split
        · exact takeColdWord_steps _ a _ hv h
        · exact Steps.of_moves h
    · exact Or.inl (offerStream_moves p a nofun (h _))
    · exact Or.inl (streamFails_moves a hv (h _))
    · exact Or.inl (streamFails_moves a hv (h _))
  · exact Steps.of_moves h

/-! ## Occupied positions -/

/-- R70: an occupied position enters EXERCISING. -/
theorem enterExercising_moves {p : Pos} (hv : still ≠ .any → stateOf s p ≠ .vacant) (h : Moves still s z) :
    Moves still (enterExercising p s) z := by
  refine emitAll_moves _ (by simp) (modStream_plain p _ (fun _ => rfl) (fun _ => rfl) (modRec_moves p _
    (fun hk => ⟨nofun, fun e => absurd e (hv hk)⟩)
    (fun w => (w.lists.plans p).less (Nat.le_refl _) (List.Sublist.refl _) (List.Sublist.refl _)) (fun w => w.lists.required p) h))

theorem assignTaken_moves (n : Pos) (h : Moves .any s z) : Moves .any (assignTaken n s) z := by
  unfold assignTaken
  split
  · refine emit_moves _ rfl ?_
    split
    · exact closePass_moves h
    · exact modPass_moves _ h
  · exact makeOffer_moves _ (Offer.fits_of_tame rfl) (closePass_moves h)

theorem assignMissed_moves (n : Pos) (heard : Bool) (h : Moves .any s z) : Moves .any (assignMissed n heard s) z := by
  unfold assignMissed
  dsimp only
  split
  · exact closePass_moves h
  · split
    · exact modPass_moves _ h
    · exact emit_moves _ rfl (closePass_moves h)

theorem assignEnd_moves (n : Pos) (out : LineOutcome) (h : Moves .any s z) : Moves .any (assignEnd n out s) z := by
  unfold assignEnd
  split
  · split
    · exact assignTaken_moves n h
    · exact assignMissed_moves n _ h
    · exact assignMissed_moves n _ h
    · exact assignMissed_moves n _ h
  · exact h

theorem chainEnd_moves (n : Pos) (heard : Bool) (h : Moves .any s z) : Moves .any (chainEnd n heard s) z := by
  unfold chainEnd
  split
  · exact emit_moves _ rfl (modRec_moves 0 _ (fun hk => absurd rfl hk)
      (fun w => (w.lists.plans 0).less (Nat.le_refl _) (List.Sublist.refl _) (List.Sublist.refl _)) (fun w => w.lists.required 0) h)
  · exact h

theorem handOver_moves (n : Pos) (h : Moves .any s z) : Moves .any (handOver n s) z := by
  unfold handOver
  split
  · exact startIdent_moves n nofun (modRec_moves n _ (fun hk => absurd rfl hk)
      (fun _ => ConsistRecord.PlanSound.empty rfl rfl rfl) (fun _ => Nat.zero_le _) h)
  · exact h

end Sys2Proof.Machine
end

section
/-!
Releases, line loss and recovery: a release vacates positions and moves on, a loss does neither.
-/
namespace Sys2Proof.Machine

variable {s t z : State} {still : Reach}

/-- A change of the release record, by an operation that may hand on anything. -/
theorem modRelease_any (f : ReleaseRecord → ReleaseRecord) (h : Moves .any s z) : Moves .any (modRelease f s) z :=
  modRelease_moves f (fun hk => absurd rfl hk) h

/-- A position's record changed in what a recovery attempt notes. -/
theorem modAttempt_moves (p : Pos) (f : ConsistRecord → ConsistRecord) (hs : ∀ r, (f r).state = r.state)
    (hp : ∀ r, (f r).lampItems = r.lampItems ∧ (f r).groupItems = r.groupItems ∧ (f r).firstReads = r.firstReads
      ∧ (f r).required = r.required) (h : Moves still s z) : Moves still (modRec p f s) z :=
  modRec_plain p f hs (fun r => (hp r).1) (fun r => (hp r).2.1) (fun r => (hp r).2.2.1) (fun r => (hp r).2.2.2) h

theorem completeRelease_moves (h : Moves .any s z) : Moves .any (completeRelease s) z := by
  have hdone := modRelease_any (fun _ => {}) h
  have hanswered : Moves .any (if s.consist.release.replyOwed && decide (handedCode s = some 23)
      then answer .ok [] (modRelease (fun _ => {}) s) else modRelease (fun _ => {}) s) z := by
    split
    · exact answer_moves _ _ hdone
    · exact hdone
  unfold completeRelease
  dsimp only
  split
  · exact emit_moves _ rfl hanswered
  · exact hanswered

theorem abandonRecovery_moves (h : Moves still s z) : Moves still (abandonRecovery s) z := by
  refine foldl_moves (fun s q => ?_) _ h
  split
  · exact modAttempt_moves q _ (fun _ => rfl) (fun _ => ⟨rfl, rfl, rfl, rfl⟩) (abandonReads_moves q (Moves.refl s))
  · exact Moves.refl s

theorem releaseRequest_moves (p : Pos) (h : Moves .any s z) : Moves .any (releaseRequest p s) z := by
  unfold releaseRequest
  split
  · split
    · exact abandonRecovery_moves (modRelease_any _ h)
    · exact h
  · split
    · exact emit_moves _ rfl (abandonRecovery_moves (modRelease_any _ h))
    · exact completeRelease_moves h

theorem releaseWalk_moves (h : Moves .any s z) : Moves .any (releaseWalk s) z := by
  unfold releaseWalk
  dsimp only
  split
  · split
    · split
      · exact completeRelease_moves h
      · split
        · exact emit_moves _ rfl (modRelease_any _ h)
        · exact emit_moves _ rfl h
        · exact makeOffer_moves _ (Offer.fits_of_valid (releaseOffer_valid _)) (modRelease_any _ h)
    · exact completeRelease_moves h
  · exact h

theorem releaseEnd_moves (q : Pos) (h : Moves .any s z) : Moves .any (releaseEnd q s) z := by
  unfold releaseEnd
  split
  · exact emit_moves _ rfl h
  · exact h

theorem markDiscard_moves (q : Pos) (h : Moves still s z) : Moves still (markDiscard q s) z := by
  unfold markDiscard
  split
  · split
    · exact h.step rfl
    · exact h
  · exact h

theorem resetPosition_moves (q : Pos) (h : Moves .any s z) : Moves .any (resetPosition q s) z :=
  emitAll_moves _ (by simp) (markDiscard_moves q (setUnheard_moves q 0 (modRelease_any _ (withdrawWhere_moves _
    (modStream_fresh q _ (fun _ => rfl) (fun _ => rfl) (modRec_moves q _ (fun hk => absurd rfl hk)
      (fun _ => ConsistRecord.PlanSound.empty rfl rfl rfl) (fun _ => Nat.zero_le _) h))))))

theorem askRelease_moves (p : Pos) (h : Moves .any s z) : Moves .any (askRelease p s) z := by
  unfold askRelease
  split
  · exact answer_moves _ _ h
  · exact emit_moves _ rfl (holdHead_moves (modRelease_any _ h))

/-- R179: an occupied position goes LOST with its plan emptied. -/
theorem goLost_moves {p : Pos} (hv : stateOf s p ≠ .vacant) (h : Moves still s z) : Moves still (goLost p s) z := by
  unfold goLost
  exact emitAll_moves _ (by simp) (freeFetching_moves p (recordFault_moves _ _ _ _ _ (endPass_moves (ccWithdraw_moves p
    (abandonReads_moves p (modRec_moves p _ (fun _ => ⟨nofun, fun e => absurd e hv⟩)
      (fun _ => ConsistRecord.PlanSound.empty rfl rfl rfl) (fun w => w.lists.required p) h))))))

theorem silence_moves (p : Pos) (h : Moves still s z) : Moves still (silence p s) z := by
  have hlost : ∀ {x}, stateOf s p = x → x ≠ .vacant → Moves still (goLost p s) z := fun e hx => goLost_moves (e ▸ hx) h
  unfold silence
  split
  · exact h
  · split
    · rename_i e; exact hlost e nofun
    · rename_i e; exact hlost e nofun
    · rename_i e; exact hlost e nofun
    · rename_i e; exact hlost e nofun
    · split
      · exact modAttempt_moves p _ (fun _ => rfl) (fun _ => ⟨rfl, rfl, rfl, rfl⟩) (abandonReads_moves p h)
      · exact h
    · exact h

theorem recoveryOffer_fits (p : Pos) : (recoveryOffer p).fits still = true := Offer.fits_of_valid (by revert p; decide)

theorem attemptExpires_moves (p : Pos) (h : Moves still s z) : Moves still (attemptExpires p s) z := by
  have hagain := modAttempt_moves (s := s) (z := z) (still := still) p
    (fun r => { r with attemptTimer := r.attemptTimer.map fun t => t + Config.attemptTimer }) (fun _ => rfl)
    (fun _ => ⟨rfl, rfl, rfl, rfl⟩) h
  unfold attemptExpires
  dsimp only
  split
  · exact makeOffer_moves _ (recoveryOffer_fits p) (modAttempt_moves p _ (fun _ => rfl) (fun _ => ⟨rfl, rfl, rfl, rfl⟩) hagain)
  · exact hagain

theorem recoveryAssignEnd_moves (p : Pos) (out : LineOutcome) (hl : still ≠ .tame) (h : Moves still s z) :
    Moves still (recoveryAssignEnd p out s) z := by
  unfold recoveryAssignEnd
  split
  · split
    · exact startIdent_moves p hl h
    · exact ccOffer_moves p _ (Offer.fits_of_loose hl rfl) h
  · split
    · exact makeOffer_moves _ (Offer.fits_of_tame rfl) h
    · exact h

theorem recoveryGetEnd_moves (p : Pos) (out : LineOutcome) (hl : still ≠ .tame) (h : Moves still s z) :
    Moves still (recoveryGetEnd p out s) z := by
  unfold recoveryGetEnd
  split
  · split
    · exact modAttempt_moves p _ (fun _ => rfl) (fun _ => ⟨rfl, rfl, rfl, rfl⟩) h
    · exact startIdent_moves p hl h
  · exact h

/-- R182: a position judged is occupied. -/
theorem judgeRecovery_steps {p : Pos} (v : IdentVerdict) (before : Option Identity) (hv : stateOf s p ≠ .vacant)
    (h : ∀ r, Moves r s z) : Steps (judgeRecovery p v before s) z := by
  unfold judgeRecovery
  split
  · refine Or.inr (emitEntry_moves nofun ?_ (modAttempt_moves p _ (fun _ => rfl) (fun _ => ⟨rfl, rfl, rfl, rfl⟩) (h _)))
    exact fun hvac => hv (by simpa only [stateOf, posRec, modRec, Tab.get_upd_same] using hvac)
  · exact Or.inl (emit_loose _ nofun rfl rfl (modAttempt_moves p _ (fun _ => rfl) (fun _ => ⟨rfl, rfl, rfl, rfl⟩) (h _)))

theorem identVerdict_steps (p : Pos) (v : IdentVerdict) (before : Option Identity) (h : ∀ r, Moves r s z) :
    Steps (identVerdict p v before s) z := by
  unfold identVerdict
  split
  · rename_i e
    have hv : stateOf s p ≠ .vacant := by rw [e]; nofun
    split
    · exact enterDescribing_steps hv h
    · exact Steps.of_moves fun _ => reject_moves hv (h _)
  · rename_i e
    split
    · exact judgeRecovery_steps v before (by rw [e]; nofun) h
    · exact Steps.of_moves h
  · exact Steps.of_moves h

end Sys2Proof.Machine
end

section
/-!
The Service Poller, the Sequence Unit and the Consist Memory move no position; a round names at most 16 functions (R163).
-/
namespace Sys2Proof.Machine

variable {s t z : State} {still : Reach}

theorem modSeq_moves (f : Sequence → Sequence) (h : Moves still s z) : Moves still (modSeq f s) z := h.step rfl

/-- The Service Poller's record changed beside its rounds. -/
theorem modService_plain (f : Service → Service) (hf : (f s.service).rounds = s.service.rounds) (h : Moves still s z) :
    Moves still (modService f s) z := modService_moves f (fun _ => by rw [hf]) h

/-- The round of a position cleared. -/
theorem modService_cleared (p : Pos) (f : Service → Service) (hf : (f s.service).rounds = s.service.rounds.put p {})
    (h : Moves still s z) : Moves still (modService f s) z := by
  refine modService_moves f (fun q => ?_) h
  rw [hf, Tab.get_put]
  split
  · exact Nat.zero_le _
  · exact Nat.le_refl _

theorem modMemory_moves (f : Memory → Memory) (h : Moves still s z) : Moves still (modMemory f s) z := h.step rfl

theorem storeItem_moves (heard ready : Bool) (data : Option Word) (h : Moves still s z) :
    Moves still (storeItem heard ready data s) z := by
  unfold storeItem
  split
  · exact modSeq_moves _ h
  · exact h

theorem askPoll_moves (h : Moves still s z) : Moves still (askPoll s) z := by
  unfold askPoll
  with_reducible repeat' first
    | exact h | refine makeOffer_moves _ (Offer.fits_of_tame ?_) ?_ | with_unfolding_all exact rfl | split

theorem pollOnEntry_moves (h : Moves still s z) : Moves still (pollOnEntry s) z := by
  unfold pollOnEntry
  with_reducible repeat' first
    | exact h | apply askPoll_moves | split

theorem joinPending_moves (p : Pos) (h : Moves still s z) : Moves still (joinPending s p) z := by
  unfold joinPending
  split
  · exact h
  · exact makeOffer_moves _ (Offer.fits_of_tame rfl) (modService_cleared p _ rfl h)

theorem pollEnd_moves (slots : Tab Bool 4) (h : Moves still s z) : Moves still (pollEnd slots s) z :=
  foldl_moves (fun s p => joinPending_moves p (Moves.refl s)) _ (modService_plain _ rfl h)

theorem endRound_moves (p : Pos) (h : Moves still s z) : Moves still (endRound p s) z :=
  withdraw_moves _ _ _ (modService_cleared p _ rfl h)

theorem backToWord_moves (p : Pos) (h : Moves still s z) : Moves still (backToWord p s) z :=
  makeOffer_moves _ (Offer.fits_of_tame rfl) (modRound_moves p _ id h)

theorem roundLookup_moves (p : Pos) (h : Moves still s z) : Moves still (roundLookup p s) z := by
  unfold roundLookup
  split
  · exact h
  · rename_i f _
    have hlook := lookupGroup_moves p (groupOf f) none none (.service p) h
    split
    · rename_i e
      rw [e] at hlook
      split
      · exact makeOffer_moves _ (Offer.fits_of_tame rfl) (modRound_moves p _ id hlook)
      · exact backToWord_moves p hlook
    · rename_i e; rw [e] at hlook; exact modRound_moves p _ id hlook
    · rename_i e; rw [e] at hlook; exact modRound_moves p _ id hlook
    · rename_i e; rw [e] at hlook; exact backToWord_moves p hlook
    · rename_i e; rw [e] at hlook; exact hlook

theorem retryRound_moves (p : Pos) (h : Moves still s z) : Moves still (retryRound p s) z := by
  unfold retryRound
  with_reducible repeat' first
    | exact h | apply roundLookup_moves | split

theorem freedRound_moves (p : Pos) (h : Moves still s z) : Moves still (freedRound p s) z := by
  unfold freedRound
  with_reducible repeat' first
    | exact h | apply endRound_moves | split

/-- R167: a function is named while fewer than 16 were. -/
theorem nameFunction_moves (p : Pos) (f : Code) (h : Moves still s z) : Moves still (nameFunction p f s) z := by
  unfold nameFunction
  split
  · exact modService_plain _ rfl (endRound_moves p h)
  · rename_i hlim
    exact roundLookup_moves p (modRound_moves p _ (fun _ => not_le.mp hlim) h)

theorem wordEnd_moves (p : Pos) (out : LineOutcome) (data : Option Word) (h : Moves still s z) :
    Moves still (wordEnd p out data s) z := by
  unfold wordEnd
  with_reducible repeat' first
    | exact h | apply nameFunction_moves | apply endRound_moves | refine makeOffer_moves _ (Offer.fits_of_tame ?_) ?_ | with_unfolding_all exact rfl | dsimp only | split

theorem serviceData_moves (p : Pos) (f : Code) (w : Word) (h : Moves still s z) : Moves still (serviceData p f w s) z := by
  unfold serviceData
  with_reducible repeat' first
    | exact h | apply writeReading_moves | apply emit_moves | apply writeResult_moves | apply emitAll_moves
    | apply classSix_moves | apply endWatch_moves | dsimp only | (simp; done) | split

theorem serviceReadEnd_moves (p : Pos) (f : Code) (point : Nat) (out : LineOutcome) (data : Option Word)
    (h : Moves still s z) : Moves still (serviceReadEnd p f point out data s) z := by
  unfold serviceReadEnd
  with_reducible repeat' first
    | exact h | apply backToWord_moves | apply serviceData_moves | apply emitAll_moves | apply writeResult_moves
    | apply classSix_moves | apply pointUnknown_moves | refine makeOffer_moves _ (Offer.fits_of_tame ?_) ?_ | with_unfolding_all exact rfl | dsimp only | (simp; done) | (simp [holdNotices]; done) | split

theorem offerItem_moves (h : Moves still s z) : Moves still (offerItem s) z := by
  unfold offerItem
  with_reducible repeat' first
    | exact h | refine makeOffer_moves _ (Offer.fits_of_tame ?_) ?_ | with_unfolding_all exact rfl | split

theorem endSequence_moves (c : SeqEnd) (h : Moves still s z) : Moves still (endSequence c s) z :=
  withdrawWhere_moves _ (modSeq_moves _ h)

theorem walkMove_moves (h : Moves still s z) : Moves still (walkMove s) z := by
  unfold walkMove
  split
  · exact offerItem_moves (modSeq_moves _ h)
  · exact endSequence_moves _ h

theorem seqAdvance_moves (h : Moves still s z) : Moves still (seqAdvance s) z := by
  unfold seqAdvance
  split
  · exact endSequence_moves _ h
  · dsimp only
    split
    · exact walkMove_moves h
    · exact offerItem_moves (modSeq_moves _ h)

theorem seqRepeatLater_moves (h : Moves still s z) : Moves still (seqRepeatLater s) z := modSeq_moves _ h

theorem sequenceEnd_moves (run : Nat) (out : LineOutcome) (data : Option Word) (h : Moves still s z) :
    Moves still (sequenceEnd run out data s) z := by
  unfold sequenceEnd
  split
  · split
    · exact offerItem_moves h
    · exact seqAdvance_moves (storeItem_moves _ _ _ h)
    · exact endSequence_moves _ (storeItem_moves _ _ _ h)
    · exact endSequence_moves _ (storeItem_moves _ _ _ h)
    · exact seqAdvance_moves (storeItem_moves _ _ _ h)
    · exact seqAdvance_moves (storeItem_moves _ _ _ h)
    · exact seqRepeatLater_moves h
    · exact seqAdvance_moves (storeItem_moves _ _ _ h)
    · exact walkMove_moves h
    · exact h
  · exact h

theorem leavePoller_moves (p : Pos) (h : Moves still s z) : Moves still (leavePoller p s) z := by
  have hsequence : ∀ t, Moves still t z → Moves still
      (if seqRunning t && decide (t.sequence.pos = some p) then endSequence .positionLost t else t) z := by
    intro t h
    split
    · exact endSequence_moves _ h
    · exact h
  have hpoll : ∀ t, Moves still t z → Moves still (if anyInService t then t else withdraw .servicePoller 3 0 t) z := by
    intro t h
    split
    · exact h
    · exact withdraw_moves _ _ _ h
  unfold leavePoller
  refine hsequence _ (hpoll _ ?_)
  split
  · exact modService_plain _ rfl (endRound_moves p h)
  · exact endRound_moves p h

theorem startWrite_moves (w : Writing) (h : Moves still s z) : Moves still (startWrite w s) z := modMemory_moves _ h

theorem takeWrite_moves (p : Pos) (h : Moves still s z) : Moves still (takeWrite s p) z := by
  have hc : Moves still (modMemory (fun m => { m with pendingWrites := m.pendingWrites.put p none }) s) z :=
    modMemory_moves _ h
  unfold takeWrite
  split
  · dsimp only
    split
    · exact startWrite_moves _ hc
    · split
      · exact setMismatch_moves _ _ hc
      · exact startWrite_moves _ hc
  · exact h

theorem takePending_moves (h : Moves still s z) : Moves still (takePending s) z := by
  unfold takePending
  split
  · exact h
  · exact foldl_moves (fun s p => takeWrite_moves p (Moves.refl s)) _ h

theorem memoryRequest_moves (p : Pos) (h : Moves still s z) : Moves still (memoryRequest p s) z := by
  unfold memoryRequest
  split
  · exact takePending_moves (modMemory_moves _ h)
  · exact h

end Sys2Proof.Machine
end

section
/-!
What one notice keeps: a tame one leaves the run of positions alone, and every one the blocks, lists and plans.
-/
namespace Sys2Proof.Machine

variable {s t z : State} {still : Reach}

theorem takeLineEnd_tame {o : Offer} (out : LineOutcome) (data : Option Word) (ho : o.why.tame = true) (h : Moves still s z) :
    Moves still (takeLineEnd o out data s) z := by
  unfold takeLineEnd
  dsimp only
  split
  case h_1 e | h_2 e | h_3 e | h_5 e | h_7 e | h_8 e => rw [e] at ho; exact absurd ho Bool.false_ne_true
  case h_4 => exact sweepEnd_moves _ h
  case h_6 => exact h
  case h_9 => exact firstReadEnd_moves _ _ _ _ _ h
  case h_10 => exact readingEnd_moves _ _ _ _ _ _ h
  case h_11 => exact fetchEnd_moves _ _ _ _ _ _ h
  case h_12 => exact h
  case h_13 => exact wordEnd_moves _ _ _ h
  case h_14 => exact serviceReadEnd_moves _ _ _ _ _ h
  case h_15 => exact deliveryEnd_moves _ _ _ _ _ _ _ h
  case h_16 => exact stopEnd_moves _ _ _ _ h
  case h_17 => exact managementReadEnd_moves _ _ _ _ _ h
  case h_18 => exact periodicEnd_moves _ _ _ _ _ _ h
  case h_19 => exact watchReadEnd_moves _ _ _ _ _ h
  case h_20 => exact sequenceEnd_moves _ _ _ h

theorem takeLineEnd_moves (o : Offer) (out : LineOutcome) (data : Option Word) (h : ∀ r, Moves r s z) :
    Moves .any (takeLineEnd o out data s) z := by
  by_cases ho : o.why.tame = true
  · exact takeLineEnd_tame out data ho (h .any)
  · unfold takeLineEnd
    cases hw : o.why with
    | enumAssign n => exact assignEnd_moves n out (h .any)
    | recoveryAssign p => exact recoveryAssignEnd_moves p out nofun (h .any)
    | recoveryGet p => exact recoveryGetEnd_moves p out nofun (h .any)
    | positionRelease p => exact releaseEnd_moves p (h .any)
    | identWord p a => exact identEnd_moves p a out data nofun (h .any)
    | streamWord p a => exact (streamEnd_steps p a out data h).weaken
    | _ => rw [hw] at ho; exact absurd rfl ho

theorem takeLoaded_moves (w : Waiter) (h : Moves still s z) : Moves still (takeLoaded w s) z := by
  unfold takeLoaded
  split
  · exact lookupGroups_moves _ h
  · exact nodeLampLookup_moves _ _ h
  · exact rebuildStep_moves h
  · exact retryRound_moves _ h
  all_goals exact accessLoaded_moves _ h

theorem takeFailed_moves (w : Waiter) (h : Moves still s z) : Moves still (takeFailed w s) z := by
  unfold takeFailed
  split
  · exact lookupGroups_moves _ h
  · exact nodeLampLookup_moves _ _ h
  · exact rebuildStep_moves h
  · exact retryRound_moves _ h
  all_goals exact accessFailed_moves _ h

theorem takeFreed_moves (w : Waiter) (h : Moves still s z) : Moves still (takeFreed w s) z := by
  unfold takeFreed
  split
  · exact rescan_moves _ h
  · exact rebuildStep_moves h
  · exact freedRound_moves _ h
  all_goals exact h

theorem lampLookups_fit : ∀ x ∈ lampLookups, x.fits still = true := by
  intro x hx
  obtain ⟨p, -, hp⟩ := List.mem_flatMap.mp hx
  rcases List.mem_cons.mp hp with rfl | hp
  · rfl
  · rw [List.mem_singleton.mp hp]
    rfl

theorem takeNoSpace_moves (h : Moves still s z) : Moves still (takeNoSpace s) z :=
  emitAll_moves _ lampLookups_fit (foldl_moves (fun s p => retryRound_moves p (Moves.refl s)) _ (rescanAll_moves h))

theorem freeLine_moves (h : Moves still s z) : Moves still (freeLine s) z := grantLine_moves (h.step rfl)

/-- A tame notice, whatever the reach. -/
theorem runNotice_tame {x : Notice} (hx : x.tame = true) (hs : z.Listed → x.stopSound = true) (h : Moves still s z) :
    Moves still (runNotice x s) z := by
  cases x
  all_goals dsimp only [runNotice]
  case writeResult => exact writeResult_moves _ _ _ h
  case deferUnchecked => exact deferUnchecked_moves _ _ h
  case exitTest => exact exitTest_moves _ h
  case placeResult => exact placeResultFrame_moves _ _ _ h
  case placeValue => exact placeValueFrame_moves _ _ h
  case syncRefresh => exact syncRefresh_moves h
  case pollEnd => exact pollEnd_moves _ h
  case serviceNotice => exact askPoll_moves h
  case silenceNotice => exact silence_moves _ h
  case faultRequest => exact takeFault_moves _ h
  case scan => exact scan_moves _ _ h
  case classSix => exact classSix_moves _ h
  case commandChanged => exact commandChanged_moves _ _ h
  case lineUpdate => exact lineUpdate_moves _ h
  case lineChange => exact lineChange_moves _ h
  case levelBeneath => exact windowToDriven_moves h
  case windowNotice => exact takeWindow_moves _ _ h
  case motionDelivery => exact motionToDelivery_moves h
  case motionPolicy => exact motionToPolicy_moves h
  case motionLoadCheck => exact motionToSlot_moves h
  case motionConsist => exact motionToConsist_moves h
  case waiterLoaded => exact takeLoaded_moves _ h
  case waiterFailed => exact takeFailed_moves _ h
  case waiterFreed => exact takeFreed_moves _ h
  case noSpaceNotice => exact takeNoSpace_moves h
  case catchUp => exact catchUp_moves _ h
  case buildPlan => exact buildPlan_moves _ h
  case entryLamps => exact entryLamps_moves _ h
  case handItems => exact handItems_moves _ h
  case lookupGroups => exact lookupGroups_moves _ h
  case consistOffer => exact consistOffer_moves _ h
  case nodeLampOffer => exact nodeLampOffer_moves _ h
  case enterRunning => exact enterRunning_moves _ h
  case runningDelivery => exact runningReads_moves _ h
  case runningService => exact askPoll_moves h
  case serviceEntry => exact pollOnEntry_moves h
  case memoryRequest => exact memoryRequest_moves _ h
  case enumTrigger => exact enumTrigger_moves h
  case addContributor => exact fileContributor_moves _ _ h
  case changeRequest => exact changeRequest_moves _ h
  case rebuildEntry => exact rebuildOnEntry_moves h
  case rebuildStart => exact startRebuild_moves h
  case rebuildStep => exact rebuildStep_moves h
  case slotTest => exact slotTest_moves h
  case slotEnded => exact slotEnded_moves _ h
  case queueLeft => exact queueLeft_moves h
  case tripNotice => exact takeTrip_moves _ h
  case nodeLampLookup => exact nodeLampLookup_moves _ _ h
  case nodeLampEnded => exact nodeLampEnded_moves _ _ h
  case deliveredChanged p f => exact deliveredToCheck_moves p f .opportunistic (deliveredToCheck_moves p f .slot h)
  case setAccepted => exact askOpportunistic_moves _ _ h
  case endPass => exact endPass_moves h
  case resetBinding => exact resetBinding_moves _ h
  case resetDelivery => exact resetDelivery_moves _ h
  case resetLoadCheck => exact removePosition_moves _ h
  case removeEntries => exact removeEntries_moves _ h
  case removeFromSlot => exact removeFromSlot_moves _ h
  case resetService => exact leavePoller_moves _ h
  case lostDelivery => exact leaveService_moves _ h
  case lostLoadCheck => exact dropChecks_moves _ h
  case enterExercising => exact absurd hx Bool.false_ne_true
  case chainEnd => exact absurd hx Bool.false_ne_true
  case handOver => exact absurd hx Bool.false_ne_true
  case identVerdict => exact absurd hx Bool.false_ne_true
  case releaseRequest => exact absurd hx Bool.false_ne_true
  case releaseWalk => exact absurd hx Bool.false_ne_true
  case resetPosition => exact absurd hx Bool.false_ne_true
  case lineFree => exact freeLine_moves h
  case lineEnd => exact takeLineEnd_tame _ _ hx h
  case timeoutStop => exact timeoutStop_moves _ (fun w => of_decide_eq_true (hs w)) h

/-- Any notice. -/
theorem runNotice_moves (x : Notice) (hs : z.Listed → x.stopSound = true) (h : ∀ r, Moves r s z) : Moves .any (runNotice x s) z := by
  by_cases hx : x.tame = true
  · exact runNotice_tame hx hs (h .any)
  · cases x with
    | enterExercising p => exact enterExercising_moves (fun hk => absurd rfl hk) (h .any)
    | chainEnd n heard => exact chainEnd_moves n heard (h .any)
    | handOver n => exact handOver_moves n (h .any)
    | identVerdict p v before => exact (identVerdict_steps p v before h).weaken
    | releaseRequest p => exact releaseRequest_moves p (h .any)
    | releaseWalk => exact releaseWalk_moves (h .any)
    | resetPosition q => exact resetPosition_moves q (h .any)
    | lineEnd o out data => exact takeLineEnd_moves o out data h
    | _ => exact absurd rfl hx

/-! ## All the notices of a command -/

theorem setNotices_listed {ns : List Notice} (hs : s.Listed) (hn : ∀ x ∈ ns, x.stopSound = true) :
    ({ s with notices := ns } : State).Listed := ⟨hs.watches, { hs.lists with }, hn⟩

theorem noNotices_listed (hs : s.Listed) : ({ s with notices := [] } : State).Listed :=
  setNotices_listed hs fun _ hx => absurd hx List.not_mem_nil

theorem setNotices_owned (ns : List Notice) (hs : s.BlocksOwned) : ({ s with notices := ns } : State).BlocksOwned :=
  BlocksOwned.of_tables (b := s) rfl rfl hs

theorem runNotice_listed {x : Notice} (hx : x.stopSound = true) (hs : s.Listed) : (runNotice x s).Listed :=
  (runNotice_moves x (fun _ => hx) fun _ => Moves.refl s).listed hs

theorem drain_listed (k : Nat) (ns : List Notice) (hs : s.Listed) (hn : ∀ x ∈ ns, x.stopSound = true) : (drain k ns s).Listed := by
  induction k generalizing ns s with
  | zero => exact setNotices_listed hs (List.forall_mem_append.mpr ⟨hs.stops, hn⟩)
  | succ k ih =>
    cases ns with
    | nil => exact hs
    | cons x ns =>
      obtain ⟨hx, hns⟩ := List.forall_mem_cons.mp hn
      have hgo : ∀ r : State, r.Listed → (drain k (r.notices ++ ns) { r with notices := [] }).Listed :=
        fun r hr => ih _ (noNotices_listed hr) (List.forall_mem_append.mpr ⟨hr.stops, hns⟩)
      exact hgo (runNotice x { s with notices := [] }) (runNotice_listed hx (noNotices_listed hs))

/-- R80: a notice keeps the blocks owned, the stop of a timeout whatever its function. -/
theorem runNotice_owned (x : Notice) (hs : s.BlocksOwned) : (runNotice x s).BlocksOwned := by
  by_cases hx : x.stopSound = true
  · exact (runNotice_moves x (fun _ => hx) fun _ => Moves.refl s).owned hs
  · cases x with
    | timeoutStop p f => exact BlocksOwned.of_tables (b := s) rfl rfl hs
    | _ => exact absurd rfl hx

theorem drain_owned (k : Nat) (ns : List Notice) (hs : s.BlocksOwned) : (drain k ns s).BlocksOwned := by
  induction k generalizing ns s with
  | zero => exact setNotices_owned _ hs
  | succ k ih =>
    cases ns with
    | nil => exact hs
    | cons x ns =>
      have hgo : ∀ r : State, r.BlocksOwned → (drain k (r.notices ++ ns) { r with notices := [] }).BlocksOwned :=
        fun r hr => ih _ (setNotices_owned _ hr)
      exact hgo (runNotice x { s with notices := [] }) (runNotice_owned x (setNotices_owned _ hs))

/-- Acting on a command's notices keeps the lists and plans. -/
theorem settle_listed (h : s.Listed) : (settle s).Listed := by
  unfold settle
  exact drain_listed _ _ (noNotices_listed h) h.stops

/-- Acting on a command's notices keeps the blocks owned. -/
theorem settle_owned (h : s.BlocksOwned) : (settle s).BlocksOwned := by
  unfold settle
  exact drain_owned _ _ (setNotices_owned _ h)

end Sys2Proof.Machine
end

section
/-!
What a command does before its notices are acted on: the decoder, the direct lines, the tables and the port are none of what the
blocks, the lists and the run are about.
-/
namespace Sys2Proof.Machine

variable {s t z : State} {still : Reach}

/-! ## The clock -/

/-- R183: the LOST timers are none of what is kept here. -/
theorem lostAfter_plain (s : State) (d : Nat) (p : Pos) (r : ConsistRecord) : (lostAfter s d p r).state = r.state
    ∧ (lostAfter s d p r).required = r.required ∧ ((lostAfter s d p r).lampItems = r.lampItems
    ∧ (lostAfter s d p r).groupItems = r.groupItems ∧ (lostAfter s d p r).firstReads = r.firstReads) := by
  unfold lostAfter
  split <;> exact ⟨rfl, rfl, rfl, rfl, rfl⟩

theorem advance_moves (d : Nat) (h : Moves still s z) : Moves still (advance d s) z := by
  refine Moves.trans ?_ h
  refine Moves.of_quiet rfl (BlocksOwned.of_tables rfl rfl) (fun w => ⟨w.watches, { w.lists with
    required := fun p => ?_, plans := fun p => ?_ }⟩) fun _ => ⟨fun p => ?_, rfl, rfl⟩
  · rw [posRec_advance, (lostAfter_plain s d p _).2.1]
    exact w.lists.required p
  · rw [posRec_advance]
    obtain ⟨-, -, hl, hg, hf⟩ := lostAfter_plain s d p (posRec s p)
    exact (w.lists.plans p).less (by rw [hl]) (by rw [hg]) (by rw [hf])
  · unfold stateOf
    rw [posRec_advance, (lostAfter_plain s d p _).1]

theorem atMoment_moves {body : State → State} (hb : ∀ x, Moves still (body x) x) (t : Option Time) (h : Moves still s z) :
    Moves still (atMoment t body s) z := by
  cases t with
  | none => exact h
  | some t => exact (hb _).trans (advance_moves _ h)

theorem serve_moves (code need : Nat) {body : List Byte → State → State} (hb : ∀ args x, Moves still (body args x) x)
    (h : Moves still s z) : Moves still (serve code need body s) z := by
  unfold serve
  split
  · split
    · split
      · exact answer_moves _ _ h
      · exact (hb _ s).trans h
    · exact h
  · exact h

/-! ## The Command Decoder -/

theorem modDecoder_moves (f : Decoder → Decoder) (h : Moves still s z) : Moves still (modDecoder f s) z := h.step rfl

theorem modCommand_moves (f : Code) (g : CommandEntry → CommandEntry) (h : Moves still s z) : Moves still (modCommand f g s) z :=
  h.step rfl

theorem goMoving_moves (h : Moves still s z) : Moves still (goMoving s) z := by
  unfold goMoving
  split
  · exact modDecoder_moves _ h
  · exact emitAll_moves _ (by simp [motionNotices]) (modDecoder_moves _ h)

theorem goStationary_moves (h : Moves still s z) : Moves still (goStationary s) z :=
  emitAll_moves _ (by simp [motionNotices]) (modDecoder_moves _ h)

theorem judgeSpeed_moves (v : Nat) (h : Moves still s z) : Moves still (judgeSpeed v s) z := by
  unfold judgeSpeed
  split
  · exact goMoving_moves h
  · split
    · exact h
    · split <;> exact modDecoder_moves _ h

theorem updateSpeed_moves (v : Nat) (h : Moves still s z) : Moves still (updateSpeed v s) z :=
  judgeSpeed_moves v (modDecoder_moves _ h)

theorem speedGoesStale_moves (h : Moves still s z) : Moves still (speedGoesStale s) z := goMoving_moves (modDecoder_moves _ h)

theorem applyEntry_moves (frame : CanFrame) (e : DecodeEntry) (acc : State × Touched) (h : Moves still acc.1 z) :
    Moves still (applyEntry frame e acc).1 z := by
  obtain ⟨s, touched⟩ := acc
  unfold applyEntry
  dsimp only
  split
  · split
    · exact h
    · split
      · exact updateSpeed_moves _ h
      · exact modCommand_moves _ _ h
  · exact h

theorem applySlots_moves (frame : CanFrame) (es : List (Option DecodeEntry)) (acc : State × Touched) (h : Moves still acc.1 z) :
    Moves still (es.foldl (applySlot frame) acc).1 z := by
  induction es generalizing acc with
  | nil => exact h
  | cons x es ih =>
    cases x with
    | none => exact ih acc h
    | some e => exact ih _ (applyEntry_moves frame e acc h)

theorem updateNotices_fit (s : State) (f : Code) (old : Nat) : ∀ x ∈ updateNotices s f old, x.fits still = true := by
  unfold updateNotices changeNotices
  split <;> simp

theorem applyFrame_moves (frame : CanFrame) (h : Moves still s z) : Moves still (applyFrame frame s) z := by
  unfold applyFrame
  refine emitAll_moves _ (fun x hx => ?_) (applySlots_moves frame _ (s, []) h)
  obtain ⟨y, -, hy⟩ := List.mem_flatMap.mp hx
  exact updateNotices_fit _ _ _ x hy

theorem entryGoesStale_moves (f : Code) (h : Moves still s z) : Moves still (entryGoesStale f s) z := by
  unfold entryGoesStale
  dsimp only
  split
  · exact modCommand_moves f _ h
  · exact emitAll_moves _ (by simp [changeNotices]) (modCommand_moves f _ h)

theorem putDecodeEntry_moves (n : Fin 48) (e : Option DecodeEntry) (h : Moves still s z) : Moves still (putDecodeEntry n e s) z := by
  unfold putDecodeEntry
  dsimp only
  split
  · exact goMoving_moves (modDecoder_moves _ (modDecoder_moves _ h))
  · exact modDecoder_moves _ h

theorem setStaging_moves (x : Option Staging) (h : Moves still s z) : Moves still (setStaging x s) z := h.step rfl

theorem secondPart_moves (args : List Byte) (h : Moves still s z) : Moves still (secondPart args s) z := by
  unfold secondPart
  split
  · unfold decodeSecondPart
    dsimp only
    split
    · split
      · exact answer_moves _ _ (putDecodeEntry_moves _ none h)
      · exact answer_moves _ _ h
    · split
      · exact answer_moves _ _ (putDecodeEntry_moves _ _ (setStaging_moves none h))
      · exact answer_moves _ _ (setStaging_moves none h)
    · exact answer_moves _ _ h
  · refine answer_moves _ _ ?_
    split
    · exact setStaging_moves none h
    · exact h

/-! ## The direct lines -/

theorem modWired_moves (k : LineNo) (f : WiredEntry → WiredEntry) (h : Moves still s z) : Moves still (modWired k f s) z := h.step rfl

theorem writeWiredCode_moves (k : LineNo) (f : Option Code) (h : Moves still s z) : Moves still (writeWiredCode k f s) z :=
  emitAll_moves _ (by simp) (endHold_moves k (modWired_moves k _ h))

theorem writeWiredField_moves {k : LineNo} {x : WiredField} {v : Nat} (hw : writeWiredField k x v s = some t)
    (h : Moves still s z) : Moves still t z := by
  unfold writeWiredField at hw
  cases x <;> dsimp only at hw
  case code =>
    split at hw
    · cases hw; exact writeWiredCode_moves k none h
    · split at hw
      · split at hw
        · cases hw; exact writeWiredCode_moves k _ h
        · cases hw
      · cases hw
  case timebase =>
    obtain ⟨y, -, rfl⟩ := Option.map_eq_some_iff.mp hw
    exact modWired_moves k _ h
  case comp =>
    obtain ⟨y, -, rfl⟩ := Option.map_eq_some_iff.mp hw
    exact recompute_moves k (modWired_moves k _ h)
  all_goals cases hw; exact modWired_moves k _ h

theorem modTimebase_moves (t : TbName) (f : Timebase → Timebase) (h : Moves still s z) : Moves still (modTimebase t f s) z := by
  cases t <;> exact h.step rfl

theorem setFaultInput_moves (g : FaultGroup) (v : Bool) (h : Moves still s z) : Moves still (setFaultInput g v s) z := by
  cases g <;> exact h.step rfl

theorem setGroupTrip_moves (g : FaultGroup) (v : Bool) (h : Moves still s z) : Moves still (setGroupTrip g v s) z := by
  cases g <;> exact h.step rfl

theorem tripGroup_moves (g : FaultGroup) (h : Moves still s z) : Moves still (tripGroup g s) z := by
  unfold tripGroup
  exact emitAll_moves _ (by simp [↓List.forall_mem_append, ↓List.forall_mem_map]) (foldl_moves
    (fun s k => dropHold_moves k (modLine_moves k _ (Moves.refl s))) _ (setGroupTrip_moves g true h))

theorem assertFault_moves (g : FaultGroup) (h : Moves still s z) : Moves still (assertFault g s) z := by
  unfold assertFault
  dsimp only
  split
  · exact setFaultInput_moves g true h
  · exact tripGroup_moves g (setFaultInput_moves g true h)

theorem sampleLine_moves (k : LineNo) (code : Nat) (h : Moves still s z) : Moves still (sampleLine k code s) z := by
  unfold sampleLine
  dsimp only
  split
  · exact emitAll_moves _ (by simp) (dropHold_moves k (modLine_moves k _ (modLine_moves k _ h)))
  · exact takeSample_moves k code (modLine_moves k _ h)

theorem rearmGroup_moves (named : List LineNo) (g : FaultGroup) (h : Moves still s z) : Moves still (rearmGroup named g s) z := by
  unfold rearmGroup
  dsimp only
  split
  · exact h
  · exact foldl_moves (fun s k => modLine_moves k _ (Moves.refl s)) _ (setGroupTrip_moves g false h)

theorem takeSupply_moves (mv : Nat) (h : Moves still s z) : Moves still (takeSupply mv s) z := recomputeWhere_moves _ (h.step rfl)

theorem nextPeriod_moves (t : TbName) (h : Moves still s z) : Moves still (nextPeriod t s) z := by
  obtain ⟨m, hm, -⟩ := nextPeriod_eq t s
  rw [hm]
  exact Moves.step (modTimebase_moves t nextTimebase h) rfl

/-! ## Settings -/

theorem modSettings_moves (f : Settings → Settings) (h : Moves still s z) : Moves still (modSettings f s) z := h.step rfl

theorem staleTimeoutActs_moves (h : Moves still s z) : Moves still (staleTimeoutActs s) z := by
  have hentries : Moves still (allCodes.foldl (fun s f => staleIfDue f s) s) z := by
    refine foldl_moves (fun s f => ?_) _ h
    unfold staleIfDue
    split
    · exact entryGoesStale_moves f (Moves.refl s)
    · exact Moves.refl s
  refine foldl_moves (fun s k => ?_) _ ?_
  · split
    · exact expireHold_moves k (Moves.refl s)
    · exact Moves.refl s
  · unfold speedStaleIfDue
    split
    · exact speedGoesStale_moves hentries
    · exact hentries

theorem writeSetting_moves (x : Setting) (v : Nat) (h : Moves still s z) : Moves still (writeSetting x v s) z := by
  cases x
  case vref => exact recomputeWhere_moves _ (modSettings_moves _ h)
  case stale => exact staleTimeoutActs_moves (modSettings_moves _ h)
  all_goals exact h.step rfl

/-! ## The acting requests -/

theorem awaitOverride_moves (p : Pos) (f : Code) (v : Nat) (h : Moves still s z) : Moves still (awaitOverride p f v s) z := by
  unfold awaitOverride
  split
  · exact answer_moves _ _ h
  · exact holdHead_moves (setPendingOverride_moves _ h)

theorem setFunction_moves (p : Pos) (f : Code) (v : Nat) (h : Moves still s z) : Moves still (setFunction p f v s) z := by
  unfold setFunction
  split
  · exact answer_moves _ _ h
  · split
    · exact answer_moves _ _ h
    · split
      · exact answer_moves _ _ h
      · exact rescan_moves p (awaitOverride_moves p f v (emit_moves _ (by simp) (writeOverride_moves p f v h)))

theorem recheckCircuit_moves (args : List Byte) (h : Moves still s z) : Moves still (recheckCircuit args s) z := by
  unfold recheckCircuit
  split
  · exact answer_moves _ _ (recheck_moves _ none h)
  · exact answer_moves _ _ h

theorem recheckFunction_moves (args : List Byte) (h : Moves still s z) : Moves still (recheckFunction args s) z := by
  unfold recheckFunction
  split
  · split
    · exact answer_moves _ _ h
    · split
      · exact answer_moves _ _ h
      · exact answer_moves _ _ (recheck_moves _ _ h)
  · exact answer_moves _ _ h

theorem unholdStop_moves (p : Pos) (f : Code) (h : Moves still s z) : Moves still (unholdStop p f s) z :=
  holdOwed_moves p _ (fun o => by split <;> rfl) h

theorem entryOf_advance (d : Nat) (s : State) : entryOf (advance d s) = entryOf s := rfl

/-- R157: a watch that times out runs. -/
theorem watchTimeout_moves (p : Pos) (f : Code) (s : State) :
    Moves still (atMoment (watchLimit s p f) (watchTimesOut p f) s) s := by
  cases ht : watchLimit s p f with
  | none => exact Moves.refl s
  | some t =>
    have hw : (entryOf s p f).watchDeadline ≠ none := by
      unfold watchLimit at ht
      split at ht
      · rw [ht]; nofun
      · cases ht
    exact (watchTimesOut_moves p (s := advanceTo t s) hw).trans (advance_moves _ (Moves.refl s))

/-! ## The Consist Memory and the Tractor Port -/

theorem startWrite_plain (w : Writing) (h : Moves still s z) : Moves still (startWrite w s) z := modMemory_moves _ h

theorem nextWrite_moves (h : Moves still s z) : Moves still (nextWrite s) z := by
  unfold nextWrite
  split
  · exact startWrite_moves _ h
  · split
    · exact startWrite_moves _ h
    · exact takePending_moves h

theorem answerReset_moves (h : Moves still s z) : Moves still (answerReset s) z := by
  unfold answerReset
  split
  · exact h
  · split
    · exact setRequests_moves _ _ (h.step rfl)
    · exact setRequests_moves _ _ h

theorem placeWaitingReply_moves (h : Moves still s z) : Moves still (placeWaitingReply s) z := by
  unfold placeWaitingReply
  split
  · split
    · exact answerReset_moves h
    · exact answer_moves _ _ h
  · exact h

theorem finishSending_moves (h : Moves still s z) : Moves still (finishSending s) z := by
  unfold finishSending
  split
  · refine placeWaitingReply_moves ?_
    unfold noteResetSent
    split
    · exact h.step rfl
    · exact setQueue_moves _ h
  · exact h

theorem startSending_moves (h : Moves still s z) : Moves still (startSending s) z := by
  unfold startSending
  split
  · exact setQueue_moves _ h
  · exact h

theorem recordDone_moves (h : Moves still s z) : Moves still (recordDone s) z := by
  unfold recordDone
  split
  · exact nextWrite_moves (modMemory_moves _ h)
  · exact h

theorem rebuildDone_moves (h : Moves still s z) : Moves still (rebuildDone s) z := by
  unfold rebuildDone
  split
  · exact nextWrite_moves (modMemory_moves _ h)
  · exact h

theorem forgetDone_moves (h : Moves still s z) : Moves still (forgetDone s) z := by
  unfold forgetDone
  split
  · exact nextWrite_moves (answer_moves _ _ (modMemory_moves _ h))
  · exact answerReset_moves (modMemory_moves _ h)
  · exact h

theorem headerDone_moves (h : Moves still s z) : Moves still (headerDone s) z := by
  unfold headerDone
  split
  · exact answerReset_moves (modMemory_moves _ h)
  · exact nextWrite_moves (modMemory_moves _ h)
  · exact answerReset_moves (modMemory_moves _ h)
  · exact h

theorem forget_moves (h : Moves still s z) : Moves still (forget s) z := by
  unfold forget
  dsimp only
  split
  · exact startWrite_moves _ (holdHead_moves (modMemory_moves _ h))
  · exact holdHead_moves (modMemory_moves _ h)

theorem askReset_moves (h : Moves still s z) : Moves still (askReset s) z := by
  unfold askReset
  split
  · exact startWrite_moves _ (holdHead_moves h)
  · exact holdHead_moves h

theorem joinRequests_moves (r : Request) (h : Moves still s z) : Moves still (joinRequests r s) z := by
  unfold joinRequests
  dsimp only
  split
  · exact serveUnknown_moves _ (modMemory_moves _ (h.step rfl))
  · exact modMemory_moves _ (h.step rfl)

theorem takeRequest_moves (bytes : List Byte) (h : Moves still s z) : Moves still (takeRequest bytes s) z := by
  unfold takeRequest
  split
  · split
    · exact joinRequests_moves _ h
    · unfold answerBusy
      split
      · exact setQueue_moves _ h
      · exact setOverrun_moves true h
  · exact h

/-! ## The ends of transactions -/

theorem countEnd_moves (o : Offer) (out : LineOutcome) (h : Moves still s z) : Moves still (countEnd o out s) z := by
  unfold countEnd
  split
  · split
    · exact setUnheard_moves _ _ h
    · exact h
  · split
    · exact h
    · split
      · split
        · exact setUnheard_moves _ _ h
        · exact h
      · exact setUnheard_moves _ _ h

theorem endPoll_moves (slots : Tab Bool 4) (h : Moves still s z) : Moves still (endPoll slots s) z := by
  unfold endPoll
  split
  · exact emitAll_moves _ (by split <;> simp) (h.step rfl)
  · exact h

theorem replyData_moves (op : LineOp) (out : LineOutcome) (data : Option Word) (h : Moves still s z) :
    Moves still (replyData op out data s).2 z := by
  unfold replyData
  split
  · exact h.step rfl
  · exact h

/-- R35: what an end hands on beside the end itself leaves the run alone. -/
theorem endNotices_fit (fl : Flight) (out : LineOutcome) (service : Bool) (s : State) :
    ∀ x ∈ (if service then ((servicePos fl.offer).map fun p => Notice.serviceNotice p).toList else [])
      ++ ((raisesSilence fl.offer out s).map fun p => Notice.silenceNotice p).toList ++ [.lineFree], x.fits still = true := by
  have hmap : ∀ (o : Option Pos) (f : Pos → Notice), (∀ p, (f p).fits still = true) →
      ∀ x ∈ (o.map f).toList, x.fits still = true := fun o f hf x hx => by
    cases o with
    | none => cases hx
    | some p => rw [List.mem_singleton.mp hx]; exact hf p
  simp only [List.forall_mem_append, List.forall_mem_singleton]
  refine ⟨⟨?_, hmap _ _ fun _ => rfl⟩, rfl⟩
  split
  · exact hmap _ _ fun _ => rfl
  · exact fun _ hx => absurd hx List.not_mem_nil

/-- What an end brings about: none in flight, or one to be discarded, nothing but a free line. -/
theorem endTransaction_cases (out : LineOutcome) (data : Option Word) (service : Bool) (s : State) :
    (∀ r, Moves r (endTransaction out data service s) s) ∨ ∃ fl ns u, s.line.flight = some fl
      ∧ endTransaction out data service s = emitAll (.lineEnd fl.offer out data :: ns) u ∧ (∀ r, Moves r u s)
      ∧ ∀ r, ∀ x ∈ ns, Notice.fits r x = true := by
  unfold endTransaction
  split
  · exact Or.inl fun _ => Moves.refl s
  · rename_i fl hf
    dsimp only
    split
    · exact Or.inl fun r => emit_moves _ rfl (Moves.step (Moves.refl s) rfl)
    · exact Or.inr ⟨fl, _, _, openFlight_eq hf, rfl,
        fun r => countEnd_moves _ _ (Moves.step (Moves.refl s) rfl), fun r => endNotices_fit fl out service s⟩

theorem endTransaction_moves (out : LineOutcome) (data : Option Word) (service : Bool) (s : State) :
    Moves .any (endTransaction out data service s) s := by
  obtain h | ⟨fl, ns, u, -, he, hu, hns⟩ := endTransaction_cases out data service s
  · exact h .any
  · rw [he]
    exact emitAll_moves _ (List.forall_mem_cons.mpr ⟨by simp, hns .any⟩) (hu .any)

end Sys2Proof.Machine
end

section
/-!
Every command keeps the blocks owned and the lists and plans within their bounds; the commands that neither end a transaction,
reset the part nor ask for a release leave the run of positions alone.
-/
namespace Sys2Proof.Machine

variable {s t z : State} {still : Reach}

/-! ## Tame notices -/

/-- What a command keeps whose notices are tame. -/
structure Orderly (a b : State) : Prop where
  bounds : Moves .any a b
  run : (∀ x ∈ b.notices, Reach.tame.admits b x) → SameRun a b ∧ ∀ x ∈ a.notices, Reach.tame.admits a x

theorem Orderly.refl (s : State) : Orderly s s := ⟨Moves.refl s, fun w => ⟨SameRun.refl s, w⟩⟩

theorem Orderly.trans {a b c : State} (h : Orderly a b) (h' : Orderly b c) : Orderly a c where
  bounds := h.bounds.trans h'.bounds
  run := fun w => ⟨(h.run (h'.run w).2).1.trans (h'.run w).1, (h.run (h'.run w).2).2⟩

theorem Orderly.of_moves {a b : State} (h : ∀ r, Moves r a b) : Orderly a b :=
  ⟨h .any, fun w => ⟨(h .tame).run nofun, (h .tame).kept w⟩⟩

theorem admits_setNotices (ns : List Notice) {r : Reach} {x : Notice} (h : r.admits s x) :
    r.admits ({ s with notices := ns } : State) x :=
  Reach.admits_congr (fun _ => SameRun.of_records rfl rfl rfl) h

theorem admits_of_setNotices {ns : List Notice} {r : Reach} {x : Notice} (h : r.admits ({ s with notices := ns } : State) x) :
    r.admits s x :=
  Reach.admits_congr (fun _ => SameRun.of_records rfl rfl rfl) h

/-- A notice whose turn has come, where every one that waits is tame. -/
theorem runNotice_admitted {x : Notice} (hx : Reach.tame.admits s x) (hn : ∀ y ∈ s.notices, Reach.tame.admits s y) :
    SameRun (runNotice x s) s ∧ ∀ y ∈ (runNotice x s).notices, Reach.tame.admits (runNotice x s) y := by
  rcases hx with hx | ⟨p, rfl, hp⟩
  · by_cases hs : x.stopSound = true
    · have h := runNotice_tame (still := .tame) hx (fun _ => hs) (Moves.refl s)
      exact ⟨h.run nofun, h.kept hn⟩
    · cases x with
      | timeoutStop p f =>
        have hrun : SameRun (runNotice (.timeoutStop p f) s) s := SameRun.of_records rfl rfl rfl
        exact ⟨hrun, fun y hy => (List.mem_append.mp hy).elim (fun hy => Reach.admits_congr (fun _ => hrun) (hn y hy))
          fun hy => Reach.admits_of_fits (holdNotices_fit p y hy)⟩
      | _ => exact absurd rfl hs
  · have h := enterExercising_moves (still := .tame) (fun _ => hp) (Moves.refl s)
    exact ⟨h.run nofun, h.kept hn⟩

/-- Tame notices acted on in turn leave the run alone. -/
theorem drain_admitted (k : Nat) (ns : List Notice) (hn : ∀ y ∈ s.notices, Reach.tame.admits s y)
    (hns : ∀ y ∈ ns, Reach.tame.admits s y) :
    SameRun (drain k ns s) s ∧ ∀ y ∈ (drain k ns s).notices, Reach.tame.admits (drain k ns s) y := by
  induction k generalizing ns s with
  | zero =>
    exact ⟨SameRun.of_records rfl rfl rfl, List.forall_mem_append.mpr
      ⟨fun y hy => admits_setNotices _ (hn y hy), fun y hy => admits_setNotices _ (hns y hy)⟩⟩
  | succ k ih =>
    cases ns with
    | nil => exact ⟨SameRun.refl s, hn⟩
    | cons x ns =>
      obtain ⟨hx, hrest⟩ := List.forall_mem_cons.mp hns
      have hgo : ∀ r : State, SameRun r s → (∀ y ∈ r.notices, Reach.tame.admits r y) →
          SameRun (drain k (r.notices ++ ns) { r with notices := [] }) s
            ∧ ∀ y ∈ (drain k (r.notices ++ ns) { r with notices := [] }).notices,
              Reach.tame.admits (drain k (r.notices ++ ns) { r with notices := [] }) y := by
        intro r hr hadm
        have h := ih (s := { r with notices := [] }) (r.notices ++ ns) (fun y hy => absurd hy List.not_mem_nil)
          (List.forall_mem_append.mpr ⟨fun y hy => admits_setNotices _ (hadm y hy),
            fun y hy => admits_setNotices _ (Reach.admits_congr (fun _ => hr) (hrest y hy))⟩)
        exact ⟨h.1.trans (SameRun.trans (b := r) (SameRun.of_records rfl rfl rfl) hr), h.2⟩
      have hrun := runNotice_admitted (s := { s with notices := [] }) (admits_setNotices [] hx)
        (fun y hy => absurd hy List.not_mem_nil)
      exact hgo _ (hrun.1.trans (SameRun.of_records rfl rfl rfl)) hrun.2

theorem settle_moves (s : State) : Moves .any (settle s) s :=
  ⟨settle_owned, settle_listed, fun hk => absurd rfl hk, fun _ _ _ => trivial⟩

theorem settle_orderly (s : State) : Orderly (settle s) s where
  bounds := settle_moves s
  run := fun w => by
    have h := drain_admitted (s := { s with notices := [] }) Config.noticeBound s.notices (fun y hy => absurd hy List.not_mem_nil)
      fun y hy => admits_setNotices [] (w y hy)
    unfold settle
    exact ⟨h.1.trans (SameRun.of_records rfl rfl rfl), h.2⟩

/-! ## The shapes of a command -/

theorem settled_orderly {u : State} (h : ∀ r, Moves r u s) : Orderly (settle u) s :=
  (settle_orderly u).trans (Orderly.of_moves h)

theorem timer_orderly {body : State → State} (hb : ∀ r x, Moves r (body x) x) (t : Option Time) (s : State) :
    Orderly (atMoment t (fun s => settle (body s)) s) s := by
  cases t with
  | none => exact Orderly.refl s
  | some t => exact (settled_orderly fun r => hb r _).trans (Orderly.of_moves fun r => advance_moves _ (Moves.refl s))

/-- What is said of a command's effect is said of the state it answers. -/
theorem Orderly.of_next {a s t : State} (ha : Orderly a s)
    (h : (Host.Outcome.next a : Host.Outcome State Fault Refusal) = .next t) : Orderly t s :=
  Host.Outcome.next.inj h ▸ ha

theorem served_orderly (code need : Nat) {body : List Byte → State → State} (hb : ∀ r args x, Moves r (body args x) x)
    (s : State) : Orderly (serve code need body s) s :=
  Orderly.of_moves fun r => serve_moves code need (hb r) (Moves.refl s)

theorem servedThen_orderly (code need : Nat) {body : List Byte → State → State} (hb : ∀ r args x, Moves r (body args x) x)
    (s : State) : Orderly (settle (serve code need body s)) s :=
  settled_orderly fun r => serve_moves code need (hb r) (Moves.refl s)

/-- A sample that is due, its notices acted on before the command ends. -/
theorem sampleTickReached_orderly (k : LineNo) (code : Nat) (s : State) : Orderly (sampleTickReached k code s) s := by
  have hm := fun r => modLine_moves (still := r) k (fun l => { l with sampled := true }) (Moves.refl s)
  unfold sampleTickReached
  dsimp only
  split
  · exact Orderly.of_moves hm
  · split
    · exact Orderly.of_moves fun r => modLine_moves k _ (hm r)
    · exact settled_orderly fun r => sampleLine_moves k code (hm r)

/-! ## The requests -/

theorem exec_tableRequest_orderly {c : Instr} (hc : tableRequest c = true) (h : exec c s = .next t) : Orderly t s := by
  cases c
  case readState =>
    cases h
    refine served_orderly _ _ (fun r args x => ?_) s
    split
    · exact answerPart_moves _ _ _ (Moves.refl x)
    · exact answer_moves _ _ (Moves.refl x)
  case writeDecodeFirstPart =>
    cases h
    split
    · exact Orderly.refl s
    · refine served_orderly _ _ (fun r args x => ?_) s
      split
      · exact answer_moves _ _ (setStaging_moves _ (Moves.refl x))
      · exact answer_moves _ _ (Moves.refl x)
  case writeDecodeSecondPart =>
    cases h
    split
    · exact servedThen_orderly _ _ (fun r args x => secondPart_moves args (Moves.refl x)) s
    · exact Orderly.refl s
  case readDecode =>
    cases h
    refine served_orderly _ _ (fun r args x => ?_) s
    split
    · exact answerPart_moves _ _ _ (Moves.refl x)
    · exact answer_moves _ _ (Moves.refl x)
  case writePolicy =>
    cases h
    refine servedThen_orderly _ _ (fun r args x => ?_) s
    split
    · exact takePolicyWrite_moves (answer_moves _ _ (Moves.step (Moves.refl x) rfl))
    · exact answer_moves _ _ (Moves.refl x)
  case readPolicy =>
    cases h
    refine served_orderly _ _ (fun r args x => ?_) s
    split <;> exact answer_moves _ _ (Moves.refl x)
  case writeWired =>
    cases h
    refine servedThen_orderly _ _ (fun r args x => ?_) s
    split
    · rename_i hw
      obtain ⟨k, -, hk⟩ := Option.bind_eq_some_iff.mp hw
      obtain ⟨f, -, hf⟩ := Option.bind_eq_some_iff.mp hk
      exact answer_moves _ _ (writeWiredField_moves hf (Moves.refl x))
    · exact answer_moves _ _ (Moves.refl x)
  case readWired =>
    cases h
    refine served_orderly _ _ (fun r args x => ?_) s
    split <;> exact answer_moves _ _ (Moves.refl x)
  case writeTimebase =>
    cases h
    refine served_orderly _ _ (fun r args x => ?_) s
    split
    · exact answer_moves _ _ (modTimebase_moves _ _ (Moves.refl x))
    · exact answer_moves _ _ (Moves.refl x)
  case setSystem =>
    cases h
    refine servedThen_orderly _ _ (fun r args x => ?_) s
    split
    · split
      · exact writeSetting_moves _ _ (answer_moves _ _ (Moves.refl x))
      · exact answer_moves _ _ (Moves.refl x)
    · exact answer_moves _ _ (Moves.refl x)
  case readFault => cases h; exact served_orderly _ _ (fun r args x => answerPart_moves _ _ _ (Moves.refl x)) s
  case clearFault =>
    cases h
    refine served_orderly _ _ (fun r args x => ?_) s
    exact answer_moves _ _ (Moves.step (Moves.refl x) rfl)
  case rearmLines =>
    cases h
    refine served_orderly _ _ (fun r args x => ?_) s
    dsimp only
    split
    · exact answer_moves _ _ (Moves.refl x)
    · exact answer_moves _ _ (rearmGroup_moves _ _ (rearmGroup_moves _ _ (Moves.refl x)))
  all_goals cases hc

theorem exec_actRequest_orderly {c : Instr} (hc : actRequest c = true) (hr : c ≠ .releasePosition) (h : exec c s = .next t) :
    Orderly t s := by
  cases c
  case setFunction =>
    cases h
    refine servedThen_orderly _ _ (fun r args x => ?_) s
    split
    · exact setFunction_moves _ _ _ (Moves.refl x)
    · exact answer_moves _ _ (Moves.refl x)
  case clearOverride =>
    cases h
    refine servedThen_orderly _ _ (fun r args x => ?_) s
    split
    · exact answer_moves _ _ (clearOverrideAt_moves _ _ (Moves.refl x))
    · exact answer_moves _ _ (Moves.refl x)
  case getFunction =>
    cases h
    refine servedThen_orderly _ _ (fun r args x => ?_) s
    split
    · exact tryRead_moves _ _ (Moves.refl x)
    · exact answer_moves _ _ (Moves.refl x)
  case clearActivity =>
    cases h
    refine served_orderly _ _ (fun r args x => ?_) s
    split
    · exact answer_moves _ _ (foldl_moves (fun y p => clearActivityOf_moves p (Moves.refl y)) _ (Moves.refl x))
    · exact answer_moves _ _ (Moves.refl x)
  case pinGroup =>
    cases h
    refine servedThen_orderly _ _ (fun r args x => ?_) s
    split
    · exact answer_moves _ _ (pinGroup_moves _ _ (Moves.refl x))
    · exact answer_moves _ _ (Moves.refl x)
  case unpinGroup =>
    cases h
    refine servedThen_orderly _ _ (fun r args x => ?_) s
    split
    · exact answer_moves _ _ (unpinGroup_moves _ _ (Moves.refl x))
    · exact answer_moves _ _ (Moves.refl x)
  case recheck =>
    cases h
    refine servedThen_orderly _ _ (fun r args x => ?_) s
    split
    · exact recheckCircuit_moves args (Moves.refl x)
    · exact recheckFunction_moves args (Moves.refl x)
    · exact answer_moves _ _ (Moves.refl x)
  case startSequence =>
    cases h
    refine servedThen_orderly _ _ (fun r args x => ?_) s
    split
    · exact answer_moves _ _ (Moves.refl x)
    · split
      · exact answer_moves _ _ (Moves.refl x)
      · split
        · exact answer_moves _ _ (Moves.refl x)
        · split
          · exact answer_moves _ _ (Moves.refl x)
          · exact offerItem_moves (modSeq_moves _ (answer_moves _ _ (Moves.refl x)))
  case abortSequence =>
    cases h
    refine served_orderly _ _ (fun r args x => ?_) s
    split
    · exact answer_moves _ _ (endSequence_moves _ (Moves.refl x))
    · exact answer_moves _ _ (Moves.refl x)
  case readSequenceItem =>
    cases h
    refine served_orderly _ _ (fun r args x => ?_) s
    split
    · exact answer_moves _ _ (Moves.refl x)
    · split <;> exact answerPart_moves _ _ _ (Moves.refl x)
  case releasePosition => exact absurd rfl hr
  case forgetConsist => cases h; exact served_orderly _ _ (fun r _ x => forget_moves (Moves.refl x)) s
  case resetDevice => cases h; exact served_orderly _ _ (fun r _ x => askReset_moves (Moves.refl x)) s
  all_goals cases hc

/-! ## The events -/

/-- The commands that ask for a release of themselves. -/
def asksRelease (c : Instr) : Bool :=
  match c with
  | .releasePosition | .lostTimeout _ | .couplingFall => true
  | _ => false

theorem exec_event_orderly {c : Instr} (hc : plainEvent c = true) (hr : asksRelease c = false) (h : exec c s = .next t) :
    Orderly t s := by
  cases c
  case canFrameReceived frame =>
    cases h
    split
    · exact Orderly.refl s
    · split
      · exact Orderly.of_moves fun r => takeRequest_moves _ (Moves.refl s)
      · exact settled_orderly fun r => applyFrame_moves frame (Moves.refl s)
  case commandStale f => exact (timer_orderly (fun r x => entryGoesStale_moves f (Moves.refl x)) _ s).of_next h
  case speedStale => exact (timer_orderly (fun r x => speedGoesStale_moves (Moves.refl x)) _ s).of_next h
  case stopTimerExpiry => exact (timer_orderly (fun r x => goStationary_moves (Moves.refl x)) _ s).of_next h
  case cplChange present =>
    cases h
    unfold coupleLevel
    split
    · exact Orderly.refl s
    · exact Orderly.of_moves fun r => modConsist_moves _ rfl rfl rfl (Moves.refl s)
  case couplingRise =>
    exact (timer_orderly (fun r x => emitAll_moves _ (by simp) (modConsist_moves _ rfl rfl rfl (Moves.refl x))) _ s).of_next h
  case chainProbe =>
    exact (timer_orderly (fun r x => emit_moves _ (by simp) (modConsist_moves _ rfl rfl rfl (Moves.refl x))) _ s).of_next h
  case enumerationSpacingEnd => exact (timer_orderly (fun r x => spacingEnds_moves (Moves.refl x)) _ s).of_next h
  case enumerationSettleEnd => exact (timer_orderly (fun r x => settleEnds_moves (Moves.refl x)) _ s).of_next h
  case exerciseReadRepeat p f =>
    cases h
    refine timer_orderly (fun r x => ?_) _ s
    exact consistOffer_moves p (modFirstRead_moves p f (fun y => { y with notBefore := none }) (fun _ => rfl) (Moves.refl x))
  case exerciseDeadline p => exact (timer_orderly (fun r x => deadlinePasses_moves p (Moves.refl x)) _ s).of_next h
  case unavailableRetry p f => exact (timer_orderly (fun r x => rescan_moves p (Moves.refl x)) _ s).of_next h
  case stopRepeat p f => exact (timer_orderly (fun r x => rescan_moves p (unholdStop_moves p f (Moves.refl x))) _ s).of_next h
  case periodicReadDue p f => exact (timer_orderly (fun r x => classSix_moves p (Moves.refl x)) _ s).of_next h
  case watchReadDue p f => exact (timer_orderly (fun r x => classSix_moves p (Moves.refl x)) _ s).of_next h
  case actuatorWatchTimeout p f =>
    cases h
    have hm := fun r => watchTimeout_moves (still := r) p f s
    cases ht : watchLimit s p f with
    | none => exact Orderly.refl s
    | some t =>
      rw [ht] at hm
      exact settled_orderly hm
  case nodeLampReadingDue p src => exact (timer_orderly (fun r x => startReading_moves p src (Moves.refl x)) _ s).of_next h
  case nodeLampCheckExpiry p src => exact (timer_orderly (fun r x => expireCheck_moves p src (Moves.refl x)) _ s).of_next h
  case exerciseSlotExpiry => exact (timer_orderly (fun r x => expireSlot_moves (Moves.refl x)) _ s).of_next h
  case pollTime => exact (timer_orderly (fun r x => askPoll_moves (Moves.refl x)) _ s).of_next h
  case sequenceRepeat => exact (timer_orderly (fun r x => offerItem_moves (modSeq_moves _ (Moves.refl x))) _ s).of_next h
  case sequenceItemTimeout =>
    exact (Orderly.of_moves fun r => atMoment_moves (fun x => endSequence_moves .timeout (Moves.refl x)) _ (Moves.refl s)).of_next h
  case recoveryAttempt p => exact (timer_orderly (fun r x => attemptExpires_moves p (Moves.refl x)) _ s).of_next h
  case periodBoundary tb => exact (Orderly.of_moves fun r => nextPeriod_moves tb (advance_moves _ (Moves.refl s))).of_next h
  case senseSample k code =>
    cases h
    cases ht : sampleMoment s k with
    | none => exact Orderly.refl s
    | some t => exact (sampleTickReached_orderly k code _).trans (Orderly.of_moves fun r => advance_moves _ (Moves.refl s))
  case groupTrip g =>
    cases h
    split
    · exact Orderly.refl s
    · exact settled_orderly fun r => assertFault_moves g (Moves.refl s)
  case faultInputDeasserted g => exact (Orderly.of_moves fun r => setFaultInput_moves g false (Moves.refl s)).of_next h
  case supplyReading mv => exact (Orderly.of_moves fun r => takeSupply_moves mv (advance_moves _ (Moves.refl s))).of_next h
  case holdTimeout k =>
    exact (Orderly.of_moves fun r => atMoment_moves (fun x => expireHold_moves k (Moves.refl x)) _ (Moves.refl s)).of_next h
  case consistTimer =>
    cases h
    exact Orderly.of_moves fun r => Moves.step (b := placeConsist (advanceTo s.port.consistAt s))
      (placeConsist_moves (advance_moves _ (Moves.refl s))) rfl
  case resultRefresh =>
    cases h
    split
    · exact Orderly.of_moves fun r => atMoment_moves (fun x => placeRefresh_moves (Moves.refl x)) _ (Moves.refl s)
    · exact Orderly.refl s
  case frameSent => exact (Orderly.of_moves fun r => finishSending_moves (Moves.refl s)).of_next h
  case frameTransmissionStart => exact (Orderly.of_moves fun r => startSending_moves (Moves.refl s)).of_next h
  case recordWriteComplete => exact (Orderly.of_moves fun r => recordDone_moves (Moves.refl s)).of_next h
  case rebuildComplete => exact (Orderly.of_moves fun r => rebuildDone_moves (Moves.refl s)).of_next h
  case forgetWriteComplete => exact (Orderly.of_moves fun r => forgetDone_moves (Moves.refl s)).of_next h
  case headerWriteComplete => exact (Orderly.of_moves fun r => headerDone_moves (Moves.refl s)).of_next h
  case lostTimeout p => cases hr
  case couplingFall => cases hr
  all_goals cases hc

theorem exec_orderly {c : Instr} (hc : endsOrResets c = false) (hr : asksRelease c = false) (h : exec c s = .next t) :
    Orderly t s := by
  cases ht : tableRequest c with
  | true => exact exec_tableRequest_orderly ht h
  | false =>
    cases ha : actRequest c with
    | true => exact exec_actRequest_orderly ha (fun e => by rw [e] at hr; cases hr) h
    | false => exact exec_event_orderly (by simp [plainEvent, hc, ht, ha]) hr h

theorem exec_poll_orderly {slots : Tab Bool 4} (h : exec (.pollWindowEnd slots) s = .next t) : Orderly t s :=
  (timer_orderly (fun r x => endPoll_moves slots (Moves.refl x)) _ s).of_next h

/-! ## Every command keeps the bounds -/

theorem askRelease_served (s : State) : Moves .any (serve 23 1 (fun args s =>
    match argPos args 0 with
    | some p => askRelease p s
    | none => answer .badArg [] s) s) s := by
  refine serve_moves 23 1 (fun args x => ?_) (Moves.refl s)
  split
  · exact askRelease_moves _ (Moves.refl x)
  · exact answer_moves _ _ (Moves.refl x)

theorem exec_release_moves {c : Instr} (hr : asksRelease c = true) (h : exec c s = .next t) : Moves .any t s := by
  cases c
  case releasePosition => cases h; exact (settle_moves _).trans (askRelease_served s)
  case lostTimeout p =>
    cases h
    split
    · exact (settle_moves _).trans (releaseRequest_moves p (advance_moves _ (Moves.refl s)))
    · exact Moves.refl s
  case couplingFall =>
    cases h
    refine atMoment_moves (fun x => (settle_moves _).trans ?_) _ (Moves.refl s)
    exact emit_moves _ rfl (suspendChecks_moves (endPass_moves (modConsist_moves _ rfl rfl rfl (Moves.refl x))))
  all_goals cases hr

/-- Nothing is owned, listed or planned as after reset. -/
theorem Moves.of_reset {a b : State} (hb : a.binding = {}) (hc : a.consist.table = Tab.fill {}) (hs : a.consist.streams = Tab.fill {})
    (hd : a.delivery = {}) (hk : a.check = {}) (hr : a.service.rounds = Tab.fill {}) (hn : a.notices = []) : Moves .any a b where
  owned := fun _ => by
    have hblock : ∀ x, blockOf a x = {} := fun x => by rw [blockOf, hb]; exact Tab.get_fill _ _
    have hgroup : ∀ p g, groupRec a p g = {} := fun p g => by
      rw [groupRec, hb]
      show ((Tab.fill (Tab.fill {}) : Tab (Tab GroupRecord 12) 4).get p).get g = {}
      rw [Tab.get_fill, Tab.get_fill]
    exact ⟨fun x _ => ⟨by rw [hblock], fun m => by rw [hblock]; exact Tab.get_fill _ _⟩,
      fun x hx => absurd (by rw [hblock]) hx, fun p g x hx => by rw [hgroup] at hx; cases hx⟩
  listed := fun _ => by
    have hblock : ∀ x, blockOf a x = {} := fun x => by rw [blockOf, hb]; exact Tab.get_fill _ _
    have hentry : ∀ p f, entryOf a p f = {} := fun p f => by
      rw [entryOf, hd]
      show ((Tab.fill (Tab.fill {}) : Tab (Tab StatusEntry 192) 4).get p).get f = {}
      rw [Tab.get_fill, Tab.get_fill]
    have hpos : ∀ p, posRec a p = {} := fun p => by rw [posRec, hc]; exact Tab.get_fill _ _
    refine ⟨fun p f hw => absurd (by rw [hentry]) hw,
      ⟨?_, fun p => ?_, fun p => ?_, fun p => ?_, fun p => ?_, fun k => ?_, fun p => ?_⟩,
      by rw [hn]; exact fun _ hx => absurd hx List.not_mem_nil⟩
    · simp [hblock]
    · rw [hd, show ({} : Delivery).owed.get p = [] from Tab.get_fill _ _]
      exact ⟨Nat.zero_le _, List.nodup_nil, fun _ hx => absurd hx List.not_mem_nil⟩
    · rw [streamRec, hs, Tab.get_fill]
      exact ⟨Nat.zero_le _, Nat.zero_le _⟩
    · rw [hpos]; exact Nat.zero_le _
    · rw [hpos]; exact ConsistRecord.PlanSound.empty rfl rfl rfl
    · rw [circuitRec, hk, show ({} : LoadCheck).circuits.get k = {} from Tab.get_fill _ _]
      exact List.nodup_nil
    · rw [roundOf, hr, Tab.get_fill]
      exact Nat.zero_le _
  run := fun hk => absurd rfl hk
  kept := fun _ _ _ => trivial

theorem assertIf_moves (x : Bool) (g : FaultGroup) (h : Moves still s z) : Moves still (assertIf x g s) z := by
  unfold assertIf
  split
  · exact assertFault_moves g h
  · exact h

theorem resetNow_moves (straps : Fin 4) (s : State) : Moves still (resetNow straps s) (deviceReset straps s) :=
  makeOffer_moves _ (Offer.fits_of_tame rfl) (recomputeWhere_moves _ (Moves.refl _))

theorem exec_ends_moves {c : Instr} (hc : endsOrResets c = true) (h : exec c s = .next t) : Moves .any t s := by
  cases c
  case powerOnReset pins cut =>
    cases h
    exact (settle_moves _).trans (assertIf_moves _ _ (assertIf_moves _ _ (Moves.of_reset rfl rfl rfl rfl rfl rfl rfl)))
  case deviceReset straps =>
    cases h
    exact atMoment_moves (fun x => (settle_moves _).trans ((resetNow_moves straps x).trans
      (Moves.of_reset rfl rfl rfl rfl rfl rfl rfl))) _ (Moves.refl s)
  case transactionEnd r =>
    cases h
    split
    · split
      · exact ((settle_moves _).trans (endTransaction_moves _ _ _ _)).trans (replyData_moves _ _ _ (Moves.refl s))
      · exact Moves.refl s
    · exact Moves.refl s
  case replyDeadline =>
    cases h
    exact atMoment_moves (fun x => (settle_moves _).trans (endTransaction_moves _ _ _ x)) _ (Moves.refl s)
  case pollWindowEnd slots => exact (exec_poll_orderly h).bounds
  all_goals cases hc

theorem exec_moves {c : Instr} (h : exec c s = .next t) : Moves .any t s := by
  cases hc : endsOrResets c with
  | true => exact exec_ends_moves hc h
  | false =>
    cases hr : asksRelease c with
    | true => exact exec_release_moves hr h
    | false => exact (exec_orderly hc hr h).bounds

theorem step_moves (h : step s = .next t) : Moves .any t s := by
  unfold step at h
  split at h
  · cases h
    exact advance_moves 1 (Moves.refl s)
  · exact (exec_moves h).trans (Moves.step (Moves.refl s) rfl)

/-- Settles O6: that each block is owned by the group that names it is among what every step keeps. -/
theorem everyStepKeepsBlocks : Obligations.EveryStepKeepsBlocks := by
  unfold Obligations.EveryStepKeepsBlocks
  exact fun s t hs h => (step_moves h).owned hs

/-- Settles O5: the bounds of the lists, plans and rounds, and the watches at ACTUATORs, are among what every step keeps. -/
theorem everyStepKeepsLists : Obligations.EveryStepKeepsLists := by
  unfold Obligations.EveryStepKeepsLists
  intro s t hn hw hl h
  have ht := (step_moves h).listed ⟨hw, hl, by rw [hn]; exact fun _ hx => absurd hx List.not_mem_nil⟩
  exact ⟨ht.watches, ht.lists⟩

end Sys2Proof.Machine
end

section
/-!
The occupied positions stay an unbroken run (R56, R175). The notices that move the run are of the pass and of a release; a command's
queue holds at most one that needs something of the run, behind notices that leave the run alone, and before notices that need nothing.
-/
namespace Sys2Proof.Machine

variable {s t z : State}

/-! ## The queue of a command -/

/-- What a notice needs of the run when its turn comes. -/
def Notice.ready (s : State) (x : Notice) : Prop :=
  match x with
  | .handOver n => s.consist.release.active = false ∧ ∀ m, m < n → stateOf s m ≠ .vacant
  | .resetPosition q => s.consist.release.active = true ∧ s.consist.release.current = some q
  | .chainEnd _ _ => s.consist.release.active = true → s.consist.release.current ≠ none
  | .lineEnd o _ _ => o.why.loose = true ∨ (s.consist.release.active = true → s.consist.release.current ≠ none)
  | .enterExercising p => stateOf s p ≠ .vacant
  | _ => True

theorem Notice.ready_of_loose {x : Notice} (h : x.loose = true) : x.ready s := by
  cases x with
  | lineEnd o out data => exact Or.inl h
  | enterExercising p => cases h
  | chainEnd n heard => cases h
  | handOver n => cases h
  | resetPosition q => cases h
  | _ => trivial

theorem Notice.ready_congr {a b : State} (h : SameRun a b) {x : Notice} (hx : x.ready b) : x.ready a := by
  obtain ⟨hv, ha, hc⟩ := h
  cases x with
  | lineEnd o out data => exact hx.imp_right fun w => by rw [ha, hc]; exact w
  | enterExercising p => exact fun e => hx ((hv p).mp e)
  | chainEnd n heard => rw [Notice.ready, ha, hc]; exact hx
  | handOver n => exact ⟨ha.trans hx.1, fun m hm e => hx.2 m hm ((hv m).mp e)⟩
  | resetPosition q => exact ⟨ha.trans hx.1, hc.trans hx.2⟩
  | _ => trivial

/-- The queue of a command: tame notices, then at most one that needs something of the run, then such as need nothing. -/
inductive Lined (s : State) : List Notice → Prop
  | nil : Lined s []
  | guarded (x : Notice) (ns : List Notice) : x.ready s → (∀ y ∈ ns, y.loose = true) → Lined s (x :: ns)
  | tame (x : Notice) (ns : List Notice) : Reach.tame.admits s x → Lined s ns → Lined s (x :: ns)

theorem Lined.of_loose {ns : List Notice} (h : ∀ y ∈ ns, y.loose = true) : Lined s ns := by
  cases ns with
  | nil => exact .nil
  | cons x ns =>
    obtain ⟨hx, hns⟩ := List.forall_mem_cons.mp h
    exact .guarded x ns (Notice.ready_of_loose hx) hns

theorem Lined.tame_append {xs ns : List Notice} (hx : ∀ y ∈ xs, Reach.tame.admits s y) (h : Lined s ns) : Lined s (xs ++ ns) := by
  induction xs with
  | nil => exact h
  | cons x xs ih =>
    obtain ⟨hx, hxs⟩ := List.forall_mem_cons.mp hx
    exact .tame x _ hx (ih hxs)

theorem Lined.append_loose {xs ns : List Notice} (h : Lined s xs) (hn : ∀ y ∈ ns, y.loose = true) : Lined s (xs ++ ns) := by
  induction h with
  | nil => exact .of_loose hn
  | guarded x xs hx hxs => exact .guarded x _ hx (List.forall_mem_append.mpr ⟨hxs, hn⟩)
  | tame x xs hx _ ih => exact .tame x _ hx ih

theorem Lined.congr {a b : State} (hr : SameRun a b) {ns : List Notice} (h : Lined b ns) : Lined a ns := by
  induction h with
  | nil => exact .nil
  | guarded x ns hx hns => exact .guarded x ns (Notice.ready_congr hr hx) hns
  | tame x ns hx _ ih => exact .tame x ns (Reach.admits_congr (fun _ => hr) hx) ih

/-- The run is unbroken, and no waiting notice breaks it. -/
structure Regular (s : State) : Prop where
  unbroken : s.RunUnbroken
  lined : Lined s s.notices

theorem State.RunUnbroken.of_sameRun {a b : State} (h : SameRun a b) (hb : b.RunUnbroken) : a.RunUnbroken where
  run := fun p q hpq hq hp => hb.run p q hpq (fun e => hq ((h.vacant q).mpr e)) ((h.vacant p).mp hp)
  reset := fun ha q x hc hx => (h.vacant x).mpr (hb.reset (h.active ▸ ha) q x (h.current ▸ hc) hx)
  passed := fun ha hc x => (h.vacant x).mpr (hb.passed (h.active ▸ ha) (h.current ▸ hc) x)

/-- An operation that hands on what needs nothing of the run, and leaves the run alone. -/
theorem Regular.of_loose {a b : State} (h : Moves .loose a b) (hb : b.RunUnbroken) (hn : b.notices = []) : Regular a :=
  ⟨.of_sameRun (h.run nofun) hb, .of_loose (h.kept (by rw [hn]; exact fun _ hx => absurd hx List.not_mem_nil))⟩

/-- An operation that hands on what leaves the run alone, and does so itself. -/
theorem Regular.of_admitted {a b : State} (h : SameRun a b) (hk : ∀ y ∈ a.notices, Reach.tame.admits a y) (hb : b.RunUnbroken) :
    Regular a :=
  ⟨.of_sameRun h hb, by simpa using Lined.tame_append hk .nil⟩

theorem Regular.of_steps {a b : State} (h : Steps a b) (hb : b.RunUnbroken) (hn : b.notices = []) : Regular a :=
  h.elim (fun h => .of_loose h hb hn) fun h => .of_admitted (h.run nofun)
    (h.kept (by rw [hn]; exact fun _ hx => absurd hx List.not_mem_nil)) hb

/-- An operation that hands on one notice, which is ready. -/
theorem Regular.of_emit {x : Notice} (hs : s.RunUnbroken) (hn : s.notices = []) (hx : x.ready s) : Regular (emit x s) := by
  have hrun : SameRun (emit x s) s := SameRun.of_records rfl rfl rfl
  have hq : (emit x s).notices = [x] := by rw [emit, hn]; rfl
  exact ⟨.of_sameRun hrun hs, hq ▸ .guarded x [] (Notice.ready_congr hrun hx) (fun _ hy => absurd hy List.not_mem_nil)⟩

/-! ## The pass -/

theorem isVacant_eq_false {p : Pos} : isVacant s p = false ↔ stateOf s p ≠ .vacant := decide_eq_false_iff_not

/-- With the position in front of n occupied and the run unbroken, every position before n is occupied. -/
theorem below_occupied {n : Pos} (hs : s.RunUnbroken) (hf : ∀ m : Pos, m.val + 1 = n.val → stateOf s m ≠ .vacant) :
    ∀ m, m < n → stateOf s m ≠ .vacant := by
  intro m hm
  have hlt : m.val < n.val := hm
  obtain ⟨k, hk⟩ : ∃ k : Pos, k.val + 1 = n.val := ⟨⟨n.val - 1, by omega⟩, by dsimp only; omega⟩
  by_cases e : m = k
  · exact e ▸ hf k hk
  · exact hs.run m k (by rw [Fin.lt_def]; have := Fin.val_ne_of_ne e; omega) (hf k hk)

theorem assignTaken_regular {n : Pos} (hs : s.RunUnbroken) (hn : s.notices = []) : Regular (assignTaken n s) := by
  cases hf : frontHolds s n with
  | true =>
    have hinactive : s.consist.release.active = false := by
      cases ha : s.consist.release.active with
      | false => rfl
      | true => rw [frontHolds_releasing ha] at hf; cases hf
    rw [assignTaken_front hf]
    have hready : (Notice.handOver n).ready s := ⟨hinactive, below_occupied hs ((frontHolds_iff hinactive).mp hf).2⟩
    exact Regular.of_emit (.of_sameRun (b := s) (SameRun.of_records rfl rfl rfl) hs) hn hready
  | false =>
    rw [assignTaken, hf, if_neg Bool.false_ne_true]
    exact Regular.of_loose (makeOffer_moves _ (Offer.fits_of_tame rfl) (closePass_moves (Moves.refl s))) hs hn

theorem assignMissed_regular {n : Pos} {heard : Bool} (hs : s.RunUnbroken) (hn : s.notices = [])
    (hr : s.consist.release.active = true → s.consist.release.current ≠ none) : Regular (assignMissed n heard s) := by
  unfold assignMissed
  dsimp only
  split
  · exact Regular.of_loose (closePass_moves (Moves.refl s)) hs hn
  · split
    · exact Regular.of_loose (modPass_moves _ (Moves.refl s)) hs hn
    · exact Regular.of_emit (.of_sameRun (b := s) (SameRun.of_records rfl rfl rfl) hs) hn hr

theorem assignEnd_regular {n : Pos} {out : LineOutcome} (hs : s.RunUnbroken) (hn : s.notices = [])
    (hr : s.consist.release.active = true → s.consist.release.current ≠ none) : Regular (assignEnd n out s) := by
  unfold assignEnd
  split
  · split
    · exact assignTaken_regular hs hn
    · exact assignMissed_regular hs hn hr
    · exact assignMissed_regular hs hn hr
    · exact assignMissed_regular hs hn hr
  · exact .of_loose (Moves.refl s) hs hn

theorem stateOf_modRec (p q : Pos) (f : ConsistRecord → ConsistRecord) (s : State) :
    stateOf (modRec p f s) q = if q = p then (f (posRec s p)).state else stateOf s q := by
  unfold stateOf
  rw [show posRec (modRec p f s) q = if q = p then f (posRec s p) else posRec s q from Tab.get_upd ..]
  split <;> rfl

/-- R56: a position occupied, every one before it being so, and no release at work below it. -/
theorem State.RunUnbroken.occupy {p : Pos} {f : ConsistRecord → ConsistRecord} (hf : ∀ r, (f r).state ≠ .vacant) (hs : s.RunUnbroken)
    (hbelow : ∀ m, m < p → stateOf s m ≠ .vacant)
    (hr : s.consist.release.active = true → ∃ q, s.consist.release.current = some q ∧ p ≤ q) : (modRec p f s).RunUnbroken where
  run := fun m q hmq hq => by
    rw [stateOf_modRec]
    split
    · exact hf _
    · by_cases e : q = p
      · exact hbelow m (e ▸ hmq)
      · rw [stateOf_modRec, if_neg e] at hq
        exact hs.run m q hmq hq
  reset := fun ha q x hc hx => by
    obtain ⟨q', hq', hp⟩ := hr ha
    obtain rfl : q' = q := Option.some.inj (hq'.symm.trans hc)
    rw [stateOf_modRec, if_neg (Fin.ne_of_gt (lt_of_le_of_lt hp hx))]
    exact hs.reset ha q' x hc hx
  passed := fun ha hc => by
    obtain ⟨q', hq', -⟩ := hr ha
    exact absurd (hq'.symm.trans hc) nofun

theorem chainEnd_regular {n : Pos} {heard : Bool} (hs : s.RunUnbroken) (hn : s.notices = [])
    (hr : s.consist.release.active = true → s.consist.release.current ≠ none) : Regular (chainEnd n heard s) := by
  unfold chainEnd
  split
  · refine Regular.of_loose (emit_moves _ rfl (Moves.refl _)) (hs.occupy (fun _ => nofun) (fun m hm => absurd hm (Fin.not_lt_zero m))
      fun ha => ?_) hn
    obtain ⟨q, hq⟩ := Option.ne_none_iff_exists'.mp (hr ha)
    exact ⟨q, hq, Fin.zero_le q⟩
  · exact .of_loose (Moves.refl s) hs hn

theorem handOver_regular {n : Pos} (hs : s.RunUnbroken) (hn : s.notices = []) (ha : s.consist.release.active = false)
    (hbelow : ∀ m, m < n → stateOf s m ≠ .vacant) : Regular (handOver n s) := by
  unfold handOver
  split
  · exact Regular.of_loose (startIdent_moves n nofun (Moves.refl _))
      (hs.occupy (fun _ => nofun) hbelow fun h => absurd (ha.symm.trans h) Bool.false_ne_true) hn
  · exact .of_loose (Moves.refl s) hs hn

/-! ## A release -/

/-- R175: the release record changed, with every position above the one it works on VACANT. -/
theorem State.RunUnbroken.releasing {f : ReleaseRecord → ReleaseRecord} (hs : s.RunUnbroken)
    (hr : ∀ q x, (f s.consist.release).current = some q → q < x → stateOf s x = .vacant)
    (hp : (f s.consist.release).active = true → (f s.consist.release).current = none → ∀ x, stateOf s x = .vacant) :
    (modRelease f s).RunUnbroken :=
  ⟨hs.run, fun _ => hr, hp⟩

/-- R177: a release that completes is over. -/
theorem completeRelease_regular (hs : s.RunUnbroken) (hn : s.notices = []) : Regular (completeRelease s) := by
  have hdone : (modRelease (fun _ => {}) s).RunUnbroken := hs.releasing nofun nofun
  have hmoves : Moves .loose (if s.consist.release.replyOwed && decide (handedCode s = some 23)
      then answer .ok [] (modRelease (fun _ => {}) s) else modRelease (fun _ => {}) s) (modRelease (fun _ => {}) s) := by
    split
    · exact answer_moves _ _ (Moves.refl _)
    · exact Moves.refl _
  unfold completeRelease
  dsimp only
  split
  · exact Regular.of_loose (emit_moves _ rfl hmoves) hdone hn
  · exact Regular.of_loose hmoves hdone hn

theorem highestOccupied_above {q : Pos} (h : highestOccupied s = some q) (x : Pos) (hx : q < x) : stateOf s x = .vacant := by
  obtain ⟨-, as, bs, hl, has⟩ := List.find?_eq_some_iff_append.mp h
  have hmem : x ∈ as ++ q :: bs := hl ▸ (by decide : ∀ y : Pos, y ∈ ([3, 2, 1, 0] : List Pos)) x
  have hdown : (as ++ q :: bs).Pairwise (· > ·) := hl ▸ by decide
  obtain hx' | hx' := List.mem_append.mp hmem
  · exact of_decide_eq_true ((Bool.not_not _).symm.trans (has x hx'))
  · obtain rfl | hx' := List.mem_cons.mp hx'
    · exact absurd hx (lt_irrefl _)
    · exact absurd hx (lt_asymm ((List.pairwise_cons.mp (List.pairwise_append.mp hdown).2.1).1 x hx'))

theorem highestOccupied_none (h : highestOccupied s = none) (x : Pos) : stateOf s x = .vacant := by
  have hx := List.find?_eq_none.mp h x (by revert x; decide)
  exact not_not.mp fun hv => hx (congrArg not (isVacant_eq_false.mpr hv))

theorem releaseRequest_regular {p : Pos} (hs : s.RunUnbroken) (hn : s.notices = []) : Regular (releaseRequest p s) := by
  unfold releaseRequest
  split
  · split
    · exact Regular.of_loose (abandonRecovery_moves (modRelease_moves _ (fun _ => ⟨rfl, rfl⟩) (Moves.refl s))) hs hn
    · exact .of_loose (Moves.refl s) hs hn
  · split
    · exact Regular.of_loose (emit_moves _ rfl (abandonRecovery_moves (Moves.refl _)))
        (hs.releasing (fun _ x hq => highestOccupied_above hq x) fun _ => highestOccupied_none) hn
    · exact completeRelease_regular hs hn

/-- With q VACANT and every position above it so, every position above the one before q is VACANT. -/
theorem vacant_above_before {q : Pos} (hq : stateOf s q = .vacant) (habove : ∀ x, q < x → stateOf s x = .vacant) :
    (∀ m x, posBefore q = some m → m < x → stateOf s x = .vacant) ∧ (posBefore q = none → ∀ x, stateOf s x = .vacant) := by
  have hbefore : ∀ q m x : Pos, posBefore q = some m → m < x → x = q ∨ q < x := by decide
  have hfirst : ∀ q x : Pos, posBefore q = none → x = q ∨ q < x := by decide
  have hle : ∀ x, x = q ∨ q < x → stateOf s x = .vacant := fun x hx => hx.elim (fun e => e ▸ hq) (habove x)
  exact ⟨fun m x hm hx => hle x (hbefore q m x hm hx), fun hm x => hle x (hfirst q x hm)⟩

theorem releaseWalk_regular (hs : s.RunUnbroken) (hn : s.notices = []) : Regular (releaseWalk s) := by
  unfold releaseWalk
  dsimp only
  split
  · rename_i hgo
    obtain ⟨ha, -⟩ := Bool.and_eq_true_iff.mp hgo
    split
    · rename_i q l hc hl
      split
      · exact completeRelease_regular hs hn
      · split
        · rename_i hv
          obtain ⟨h, h'⟩ := vacant_above_before hv fun x => hs.reset ha q x hc
          exact Regular.of_loose (emit_moves _ rfl (Moves.refl _)) (hs.releasing h fun _ => h') hn
        · exact Regular.of_emit hs hn ⟨ha, hc⟩
        · exact Regular.of_loose (makeOffer_moves _ (Offer.fits_of_valid (releaseOffer_valid _))
            (modRelease_moves _ (fun _ => ⟨rfl, rfl⟩) (Moves.refl s))) hs hn
    · exact completeRelease_regular hs hn
  · exact .of_loose (Moves.refl s) hs hn

theorem releaseEnd_regular {q : Pos} (hs : s.RunUnbroken) (hn : s.notices = []) : Regular (releaseEnd q s) := by
  unfold releaseEnd
  split
  · rename_i h
    obtain ⟨ha, hc⟩ := Bool.and_eq_true_iff.mp h
    exact Regular.of_emit hs hn ⟨ha, of_decide_eq_true hc⟩
  · exact .of_loose (Moves.refl s) hs hn

/-- R174: the highest position reset, the release goes on at the one before it. -/
theorem State.RunUnbroken.vacate {q : Pos} (hs : s.RunUnbroken) (ha : s.consist.release.active = true)
    (hc : s.consist.release.current = some q) :
    (modRelease (fun r => { r with current := posBefore q, phase := none }) (modRec q (fun _ => {}) s)).RunUnbroken := by
  have hstate : ∀ x, stateOf (modRec q (fun _ => {}) s) x = if x = q then .vacant else stateOf s x := fun x => stateOf_modRec ..
  have habove : ∀ x, q < x → stateOf (modRec q (fun _ => {}) s) x = .vacant := fun x hx => by
    rw [hstate, if_neg (Fin.ne_of_gt hx)]
    exact hs.reset ha q x hc hx
  obtain ⟨h, h'⟩ := vacant_above_before (by rw [hstate, if_pos rfl]) habove
  refine ⟨fun m x hmx hx => ?_, fun _ => h, fun _ => h'⟩
  have hxq : x < q := lt_of_not_ge fun hle => hx ((lt_or_eq_of_le hle).elim (habove x) fun e => e ▸ (hstate q).trans (if_pos rfl))
  replace hx : stateOf (modRec q (fun _ => {}) s) x ≠ .vacant := hx
  rw [hstate, if_neg (Fin.ne_of_lt hxq)] at hx
  show stateOf (modRec q (fun _ => {}) s) m ≠ .vacant
  rw [hstate, if_neg (Fin.ne_of_lt (lt_trans hmx hxq))]
  exact hs.run m x hmx hx

theorem resetPosition_regular {q : Pos} (hs : s.RunUnbroken) (hn : s.notices = []) (ha : s.consist.release.active = true)
    (hc : s.consist.release.current = some q) : Regular (resetPosition q s) := by
  have hmoves : Moves .loose (resetPosition q s) (modRelease (fun r => { r with current := posBefore q, phase := none })
      (withdrawWhere (belongsTo q) (modStream q (fun _ => {}) (modRec q (fun _ => {}) s)))) :=
    emitAll_moves _ (by simp [Reach.allows]) (markDiscard_moves q (setUnheard_moves q 0 (Moves.refl _)))
  exact Regular.of_loose hmoves (.of_sameRun (b := modRelease (fun r => { r with current := posBefore q, phase := none })
    (modRec q (fun _ => {}) s)) (SameRun.of_records rfl rfl rfl) (hs.vacate ha hc)) hn

/-! ## One notice, and all of them -/

theorem takeLineEnd_regular {o : Offer} {out : LineOutcome} {data : Option Word} (hs : s.RunUnbroken) (hn : s.notices = [])
    (hr : (Notice.lineEnd o out data).ready s) : Regular (takeLineEnd o out data s) := by
  by_cases ho : o.why.tame = true
  · exact .of_loose (takeLineEnd_tame out data ho (Moves.refl s)) hs hn
  · unfold takeLineEnd
    cases hw : o.why with
    | enumAssign n => exact assignEnd_regular hs hn (hr.resolve_left (by rw [hw]; exact Bool.false_ne_true))
    | recoveryAssign p => exact .of_loose (recoveryAssignEnd_moves p out nofun (Moves.refl s)) hs hn
    | recoveryGet p => exact .of_loose (recoveryGetEnd_moves p out nofun (Moves.refl s)) hs hn
    | positionRelease p => exact releaseEnd_regular hs hn
    | identWord p a => exact .of_loose (identEnd_moves p a out data nofun (Moves.refl s)) hs hn
    | streamWord p a => exact .of_steps (streamEnd_steps p a out data fun _ => Moves.refl s) hs hn
    | _ => rw [hw] at ho; exact absurd rfl ho

theorem runNotice_regular {x : Notice} (hs : s.RunUnbroken) (hn : s.notices = []) (hx : x.ready s) : Regular (runNotice x s) := by
  have hadmitted : Reach.tame.admits s x → Regular (runNotice x s) := fun h => by
    obtain ⟨hrun, hk⟩ := runNotice_admitted h (by rw [hn]; exact fun _ hy => absurd hy List.not_mem_nil)
    exact .of_admitted hrun hk hs
  by_cases ht : x.tame = true
  · exact hadmitted (Or.inl ht)
  · cases x with
    | enterExercising p => exact hadmitted (Or.inr ⟨p, rfl, hx⟩)
    | chainEnd n heard => exact chainEnd_regular hs hn hx
    | handOver n => exact handOver_regular hs hn hx.1 hx.2
    | identVerdict p v before => exact .of_steps (identVerdict_steps p v before fun _ => Moves.refl s) hs hn
    | releaseRequest p => exact releaseRequest_regular hs hn
    | releaseWalk => exact releaseWalk_regular hs hn
    | resetPosition q => exact resetPosition_regular hs hn hx.1 hx.2
    | lineEnd o out data => exact takeLineEnd_regular hs hn hx
    | _ => exact absurd rfl ht

theorem drain_unbroken (k : Nat) (ns : List Notice) (hs : s.RunUnbroken) (hn : s.notices = []) (hl : Lined s ns) :
    (drain k ns s).RunUnbroken := by
  induction k generalizing ns s with
  | zero => exact .of_sameRun (b := s) (SameRun.of_records rfl rfl rfl) hs
  | succ k ih =>
    have hgo : ∀ (r : State) (ns : List Notice), r.RunUnbroken → Lined r (r.notices ++ ns) →
        (drain k (r.notices ++ ns) { r with notices := [] }).RunUnbroken := by
      intro r ns hr hl
      have hsame : SameRun ({ r with notices := [] } : State) r := SameRun.of_records rfl rfl rfl
      exact ih (s := { r with notices := [] }) _ (.of_sameRun hsame hr) rfl (hl.congr hsame)
    have hsame : SameRun ({ s with notices := [] } : State) s := SameRun.of_records rfl rfl rfl
    have hempty : ({ s with notices := [] } : State).RunUnbroken := .of_sameRun hsame hs
    cases hl with
    | nil => exact hs
    | guarded x ns hx hns =>
      have hr := runNotice_regular hempty rfl (Notice.ready_congr hsame hx)
      exact hgo _ ns hr.unbroken (hr.lined.append_loose hns)
    | tame x ns hx hns =>
      obtain ⟨hrun, hk⟩ := runNotice_admitted (admits_setNotices [] hx) fun y hy => absurd hy List.not_mem_nil
      have hrun' := hrun.trans hsame
      exact hgo _ ns (.of_sameRun hrun' hs) (Lined.tame_append hk (hns.congr hrun'))

theorem settle_unbroken (h : Regular s) : (settle s).RunUnbroken := by
  have hsame : SameRun ({ s with notices := [] } : State) s := SameRun.of_records rfl rfl rfl
  unfold settle
  exact drain_unbroken _ _ (.of_sameRun hsame h.unbroken) rfl (h.lined.congr hsame)

/-! ## The commands that ask for a release -/

theorem askRelease_loose (p : Pos) (s : State) : Moves .loose (askRelease p s) s := by
  unfold askRelease
  split
  · exact answer_moves _ _ (Moves.refl s)
  · exact emit_moves _ rfl (holdHead_moves (modRelease_moves _ (fun _ => ⟨rfl, rfl⟩) (Moves.refl s)))

theorem coupleFall_loose (s : State) : Moves .loose (coupleFall s) s :=
  emit_moves _ rfl (suspendChecks_moves (endPass_moves (modConsist_moves _ rfl rfl rfl (Moves.refl s))))

theorem advance_unbroken (d : Nat) (hs : s.RunUnbroken) : (advance d s).RunUnbroken :=
  .of_sameRun ((advance_moves (still := .tame) d (Moves.refl s)).run nofun) hs

theorem timer_unbroken {body : State → State} (hb : ∀ d, Regular (body (advance d s))) (hs : s.RunUnbroken) (t : Option Time) :
    (atMoment t (fun s => settle (body s)) s).RunUnbroken := by
  cases t with
  | none => exact hs
  | some t => exact settle_unbroken (hb _)

theorem exec_release_unbroken {c : Instr} (hc : asksRelease c = true) (hn : s.notices = []) (hs : s.RunUnbroken)
    (h : exec c s = .next t) : t.RunUnbroken := by
  cases c
  case releasePosition =>
    cases h
    refine settle_unbroken (.of_loose (serve_moves 23 1 (fun args x => ?_) (Moves.refl s)) hs hn)
    split
    · exact askRelease_loose _ x
    · exact answer_moves _ _ (Moves.refl x)
  case lostTimeout p =>
    cases h
    split
    · exact settle_unbroken (releaseRequest_regular (advance_unbroken _ hs) hn)
    · exact hs
  case couplingFall =>
    cases h
    exact timer_unbroken (fun d => .of_loose (coupleFall_loose _) (advance_unbroken d hs) hn) hs _
  all_goals cases hc

/-! ## The commands that end a transaction -/

/-- With a release that works on no position, no ASSIGN of a pass ends. -/
def State.PassSpared (s : State) : Prop :=
  s.consist.release.active = true → s.consist.release.current = none →
    ∀ fl n, s.line.flight = some fl → fl.offer.why ≠ .enumAssign n

theorem endTransaction_regular (out : LineOutcome) (data : Option Word) (service : Bool) (hs : s.RunUnbroken) (hn : s.notices = [])
    (hp : s.PassSpared) : Regular (endTransaction out data service s) := by
  obtain h | ⟨fl, ns, u, hf, he, hu, hns⟩ := endTransaction_cases out data service s
  · exact .of_loose (h .loose) hs hn
  · have hrun : SameRun u s := (hu .tame).run nofun
    have hkept : ∀ x ∈ u.notices, x.loose = true :=
      (hu .loose).kept (by rw [hn]; exact fun _ hx => absurd hx List.not_mem_nil)
    have hready : (Notice.lineEnd fl.offer out data).ready s := by
      by_cases ha : s.consist.release.active = true ∧ s.consist.release.current = none
      · left
        cases hw : fl.offer.why with
        | enumAssign n => exact absurd hw (hp ha.1 ha.2 fl n hf)
        | _ => rfl
      · exact Or.inr fun h h' => ha ⟨h, h'⟩
    have hsame : SameRun (emitAll (.lineEnd fl.offer out data :: ns) u) s :=
      SameRun.trans (b := u) (SameRun.of_records rfl rfl rfl) hrun
    have hadm : ∀ y ∈ u.notices, Reach.tame.admits (emitAll (.lineEnd fl.offer out data :: ns) u) y := fun y hy =>
      Reach.admits_congr (b := u) (fun _ => SameRun.of_records rfl rfl rfl)
        ((hu .tame).kept (by rw [hn]; exact fun _ hx => absurd hx List.not_mem_nil) y hy)
    rw [he]
    exact ⟨.of_sameRun hsame hs, Lined.tame_append hadm (.guarded _ _ (Notice.ready_congr hsame hready)
      fun y hy => Reach.admits_of_fits (r := .loose) (s := u) (hns .loose y hy))⟩

theorem takeReply_unbroken (fl : Flight) (r : Reply) (hs : s.RunUnbroken) (hn : s.notices = []) (hp : s.PassSpared) :
    (takeReply fl r s).RunUnbroken := by
  have hreply : ∀ op out data, (replyData op out data s).2.RunUnbroken ∧ (replyData op out data s).2.notices = []
      ∧ (replyData op out data s).2.PassSpared := fun op out data => by
    unfold replyData
    split
    · exact ⟨.of_sameRun (b := s) (SameRun.of_records rfl rfl rfl) hs, hn, hp⟩
    · exact ⟨hs, hn, hp⟩
  obtain ⟨h, h', h''⟩ := hreply fl.offer.op (classify r).1 (classify r).2
  exact settle_unbroken (endTransaction_regular _ _ _ h h' h'')

/-! ## The resets -/

/-- With every position VACANT and no release at work the run is empty. -/
theorem State.RunUnbroken.of_vacant (ht : s.consist.table = Tab.fill {}) (ha : s.consist.release.active = false) : s.RunUnbroken := by
  have hstate : ∀ p, stateOf s p = .vacant := fun p => by rw [stateOf, posRec, ht, Tab.get_fill]
  exact ⟨fun _ q _ hq => absurd (hstate q) hq, fun h => absurd (ha.symm.trans h) Bool.false_ne_true, fun _ _ => hstate⟩

theorem resetNow_regular (straps : Fin 4) (s : State) : Regular (resetNow straps s) :=
  .of_loose (resetNow_moves straps s) (.of_vacant rfl rfl) rfl

theorem exec_ends_unbroken {c : Instr} (hc : endsOrResets c = true) (hn : s.notices = []) (hs : s.RunUnbroken)
    (hp : (c = .replyDeadline ∨ ∃ r, c = .transactionEnd r) → s.PassSpared) (h : exec c s = .next t) : t.RunUnbroken := by
  cases c
  case powerOnReset pins cut =>
    cases h
    exact settle_unbroken (.of_loose (assertIf_moves _ _ (assertIf_moves _ _ (Moves.refl _))) (.of_vacant rfl rfl) rfl)
  case deviceReset straps =>
    cases h
    exact timer_unbroken (fun d => resetNow_regular straps _) hs _
  case transactionEnd r =>
    cases h
    split
    · split
      · exact takeReply_unbroken _ r hs hn (hp (Or.inr ⟨r, rfl⟩))
      · exact hs
    · exact hs
  case replyDeadline =>
    cases h
    have hspared : ∀ d, (advance d s).PassSpared := fun _ => hp (Or.inl rfl)
    exact timer_unbroken (fun d => endTransaction_regular _ _ _ (advance_unbroken d hs) hn (hspared d)) hs _
  case pollWindowEnd slots =>
    exact .of_sameRun ((exec_poll_orderly h).run (by rw [hn]; exact fun _ hx => absurd hx List.not_mem_nil)).1 hs
  all_goals cases hc

/-- Settles O7: the queue of every command is `Lined`, so that no notice of it breaks the run when its turn comes. -/
theorem everyStepKeepsRun : Obligations.EveryStepKeepsRun := by
  unfold Obligations.EveryStepKeepsRun
  intro c s t hn hs hp h
  cases hc : endsOrResets c with
  | true => exact exec_ends_unbroken hc hn hs (fun e ha hcur => hp ha hcur e) h
  | false =>
    cases hr : asksRelease c with
    | true => exact exec_release_unbroken hr hn hs h
    | false => exact .of_sameRun ((exec_orderly hc hr h).run (by rw [hn]; exact fun _ hx => absurd hx List.not_mem_nil)).1 hs

end Sys2Proof.Machine
end
